-- ==== Sys2Proof/Word.lean ====
section
/-! DEFINITION. The word types of the KN9602 and their plainest arithmetic (spec/00_scope.md R4, R6). -/

namespace Sys2Proof

/-- One byte. -/
abbrev Byte := BitVec 8
/-- A register of 32 bits (R27). -/
abbrev W32 := BitVec 32
/-- A pair, an address or a PC of 64 bits (R27, R88). -/
abbrev W64 := BitVec 64

/-- The field x<h:l> of a natural number, `w` bits wide from bit `l` (R4). -/
def natField (x l w : Nat) : Nat := (x >>> l) % 2 ^ w

/-- The single bit x<n> of a natural number (R4). -/
def natBit (x n : Nat) : Bool := x.testBit n

/-- 0 or 1 as a number. -/
def boolNat (b : Bool) : Nat := if b then 1 else 0

/-- ceil(a / b), with 0 for b = 0. -/
def ceilDiv (a b : Nat) : Nat := if b = 0 then 0 else (a + b - 1) / b

/-- Lookup in a sparse table, with a default. -/
def assocGet {κ α : Type} [DecidableEq κ] (dflt : α) (k : κ) : List (κ × α) → α
  | [] => dflt
  | (k', v) :: rest => if k' = k then v else assocGet dflt k rest

/-- Replacement in a sparse table. -/
def assocSet {κ α : Type} [DecidableEq κ] (k : κ) (v : α) : List (κ × α) → List (κ × α)
  | [] => [(k, v)]
  | (k', v') :: rest => if k' = k then (k, v) :: rest else (k', v') :: assocSet k v rest

/-- The first element that a test accepts, with its place. -/
def findIdxVal {α : Type} (p : α → Bool) : List α → Option (Nat × α)
  | [] => none
  | x :: xs => if p x then some (0, x) else (findIdxVal p xs).map (fun r => (r.1 + 1, r.2))

end Sys2Proof
end

