-- ==== Sys2Proof/Syntax.lean ====
section
/-! DEFINITION. The syntax of Dexdar: types, rounding modes, scopes, instruction fields, and one constructor for
every row of spec/opcode_table.json: the instructions first, each with the fields of its words (spec/12_encoding.md
R183 to R200), then the happenings of the device, the host and the outside world. -/

namespace Sys2Proof

/-- The type codes of R195, in code order 0x00 to 0x10. -/
inductive Ty where
  | b32 | b64 | i8 | i16 | i32 | i64 | n8 | n16 | n32 | n64 | f16 | f32 | f64 | li16 | li32 | g6 | g8
  deriving DecidableEq, Repr

/-- The rounding modes RND 00 to 11 of R90. -/
inductive Rnd where
  | nearestEven | towardZero | towardPositive | towardNegative
  deriving DecidableEq, Repr

/-- The scopes 0 to 6 of R165. -/
inductive Scope where
  | thread | group | team | cluster | die | package | system
  deriving DecidableEq, Repr

/-- The four lengths of R183: LEN 00, 01, 10, 11. -/
inductive Form where
  | base | ext | lit | extLit
  deriving DecidableEq, Repr

/-- A guard G (R191): bit 3 inverts, bits 2:0 name the predicate. -/
structure Guard where
  invert : Bool
  pred   : BitVec 3
  deriving DecidableEq, Repr

/-- The fields of an instruction's words (R183 to R187). Under LEN 00 and 10 the fields of words 1 and 2 hold
what R186 implies, and `b` holds B7. `low` is bits 19:0 of word 2: IMM, or KWIN and KOFF when `kw` is set. -/
structure Fields where
  form  : Form
  d     : BitVec 8
  a     : BitVec 8
  b     : BitVec 8
  c     : BitVec 8
  xop   : BitVec 7
  guard : Guard
  la    : BitVec 4
  set   : BitVec 3
  ty    : Ty
  wait  : BitVec 6
  rnd   : Rnd
  scope : Scope
  kw    : Bool
  low   : BitVec 20
  lit   : W64
  deriving DecidableEq, Repr

/-- One half of a PAIR (R200). -/
structure Half where
  op : BitVec 7
  d  : BitVec 8
  a  : BitVec 8
  b  : BitVec 8
  deriving DecidableEq, Repr

/-- A core by its die, cluster site and number (R9, R12, R13). -/
structure CoreId where
  die  : Nat
  site : Nat
  core : Nat
  deriving DecidableEq, Repr

/-- A thread by its core, context and slot (R27, R32). -/
structure TRef where
  core : CoreId
  ctx  : Nat
  slot : Nat
  deriving DecidableEq, Repr

/-- A group by its core, context and group slot (R32). -/
structure GRef where
  core  : CoreId
  ctx   : Nat
  group : Nat
  deriving DecidableEq, Repr

/-- The atomic memory operations of the RVA23 A extension (R176). -/
inductive AmoOp where
  | swap | add | and | or | xor | min | max | minu | maxu
  deriving DecidableEq, Repr

/-- What an inbound PCIe or Ewerlink request does (R426, R431). -/
inductive Inbound where
  | read (size : Nat)
  | write (bytes : List Byte)
  | atomic (size : Nat) (op : AmoOp) (value : W64)
  /-- An ATOM of another module's thread (R278, R430): type, AOP, rounding, operands. -/
  | device (ty : Ty) (aop : Nat) (rnd : Rnd) (b c : W64)
  deriving DecidableEq, Repr

/-- Where an error of R349 lies. -/
inductive SoftError where
  /-- A corrected or retried error, reported to a context. -/
  | corrected (ctx : Nat)
  /-- A context bank's register file or group state. -/
  | bank (ctx : Nat)
  /-- A 128-byte line of module memory or of the Silt, by its storage address. -/
  | line (storage : Nat)
  /-- A line that a core's L1 holds for a context, by its intermediate address. -/
  | l1Line (core : CoreId) (ctx line : Nat)
  /-- A 128-byte line of a plot. -/
  | plotLine (plot line : Nat)
  /-- A 128-byte line of a tile slot. -/
  | tileLine (die site slot line : Nat)
  /-- Die-level state, or the seam link after retries. -/
  | die (die : Nat)
  deriving DecidableEq, Repr

/-- One constructor for each row of spec/opcode_table.json: the instructions, then what the device does by itself, then what
the outside world does. -/
inductive Instr where
  /-- IADD_BASE (R217): Base-form integer add of A and B into D, per active lane, default type .i32. -/
  | iaddBase (d a : BitVec 8) (b : BitVec 7)
  /-- IADD_EXTENDED (R217): Extended or literal form of integer add, with type, saturation, immediate, guard and scoreboard fields. -/
  | iaddExtended (x : Fields)
  /-- ISUB_BASE (R217): Base-form integer subtract A minus B into D. -/
  | isubBase (d a : BitVec 8) (b : BitVec 7)
  /-- ISUB_EXTENDED (R217): Extended or literal form of integer subtract. -/
  | isubExtended (x : Fields)
  /-- IMUL_BASE (R217): Base-form integer multiply, low half of the product. -/
  | imulBase (d a : BitVec 8) (b : BitVec 7)
  /-- IMUL_EXTENDED (R217): Extended or literal form of integer multiply. -/
  | imulExtended (x : Fields)
  /-- IMULH_BASE (R217): Base-form integer multiply, high half of the 2w-bit product. -/
  | imulhBase (d a : BitVec 8) (b : BitVec 7)
  /-- IMULH_EXTENDED (R217): Extended or literal form of high-half multiply. -/
  | imulhExtended (x : Fields)
  /-- IMAD_BASE (R217): Base-form integer multiply-add A times B plus C, with C equal to D. -/
  | imadBase (d a : BitVec 8) (b : BitVec 7)
  /-- IMAD_EXTENDED (R217): Extended or literal form of integer multiply-add. -/
  | imadExtended (x : Fields)
  /-- IDIV (R220): Integer divide truncating toward zero, with defined results for zero divisor and overflow. -/
  | idiv (x : Fields)
  /-- IREM (R220): Integer remainder taking the sign of the dividend. -/
  | irem (x : Fields)
  /-- IMIN_BASE (R217): Base-form integer minimum. -/
  | iminBase (d a : BitVec 8) (b : BitVec 7)
  /-- IMIN_EXTENDED (R217): Extended or literal form of integer minimum. -/
  | iminExtended (x : Fields)
  /-- IMAX_BASE (R217): Base-form integer maximum. -/
  | imaxBase (d a : BitVec 8) (b : BitVec 7)
  /-- IMAX_EXTENDED (R217): Extended or literal form of integer maximum. -/
  | imaxExtended (x : Fields)
  /-- IABS_BASE (R218): Base-form integer absolute value. -/
  | iabsBase (d a : BitVec 8)
  /-- IABS_EXTENDED (R218): Extended form of integer absolute value, optionally saturating. -/
  | iabsExtended (x : Fields)
  /-- INEG_BASE (R218): Base-form integer negation. -/
  | inegBase (d a : BitVec 8)
  /-- INEG_EXTENDED (R218): Extended form of integer negation, optionally saturating. -/
  | inegExtended (x : Fields)
  /-- ICMP (R219): Integer compare writing a predicate per lane. -/
  | icmp (x : Fields)
  /-- ISEL (R219): Select A or B per lane by predicate C. -/
  | isel (x : Fields)
  /-- ADDMIN_BASE (R217): Base-form exact A plus B, then minimum with C equal to D. -/
  | addminBase (d a : BitVec 8) (b : BitVec 7)
  /-- ADDMIN_EXTENDED (R217): Extended or literal form of add-then-minimum. -/
  | addminExtended (x : Fields)
  /-- LEA_BASE (R221): Base-form 64-bit address formation from a pair and a 32-bit index. -/
  | leaBase (d a : BitVec 8) (b : BitVec 7)
  /-- LEA_EXTENDED (R221): Extended or literal form of LEA with a shift of the index. -/
  | leaExtended (x : Fields)
  /-- AND_BASE (R222): Base-form bitwise AND. -/
  | andBase (d a : BitVec 8) (b : BitVec 7)
  /-- AND_EXTENDED (R222): Extended or literal form of bitwise AND. -/
  | andExtended (x : Fields)
  /-- OR_BASE (R222): Base-form bitwise OR. -/
  | orBase (d a : BitVec 8) (b : BitVec 7)
  /-- OR_EXTENDED (R222): Extended or literal form of bitwise OR. -/
  | orExtended (x : Fields)
  /-- XOR_BASE (R222): Base-form bitwise exclusive OR. -/
  | xorBase (d a : BitVec 8) (b : BitVec 7)
  /-- XOR_EXTENDED (R222): Extended or literal form of bitwise exclusive OR. -/
  | xorExtended (x : Fields)
  /-- ANDN_BASE (R222): Base-form A AND NOT B. -/
  | andnBase (d a : BitVec 8) (b : BitVec 7)
  /-- ANDN_EXTENDED (R222): Extended or literal form of A AND NOT B. -/
  | andnExtended (x : Fields)
  /-- SHL_BASE (R223): Base-form left shift. -/
  | shlBase (d a : BitVec 8) (b : BitVec 7)
  /-- SHL_EXTENDED (R223): Extended or literal form of left shift. -/
  | shlExtended (x : Fields)
  /-- SHR_BASE (R223): Base-form logical right shift. -/
  | shrBase (d a : BitVec 8) (b : BitVec 7)
  /-- SHR_EXTENDED (R223): Extended or literal form of logical right shift. -/
  | shrExtended (x : Fields)
  /-- SRA_BASE (R223): Base-form arithmetic right shift. -/
  | sraBase (d a : BitVec 8) (b : BitVec 7)
  /-- SRA_EXTENDED (R223): Extended or literal form of arithmetic right shift. -/
  | sraExtended (x : Fields)
  /-- ROT_BASE (R223): Base-form left rotation. -/
  | rotBase (d a : BitVec 8) (b : BitVec 7)
  /-- ROT_EXTENDED (R223): Extended or literal form of left rotation. -/
  | rotExtended (x : Fields)
  /-- BFX_BASE (R224): Base-form bit-field extract. -/
  | bfxBase (d a : BitVec 8) (b : BitVec 7)
  /-- BFX_EXTENDED (R224): Extended or literal form of bit-field extract. -/
  | bfxExtended (x : Fields)
  /-- BFI_BASE (R224): Base-form bit-field insert into D. -/
  | bfiBase (d a : BitVec 8) (b : BitVec 7)
  /-- BFI_EXTENDED (R224): Extended or literal form of bit-field insert. -/
  | bfiExtended (x : Fields)
  /-- POPC_BASE (R225): Base-form population count. -/
  | popcBase (d a : BitVec 8)
  /-- POPC_EXTENDED (R225): Extended form of population count. -/
  | popcExtended (x : Fields)
  /-- CLZ_BASE (R225): Base-form count of leading zeros. -/
  | clzBase (d a : BitVec 8)
  /-- CLZ_EXTENDED (R225): Extended form of count of leading zeros. -/
  | clzExtended (x : Fields)
  /-- BREV_BASE (R225): Base-form bit reversal. -/
  | brevBase (d a : BitVec 8)
  /-- BREV_EXTENDED (R225): Extended form of bit reversal. -/
  | brevExtended (x : Fields)
  /-- BPERM_BASE (R226): Base-form byte permute with sign replication. -/
  | bpermBase (d a : BitVec 8) (b : BitVec 7)
  /-- BPERM_EXTENDED (R226): Extended or literal form of byte permute. -/
  | bpermExtended (x : Fields)
  /-- BOOL3 (R227): Three-input bitwise truth table from IMM. -/
  | bool3 (x : Fields)
  /-- MOV_BASE (R222): Base-form register copy of B into D. -/
  | movBase (d : BitVec 8) (b : BitVec 7)
  /-- MOV_EXTENDED (R222): Extended or literal form of MOV, including immediates and 64-bit literals. -/
  | movExtended (x : Fields)
  /-- FADD_BASE (R228): Base-form IEEE add, one rounding. -/
  | faddBase (d a : BitVec 8) (b : BitVec 7)
  /-- FADD_EXTENDED (R228): Extended or literal form of IEEE add with modifiers and rounding mode. -/
  | faddExtended (x : Fields)
  /-- FSUB_BASE (R228): Base-form IEEE subtract. -/
  | fsubBase (d a : BitVec 8) (b : BitVec 7)
  /-- FSUB_EXTENDED (R228): Extended or literal form of IEEE subtract. -/
  | fsubExtended (x : Fields)
  /-- FMUL_BASE (R228): Base-form IEEE multiply. -/
  | fmulBase (d a : BitVec 8) (b : BitVec 7)
  /-- FMUL_EXTENDED (R228): Extended or literal form of IEEE multiply. -/
  | fmulExtended (x : Fields)
  /-- FFMA_BASE (R228): Base-form fused multiply-add with C equal to D. -/
  | ffmaBase (d a : BitVec 8) (b : BitVec 7)
  /-- FFMA_EXTENDED (R228): Extended or literal form of fused multiply-add. -/
  | ffmaExtended (x : Fields)
  /-- FMIN_BASE (R229): Base-form IEEE minimumNumber. -/
  | fminBase (d a : BitVec 8) (b : BitVec 7)
  /-- FMIN_EXTENDED (R229): Extended or literal form of IEEE minimum. -/
  | fminExtended (x : Fields)
  /-- FMAX_BASE (R229): Base-form IEEE maximumNumber. -/
  | fmaxBase (d a : BitVec 8) (b : BitVec 7)
  /-- FMAX_EXTENDED (R229): Extended or literal form of IEEE maximum. -/
  | fmaxExtended (x : Fields)
  /-- FCMP (R230): IEEE compare writing a predicate. -/
  | fcmp (x : Fields)
  /-- FDIV (R228): IEEE divide on the divide unit. -/
  | fdiv (x : Fields)
  /-- FSQRT (R228): IEEE square root on the divide unit. -/
  | fsqrt (x : Fields)
  /-- FRND_BASE (R231): Base-form round to integral. -/
  | frndBase (d a : BitVec 8)
  /-- FRND_EXTENDED (R231): Extended form of round to integral. -/
  | frndExtended (x : Fields)
  /-- FCLASS_BASE (R233): Base-form IEEE class mask. -/
  | fclassBase (d a : BitVec 8)
  /-- FCLASS_EXTENDED (R233): Extended form of IEEE class mask. -/
  | fclassExtended (x : Fields)
  /-- FSCALE_BASE (R232): Base-form scale by a power of two. -/
  | fscaleBase (d a : BitVec 8) (b : BitVec 7)
  /-- FSCALE_EXTENDED (R232): Extended or literal form of scale by a power of two. -/
  | fscaleExtended (x : Fields)
  /-- FDOT2_BASE (R234): Base-form two-term binary16 dot product plus binary32 C. -/
  | fdot2Base (d a : BitVec 8) (b : BitVec 7)
  /-- FDOT2_EXTENDED (R234): Extended or literal form of FDOT2. -/
  | fdot2Extended (x : Fields)
  /-- FLERP_BASE (R235): Base-form linear interpolation rounded once. -/
  | flerpBase (d a : BitVec 8) (b : BitVec 7)
  /-- FLERP_EXTENDED (R235): Extended or literal form of linear interpolation. -/
  | flerpExtended (x : Fields)
  /-- FFRAC_BASE (R231): Base-form fractional part. -/
  | ffracBase (d a : BitVec 8)
  /-- FFRAC_EXTENDED (R231): Extended form of fractional part. -/
  | ffracExtended (x : Fields)
  /-- LADD (R243): Level-index add rounded in s-space. -/
  | ladd (x : Fields)
  /-- LSUB (R243): Level-index subtract. -/
  | lsub (x : Fields)
  /-- LMUL (R243): Level-index multiply. -/
  | lmul (x : Fields)
  /-- LDIV (R243): Level-index divide. -/
  | ldiv (x : Fields)
  /-- LCMP (R244): Level-index value compare writing a predicate. -/
  | lcmp (x : Fields)
  /-- LMISC (R245): Level-index reciprocal, negate, absolute value or level description. -/
  | lmisc (x : Fields)
  /-- LEXP (R246): Level-index exponential. -/
  | lexp (x : Fields)
  /-- LLOG (R246): Level-index natural logarithm. -/
  | llog (x : Fields)
  /-- CVT (R248): Conversion between integer and IEEE types. -/
  | cvt (x : Fields)
  /-- LCVT (R250): Conversion into or out of level-index. -/
  | lcvt (x : Fields)
  /-- GCVT (R251): Conversion into or out of grit. -/
  | gcvt (x : Fields)
  /-- PACK6 (R253): Pack the group's 6-bit elements into a contiguous stream. -/
  | pack6 (x : Fields)
  /-- UNPK6 (R253): Unpack a 6-bit stream into per-lane elements. -/
  | unpk6 (x : Fields)
  /-- PKH_BASE (R252): Base-form pack of two binary32 values into binary16 halves. -/
  | pkhBase (d a : BitVec 8) (b : BitVec 7)
  /-- PKH_EXTENDED (R252): Extended form of PKH with rounding mode. -/
  | pkhExtended (x : Fields)
  /-- RAND (R254): Counter-based hash MIX of key and counter, optionally as a unit binary32. -/
  | rand (x : Fields)
  /-- SFU (R255): Special-function evaluation selected by FN on the 16-lane SFU. -/
  | sfu (x : Fields)
  /-- LD (R274): Load from global, plot or private space. -/
  | ld (x : Fields)
  /-- ST (R274): Store to global, plot or private space. -/
  | st (x : Fields)
  /-- LDP (R277): Load from a peer window by operation packet. -/
  | ldp (x : Fields)
  /-- STP (R277): Store to a peer window by operation packet. -/
  | stp (x : Fields)
  /-- LDV (R275): Load of 2, 4 or 8 consecutive registers. -/
  | ldv (x : Fields)
  /-- STV (R275): Store of 2, 4 or 8 consecutive registers. -/
  | stv (x : Fields)
  /-- ATOM (R278): Atomic read-modify-write in global or plot space, returning the old value. -/
  | atom (x : Fields)
  /-- ATOMP (R278): Atomic on a peer window, executed by the home plot unit. -/
  | atomp (x : Fields)
  /-- LDK (R280): Constant-window load through the constant cache. -/
  | ldk (x : Fields)
  /-- FENCE (R281): Stall the thread until earlier accesses complete and, by scope, the lease time wait has passed. -/
  | fence (x : Fields)
  /-- WAIT (R282): Hold the group until the named slots fall to a threshold. -/
  | wait (x : Fields)
  /-- PLOT_OPEN (R285): Open a window on the team's plot to the cluster's other cores. -/
  | plotOpen (x : Fields)
  /-- PLOT_CLOSE (R285): Close a plot window. -/
  | plotClose (x : Fields)
  /-- PLOT_GIVE (R285): Give the team's plot to another team, closing its windows. -/
  | plotGive (x : Fields)
  /-- PLOT_TAKE (R285): Take a plot given to the team. -/
  | plotTake (x : Fields)
  /-- PREF (R283): Prefetch a line into the L1 or the home slice's hot-line array. -/
  | pref (x : Fields)
  /-- CCTL_WBPRIV (R284): Write back every dirty private line of the context in the core's L1. -/
  | cctlWbpriv (x : Fields)
  /-- CCTL_INVL1 (R284): Drop the L1 copy of a line, writing back a dirty private line. -/
  | cctlInvl1 (x : Fields)
  /-- CCTL_INVK (R284): Invalidate the context's constant-cache lines. -/
  | cctlInvk (x : Fields)
  /-- BANKCFG (R287): Request a core SRAM bank mode change and return its status. -/
  | bankcfg (x : Fields)
  /-- SHFL (R260): Read a value from another lane by absolute, step, butterfly or reversal mode. -/
  | shfl (x : Fields)
  /-- LSHF (R261): Shift values along the lanes with fill or rotation. -/
  | lshf (x : Fields)
  /-- VOTE (R262): Combine one predicate across the lanes. -/
  | vote (x : Fields)
  /-- REDUCE (R263): Fixed-tree reduction across participating lanes. -/
  | reduce (x : Fields)
  /-- SCAN (R264): Inclusive or exclusive prefix combination across lanes. -/
  | scan (x : Fields)
  /-- MATCH (R266): Mask of participating lanes holding an equal value. -/
  | matchLanes (x : Fields)
  /-- TMOV_READ (R267): Read a team register into vector registers. -/
  | tmovRead (x : Fields)
  /-- TMOV_WRITE (R267): Write a team register from the highest participating lane. -/
  | tmovWrite (x : Fields)
  /-- BRA_BASE (R305): Unguarded relative branch with a 23-bit word offset. -/
  | braBase (off : BitVec 23)
  /-- BRA_EXTENDED (R305): Guarded relative branch with a 20-bit word offset. -/
  | braExtended (x : Fields)
  /-- JMP (R306): Absolute transfer to a register pair or 64-bit literal target. -/
  | jmp (x : Fields)
  /-- CALL (R307): Relative call writing the link pair. -/
  | call (x : Fields)
  /-- CALL_REG (R307): Call to a register target writing the link pair. -/
  | callReg (x : Fields)
  /-- RET_BASE (R308): Base-form return to the address in a register pair. -/
  | retBase (a : BitVec 8)
  /-- RET_EXTENDED (R308): Extended-form return with guard and control fields. -/
  | retExtended (x : Fields)
  /-- REFORM (R309): File participating threads into the Sieve under (next PC, sort key). -/
  | reform (x : Fields)
  /-- CVG_DECL (R310): Declare membership in a convergence register at the holding core. -/
  | cvgDecl (x : Fields)
  /-- CVG_JOIN (R310): Sign a convergence register and wait for its release. -/
  | cvgJoin (x : Fields)
  /-- EXIT_BASE (R311): Base-form thread exit after draining its accesses. -/
  | exitBase
  /-- EXIT_EXTENDED (R311): Extended-form, guardable thread exit. -/
  | exitExtended (x : Fields)
  /-- YIELD_BASE (R312): Base-form yield of the group's active-set position. -/
  | yieldBase
  /-- YIELD_EXTENDED (R312): Extended-form plain yield. -/
  | yieldExtended (x : Fields)
  /-- YIELD_CHK (R312): Cancellation point: exit CANCELLED if the team's flag is set, else yield. -/
  | yieldChk (x : Fields)
  /-- TALLOC (R362): Bind a handle to a free, zeroed tile slot of the team's pool. -/
  | talloc (x : Fields)
  /-- TFREE (R363): Unbind a handle; its slot drains. -/
  | tfree (x : Fields)
  /-- TGIVE (R364): Hand a held tile to another thread of the team. -/
  | tgive (x : Fields)
  /-- TTAKE (R365): Take a tile given to a participating thread, optionally waiting. -/
  | ttake (x : Fields)
  /-- TLD (R367): Load a whole tile image from global or plot memory. -/
  | tld (x : Fields)
  /-- TST (R367): Store a whole tile image to global or plot memory. -/
  | tst (x : Fields)
  /-- TLDV (R368): Read one fragment of a tile into each lane's register. -/
  | tldv (x : Fields)
  /-- TSTV (R368): Write one fragment per lane into a tile. -/
  | tstv (x : Fields)
  /-- MMA (R371): Group-issued matrix multiply-accumulate into the wide accumulators. -/
  | mma (x : Fields)
  /-- MMA_SIGN (R371): Sign a convergence register; the last signature attempts the operation after a format vote. -/
  | mmaSign (x : Fields)
  /-- MACC (R375): Read out an accumulator element with one final rounding, optionally clearing it. -/
  | macc (x : Fields)
  /-- TSTAT (R376): Read a handle's state word. -/
  | tstat (x : Fields)
  /-- COPY (R290): Tensor copy by descriptor on the cluster's copy engine. -/
  | copy (x : Fields)
  /-- TRACE (R291): Trace one ray per lane through a hierarchy window. -/
  | trace (x : Fields)
  /-- SXDRAW (R292): Hand the Sextant a draw block per lane. -/
  | sxdraw (x : Fields)
  /-- SXPRI (R293): Set the Sextant priority of a cell from a policy team. -/
  | sxpri (x : Fields)
  /-- SILT (R294): Append one 32-byte record per lane to the die's Silt. -/
  | silt (x : Fields)
  /-- ENQ (R295): Post a task record from a device thread and return its validation code. -/
  | enq (x : Fields)
  /-- CANCEL (R296): Cancel a cancel group of the issuing context. -/
  | cancel (x : Fields)
  /-- STAGE_INIT (R297): Initialise a stage ring with N stages. -/
  | stageInit (x : Fields)
  /-- STAGE_ACQP (R56): Acquire a stage to produce, or wait. -/
  | stageAcqp (x : Fields)
  /-- STAGE_ACQC (R56): Acquire a stage to consume, or wait. -/
  | stageAcqc (x : Fields)
  /-- STAGE_RELP (R56): Release a produced stage, marking it full. -/
  | stageRelp (x : Fields)
  /-- STAGE_RELC (R56): Release a consumed stage, marking it empty. -/
  | stageRelc (x : Fields)
  /-- STAGE_ACQUIRE_GRANT (R56): A waiting acquire is granted in arrival order once its stage condition holds. -/
  | stageAcquireGrant (team ring : Nat) (consume : Bool)
  /-- BAR_INIT (R298): Initialise a Meridian barrier with party count and scope. -/
  | barInit (x : Fields)
  /-- BAR_ARRIVE (R299): Arrive at a barrier carrying WMAX and wait. -/
  | barArrive (x : Fields)
  /-- BARRIER_COMPLETE (R174): A barrier completes when all parties have arrived or departed, PEND is 0 and the time condition holds. -/
  | barrierComplete (ctx bar : Nat)
  /-- MOVQ_SEND (R300): Inject one 16-byte flit per lane to a destination set. -/
  | movqSend (x : Fields)
  /-- MOVQ_RECV (R300): Wait for one flit per participating lane on a receive queue. -/
  | movqRecv (x : Fields)
  /-- SREG_READ (R314): Read a special register. -/
  | sregRead (x : Fields)
  /-- SREG_WRITE (R314): Write a special register under its access codes. -/
  | sregWrite (x : Fields)
  /-- TRAP_SOFTWARE (R315): Raise a software trap with a code. -/
  | trapSoftware (x : Fields)
  /-- TRAP_BREAK (R315): Raise a break trap with a code. -/
  | trapBreak (x : Fields)
  /-- SYS_RDSUP (R321): Read a supervisor register. -/
  | sysRdsup (x : Fields)
  /-- SYS_WRSUP (R321): Write a supervisor register. -/
  | sysWrsup (x : Fields)
  /-- SYS_SWAP (R323): Start a shadow bank swap of a core to a named context. -/
  | sysSwap (x : Fields)
  /-- SYS_SHOOT (R324): Shoot down a page from every translation cache and L1. -/
  | sysShoot (x : Fields)
  /-- SYS_TRET (R325): Leave handler mode, resuming at a PC or exiting. -/
  | sysTret (x : Fields)
  /-- NOP_BASE (R316): Base-form null instruction. -/
  | nopBase
  /-- NOP_EXTENDED (R316): Extended-form null instruction with guard, lookahead and wait. -/
  | nopExtended (x : Fields)
  /-- PAIR (R200): Issue two base-form operations on both pipes in one cycle. -/
  | pair (g0 g1 : Guard) (h0 h1 : Half)
  /-- POWER_ON_RESET (R435): Supply rise resets every register and SRAM and runs the boot sequence. -/
  | powerOnReset
  /-- RESET_GO (R435): A write of RESET.GO causes a module reset. -/
  | resetGo
  /-- SEC_ATTEST (R443): SECCMD OP 2 starts an attestation over the nonce at SECBUF. -/
  | secAttest
  /-- ATTEST_REPORT_DONE (R443): The signed 704-byte report is written and SECSTAT becomes done. -/
  | attestReportDone
  /-- PILOT_DEQUEUE (R72): Each tick the Pilot dequeues at most one record per die, counting LATE and dropping cancelled records. -/
  | pilotDequeue (die : Nat)
  /-- TEAM_PLACE (R73): The Pilot places one team per tick per die and launches its threads. -/
  | teamPlace (die : Nat)
  /-- CREDIT_RETIRE (R70): A retirement pending on a full credit table completes once an entry frees. -/
  | creditRetire (ctx : Nat)
  /-- SIEVE_DRAW (R43): The Sieve draws threads from a drawable bin into a group slot. -/
  | sieveDraw (core : CoreId)
  /-- THREAD_MOVE (R45): A drawn thread's move completes and it joins its group's issue. -/
  | threadMove (t : TRef)
  /-- BIN_AGE_LIMIT (R43): A bin's age reaches SIEVEAGE.LIMIT and the bin becomes drawable. -/
  | binAgeLimit (core : CoreId) (ctx bin : Nat)
  /-- AUTOMATIC_REFORM (R47): A group's issue counter reaches 4,096 and its waiting threads are filed. -/
  | automaticReform (g : GRef)
  /-- WAITING_CANCEL_EXIT (R59): A thread already waiting at a cancellation point exits the cycle after its flag is set. -/
  | waitingCancelExit (t : TRef)
  /-- ACTIVE_SET_DISPLACE (R78): A pending group ready for 256 cycles displaces the longest active group. -/
  | activeSetDisplace (core : CoreId)
  /-- THROTTLE_WINDOW_END (R79): At each 4,096-cycle window end the load limit and permissions are recomputed. -/
  | throttleWindowEnd (core : CoreId)
  /-- MMA_ACCEPT (R371): An operation that passed its checks obtains a reservation entry and is accepted. -/
  | mmaAccept (op : Nat)
  /-- TILE_PASS_GRANT (R81): The matrix engine grants one tile pass by alternation, saturation, priority and age. -/
  | tilePassGrant (die site : Nat)
  /-- TILE_PASS_COMPLETE (R373): A tile pass finishes adding its products into the accumulator. -/
  | tilePassComplete (die site : Nat)
  /-- PERMIT_REFILL (R84): Each tick the steward refills its main and reserve buckets. -/
  | permitRefill (die : Nat)
  /-- PERMIT_GRANT (R85): A queued power-permit request is granted when its bucket holds its cost. -/
  | permitGrant (die : Nat)
  /-- PAGE_WALK_ANSWER (R131): The walking die answers a page check, filling caches or raising PAGE or PERM. -/
  | pageWalkAnswer (walk : Nat)
  /-- DEFERRED_FAULT_RECORD (R334): A record waiting on a full fault ring is written once an entry frees. -/
  | deferredFaultRecord (ctx : Nat)
  /-- HOME_LOAD (R155): A load or fill is performed at the home slice, granting a lease. -/
  | homeLoad (req : Nat)
  /-- HOME_STORE (R160): A store is performed at its home and acknowledged with W. -/
  | homeStore (req : Nat)
  /-- HOME_ATOMIC (R162): An atomic is performed indivisibly at its home, returning the old value and W. -/
  | homeAtomic (req : Nat)
  /-- LOAD_RETURN (R272): A load's data arrives and is written to the lane's register. -/
  | loadReturn (req : Nat)
  /-- STORE_ACK (R160): A store acknowledgement arrives, updating the L1 copy and WMAX. -/
  | storeAck (req : Nat)
  /-- FENCE_COMPLETE (R165): A stalled FENCE completes once accesses are acknowledged and CHRONO reaches WMAX plus 8. -/
  | fenceComplete (t : TRef)
  /-- MIGRATION_LINE_COPY (R133): The move engine copies one line and advances MIGBOUND, finishing the page after line 511. -/
  | migrationLineCopy (socket : Nat)
  /-- PROMOTION_START (R134): The promotion engine begins promoting a qualifying 2 MiB region. -/
  | promotionStart (socket region : Nat)
  /-- PROMOTION_ABANDON (R134): A promotion interrupted by a shoot-down is abandoned after the current page's copy. -/
  | promotionAbandon (socket : Nat)
  /-- BANK_CHANGE_COMPLETE (R137): A bank mode change finishes its steps and the new code takes effect. -/
  | bankChangeComplete (core : CoreId) (bank : Nat)
  /-- COPY_PART_COMPLETE (R290): A 64 KiB part of a copy is written and leaves PEND. -/
  | copyPartComplete (cmd : Nat)
  /-- ENGINE_COMMAND_COMPLETE (R170): An engine command completes after its writes and release wait, writing its status. -/
  | engineCommandComplete (cmd : Nat)
  /-- TRACE_LANE_COMPLETE (R404): A lane's traversal ends and its outputs and status are written. -/
  | traceLaneComplete (cmd lane : Nat)
  /-- SWAP_SPILL_FILL (R345): The background engine spills and fills banks and accumulator places for a swap. -/
  | swapSpillFill (core : CoreId)
  /-- SWAP_EXCHANGE (R343): The active and shadow banks exchange and the incoming bank first issues. -/
  | swapExchange (core : CoreId)
  /-- WATCHDOG_EXPIRY (R346): A context's watchdog reaches WDTICKS and the context becomes dead. -/
  | watchdogExpiry (ctx : Nat)
  /-- DRAIN_COMPLETE (R348): DRAIN returns to 0 when no request tagged with the dead context remains. -/
  | drainComplete (ctx : Nat)
  /-- TILE_SLOT_DRAIN (R357): A released tile slot returns to its pool when its last use completes. -/
  | tileSlotDrain (die site slot : Nat)
  /-- TTAKE_GRANT (R365): A waiting TTAKE takes the handle once it is given to one of its threads. -/
  | ttakeGrant (t : TRef)
  /-- MESSAGE_ARRIVAL (R423): A flit enters a receive queue's FIFO entry and feeds waiting receives. -/
  | messageArrival (flit : Nat)
  /-- SWEEP_BOUNDARY (R405): Band 0 is lit: SWEEP increments, CGSWEEP groups are cancelled and pending render writes apply. -/
  | sweepBoundary
  /-- BAND_LIGHT (R411): At Tb a band flips to its new copy or is repeated and counted as missed. -/
  | bandLight (die : Nat)
  /-- KILN_GATHER (R406): At Tg the Kiln takes a permit and slots and gathers the band's aged records into tiles. -/
  | kilnGather (die : Nat)
  /-- KILN_BAND_POST (R409): The Kiln writes the band descriptor and posts a real-time record. -/
  | kilnBandPost (die : Nat)
  /-- SNAPSHOT_BINNED (R394): Binning ends with STATUS ready, overflow or malformed. -/
  | snapshotBinned (die n : Nat)
  /-- SEXTANT_DRAW_START (R385): The Sextant begins a draw, computing priorities and posting the policy record. -/
  | sextantDrawStart (die : Nat)
  /-- SELECTION_START (R387): After the policy record retires, selection begins at T0. -/
  | selectionStart (die : Nat)
  /-- POSITION_DRAW (R387): Each tick one position is drawn from the highest-priority cell and its map entry updated. -/
  | positionDraw (die : Nat)
  /-- WAVE_POST (R390): A completed wave is posted as a record in wave order, retrying on FULL. -/
  | wavePost (die : Nat)
  /-- PROBE_RESOLVE (R396): The visibility resolver finds the front-most primitive for a probe sample. -/
  | probeResolve (die : Nat)
  /-- LONG_LATENCY_RESULT (R247): A long-latency non-memory result (divide, SFU, level-index, REDUCE or SCAN stage, tile instruction) is written with its flags after its latency and releases its slot, into whichever bank issued it. -/
  | longLatencyResult (result : Nat)
  /-- OPERATION_PACKET (R142): An operation packet arriving at a home core's plot unit is checked and executed in arrival order, then acknowledged or refused to its sender. -/
  | operationPacket (packet : Nat)
  /-- POLICY_RECORD_REPOST (R386): A policy record refused FULL is posted again by the Sextant once it has waited. -/
  | policyRecordRepost (die : Nat)
  /-- THROTTLE_LEVEL_CHANGE (R444): A die's temperature crosses a threshold and LEVEL changes the main bucket refill. -/
  | throttleLevelChange (die temp : Nat)
  /-- TSHUT (R444): Temperature reaches TSHUT and the module resets with LASTRST 2. -/
  | tshut (die : Nat)
  /-- SEC_EXTEND (R442): SECCMD OP 1 extends MR2 to MR7 by the 32 bytes at SECBUF. -/
  | secExtend (mr : Nat)
  /-- LOG_ENABLE (R445): CTXCTL.LOG rising starts recording and zeroes LOGHEAD. -/
  | logEnable (ctx : Nat)
  /-- LOGLIMIT_WRITE (R446): A write to LOGLIMIT sets the log size and may release a stalled context. -/
  | loglimitWrite (ctx : Nat) (value : W64)
  /-- CONTEXT_ENABLE (R320): CTXCTL.EN rising lets the context accept records and invalidates its save images. -/
  | contextEnable (ctx : Nat)
  /-- CONTEXT_HALT (R320): CTXCTL.HALT stops issue and placement of the context. -/
  | contextHalt (ctx : Nat)
  /-- DEAD_CLEAR (R320): Writing 1 to CTXCTL.DEAD clears it once DRAIN is 0. -/
  | deadClear (ctx : Nat)
  /-- REGISTER_WRITE (R5): A write to a register with no row of its own, under its access codes. -/
  | registerWrite (ia : Nat) (value : W64)
  /-- RECORD_POST (R64): A single 64-byte store to the post area posts a record. -/
  | recordPost (ctx offset : Nat) (bytes : List Byte)
  /-- POST_SEQUENCE_STORE (R65): One aligned 8-byte store of a post sequence; the eighth posts the record, a break rejects it. -/
  | postSequenceStore (hart ctx offset : Nat) (value : W64)
  /-- CANCELSET (R71): A write to CANCELSET cancels each named group. -/
  | cancelset (ctx : Nat) (groups : W64)
  /-- FRREAD_WRITE (R413): A write to FRREAD frees fault-ring entries, ignored if out of bounds. -/
  | frreadWrite (ctx : Nat) (value : W64)
  /-- HOST_LOAD (R175): An application-core load reads the home value, tracked by the host directory. -/
  | hostLoad (hart ia size : Nat)
  /-- HOST_STORE (R175): An application-core store is performed at the home, acknowledged after W plus 8. -/
  | hostStore (hart ia : Nat) (bytes : List Byte)
  /-- HOST_AMO (R176): An application-core AMO is performed indivisibly at the home. -/
  | hostAmo (hart ia size : Nat) (op : AmoOp) (value : W64)
  /-- HOST_LR (R176): LR reads the home value and sets a reservation on the line. -/
  | hostLr (hart ia size : Nat)
  /-- HOST_SC (R176): SC stores if the reservation stands, else fails. -/
  | hostSc (hart ia : Nat) (bytes : List Byte)
  /-- DMA_INBOUND (R426): An inbound PCIe DMA request is translated by DMARANGEn and performed at the home. -/
  | dmaInbound (bus : Nat) (access : Inbound)
  /-- EWERLINK_INBOUND (R431): An inbound Ewerlink access lands through an EWINn window or is refused. -/
  | ewerlinkInbound (port offset : Nat) (access : Inbound)
  /-- EWERLINK_DOWN (R434): Ewerlink UP falls and contexts with remote accesses outstanding die. -/
  | ewerlinkDown (port : Nat)
  /-- MIGCTL_START (R133): Writing MIGCTL.START begins a migration of a 64 KiB page or returns a status. -/
  | migctlStart (socket : Nat)
  /-- PROMCTL_PUSH (R132): Writing PROMCTL.PUSH gives the engine a free 2 MiB frame. -/
  | promctlPush (socket : Nat) (value : W64)
  /-- SOFT_ERROR (R349): An ECC or check-code error is corrected, poisons a line, kills a context or fails a die. -/
  | softError (e : SoftError)
  /-- DIE_FAIL (R350): A compute die fails and its teams end FAULTED. -/
  | dieFail (die : Nat)
  /-- DMODE_WRITE (R414): A write to DMODE sets scan-out timing, starting a sweep when EN rises. -/
  | dmodeWrite (value : W64)
  /-- SNAPSHOT_GO (R394): Writing SNAPn.CTL.GO starts binning a triangle snapshot. -/
  | snapshotGo (die n : Nat)
  /-- EWERLINK_LINK_UP (R431): An Ewerlink link finishes training and EWCTL.UP reads 1, so outgoing accesses through the port no longer fault. -/
  | ewerlinkLinkUp (port : Nat)
  deriving DecidableEq, Repr

end Sys2Proof
end

