-- ==== Sys2Proof/Machine/OpTable.lean ====
section
/-! DEFINITION. The opcode map (spec/12_encoding.md R196 to R201): for each opcode its forms, types, operand classes,
XOP bits and the use it makes of IMM, and the checks of decode step 2 (R203) that follow from them. -/

namespace Sys2Proof

/-- The type code of R195. -/
def Ty.code : Ty → Nat
  | .b32 => 0 | .b64 => 1 | .i8 => 2 | .i16 => 3 | .i32 => 4 | .i64 => 5 | .n8 => 6 | .n16 => 7 | .n32 => 8
  | .n64 => 9 | .f16 => 10 | .f32 => 11 | .f64 => 12 | .li16 => 13 | .li32 => 14 | .g6 => 15 | .g8 => 16

/-- The type of a code; codes 0x11 to 0x1F are reserved (R195). -/
def Ty.ofCode : Nat → Option Ty
  | 0 => some .b32 | 1 => some .b64 | 2 => some .i8 | 3 => some .i16 | 4 => some .i32 | 5 => some .i64 | 6 => some .n8
  | 7 => some .n16 | 8 => some .n32 | 9 => some .n64 | 10 => some .f16 | 11 => some .f32 | 12 => some .f64
  | 13 => some .li16 | 14 => some .li32 | 15 => some .g6 | 16 => some .g8 | _ => none

/-- A type whose values take an aligned pair (R88, R90). -/
def Ty.wide : Ty → Bool
  | .b64 | .i64 | .n64 | .f64 => true
  | _ => false

/-- Bits of a value of the type. -/
def Ty.bits : Ty → Nat
  | .i8 | .n8 | .g8 => 8
  | .i16 | .n16 | .f16 | .li16 => 16
  | .b64 | .i64 | .n64 | .f64 => 64
  | .g6 => 6
  | _ => 32

/-- Bytes of an access of the type (R271). -/
def Ty.bytes (t : Ty) : Nat := t.bits / 8

def Ty.isInt (t : Ty) : Bool := decide (2 ≤ t.code ∧ t.code ≤ 9)
def Ty.isIeee (t : Ty) : Bool := decide (10 ≤ t.code ∧ t.code ≤ 12)
def Ty.isLi (t : Ty) : Bool := decide (13 ≤ t.code ∧ t.code ≤ 14)
def Ty.isGrit (t : Ty) : Bool := decide (15 ≤ t.code)
/-- The signed integer types (R88). -/
def Ty.signed : Ty → Bool
  | .i8 | .i16 | .i32 | .i64 => true
  | _ => false

def Rnd.code : Rnd → Nat
  | .nearestEven => 0 | .towardZero => 1 | .towardPositive => 2 | .towardNegative => 3

def Rnd.ofCode : Nat → Rnd
  | 0 => .nearestEven | 1 => .towardZero | 2 => .towardPositive | _ => .towardNegative

def Scope.code : Scope → Nat
  | .thread => 0 | .group => 1 | .team => 2 | .cluster => 3 | .die => 4 | .package => 5 | .system => 6

def Scope.ofCode : Nat → Option Scope
  | 0 => some .thread | 1 => some .group | 2 => some .team | 3 => some .cluster | 4 => some .die | 5 => some .package
  | 6 => some .system | _ => none

/-- The guard code of R191. -/
def Guard.code (g : Guard) : Nat := boolNat g.invert * 8 + g.pred.toNat
def Guard.ofCode (n : Nat) : Guard := { invert := n.testBit 3, pred := BitVec.ofNat 3 n }
/-- G = 0000, always true. -/
def Guard.always : Guard := { invert := false, pred := 0 }

/-- The operand classes of R188. `regs n` is a v operand (n = 1), a w operand (n = 2), or the first of n aligned registers. -/
inductive Opd where
  | unused
  | regs (n : Nat)
  | pred
  | treg
  | handle
  | cvg
  | queue
  | cond (codes : Nat)
  | num (limit : Nat)
  /-- A field that the opcode's words give no meaning and decode does not look at. -/
  | free
  deriving DecidableEq, Repr

/-- What IMM (or the literal of LEN 11) is to an opcode, beyond the immediate of R190. `disp w` is a displacement whose
role is w bits wide; `number k` a number in the low k bits; `offset` a word offset. -/
inductive ImmUse where
  | unused
  | disp (width : Nat)
  | offset
  | number (bits : Nat)
  deriving DecidableEq, Repr

/-- One row of R196, at given XOP and T. -/
structure OpSpec where
  forms    : List Form
  /-- The first is the default; an empty list means T must be 0x00. -/
  types    : List Ty := []
  d        : Opd := .unused
  a        : Opd := .unused
  b        : Opd := .unused
  c        : Opd := .unused
  xopMask  : Nat := 0
  /-- XOP<6> is the immediate bit I. -/
  iBit     : Bool := false
  imm      : ImmUse := .unused
  /-- SCOPE is read (R194). -/
  scope    : Bool := false
  /-- SET may be non-zero. -/
  set      : Bool := true
  /-- KW may be 1, naming a constant-window operand as source B (R190). -/
  constB   : Bool := false
  /-- Conditions of the instruction's own rule at step 2 of R203. -/
  own      : Bool := true
  deriving Repr

namespace OpTable

def allForms : List Form := [.base, .ext, .lit, .extLit]
def be : List Form := [.base, .ext]
def ex : List Form := [.ext, .extLit]
def e : List Form := [.ext]

def int : List Ty := [.i8, .i16, .i32, .i64, .n8, .n16, .n32, .n64]
def i32int : List Ty := [.i32, .i8, .i16, .i64, .n8, .n16, .n32, .n64]
def f32ieee : List Ty := [.f32, .f16, .f64]
def logic : List Ty := [.b32, .b64]
def li : List Ty := [.li32, .li16]
def tile : List Ty := [.g8, .g6, .f16, .f32]
def mem : List Ty := [.b32, .b64, .i8, .i16, .i32, .i64, .n8, .n16, .n32, .n64, .f16, .f32, .f64]
def peer : List Ty := [.b32, .b64, .n8, .n16, .i8, .i16, .f16]
def atomic : List Ty := [.b32, .b64, .i32, .n32, .i64, .n64, .f32]

/-- A v or w operand, by the type. -/
def wd (t : Ty) : Opd := .regs (if t.wide then 2 else 1)

/-- The field XOP<h:l>, from its lowest bit and width. -/
def xf (x : Fields) (l w : Nat) : Nat := natField x.xop.toNat l w

/-- The types that each AOP accepts (R278). -/
def aopTypes : Nat → List Ty
  | 0 | 3 | 4 | 5 => [.b32, .b64, .i32, .n32, .i64, .n64]
  | 1 | 2 => [.i32, .n32, .i64, .n64]
  | 6 | 7 => atomic
  | 8 | 9 => [.b32, .b64, .n32, .n64]
  | 10 => [.f32]
  | _ => []

/-- The special registers of R206: width 64 for these numbers. -/
def sregWide (n : Nat) : Bool := n == 0x00D || n == 0x00E || n == 0x020 || n == 0x023
/-- The numbers R206 lists. -/
def sregListed (n : Nat) : Bool := decide (n ≤ 0x012) || decide (0x020 ≤ n ∧ n ≤ 0x023)

/-- The supervisor register numbers R319 lists. -/
def supListed (n : Nat) : Bool :=
  n == 0x100 || decide (0x110 ≤ n ∧ n ≤ 0x127) || decide (0x130 ≤ n ∧ n ≤ 0x132) || n == 0x140 || decide (0x200 ≤ n ∧ n ≤ 0x207)

/-- A global address is a pair, a plot or private one a single register (R196, R270). -/
def addr (space : Nat) : Opd := .regs (if space = 0 then 2 else 1)
def dispOf (space : Nat) : ImmUse := .disp (if space = 0 then 64 else 32)

/-- The source type of CVT, LCVT and GCVT (SRCT, R197). -/
def srct (x : Fields) : Option Ty := Ty.ofCode (xf x 0 5)
def srcOpd (x : Fields) : Opd := match srct x with
  | some t => wd t
  | none => .free

/-- LCVT's combinations (R250). -/
def lcvtOk (x : Fields) : Bool := match srct x with
  | some s => (x.ty.isLi && (s.isLi || s == .f32 || s == .f64)) || ((x.ty == .f32 || x.ty == .f64) && s.isLi)
  | none => false

/-- GCVT's combinations (R251). -/
def gcvtOk (x : Fields) : Bool := match srct x with
  | some s => (s.isGrit || s.isIeee) && (x.ty.isGrit || x.ty.isIeee) && (s.isGrit || x.ty.isGrit)
  | none => false

/-- CVT's source and saturation (R248). -/
def cvtOk (x : Fields) : Bool := match srct x with
  | some s => (s.isInt || s.isIeee) && (!x.xop.toNat.testBit 5 || (s.isInt && x.ty.isInt))
  | none => false

/-- COUNT of LDV and STV in registers (R197). -/
def countOf (x : Fields) : Nat := match xf x 5 2 with
  | 0 => 2
  | 1 => 4
  | _ => 8

/-- ACQ, REL, BAR and SCOPE of an engine command (R288). -/
def engineOk (x : Fields) (bar : Bool) : Bool :=
  if bar then !x.xop.toNat.testBit 1 && x.scope == .thread
  else x.xop.toNat.testBit 1 || x.scope == .thread

/-- The rows of the integer and logic chapter (R196). -/
def arith (op : Nat) (x : Fields) : Option OpSpec :=
  let w := wd x.ty
  match op with
  | 0x01 | 0x02 | 0x03 => some { forms := allForms, types := i32int, d := w, a := w, b := w, xopMask := 0x41, iBit := true, constB := true }
  | 0x04 => some { forms := allForms, types := [.i32, .n32, .i64, .n64], d := w, a := w, b := w, xopMask := 0x40, iBit := true, constB := true }
  | 0x05 => some { forms := allForms, types := i32int, d := w, a := w, b := w, c := w, xopMask := 0x41, iBit := true, constB := true }
  | 0x06 | 0x07 => some { forms := ex, types := i32int, d := w, a := w, b := w, xopMask := 0x40, iBit := true, constB := true }
  | 0x08 | 0x09 => some { forms := allForms, types := i32int, d := w, a := w, b := w, xopMask := 0x40, iBit := true, constB := true }
  | 0x0A | 0x0B => some { forms := be, types := [.i32, .i8, .i16, .i64], d := w, a := w, xopMask := 1 }
  | 0x0C => some { forms := ex, types := i32int, d := .pred, a := w, b := w, c := .cond 6, xopMask := 0x40, iBit := true, constB := true }
  | 0x0D => some { forms := ex, types := logic, d := w, a := w, b := w, c := .pred, xopMask := 0x40, iBit := true, constB := true }
  | 0x0E => some { forms := allForms, types := i32int, d := w, a := w, b := w, c := w, xopMask := 0x40, iBit := true, constB := true }
  | 0x0F => some { forms := allForms, types := [.b64], d := .regs 2, a := .regs 2, b := .regs 1, xopMask := 0x47, iBit := true, constB := true }
  | 0x10 | 0x11 | 0x12 | 0x13 => some { forms := allForms, types := logic, d := w, a := w, b := w, xopMask := 0x40, iBit := true, constB := true }
  | 0x14 | 0x15 | 0x16 | 0x17 => some { forms := allForms, types := logic, d := w, a := w, b := .regs 1, xopMask := 0x40, iBit := true, constB := true }
  | 0x18 => some { forms := allForms, types := [.n32, .i32, .i64, .n64], d := w, a := w, b := .regs 1, xopMask := 0x40, iBit := true, constB := true }
  | 0x19 => some { forms := allForms, types := logic, d := w, a := w, b := .regs 1, c := w, xopMask := 0x40, iBit := true, constB := true }
  | 0x1A | 0x1B => some { forms := be, types := logic, d := .regs 1, a := w }
  | 0x1C => some { forms := be, types := logic, d := w, a := w }
  | 0x1D => some { forms := allForms, types := [.b32], d := w, a := w, b := w, xopMask := 0x40, iBit := true, constB := true }
  | 0x1E => some { forms := e, types := logic, d := w, a := w, b := w, c := w, imm := .number 8 }
  | 0x1F => some { forms := allForms, types := logic, d := w, b := w, xopMask := 0x40, iBit := true, constB := true }
  | _ => none

/-- The IEEE rows (R196, R228). -/
def ieee (op : Nat) (x : Fields) : Option OpSpec :=
  let w := wd x.ty
  match op with
  | 0x20 | 0x21 | 0x22 => some { forms := allForms, types := f32ieee, d := w, a := w, b := w, xopMask := 0x5F, iBit := true, constB := true }
  | 0x23 => some { forms := allForms, types := f32ieee, d := w, a := w, b := w, c := w, xopMask := 0x5F, iBit := true, constB := true }
  | 0x24 | 0x25 => some { forms := allForms, types := f32ieee, d := w, a := w, b := w, xopMask := 0x6F, iBit := true, constB := true }
  | 0x26 => some { forms := ex, types := f32ieee, d := .pred, a := w, b := w, c := .cond 8, xopMask := 0x4F, iBit := true, constB := true }
  | 0x27 => some { forms := ex, types := f32ieee, d := w, a := w, b := w, xopMask := 0x5F, iBit := true, constB := true }
  | 0x28 => some { forms := e, types := f32ieee, d := w, a := w, xopMask := 0x15 }
  | 0x29 => some { forms := be, types := f32ieee, d := w, a := w, xopMask := 0x15 }
  | 0x2A => some { forms := be, types := f32ieee, d := .regs 1, a := w }
  | 0x2B => some { forms := allForms, types := f32ieee, d := w, a := w, b := .regs 1, xopMask := 0x55, iBit := true, constB := true }
  | 0x2C => some { forms := allForms, types := [.f32], d := w, a := w, b := w, c := w, xopMask := 0x5F, iBit := true, constB := true }
  | 0x2D => some { forms := allForms, types := [.f32, .f16], d := w, a := w, b := w, c := w, xopMask := 0x5F, iBit := true, constB := true }
  | 0x2E => some { forms := be, types := f32ieee, d := w, a := w, xopMask := 0x15 }
  | _ => none

/-- The level-index, conversion, packing, RAND and SFU rows (R196, R243 to R255). -/
def special (op : Nat) (x : Fields) : Option OpSpec :=
  let rn := x.rnd == .nearestEven
  match op with
  | 0x30 | 0x31 | 0x32 | 0x33 => some { forms := e, types := li, d := .regs 1, a := .regs 1, b := .regs 1, xopMask := 3, constB := true, own := rn }
  | 0x34 => some { forms := e, types := li, d := .pred, a := .regs 1, b := .regs 1, c := .cond 6, constB := true }
  | 0x35 => some { forms := e, types := li, d := .regs 1, a := .regs 1, xopMask := 3 }
  | 0x36 | 0x37 => some { forms := e, types := li, d := .regs 1, a := .regs 1, own := rn }
  | 0x38 => some { forms := e, types := int ++ f32ieee, d := wd x.ty, a := srcOpd x, xopMask := 0x3F, own := cvtOk x }
  | 0x39 => some { forms := e, types := li ++ [.f32, .f64], d := wd x.ty, a := srcOpd x, xopMask := 0x1F, own := lcvtOk x }
  | 0x3A => some { forms := e, types := [.g6, .g8, .f32, .f16, .f64], d := wd x.ty, a := srcOpd x, xopMask := 0x1F, own := gcvtOk x }
  | 0x3B | 0x3C => some { forms := e, types := [.g6], d := .regs 1, a := .regs 1 }
  | 0x3D => some { forms := be, types := [.f32], d := .regs 1, a := .regs 1, b := .regs 1, constB := true }
  | 0x3E => some { forms := e, types := [.b64], d := .regs (if x.xop.toNat.testBit 0 then 1 else 2), a := .regs 2, b := .regs 2, xopMask := 1, constB := true }
  | 0x3F => some { forms := e, types := [.f32, .f16], d := .regs 1, a := .regs 1, xopMask := 7 }
  | _ => none

/-- The memory rows (R196, R274 to R287). -/
def memory (op : Nat) (x : Fields) : Option OpSpec :=
  let w := wd x.ty
  let sp := xf x 0 3
  match op with
  | 0x40 => some { forms := ex, types := mem, d := w, a := addr sp, xopMask := 0x1F, imm := dispOf sp,
                   own := decide (sp ≤ 2) && (sp == 0 || xf x 3 2 == 0) }
  | 0x41 => some { forms := ex, types := mem, b := w, a := addr sp, xopMask := 7, imm := dispOf sp, constB := true, own := decide (sp ≤ 2) }
  | 0x42 => some { forms := ex, types := peer, d := w, a := .regs 1, imm := .disp 32 }
  | 0x43 => some { forms := ex, types := peer, b := w, a := .regs 1, imm := .disp 32, constB := true }
  | 0x44 => some { forms := ex, types := [.b32], d := .regs (countOf x), a := addr sp, xopMask := 0x7F, imm := dispOf sp,
                   own := decide (sp ≤ 2) && (sp == 0 || xf x 3 2 == 0) && decide (xf x 5 2 ≤ 2) }
  | 0x45 => some { forms := ex, types := [.b32], b := .regs (countOf x), a := addr sp, xopMask := 0x67, imm := dispOf sp, constB := true,
                   own := decide (sp ≤ 2) && decide (xf x 5 2 ≤ 2) }
  | 0x46 => some { forms := ex, types := atomic, d := w, a := addr (xf x 4 2), b := w, c := if xf x 0 4 = 7 then w else .unused, xopMask := 0x3F,
                   imm := dispOf (xf x 4 2), scope := true, constB := true,
                   own := (aopTypes (xf x 0 4)).contains x.ty && decide (xf x 4 2 ≤ 1) }
  | 0x47 => some { forms := ex, types := atomic, d := w, a := .regs 1, b := w, c := if xf x 0 4 = 7 then w else .unused, xopMask := 0x0F,
                   imm := .disp 32, scope := true, constB := true, own := (aopTypes (xf x 0 4)).contains x.ty }
  | 0x48 => some { forms := ex, types := logic, d := w, a := .regs 1, xopMask := 7, imm := .disp 32 }
  | 0x49 => some { forms := e, scope := true, set := false, own := x.rnd == .nearestEven }
  | 0x4A => some { forms := e, imm := .number 12 }
  | 0x4B => some { forms := e, d := .regs 1, a := .regs 1, b := .regs 1, xopMask := 7, constB := true, own := decide (sp ≤ 3) }
  | 0x4C => some { forms := ex, a := .regs 2, xopMask := 1, imm := .disp 64, set := false }
  | 0x4D => some { forms := e, a := if xf x 0 2 = 1 then .regs 2 else .unused, xopMask := 3,
                   imm := if xf x 0 2 = 1 then .disp 64 else .unused, own := decide (xf x 0 2 ≤ 2) }
  | 0x4E => some { forms := e, d := .regs 1, a := .regs 1, b := .regs 1, constB := true }
  | _ => none

/-- The cross-lane rows (R196, R260 to R267). -/
def lanes (op : Nat) (x : Fields) : Option OpSpec :=
  let w := wd x.ty
  match op with
  | 0x50 | 0x51 => some { forms := ex, types := logic, d := w, a := w, b := .regs 1, c := w, xopMask := 0x43, iBit := true, constB := true }
  | 0x52 => some { forms := e, d := if xf x 0 2 = 3 then (if x.xop.toNat.testBit 2 then .regs 1 else .regs 2) else .pred, a := .pred, xopMask := 7,
                   own := xf x 0 2 == 3 || !x.xop.toNat.testBit 2 }
  | 0x53 => some { forms := e, types := i32int ++ [.f32], d := w, a := w, xopMask := 7,
                   own := decide (xf x 0 3 ≤ 5) && !(x.ty == .f32 && decide (3 ≤ xf x 0 3)) }
  | 0x54 => some { forms := e, types := i32int ++ [.f32], d := w, a := w, xopMask := 0xF,
                   own := decide (xf x 0 3 ≤ 5) && !(x.ty == .f32 && decide (3 ≤ xf x 0 3)) }
  | 0x55 => some { forms := e, types := logic, d := .regs 2, a := w }
  | 0x56 => some { forms := e, types := [.b32], d := if x.xop.toNat.testBit 0 then .treg else .regs 1,
                   a := if x.xop.toNat.testBit 0 then .regs 1 else .treg, xopMask := 1 }
  | _ => none

/-- The control-flow rows (R196, R303 to R312). -/
def control (op : Nat) (x : Fields) : Option OpSpec :=
  let bit0 := x.xop.toNat.testBit 0
  match op with
  | 0x58 => some { forms := be, imm := .offset, set := false }
  | 0x59 => some { forms := [.ext, .lit], a := if x.form = .lit then .unused else .regs 2, set := false }
  | 0x5A => some { forms := e, d := .regs 2, a := if bit0 then .regs 2 else .unused, xopMask := 1, imm := if bit0 then .unused else .offset, set := false }
  | 0x5B => some { forms := be, a := .regs 2, set := false }
  | 0x5C => some { forms := e, b := if bit0 then .regs 1 else .unused, xopMask := 1, imm := .offset, set := false }
  | 0x5D => some { forms := e, d := .cvg, xopMask := 1, set := false }
  | 0x5E => some { forms := be, set := false }
  | 0x5F => some { forms := be, xopMask := 1, set := false }
  | _ => none

/-- The tile and matrix rows (R196, R354 to R376). -/
def matrix (op : Nat) (x : Fields) : Option OpSpec :=
  match op with
  | 0x60 => some { forms := e, d := .handle, b := .regs 1 }
  | 0x61 => some { forms := e, a := .handle }
  | 0x62 | 0x63 => some { forms := e, a := .handle, b := .regs 1 }
  | 0x64 | 0x65 => some { forms := ex, types := tile, d := .handle, a := addr (xf x 0 1), xopMask := 1, imm := dispOf (xf x 0 1) }
  | 0x66 => some { forms := e, types := tile, d := .regs 1, a := .handle, b := .regs 1 }
  | 0x67 => some { forms := e, types := tile, d := .handle, a := .regs 1, b := .regs 1 }
  | 0x68 => some { forms := e, d := .regs 1, a := .handle, b := .handle, c := if x.xop.toNat.testBit 1 then .cvg else .unused, xopMask := 3 }
  | 0x69 => some { forms := e, d := .regs 1, a := .regs 1, xopMask := 7, own := !(xf x 0 2 == 3 && !(x.rnd == .nearestEven)) }
  | 0x6A => some { forms := e, d := .regs 1, a := .handle }
  | _ => none

/-- The engine, record, stage, barrier and queue rows (R196, R288 to R300). -/
def engine (op : Nat) (x : Fields) : Option OpSpec :=
  let bar := x.xop.toNat.testBit 2
  match op with
  | 0x70 | 0x74 => some { forms := e, d := .regs 1, a := .regs 2, c := if bar then .num 64 else .unused, xopMask := 7, imm := .disp 64, scope := true, own := engineOk x bar }
  | 0x71 => some { forms := e, d := .regs 1, a := .regs 2, b := .regs 1, xopMask := 3, imm := .disp 64, scope := true, constB := true, own := engineOk x false }
  | 0x72 => some { forms := e, d := .regs 1, a := .regs 2, xopMask := 3, imm := .disp 64, scope := true, own := engineOk x false }
  | 0x73 => some { forms := e, a := .regs 1, b := .regs 1, constB := true }
  | 0x75 => some { forms := e, d := .regs 1, a := .regs 2, imm := .disp 64, scope := true }
  | 0x76 => some { forms := e, a := .regs 1 }
  | 0x77 => some { forms := e, d := .regs 1, b := .regs 1, c := .num 8, xopMask := 7, constB := true,
                   scope := decide (3 ≤ xf x 0 3), own := decide (xf x 0 3 ≤ 4) }
  | 0x78 => some { forms := e, a := .regs 1, c := .num 64, xopMask := 1, scope := true }
  | 0x79 => some { forms := e, types := [.b32], d := if x.xop.toNat.testBit 0 then .regs 4 else .queue,
                   a := if x.xop.toNat.testBit 0 then .queue else .regs 4, xopMask := 1 }
  | _ => none

/-- The special-register, trap and SYS rows (R196, R314 to R325). -/
def system (op : Nat) (x : Fields) : Option OpSpec :=
  let w := wd x.ty
  let bit0 := x.xop.toNat.testBit 0
  let num := x.low.toNat
  match op with
  | 0x7A => some { forms := e, types := logic, d := if bit0 then .unused else w, a := if bit0 then w else .unused, xopMask := 1, imm := .number 12,
                   own := sregListed num && (sregWide num == x.ty.wide) }
  | 0x7B => some { forms := e, xopMask := 1, imm := .number 16, set := false }
  | 0x7C => match xf x 0 4 with
    | 0 => some { forms := e, types := [.b64], d := .regs 2, a := .regs 1, xopMask := 0xF, imm := .number 12, own := supListed num }
    | 1 => some { forms := e, types := [.b64], a := .regs 1, b := .regs 2, xopMask := 0xF, imm := .number 12, own := supListed num }
    | 2 => some { forms := e, d := .regs 1, a := .regs 1, b := .regs 1, xopMask := 0xF, constB := true }
    | 3 => some { forms := e, d := .regs 1, a := .regs 2, b := .regs 1, xopMask := 0xF, constB := true }
    | 4 => some { forms := e, a := .regs 2, b := .regs 1, xopMask := 0xF, set := false, constB := true }
    | _ => some { forms := e, own := false }
  | 0x7D => some { forms := be, set := false, own := x.rnd == .nearestEven }
  | _ => none

end OpTable

/-- Of the instructions whose results come later, REDUCE and SCAN are not long-latency (R268). -/
def longLatency (op : Nat) : Bool := op != 0x53 && op != 0x54

/-- Of the instructions whose results come later, those for which an SREG of FSTAT waits (R93, R269): not IDIV and IREM, but REDUCE and SCAN of
any type. -/
def raisesFlags (op : Nat) : Bool := op != 0x06 && op != 0x07

/-- The row of R196 for an opcode, or none where OP is not an instruction (R199). PAIR (0x7E) has its own words. -/
def opSpec (op : Nat) (x : Fields) : Option OpSpec :=
  if op < 0x20 then OpTable.arith op x
  else if op < 0x30 then OpTable.ieee op x
  else if op < 0x40 then OpTable.special op x
  else if op < 0x50 then OpTable.memory op x
  else if op < 0x58 then OpTable.lanes op x
  else if op < 0x60 then OpTable.control op x
  else if op < 0x70 then OpTable.matrix op x
  else if op < 0x7A then OpTable.engine op x
  else OpTable.system op x

/-- The type a base or literal form implies (R186). -/
def OpSpec.defaultTy (s : OpSpec) : Ty := s.types.headD .b32

/-- A field value fits its operand class: unused bits zero, an even register in a 64-bit role, an aligned first register
(R188, R89, R275, R300). -/
def Opd.fits (o : Opd) (v : BitVec 8) : Bool :=
  match o with
  | .unused => v == 0
  | .regs n => n == 0 || v.toNat % n == 0
  | .pred => decide (v.toNat < 8)
  | .treg => decide (v.toNat < 64)
  | .handle => decide (v.toNat < 32)
  | .cvg => decide (v.toNat < 16)
  | .queue => decide (v.toNat < 4)
  | .cond k => decide (v.toNat < k)
  | .num k => decide (v.toNat < k)
  | .free => true

/-- The 32-bit rule of literals (R187). -/
def litFits32 (lit : W64) : Bool :=
  let hi := lit.toNat / 2 ^ 32
  hi == 0 || (hi == 0xFFFFFFFF && lit.toNat.testBit 31)

/-- The width of an operand's role in bits, for R187. -/
def Opd.roleBits : Opd → Nat
  | .regs 2 => 64
  | _ => 32

def Fields.immBit (x : Fields) : Bool := x.xop.toNat.testBit 6

/-- What IMM, KW and the literal must look like (R187, R190, R216). -/
def immFits (s : OpSpec) (x : Fields) : Bool :=
  let immediate := s.iBit && x.immBit
  match x.form with
  | .base => x.lit == 0
  | .lit => s.b.roleBits == 64 || s.b == .unused || litFits32 x.lit
  | .ext =>
    x.lit == 0 &&
    (if x.kw then s.constB && !immediate && x.b == 0
     else if immediate then x.b == 0
     else match s.imm with
       | .unused => x.low == 0
       | .disp _ => true
       | .offset => true
       | .number k => decide (x.low.toNat < 2 ^ k))
  | .extLit =>
    !x.kw && x.low == 0 &&
    (if immediate then x.b == 0 && (s.b.roleBits == 64 || litFits32 x.lit)
     else match s.imm with
       | .disp w => w == 64 || litFits32 x.lit
       | _ => false)

/-- Whether a form carries words 1 and 2. -/
def Form.extended : Form → Bool
  | .ext | .extLit => true
  | _ => false

/-- Length in bytes of an instruction from its form (R183). -/
def Form.length : Form → Nat
  | .base => 4 | .ext => 12 | .lit => 12 | .extLit => 20

/-- R186: what a base or literal form implies for the fields it has no bits for. -/
def impliedFits (s : OpSpec) (x : Fields) : Bool :=
  x.form.extended ||
  (x.xop == 0 && x.guard == Guard.always && x.la == 0 && x.set == 0 && x.wait == 0 && x.rnd == .nearestEven &&
   x.scope == .thread && !x.kw && x.low == 0 && x.ty == s.defaultTy && x.c == (if s.c = .unused then 0 else x.d) &&
   decide (x.b.toNat < 128) && (x.form != .lit || x.b == 0))

/-- Step 2 of R203 for every opcode but PAIR: ILLEGAL_FIELD where it is false. -/
def fieldsFit (s : OpSpec) (x : Fields) : Bool :=
  impliedFits s x && immFits s x &&
  (if s.types.isEmpty then x.ty == .b32 else s.types.contains x.ty) &&
  decide (x.set.toNat < 7) && (s.set || x.set == 0) &&
  (s.scope || x.scope == .thread) &&
  (x.xop.toNat &&& s.xopMask) == x.xop.toNat &&
  s.d.fits x.d && s.a.fits x.a &&
  (if x.form = .lit then true else if s.iBit && x.immBit then true else if x.kw then true else s.b.fits x.b) &&
  s.c.fits x.c && s.own

/-- The opcodes that pair (R201). -/
def pairs (op : Nat) : Bool :=
  decide (0x01 ≤ op ∧ op ≤ 0x05) || decide (0x08 ≤ op ∧ op ≤ 0x0B) || op == 0x0E || decide (0x10 ≤ op ∧ op ≤ 0x1D) || op == 0x1F ||
  decide (0x20 ≤ op ∧ op ≤ 0x25) || decide (0x29 ≤ op ∧ op ≤ 0x2E)

/-- The multiply-adds (R201). -/
def multiplyAdd (op : Nat) : Bool := op == 0x05 || op == 0x23 || op == 0x2C || op == 0x2D

/-- The fields a base form stands for (R186), with C = D where the opcode has a source C. -/
def Fields.ofBase (op : Nat) (d a b : BitVec 8) : Fields :=
  let blank : Fields :=
    { form := .base, d := d, a := a, b := b, c := 0, xop := 0, guard := Guard.always, la := 0, set := 0, ty := .b32, wait := 0,
      rnd := .nearestEven, scope := .thread, kw := false, low := 0, lit := 0 }
  match opSpec op blank with
  | none => blank
  | some s => { blank with ty := s.defaultTy, c := if s.c = .unused then 0 else d }

/-- The registers a half reads: A, B, and C = D for an opcode with a source C (R201). -/
def Half.reads (h : Half) : List Nat :=
  match opSpec h.op.toNat (Fields.ofBase h.op.toNat h.d h.a h.b) with
  | none => []
  | some s =>
    (if s.a = .unused then [] else [h.a.toNat]) ++ (if s.b = .unused then [] else [h.b.toNat]) ++ (if s.c = .unused then [] else [h.d.toNat])

/-- ILLEGAL_FIELD checks of a half: fields that its opcode leaves unused must be zero (R188, R200). -/
def Half.fits (h : Half) : Bool :=
  match opSpec h.op.toNat (Fields.ofBase h.op.toNat h.d h.a h.b) with
  | none => true
  | some s => (s.a != .unused || h.a == 0) && (s.b != .unused || h.b == 0)

/-- The restrictions of R201; ILLEGAL_PAIR where it is false. -/
def pairLegal (h0 h1 : Half) : Bool :=
  let reads := (h0.reads ++ h1.reads).eraseDups
  pairs h0.op.toNat && pairs h1.op.toNat &&
  (h0.d.toNat % 4 != h1.d.toNat % 4) &&
  decide (reads.length ≤ 4) &&
  ([0, 1, 2, 3].all fun k => decide ((reads.filter fun r => r % 4 == k).length ≤ 2)) &&
  !(multiplyAdd h0.op.toNat && multiplyAdd h1.op.toNat) &&
  !(h0.reads.contains h1.d.toNat) && !(h1.reads.contains h0.d.toNat)

end Sys2Proof
end

