-- ==== Sys2Proof/WellFormed.lean ====
section
/-! DEFINITION. Well-formed instructions: the fields every constructor stands for and the checks that decode makes of
them (spec/12_encoding.md R186 to R203). A happening has no words and is always well formed. -/

namespace Sys2Proof

/-- The opcode and fields an instruction stands for, and the condition under which its constructor is the one for
those fields (a base form is not written as an extended one, a sub-operation is not written as another). None for
happenings, for PAIR, whose words are of their own kind (R200), and for base BRA, whose word holds an offset (R186). -/
def Instr.row? : Instr → Option (Nat × Fields × Bool)
  | .iaddBase d a b => some (0x01, Fields.ofBase 0x01 d a (b.setWidth 8), true)
  | .iaddExtended x => some (0x01, x, x.form != .base)
  | .isubBase d a b => some (0x02, Fields.ofBase 0x02 d a (b.setWidth 8), true)
  | .isubExtended x => some (0x02, x, x.form != .base)
  | .imulBase d a b => some (0x03, Fields.ofBase 0x03 d a (b.setWidth 8), true)
  | .imulExtended x => some (0x03, x, x.form != .base)
  | .imulhBase d a b => some (0x04, Fields.ofBase 0x04 d a (b.setWidth 8), true)
  | .imulhExtended x => some (0x04, x, x.form != .base)
  | .imadBase d a b => some (0x05, Fields.ofBase 0x05 d a (b.setWidth 8), true)
  | .imadExtended x => some (0x05, x, x.form != .base)
  | .idiv x => some (0x06, x, true)
  | .irem x => some (0x07, x, true)
  | .iminBase d a b => some (0x08, Fields.ofBase 0x08 d a (b.setWidth 8), true)
  | .iminExtended x => some (0x08, x, x.form != .base)
  | .imaxBase d a b => some (0x09, Fields.ofBase 0x09 d a (b.setWidth 8), true)
  | .imaxExtended x => some (0x09, x, x.form != .base)
  | .iabsBase d a => some (0x0A, Fields.ofBase 0x0A d a 0, true)
  | .iabsExtended x => some (0x0A, x, x.form != .base)
  | .inegBase d a => some (0x0B, Fields.ofBase 0x0B d a 0, true)
  | .inegExtended x => some (0x0B, x, x.form != .base)
  | .icmp x => some (0x0C, x, true)
  | .isel x => some (0x0D, x, true)
  | .addminBase d a b => some (0x0E, Fields.ofBase 0x0E d a (b.setWidth 8), true)
  | .addminExtended x => some (0x0E, x, x.form != .base)
  | .leaBase d a b => some (0x0F, Fields.ofBase 0x0F d a (b.setWidth 8), true)
  | .leaExtended x => some (0x0F, x, x.form != .base)
  | .andBase d a b => some (0x10, Fields.ofBase 0x10 d a (b.setWidth 8), true)
  | .andExtended x => some (0x10, x, x.form != .base)
  | .orBase d a b => some (0x11, Fields.ofBase 0x11 d a (b.setWidth 8), true)
  | .orExtended x => some (0x11, x, x.form != .base)
  | .xorBase d a b => some (0x12, Fields.ofBase 0x12 d a (b.setWidth 8), true)
  | .xorExtended x => some (0x12, x, x.form != .base)
  | .andnBase d a b => some (0x13, Fields.ofBase 0x13 d a (b.setWidth 8), true)
  | .andnExtended x => some (0x13, x, x.form != .base)
  | .shlBase d a b => some (0x14, Fields.ofBase 0x14 d a (b.setWidth 8), true)
  | .shlExtended x => some (0x14, x, x.form != .base)
  | .shrBase d a b => some (0x15, Fields.ofBase 0x15 d a (b.setWidth 8), true)
  | .shrExtended x => some (0x15, x, x.form != .base)
  | .sraBase d a b => some (0x16, Fields.ofBase 0x16 d a (b.setWidth 8), true)
  | .sraExtended x => some (0x16, x, x.form != .base)
  | .rotBase d a b => some (0x17, Fields.ofBase 0x17 d a (b.setWidth 8), true)
  | .rotExtended x => some (0x17, x, x.form != .base)
  | .bfxBase d a b => some (0x18, Fields.ofBase 0x18 d a (b.setWidth 8), true)
  | .bfxExtended x => some (0x18, x, x.form != .base)
  | .bfiBase d a b => some (0x19, Fields.ofBase 0x19 d a (b.setWidth 8), true)
  | .bfiExtended x => some (0x19, x, x.form != .base)
  | .popcBase d a => some (0x1A, Fields.ofBase 0x1A d a 0, true)
  | .popcExtended x => some (0x1A, x, x.form != .base)
  | .clzBase d a => some (0x1B, Fields.ofBase 0x1B d a 0, true)
  | .clzExtended x => some (0x1B, x, x.form != .base)
  | .brevBase d a => some (0x1C, Fields.ofBase 0x1C d a 0, true)
  | .brevExtended x => some (0x1C, x, x.form != .base)
  | .bpermBase d a b => some (0x1D, Fields.ofBase 0x1D d a (b.setWidth 8), true)
  | .bpermExtended x => some (0x1D, x, x.form != .base)
  | .bool3 x => some (0x1E, x, true)
  | .movBase d b => some (0x1F, Fields.ofBase 0x1F d 0 (b.setWidth 8), true)
  | .movExtended x => some (0x1F, x, x.form != .base)
  | .faddBase d a b => some (0x20, Fields.ofBase 0x20 d a (b.setWidth 8), true)
  | .faddExtended x => some (0x20, x, x.form != .base)
  | .fsubBase d a b => some (0x21, Fields.ofBase 0x21 d a (b.setWidth 8), true)
  | .fsubExtended x => some (0x21, x, x.form != .base)
  | .fmulBase d a b => some (0x22, Fields.ofBase 0x22 d a (b.setWidth 8), true)
  | .fmulExtended x => some (0x22, x, x.form != .base)
  | .ffmaBase d a b => some (0x23, Fields.ofBase 0x23 d a (b.setWidth 8), true)
  | .ffmaExtended x => some (0x23, x, x.form != .base)
  | .fminBase d a b => some (0x24, Fields.ofBase 0x24 d a (b.setWidth 8), true)
  | .fminExtended x => some (0x24, x, x.form != .base)
  | .fmaxBase d a b => some (0x25, Fields.ofBase 0x25 d a (b.setWidth 8), true)
  | .fmaxExtended x => some (0x25, x, x.form != .base)
  | .fcmp x => some (0x26, x, true)
  | .fdiv x => some (0x27, x, true)
  | .fsqrt x => some (0x28, x, true)
  | .frndBase d a => some (0x29, Fields.ofBase 0x29 d a 0, true)
  | .frndExtended x => some (0x29, x, x.form != .base)
  | .fclassBase d a => some (0x2A, Fields.ofBase 0x2A d a 0, true)
  | .fclassExtended x => some (0x2A, x, x.form != .base)
  | .fscaleBase d a b => some (0x2B, Fields.ofBase 0x2B d a (b.setWidth 8), true)
  | .fscaleExtended x => some (0x2B, x, x.form != .base)
  | .fdot2Base d a b => some (0x2C, Fields.ofBase 0x2C d a (b.setWidth 8), true)
  | .fdot2Extended x => some (0x2C, x, x.form != .base)
  | .flerpBase d a b => some (0x2D, Fields.ofBase 0x2D d a (b.setWidth 8), true)
  | .flerpExtended x => some (0x2D, x, x.form != .base)
  | .ffracBase d a => some (0x2E, Fields.ofBase 0x2E d a 0, true)
  | .ffracExtended x => some (0x2E, x, x.form != .base)
  | .ladd x => some (0x30, x, true)
  | .lsub x => some (0x31, x, true)
  | .lmul x => some (0x32, x, true)
  | .ldiv x => some (0x33, x, true)
  | .lcmp x => some (0x34, x, true)
  | .lmisc x => some (0x35, x, true)
  | .lexp x => some (0x36, x, true)
  | .llog x => some (0x37, x, true)
  | .cvt x => some (0x38, x, true)
  | .lcvt x => some (0x39, x, true)
  | .gcvt x => some (0x3A, x, true)
  | .pack6 x => some (0x3B, x, true)
  | .unpk6 x => some (0x3C, x, true)
  | .pkhBase d a b => some (0x3D, Fields.ofBase 0x3D d a (b.setWidth 8), true)
  | .pkhExtended x => some (0x3D, x, x.form != .base)
  | .rand x => some (0x3E, x, true)
  | .sfu x => some (0x3F, x, true)
  | .ld x => some (0x40, x, true)
  | .st x => some (0x41, x, true)
  | .ldp x => some (0x42, x, true)
  | .stp x => some (0x43, x, true)
  | .ldv x => some (0x44, x, true)
  | .stv x => some (0x45, x, true)
  | .atom x => some (0x46, x, true)
  | .atomp x => some (0x47, x, true)
  | .ldk x => some (0x48, x, true)
  | .fence x => some (0x49, x, true)
  | .wait x => some (0x4A, x, true)
  | .plotOpen x => some (0x4B, x, OpTable.xf x 0 3 == 0)
  | .plotClose x => some (0x4B, x, OpTable.xf x 0 3 == 1)
  | .plotGive x => some (0x4B, x, OpTable.xf x 0 3 == 2)
  | .plotTake x => some (0x4B, x, OpTable.xf x 0 3 == 3)
  | .pref x => some (0x4C, x, true)
  | .cctlWbpriv x => some (0x4D, x, OpTable.xf x 0 2 == 0)
  | .cctlInvl1 x => some (0x4D, x, OpTable.xf x 0 2 == 1)
  | .cctlInvk x => some (0x4D, x, OpTable.xf x 0 2 == 2)
  | .bankcfg x => some (0x4E, x, true)
  | .shfl x => some (0x50, x, true)
  | .lshf x => some (0x51, x, true)
  | .vote x => some (0x52, x, true)
  | .reduce x => some (0x53, x, true)
  | .scan x => some (0x54, x, true)
  | .matchLanes x => some (0x55, x, true)
  | .tmovRead x => some (0x56, x, OpTable.xf x 0 1 == 0)
  | .tmovWrite x => some (0x56, x, OpTable.xf x 0 1 == 1)
  | .braBase _ => none
  | .braExtended x => some (0x58, x, x.form != .base)
  | .jmp x => some (0x59, x, true)
  | .call x => some (0x5A, x, OpTable.xf x 0 1 == 0)
  | .callReg x => some (0x5A, x, OpTable.xf x 0 1 == 1)
  | .retBase a => some (0x5B, Fields.ofBase 0x5B 0 a 0, true)
  | .retExtended x => some (0x5B, x, x.form != .base)
  | .reform x => some (0x5C, x, true)
  | .cvgDecl x => some (0x5D, x, OpTable.xf x 0 1 == 0)
  | .cvgJoin x => some (0x5D, x, OpTable.xf x 0 1 == 1)
  | .exitBase => some (0x5E, Fields.ofBase 0x5E 0 0 0, true)
  | .exitExtended x => some (0x5E, x, x.form != .base)
  | .yieldBase => some (0x5F, Fields.ofBase 0x5F 0 0 0, true)
  | .yieldExtended x => some (0x5F, x, x.form != .base && !x.xop.toNat.testBit 0)
  | .yieldChk x => some (0x5F, x, x.form != .base && x.xop.toNat.testBit 0)
  | .talloc x => some (0x60, x, true)
  | .tfree x => some (0x61, x, true)
  | .tgive x => some (0x62, x, true)
  | .ttake x => some (0x63, x, true)
  | .tld x => some (0x64, x, true)
  | .tst x => some (0x65, x, true)
  | .tldv x => some (0x66, x, true)
  | .tstv x => some (0x67, x, true)
  | .mma x => some (0x68, x, OpTable.xf x 1 1 == 0)
  | .mmaSign x => some (0x68, x, OpTable.xf x 1 1 == 1)
  | .macc x => some (0x69, x, true)
  | .tstat x => some (0x6A, x, true)
  | .copy x => some (0x70, x, true)
  | .trace x => some (0x71, x, true)
  | .sxdraw x => some (0x72, x, true)
  | .sxpri x => some (0x73, x, true)
  | .silt x => some (0x74, x, true)
  | .enq x => some (0x75, x, true)
  | .cancel x => some (0x76, x, true)
  | .stageInit x => some (0x77, x, OpTable.xf x 0 3 == 0)
  | .stageAcqp x => some (0x77, x, OpTable.xf x 0 3 == 1)
  | .stageAcqc x => some (0x77, x, OpTable.xf x 0 3 == 2)
  | .stageRelp x => some (0x77, x, OpTable.xf x 0 3 == 3)
  | .stageRelc x => some (0x77, x, OpTable.xf x 0 3 == 4)
  | .stageAcquireGrant _ _ _ => none
  | .barInit x => some (0x78, x, OpTable.xf x 0 1 == 1)
  | .barArrive x => some (0x78, x, OpTable.xf x 0 1 == 0)
  | .barrierComplete _ _ => none
  | .movqSend x => some (0x79, x, OpTable.xf x 0 1 == 0)
  | .movqRecv x => some (0x79, x, OpTable.xf x 0 1 == 1)
  | .sregRead x => some (0x7A, x, OpTable.xf x 0 1 == 0)
  | .sregWrite x => some (0x7A, x, OpTable.xf x 0 1 == 1)
  | .trapSoftware x => some (0x7B, x, OpTable.xf x 0 1 == 0)
  | .trapBreak x => some (0x7B, x, OpTable.xf x 0 1 == 1)
  | .sysRdsup x => some (0x7C, x, OpTable.xf x 0 4 == 0)
  | .sysWrsup x => some (0x7C, x, OpTable.xf x 0 4 == 1)
  | .sysSwap x => some (0x7C, x, OpTable.xf x 0 4 == 2)
  | .sysShoot x => some (0x7C, x, OpTable.xf x 0 4 == 3)
  | .sysTret x => some (0x7C, x, OpTable.xf x 0 4 == 4)
  | .nopBase => some (0x7D, Fields.ofBase 0x7D 0 0 0, true)
  | .nopExtended x => some (0x7D, x, x.form != .base)
  | .pair _ _ _ _ => none
  | .powerOnReset => none
  | .resetGo => none
  | .secAttest => none
  | .attestReportDone => none
  | .pilotDequeue _ => none
  | .teamPlace _ => none
  | .creditRetire _ => none
  | .sieveDraw _ => none
  | .threadMove _ => none
  | .binAgeLimit _ _ _ => none
  | .automaticReform _ => none
  | .waitingCancelExit _ => none
  | .activeSetDisplace _ => none
  | .throttleWindowEnd _ => none
  | .mmaAccept _ => none
  | .tilePassGrant _ _ => none
  | .tilePassComplete _ _ => none
  | .permitRefill _ => none
  | .permitGrant _ => none
  | .pageWalkAnswer _ => none
  | .deferredFaultRecord _ => none
  | .homeLoad _ => none
  | .homeStore _ => none
  | .homeAtomic _ => none
  | .loadReturn _ => none
  | .storeAck _ => none
  | .fenceComplete _ => none
  | .migrationLineCopy _ => none
  | .promotionStart _ _ => none
  | .promotionAbandon _ => none
  | .bankChangeComplete _ _ => none
  | .copyPartComplete _ => none
  | .engineCommandComplete _ => none
  | .traceLaneComplete _ _ => none
  | .swapSpillFill _ => none
  | .swapExchange _ => none
  | .watchdogExpiry _ => none
  | .drainComplete _ => none
  | .tileSlotDrain _ _ _ => none
  | .ttakeGrant _ => none
  | .messageArrival _ => none
  | .sweepBoundary => none
  | .bandLight _ => none
  | .kilnGather _ => none
  | .kilnBandPost _ => none
  | .snapshotBinned _ _ => none
  | .sextantDrawStart _ => none
  | .selectionStart _ => none
  | .positionDraw _ => none
  | .wavePost _ => none
  | .probeResolve _ => none
  | .longLatencyResult _ => none
  | .operationPacket _ => none
  | .policyRecordRepost _ => none
  | .throttleLevelChange _ _ => none
  | .tshut _ => none
  | .secExtend _ => none
  | .logEnable _ => none
  | .loglimitWrite _ _ => none
  | .contextEnable _ => none
  | .contextHalt _ => none
  | .deadClear _ => none
  | .registerWrite _ _ => none
  | .recordPost _ _ _ => none
  | .postSequenceStore _ _ _ _ => none
  | .cancelset _ _ => none
  | .frreadWrite _ _ => none
  | .hostLoad _ _ _ => none
  | .hostStore _ _ _ => none
  | .hostAmo _ _ _ _ _ => none
  | .hostLr _ _ _ => none
  | .hostSc _ _ _ => none
  | .dmaInbound _ _ => none
  | .ewerlinkInbound _ _ _ => none
  | .ewerlinkDown _ => none
  | .migctlStart _ => none
  | .promctlPush _ _ => none
  | .softError _ => none
  | .dieFail _ => none
  | .dmodeWrite _ => none
  | .snapshotGo _ _ => none
  | .ewerlinkLinkUp _ => none

/-- The LEN values that R196 lists for an opcode; none where OP is not an instruction (R199). The list does not depend
on the other fields. -/
def opForms (op : Nat) : Option (List Form) := (opSpec op (Fields.ofBase op 0 0 0)).map (·.forms)

/-- Decode steps 1 and 2 of R203 hold of these fields. -/
def fieldsLegal (op : Nat) (x : Fields) : Bool :=
  match opForms op, opSpec op x with
  | some forms, some s => forms.contains x.form && fieldsFit s x
  | _, _ => false

/-- Steps 2 and 3 of R203 for PAIR. -/
def halvesLegal (h0 h1 : Half) : Bool := h0.fits && h1.fits && pairLegal h0 h1

/-- A well-formed instruction: one that decode accepts (R203, steps 1 to 3). -/
def Instr.wf (i : Instr) : Bool :=
  match i with
  | .pair _ _ h0 h1 => halvesLegal h0 h1
  | .braBase _ => true
  | _ => match i.row? with
    | some (op, x, own) => own && fieldsLegal op x
    | none => true

/-- The instruction has words; a happening has none. -/
def Instr.hasWords (i : Instr) : Bool :=
  match i with
  | .pair _ _ _ _ | .braBase _ => true
  | _ => i.row?.isSome

end Sys2Proof
end

