-- ==== Sys2Proof/Decode.lean ====
section
/-! DEFINITION. The decoder, total on any words, rejecting by name in the order of R203, and the encoder
(spec/12_encoding.md R183 to R203). -/

namespace Sys2Proof

/-- What decode rejects by (R203 steps 1 to 3); register numbers and privilege (steps 4 and 5) need the issuing group. -/
inductive DecodeCause where
  | illegalOp
  | illegalField
  | illegalPair
  deriving DecidableEq, Repr

/-- LEN (R183). -/
def Form.code : Form → Nat
  | .base => 0 | .ext => 1 | .lit => 2 | .extLit => 3

def Form.ofCode : Nat → Form
  | 0 => .base | 1 => .ext | 2 => .lit | _ => .extLit

/-- Words of an instruction (R183). -/
def Form.words : Form → Nat
  | .base => 1 | .ext => 3 | .lit => 3 | .extLit => 5

/-- LEN and OP of word 0 (R183). -/
def wordForm (w0 : W32) : Form := Form.ofCode (natField w0.toNat 30 2)
def wordOp (w0 : W32) : Nat := natField w0.toNat 23 7

/-- The literal of two words, low word first (R187). -/
def literalOf (lo hi : W32) : W64 := hi ++ lo

/-- The fields of the words (R183 to R187); none for a reserved T or SCOPE, which no field value stands for. -/
def readFields (f : Form) (ws : List W32) : Option Fields :=
  let w0 := ws.getD 0 0
  let w1 := ws.getD 1 0
  let w2 := ws.getD 2 0
  let d := w0.extractLsb' 15 8
  let a := w0.extractLsb' 7 8
  match f with
  | .base => some (Fields.ofBase (wordOp w0) d a ((w0.extractLsb' 0 7).setWidth 8))
  | .lit =>
    some { Fields.ofBase (wordOp w0) d a ((w0.extractLsb' 0 7).setWidth 8) with form := .lit, lit := literalOf w1 w2 }
  | _ =>
    match Ty.ofCode (w1.extractLsb' 0 5).toNat, Scope.ofCode (w2.extractLsb' 21 3).toNat with
    | some ty, some scope =>
      some { form := f, d := d, a := a, b := w1.extractLsb' 24 8, c := w1.extractLsb' 16 8, xop := w0.extractLsb' 0 7
             guard := Guard.ofCode (w1.extractLsb' 12 4).toNat, la := w1.extractLsb' 8 4, set := w1.extractLsb' 5 3, ty := ty
             wait := w2.extractLsb' 26 6, rnd := Rnd.ofCode (w2.extractLsb' 24 2).toNat, scope := scope
             kw := w2.getLsbD 20, low := w2.extractLsb' 0 20
             lit := if f = .extLit then literalOf (ws.getD 3 0) (ws.getD 4 0) else 0 }
    | _, _ => none

namespace InstrOf

/-- The integer and logic opcodes (R196). -/
def arith (op : Nat) (x : Fields) : Option Instr :=
  match op with
  | 0x01 => some (if x.form = .base then .iaddBase x.d x.a (x.b.setWidth 7) else .iaddExtended x)
  | 0x02 => some (if x.form = .base then .isubBase x.d x.a (x.b.setWidth 7) else .isubExtended x)
  | 0x03 => some (if x.form = .base then .imulBase x.d x.a (x.b.setWidth 7) else .imulExtended x)
  | 0x04 => some (if x.form = .base then .imulhBase x.d x.a (x.b.setWidth 7) else .imulhExtended x)
  | 0x05 => some (if x.form = .base then .imadBase x.d x.a (x.b.setWidth 7) else .imadExtended x)
  | 0x06 => some (.idiv x)
  | 0x07 => some (.irem x)
  | 0x08 => some (if x.form = .base then .iminBase x.d x.a (x.b.setWidth 7) else .iminExtended x)
  | 0x09 => some (if x.form = .base then .imaxBase x.d x.a (x.b.setWidth 7) else .imaxExtended x)
  | 0x0A => some (if x.form = .base then .iabsBase x.d x.a else .iabsExtended x)
  | 0x0B => some (if x.form = .base then .inegBase x.d x.a else .inegExtended x)
  | 0x0C => some (.icmp x)
  | 0x0D => some (.isel x)
  | 0x0E => some (if x.form = .base then .addminBase x.d x.a (x.b.setWidth 7) else .addminExtended x)
  | 0x0F => some (if x.form = .base then .leaBase x.d x.a (x.b.setWidth 7) else .leaExtended x)
  | 0x10 => some (if x.form = .base then .andBase x.d x.a (x.b.setWidth 7) else .andExtended x)
  | 0x11 => some (if x.form = .base then .orBase x.d x.a (x.b.setWidth 7) else .orExtended x)
  | 0x12 => some (if x.form = .base then .xorBase x.d x.a (x.b.setWidth 7) else .xorExtended x)
  | 0x13 => some (if x.form = .base then .andnBase x.d x.a (x.b.setWidth 7) else .andnExtended x)
  | 0x14 => some (if x.form = .base then .shlBase x.d x.a (x.b.setWidth 7) else .shlExtended x)
  | 0x15 => some (if x.form = .base then .shrBase x.d x.a (x.b.setWidth 7) else .shrExtended x)
  | 0x16 => some (if x.form = .base then .sraBase x.d x.a (x.b.setWidth 7) else .sraExtended x)
  | 0x17 => some (if x.form = .base then .rotBase x.d x.a (x.b.setWidth 7) else .rotExtended x)
  | 0x18 => some (if x.form = .base then .bfxBase x.d x.a (x.b.setWidth 7) else .bfxExtended x)
  | 0x19 => some (if x.form = .base then .bfiBase x.d x.a (x.b.setWidth 7) else .bfiExtended x)
  | 0x1A => some (if x.form = .base then .popcBase x.d x.a else .popcExtended x)
  | 0x1B => some (if x.form = .base then .clzBase x.d x.a else .clzExtended x)
  | 0x1C => some (if x.form = .base then .brevBase x.d x.a else .brevExtended x)
  | 0x1D => some (if x.form = .base then .bpermBase x.d x.a (x.b.setWidth 7) else .bpermExtended x)
  | 0x1E => some (.bool3 x)
  | 0x1F => some (if x.form = .base then .movBase x.d (x.b.setWidth 7) else .movExtended x)
  | _ => none

/-- The IEEE opcodes (R196). -/
def ieee (op : Nat) (x : Fields) : Option Instr :=
  match op with
  | 0x20 => some (if x.form = .base then .faddBase x.d x.a (x.b.setWidth 7) else .faddExtended x)
  | 0x21 => some (if x.form = .base then .fsubBase x.d x.a (x.b.setWidth 7) else .fsubExtended x)
  | 0x22 => some (if x.form = .base then .fmulBase x.d x.a (x.b.setWidth 7) else .fmulExtended x)
  | 0x23 => some (if x.form = .base then .ffmaBase x.d x.a (x.b.setWidth 7) else .ffmaExtended x)
  | 0x24 => some (if x.form = .base then .fminBase x.d x.a (x.b.setWidth 7) else .fminExtended x)
  | 0x25 => some (if x.form = .base then .fmaxBase x.d x.a (x.b.setWidth 7) else .fmaxExtended x)
  | 0x26 => some (.fcmp x)
  | 0x27 => some (.fdiv x)
  | 0x28 => some (.fsqrt x)
  | 0x29 => some (if x.form = .base then .frndBase x.d x.a else .frndExtended x)
  | 0x2A => some (if x.form = .base then .fclassBase x.d x.a else .fclassExtended x)
  | 0x2B => some (if x.form = .base then .fscaleBase x.d x.a (x.b.setWidth 7) else .fscaleExtended x)
  | 0x2C => some (if x.form = .base then .fdot2Base x.d x.a (x.b.setWidth 7) else .fdot2Extended x)
  | 0x2D => some (if x.form = .base then .flerpBase x.d x.a (x.b.setWidth 7) else .flerpExtended x)
  | 0x2E => some (if x.form = .base then .ffracBase x.d x.a else .ffracExtended x)
  | _ => none

/-- The level-index, conversion, packing and special-function opcodes (R196). -/
def special (op : Nat) (x : Fields) : Option Instr :=
  match op with
  | 0x30 => some (.ladd x)
  | 0x31 => some (.lsub x)
  | 0x32 => some (.lmul x)
  | 0x33 => some (.ldiv x)
  | 0x34 => some (.lcmp x)
  | 0x35 => some (.lmisc x)
  | 0x36 => some (.lexp x)
  | 0x37 => some (.llog x)
  | 0x38 => some (.cvt x)
  | 0x39 => some (.lcvt x)
  | 0x3A => some (.gcvt x)
  | 0x3B => some (.pack6 x)
  | 0x3C => some (.unpk6 x)
  | 0x3D => some (if x.form = .base then .pkhBase x.d x.a (x.b.setWidth 7) else .pkhExtended x)
  | 0x3E => some (.rand x)
  | 0x3F => some (.sfu x)
  | _ => none

/-- The memory opcodes (R196). -/
def memory (op : Nat) (x : Fields) : Option Instr :=
  match op with
  | 0x40 => some (.ld x)
  | 0x41 => some (.st x)
  | 0x42 => some (.ldp x)
  | 0x43 => some (.stp x)
  | 0x44 => some (.ldv x)
  | 0x45 => some (.stv x)
  | 0x46 => some (.atom x)
  | 0x47 => some (.atomp x)
  | 0x48 => some (.ldk x)
  | 0x49 => some (.fence x)
  | 0x4A => some (.wait x)
  | 0x4B => some (if OpTable.xf x 0 3 = 0 then .plotOpen x else if OpTable.xf x 0 3 = 1 then .plotClose x else if OpTable.xf x 0 3 = 2 then .plotGive x else .plotTake x)
  | 0x4C => some (.pref x)
  | 0x4D => some (if OpTable.xf x 0 2 = 0 then .cctlWbpriv x else if OpTable.xf x 0 2 = 1 then .cctlInvl1 x else .cctlInvk x)
  | 0x4E => some (.bankcfg x)
  | _ => none

/-- The cross-lane opcodes (R196). -/
def lanes (op : Nat) (x : Fields) : Option Instr :=
  match op with
  | 0x50 => some (.shfl x)
  | 0x51 => some (.lshf x)
  | 0x52 => some (.vote x)
  | 0x53 => some (.reduce x)
  | 0x54 => some (.scan x)
  | 0x55 => some (.matchLanes x)
  | 0x56 => some (if OpTable.xf x 0 1 = 0 then .tmovRead x else .tmovWrite x)
  | _ => none

/-- The control-flow opcodes (R196). -/
def control (op : Nat) (x : Fields) : Option Instr :=
  match op with
  | 0x58 => some (.braExtended x)
  | 0x59 => some (.jmp x)
  | 0x5A => some (if OpTable.xf x 0 1 = 0 then .call x else .callReg x)
  | 0x5B => some (if x.form = .base then .retBase x.a else .retExtended x)
  | 0x5C => some (.reform x)
  | 0x5D => some (if OpTable.xf x 0 1 = 0 then .cvgDecl x else .cvgJoin x)
  | 0x5E => some (if x.form = .base then .exitBase else .exitExtended x)
  | 0x5F => some (if x.form = .base then .yieldBase else if x.xop.toNat.testBit 0 then .yieldChk x else .yieldExtended x)
  | _ => none

/-- The tile and matrix opcodes (R196). -/
def matrix (op : Nat) (x : Fields) : Option Instr :=
  match op with
  | 0x60 => some (.talloc x)
  | 0x61 => some (.tfree x)
  | 0x62 => some (.tgive x)
  | 0x63 => some (.ttake x)
  | 0x64 => some (.tld x)
  | 0x65 => some (.tst x)
  | 0x66 => some (.tldv x)
  | 0x67 => some (.tstv x)
  | 0x68 => some (if OpTable.xf x 1 1 = 0 then .mma x else .mmaSign x)
  | 0x69 => some (.macc x)
  | 0x6A => some (.tstat x)
  | _ => none

/-- The engine, record, stage, barrier and queue opcodes (R196). -/
def engine (op : Nat) (x : Fields) : Option Instr :=
  match op with
  | 0x70 => some (.copy x)
  | 0x71 => some (.trace x)
  | 0x72 => some (.sxdraw x)
  | 0x73 => some (.sxpri x)
  | 0x74 => some (.silt x)
  | 0x75 => some (.enq x)
  | 0x76 => some (.cancel x)
  | 0x77 => some (if OpTable.xf x 0 3 = 0 then .stageInit x else if OpTable.xf x 0 3 = 1 then .stageAcqp x else if OpTable.xf x 0 3 = 2 then .stageAcqc x else if OpTable.xf x 0 3 = 3 then .stageRelp x else .stageRelc x)
  | 0x78 => some (if OpTable.xf x 0 1 = 0 then .barArrive x else .barInit x)
  | 0x79 => some (if OpTable.xf x 0 1 = 0 then .movqSend x else .movqRecv x)
  | _ => none

/-- The special-register, trap, SYS and NOP opcodes (R196). -/
def system (op : Nat) (x : Fields) : Option Instr :=
  match op with
  | 0x7A => some (if OpTable.xf x 0 1 = 0 then .sregRead x else .sregWrite x)
  | 0x7B => some (if OpTable.xf x 0 1 = 0 then .trapSoftware x else .trapBreak x)
  | 0x7C => some (if OpTable.xf x 0 4 = 0 then .sysRdsup x else if OpTable.xf x 0 4 = 1 then .sysWrsup x else if OpTable.xf x 0 4 = 2 then .sysSwap x else if OpTable.xf x 0 4 = 3 then .sysShoot x else .sysTret x)
  | 0x7D => some (if x.form = .base then .nopBase else .nopExtended x)
  | _ => none

end InstrOf

/-- The constructor that stands for an opcode and its fields (R196, R197). -/
def ofFields (op : Nat) (x : Fields) : Option Instr :=
  if op < 0x20 then InstrOf.arith op x
  else if op < 0x30 then InstrOf.ieee op x
  else if op < 0x40 then InstrOf.special op x
  else if op < 0x50 then InstrOf.memory op x
  else if op < 0x58 then InstrOf.lanes op x
  else if op < 0x60 then InstrOf.control op x
  else if op < 0x70 then InstrOf.matrix op x
  else if op < 0x7A then InstrOf.engine op x
  else InstrOf.system op x

/-- A half of a PAIR (R200). -/
def readHalf (w : W32) : Half :=
  { op := w.extractLsb' 25 7, d := w.extractLsb' 17 8, a := w.extractLsb' 9 8, b := w.extractLsb' 1 8 }

/-- PAIR (R200, R201): the reserved bits of its three words, then the halves. -/
def decodePair (ws : List W32) : Except DecodeCause Instr :=
  let w0 := ws.getD 0 0
  let w1 := ws.getD 1 0
  let w2 := ws.getD 2 0
  let h0 := readHalf w1
  let h1 := readHalf w2
  if w0.extractLsb' 0 15 != 0 || w1.getLsbD 0 || w2.getLsbD 0 || !h0.fits || !h1.fits then .error .illegalField
  else if !pairLegal h0 h1 then .error .illegalPair
  else .ok (.pair (Guard.ofCode (w0.extractLsb' 19 4).toNat) (Guard.ofCode (w0.extractLsb' 15 4).toNat) h0 h1)

/-- Decode steps 1 to 3 of R203. Words past the end of the list read as zero; fetch supplies every word. -/
def decode (ws : List W32) : Except DecodeCause Instr :=
  let w0 := ws.getD 0 0
  let f := wordForm w0
  let op := wordOp w0
  if op = 0x7E then (if f = .ext then decodePair ws else .error .illegalOp)
  else if op = 0x58 ∧ f = .base then .ok (.braBase (w0.extractLsb' 0 23))
  else match opForms op with
    | none => .error .illegalOp
    | some forms =>
      if !forms.contains f then .error .illegalOp
      else match readFields f ws with
        | none => .error .illegalField
        | some x =>
          if !fieldsLegal op x then .error .illegalField
          else match ofFields op x with
            | some i => .ok i
            | none => .error .illegalOp

/-- Words 0 of the four lengths (R183). -/
def word0 (f : Form) (op : Nat) (d a : BitVec 8) (low : BitVec 7) : W32 :=
  BitVec.ofNat 2 f.code ++ BitVec.ofNat 7 op ++ d ++ a ++ low

/-- Word 1 (R184). -/
def word1 (x : Fields) : W32 :=
  x.b ++ x.c ++ BitVec.ofNat 4 x.guard.code ++ x.la ++ x.set ++ BitVec.ofNat 5 x.ty.code

/-- Word 2 (R185). -/
def word2 (x : Fields) : W32 :=
  x.wait ++ BitVec.ofNat 2 x.rnd.code ++ BitVec.ofNat 3 x.scope.code ++ BitVec.ofBool x.kw ++ x.low

/-- The words of an opcode and its fields (R183 to R187). -/
def fieldWords (op : Nat) (x : Fields) : List W32 :=
  let lo := x.lit.extractLsb' 0 32
  let hi := x.lit.extractLsb' 32 32
  match x.form with
  | .base => [word0 .base op x.d x.a (x.b.setWidth 7)]
  | .lit => [word0 .lit op x.d x.a (x.b.setWidth 7), lo, hi]
  | .ext => [word0 .ext op x.d x.a x.xop, word1 x, word2 x]
  | .extLit => [word0 .extLit op x.d x.a x.xop, word1 x, word2 x, lo, hi]

/-- The word of a half (R200). -/
def halfWord (h : Half) : W32 := h.op ++ h.d ++ h.a ++ h.b ++ (0 : BitVec 1)

/-- The words of a well-formed instruction; a happening has none. -/
def encode (i : Instr) : List W32 :=
  match i with
  | .pair g0 g1 h0 h1 =>
    [BitVec.ofNat 2 Form.ext.code ++ BitVec.ofNat 7 0x7E ++ BitVec.ofNat 4 g0.code ++ BitVec.ofNat 4 g1.code ++ (0 : BitVec 15),
     halfWord h0, halfWord h1]
  | .braBase off => [BitVec.ofNat 2 Form.base.code ++ BitVec.ofNat 7 0x58 ++ off]
  | _ => match i.row? with
    | some (op, x, _) => fieldWords op x
    | none => []

/-- The bytes of a word at ascending addresses (R4: little-endian). -/
def wordBytes (w : W32) : List Byte := [w.extractLsb' 0 8, w.extractLsb' 8 8, w.extractLsb' 16 8, w.extractLsb' 24 8]

/-- The words of a string of bytes; a last word that is not whole is dropped. -/
def wordsOfBytes : List Byte → List W32
  | b0 :: b1 :: b2 :: b3 :: rest => (b3 ++ b2 ++ b1 ++ b0) :: wordsOfBytes rest
  | _ => []

/-- The five words of an instruction whose bits are w, bit 0 the least significant bit of the first word. -/
def tableWords (w : Nat) : List W32 := (List.range 5).map fun k => BitVec.ofNat 32 (w >>> (32 * k))

/-- The bytes that hold it in memory. -/
def tableBytes (w : Nat) : List Byte := (tableWords w).flatMap wordBytes

/-- What the decoder reads from an instruction whose bits are w, of which the opcode table gives nbits; the rest are 0. -/
def decodeTableWord (nbits w : Nat) : Option Instr :=
  (decode (wordsOfBytes (tableBytes (w % 2 ^ nbits)))).toOption

end Sys2Proof
end

