-- ==== Sys2Proof/Config.lean ====
section
/-! DEFINITION. What an implementation fixes, and the FREE VALUES: constants with no body, of which nothing can be
proved. A claim that mentions one holds whatever it is. -/

namespace Sys2Proof.Config

/-- FREE (DESIGN CHOICE, assumption 5). The cycles by which contention, queues and arbitration lengthen the n-th delay of a run past
its stated least value (R301, R326, R378, R451). -/
opaque extraDelay : Nat → Nat

/-- FREE (DESIGN CHOICE, assumption 7). Whether a read of a register inside a lookahead window returns the new value, by the issue
count, the lane and the register (R192, R118). -/
opaque windowRead : (issue lane reg : Nat) → Bool

/-- FREE (DESIGN CHOICE, assumption 8). The bits the special-function unit proposes for function `fn`, on an operand `bits` of
`width` bits (R255, R256). The model keeps them only when they lie within the bound of R256. -/
opaque sfuBits : (fn width bits : Nat) → Nat

/-- FREE (DESIGN CHOICE, assumption 9). The n-th byte read from another module over Ewerlink or from PCIe space (R430). -/
opaque foreignByte : Nat → Byte

/-- FREE (DESIGN CHOICE, assumption 9). Whether another module refuses the n-th access over Ewerlink (R431). -/
opaque foreignRefuses : Nat → Bool

/-- FREE (DESIGN CHOICE, assumption 10). Whether a boot image carries a signature that verifies under RSASSA-PKCS1-v1_5 and a key the boot
ROM accepts (R436). -/
opaque signatureVerifies : (message signature : List Byte) → Bool

/-- FREE (DESIGN CHOICE, assumption 10). Whether a configuration record carries a signature that verifies under a key listed in the boot
image (R436, step 3). -/
opaque recordVerifies : (image message signature : List Byte) → Bool

/-- FREE (DESIGN CHOICE, assumption 10). Bytes of the RSASSA-PKCS1-v1_5 signature of a report under the device identity key (R441, R443). -/
opaque identitySignature : (message : List Byte) → Nat → Byte

/-- FREE (DESIGN CHOICE, assumption 11). Which way an exact level-index result rounds that interval arithmetic of the model's largest
precision does not separate from a rounding boundary (R107). No operand is known that reaches it. -/
opaque levelIndexUnresolved : Nat → Bool

/-- CHRONO_SKEW of R154, in ticks. -/
def chronoSkew : Nat := 4

/-- Compute dies, cluster sites of a die, cores of a cluster (R9, R12, R13). -/
def dies : Nat := 2
def sites : Nat := 36
def coresPerCluster : Nat := 4

/-- Hardware contexts of the package (R20). -/
def contexts : Nat := 32

/-- Limits of a context bank (R32). -/
def bankThreads : Nat := 2048
def bankRegisters : Nat := 65536
def bankGroups : Nat := 64
def sieveBins : Nat := 64

/-- Records that a queue holds (R69), entries of the credit table (R70), of the fault ring (R334). -/
def queueDepth : Nat := 4096
def creditEntries : Nat := 256
def faultRingEntries : Nat := 256

/-- A line in bytes, and the bytes of one single-copy atomic unit (R151, R155). -/
def lineBytes : Nat := 128
def unitBytes : Nat := 16

/-- Ticks of the lease classes 0 to 3 (R157). -/
def leaseTicks : Nat → Nat
  | 0 => 0
  | 1 => 256
  | 2 => 2000
  | _ => 16000

/-- The 1 GHz tick in which a cycle of the 2.9 GHz clock lies (R3). -/
def tickOf (cycle : Nat) : Nat := cycle * 10 / 29

end Sys2Proof.Config
end

