-- ==== Sys2Proof/Machine/Sha256.lean ====
section
/-! DEFINITION. SHA-256 over bytes, as the boot ROM and the security block use it (spec/26_system.md R436, R441, R443). Its constants
are computed from their definition: the first 32 bits of the fractions of roots of primes. -/

namespace Sys2Proof.Machine.Sha256

/-- The largest r below 2^bits with r ^ e ≤ n. -/
def rootOf (e n : Nat) : (bits : Nat) → (r : Nat) → Nat
  | 0, r => r
  | b + 1, r => rootOf e n b (if (r + 2 ^ b) ^ e ≤ n then r + 2 ^ b else r)

/-- The first n primes, from a bound that contains them. -/
def primes (n bound : Nat) : List Nat :=
  (((List.range bound).filter fun p => decide (2 ≤ p) && (List.range 18).all fun d => decide (d < 2 ∨ p ≤ d) || p % d != 0)).take n

/-- 32 bits of the fraction of the e-th root of p. -/
def fraction (e p : Nat) : W32 := BitVec.ofNat 32 (rootOf e (p * 2 ^ (32 * e)) 37 0)

/-- The constant of each of the 64 rounds: from cube roots. -/
def constants : List W32 := (primes 64 312).map (fraction 3)

/-- The chain value before the first block: from square roots. -/
def chain0 : List W32 := (primes 8 20).map (fraction 2)

/-- Message bytes with the padding of SHA-256: a multiple of 64 bytes. -/
def pad (m : List Byte) : List Byte :=
  let zeros := (119 - m.length % 64) % 64
  (m ++ 0x80#8 :: List.replicate zeros 0) ++ (List.range 8).map fun k => BitVec.ofNat 8 (8 * m.length / 2 ^ (8 * (7 - k)))

/-- The k-th big-endian word of bytes. -/
def wordAt (m : List Byte) (k : Nat) : W32 := ((m.drop (4 * k)).take 4).foldl (fun v b => v <<< 8 ||| b.setWidth 32) 0

/-- The exclusive or of three rotations to the right. -/
def spin (x : W32) (i j k : Nat) : W32 := x.rotateRight i ^^^ x.rotateRight j ^^^ x.rotateRight k

/-- The exclusive or of two rotations to the right and a shift. -/
def drift (x : W32) (i j k : Nat) : W32 := x.rotateRight i ^^^ x.rotateRight j ^^^ (x >>> k)

/-- A block's words with n more of the schedule behind them. -/
def schedule (ws : List W32) : Nat → List W32
  | 0 => ws
  | n + 1 =>
    let ws := schedule ws n
    let back := fun (k : Nat) => ws.getD (ws.length - k) 0
    ws ++ [back 16 + drift (back 15) 7 18 3 + back 7 + drift (back 2) 17 19 10]

/-- One round over the eight working words, with its word of the schedule and its constant. -/
def turn (v : List W32) (word constant : W32) : List W32 :=
  let at' := fun (k : Nat) => v.getD k 0
  let choice := at' 6 ^^^ (at' 4 &&& (at' 5 ^^^ at' 6))
  let most := (at' 0 &&& (at' 1 ||| at' 2)) ||| (at' 1 &&& at' 2)
  let mixed := at' 7 + spin (at' 4) 6 11 25 + choice + constant + word
  (mixed + (spin (at' 0) 2 13 22 + most)) :: ((v.take 7).zipIdx.map fun p => if p.2 = 3 then p.1 + mixed else p.1)

/-- The chain value after a block of 64 bytes. -/
def absorb (chain : List W32) (block : List Byte) : List W32 :=
  let ws := schedule ((List.range 16).map (wordAt block)) 48
  let out := ((ws.zip constants)).foldl (fun v p => turn v p.1 p.2) chain
  (chain.zip out).map fun p => p.1 + p.2

/-- The digest of a message, 32 bytes. -/
def digest (m : List Byte) : List Byte :=
  let bytes := pad m
  let chain := (List.range (bytes.length / 64)).foldl (fun c k => absorb c ((bytes.drop (64 * k)).take 64)) chain0
  chain.flatMap fun w => (List.range 4).map fun k => w.extractLsb' (8 * (3 - k)) 8

end Sys2Proof.Machine.Sha256
end

