-- ==== Sys2Proof/Machine/State.lean ====
section
/-! DEFINITION. The state of the KN9602 as plain data: every piece of state that spec/ names, grouped by the unit that
holds it, and the machine right after reset. Sparse tables list only the entries that differ from the reset value. -/

namespace Sys2Proof.Machine

/-- Why the machine stops. -/
inductive Fault where
  /-- Raised by `step` when BOOTERR is driven: no unit outside the host die leaves reset (R437). Safe: the spec gives
  the device no further step until the supply rises again. -/
  | heldInReset
  deriving DecidableEq, Repr

/-- Why an instruction has no meaning. -/
inductive Refusal where
  /-- Raised by `exec` for an instruction that the model gives no meaning yet. Safe. -/
  | notModelled (mnemonic : String)
  deriving DecidableEq, Repr

/-- Module memory and the Silt's records: (address, byte), addresses rising, no entry equal to 0 (R119, R152, R435). -/
structure Memory where
  cells : List Host.Cell
  deriving DecidableEq, Repr

/-! ### Threads, groups, teams -/

/-- How a thread or team ended (R28, R59). -/
inductive Ending where
  | normal | cancelled | faulted
  deriving DecidableEq, Repr

/-- What a WAITING thread waits for (R28, R365). -/
inductive WaitOn where
  | cvg (n : Nat) | barrier (b : Nat) | stage (ring : Nat) | queue (q : Nat)
  /-- A TTAKE: the handle, and the result that its grant delivers. -/
  | handle (h result : Nat)
  deriving DecidableEq, Repr

/-- A thread's status (R28). -/
inductive Status where
  | eligible
  | waiting (on : WaitOn)
  | binned
  | parked
  | exited (how : Ending)
  deriving DecidableEq, Repr

/-- A lookahead window that an instruction opened in a thread (R192): the registers it writes, their old values, the
instructions of the window still to come, the cycle from which its result reads as new, and the predicate that it writes, with the old
value and the new one. Registers are numbered as the instruction's field numbers them, in the register file of the mode in which the thread
was (R189). -/
structure Window where
  op    : Nat
  first : Nat
  old   : List W32
  left  : Nat
  due   : Nat
  pred  : Option (Nat × Bool × Bool)
  handler : Bool
  deriving DecidableEq, Repr

/-- A result of a short-latency instruction that is written at issue and can be read from the cycle `due` on (R237): its registers,
numbered as `regKey` numbers them, and its predicate. -/
structure Busy where
  first : Nat
  count : Nat
  pred  : Option Nat
  due   : Nat
  deriving DecidableEq, Repr

/-- A thread (R27), with its handler state (R335, R336) and its ordering state (R161, R165). -/
structure Thread where
  ref     : TRef
  team    : Nat
  tidx    : Nat
  status  : Status
  group   : Nat
  lane    : Nat
  /-- Drawn by the Sieve, its move not yet complete (R45). -/
  moving  : Bool
  pc      : W64
  regs    : List W32
  /-- Bit n is pn; bit 0 is always 1 (R191). -/
  preds   : BitVec 8
  fstat   : BitVec 7
  /-- sb1 to sb6 (R193). -/
  sb      : List Nat
  wmax    : Nat
  handler : Bool
  hv      : List W32
  /-- The set-aside counters of the interrupted code (R335), and which were non-zero at entry. -/
  aside   : List Nat
  savedAt : BitVec 6
  trapPc  : W64
  trapCause : W32
  trapInfo  : W64
  /-- A FENCE in progress (R165). -/
  fence   : Option Scope
  /-- The thread is ending and waits for its accesses (R311). -/
  dying   : Option Ending
  /-- Cause, 64 KiB unit and PC of the parked fault this thread is retrying (R333). -/
  retry   : Option (Nat × Nat × W64)
  windows : List Window
  busy    : List Busy
  deriving DecidableEq, Repr

/-- A group (R29): its issue counter (R47) and the return address of its latest CALL (R326). -/
structure Group where
  ref     : GRef
  team    : Nat
  counter : Nat
  link    : Option W64
  /-- The first cycle in which it can issue again (R326, R335). -/
  ready   : Nat
  /-- The threads that were eligible and not active at its latest issue (R47). -/
  waits   : List TRef
  /-- It has issued a YIELD in this cycle (R312). -/
  yields  : Bool
  deriving DecidableEq, Repr

/-- What a thread signs an MMA with (R374): its format word, handles and CLR, and the slot it counts in. -/
structure Vote where
  format  : W32
  a       : Nat
  b       : Nat
  clr     : Bool
  set     : Nat
  handler : Bool
  deriving DecidableEq, Repr

/-- A convergence register (R50). `signed` pairs a signer with its vote if it signed by MMA.sign (R53). -/
structure Cvg where
  isOpen  : Bool
  e       : Nat
  s       : Nat
  members : List TRef
  signed  : List (TRef × Option Vote)
  deriving DecidableEq, Repr

/-- One stage of a ring (R55): its full bit, and its owner's team core index and slot where the owner is valid. -/
structure Stage where
  full  : Bool
  owner : Option (Nat × Nat)
  deriving DecidableEq, Repr

/-- A waiting acquire (R56): its threads and the register that receives the stage number. -/
structure Acquire where
  op      : Nat
  threads : List TRef
  reg     : Nat
  handler : Bool
  set     : Nat
  deriving DecidableEq, Repr

/-- A stage ring (R55). N is the length of `stages`. -/
structure Ring where
  stages   : List Stage
  producer : Nat
  consumer : Nat
  toProduce : List Acquire
  toConsume : List Acquire
  deriving DecidableEq, Repr

/-- The state of a tile handle (R359, R360). -/
inductive HandleState where
  | empty
  | held (core : CoreId) (slot : Nat)
  | given (core : CoreId) (slot : Nat)
  deriving DecidableEq, Repr

/-- A tile handle: its state and the tile-store slot bound to it (R357, R359). -/
structure Handle where
  state : HandleState
  slot  : Nat
  deriving DecidableEq, Repr

/-- A kernel header (R63). -/
structure Header where
  entry   : W64
  width   : Nat
  shape   : Nat
  place   : Nat
  vregs   : Nat
  tsize   : Nat
  plot    : Nat
  tiles   : Nat
  privw   : Nat
  handler : Int
  wins    : List Nat
  deriving DecidableEq, Repr

/-- A core's part of a team (R33, R35): its first slot, its threads and its allotment of group slots. -/
structure Part where
  core   : CoreId
  slot0  : Nat
  count  : Nat
  groups : List Nat
  deriving DecidableEq, Repr

/-- A team (R33, R34, R58): its shared state is held at its first part's core (R36). `half` is the bridge half of a part. -/
structure Team where
  id       : Nat
  ctx      : Nat
  run      : Nat
  /-- The special register TEAM. -/
  number   : Nat
  prio     : Nat
  payload  : W64
  header   : Header
  parts    : List Part
  cancel   : Bool
  sieveAge : BitVec 16
  cvgs     : List Cvg
  tregs    : List W32
  rings    : List Ring
  /-- VBASE and SIZEW of windows k0 to k7 as read at launch (R149). -/
  windows  : List (Option (Nat × Nat))
  /-- h0 to h31 of each half that has a pool (R357, R428). -/
  handles  : List Handle
  handles1 : List Handle
  /-- The draw whose policy record made the team: die and draw (R293). -/
  policy   : Option (Nat × Nat)
  ended    : Option Ending
  deriving DecidableEq, Repr

/-! ### Records and contexts -/

/-- Who posted a record, where the poster follows it: the Sextant (policy record or wave) or the Kiln (band). -/
inductive Poster where
  | program
  | policy (die draw : Nat)
  | wave (die draw k : Nat)
  | band (die sweep b : Nat)
  deriving DecidableEq, Repr

/-- A queued task record (R62, R69): `seq` is its posting order; `marked` means cancelled (R71). -/
structure Record where
  seq      : Nat
  node     : W64
  payload  : W64
  deadline : W64
  prio     : Nat
  cgroup   : Nat
  dep      : Nat
  tag      : Nat
  succ     : Nat
  tcount   : Nat
  tbase    : Nat
  hint     : Nat
  hdie     : Nat
  hcluster : Nat
  /-- The kernel header as its validation read it (R67). -/
  header   : Header
  /-- The 64 bytes as posted (R446). -/
  raw      : List Byte
  poster   : Poster
  marked   : Bool
  deriving DecidableEq, Repr

/-- A record that has been dequeued (R70, R72): the teams placed and ended so far. -/
structure Run where
  id      : Nat
  ctx     : Nat
  record  : Record
  placed  : Nat
  ended   : Nat
  result  : Ending
  cancel  : Bool
  /-- The site that received the previous team (R74). -/
  lastSite : Option Nat
  /-- The unit of its context's log at which its present DEQ entry starts (R446, R447). -/
  entry    : Option Nat
  deriving DecidableEq, Repr

/-- A Meridian barrier (R172, R298, R299, R351). -/
structure Barrier where
  p       : Nat
  scope   : Scope
  arr     : Nat
  dep     : Nat
  pend    : Nat
  bwmax   : Nat
  sstep   : Nat
  /-- Holding die. -/
  die     : Nat
  teams   : List Nat
  waiters : List TRef
  /-- Departures that count at the completion (R299). -/
  late    : Nat
  /-- The largest WMAX of a thread that has departed, which counts in every later superstep (R174). -/
  gone    : Nat
  /-- Every party has departed and the last completion is over (R299). -/
  finished : Bool
  /-- A team of core-pair or bridge shape has bound to it (R174). -/
  wide     : Bool
  broken  : Bool
  deriving DecidableEq, Repr

/-- The per-context registers and tables (16 R320, R322; 09 R121, R145, R149; 05 R64 to R70; 18 R334; 24 R422; 26 R445). -/
structure Context where
  ctl      : BitVec 8
  ranges   : List (W64 × W64 × W64)
  priv     : W64
  cwtbase  : W64
  save     : W64
  queue    : List Record
  rejects  : Nat
  lastCode : Nat
  late     : Nat
  cgsweep  : W64
  credits  : List Nat
  retiring : List Nat
  barriers : List (Nat × Barrier)
  watchdog : Nat
  /-- Fault ring: (index, 32 bytes), FRWRITE, FRREAD, records that wait for an entry (R334, R413). -/
  ring     : List (Nat × List Byte)
  frWrite  : W32
  frRead   : W32
  frWait   : List (List Byte)
  mqdest   : List W64
  logBase  : W64
  logLimit : W64
  /-- LOGHEAD.UNITS; LOGCTL.STALLED and REPLAY (R445). -/
  logHead  : Nat
  stalled  : Bool
  replay   : Bool
  /-- Entries that a replay has used, by their place in 16-byte units (R447). -/
  replayed : List Nat
  /-- Flits that the log has recorded (R446). -/
  msgs     : Nat
  /-- Valid core images and accumulator images of the save area (R322). -/
  coreImages : List CoreId
  accImages  : List (Nat × Nat)
  deriving DecidableEq, Repr

/-! ### Cores -/

/-- A Sieve bin that holds threads, oldest filing first, each with the cycle of its filing in bank-active time (R41). -/
structure Bin where
  ctx     : Nat
  index   : Nat
  team    : Nat
  pc      : W64
  key     : Nat
  threads : List (Nat × Nat)
  deriving DecidableEq, Repr

/-- A filed thread that waits for an empty bin (R42): it is BINNED, its filing not complete. -/
structure Filing where
  ctx  : Nat
  team : Nat
  slot : Nat
  pc   : W64
  key  : Nat
  deriving DecidableEq, Repr

/-- A page presence cache entry (R129): intermediate address of the page, its size in bytes, PRD PWR PEX PAT, its frame. -/
structure PageEntry where
  page  : Nat
  size  : Nat
  perms : BitVec 4
  frame : Nat
  deriving DecidableEq, Repr

/-- An L1 line (R136, R148, R159, R130). `line` is its intermediate address; a private line is write-back. -/
structure L1Line where
  ctx    : Nat
  line   : Nat
  bank   : Nat
  isPrivate : Bool
  dirty  : Bool
  /-- An error in it could not be corrected (R349). -/
  poison : Bool
  leaseEnd : Nat
  perms  : BitVec 4
  frame  : Nat
  data   : List Byte
  deriving DecidableEq, Repr

/-- A constant-cache line of a launch (R150). -/
structure KLine where
  ctx  : Nat
  run  : Nat
  line : Nat
  data : List Byte
  deriving DecidableEq, Repr

/-- A bank mode change in progress (R137). -/
structure BankChange where
  bank : Nat
  mode : Nat
  /-- Its lines have gone back and are dropped (steps 2 and 3). -/
  cleared : Bool
  deriving DecidableEq, Repr

/-- A peer window (R140): owning team, plot, offset, and the single writer team under SW. -/
structure PlotWindow where
  index  : Nat
  team   : Nat
  plot   : Nat
  offset : Nat
  writer : Option Nat
  deriving DecidableEq, Repr

/-- Who may access a plot (R143). -/
inductive PlotHolder where
  | heldBy (team : Nat)
  | givenTo (team : Nat)
  deriving DecidableEq, Repr

/-- A plot (R139, R143): its units as (bank, unit) and its bytes that are not zero, by plot offset. -/
structure Plot where
  id     : Nat
  ctx    : Nat
  core   : CoreId
  owner  : Nat
  holder : PlotHolder
  units  : List (Nat × Nat)
  bytes  : List (Nat × Byte)
  deriving DecidableEq, Repr

/-- A message (R421): sixteen bytes with the sender's core and context, and the receive queue it goes to. -/
structure Flit where
  id     : Nat
  op     : Nat
  bytes  : List Byte
  sender : CoreId
  slot   : Nat
  ctx    : Nat
  dest   : CoreId
  queue  : Nat
  /-- The sender's instruction and slot set, for its last effect. -/
  from'  : Option (TRef × Nat × Bool)
  deriving DecidableEq, Repr

/-- A FIFO entry of eight flits (R144): the flits entered so far and those still to be read. -/
structure FifoEntry where
  bank   : Nat
  ctx    : Nat
  queue  : Nat
  filled : Nat
  flits  : List Flit
  deriving DecidableEq, Repr

/-- A waiting receive (R300, R423): lanes still to be served in ascending order, and the lanes served. -/
structure Receive where
  op      : Nat
  ctx     : Nat
  queue   : Nat
  threads : List TRef
  served  : List TRef
  reg     : Nat
  handler : Bool
  set     : Nat
  deriving DecidableEq, Repr

/-- A swap in progress (R323, R343, R345): the named context, whether a spill and fill is still due. -/
structure Swap where
  ctx    : Nat
  spill  : Bool
  /-- The cycle at which an exchange that has begun is over. -/
  until' : Option Nat
  deriving DecidableEq, Repr

/-- A core (R13, R76 to R79, R129 to R150, R343). -/
structure Core where
  id       : CoreId
  active   : Option Nat
  shadow   : Option Nat
  swap     : Option Swap
  /-- Per context the clock that ages its bins (R41): the cycle at which it read 0 while the bank is active, its frozen
  value while it is shadow. -/
  banks    : List (Nat × Nat)
  modes    : List (BitVec 2)
  changes  : List BankChange
  /-- Positions 0 to 7 of the active set, each with its group slot and the cycle of its entry (R76, R78). -/
  positions : List (Option (Nat × Nat))
  /-- Pending groups with the cycle since which each is ready (R78). -/
  pending  : List (Nat × Option Nat)
  pointer  : Nat
  /-- The frozen sets of the shadow bank (R343). -/
  frozenPositions : List (Option (Nat × Nat))
  frozenPending   : List (Nat × Option Nat)
  frozenPointer   : Nat
  /-- L, MISS, VHIT, the permission pointer and the victim tags (R79). -/
  limit    : Nat
  miss     : Nat
  vhit     : Nat
  permit   : Nat
  victims  : List (Nat × Nat)
  bins     : List Bin
  /-- Filings that wait for an empty bin, and per context the bin that is being drawn empty for them (R42). -/
  filings  : List Filing
  forced   : List (Nat × Nat)
  pages    : List PageEntry
  l1       : List L1Line
  klines   : List KLine
  windows  : List PlotWindow
  /-- Windows that have been open and are closed: context, index (R143). -/
  closed   : List (Nat × Nat)
  fifo     : List FifoEntry
  /-- FIFO entries that hold stage rings: bank, team, ring (R144, R297). -/
  ringEntries : List (Nat × Nat × Nat)
  receives : List Receive
  deriving DecidableEq, Repr

/-- A core as reset leaves it (R135, R79): the banks in their reset modes, L at 64, and the named context in the active
bank (DESIGN CHOICE, assumption 3). -/
def Core.reset (id : CoreId) (active : Option Nat) : Core :=
  { id := id, active := active, shadow := none, swap := none, banks := []
    modes := List.replicate 8 0#2 ++ List.replicate 36 1#2 ++ List.replicate 4 2#2
    changes := [], positions := List.replicate 8 none, pending := [], pointer := 0
    frozenPositions := List.replicate 8 none, frozenPending := [], frozenPointer := 0
    limit := 64, miss := 0, vhit := 0, permit := 0, victims := [], bins := [], filings := [], forced := [], pages := [], l1 := [], klines := []
    windows := [], closed := [], fifo := [], ringEntries := [], receives := [] }

/-! ### Work in flight -/

/-- What a lane asks of one 128-byte line, or of a 16-byte unit of a tile image: `off` is its byte from the request's address, `size` its bytes, `reg` the first
register its bytes are read from or written to, `data` the bytes to store, `cmp` those to compare, `own` the bytes that
its own store queue supplies (R161). -/
structure LanePart where
  t    : TRef
  off  : Nat
  size : Nat
  reg  : Nat
  data : List Byte
  cmp  : List Byte
  own  : List (Option Byte)
  deriving DecidableEq, Repr

/-- What a request does where it is performed (R155, R162, R277, R283, R148, R150). -/
inductive ReqKind where
  | load (lease : Nat)
  | store
  | atomic (aop : Nat) (rnd : Rnd)
  | fill (lease : Nat)
  | sliceFill
  | constFill (run : Nat)
  | privLoad
  | privStore
  | writeBack
  /-- A 16-byte unit of a tile image, for a use of the tile store (R367). -/
  | tileLoad (use : Nat)
  | tileStore (use : Nat)
  deriving DecidableEq, Repr

/-- Where a request goes. -/
inductive Route where
  /-- Module memory, by the frame under which its page check passed (R128, R151). -/
  | home
  /-- A peer window of a core (R276, R277). -/
  | packet (home : CoreId) (window off : Nat)
  | aperture
  | remote
  | pcie
  deriving DecidableEq, Repr

/-- How far a request has come. -/
inductive ReqStage where
  | walking (walk : Nat)
  /-- Its page check has passed; others of its instruction have not been answered. -/
  | checked
  /-- Its page check has failed with this cause, in the page that starts at this intermediate address. -/
  | failed (cause page : Nat)
  /-- Its page check has passed; it waits for its turn at a tile slot (R361). -/
  | queued
  | travelling
  | performed
  /-- The line of a private load is there; another line of a lane that it serves is not (R272). -/
  | returned
  | refused (cause : Nat)
  deriving DecidableEq, Repr

/-- One request for a 128-byte line (R273), or for a 16-byte unit of a tile image (R367), with the instruction it belongs to: `op` numbers the
instruction, `pc` is its address, `set` the slot it counts in, `handler` whether handler code issued it. -/
structure Request where
  id      : Nat
  op      : Nat
  core    : CoreId
  ctx     : Nat
  group   : Option Nat
  pc      : W64
  set     : Nat
  handler : Bool
  kind    : ReqKind
  route   : Route
  ty      : Ty
  va      : Nat
  ia      : Nat
  frame   : Nat
  perms   : BitVec 4
  parts   : List LanePart
  stage   : ReqStage
  line    : List Byte
  old     : List (List Byte)
  w       : Nat
  leaseEnd : Nat
  flags   : BitVec 7
  /-- A line on its way back holds an error that could not be corrected (R349). -/
  poison  : Bool
  deriving DecidableEq, Repr

/-- What a page check needs (R123): reads, writes, atomics, fetch. -/
inductive Need where
  | read | write | atomic | fetch
  deriving DecidableEq, Repr

/-- Who waits for a page check at the walking die (R131). -/
inductive WalkFor where
  /-- Requests of an instruction on one page. -/
  | requests
  /-- The fetch of an instruction by these threads of a group (R332). -/
  | fetch (g : GRef) (pc : W64) (threads : List TRef)
  deriving DecidableEq, Repr

/-- A page check at the walking die (R131). -/
structure Walk where
  id   : Nat
  core : CoreId
  ctx  : Nat
  va   : Nat
  ia   : Nat
  need : Need
  who  : WalkFor
  /-- A shoot-down has passed since it began: its answer fills no cache (R128). -/
  stale : Bool
  deriving DecidableEq, Repr

/-- A parked sub-group (R332). -/
structure Parked where
  ctx     : Nat
  va      : Nat
  ia      : Nat
  cause   : Nat
  fetch   : Bool
  threads : List TRef
  deriving DecidableEq, Repr

/-- What a long-latency result writes in one lane: registers from `reg`, a predicate, flags. -/
structure ResultLane where
  t     : TRef
  reg   : Nat
  vals  : List W32
  pred  : Option (Nat × Bool)
  flags : BitVec 7
  deriving DecidableEq, Repr

/-- One lane's access of a supervisor register (R321): the context and memory die that its selector names, the register's
number, the value to write, or the register that receives what is read. -/
structure SupAccess where
  t     : TRef
  ctx   : Nat
  die   : Nat
  num   : Nat
  value : Option W64
  reg   : Nat
  deriving DecidableEq, Repr

/-- A long-latency result of no memory access, in flight to its lanes. -/
structure Result where
  id      : Nat
  op      : Nat
  set     : Nat
  handler : Bool
  lanes   : List ResultLane
  /-- Threads whose slot it releases. -/
  counted : List TRef
  /-- The group whose fetch it holds suspended (R321, R326). -/
  holds   : Option GRef
  /-- Cycles after `base` at which the stages or lane positions of a REDUCE or SCAN end, and the number complete while its
  bank is shadow (R265). -/
  stages  : List Nat
  base    : Nat
  held    : Option Nat
  /-- Of a SYS.shoot: the pages with their sizes, and the requests under their old entries that must first be performed (R128,
  R324). -/
  pages   : List (Nat × Nat)
  waits   : List Nat
  /-- Of SYS.rdsup and SYS.wrsup: the accesses, which are made with the answer (R321). -/
  sups    : List SupAccess
  /-- It is a load or store, performed in the L1 or the plot, whose value or acknowledgement has not come: fences wait for it (R163). -/
  access  : Bool
  /-- A wait on it is a wait for a long-latency result (R78, R268); its instruction can raise a flag (R93). -/
  long    : Bool
  raises  : Bool
  /-- Atomics of the plot: the thread and the old value of the log entry that each makes at its return (R446). -/
  logs    : List (TRef × Nat)
  deriving DecidableEq, Repr

/-- An access on its way to a team's holding core, or its answer on the way back (R36): the opcode and fields, the threads,
the source word of each, the instruction number that its register result waits under, and whether each participates. -/
structure Arrival where
  due     : Nat
  group   : GRef
  team    : Nat
  op      : Nat
  x       : Fields
  threads : List (TRef × Bool × W32)
  result  : Nat
  answer  : Bool
  /-- Handler code issued it. -/
  handler : Bool
  deriving DecidableEq, Repr

/-! ### Tile store and matrix engine -/

/-- A tile (R358): element type code, rows, columns, its image of R366. -/
structure Tile where
  et   : Ty
  rows : Nat
  cols : Nat
  data : List Byte
  deriving DecidableEq, Repr

/-- Where a tile-store slot belongs (R357, R408). -/
inductive SlotOwner where
  | free
  | pool (team : Nat)
  | gather
  | hidden (die band j : Nat)
  deriving DecidableEq, Repr

/-- A tile-store slot (R357, R361): its owner, whether a handle binds it, whether it drains, its uses in order
(use number, whether it writes), its tile. -/
structure TileSlot where
  die    : Nat
  site   : Nat
  slot   : Nat
  owner  : SlotOwner
  bound  : Bool
  drains : Bool
  uses   : List (Nat × Bool)
  tile   : Tile
  deriving DecidableEq, Repr

/-- What a tile use in flight will do when its turn comes (R361, R366 to R368). -/
inductive UseKind where
  /-- TLD from global memory and TST to it: their requests carry the units. -/
  | loadGlobal
  | storeGlobal
  /-- TLD from the plot, which was read at issue (R167), and TST to it, at its offset. -/
  | loadPlot (image : List Byte)
  | storePlot (offset : Nat)
  | readFragments (dst : Nat) (lanes : List (TRef × W32))
  | writeFragments (lanes : List (TRef × W32 × W32))
  deriving DecidableEq, Repr

/-- A tile use in flight. -/
structure TileUse where
  id      : Nat
  op      : Nat
  core    : CoreId
  ctx     : Nat
  group   : Option Nat
  team    : Nat
  pc      : W64
  set     : Nat
  handler : Bool
  die     : Nat
  site    : Nat
  slot    : Nat
  kind    : UseKind
  threads : List TRef
  /-- The cycles it takes once its turn has come, and whether it has begun. -/
  cycles  : Nat
  begun   : Bool
  deriving DecidableEq, Repr

/-- An accumulator element (R100). -/
structure Acc where
  w     : BitVec 128
  nav   : Bool
  ov    : Bool
  count : Nat
  deriving DecidableEq, Repr

/-- A context's accumulator bank of one cluster: its elements that are not clear (R83, R370). -/
structure AccBank where
  ctx   : Nat
  die   : Nat
  site  : Nat
  elems : List (Nat × Acc)
  deriving DecidableEq, Repr

/-- A matrix operation (R80, R371): waiting for an entry, or in entry `entry` of the reservation table. -/
structure MmaOp where
  id      : Nat
  ctx     : Nat
  die     : Nat
  site    : Nat
  team    : Nat
  prio    : Nat
  realTime : Bool
  format  : W32
  clr     : Bool
  slotA   : Nat
  slotB   : Nat
  useA    : Nat
  useB    : Nat
  kdim    : Nat
  pass    : Nat
  age     : Nat
  /-- The grant at which its age reached 255 (R81). -/
  saturated : Option Nat
  entry   : Option Nat
  voters  : List (TRef × Nat × Bool)
  group   : Option GRef
  /-- The cycle of its vote (R378). -/
  voted   : Nat
  cvg     : Option Nat
  deriving DecidableEq, Repr

/-- A MACC that has not yet read all its lanes (R375): the lanes still to read with their elements, each with the operations
that it waits for, and those read. -/
structure MaccOp where
  id      : Nat
  ctx     : Nat
  die     : Nat
  site    : Nat
  reg     : Nat
  target  : Nat
  rnd     : Rnd
  clr     : Bool
  set     : Nat
  handler : Bool
  wide    : Bool
  todo    : List (TRef × Nat × List Nat)
  done    : List ResultLane
  deriving DecidableEq, Repr

/-- A cluster's matrix engine (R80 to R83): its two context places, the operation whose pass is granted and whether its
permit has come, the place served last, the count of grants. -/
structure Engine where
  die    : Nat
  site   : Nat
  places : List (Option Nat)
  granted : Option (Nat × Bool)
  last   : Nat
  grants : Nat
  deriving DecidableEq, Repr

/-! ### Engine commands -/

/-- A copy descriptor (R289). -/
structure CopyDesc where
  src   : W64
  dst   : W64
  dsp   : Nat
  ssp   : Nat
  esize : Nat
  dims  : List (Nat × Int × Int)
  deriving DecidableEq, Repr

/-- The kinds of engine command (R288). -/
inductive CmdKind where
  | copy (desc : Option CopyDesc)
  | trace
  | sxdraw
  | silt
  deriving DecidableEq, Repr

/-- One lane of an engine command: destination register, address, opB, whether its work is done. A TRACE lane keeps the
hierarchy window it read at issue (R382). -/
structure CmdLane where
  t    : TRef
  reg  : Nat
  addr : W64
  b    : W32
  hwin : Option (W64 × W64 × W64)
  done : Bool
  /-- A TRACE lane's outputs, from byte `outAt` of its record, and its status, once its traversal is known. -/
  outAt : Nat
  out   : List Byte
  status : W32
  /-- Its thread has gone with its team: the status is discarded (R302). -/
  gone   : Bool
  deriving DecidableEq, Repr

/-- An engine command in flight (R170, R173, R288). -/
structure Cmd where
  id      : Nat
  op      : Nat
  core    : CoreId
  ctx     : Nat
  team    : Nat
  /-- Its team has core-pair or bridge shape (R170). -/
  wide    : Bool
  set     : Nat
  handler : Bool
  kind    : CmdKind
  lanes   : List CmdLane
  acq     : Bool
  rel     : Bool
  scope   : Scope
  barrier : Option Nat
  /-- Bytes still counted in the barrier's PEND. -/
  counted : Nat
  ewmax   : Nat
  /-- The first cycle at which every write it has sent outside the module has been acknowledged (R170). -/
  acked   : Nat
  /-- Writes that it has sent over an Ewerlink port, each with the cycle of its acknowledgement (R434). -/
  remote  : List (Nat × Nat)
  /-- Parts written that have still to complete (R173): their bytes, largest W, and the cycle at which their writes are acknowledged. -/
  dues    : List (Nat × Nat × Nat)
  /-- Completed parts of the lane being copied, and its descriptor. -/
  parts   : Nat
  realTime : Bool
  /-- It has begun: its acquire wait is over and its queue has reached it. -/
  begun   : Bool
  /-- Its accesses are done; its release wait may still run. -/
  ended   : Bool
  /-- The intermediate address of an absent page that it waits for (R288). -/
  blocked : Option Nat
  /-- Accesses of the issuing threads that it waits for (R170, R288): requests, results, flits and tile uses, by number. -/
  after   : List Nat
  deriving DecidableEq, Repr

/-! ### Memory side -/

/-- A line that a cache slice holds (R130, R158, R424): most recently used first. -/
structure SliceLine where
  die   : Nat
  slice : Nat
  line  : Nat
  lease : Nat
  perms : BitVec 4
  frame : Nat
  ctx   : Nat
  deriving DecidableEq, Repr

/-- A move in progress (R133, R134). A promotion names its region and the page it has reached. -/
structure Move where
  page     : Nat
  frame    : Nat
  oldFrame : Nat
  promotion : Option Nat
  /-- 2 MiB frame of a promotion, pages done, and whether it is to be abandoned after the present page. -/
  target   : Nat
  done     : List (Nat × Nat)
  abandon  : Bool
  /-- The entries are written; the move ends when these requests under the old entries have been performed (R128). -/
  closing  : Bool
  waits    : List Nat
  deriving DecidableEq, Repr

/-- A memory die's registers (R125, R132). -/
structure MemDie where
  systab   : W64
  migPage  : W64
  migFrame : W64
  status   : Nat
  busy     : Bool
  bound    : Nat
  promEn   : Bool
  frames   : List Nat
  promLog  : W64
  promHead : Nat
  move     : Option Move
  deriving DecidableEq, Repr

/-! ### Render side -/

/-- How far a draw has come (R385 to R390): its block is not yet read; its priorities are to be written to PRIOBUF; its policy
record is to be posted; that record runs; selection can start; positions are drawn; the last waves are to be posted. -/
inductive DrawPhase where
  | waiting | priorities | policy | policyRuns | ready | selecting | posting
  deriving DecidableEq, Repr

/-- A position of a wave (R387 to R389): X, Y, TIME, and for a probe the snapshot it uses, if any; then PRIM and DEPTH once
they are known. -/
structure Sample where
  x     : Nat
  y     : Nat
  time  : Nat
  snap  : Option Nat
  found : Option (Nat × Nat)
  deriving DecidableEq, Repr

/-- A completed wave that has not been posted (R389, R390): its number, its positions, whether its block is written. -/
structure Wave where
  k       : Nat
  samples : List Sample
  written : Bool
  deriving DecidableEq, Repr

/-- A Sextant draw (R384 to R390). -/
structure Draw where
  id      : Nat
  cmd     : Nat
  lane    : Nat
  block   : W64
  bytes   : List Byte
  ctx     : Nat
  phase   : DrawPhase
  t0      : Nat
  n       : Nat
  prio    : List Nat
  /-- Positions of the wave being filled, and the waves still to be posted. -/
  entries : List Sample
  waves   : List Wave
  waveNo  : Nat
  /-- The intermediate address of an absent page that it waits for (R288). -/
  blocked : Option Nat
  deriving DecidableEq, Repr

/-- A gather of the Kiln (R406): the band's sweep and number, Tg, Tb, WCOUNT at Tg, whether its permit has come, whether it is
done, the slots of its gather and hidden tiles, the records used. -/
structure Gather where
  sweep  : W32
  band   : Nat
  tg     : Nat
  tb     : Nat
  count  : W32
  permit : Bool
  done   : Bool
  site   : Nat
  slots  : List Nat
  used   : Nat
  deriving DecidableEq, Repr

/-- How far a band's record has come (R411). -/
inductive BandState where
  | posted | retired | failed
  | missed (cause : Nat)
  deriving DecidableEq, Repr

/-- A band of a sweep: what has become of its record, and the slots that its team receives (R408, R411). -/
structure Band where
  sweep : W32
  band  : Nat
  state : BandState
  site  : Nat
  slots : List Nat
  /-- Its team has received the slots. -/
  taken : Bool
  deriving DecidableEq, Repr

/-- One render die (R381 to R411). -/
structure Render where
  view  : W64
  sweep : W32
  ovl   : W64
  kctl  : W64
  knode : W64
  kdesc : W64
  kfb   : W64
  khalo : W64
  krec  : W64
  kclus : W64
  miss  : W64
  /-- Writes that wait for the sweep boundary: offset and value (R382). -/
  waits : List (Nat × W64)
  /-- SNAPn: TIME, ADDR, COUNT, STATUS (R381). -/
  snaps : List (W64 × W64 × Nat × Nat)
  /-- Binned triangles of a usable snapshot, in triangle order (R394). -/
  binned : List (Nat × List (List Byte))
  hwins : List ((Nat × Nat) × (W64 × W64 × W64))
  wcount : List (Nat × W32)
  drops : W32
  blocks : List Draw
  nextDraw : Nat
  /-- Snapshots that are being binned: number, address, triangles (R394). -/
  binning : List (Nat × W64 × Nat)
  /-- Bands whose front copy is copy 1 (R410), and the bands that wait for their lighting. -/
  front : List Nat
  bands : List Band
  /-- Band of this sweep lit next; sweeps ahead of this one, and band, gathered next; the gathers begun, in band order. -/
  nextLit : Nat
  nextGather : Nat × Nat
  gathers : List Gather
  deriving DecidableEq, Repr

/-- A permit request (R85): who asks, its cost in nJ, whether it has been refused in some tick. -/
inductive Asker where
  | pass (die site : Nat)
  | command (cmd : Nat)
  | kiln (die : Nat)
  deriving DecidableEq, Repr

structure PermitReq where
  who  : Asker
  cost : Nat
  site : Nat
  refused : Bool
  /-- The tick of its arrival. -/
  tick    : Nat
  deriving DecidableEq, Repr

/-- A die's power steward (R84, R85): buckets in 1/1024 nJ, the two queues, THERMd (R444). -/
structure Steward where
  main    : Nat
  reserve : Nat
  rt      : List PermitReq
  other   : List PermitReq
  refused : W32
  temp    : Nat
  level   : Nat
  deriving DecidableEq, Repr

/-! ### Package -/

/-- The signed configuration record (R438). -/
structure ConfigRecord where
  magic   : W32
  version : W32
  arithMhz : Nat
  dieW0   : Nat
  dieW1   : Nat
  heavyW  : Nat
  rtShare : Nat
  wdLog   : Nat
  tThrot  : Nat
  tShut   : Nat
  clusen  : List W64
  chanen  : W64
  /-- COREEN of every site whose word is not the default of all cores and slices enabled: (die, site), word. -/
  coreen  : List ((Nat × Nat) × BitVec 20)
  /-- Every reserved byte is zero. -/
  reservedZero : Bool
  sig     : List Byte
  deriving DecidableEq, Repr

/-- One copy of the boot flash (R436): whether its header reads, image and signature, record. -/
structure FlashCopy where
  headerOk : Bool
  image  : List Byte
  sig    : List Byte
  record : ConfigRecord
  deriving DecidableEq, Repr

/-- A post sequence being gathered (R65): hart, context, post offset, doublewords by index. -/
structure PostBuffer where
  hart   : Nat
  ctx    : Nat
  offset : Nat
  words  : List (Nat × W64)
  deriving DecidableEq, Repr

/-- What the device answers or sends to the outside world, oldest first. -/
inductive Out where
  /-- The answer to a host access: the hart, its data, or an error response. -/
  | answer (hart : Nat) (data : List Byte) (error : Bool)
  /-- A store acknowledgement to a host, held until this time of the home (R175). -/
  | ack (hart : Nat) (due : Nat)
  | dma (data : List Byte) (error : Bool)
  | ewerlink (port : Nat) (data : List Byte) (error : Bool)
  /-- A store acknowledgement over Ewerlink, held until this time of the home (R177). -/
  | ewerlinkAck (port : Nat) (due : Nat)
  /-- A store sent over an Ewerlink port, to an address of the remote module, or to PCIe space (R430). -/
  | sent (port : Option Nat) (addr : Nat) (data : List Byte)
  /-- An atomic sent there: its operation and format, its operand and compare value (R279, R430). -/
  | sentAtomic (port : Option Nat) (addr : Nat) (aop : Nat) (ty : Ty) (operand compare : List Byte)
  /-- A report to the supervisor: a malformed entry or an engine page fault (R127, R288). -/
  | report (ctx : Nat) (ia : Nat)
  deriving DecidableEq, Repr

/-- Clock, agenda, timers and the model's own counters. -/
structure Clock where
  cycle   : Nat
  /-- Lag in ticks of a unit's chronometer copy behind the package count (R154); a unit not listed has lag 0. -/
  skew    : List (CoreId × Nat)
  /-- What the outside world and the units do next, in order (DESIGN CHOICE, assumption 4). -/
  agenda  : List Instr
  /-- Happenings due at a cycle (R301, R378 and others). -/
  timers  : List (Nat × Instr)
  /-- Last tick whose closing happenings, from its dequeues on, have begun. -/
  lastTick : Nat
  /-- MODEL'S OWN: free values drawn so far; the next number for a request, command, team or record. -/
  free    : Nat
  nextId  : Nat
  /-- The group that issues in this step, and the groups chosen for this cycle that have still to issue, if the choice of
  the cycle has been made (R37, R76, R77). -/
  issue   : Option GRef
  chosen  : Option (List GRef)
  /-- The pipe on which each chosen group issues (R76); of a PAIR the one with a disabled slice, if any. -/
  slots   : List (GRef × Nat)
  /-- Pipes that are held (R30, R76, R237): the pipe, and the first cycle in which it takes an instruction again. -/
  pipes   : List ((CoreId × Nat) × Nat)
  /-- Divide units 0 and 1 of a core's pipes, and its SFU, 2: the first cycle in which it accepts work again (R238, R258); 3: the cycle of
the SFU's latest completion; 4 and 5: the cycle behind the second pass of a divide on pipe 0 or 1. -/
  units   : List ((CoreId × Nat) × Nat)
  deriving DecidableEq, Repr

structure Package where
  record   : ConfigRecord
  flashA   : FlashCopy
  flashB   : FlashCopy
  lastRst  : Nat
  failStep : Nat
  copyB    : Bool
  done     : Bool
  bootErr  : Bool
  /-- Boot steps that fail at the next attempts, as the outside world decides (R437). -/
  bootFaults : List Nat
  mr       : List (List Byte)
  secBuf   : W64
  secStat  : Nat
  /-- The nonce of the attestation in progress (R443). -/
  secNonce : List Byte
  xcost    : Nat
  ewUp     : List Bool
  ewEn     : List Bool
  ewWin    : List ((Nat × Nat) × (W64 × W64 × W64))
  dmaWin   : List (Nat × (W64 × W64 × W64))
  dmode    : W64
  dmodeWait : Option W64
  dstart   : W64
  /-- A sweep is being scanned out (R414). -/
  sweeping : Bool
  dieFailed : List Nat
  posts    : List PostBuffer
  /-- Host directory: line and presence vector, most recently allocated first (R425). -/
  directory : List (Nat × BitVec 16)
  /-- LR reservations: hart and line (R176). -/
  reserved : List (Nat × Nat)
  out      : List Out
  /-- Context served last by the Pilot (R72). -/
  served   : Nat
  stewards : List Steward
  deriving DecidableEq, Repr

structure MemSide where
  mem      : Memory
  slices   : List SliceLine
  evmax    : List ((Nat × Nat) × Nat)
  dies     : List MemDie
  /-- Poisoned lines: of module memory by physical address, of plots (plot, line), of tiles (die, site, slot, line) (R349). -/
  poisoned : List Nat
  plotPoison : List (Nat × Nat)
  tilePoison : List (Nat × Nat × Nat × Nat)
  requests : List Request
  walks    : List Walk
  parked   : List Parked
  results  : List Result
  cmds     : List Cmd
  flits    : List Flit
  arrivals : List Arrival
  deriving DecidableEq, Repr

structure TileSide where
  slots   : List TileSlot
  uses    : List TileUse
  banks   : List AccBank
  engines : List Engine
  ops     : List MmaOp
  maccs   : List MaccOp
  deriving DecidableEq, Repr

/-- The state of the whole module. A core that is not listed is as reset left it. -/
structure State where
  clk     : Clock
  pkg     : Package
  ctxs    : List Context
  cores   : List Core
  threads : List Thread
  groups  : List Group
  teams   : List Team
  runs    : List Run
  plots   : List Plot
  mem     : MemSide
  tile    : TileSide
  render  : List Render
  deriving DecidableEq, Repr

/-! ### Reset (R435, R436, R438 to R441) -/

/-- Little-endian bytes of a field of a record (R438). -/
def fieldBytes (n v : Nat) : List Byte := (List.range n).map fun k => BitVec.ofNat 8 (v >>> (8 * k))

/-- Bytes 0 to 639 of a configuration record whose reserved bytes are zero (R438; DESIGN CHOICE, assumption 39). -/
def ConfigRecord.bytes (r : ConfigRecord) : List Byte :=
  fieldBytes 4 r.magic.toNat ++ fieldBytes 4 r.version.toNat ++ fieldBytes 4 r.arithMhz ++ fieldBytes 4 r.dieW0 ++ fieldBytes 4 r.dieW1 ++
  fieldBytes 4 r.heavyW ++ fieldBytes 1 r.rtShare ++ fieldBytes 1 r.wdLog ++ fieldBytes 1 r.tThrot ++ fieldBytes 1 r.tShut ++ fieldBytes 4 0 ++
  fieldBytes 8 (r.clusen.getD 0 0).toNat ++ fieldBytes 8 (r.clusen.getD 1 0).toNat ++ fieldBytes 8 r.chanen.toNat ++
  ((List.range 72).flatMap fun k => fieldBytes 4 (assocGet 0xFFFFF#20 (k / 36, k % 36) r.coreen).toNat) ++ List.replicate 296 0

/-- The record of the model's part: the defaults of R438, and the enable bitmaps (DESIGN CHOICE, assumption 3). -/
def ConfigRecord.default : ConfigRecord :=
  { magic := 0x4B4E0C0F, version := 0, arithMhz := 2900, dieW0 := 195, dieW1 := 195, heavyW := 150, rtShare := 64, wdLog := 28
    tThrot := 95, tShut := 110, clusen := [0xF0FFFFFFF, 0xF0FFFFFFF], chanen := 0xFFFFFFFFFFFFFFFF, coreen := [], reservedZero := true, sig := [] }

/-- A flash copy with an empty image (DESIGN CHOICE, assumption 3). -/
def FlashCopy.default : FlashCopy := ⟨true, [], [], ConfigRecord.default⟩

/-- The extension of a measurement register by a digest (R441). -/
def extendMr (mr digest : List Byte) : List Byte := Sha256.digest (mr ++ digest)

/-- MR0 to MR7 after step 7 (R436, R441). -/
def measuredBy (f : FlashCopy) : List (List Byte) :=
  let zero : List Byte := List.replicate 32 0
  extendMr zero (Sha256.digest f.image) :: extendMr zero (Sha256.digest f.record.bytes) :: List.replicate 6 zero

/-- A context at reset (R320 and the tables' Reset columns). -/
def Context.reset : Context :=
  { ctl := 0, ranges := List.replicate 8 (0, 0, 0), priv := 0, cwtbase := 0, save := 0, queue := [], rejects := 0, lastCode := 0, late := 0
    cgsweep := 0, credits := [], retiring := [], barriers := [], watchdog := 0, ring := [], frWrite := 0, frRead := 0, frWait := []
    mqdest := List.replicate 4 0, logBase := 0, logLimit := 0, logHead := 0, stalled := false, replay := false, replayed := [], msgs := 0
    coreImages := [], accImages := [] }

/-- A memory die at reset (R125, R132). -/
def MemDie.reset : MemDie :=
  { systab := 0, migPage := 0, migFrame := 0, status := 0, busy := false, bound := 0, promEn := false, frames := [], promLog := 0, promHead := 0, move := none }

/-- A render die at reset (R381, R405, R410). -/
def Render.reset : Render :=
  { view := 0, sweep := 0, ovl := 0, kctl := 0, knode := 0, kdesc := 0, kfb := 0, khalo := 0, krec := 0, kclus := 0, miss := 0, waits := []
    snaps := List.replicate 4 (0, 0, 0, 0), binned := [], hwins := [], wcount := [], drops := 0, blocks := [], nextDraw := 0, binning := [], front := [], bands := []
    nextLit := 0, nextGather := (0, 0), gathers := [] }

/-- A power steward at reset (R84, R444; buckets: DESIGN CHOICE, assumption 2). -/
def Steward.reset : Steward := { main := 0, reserve := 0, rt := [], other := [], refused := 0, temp := 0, level := 0 }

/-- The clock at reset; the chronometer copies have no lag, and no happening gives them one (DESIGN CHOICE, assumption 99). -/
def Clock.reset : Clock :=
  { cycle := 0, skew := [], agenda := [], timers := [], lastTick := 0, free := 0, nextId := 1, issue := none, chosen := none, slots := [], pipes := [], units := [] }

def MemSide.reset : MemSide :=
  { mem := ⟨[]⟩, slices := [], evmax := [], dies := List.replicate 4 MemDie.reset, poisoned := [], plotPoison := [], tilePoison := [], requests := []
    walks := [], parked := [], results := [], cmds := [], flits := [], arrivals := [] }

def TileSide.reset : TileSide := { slots := [], uses := [], banks := [], engines := [], ops := [], maccs := [] }

/-- The record of a package in which none has been applied: nothing is enabled (R436, step 4). -/
def ConfigRecord.none : ConfigRecord :=
  { ConfigRecord.default with dieW0 := 0, dieW1 := 0, heavyW := 0, rtShare := 0, clusen := [0, 0], chanen := 0 }

/-- MR0 to MR7 as reset leaves them (R441). -/
def zeroMr : List (List Byte) := List.replicate 8 (List.replicate 32 0)

/-- The package as a boot from one flash copy leaves it when the given step, 8 at the end, is the last one done (R436 to R442): the record
is applied at step 4, the measurements are made at step 7. The Pilot's round robin starts with the context after 0 (DESIGN CHOICE,
assumption 93). -/
def Package.booted (a b : FlashCopy) (fromB : Bool) (lastRst failStep : Nat) (faults : List Nat) (reached : Nat := 8) : Package :=
  let f := if fromB then b else a
  { record := if 4 ≤ reached then f.record else ConfigRecord.none, flashA := a, flashB := b, lastRst := lastRst, failStep := failStep, copyB := fromB
    done := 8 ≤ reached, bootErr := reached < 8
    bootFaults := faults, mr := if 7 ≤ reached then measuredBy f else zeroMr, secBuf := 0, secStat := 0, secNonce := [], xcost := 32, ewUp := [false, false], ewEn := [false, false], ewWin := []
    dmaWin := [], dmode := 0x1000000000000000, dmodeWait := none, dstart := 0, sweeping := false, dieFailed := [], posts := [], directory := [], reserved := [], out := []
    served := 0, stewards := [Steward.reset, Steward.reset] }

/-- The machine when boot step 8 is reached: every register at its reset value, SRAM clear, the chronometer at 0: steps 6 to 8, from which R439
starts it, take no time (DESIGN CHOICE, assumption 111). -/
def State.booted (p : Package) : State :=
  { clk := Clock.reset, pkg := p, ctxs := List.replicate 32 Context.reset, cores := [], threads := [], groups := [], teams := [], runs := [], plots := []
    mem := MemSide.reset, tile := TileSide.reset, render := [Render.reset, Render.reset] }

/-- The machine right after reset: a power-on boot from copy A has reached step 8 (DESIGN CHOICE, assumption 1). -/
def State.reset : State := State.booted (Package.booted FlashCopy.default FlashCopy.default false 0 0 [])

end Sys2Proof.Machine
end

