-- ==== Sys2Proof/Machine/Base.lean ====
section
/-! DEFINITION. Reading and replacing the parts of a state: threads, teams, cores, contexts, time, registers. -/

namespace Sys2Proof.Machine

/-! ### Lists -/

/-- Replace the elements that a test accepts. -/
def mapIf {α : Type} (p : α → Bool) (f : α → α) (l : List α) : List α := l.map fun x => if p x then f x else x

/-- Replace the element at an index. -/
def modifyAt {α : Type} (f : α → α) : Nat → List α → List α
  | _, [] => []
  | 0, x :: xs => f x :: xs
  | n + 1, x :: xs => x :: modifyAt f n xs

/-- Insert by a key, after the elements of equal key. -/
def insertBy {α : Type} (key : α → Nat) (x : α) : List α → List α
  | [] => [x]
  | y :: ys => if key x < key y then x :: y :: ys else y :: insertBy key x ys

/-- Stable sort by a key. -/
def sortBy {α : Type} (key : α → Nat) (l : List α) : List α := l.foldl (fun acc x => insertBy key x acc) []

/-- The first element of least key. -/
def leastBy {α : Type} (key : α → Nat) : List α → Option α
  | [] => none
  | x :: xs => match leastBy key xs with
    | none => some x
    | some y => if key y < key x then some y else some x

def sumBy {α : Type} (f : α → Nat) (l : List α) : Nat := l.foldl (fun n x => n + f x) 0

/-- Little-endian value of bytes (R62). -/
def leNat : List Byte → Nat
  | [] => 0
  | b :: bs => b.toNat + 256 * leNat bs

/-- The n low bytes of a number, little-endian. -/
def leBytes : (n v : Nat) → List Byte
  | 0, _ => []
  | n + 1, v => BitVec.ofNat 8 v :: leBytes n (v / 256)

/-- A number of b bits read as two's complement. -/
def signedOf (b v : Nat) : Int := if v % 2 ^ b < 2 ^ (b - 1) then (v % 2 ^ b : Int) else (v % 2 ^ b : Int) - 2 ^ b

/-- An integer taken modulo 2^b. -/
def wrapTo (b : Nat) (v : Int) : Nat := (v % (2 ^ b : Int)).toNat

namespace State

/-! ### Parts of the state -/

def thread (s : State) (t : TRef) : Option Thread := s.threads.find? fun h => h.ref == t
def updThread (s : State) (t : TRef) (f : Thread → Thread) : State := { s with threads := mapIf (fun h => h.ref == t) f s.threads }
def updThreads (s : State) (ts : List TRef) (f : Thread → Thread) : State :=
  { s with threads := mapIf (fun h => ts.contains h.ref) f s.threads }

def group (s : State) (g : GRef) : Option Group := s.groups.find? fun k => k.ref == g
def updGroup (s : State) (g : GRef) (f : Group → Group) : State := { s with groups := mapIf (fun k => k.ref == g) f s.groups }

def team (s : State) (id : Nat) : Option Team := s.teams.find? fun k => k.id == id
def updTeam (s : State) (id : Nat) (f : Team → Team) : State := { s with teams := mapIf (fun k => k.id == id) f s.teams }

def run (s : State) (id : Nat) : Option Run := s.runs.find? fun k => k.id == id
def updRun (s : State) (id : Nat) (f : Run → Run) : State := { s with runs := mapIf (fun k => k.id == id) f s.runs }

def ctx (s : State) (n : Nat) : Option Context := s.ctxs[n]?
def updCtx (s : State) (n : Nat) (f : Context → Context) : State := { s with ctxs := modifyAt f n s.ctxs }

def plot (s : State) (id : Nat) : Option Plot := s.plots.find? fun k => k.id == id
def updPlot (s : State) (id : Nat) (f : Plot → Plot) : State := { s with plots := mapIf (fun k => k.id == id) f s.plots }

def die (s : State) (d : Nat) : Option Render := s.render[d]?
def updDie (s : State) (d : Nat) (f : Render → Render) : State := { s with render := modifyAt f d s.render }

def steward (s : State) (d : Nat) : Option Steward := s.pkg.stewards[d]?
def updSteward (s : State) (d : Nat) (f : Steward → Steward) : State :=
  { s with pkg := { s.pkg with stewards := modifyAt f d s.pkg.stewards } }

def request (s : State) (id : Nat) : Option Request := s.mem.requests.find? fun r => r.id == id
def updRequest (s : State) (id : Nat) (f : Request → Request) : State :=
  { s with mem := { s.mem with requests := mapIf (fun r => r.id == id) f s.mem.requests } }
def dropRequest (s : State) (id : Nat) : State :=
  { s with mem := { s.mem with requests := s.mem.requests.filter fun r => r.id != id } }

def cmd (s : State) (id : Nat) : Option Cmd := s.mem.cmds.find? fun r => r.id == id
def updCmd (s : State) (id : Nat) (f : Cmd → Cmd) : State :=
  { s with mem := { s.mem with cmds := mapIf (fun r => r.id == id) f s.mem.cmds } }

def setMem (s : State) (m : MemSide) : State := { s with mem := m }
def setTile (s : State) (t : TileSide) : State := { s with tile := t }
def setPkg (s : State) (p : Package) : State := { s with pkg := p }
def setClk (s : State) (c : Clock) : State := { s with clk := c }

/-- A fresh number for a request, command, team or record (DESIGN CHOICE, assumption 6). -/
def fresh (s : State) : Nat × State := (s.clk.nextId, { s with clk := { s.clk with nextId := s.clk.nextId + 1 } })

/-- Add to what the outside world sees. -/
def emit (s : State) (o : Out) : State := { s with pkg := { s.pkg with out := s.pkg.out ++ [o] } }

/-! ### Time -/

/-- The package chronometer (R3, R154). -/
def tick (s : State) : Nat := Config.tickOf s.clk.cycle

/-- A unit's copy of it (R154): behind by the unit's lag, at most CHRONO_SKEW. -/
def chrono (s : State) (u : CoreId) : Nat := s.tick - assocGet 0 u s.clk.skew

/-- The units other than cores in the table of chronometer copies (R154): a cache slice, the units of a compute die, the engines of a
cluster, a memory die. -/
def sliceUnit (d slice : Nat) : CoreId := ⟨d, 64 + slice, 0⟩
def dieUnit (d : Nat) : CoreId := ⟨d, 96, 0⟩
def engineUnit (d site : Nat) : CoreId := ⟨d, site, 4⟩
def memDieUnit (k : Nat) : CoreId := ⟨k / 2, 97 + k % 2, 0⟩

/-- A happening after at least `d` cycles: contention may lengthen it (DESIGN CHOICE, assumption 5). -/
def after (s : State) (d : Nat) (i : Instr) : State :=
  { s with clk := { s.clk with timers := s.clk.timers ++ [(s.clk.cycle + d + Config.extraDelay s.clk.free, i)], free := s.clk.free + 1 } }

/-- A happening after exactly `d` cycles. -/
def afterExactly (s : State) (d : Nat) (i : Instr) : State :=
  { s with clk := { s.clk with timers := s.clk.timers ++ [(s.clk.cycle + d, i)] } }

/-- The first cycle of a tick (R3). -/
def cycleOfTick (t : Nat) : Nat := ceilDiv (29 * t) 10

/-- A happening at the first cycle of a tick, or at once if it has passed. -/
def atTick (s : State) (t : Nat) (i : Instr) : State :=
  { s with clk := { s.clk with timers := s.clk.timers ++ [(max s.clk.cycle (cycleOfTick t), i)] } }

/-! ### Enables (R24, R25, R350) -/

def dieOk (s : State) (d : Nat) : Bool := decide (d < Config.dies) && !s.pkg.dieFailed.contains d

/-- COREEN of a site (R432). -/
def coreen (s : State) (d site : Nat) : BitVec 20 := assocGet 0xFFFFF (d, site) s.pkg.record.coreen

/-- A cluster site is enabled (R24). -/
def siteOn (s : State) (d site : Nat) : Bool :=
  decide (site < Config.sites) && (s.pkg.record.clusen.getD d 0).getLsbD site

/-- A core is enabled: its site's bit, its own bit, and at least one lane slice (R24, R25). -/
def coreOn (s : State) (c : CoreId) : Bool :=
  s.siteOn c.die c.site && decide (c.core < Config.coresPerCluster) && (s.coreen c.die c.site).getLsbD c.core &&
  (natField (s.coreen c.die c.site).toNat (4 * c.core + 4) 4 != 0)

/-- Channel n of memory die s is enabled: a global channel number (R16, R24). -/
def channelOn (s : State) (ch : Nat) : Bool := decide (ch < 64) && s.pkg.record.chanen.getLsbD ch

/-- Lane slices of a pipe of a core that are enabled (R24, R25). -/
def pipeSlices (s : State) (c : CoreId) (p : Nat) : Nat :=
  ((List.range 2).filter fun n => (s.coreen c.die c.site).getLsbD (4 * c.core + 4 + 2 * p + n)).length

/-- The instruction that issues now does so on a pipe with one slice, which takes two cycles for each pass (R25, R30). -/
def halvedIssue (s : State) : Bool := match s.clk.issue with
  | some g => s.pipeSlices g.core (assocGet 0 g s.clk.slots) == 1
  | none => false

/-- The channel of a physical address (R16). -/
def channelOf (pa : Nat) : Nat := pa / 2 ^ 32

/-- A core; one that is not listed is as reset left it. -/
def core (s : State) (c : CoreId) : Core :=
  match s.cores.find? fun k => k.id == c with
  | some k => k
  | none => Core.reset c (if s.coreOn c then some 0 else none)

def updCore (s : State) (c : CoreId) (f : Core → Core) : State :=
  if s.cores.any fun k => k.id == c then { s with cores := mapIf (fun k => k.id == c) f s.cores }
  else { s with cores := s.cores ++ [f (s.core c)] }

/-! ### Contexts (R320) -/

def ctl (s : State) (n bit : Nat) : Bool := match s.ctx n with
  | some c => c.ctl.getLsbD bit
  | none => false
def ctxEn (s : State) (n : Nat) : Bool := s.ctl n 0
def ctxSup (s : State) (n : Nat) : Bool := s.ctl n 1
def ctxRt (s : State) (n : Nat) : Bool := s.ctl n 2
def ctxLog (s : State) (n : Nat) : Bool := s.ctl n 5
def ctxDead (s : State) (n : Nat) : Bool := s.ctl n 6
def ctxDrain (s : State) (n : Nat) : Bool := s.ctl n 7
/-- HALT, or held by a full log (R320, R446). -/
def ctxHalted (s : State) (n : Nat) : Bool := s.ctl n 3 || ((s.ctx n).map (·.stalled)).getD false

def setCtl (s : State) (n bit : Nat) (v : Bool) : State :=
  s.updCtx n fun c => { c with ctl := if v then c.ctl ||| (1#8 <<< bit) else c.ctl &&& ~~~(1#8 <<< bit) }

/-! ### Threads and groups -/

/-- Either bank of the core holds the context. -/
def resident (s : State) (c : CoreId) (ctx : Nat) : Bool := (s.core c).active == some ctx || (s.core c).shadow == some ctx

end State

/-- The thread sits in the group (R28, R40). -/
def Thread.inGroup (t : Thread) (g : GRef) : Bool :=
  t.ref.core == g.core && t.ref.ctx == g.ctx && t.group == g.group &&
  (match t.status with | .eligible | .waiting _ => true | _ => false)

/-- The thread is ELIGIBLE, its move is complete and it is not ending (R28, R45, R311). -/
def Thread.canIssue (t : Thread) : Bool := t.status == .eligible && !t.moving && t.dying == none

def Thread.exited (t : Thread) : Bool := match t.status with | .exited _ => true | _ => false

def Thread.gref (t : Thread) : GRef := ⟨t.ref.core, t.ref.ctx, t.group⟩

namespace State

/-- The threads of a group in lane order (R35, R40). -/
def groupThreads (s : State) (g : GRef) : List Thread := sortBy (·.lane) (s.threads.filter (·.inGroup g))

/-- The threads of a group among which the minimum PC is taken: those in handler mode first (R37, R338). -/
def candidates (s : State) (g : GRef) : List Thread :=
  let ready := (s.groupThreads g).filter (·.canIssue)
  let inHandler := ready.filter (·.handler)
  if inHandler.isEmpty then ready else inHandler

/-- The active threads of a group, in lane order (R37). -/
def activeOf (s : State) (g : GRef) : List Thread :=
  let c := s.candidates g
  match leastBy (fun t => t.pc.toNat) c with
  | none => []
  | some m => c.filter fun t => t.pc == m.pc

/-- The active threads of the group that issues in this step. -/
def active (s : State) : List Thread := match s.clk.issue with
  | some g => s.activeOf g
  | none => []

end State

/-! ### Registers -/

/-- A register as the thread's code names it: the handler's own are apart from the thread's (R189). -/
def regKey (handler : Bool) (n : Nat) : Nat := if handler && decide (0xF0 ≤ n) then n + 256 else n

/-- A v register, or in handler mode hv0 to hv15 for 0xF0 to 0xFF (R189). -/
def Thread.reg (t : Thread) (n : Nat) : W32 :=
  if t.handler && decide (0xF0 ≤ n) then t.hv.getD (n - 0xF0) 0 else t.regs.getD n 0

def Thread.setReg (t : Thread) (n : Nat) (v : W32) : Thread :=
  if t.handler && decide (0xF0 ≤ n) then { t with hv := t.hv.set (n - 0xF0) v } else { t with regs := t.regs.set n v }

/-- Consecutive registers from n. -/
def Thread.setRegs (t : Thread) (n : Nat) : List W32 → Thread
  | [] => t
  | v :: vs => (t.setReg n v).setRegs (n + 1) vs

/-- A register of the interrupted code, or of the handler, as `handler` says: where a result in flight goes (R337). What handler code
left due for its own registers is lost with them when the handler has returned (R339). -/
def Thread.setRegsOf (t : Thread) (handler : Bool) (n : Nat) (vs : List W32) : Thread :=
  if handler == t.handler then t.setRegs n vs
  else if handler then t.setRegs n (vs.take (0xF0 - n))
  else { (({ t with handler := false }).setRegs n vs) with handler := t.handler }

/-- A predicate; p0 is always true (R191). -/
def Thread.pred (t : Thread) (n : Nat) : Bool := n % 8 == 0 || t.preds.getLsbD (n % 8)

/-- Write a predicate; a write of p0 writes nothing (R219). -/
def Thread.setPred (t : Thread) (n : Nat) (v : Bool) : Thread :=
  if n % 8 = 0 then t
  else { t with preds := if v then t.preds ||| (1#8 <<< (n % 8)) else t.preds &&& ~~~(1#8 <<< (n % 8)) }

/-- The lane's guard is true (R191). -/
def Thread.guardTrue (t : Thread) (g : Guard) : Bool := t.pred g.pred.toNat != g.invert

/-- Flags are ORed into FSTAT (R93). -/
def Thread.orFlags (t : Thread) (f : BitVec 7) : Thread := { t with fstat := t.fstat ||| f }

/-- Add 1 to slot n of the code that runs now (R193). -/
def Thread.slotUp (t : Thread) (n : Nat) : Thread := if n = 0 then t else { t with sb := modifyAt (· + 1) (n - 1) t.sb }

/-- Take 1 from slot n of the code that counted it: the set-aside counters if that code is now interrupted (R335, R337). -/
def Thread.slotDown (t : Thread) (handler : Bool) (n : Nat) : Thread :=
  if n = 0 then t
  else if handler == t.handler then { t with sb := modifyAt (· - 1) (n - 1) t.sb }
  else if handler then t
  else { t with aside := modifyAt (· - 1) (n - 1) t.aside }

/-- The value of slot n (1 to 6). -/
def Thread.slot (t : Thread) (n : Nat) : Nat := t.sb.getD (n - 1) 0

/-- A pair's value, low register first (R88). -/
def pairValue (lo hi : W32) : W64 := hi ++ lo

/-- The two registers of a 64-bit value. -/
def pairWords (v : W64) : List W32 := [v.extractLsb' 0 32, v.extractLsb' 32 32]

end Sys2Proof.Machine
end

