-- ==== Sys2Proof/Machine/Mem.lean ====
section
/-! DEFINITION. Memory: the canonical byte store, range registers, the system table, page presence, home slices, leases,
the L1 and plots (spec/09_memory.md, spec/10_consistency.md). -/

namespace Sys2Proof.Machine

namespace Memory

/-- The byte a list of cells holds at an address; an unlisted address reads 0 (R435, assumption 2). -/
def find (a : Nat) : List Host.Cell → Byte
  | [] => 0
  | (k, v) :: rest => if k = a then v else if a < k then 0 else find a rest

/-- Put a byte at an address, keeping the canonical form: a zero byte is not listed. -/
def put (a : Nat) (b : Byte) : List Host.Cell → List Host.Cell
  | [] => if b = 0 then [] else [(a, b)]
  | (k, v) :: rest =>
    if k = a then (if b = 0 then rest else (a, b) :: rest)
    else if a < k then (if b = 0 then (k, v) :: rest else (a, b) :: (k, v) :: rest)
    else (k, v) :: put a b rest

def read (m : Memory) (a : Nat) : Byte := find a m.cells
def write (m : Memory) (a : Nat) (b : Byte) : Memory := ⟨put a b m.cells⟩

/-- The n bytes from an address. -/
def readBytes (m : Memory) (a n : Nat) : List Byte := (List.range n).map fun k => m.read (a + k)

/-- Bytes at ascending addresses. -/
def writeBytes (m : Memory) (a : Nat) : List Byte → Memory
  | [] => m
  | b :: bs => (m.write a b).writeBytes (a + 1) bs

/-- Addresses rise strictly from a bound, and no byte is 0. -/
def sortedFrom (lo : Nat) : List Host.Cell → Bool
  | [] => true
  | (k, v) :: rest => decide (lo ≤ k) && v != 0 && sortedFrom (k + 1) rest

/-- The canonical form. -/
def wf (m : Memory) : Bool := sortedFrom 0 m.cells

end Memory

namespace State

def readMem (s : State) (a n : Nat) : List Byte := s.mem.mem.readBytes a n
def writeMem (s : State) (a : Nat) (bs : List Byte) : State := { s with mem := { s.mem with mem := s.mem.mem.writeBytes a bs } }

end State

/-! ### The intermediate space (R120) -/

def inModule (ia : Nat) : Bool := decide (ia < 2 ^ 51)
def inEwerlink (ia : Nat) : Bool := decide (2 ^ 51 ≤ ia ∧ ia < 0xC000000000000)
def inPcie (ia : Nat) : Bool := decide (0xC000000000000 ≤ ia ∧ ia < 0xF000000000000)
def inAperture (ia : Nat) : Bool := decide (0xF000000000000 ≤ ia ∧ ia < 2 ^ 52)

def routeOf (ia : Nat) : Route :=
  if inModule ia then .home else if inEwerlink ia then .remote else if inPcie ia then .pcie else .aperture

/-! ### Trap causes (R329) -/

namespace Cause
def illegalOp : Nat := 0x01
def illegalField : Nat := 0x02
def illegalPair : Nat := 0x03
def regBounds : Nat := 0x04
def priv : Nat := 0x05
def range : Nat := 0x10
def page : Nat := 0x11
def perm : Nat := 0x12
def align : Nat := 0x13
def stackLimit : Nat := 0x14
def plotOwner : Nat := 0x18
def windowWriter : Nat := 0x19
def plotBounds : Nat := 0x1A
def tileStale : Nat := 0x20
def tileShape : Nat := 0x21
def formatDivergence : Nat := 0x22
def convMisuse : Nat := 0x28
def barrierBroken : Nat := 0x29
def software : Nat := 0x30
def break_ : Nat := 0x31
def watchdog : Nat := 0x38
def uncorrected : Nat := 0x39
end Cause

/-! ### Range registers (R121 to R123) -/

def rangeLow (r : W64 × W64 × W64) : Nat := natField r.1.toNat 16 40 * 2 ^ 16
def rangeTop (r : W64 × W64 × W64) : Nat := natField r.2.1.toNat 16 40 * 2 ^ 16
def rangeBase (r : W64 × W64 × W64) : Nat := natField r.2.2.toNat 16 36 * 2 ^ 16
def rangeLmax (r : W64 × W64 × W64) : Nat := natField r.2.2.toNat 9 2
def rangeRor (r : W64 × W64 × W64) : Bool := r.2.2.getLsbD 11

/-- The range matches a virtual address (R122). -/
def rangeMatches (r : W64 × W64 × W64) (va : Nat) : Bool :=
  r.2.2.getLsbD 0 && decide (rangeLow r ≤ va ∧ va < rangeTop r)

/-- The lowest-numbered range that matches. -/
def rangeOf (rs : List (W64 × W64 × W64)) (va : Nat) : Option (W64 × W64 × W64) := rs.find? fun r => rangeMatches r va

/-- Range permissions (R123); ROR refuses writes. -/
def rangePermits (r : W64 × W64 × W64) (n : Need) : Bool :=
  let m := r.2.2
  match n with
  | .read => m.getLsbD 1
  | .write => m.getLsbD 2 && !m.getLsbD 11
  | .atomic => m.getLsbD 4 && m.getLsbD 1 && m.getLsbD 2 && !m.getLsbD 11
  | .fetch => m.getLsbD 3

/-- Page permissions (R123, R127): bits 3 to 0 are PRD, PWR, PEX, PAT. -/
def pagePermits (p : BitVec 4) (n : Need) : Bool :=
  match n with
  | .read => p.getLsbD 3
  | .write => p.getLsbD 2
  | .atomic => p.getLsbD 0 && p.getLsbD 3 && p.getLsbD 2
  | .fetch => p.getLsbD 1

/-- Checks 1 and 2 of R124: the intermediate address and the range of an access, or RANGE. -/
def translate (c : Context) (va size : Nat) : Option (Nat × (W64 × W64 × W64)) :=
  if 2 ^ 56 ≤ va then none
  else match rangeOf c.ranges va with
    | none => none
    | some r =>
      let ia := rangeBase r + (va - rangeLow r)
      if va + size ≤ rangeTop r ∧ (size = 0 ∨ (rangeOf c.ranges (va + size - 1)) = some r) ∧ ia + size ≤ 2 ^ 52 then some (ia, r) else none

/-- Checks 1 to 3 of R124: the cause that fails, or the intermediate address and the range. -/
def rangeCheck (c : Context) (va size : Nat) (n : Need) : Except Nat (Nat × (W64 × W64 × W64)) :=
  match translate c va size with
  | none => .error Cause.range
  | some (ia, r) => if rangePermits r n then .ok (ia, r) else .error Cause.perm

/-! ### The system table (R125 to R127) -/

/-- What the walking die answers: the page and its entry's address for A and D, or PAGE (with a malformed entry). -/
inductive WalkAnswer where
  | mapped (page : PageEntry) (entry : Option Nat)
  | page (malformed : Bool)
  deriving DecidableEq, Repr

/-- The memory die that walks an address, as an index from 0 (R125). -/
def walkingDie (ia : Nat) : Nat := natField ia 30 2

namespace State

def memDie (s : State) (k : Nat) : Option MemDie := s.mem.dies[k]?
def updMemDie (s : State) (k : Nat) (f : MemDie → MemDie) : State := { s with mem := { s.mem with dies := modifyAt f k s.mem.dies } }

/-- An 8-byte entry of a table in physical memory. -/
def entryAt (s : State) (pa : Nat) : Nat := leNat (s.readMem pa 8)

/-- The permissions of an entry from its bit 60 down (R127), or of a leaf root entry from bit 61 (R126). -/
def permsAt (e top : Nat) : BitVec 4 := BitVec.ofNat 4 (natField e (top - 3) 4)

/-- What the table says of an address (R126; DEDUCED, assumption 22). A root entry with a reserved bit set, or a leaf with frame bits
29:17, counts as malformed (DESIGN CHOICE, assumption 97). -/
def tableWalk (s : State) (ia : Nat) : WalkAnswer :=
  let root := natField ((s.memDie (walkingDie ia)).map (·.systab.toNat) |>.getD 0) 12 26 * 2 ^ 12
  let re := s.entryAt (root + 8 * natField ia 30 21)
  if !re.testBit 63 then .page false
  else if natField re 38 20 != 0 || natField re 0 17 != 0 then .page true
  else if re.testBit 62 then
    if natField re 17 13 != 0 then .page true
    else .mapped ⟨ia / 2 ^ 30 * 2 ^ 30, 2 ^ 30, permsAt re 61, natField re 30 8 * 2 ^ 30⟩ none
  else
    let table := natField re 17 21 * 2 ^ 17
    let idx := natField ia 16 14
    let leadAt := table + 8 * (idx / 32 * 32)
    let lead := s.entryAt leadAt
    let reserved := fun e => natField e 38 17 != 0 || natField e 2 14 != 0
    if lead.testBit 63 && natField lead 61 2 == 1 then
      if natField lead 16 5 != 0 || reserved lead then .page true
      else .mapped ⟨ia / 2 ^ 21 * 2 ^ 21, 2 ^ 21, permsAt lead 60, natField lead 16 22 * 2 ^ 16⟩ (some leadAt)
    else
      let at' := table + 8 * idx
      let e := s.entryAt at'
      if !e.testBit 63 then .page false
      else if e.testBit 62 || reserved e then .page true
      else
        let frame := if natField e 61 2 == 1 then natField e 21 17 * 2 ^ 21 + natField ia 16 5 * 2 ^ 16 else natField e 16 22 * 2 ^ 16
        .mapped ⟨ia / 2 ^ 16 * 2 ^ 16, 2 ^ 16, permsAt e 60, frame⟩ (some at')

/-- The walking die's answer: no page is mapped to a disabled channel (R25, R433). -/
def walk (s : State) (ia : Nat) : WalkAnswer :=
  match s.tableWalk ia with
  | .mapped e entry => if s.channelOn (channelOf e.frame) then .mapped e entry else .page false
  | .page bad => .page bad

/-- Where an address lies in module memory, as its page maps it now. -/
def mappedTo (s : State) (ia : Nat) : Option Nat := match s.walk ia with
  | .mapped e _ => some (e.frame + (ia - e.page))
  | .page _ => none

/-- The memory die sets A at the first access and D at the first write (R127). -/
def markEntry (s : State) (entry : Option Nat) (write : Bool) : State :=
  match entry with
  | none => s
  | some pa =>
    let b := s.mem.mem.read pa
    s.writeMem pa [b ||| 1 ||| (if write then 2 else 0)]

/-- The address of the entry that maps a page, for a die that writes it. -/
def entryAddress (s : State) (ia : Nat) : Option Nat :=
  let root := natField ((s.memDie (walkingDie ia)).map (·.systab.toNat) |>.getD 0) 12 26 * 2 ^ 12
  let re := s.entryAt (root + 8 * natField ia 30 21)
  if re.testBit 63 && !re.testBit 62 then some (natField re 17 21 * 2 ^ 17 + 8 * natField ia 16 14) else none

end State

/-! ### Homes (R151) -/

/-- The die that owns the channel of a physical address (R16). -/
def homeDie (pa : Nat) : Nat := if pa / 2 ^ 32 < 32 then 0 else 1

/-- The home slice of a line (R151). -/
def homeSlice (ia : Nat) : Nat :=
  (List.range 11).foldl (fun h j => h ^^^ natField ia (4 * j + 7) 4) (natField ia 51 1)

def lineOf (ia : Nat) : Nat := ia / Config.lineBytes * Config.lineBytes
def unitOf (ia : Nat) : Nat := ia / Config.unitBytes * Config.unitBytes

namespace State

/-- Where an access that passed its check under a frame is performed now: a running migration redirects it, and a promotion one
to a page that it has moved (R128, R133, R134). -/
def redirect (s : State) (pa ia : Nat) : Nat :=
  match (s.memDie (walkingDie ia)).bind (fun d => d.move.map fun m => (d, m)) with
  | none => pa
  | some (d, m) =>
    let page := ia / 2 ^ 16 * 2 ^ 16
    let old := pa / 2 ^ 16 * 2 ^ 16
    if m.page = page ∧ m.oldFrame = old ∧ natField ia 7 9 < d.bound then m.frame + pa % 2 ^ 16
    else if m.done.contains (page, old) then m.target + page % 2 ^ 21 + pa % 2 ^ 16 else pa

/-- The die whose slice is the home of an address now. -/
def homeOf (s : State) (pa ia : Nat) : Nat := homeDie (s.redirect pa ia)

def sliceLine (s : State) (d ia : Nat) : Option SliceLine :=
  s.mem.slices.find? fun l => l.die == d && l.slice == homeSlice ia && l.line == lineOf ia

def evmaxOf (s : State) (d slice : Nat) : Nat := assocGet 0 (d, slice) s.mem.evmax

/-- A slice's set of a line: 4,096 sets of 16 ways (R424); the choice of set is the model's (DESIGN CHOICE, assumption 12). -/
def sliceSet (line : Nat) : Nat := line / Config.lineBytes / 16 % 4096

/-- Hold a line in its home slice as the most recently used; a line that leaves raises EVMAX (R158). -/
def keepSlice (s : State) (l : SliceLine) : State :=
  let rest := s.mem.slices.filter fun k => !(k.die == l.die && k.slice == l.slice && k.line == l.line)
  let mates := rest.filter fun k => k.die == l.die && k.slice == l.slice && sliceSet k.line == sliceSet l.line
  match mates[15]? with
  | none => { s with mem := { s.mem with slices := l :: rest } }
  | some out =>
    let ev := assocSet (l.die, l.slice) (max (s.evmaxOf l.die l.slice) out.lease) s.mem.evmax
    { s with mem := { s.mem with slices := l :: rest.filter (fun k => k != out), evmax := ev } }

/-- LEASE of a line, where EVMAX stands in if the slice does not hold it (R160; DEDUCED, assumption 61). -/
def leaseOf (s : State) (d ia : Nat) : Nat :=
  match s.sliceLine d ia with
  | some l => l.lease
  | none => s.evmaxOf d (homeSlice ia)

/-- The write-completion time of a store performed now at its home (R160). -/
def writeTime (s : State) (d ia : Nat) : Nat := max (s.chrono (sliceUnit d (homeSlice ia))) (s.leaseOf d ia)

/-- Bring a line into its home slice, with the LEASE that EVMAX stands for where it was not held. -/
def touchSlice (s : State) (d ia pa : Nat) (perms : BitVec 4) (ctx lease : Nat) : State :=
  s.keepSlice ⟨d, homeSlice ia, lineOf ia, max lease (s.leaseOf d ia), perms, lineOf pa, ctx⟩

/-! ### Page checks (R129 to R131) -/

/-- Steps 1 to 3 of R131: the physical address and permissions from the first holder of the page that grants the need. -/
def pageHeld (s : State) (c : CoreId) (ctx ia : Nat) (n : Need) : Option (Nat × BitVec 4) :=
  let fromCache : Option (Nat × BitVec 4) := 
    ((s.core c).pages.find? fun e => decide (e.page ≤ ia ∧ ia < e.page + e.size) && pagePermits e.perms n).map fun e => (e.frame + (ia - e.page), e.perms)
  let fromL1 : Option (Nat × BitVec 4) := 
    ((s.core c).l1.find? fun l => l.ctx == ctx && l.line == lineOf ia && pagePermits l.perms n).map fun l => (l.frame + ia % 128, l.perms)
  let fromSlice : Option (Nat × BitVec 4) :=
    (s.mem.slices.find? fun l => l.line == lineOf ia && l.slice == homeSlice ia && pagePermits l.perms n).map fun l => (l.frame + ia % 128, l.perms)
  match fromCache with
  | some r => some r
  | none => match fromL1 with
    | some r => some r
    | none => fromSlice

/-- Fill the page presence cache of a core (R129): 64 entries, the least recently used leaves. -/
def fillPage (s : State) (c : CoreId) (e : PageEntry) : State :=
  s.updCore c fun k => { k with pages := (e :: k.pages.filter (fun p => p.page != e.page)).take 64 }

/-- A use of a page presence entry makes it the most recently used (R129). -/
def usePage (s : State) (c : CoreId) (ia : Nat) : State :=
  s.updCore c fun k => match k.pages.find? fun e => decide (e.page ≤ ia ∧ ia < e.page + e.size) with
    | none => k
    | some e => { k with pages := e :: k.pages.filter fun p => p != e }

end State

/-- Byte ranges (address, length) together cover n bytes from an address. -/
def spansCover (spans : List (Nat × Nat)) (a n : Nat) : Bool :=
  (List.range n).all fun k => spans.any fun p => decide (p.1 ≤ a + k ∧ a + k < p.1 + p.2)

namespace State

/-! ### Poison (R349) -/

def isPoisoned (s : State) (pa : Nat) : Bool := s.mem.poisoned.contains (lineOf pa)
def setPoison (s : State) (pa : Nat) : State := { s with mem := { s.mem with poisoned := lineOf pa :: s.mem.poisoned } }

/-- One write of these physical byte ranges (address, length) clears the poison of every line that it covers whole. -/
def clearCovered (s : State) (spans : List (Nat × Nat)) : State :=
  { s with mem := { s.mem with poisoned := s.mem.poisoned.filter fun l => !(spansCover spans l Config.lineBytes) } }

/-! ### Performing at the home (R155, R160, R176) -/

/-- The tag of a line that a write brings into its slice: that of the line where it is held, else the writer's permissions and context,
else those of the page (R130, R424). -/
def writeTag (s : State) (d ia : Nat) (tag : Option (BitVec 4 × Nat)) : BitVec 4 × Nat :=
  match s.sliceLine d ia, tag, s.walk ia with
  | some l, _, _ => (l.perms, l.ctx)
  | none, some g, _ => g
  | none, none, .mapped e _ => (e.perms, 0)
  | none, none, .page _ => (0, 0)

/-- The tag of a line that a unit's write for a context brings in: the permissions of its page, and the context that every request
carries (R348, R424). -/
def pageTag (s : State) (ia ctx : Nat) : Option (BitVec 4 × Nat) := match s.walk ia with
  | .mapped e _ => some (e.perms, ctx)
  | .page _ => none

/-- Write bytes at their home: reservations of the line clear (R176), a host copy of the line is invalidated (R175). A
write of a whole line clears its poison (R349). The result carries W (DEDUCED, assumption 62). -/
def performWrite (s : State) (pa ia : Nat) (bs : List Byte) (tag : Option (BitVec 4 × Nat)) : State × Nat :=
  let pa' := s.redirect pa ia
  let d := homeDie pa'
  let w := s.writeTime d ia
  let g := s.writeTag d ia tag
  let s := (s.writeMem pa' bs).clearCovered [(pa', bs.length)]
  let s := { s with pkg := { s.pkg with reserved := s.pkg.reserved.filter (fun r => r.2 != lineOf ia)
                                        directory := s.pkg.directory.filter (fun r => r.1 != lineOf ia) } }
  let s := match s.walk ia with
    | .mapped e entry => if e.frame + (ia - e.page) = pa then s.markEntry entry true else s
    | .page _ => s
  (s.touchSlice d ia pa' g.1 g.2 0, w)

/-! ### The L1 (R136, R148, R159) -/

def l1Line (s : State) (c : CoreId) (ctx ia : Nat) : Option L1Line :=
  (s.core c).l1.find? fun l => l.ctx == ctx && l.line == lineOf ia

def dropL1 (s : State) (c : CoreId) (ctx ia : Nat) : State :=
  s.updCore c fun k => { k with l1 := k.l1.filter fun l => !(l.ctx == ctx && l.line == lineOf ia) }

/-- Write a dirty private line of a core back to its home (R148). A fill of the line on its way to the core carries it (DESIGN CHOICE, assumption 37).
The home drops that of a dead context (R348). -/
def writeBackLine (s : State) (c : CoreId) (l : L1Line) : State :=
  if l.isPrivate && l.dirty && !(s.ctxDrain l.ctx) then
    let s := (s.performWrite l.frame l.line l.data (some (l.perms, l.ctx))).1
    let s : State := if l.poison then s.setPoison (s.redirect l.frame l.line) else s
    let mine := fun (r : Request) => r.core == c && r.ctx == l.ctx && lineOf r.ia == l.line && r.stage == .performed &&
      (match r.kind with | .privLoad | .privStore => true | _ => false)
    let rs := mapIf mine (fun r => { r with line := l.data }) s.mem.requests
    { s with mem := { s.mem with requests := rs } }
  else s

/-- Remove a line, after writing it back if it is a dirty private one. -/
def expelL1 (s : State) (c : CoreId) (ctx ia : Nat) : State :=
  match s.l1Line c ctx ia with
  | none => s
  | some l => (s.writeBackLine c l).dropL1 c ctx ia

/-- A dirty private line that a global access of its context names goes back first, and any private one is dropped (R148). -/
def expelPrivate (s : State) (c : CoreId) (ctx ia : Nat) : State :=
  match s.l1Line c ctx ia with
  | some l => if l.isPrivate then s.expelL1 c ctx ia else s
  | none => s

/-- A CACHE bank is one way of 512 lines (R135); a line's set is its number mod 512 (DESIGN CHOICE, assumption 12). -/
def l1Set (line : Nat) : Nat := line / Config.lineBytes % 512

def cacheBanks (k : Core) : List Nat := (List.range 48).filter fun b => k.modes.getD b 0 == 0 && !(k.changes.any fun c => c.bank == b)

/-- Allocate a line as the most recently used of its set; the victim is written back if dirty (R136, R148) and enters the
victim tags (R79). -/
def fillL1 (s : State) (c : CoreId) (l : L1Line) : State :=
  let s := s.expelL1 c l.ctx l.line
  let k := s.core c
  let mates := k.l1.filter fun m => l1Set m.line == l1Set l.line && (cacheBanks k).contains m.bank
  match (cacheBanks k).find? fun b => !(mates.any fun m => m.bank == b) with
  | some b => s.updCore c fun k => { k with l1 := { l with bank := b } :: k.l1 }
  | none => match mates.getLast? with
    | none => s
    | some out =>
      let s := s.writeBackLine c out
      s.updCore c fun k =>
        { k with l1 := { l with bank := out.bank } :: k.l1.filter (fun m => m != out)
                 victims := ((out.ctx, out.line) :: k.victims).take 256 }

/-- Replace a line's contents, making it the most recently used. -/
def updL1 (s : State) (c : CoreId) (ctx ia : Nat) (f : L1Line → L1Line) : State :=
  s.updCore c fun k => match k.l1.find? fun l => l.ctx == ctx && l.line == lineOf ia with
    | none => k
    | some l => { k with l1 := f l :: k.l1.filter fun m => m != l }

end State

/-- Replace bytes within a string of bytes. -/
def overlay (at' : Nat) (new : List Byte) (old : List Byte) : List Byte :=
  old.take at' ++ new ++ old.drop (at' + new.length)

/-! ### Plots (R139) -/

def Plot.read (p : Plot) (o n : Nat) : List Byte := (List.range n).map fun k => assocGet 0 (o + k) p.bytes
def Plot.write (p : Plot) (o : Nat) (bs : List Byte) : Plot :=
  { p with bytes := (List.range bs.length).foldl (fun t k => assocSet (o + k) (bs.getD k 0) t) p.bytes }
def Plot.size (p : Plot) : Nat := p.units.length * 4096

/-- Lines of 128 bytes that a byte range meets, and those that it covers whole. -/
def linesMet (o n : Nat) : List Nat := if n = 0 then [] else (List.range ((o + n - 1) / 128 + 1 - o / 128)).map (· + o / 128)
def linesCovered (o n : Nat) : List Nat := (linesMet o n).filter fun l => decide (o ≤ 128 * l ∧ 128 * l + 128 ≤ o + n)

namespace State

/-- The plot that a team holds on a core (R139, R143). -/
def plotOf (s : State) (team : Nat) (c : CoreId) : Option Plot := s.plots.find? fun p => p.core == c && p.holder == .heldBy team

/-- Bytes of a plot lie in a poisoned line (R349). -/
def plotPoisoned (s : State) (p : Plot) (o n : Nat) : Bool := (linesMet o n).any fun l => s.mem.plotPoison.contains (p.id, l)

/-- Write bytes of a plot; a line written whole loses its poison (R349). -/
def writePlotBytes (s : State) (p : Plot) (o : Nat) (bs : List Byte) : State :=
  let whole := (linesCovered o bs.length).map fun l => (p.id, l)
  { s with plots := mapIf (fun k => k.id == p.id) (fun k => k.write o bs) s.plots
           mem := { s.mem with plotPoison := s.mem.plotPoison.filter fun q => !(whole.contains q) } }

/-- One write of these byte ranges (offset, length) clears the poison of every line of the plot that it covers whole (R349). -/
def clearPlotCovered (s : State) (p : Plot) (spans : List (Nat × Nat)) : State :=
  { s with mem := { s.mem with plotPoison := s.mem.plotPoison.filter fun q => !(q.1 == p.id && spansCover spans (128 * q.2) 128) } }

end State

end Sys2Proof.Machine
end

