-- ==== Sys2Proof/Machine/Sync.lean ====
section
/-! DEFINITION. What several instructions share beyond one thread: fault records, the Sieve, groups, convergence
registers, stage rings, barriers, tile handles, the end of threads, teams and records, and dead contexts
(spec/03_execution.md, spec/05_scheduling.md R70, R71, spec/18_traps.md R334, R347). -/

namespace Sys2Proof.Machine

/-- A happening of the other units that is certain: its number in R334's KIND field. -/
inductive RecordKind where
  | parked | unhandled | fatal | broken | corrected | dieFail
  deriving DecidableEq, Repr

def RecordKind.code : RecordKind → Nat
  | .parked => 0 | .unhandled => 1 | .fatal => 2 | .broken => 3 | .corrected => 4 | .dieFail => 5

namespace State

/-! ### Fault records (R334, R413) -/

/-- The 32 bytes of a fault record; its field of the threads concerned ends at 64 (DESIGN CHOICE, assumption 105). -/
def faultBytes (s : State) (kind : RecordKind) (cause ctx addr pc : Nat) (c : CoreId) (g n slot : Nat) : List Byte :=
  leBytes 8 (s.chrono c) ++ leBytes 8 addr ++ leBytes 8 pc ++
  leBytes 4 (cause * 2 ^ 24 + kind.code * 2 ^ 21 + ctx * 2 ^ 16 + c.die * 2 ^ 15 + c.site * 2 ^ 9 + c.core * 2 ^ 7 + g) ++
  leBytes 4 (min n 64 * 2 ^ 16 + slot)

/-- The ring is full when FRWRITE − FRREAD = 256 (R413). -/
def ringFull (c : Context) : Bool := c.frWrite - c.frRead == 256#32

def ringPut (c : Context) (bs : List Byte) : Context :=
  { c with ring := assocSet (c.frWrite.toNat % 256) bs c.ring, frWrite := c.frWrite + 1 }

/-- Write a record; a full ring makes it wait, and drops a CORRECTED one (R334). -/
def faultRecord (s : State) (kind : RecordKind) (ctx : Nat) (bs : List Byte) : State :=
  s.updCtx ctx fun c =>
    if ringFull c || !c.frWait.isEmpty then (if kind = .corrected then c else { c with frWait := c.frWait ++ [bs] })
    else ringPut c bs

/-! ### Groups (R49) -/

/-- Time as the bins of a bank count it: only while the bank is active (R41). -/
def bankTime (s : State) (c : CoreId) (ctx : Nat) : Nat :=
  let k := s.core c
  if k.active == some ctx then s.clk.cycle - assocGet 0 ctx k.banks else assocGet 0 ctx k.banks

/-- A thread is being filed from the group that it left: it awaits a bin, or its filing is not done (R42). -/
def filedFrom (s : State) (g : GRef) (h : Thread) : Bool :=
  let k := s.core g.core
  h.gref == g && h.status == .binned &&
    ((k.filings.any fun f => f.ctx == g.ctx && f.slot == h.ref.slot) ||
     k.bins.any fun b => b.ctx == g.ctx && b.threads.any fun p => p.1 == h.ref.slot && decide (s.bankTime g.core g.ctx < p.2))

/-- Groups that hold no thread, and whose last threads are filed, cease, and leave the sets of their core (R49). -/
def ceaseGroups (s : State) : State :=
  let gone := s.groups.filter fun g => (s.groupThreads g.ref).isEmpty && !(s.threads.any fun h => s.filedFrom g.ref h)
  if gone.isEmpty then s
  else
    let isGone := fun (c : CoreId) (ctx g : Nat) => gone.any fun (k : Group) => k.ref == (⟨c, ctx, g⟩ : GRef)
    { s with
      groups := s.groups.filter fun g => !(gone.contains g)
      cores := s.cores.map fun k => match k.active with
        | none => k
        | some a =>
          { k with positions := k.positions.map fun p => match p with
                     | some (g, n) => if isGone k.id a g then none else some (g, n)
                     | none => none
                   pending := k.pending.filter fun p => !(isGone k.id a p.1)
                   frozenPositions := k.frozenPositions.map fun p => match p, k.shadow with
                     | some (g, n), some sh => if isGone k.id sh g then none else some (g, n)
                     | p, _ => p
                   frozenPending := match k.shadow with
                     | some sh => k.frozenPending.filter fun p => !(isGone k.id sh p.1)
                     | none => k.frozenPending } }

/-- A group that is formed enters the pending set of its core (R78), or the frozen one of a shadow bank (R343). -/
def formGroup (s : State) (g : GRef) (team : Nat) : State :=
  let s : State := { s with groups := s.groups ++ [⟨g, team, 0, none, 0, [], false⟩] }
  s.updCore g.core fun k =>
    if k.active == some g.ctx then { k with pending := k.pending ++ [(g.group, none)] }
    else if k.shadow == some g.ctx then { k with frozenPending := k.frozenPending ++ [(g.group, none)] }
    else k

/-! ### The Sieve (R41 to R45) -/

def Bin.age (now : Nat) (b : Bin) : Nat := match b.threads with
  | [] => 0
  | (_, t) :: _ => now - t

/-- The bin of greatest age, the lowest index on a tie. -/
def oldestBin (now : Nat) (bs : List Bin) : Option Bin :=
  (sortBy (·.index) bs).foldl (fun best b => match best with
    | none => some b
    | some m => if Bin.age now m < Bin.age now b then some b else some m) none

/-- Where a drawn thread goes: a free lane of a group. Lanes of the team's resident groups, lowest slot and lane first. -/
def freeLanes (s : State) (c : CoreId) (ctx team width : Nat) : List (Nat × Nat) :=
  let gs := sortBy (·.ref.group) (s.groups.filter fun g => g.ref.core == c && g.ref.ctx == ctx && g.team == team)
  gs.flatMap fun g =>
    let used := (s.groupThreads g.ref).map (·.lane)
    ((List.range width).filter fun l => !(used.contains l)).map fun l => (g.ref.group, l)

/-- Cycle at which the Sieve of a core is done with the moves it has begun (R45). -/
def sieveFree (s : State) (c : CoreId) : Nat :=
  s.clk.timers.foldl (fun n t => match t.2 with
    | .threadMove r => if r.core = c then max n t.1 else n
    | _ => n) s.clk.cycle

/-- Place drawn threads one after another (R44, R45): each is ELIGIBLE from its place on, and joins issue when its move
completes. -/
def placeDrawn (s : State) (c : CoreId) (ctx team vregs : Nat) (places : List (Nat × Nat)) : List Nat → Nat → State
  | [], _ => s
  | slot :: rest, due =>
    match places with
    | [] => s
    | (g, lane) :: more =>
      let due := due + ceilDiv vregs 16
      let t : TRef := ⟨c, ctx, slot⟩
      let s := s.updThread t fun h => { h with status := .eligible, group := g, lane := lane, moving := true }
      let s := { s with clk := { s.clk with timers := s.clk.timers ++ [(due, .threadMove t)] } }
      placeDrawn s c ctx team vregs more rest due

/-- Put a filing into the bin of its team and key, or into the lowest empty one (R42): it is complete one Sieve cycle later, from when
the bin's age counts. Filings of one cycle are stamped alike (DESIGN CHOICE, assumption 91). -/
def placeFiling (s : State) (c : CoreId) (f : Filing) : Option State :=
  let done := s.bankTime c f.ctx + 1
  let mine := (s.core c).bins.filter fun b => b.ctx == f.ctx
  match mine.find? fun b => b.team == f.team && b.pc == f.pc && b.key == f.key with
  | some b => some (s.updCore c fun k => { k with bins := mapIf (fun m => m == b) (fun m => { m with threads := m.threads ++ [(f.slot, done)] }) k.bins })
  | none => ((List.range Config.sieveBins).find? fun i => !(mine.any fun b => b.index == i)).map fun i =>
      s.updCore c fun k => { k with bins := k.bins ++ [⟨f.ctx, i, f.team, f.pc, f.key, [(f.slot, done)]⟩] }

/-- A filing that finds no bin waits, and the bin of greatest age is drawn empty for it, unless one already is (R42). -/
def awaitBin (s : State) (c : CoreId) (f : Filing) : State :=
  let oldest := oldestBin (s.bankTime c f.ctx) ((s.core c).bins.filter fun b => b.ctx == f.ctx)
  s.updCore c fun k =>
    { k with filings := k.filings ++ [f]
             forced := match oldest with
               | some b => if k.forced.any fun p => p.1 == f.ctx then k.forced else k.forced ++ [(f.ctx, b.index)]
               | none => k.forced }

def enterBin (s : State) (c : CoreId) (f : Filing) : State := (s.placeFiling c f).getD (s.awaitBin c f)

/-- Bins have come empty: forced draws of empty bins are over, and waiting filings are made, first come first served. -/
def settleFilings (s : State) (c : CoreId) (ctx : Nat) : State :=
  let waits := (s.core c).filings.filter fun f => f.ctx == ctx
  let s := s.updCore c fun k =>
    { k with filings := k.filings.filter fun f => f.ctx != ctx
             forced := k.forced.filter fun p => p.1 != ctx || k.bins.any fun b => b.ctx == ctx && b.index == p.2 }
  waits.foldl (fun s f => s.enterBin c f) s

/-- Draw n threads of a bin (R43, R44). -/
def drawBin (s : State) (c : CoreId) (b : Bin) (n : Nat) : State :=
  match s.team b.team with
  | none => s
  | some tm =>
    let drawn := (b.threads.take n).map (·.1)
    let left := b.threads.drop n
    let s := s.updCore c fun k =>
      { k with bins := if left.isEmpty then k.bins.filter (fun m => m != b) else mapIf (fun m => m == b) (fun m => { m with threads := left }) k.bins }
    let allot := (tm.parts.find? fun p => p.core == c).map (·.groups) |>.getD []
    let free := allot.find? fun g => !(s.groups.any fun k => k.ref == ⟨c, b.ctx, g⟩)
    let s := match free with
      | some g =>
        let s := s.formGroup ⟨c, b.ctx, g⟩ b.team
        s.placeDrawn c b.ctx b.team tm.header.vregs ((List.range drawn.length).map fun l => (g, l)) drawn (s.sieveFree c)
      | none => s.placeDrawn c b.ctx b.team tm.header.vregs (s.freeLanes c b.ctx b.team tm.header.width) drawn (s.sieveFree c)
    if left.isEmpty then s.settleFilings c b.ctx else s

/-- File a thread with a next PC and sort key (R42): it becomes BINNED and leaves its group, which a parked thread has left before (R332);
a move that it was under ends. -/
def fileThread (s : State) (t : TRef) (pc : W64) (key : Nat) : State :=
  match s.thread t with
  | none => s
  | some h =>
    let s := s.updThread t fun h => { h with status := .binned, pc := pc, moving := false, group := if h.status == .parked then Config.bankGroups else h.group }
    let s : State := { s with clk := { s.clk with timers := s.clk.timers.filter fun q => q.2 != .threadMove t } }
    s.enterBin t.core ⟨t.ctx, h.team, t.slot, pc, key⟩

/-! ### Convergence registers (R50 to R52) -/

def idleCvg : Cvg := ⟨false, 0, 0, [], []⟩

/-- A member exits or leaves (R51). -/
def Cvg.leave (c : Cvg) (t : TRef) : Cvg :=
  if !c.isOpen || !c.members.contains t then c
  else
    let signed := c.signed.any fun p => p.1 == t
    let c' : Cvg := { c with e := c.e - 1, s := if signed then c.s - 1 else c.s
                             members := c.members.filter (· != t), signed := c.signed.filter fun p => p.1 != t }
    if c'.e = 0 then idleCvg else c'

/-- A thread leaves its registers; a register that becomes IDLE lets go of an operation that waits for an entry (R371). -/
def leaveCvgs (s : State) (t : TRef) (team : Nat) : State :=
  let s := s.updTeam team fun tm => { tm with cvgs := tm.cvgs.map fun c => Cvg.leave c t }
  match s.team team with
  | none => s
  | some tm =>
    let idle := fun (n : Nat) => ((tm.cvgs[n]?).map fun c => !c.isOpen).getD false
    let free := fun (o : MmaOp) => o.team == team && o.entry.isNone && (match o.cvg with | some n => idle n | none => false)
    { s with tile := { s.tile with ops := mapIf free (fun o => { o with cvg := none }) s.tile.ops } }

/-- Signed threads become ELIGIBLE after their join or MMA, which is 12 bytes long (R52). -/
def wake (s : State) (ts : List TRef) : State :=
  s.updThreads ts fun h => match h.status with
    | .waiting _ => { h with status := .eligible, pc := h.pc + 12 }
    | _ => h

/-- Release a register (R52). -/
def releaseCvg (s : State) (team n : Nat) : State :=
  match (s.team team).bind fun tm => tm.cvgs[n]? with
  | none => s
  | some c => (s.wake (c.signed.map (·.1))).updTeam team fun tm => { tm with cvgs := modifyAt (fun _ => idleCvg) n tm.cvgs }

/-! ### Stage rings (R55 to R57) -/

/-- The team core index of a thread (R55): bit 1 the bridge half, bit 0 the upper core of a pair. -/
def teamCoreIndex (tm : Team) (c : CoreId) : Nat :=
  let half := if tm.header.shape = 2 then (if c.die = 1 then 2 else 0) else 0
  let upper := tm.parts.any fun p => p.core.die == c.die && p.core.site == c.site && decide (p.core.core < c.core)
  half + boolNat upper

/-- A thread that ends leaves the acquires that wait; one without threads is withdrawn (R56). -/
def leaveAcquires (s : State) (t : TRef) (team : Nat) : State :=
  let drop := fun (a : List Acquire) => (a.map fun q => { q with threads := q.threads.filter (· != t) }).filter fun q => !q.threads.isEmpty
  s.updTeam team fun (tm : Team) => { tm with rings := tm.rings.map fun r => { r with toProduce := drop r.toProduce, toConsume := drop r.toConsume } }

/-- A stage owned by an exiting thread is released as if by its owner (R57). -/
def exitRings (s : State) (t : TRef) (team : Nat) : State :=
  (s.leaveAcquires t team).updTeam team fun (tm : Team) =>
    let me := (teamCoreIndex tm t.core, t.slot)
    { tm with rings := tm.rings.map fun r => { r with stages := r.stages.map fun g => if g.owner == some me then ⟨!g.full, none⟩ else g } }

/-! ### Barriers and tiles of an exiting thread (R299, R359) -/

/-- A thread of a bound team departs, with its WMAX (R174, R299). -/
def departBarriers (s : State) (h : Thread) : State :=
  let depart : Barrier → Barrier := fun b =>
    if !(b.teams.contains h.team) then b
    else
      let b := { b with bwmax := max b.bwmax h.wmax, gone := max b.gone h.wmax }
      if b.waiters.contains h.ref then { b with waiters := b.waiters.filter (· != h.ref), late := b.late + 1 }
      else { b with dep := b.dep + 1 }
  s.updCtx h.ref.ctx fun c => { c with barriers := c.barriers.map fun p => (p.1, depart p.2) }

/-- The handles of the half of a team on a die (R360, R428). -/
def halfHandles (tm : Team) (die : Nat) : List Handle := if tm.header.shape = 2 && die == 1 then tm.handles1 else tm.handles

/-- The bound slot of a handle drains (R357). -/
def drainSlot (s : State) (die site slot : Nat) : State :=
  let here : TileSlot → Bool := fun t => t.die == die && t.site == site && t.slot == slot
  { s with tile := { s.tile with slots := mapIf here (fun t => { t with bound := false, drains := true }) s.tile.slots } }

/-- Handles that a thread holds or is to receive become EMPTY (R359). -/
def exitHandles (s : State) (t : TRef) (team : Nat) : State :=
  match s.team team with
  | none => s
  | some tm =>
    let mine := fun (h : Handle) => h.state == .held t.core t.slot || h.state == .given t.core t.slot
    let clear := fun (h : Handle) => if mine h then { h with state := HandleState.empty } else h
    let gone := ((halfHandles tm t.core.die).filter mine).map (·.slot)
    let s := gone.foldl (fun s k => s.drainSlot t.core.die t.core.site k) s
    s.updTeam team fun tm =>
      if tm.header.shape = 2 && t.core.die == 1 then { tm with handles1 := tm.handles1.map clear }
      else { tm with handles := tm.handles.map clear }

/-! ### Records (R70) -/

/-- One credit or one decrement for a tag (R70); a full credit table leaves the retirement pending (DEDUCED, assumption 23). -/
def creditTag (c : Context) (tag : Nat) : Context :=
  match leastBy (·.seq) (c.queue.filter fun r => r.tag == tag && decide (0 < r.dep)) with
  | some r => { c with queue := mapIf (fun q => q.seq == r.seq) (fun q => { q with dep := q.dep - 1 }) c.queue }
  | none => if c.credits.length < Config.creditEntries then { c with credits := c.credits ++ [tag] } else { c with retiring := c.retiring ++ [tag] }

/-- Slots of gather tiles that no team has received are free again (R406). -/
def freeGathered (s : State) (die site : Nat) (slots : List Nat) : State :=
  let mine := fun (t : TileSlot) => t.die == die && t.site == site && t.owner == .gather && !t.bound && !t.drains && slots.contains t.slot
  { s with tile := { s.tile with slots := s.tile.slots.filter fun t => !(mine t) } }

/-- What a retirement tells the unit that posted the record (R386, R411): `ok` unless a team ended FAULTED or CANCELLED
or the record was dropped. -/
def tellPoster (s : State) (p : Poster) (ok : Bool) : State :=
  match p with
  | .policy d draw => s.updDie d fun r => { r with blocks := mapIf (fun b => b.id == draw) (fun b => { b with phase := if b.phase = .policyRuns then .ready else b.phase }) r.blocks }
  | .band d sweep b =>
    let this := fun (k : Band) => k.sweep.toNat == sweep && k.band == b
    let unused := (((s.die d).map (·.bands)).getD []).filter fun k => this k && !k.taken
    let late := fun (k : Band) => match k.state with | .missed _ => true | _ => false
    (unused.foldl (fun s k => s.freeGathered d k.site k.slots) s).updDie d fun r =>
      { r with bands := mapIf (fun k => this k && k.state == .posted) (fun k => { k with state := if ok then .retired else .failed })
                 (r.bands.filter fun k => !(this k && late k)) }
  | _ => s

/-- A record retires (R70). -/
def retire (s : State) (ctx : Nat) (r : Record) (ok : Bool) : State :=
  let s := s.tellPoster r.poster ok
  if r.succ = 0 then s else s.updCtx ctx fun c => creditTag c r.succ

/-! ### The end of a thread and of a team (R59, R143, R311, R357) -/

/-- Windows of a context's plots close: packets that name them from then on find them closed (R143, R286). -/
def shutWindows (k : Core) (ctx : Nat) (p : PlotWindow → Bool) : Core :=
  let out := (k.windows.filter p).map fun w => (ctx, w.index)
  { k with windows := k.windows.filter fun w => !(p w), closed := k.closed.filter (fun q => !(out.contains q)) ++ out.eraseDups }

/-- Threads of a team that has ended are forgotten by what is still in flight: their results, statuses and slots are discarded, also for
threads that take their slots later (R302, R311). -/
def forget (s : State) (gone : TRef → Bool) : State :=
  let out := fun (ts : List TRef) => ts.filter fun t => !(gone t)
  { s with
    mem := { s.mem with
      results := s.mem.results.map fun r => { r with lanes := r.lanes.filter (fun l => !(gone l.t)), counted := out r.counted, sups := r.sups.filter (fun a => !(gone a.t)), logs := r.logs.filter fun l => !(gone l.1) }
      cmds := s.mem.cmds.map fun c => { c with lanes := c.lanes.map fun l => { l with gone := l.gone || gone l.t } }
      flits := s.mem.flits.map fun f => { f with from' := f.from'.filter fun o => !(gone o.1) }
      walks := s.mem.walks.map fun w => match w.who with
        | .fetch g pc ts => { w with who := .fetch g pc (out ts) }
        | .requests => w }
    tile := { s.tile with
      uses := s.tile.uses.map fun u => { u with threads := out u.threads }
      ops := s.tile.ops.map fun o => { o with voters := o.voters.filter fun v => !(gone v.1) }
      maccs := s.tile.maccs.map fun m => { m with todo := m.todo.filter (fun l => !(gone l.1)), done := m.done.filter fun l => !(gone l.t) } } }

/-- A team ends: its plots are freed, its windows close, its FIFO entries and tile slots are given back, its record may
retire. `retires` is false when its context has died (R347). -/
def endTeam (s : State) (tm : Team) (how : Ending) (retires : Bool) : State :=
  let gonePlots := (s.plots.filter fun p => p.holder == .heldBy tm.id || p.holder == .givenTo tm.id).map (·.id)
  let closes := fun (w : PlotWindow) => gonePlots.contains w.plot || w.team == tm.id
  let halves := tm.parts.map fun p => (p.core.die, p.core.site)
  let ours := (s.threads.filter fun h => h.team == tm.id).map (·.ref)
  let s := s.forget fun t => ours.contains t
  let s : State := { s with
    plots := s.plots.filter fun p => !(gonePlots.contains p.id)
    cores := s.cores.map fun k =>
      { shutWindows k tm.ctx closes with
               ringEntries := k.ringEntries.filter fun e => e.2.1 != tm.id
               bins := k.bins.filter fun b => b.team != tm.id
               filings := k.filings.filter fun f => f.team != tm.id }
    tile := { s.tile with
      slots := (s.tile.slots.map fun t =>
        if halves.contains (t.die, t.site) && (t.owner == .pool tm.id || ((halfHandles tm t.die).any fun h => h.state != .empty && h.slot == t.slot && t.bound))
        then { t with bound := false, drains := true } else t).filter fun t => !(t.owner == .pool tm.id && t.uses.isEmpty) }
    threads := s.threads.filter fun h => h.team != tm.id
    teams := s.teams.filter fun t => t.id != tm.id }
  let s := tm.parts.foldl (fun s p => s.settleFilings p.core tm.ctx) s.ceaseGroups
  let worse := fun (a b : Ending) => if a = .faulted ∨ b = .faulted then Ending.faulted else if a = .cancelled ∨ b = .cancelled then .cancelled else .normal
  let s := s.updRun tm.run fun (r : Run) => { r with ended := r.ended + 1, result := worse r.result how }
  match s.run tm.run with
  | none => s
  | some r =>
    if retires && r.ended == r.record.tcount then
      let s : State := { s with runs := s.runs.filter fun q => q.id != r.id
                                cores := s.cores.map fun k => { k with klines := k.klines.filter fun l => l.run != r.id } }
      s.retire r.ctx r.record (r.result == .normal)
    else s

/-- How a team whose threads have all exited reports (R59). -/
def teamResult (ts : List Thread) : Ending :=
  if ts.any fun t => t.status == .exited .faulted then .faulted
  else if ts.any fun t => t.status == .exited .cancelled then .cancelled else .normal

/-- The end of a thread whose accesses are done (R311 step 2). Its convergence registers, stages, barriers and handles
follow; its team ends with its last thread. -/
def exitNow (s : State) (t : TRef) (how : Ending) : State :=
  match s.thread t with
  | none => s
  | some h =>
    if h.exited then s
    else
      let s := s.updThread t fun h => { h with status := .exited how, dying := none, fence := none, moving := false }
      let s := s.leaveCvgs t h.team
      let s := s.exitRings t h.team
      let s := s.departBarriers h
      let s := s.exitHandles t h.team
      let s := s.ceaseGroups
      match s.team h.team with
      | none => s
      | some tm =>
        let ts := s.threads.filter fun k => k.team == tm.id
        if ts.all (·.exited) then s.endTeam tm (teamResult ts) true else s

/-- A tile use that is a memory access of its threads (R167, R367). -/
def accessUse (u : TileUse) : Bool := match u.kind with
  | .loadGlobal | .storeGlobal | .loadPlot _ | .storePlot _ => true
  | .readFragments _ _ | .writeFragments _ => false

/-- The thread's accesses that an exit or a fence waits for: loads, stores, atomics, packets, write-backs, queue sends and tile
images, and what the L1 or the plot has still to return (R163, R165, R281). -/
def outstanding (s : State) (t : TRef) : Bool :=
  (s.mem.requests.any fun r => r.parts.any fun p => p.t == t) ||
  (s.mem.results.any fun r => r.access && r.counted.contains t) ||
  (s.mem.flits.any fun f => match f.from' with | some (u, _, _) => u == t | none => false) ||
  (s.tile.uses.any fun u => accessUse u && u.threads.contains t)

/-- Begin the end of a thread: at once, or when its accesses are done (R311; DEDUCED, assumption 36). It waits for no stage any more (R56). -/
def exitThread (s : State) (t : TRef) (how : Ending) : State :=
  if s.outstanding t then
    let s := s.leaveAcquires t (((s.thread t).map (·.team)).getD 0)
    s.updThread t fun h => if h.exited then h else { h with dying := some how, status := .eligible, handler := false }
  else s.exitNow t how

/-! ### Dead contexts (R347) -/

/-- The context becomes dead: its threads stop, its teams end FAULTED, its records are dropped; `bs` is the record of kind FATAL. -/
def endContext (s : State) (ctx : Nat) (bs : List Byte) : State :=
  let s := ((s.setCtl ctx 6 true).setCtl ctx 7 true).setCtl ctx 0 false
  let s := (s.teams.filter fun t => t.ctx == ctx).foldl (fun s t => s.endTeam t .faulted false) s
  let lost := (s.runs.filter fun r => r.ctx == ctx).map (·.record) ++ ((s.ctx ctx).map (·.queue)).getD []
  let s := lost.foldl (fun s r => s.tellPoster r.poster false) s
  let mine := fun (w : Asker) => match w with
    | .command k => s.mem.cmds.any fun c => c.id == k && c.ctx == ctx
    | .pass d k => s.tile.engines.any fun e => e.die == d && e.site == k && (match e.granted with
        | some (o, _) => s.tile.ops.any fun q => q.id == o && q.ctx == ctx
        | none => false)
    | .kiln _ => false
  let waits := fun (c : Cmd) => c.ctx == ctx && (!c.begun || c.blocked.isSome || c.kind == .sxdraw || s.pkg.stewards.any fun w => (w.rt ++ w.other).any fun q => q.who == .command c.id)
  let s : State := { s with
    runs := s.runs.filter fun r => r.ctx != ctx
    render := s.render.map fun r => { r with blocks := r.blocks.filter fun b => b.ctx != ctx }
    pkg := { s.pkg with stewards := s.pkg.stewards.map fun w => { w with rt := w.rt.filter fun q => !(mine q.who), other := w.other.filter fun q => !(mine q.who) } }
    mem := { s.mem with parked := s.mem.parked.filter fun p => p.ctx != ctx
                        walks := s.mem.walks.filter fun w => w.ctx != ctx
                        cmds := s.mem.cmds.filter fun c => !(waits c)
                        flits := s.mem.flits.filter fun f => f.ctx != ctx
                        results := s.mem.results.filter fun r => !(r.counted.any fun t => t.ctx == ctx)
                        requests := s.mem.requests.filter fun r => !(r.ctx == ctx && (match r.stage with | .walking _ | .checked | .failed _ _ | .queued | .returned => true | _ => false))
                        arrivals := s.mem.arrivals.filter fun a => a.group.ctx != ctx }
    tile := { s.tile with ops := s.tile.ops.filter fun o => o.ctx != ctx
                          maccs := s.tile.maccs.filter fun o => o.ctx != ctx
                          uses := s.tile.uses.filter fun u => u.ctx != ctx
                          slots := s.tile.slots.map fun t => { t with uses := t.uses.filter fun u =>
                            !((s.tile.uses.any fun k => k.id == u.1 && k.ctx == ctx) || (s.tile.ops.any fun o => o.ctx == ctx && (o.useA == u.1 || o.useB == u.1))) }
                          engines := s.tile.engines.map fun e => match e.granted with
                            | some (o, _) => if s.tile.ops.any fun q => q.id == o && q.ctx == ctx then { e with granted := none } else e
                            | none => e }
    cores := s.cores.map fun k => { k with fifo := k.fifo.filter fun f => f.ctx != ctx
                                           receives := k.receives.filter fun r => r.ctx != ctx
                                           bins := k.bins.filter fun b => b.ctx != ctx
                                           filings := k.filings.filter fun f => f.ctx != ctx
                                           forced := k.forced.filter fun p => p.1 != ctx } }
  let s := s.updCtx ctx fun k => { k with queue := [], retiring := [], barriers := [] }
  s.faultRecord .fatal ctx bs

/-- A context dies of a cause that reports no thread: WATCHDOG, or UNCORRECTED with its physical address (R334, R347, R349). -/
def killContext (s : State) (ctx cause : Nat) (addr : Nat) (c : CoreId) : State :=
  s.endContext ctx (s.faultBytes .fatal cause ctx addr 0 c 0 0 0)

end State

end Sys2Proof.Machine
end

