-- ==== Sys2Proof/Machine/Ops.lean ====
section
/-! DEFINITION. Taking a trap and leaving a handler (spec/18_traps.md R329 to R342), parking and resuming, the attempt of a
matrix operation (spec/20_isa_tile.md R371, R374) and the release of convergence registers (R52, R53). -/

namespace Sys2Proof.Machine

/-- TRAPCAUSE.KIND (R336). -/
inductive TrapKind where
  | group | lane | after | waiting
  deriving DecidableEq, Repr

def TrapKind.code : TrapKind → Nat
  | .group => 0 | .lane => 1 | .after => 2 | .waiting => 3

/-- What one trapping event reports (R329, R331, R336). `addr` is the ADDR of a fault record (R334). -/
structure Trap where
  cause : Nat
  info  : Nat
  kind  : TrapKind := .group
  lane  : Nat := 0
  fetch : Bool := false
  retry : Bool := false
  addr  : Nat := 0
  /-- The reported thread, where its lane alone does not name it. -/
  thread : Option TRef := none
  deriving DecidableEq, Repr

/-- TRAPCAUSE (R336). -/
def Trap.causeWord (t : Trap) : W32 :=
  BitVec.ofNat 32 (t.kind.code * 2 ^ 16 + boolNat t.fetch * 2 ^ 15 + boolNat t.retry * 2 ^ 14 + t.lane % 64 * 2 ^ 8 + t.cause)

/-- The slots of a thread's counters that are non-zero, bit n − 1 for sbn (R336). -/
def nonZeroSlots (sb : List Nat) : BitVec 6 :=
  (List.range 6).foldl (fun m k => if sb.getD k 0 = 0 then m else m ||| (1#6 <<< k)) 0

/-- A thread enters its handler (R335, steps 1 to 4): the trap registers are written, the slot counters set aside, the
handler registers cleared, and the PC is at the handler. -/
def Thread.enterHandler (h : Thread) (handlerPc trapPc : W64) (t : Trap) : Thread :=
  { h with status := .eligible
           trapPc := trapPc, trapCause := t.causeWord, trapInfo := BitVec.ofNat 64 t.info
           aside := h.sb, savedAt := nonZeroSlots h.sb, sb := List.replicate 6 0
           hv := List.replicate 16 0, handler := true, pc := handlerPc }

/-- A thread leaves handler mode and resumes at a PC (R325, R339): its own slots are discarded, the set-aside counters,
with the decrements they received, are restored. -/
def Thread.leaveHandler (h : Thread) (pc : W64) : Thread :=
  { h with handler := false, sb := h.aside, aside := List.replicate 6 0, savedAt := 0, hv := List.replicate 16 0, pc := pc }

/-- The address of a kernel's handler (R63, R335). -/
def Header.handlerPc (h : Header) : W64 := h.entry + BitVec.ofInt 64 h.handler

namespace State

/-- The group can issue again after n cycles; one of width 64 adds one for its second pass (R326). -/
def delayIssue (s : State) (g : GRef) (n : Nat) : State :=
  let w := ((s.group g).bind fun k => s.team k.team).map (·.header.width)
  s.updGroup g fun k => { k with ready := max k.ready (s.clk.cycle + n + (if w = some 64 then 1 else 0)) }

/-! ### Taking a trap (R330, R335, R340, R341) -/

/-- The thread that a trap of these threads reports: the one it names, or that of the reported lane (R331). -/
def reported (s : State) (ts : List (TRef × W64)) (t : Trap) : Option (TRef × W64) :=
  match ts.find? fun p => some p.1 == t.thread with
  | some p => some p
  | none => match ts.find? fun p => ((s.thread p.1).map (·.lane)) == some t.lane with
    | some p => some p
    | none => ts.head?

/-- The fault record of a trap that no handler takes (R334): the reported thread's PC, group and slot, and the threads concerned. -/
def trapRecord (s : State) (kind : RecordKind) (ts : List (TRef × W64)) (t : Trap) : List Byte :=
  match s.reported ts t with
  | none => []
  | some (r, pc) =>
    let addr := if t.cause = Cause.page ∨ t.cause = Cause.perm then t.addr else 0
    s.faultBytes kind t.cause r.ctx addr pc.toNat r.core (((s.thread r).map (·.group)).getD 0) ts.length r.slot

/-- One event traps threads, each with its TRAPPC: a thread in handler mode makes the context dead (R341); otherwise each
thread enters its handler (R335), or exits FAULTED with one UNHANDLED record for the event (R340). -/
def trapThreads (s : State) (ts : List (TRef × W64)) (t : Trap) : State :=
  match ts.head? with
  | none => s
  | some (r, _) =>
    if ts.any fun p => ((s.thread p.1).map (·.handler)).getD false then s.endContext r.ctx (s.trapRecord .fatal ts t)
    else match (s.thread r).bind fun h => s.team h.team with
      | none => s
      | some tm =>
        if tm.header.handler ≠ 0 then
          let s := ts.foldl (fun s p => s.updThread p.1 fun h => h.enterHandler tm.header.handlerPc p.2 t) s
          let gs := (ts.filterMap fun p => (s.thread p.1).map (·.gref)).eraseDups
          { s with groups := mapIf (fun k => gs.contains k.ref) (fun k => { k with ready := max k.ready (s.clk.cycle + 8) }) s.groups }
        else
          let s := s.faultRecord .unhandled r.ctx (s.trapRecord .unhandled ts t)
          ts.foldl (fun s p => s.exitThread p.1 .faulted) s

/-! ### Parked sub-groups (R332, R333) -/

/-- Threads meet PAGE or PERM at the walking die: they park at the instruction, in one sub-group with one PARKED record, or,
where a thread is retrying the same fault, trap with kind Lane and RETRY. `counted` is the slot that the instruction
counted in them (DEDUCED, assumption 63). `at'` gives the virtual and the intermediate address at which a thread's access failed: by its
own a thread retries, and that of the lowest lane is reported. Threads that a dead context has lost are dropped (R353). -/
def parkThreads (s : State) (ts : List TRef) (pc : W64) (set : Nat) (handler : Bool) (at' : TRef → Nat × Nat) (cause : Nat) (fetch : Bool) : State :=
  let ts := ts.filter fun t => (s.thread t).isSome && !(s.ctxDead t.ctx)
  let s := s.updThreads ts fun h => (h.slotDown handler set)
  let fault := fun (t : TRef) => some (cause, (at' t).2 / 2 ^ 16, pc)
  let again := ts.filter fun t => ((s.thread t).map fun h => h.retry == fault t).getD false
  let fresh := ts.filter fun t => !(again.contains t)
  let laneOf := fun (l : List TRef) => ((l.head?.bind s.thread).map (·.lane)).getD 0
  let va := ((again.head?).map fun t => (at' t).1).getD 0
  let s := s.updThreads again fun h => { h with pc := pc, retry := none }
  let s := s.trapThreads (again.map fun t => (t, pc)) { cause := cause, info := va, kind := .lane, lane := laneOf again, fetch := fetch, retry := true, addr := va, thread := again.head? }
  match fresh.filter fun t => (s.thread t).isSome with
  | [] => s
  | r :: rs =>
    let (va, ia) := at' r
    let g := ((s.thread r).map (·.group)).getD 0
    let bs := s.faultBytes .parked cause r.ctx va pc.toNat r.core g (r :: rs).length r.slot
    let s := s.updThreads (r :: rs) fun h => { h with status := .parked, pc := pc, retry := fault h.ref }
    let s : State := { s with mem := { s.mem with parked := s.mem.parked ++ [⟨r.ctx, va, ia, cause, fetch, r :: rs⟩] } }
    (s.faultRecord .parked r.ctx bs).ceaseGroups

/-- A shoot-down resumes every sub-group parked on the page: each thread is filed as if by REFORM and will retry (R333). -/
def resumeParked (s : State) (page size : Nat) : State :=
  let hit := s.mem.parked.filter fun p => decide (page ≤ p.ia ∧ p.ia < page + size)
  let s : State := { s with mem := { s.mem with parked := s.mem.parked.filter fun p => !(hit.contains p) } }
  hit.foldl (fun s p => p.threads.foldl (fun s t => match s.thread t with
    | none => s
    | some h => s.fileThread t h.pc 0) s) s

/-! ### Tiles and matrix operations (R355 to R371) -/

/-- The handles of the half of a team that a core belongs to (R360, R428). -/
def handlesOf (tm : Team) (c : CoreId) : List Handle := halfHandles tm c.die

def updHandle (s : State) (team : Nat) (c : CoreId) (h : Nat) (f : Handle → Handle) : State :=
  s.updTeam team fun tm =>
    if tm.header.shape = 2 && c.die == 1 then { tm with handles1 := modifyAt f h tm.handles1 } else { tm with handles := modifyAt f h tm.handles }

def tileSlot (s : State) (die site slot : Nat) : Option TileSlot :=
  s.tile.slots.find? fun t => t.die == die && t.site == site && t.slot == slot
def updTileSlot (s : State) (die site slot : Nat) (f : TileSlot → TileSlot) : State :=
  { s with tile := { s.tile with slots := mapIf (fun t => t.die == die && t.site == site && t.slot == slot) f s.tile.slots } }

/-- The core of a pair is its upper one (R360). -/
def isUpper (tm : Team) (c : CoreId) : Bool := tm.parts.any fun p => p.core.die == c.die && p.core.site == c.site && decide (p.core.core < c.core)

/-- TRAPINFO of TILE_STALE (R355). -/
def staleInfo (tm : Team) (h : Nat) (st : HandleState) : Nat :=
  match st with
  | .empty => h
  | .held c k => h + 1 * 2 ^ 8 + k * 2 ^ 16 + boolNat (isUpper tm c) * 2 ^ 27
  | .given c k => h + 2 * 2 ^ 8 + k * 2 ^ 16 + boolNat (isUpper tm c) * 2 ^ 27

/-- TRAPINFO of TILE_SHAPE (R355). -/
def shapeInfo (reason : Nat) (handle : Option Nat) (word : W32) : Nat :=
  reason + (match handle with | some h => h * 2 ^ 8 + 2 ^ 13 | none => 0) + word.toNat * 2 ^ 32

/-- One of the threads holds the handle (R359). -/
def heldBy (st : HandleState) (ts : List TRef) : Bool := match st with
  | .held c k => ts.any fun t => t.core == c && t.slot == k
  | _ => false

/-- The TRAPINFO of FORMAT_DIVERGENCE for a voter (R374). -/
def voteInfo (tm : Team) (t : TRef) (v : Vote) : Nat :=
  v.format.toNat + v.a * 2 ^ 32 + v.b * 2 ^ 37 + boolNat v.clr * 2 ^ 42 + t.slot * 2 ^ 43 + boolNat (isUpper tm t.core) * 2 ^ 54

/-- Rows and columns of the product: M, K of tile A and K, N of tile B (R370). -/
def mmaDims (f : W32) (a b : Tile) : (Nat × Nat) × (Nat × Nat) :=
  ((if f.getLsbD 12 then (a.cols, a.rows) else (a.rows, a.cols)), (if f.getLsbD 13 then (b.cols, b.rows) else (b.rows, b.cols)))

/-- Checks 1 and 2 of an attempt (R371): the format vote, then the checks of R355 (DEDUCED, assumption 20). -/
def mmaCheck (s : State) (tm : Team) (voters : List (TRef × Vote)) : Except Trap (TRef × Vote × TileSlot × TileSlot) :=
  let idx := fun (p : TRef × Vote) => ((s.thread p.1).map (·.tidx)).getD 0
  match sortBy idx voters with
  | [] => .error { cause := Cause.formatDivergence, info := 0 }
  | (t, v) :: rest =>
    let same := fun (u : Vote) => u.format == v.format && u.a == v.a && u.b == v.b && u.clr == v.clr
    match rest.find? fun p => !(same p.2) with
    | some (t', v') =>
      .error { cause := Cause.formatDivergence, info := voteInfo tm t' v', lane := ((s.thread t').map (·.lane)).getD 0, thread := some t' }
    | none =>
      let hs := handlesOf tm t.core
      let ts := voters.map (·.1)
      let lane := ((s.thread t).map (·.lane)).getD 0
      let stale := fun (n : Nat) => Except.error ({ cause := Cause.tileStale, info := n, lane := lane, thread := some t } : Trap)
      match hs[v.a]?, hs[v.b]? with
      | some ha, some hb =>
        if !(heldBy ha.state ts) then stale (staleInfo tm v.a ha.state)
        else if !(heldBy hb.state ts) then stale (staleInfo tm v.b hb.state)
        else match s.tileSlot t.core.die t.core.site ha.slot, s.tileSlot t.core.die t.core.site hb.slot with
          | some sa, some sb =>
            let shape := fun (r : Nat) (h : Option Nat) => Except.error ({ cause := Cause.tileShape, info := shapeInfo r h v.format, lane := lane, thread := some t } : Trap)
            let at' := natField v.format.toNat 14 5
            let bt := natField v.format.toNat 19 5
            let listed := fun (n : Nat) => n == 0x0A || n == 0x0F || n == 0x10
            if natField v.format.toNat 24 8 != 0 || !(listed at') || !(listed bt) then shape 5 none
            else if at' != sa.tile.et.code then shape 2 (some v.a)
            else if bt != sb.tile.et.code then shape 2 (some v.b)
            else
              let ((m, ka), (kb, n)) := mmaDims v.format sa.tile sb.tile
              if ka != kb || decide (64 < m) || decide (64 < n) || decide (64 < natField v.format.toNat 0 6 + m) || decide (64 < natField v.format.toNat 6 6 + n) then shape 4 none
              else .ok (t, v, sa, sb)
          | _, _ => stale v.a
      | _, _ => stale v.a

/-- The matrix engine of a cluster; one not listed is as reset left it, with context 0 in place 0 (R83, assumption 3) and place 1 as
the one served last (DESIGN CHOICE, assumption 94). -/
def engineOf (s : State) (die site : Nat) : Engine :=
  match s.tile.engines.find? fun e => e.die == die && e.site == site with
  | some e => e
  | none => ⟨die, site, [if (List.range 4).any fun k => s.coreOn ⟨die, site, k⟩ then some 0 else none, none], none, 1, 0⟩

def updEngine (s : State) (die site : Nat) (f : Engine → Engine) : State :=
  if s.tile.engines.any fun e => e.die == die && e.site == site then
    { s with tile := { s.tile with engines := mapIf (fun e => e.die == die && e.site == site) f s.tile.engines } }
  else { s with tile := { s.tile with engines := s.tile.engines ++ [f (s.engineOf die site)] } }

/-- An entry of the reservation table for a context (R80): the eight of its place first, then the sixteen shared, the lowest
that is free (DESIGN CHOICE, assumption 109). -/
def freeEntry (s : State) (die site ctx : Nat) : Option Nat :=
  let place := (findIdxVal (fun p => p == some ctx) (s.engineOf die site).places).map (·.1)
  let used := fun (k : Nat) => s.tile.ops.any fun o => o.die == die && o.site == site && o.entry == some k
  match place with
  | none => none
  | some p => ((List.range 8).map (· + 8 * p) ++ (List.range 16).map (· + 16)).find? fun k => !(used k)

/-- A new operation, checked and waiting for its entry, with the cycle that a group of width 64 adds (R378); its two reading uses take their place in the order of R361. -/
def newMma (s : State) (tm : Team) (voters : List (TRef × Vote)) (g : Option GRef) (cvg : Option Nat) (ok : TRef × Vote × TileSlot × TileSlot) : State × Nat :=
  let (t, v, sa, sb) := ok
  let (id, s) := s.fresh
  let (ua, s) := s.fresh
  let (ub, s) := s.fresh
  let ((_, k), _) := mmaDims v.format sa.tile sb.tile
  let op : MmaOp :=
    { id := id, ctx := t.ctx, die := t.core.die, site := t.core.site, team := tm.id, prio := tm.prio, realTime := tm.prio == 0
      format := v.format, clr := v.clr, slotA := sa.slot, slotB := sb.slot, useA := ua, useB := ub, kdim := k, pass := 0, age := 0
      saturated := none, entry := none, voters := voters.map fun p => (p.1, p.2.set, p.2.handler), group := g, voted := s.clk.cycle + (if tm.header.width = 64 then 1 else 0), cvg := cvg }
  let s := s.updTileSlot t.core.die t.core.site sa.slot fun x => { x with uses := x.uses ++ [(ua, false)] }
  let s := s.updTileSlot t.core.die t.core.site sb.slot fun x => { x with uses := x.uses ++ [(ub, false)] }
  ({ s with tile := { s.tile with ops := s.tile.ops ++ [op] } }, id)

/-- Accept an operation into an entry; under SIGN its register releases (R371, R53). -/
def acceptMma (s : State) (id : Nat) : State :=
  match s.tile.ops.find? fun o => o.id == id with
  | none => s
  | some o =>
    if o.entry.isSome then s
    else match s.freeEntry o.die o.site o.ctx with
      | none => s
      | some k =>
        let s : State := { s with tile := { s.tile with ops := mapIf (fun q => q.id == id) (fun q => { q with entry := some k }) s.tile.ops } }
        match o.cvg with
        | some n => s.releaseCvg o.team n
        | none => s

/-- The attempt of a signed operation (R53, R371): on failure every voter traps, and the others are released. -/
def attemptSigned (s : State) (tm : Team) (n : Nat) (c : Cvg) : State :=
  let voters := c.signed.filterMap fun p => p.2.map fun v => (p.1, v)
  match s.mmaCheck tm voters with
  | .ok r => (s.newMma tm voters none (some n) r).1
  | .error t =>
    let joiners := (c.signed.filter fun p => p.2.isNone).map (·.1)
    let s := s.updTeam tm.id fun k => { k with cvgs := modifyAt (fun _ => idleCvg) n k.cvgs }
    let s := s.wake joiners
    let at' := voters.filterMap fun p => (s.thread p.1).map fun h => (p.1, h.pc)
    let s := s.updThreads (voters.map (·.1)) fun h => { h with status := .eligible }
    let s := voters.foldl (fun s p => s.updThread p.1 fun h => h.slotDown p.2.handler p.2.set) s
    s.trapThreads at' t

/-- A register that is due to release or to attempt (R52, R53): S = E with E > 0, no attempt pending. -/
def dueCvg (s : State) : Option (Team × Nat × Cvg) :=
  s.teams.findSome? fun tm =>
    (findIdxVal (fun (x : Nat × Cvg) => x.2.isOpen && x.2.s == x.2.e && decide (0 < x.2.e) &&
      !(s.tile.ops.any fun o => o.team == tm.id && o.cvg == some x.1 && o.entry.isNone)) (tm.cvgs.zipIdx.map fun p => (p.2, p.1))).map
      fun r => (tm, r.2.1, r.2.2)

/-- Release every register that is due, one after another. -/
def settleFor (s : State) : Nat → State
  | 0 => s
  | fuel + 1 =>
    match s.dueCvg with
    | none => s
    | some (tm, n, c) =>
      if c.signed.all fun p => p.2.isNone then (s.releaseCvg tm.id n).settleFor fuel
      else (s.attemptSigned tm n c).settleFor fuel

/-- What follows at once from exits, joins and signatures: the releases that are due. -/
def settle (s : State) : State := s.settleFor (16 * s.teams.length)

/-! ### Issue: the group that issues in this step (R37 to R39) -/

/-- The participating lanes: active threads whose guard is true (R241). -/
def participants (s : State) (g : Guard) : List Thread := s.active.filter fun t => t.guardTrue g

/-- A trap of kind Group at the issuing instruction: every active thread, whatever its guard (R330). -/
def trapGroup (s : State) (t : Trap) : State :=
  (s.trapThreads (s.active.map fun h => (h.ref, h.pc)) { t with kind := .group }).settle

/-- Every active thread of the list moves past an instruction of n bytes (R38). -/
def advance (s : State) (ts : List Thread) (n : Nat) : State :=
  s.updThreads (ts.map (·.ref)) fun h => { h with pc := h.pc + BitVec.ofNat 64 n }

end State

end Sys2Proof.Machine
end

