-- ==== Sys2Proof/Machine/Access.lean ====
section
/-! DEFINITION. Sending memory requests: page checks, walks, trips to the homes and to the plot units
(spec/09_memory.md R129 to R131, R142; spec/10_consistency.md R155, R156; spec/15_isa_memory.md R272, R273, R301). -/

namespace Sys2Proof.Machine

/-! ### Ports, routers and routes (R415, R417, R418) -/

/-- A port of the fabric (R415); `core` stands for the ways inside a cluster, whose cores share one port. -/
inductive Port where
  | core (c : CoreId)
  | cluster (die site : Nat)
  | slice (die k : Nat)
  | memoryDie (k : Nat)
  | ioDie
  | hostDie
  deriving DecidableEq, Repr

/-- A router of the interposer: compute die, row, column. -/
structure Router where
  die : Nat
  row : Nat
  col : Nat
  deriving DecidableEq, Repr

/-- The column of a die whose routers have seam links (R415). -/
def seamColumn (die : Nat) : Nat := if die = 0 then 3 else 0

/-- The router of a cluster site (R415, R416). -/
def siteRouter (die site : Nat) : Router :=
  if site < 16 then ⟨die, 0, site / 4⟩ else if site < 32 then ⟨die, 3, (site - 16) / 4⟩ else ⟨die, site - 32, seamColumn die⟩

/-- The routers that a port links to (R415). -/
def Port.routers : Port → List Router
  | .core c => [siteRouter c.die c.site]
  | .cluster d s => [siteRouter d s]
  | .slice d k => [⟨d, if k < 8 then 1 else 2, k % 8 / 2⟩]
  | .memoryDie k => (List.range 8).map fun n => ⟨k / 2, 1 + n / 4, n % 4⟩
  | .ioDie | .hostDie => [⟨0, 1, seamColumn 0⟩, ⟨1, 1, seamColumn 1⟩]

/-- Two routers have a direct link (R415): of one row or column of a die, or the seam link of a row. -/
def Router.linked (a b : Router) : Bool :=
  a != b && (if a.die = b.die then a.row == b.row || a.col == b.col else a.row == b.row && a.col == seamColumn a.die && b.col == seamColumn b.die)

/-- The routers that a packet passes (R417): along its row, over the seam link if it goes to the other die, along the row there, then
along the column. -/
def Router.way (a b : Router) : List Router :=
  let seam := if a.die = b.die then [] else [{ a with col := seamColumn a.die }, { b with row := a.row, col := seamColumn b.die }]
  (a :: seam ++ [{ b with row := a.row }, b]).foldr (fun r l => if l.head? = some r then l else r :: l) []

/-- The cycles from router to router along a way (R418): 6 for a hop, 48 for a seam crossing. -/
def wayCycles : List Router → Nat
  | a :: b :: rest => (if a.die = b.die then 6 else 48) + wayCycles (b :: rest)
  | _ => 0

/-- Transit between two cores, in cycles one way (R418). -/
def transit (a b : CoreId) : Nat :=
  if a = b then 0
  else if a.die = b.die ∧ a.site = b.site then 6
  else 4 + wayCycles ((siteRouter a.die a.site).way (siteRouter b.die b.site))

/-- The port by which a core's packets for another core leave: that of its cluster, or none of the fabric inside the cluster. -/
def corePorts (a b : CoreId) : Port × Port :=
  if a.die = b.die ∧ a.site = b.site then (.core a, .core b) else (.cluster a.die a.site, .cluster b.die b.site)

/-- A virtual channel's kind, and a path: packets of one channel from one port to one port arrive in the order in which they were sent
(R417, R419). -/
inductive Channel where
  | request | response | message
  deriving DecidableEq, Repr

structure Path where
  chan : Channel
  high : Bool
  src  : Port
  dst  : Port
  deriving DecidableEq, Repr

/-- The core that holds a team's shared state (R36): that of its first part. -/
def holdingCore (tm : Team) : Option CoreId := (tm.parts.head?).map (·.core)

/-- The transit from a core of a team to its holding core (R36). -/
def holdTransit (tm : Team) (c : CoreId) : Nat := match holdingCore tm with
  | some h => transit c h
  | none => 0

namespace State

/-- Send an access to the team's holding core (R36). -/
def sendArrival (s : State) (a : Arrival) : State := { s with mem := { s.mem with arrivals := s.mem.arrivals ++ [a] } }

/-- The one-way trip to a home or back, in cycles: half of the round trip of R301. -/
def trip (c : CoreId) (die : Nat) : Nat := if c.die = die then 70 else 130

/-- The port at which a request is performed. What lies outside module memory is reached by the host die or the I/O die (DESIGN CHOICE,
assumption 101). -/
def homePort (s : State) (r : Request) : Port := match r.route with
  | .home => .slice (s.homeOf r.frame r.ia) (homeSlice r.ia)
  | .packet h _ _ => (corePorts r.core h).2
  | .aperture => .hostDie
  | .remote | .pcie => .ioDie

/-- An operation of these threads is real-time: it acts for a class 0 record (R85). -/
def realTimeOf (s : State) (ts : List TRef) : Bool :=
  ts.any fun t => (((s.thread t).bind fun h => s.team h.team).map fun k => k.prio == 0).getD false

/-- The path of a request, or of its answer (R417, R419). -/
def requestPath (s : State) (r : Request) (back : Bool) : Path :=
  let near := match r.route with
    | .packet h _ _ => (corePorts r.core h).1
    | _ => .cluster r.core.die r.core.site
  let far := s.homePort r
  let high := s.realTimeOf (r.parts.map (·.t))
  if back then ⟨.response, high, far, near⟩ else ⟨.request, high, near, far⟩

/-- The path of a packet that is on its way for a request. -/
def timerPath (s : State) (i : Instr) : Option Path := match i with
  | .homeLoad q | .homeStore q | .homeAtomic q | .operationPacket q => (s.request q).map fun r => s.requestPath r false
  | .loadReturn q | .storeAck q => (s.request q).map fun r => s.requestPath r true
  | _ => none

/-- The latest arrival of the packets of requests that are on a path. -/
def pathTime (s : State) (p : Path) : Nat :=
  s.clk.timers.foldl (fun n t => if s.timerPath t.2 = some p then max n t.1 else n) 0

/-- A happening after at least d cycles and not before a given cycle. -/
def afterFrom (s : State) (d lo : Nat) (i : Instr) : State :=
  let due := max lo (s.clk.cycle + d + Config.extraDelay s.clk.free)
  { s with clk := { s.clk with timers := s.clk.timers ++ [(due, i)], free := s.clk.free + 1 } }

def isWrite : ReqKind → Bool
  | .store | .atomic _ _ | .writeBack | .tileStore _ => true
  | _ => false

/-- Two requests of which the second must not be performed before the first: stores or atomics of one thread to one line (R156). -/
def orderedWrites (q r : Request) : Bool :=
  isWrite q.kind && isWrite r.kind && lineOf q.ia == lineOf r.ia && q.parts.any fun a => r.parts.any fun b => a.t == b.t

/-- An earlier store or atomic of one of its threads to its line has not been performed (R156): it waits for its page, its turn at a
tile, or its home. -/
def earlierWrite (s : State) (r : Request) : Bool :=
  s.mem.requests.any fun q => decide (q.id < r.id) && orderedWrites q r && (match q.stage with
    | .walking _ | .checked | .queued | .travelling => true
    | .failed _ _ | .performed | .returned | .refused _ => false)

/-- Cycle before which a request must not be performed: after the earlier packets on its path (R142, R417), and after the write-backs
of its line from the same L1 (R148). -/
def notBefore (s : State) (r : Request) : Nat :=
  s.clk.timers.foldl (fun n t => match t.2 with
    | .homeStore q => match s.request q with
      | some q => if q.kind == .writeBack && q.core == r.core && lineOf q.ia == lineOf r.ia then max n t.1 else n
      | none => n
    | _ => n) (s.pathTime (s.requestPath r false))

/-- Where a request is performed. -/
def arrival (r : Request) : Instr :=
  match r.route, r.kind with
  | .packet _ _ _, _ => .operationPacket r.id
  | _, .store | _, .writeBack | _, .tileStore _ => .homeStore r.id
  | _, .atomic _ _ => .homeAtomic r.id
  | _, _ => .homeLoad r.id

/-- A use of a tile slot whose turn has come (R361): a reading use follows the earlier writing uses, a writing use all
earlier uses. -/
def useTurn (t : TileSlot) (use : Nat) : Bool :=
  match t.uses.find? fun u => u.1 == use with
  | none => false
  | some (_, writes) => (t.uses.takeWhile fun u => u.1 != use).all fun u => !writes && !u.2

/-- The use in flight with a number, and its slot. -/
def tileUse (s : State) (use : Nat) : Option (TileUse × TileSlot) :=
  (s.tile.uses.find? fun u => u.id == use).bind fun u =>
    (s.tile.slots.find? fun t => t.die == u.die && t.site == u.site && t.slot == u.slot).map fun t => (u, t)

/-- A request that waits for its turn at a tile slot. -/
def waitsTurn (s : State) (k : ReqKind) : Bool :=
  match k with
  | .tileLoad u | .tileStore u => match s.tileUse u with
    | some (_, t) => !(useTurn t u)
    | none => false
  | _ => false

/-- A unit of a tile image that is stored takes its bytes from the tile; `reg` is its byte in the image. -/
def fillUnit (s : State) (r : Request) : Request :=
  match r.kind with
  | .tileStore u => match s.tileUse u with
    | some (_, t) => { r with parts := r.parts.map fun p => { p with data := (t.tile.data.drop p.reg).take p.size } }
    | none => r
  | _ => r

/-- Further cycles of a unit within its image: 128 bytes move in a cycle, and its use may add its own (R378). -/
def unitDelay (s : State) (r : Request) : Nat :=
  match r.kind with
  | .tileLoad u | .tileStore u => (r.parts.head?.map (·.reg)).getD 0 / 128 + 1 + ((s.tileUse u).map fun k => k.1.cycles).getD 0
  | _ => 0

/-- Put a request on its way, or in the queue of its tile slot. -/
def travel (s : State) (r : Request) : State :=
  if s.waitsTurn r.kind then
    { s with mem := { s.mem with requests := (s.mem.requests.filter fun q => q.id != r.id) ++ [{ r with stage := .queued }] } }
  else
  let r := s.fillUnit r
  let d := (match r.route with
    | .packet h _ _ => if h = r.core then 12 else 20
    | .home => trip r.core (s.homeOf r.frame r.ia)
    | _ => 70) + s.unitDelay r
  let s : State := { s with mem := { s.mem with requests := (s.mem.requests.filter fun q => q.id != r.id) ++ [{ r with stage := .travelling }] } }
  s.afterFrom d (s.notBefore r) (arrival r)

/-- What a request needs of its page (R123). -/
def needOf : ReqKind → Need
  | .store | .writeBack | .privStore | .tileStore _ => .write
  | .atomic _ _ => .atomic
  | _ => .read

/-- The page check of a request passes before the walking die (R131): its frame and permissions. A request outside module
memory has no page. -/
def pagePasses (s : State) (r : Request) : Option Request :=
  match r.route with
  | .home => (s.pageHeld r.core r.ctx r.ia (needOf r.kind)).map fun p => { r with frame := p.1, perms := p.2 }
  | _ => some r

/-- Wait for the walking die: one walk for each page of an instruction. -/
def beginWalk (s : State) (r : Request) : State :=
  let mate := s.mem.requests.findSome? fun q => match q.stage with
    | .walking w => if q.op = r.op ∧ q.ia / 2 ^ 16 = r.ia / 2 ^ 16 then some w else none
    | _ => none
  match mate with
  | some w => { s with mem := { s.mem with requests := s.mem.requests ++ [{ r with stage := .walking w }] } }
  | none =>
    let (w, s) := s.fresh
    let walk : Walk := ⟨w, r.core, r.ctx, r.va, r.ia, needOf r.kind, .requests, false⟩
    let s : State := { s with mem := { s.mem with requests := s.mem.requests ++ [{ r with stage := .walking w }], walks := s.mem.walks ++ [walk] } }
    s.after 70 (.pageWalkAnswer w)

/-- Number the requests of an instruction. -/
def numberAll (s : State) : List Request → List Request × State
  | [] => ([], s)
  | r :: rs =>
    let (id, s) := s.fresh
    let (rest, s) := numberAll s rs
    ({ r with id := id } :: rest, s)

/-- A page check by the core for a request uses the presence cache entry of its page (R129). -/
def usePageFor (s : State) (r : Request) : State := if r.route = .home then s.usePage r.core r.ia else s

/-- The requests of one instruction: they travel when every page check has passed, and the failing lanes are known before
any has an effect (R131, R330). -/
def sendAll (s : State) (rs : List Request) : State :=
  let (rs, s) := s.numberAll rs
  let s := rs.foldl (fun s r => s.usePageFor r) s
  if rs.all fun r => (s.pagePasses r).isSome then rs.foldl (fun s r => match s.pagePasses r with | some r => s.travel r | none => s) s
  else rs.foldl (fun s r => match s.pagePasses r with
    | some r => { s with mem := { s.mem with requests := s.mem.requests ++ [{ r with stage := .checked }] } }
    | none => s.beginWalk r) s

def sendNew (s : State) (r : Request) : State := s.sendAll [r]

/-- The group's fetch is suspended (R131, R36): a walk of its instruction or of its fetch is outstanding, a packet has not
been accepted, a constant line is on its way, or an answer it waits for has not come. -/
def suspended (s : State) (g : GRef) : Bool :=
  (s.mem.requests.any fun r => r.core == g.core && r.ctx == g.ctx && r.group == some g.group &&
    (match r.stage, r.route, r.kind with
     | .walking _, _, _ | .checked, _, _ | .failed _ _, _, _ => true
     | .travelling, .packet _ _ _, _ => true
     | .travelling, .remote, _ => true
     | .travelling, .aperture, _ => true
     | .travelling, .pcie, _ => true
     | .refused _, _, _ => true
     | _, _, .constFill _ => r.parts.any fun p => p.size == 0
     | _, _, _ => false)) ||
  (s.mem.walks.any fun w => match w.who with
    | .fetch h _ _ => h == g
    | .requests => false) ||
  (s.mem.results.any fun r => r.holds == some g) ||
  (s.mem.arrivals.any fun a => a.group == g && a.op != 0x56)

/-! ### Store queues (R161) -/

/-- The bytes that a thread's own stores, not yet acknowledged, hold for an address range: the latest store of each byte, in the order
of their issue. -/
def queueBytes (s : State) (t : TRef) (ctx ia size : Nat) : List (Option Byte) :=
  let mine := sortBy (·.id) (s.mem.requests.filter fun r => r.ctx == ctx && (match r.kind with | .store | .privStore => true | _ => false) && lineOf r.ia == lineOf ia)
  (List.range size).map fun k =>
    mine.foldl (fun b r => r.parts.foldl (fun b p =>
      let o := r.ia + p.off
      if p.t = t ∧ o ≤ ia + k ∧ ia + k < o + p.size then (p.data[ia + k - o]?).orElse (fun _ => b) else b) b) none

/-- A lane's first byte where the store queue has one. -/
def applyOwn (own : List (Option Byte)) (bs : List Byte) : List Byte :=
  bs.zipIdx.map fun p => ((own.getD p.2 none).getD p.1)

end State

/-! ### Splitting an access into lines (R273) -/

/-- One lane of an access: its thread, virtual and intermediate address, bytes, first register, data. -/
structure LaneAccess where
  t    : TRef
  va   : Nat
  ia   : Nat
  size : Nat
  reg  : Nat
  data : List Byte := []
  cmp  : List Byte := []
  deriving DecidableEq, Repr

/-- The part of a lane's access in its line. An access is aligned to its size, at most 64 bytes, so it lies in one line. -/
def LaneAccess.part (a : LaneAccess) : LanePart := ⟨a.t, a.ia % 128, a.size, a.reg, a.data, a.cmp, []⟩

/-- The lines that an instruction touches (R273), in the order of their first lane: line address (intermediate and virtual), parts in
lane order. -/
def linesTouched (l : List LaneAccess) : List (Nat × Nat × List LanePart) :=
  l.foldl (fun acc a =>
    if acc.any fun q => q.1 == lineOf a.ia then acc.map fun q => if q.1 = lineOf a.ia then (q.1, q.2.1, q.2.2 ++ [a.part]) else q
    else acc ++ [(lineOf a.ia, a.va / 128 * 128, [a.part])]) []

end Sys2Proof.Machine
end

