-- ==== Sys2Proof/Machine/Operands.lean ====
section
/-! DEFINITION. Issue: the checks of decode steps 4 and 5, the operands of a lane, and the writing of results
(spec/12_encoding.md R188 to R193, R203; spec/09_memory.md R150; spec/07_numbers.md R88, R90). -/

namespace Sys2Proof.Machine

/-! ### Decode steps 4 and 5 (R203) -/

/-- A register number is below the declared count; in handler mode 0xF0 to 0xFF are always within bounds (R188, R189). -/
def regInBounds (handler : Bool) (vregs n v : Nat) : Bool :=
  (handler && decide (0xF0 ≤ v ∧ v + n ≤ 0x100)) || decide (v + n ≤ vregs)

/-- Step 4 for one operand. -/
def opdInBounds (o : Opd) (handler : Bool) (tm : Team) (v : BitVec 8) : Bool :=
  match o with
  | .regs n => n == 0 || regInBounds handler tm.header.vregs n v.toNat
  | .handle => decide (v.toNat < tm.header.tiles)
  | _ => true

/-- Source B comes from a register: no literal, no immediate, no constant window (R190). -/
def bIsRegister (sp : OpSpec) (x : Fields) : Bool := x.form != .lit && !x.kw && !(sp.iBit && x.immBit)

/-- Step 4: every register and handle number (R188). -/
def boundsOk (sp : OpSpec) (x : Fields) (handler : Bool) (tm : Team) : Bool :=
  opdInBounds sp.d handler tm x.d && opdInBounds sp.a handler tm x.a && opdInBounds sp.c handler tm x.c &&
  (!(bIsRegister sp x) || opdInBounds sp.b handler tm x.b)

/-- The special registers that only a handler reads (R206, R314). -/
def trapRegister (n : Nat) : Bool := decide (0x020 ≤ n ∧ n ≤ 0x023)

/-- Step 5: privilege (R293, R313, R314, R317). -/
def privOk (s : State) (op : Nat) (x : Fields) (h : Thread) (tm : Team) : Bool :=
  match op with
  | 0x5C | 0x5D | 0x5E => !h.handler
  | 0x7A => h.handler || x.xop.getLsbD 0 || !(trapRegister x.low.toNat)
  | 0x7C => if OpTable.xf x 0 4 = 4 then h.handler else s.ctxSup tm.ctx
  | 0x73 => tm.policy.isSome
  | _ => true

/-- The trap of a decode cause: TRAPINFO is word 0 and the reported lane is lane 0 (R329, R331). -/
def decodeTrap (cause : Nat) (word0 : W32) : Trap := { cause := cause, info := word0.toNat }

/-- Steps 4 and 5 of R203, for the whole group and before guards. -/
def issueCheck (s : State) (tm : Team) (h : Thread) (sp : OpSpec) (op : Nat) (x : Fields) : Option Trap :=
  let w0 := (fieldWords op x).headD 0
  if !(boundsOk sp x h.handler tm) then some (decodeTrap Cause.regBounds w0)
  else if !(privOk s op x h tm) then some (decodeTrap Cause.priv w0)
  else none

/-! ### Constant-window operands (R149, R150, R190) -/

/-- What a constant read meets: its words, the check of R124 that fails, with its place in the order, or a line to be filled. -/
inductive ConstRead where
  | words (ws : List W32)
  | trap (order : Nat) (t : Trap)
  | missing (va ia : Nat)
  deriving DecidableEq, Repr

/-- Two reads of one operand: the earlier failing check, else a missing line, else the words of both (R124). -/
def ConstRead.both : ConstRead → ConstRead → ConstRead
  | .trap o t, .trap o' t' => if o' < o then .trap o' t' else .trap o t
  | .trap o t, _ => .trap o t
  | _, .trap o t => .trap o t
  | .missing va ia, _ => .missing va ia
  | _, .missing va ia => .missing va ia
  | .words a, .words b => .words (a ++ b)

/-- Word x of a bound window, through the core's constant cache: the checks of its address, then its bounds (R124, R150). RANGE reports
the word offset of the operand, PERM the virtual address (R329). -/
def constWord (s : State) (tm : Team) (c : CoreId) (k : Nat) (x offset : Int) (lane : Nat) : ConstRead :=
  let range := fun (order : Nat) => ConstRead.trap order { cause := Cause.range, info := wrapTo 64 offset, lane := lane }
  match tm.windows.getD k none, s.ctx tm.ctx with
  | some (base, size), some ct =>
    let va := wrapTo 64 (base + 4 * x)
    match rangeCheck ct va 4 .read with
    | .error cause => if cause = Cause.perm then .trap 3 { cause := cause, info := va, lane := lane, addr := va } else range (if 2 ^ 56 ≤ va then 1 else 2)
    | .ok (ia, _) =>
      if x < 0 ∨ (size : Int) ≤ x then range 7
      else match (s.core c).klines.find? fun l => l.ctx == tm.ctx && l.run == tm.run && l.line == lineOf ia with
        | some l => .words [BitVec.ofNat 32 (leNat ((l.data.drop (ia % 128)).take 4))]
        | none => .missing va ia
  | _, _ => range 7

/-- Consecutive words of a window, from word x of an operand. -/
def constWords (s : State) (tm : Team) (c : CoreId) (k : Nat) (x offset : Int) (lane : Nat) : Nat → ConstRead
  | 0 => .words []
  | n + 1 => (constWord s tm c k x offset lane).both (constWords s tm c k (x + 1) offset lane n)

/-- The words of a constant operand at a word offset; that of a 64-bit one is even (R190, R280). -/
def constAt (s : State) (tm : Team) (c : CoreId) (k : Nat) (x : Int) (lane n : Nat) : ConstRead :=
  (constWords s tm c k x x lane n).both
    (if n = 2 ∧ x % 2 ≠ 0 then .trap 4 { cause := Cause.align, info := wrapTo 64 x, lane := lane } else .words [])

/-- Words that source B takes. -/
def opdWords : Opd → Nat
  | .regs n => n
  | _ => 1

/-- The constant operand of an instruction with KW = 1 (R190): an odd KOFF of an operand of two words is ALIGN (DEDUCED, assumption 19). -/
def constOperand (s : State) (tm : Team) (sp : OpSpec) (x : Fields) : ConstRead :=
  if !x.kw then .words []
  else match s.participants x.guard with
    | [] => .words []
    | t :: _ => constAt s tm t.ref.core (natField x.low.toNat 17 3) (natField x.low.toNat 0 17) t.lane (opdWords sp.b)

/-- Fill a constant-cache line for an instruction, which issues again when the line is there (R131, R150). -/
def fillConst (s : State) (tm : Team) (va ia : Nat) (ts : List Thread) : State :=
  match ts.head? with
  | none => s
  | some h =>
    let s := s.expelPrivate h.ref.core tm.ctx ia
    s.sendNew { id := 0, op := s.clk.nextId, core := h.ref.core, ctx := tm.ctx, group := some h.group, pc := h.pc, set := 0, handler := h.handler
                kind := .constFill tm.run, route := routeOf ia, ty := .b32, va := va / 128 * 128, ia := lineOf ia, frame := 0, perms := 0
                parts := ts.map fun t => ⟨t.ref, 0, 0, 0, [], [], []⟩
                stage := .travelling, line := [], old := [], w := 0, leaseEnd := 0, flags := 0, poison := false }

/-! ### Operands of a lane -/

/-- The value on its way to a register, with the first register of its result (R118, R247). -/
def pendingValue (s : State) (t : Thread) (n : Nat) : Option (Nat × W32) :=
  s.mem.results.findSome? fun r =>
    if r.handler == t.handler then
      r.lanes.findSome? fun l => if l.t == t.ref && decide (l.reg ≤ n) then (l.vals[n - l.reg]?).map fun v => (l.reg, v) else none
    else none

/-- A register as an instruction of the thread reads it: inside a lookahead window the old value or the new one, whole for
all the registers of one result (R192, R214). A window of the interrupted code is none of the handler's, and the reverse (R189, R337). -/
def readReg (s : State) (t : Thread) (n : Nat) : W32 :=
  match t.windows.find? fun w => w.handler == t.handler && decide (w.first ≤ n ∧ n < w.first + w.old.length ∧ 0 < w.left ∧ s.clk.cycle < w.due) with
  | none => match pendingValue s t n with
    | some (first, v) => if Config.windowRead s.clk.free t.ref.slot first then v else t.reg n
    | none => t.reg n
  | some w => if Config.windowRead s.clk.free t.ref.slot w.first then t.reg n else w.old.getD (n - w.first) 0

/-- n registers as one value, low register first. -/
def readRegs (s : State) (t : Thread) (n : Nat) : Nat → List W32
  | 0 => []
  | k + 1 => readReg s t n :: readRegs s t (n + 1) k

/-- A v or w operand, zero-extended to 64 bits. -/
def readOpd (s : State) (t : Thread) (o : Opd) (v : BitVec 8) : W64 :=
  match o with
  | .regs 2 => pairValue (readReg s t v.toNat) (readReg s t (v.toNat + 1))
  | .regs _ => (readReg s t v.toNat).setWidth 64
  | _ => 0

/-- SEXT(IMM, 20) (R190, R270). -/
def Fields.sext (x : Fields) : W64 := x.low.signExtend 64

/-- Source B of a lane (R190). -/
def readB (s : State) (t : Thread) (sp : OpSpec) (x : Fields) (consts : List W32) : W64 :=
  if x.form = .lit then x.lit
  else if x.kw then (match consts with | [w] => w.setWidth 64 | w :: w' :: _ => pairValue w w' | [] => 0)
  else if sp.iBit && x.immBit then (if x.form = .extLit then x.lit else Fields.sext x)
  else readOpd s t sp.b x.b

/-- A participating lane with its operands. -/
structure Lane where
  t : Thread
  a : W64
  b : W64
  c : W64
  deriving DecidableEq, Repr

def laneOf (s : State) (sp : OpSpec) (x : Fields) (consts : List W32) (t : Thread) : Lane :=
  ⟨t, readOpd s t sp.a x.a, readB s t sp x consts, readOpd s t sp.c x.c⟩

/-! ### Results -/

/-- What an instruction writes in one lane. -/
structure LaneOut where
  vals  : List W32 := []
  pred  : Option Bool := none
  flags : BitVec 7 := 0
  deriving DecidableEq, Repr

/-- A 32-bit result, a 64-bit result. -/
def LaneOut.word (v : W32) : LaneOut := { vals := [v] }
def LaneOut.pair (v : W64) : LaneOut := { vals := pairWords v }

/-- Write a result at D (R93). -/
def Thread.applyOut (t : Thread) (d : Nat) (o : LaneOut) : Thread :=
  let t := (t.setRegs d o.vals).orFlags o.flags
  match o.pred with
  | some p => t.setPred d p
  | none => t

/-- The predicate that a result writes, with its old value and its new one; p0 is never written (R219). -/
def Thread.predChange (t : Thread) (d : Nat) (new : Option Bool) : Option (Nat × Bool × Bool) :=
  new.bind fun b => if d % 8 = 0 then none else some (d % 8, t.pred d, b)

/-- Open a lookahead window over the registers from D, or over a predicate (R192). -/
def Thread.openWindow (t : Thread) (la op d : Nat) (old : List W32) (due : Nat) (pred : Option (Nat × Bool × Bool) := none) : Thread :=
  if la = 0 ∨ (old.isEmpty && pred.isNone) then t else { t with windows := t.windows ++ [⟨op, d, old, la + 1, due, pred, t.handler⟩] }

/-- A result that this thread cannot read before a cycle (R237). -/
def Thread.markBusy (t : Thread) (d : Nat) (o : LaneOut) (due : Nat) : Thread :=
  let p := (t.predChange d o.pred).map (·.1)
  if o.vals.isEmpty && p.isNone then t
  else { t with busy := t.busy ++ [⟨regKey t.handler d, o.vals.length, p, due⟩] }

namespace State

/-- The issue of an instruction, before its operands: no active thread does nothing; steps 4 and 5 of R203 may trap the
group; otherwise `k` is given the team, the row of R196 and the active threads. -/
def issueThen (s : State) (op : Nat) (x : Fields) (k : Team → OpSpec → List Thread → State) : State :=
  match s.active with
  | [] => s
  | h :: rest =>
    match s.team h.team, opSpec op x with
    | some tm, some sp =>
      match issueCheck s tm h sp op x with
      | some t => s.trapGroup t
      | none => k tm sp (h :: rest)
    | _, _ => s

/-- As issueThen, with the constant operand read: it may trap, or wait for its line. -/
def issueConst (s : State) (op : Nat) (x : Fields) (k : Team → OpSpec → List Thread → List W32 → State) : State :=
  s.issueThen op x fun tm sp act =>
    match constOperand s tm sp x with
    | .trap _ t => s.trapGroup t
    | .missing va ia => fillConst s tm va ia (s.participants x.guard)
    | .words ws => k tm sp act ws

/-- The latency of a group: one of width 64 adds its first pass's hold of the pipe (R237). -/
def passLatency (tm : Team) (lat hold : Nat) : Nat := if tm.header.width = 64 then lat + hold else lat

/-- Count an instruction in its slot, in each participating lane (R193). -/
def count (s : State) (ts : List TRef) (set : Nat) : State := s.updThreads ts fun h => h.slotUp set

/-- A result in flight, with a fresh number. -/
def newResult (s : State) (op set : Nat) (handler : Bool) (counted : List TRef) (lanes : List ResultLane) (holds : Option GRef)
    (stages : List Nat) (long : Bool := true) (raises : Bool := false) : Nat × State :=
  let (id, s) := s.fresh
  let r : Result := ⟨id, op, set, handler, lanes, counted, holds, stages, s.clk.cycle, none, [], [], [], false, long, raises, []⟩
  (id, { s with mem := { s.mem with results := s.mem.results ++ [r] } })

/-- A result that is due after `lat` cycles (R78, R237, R337). -/
def addResult (s : State) (op lat set : Nat) (handler : Bool) (counted : List TRef) (lanes : List ResultLane) (holds : Option GRef)
    (stages : List Nat) (long : Bool := true) (raises : Bool := false) : State :=
  let (id, s) := s.newResult op set handler counted lanes holds stages long raises
  s.afterExactly lat (.longLatencyResult id)

/-- The slot of a short-latency instruction is counted at issue and released when its result is written (R193, R237). -/
def slotFor (s : State) (set lat : Nat) (part : List Thread) : State :=
  match part with
  | [] => s
  | h :: _ =>
    if set = 0 then s
    else (s.count (part.map (·.ref)) set).addResult s.clk.nextId lat set h.handler (part.map (·.ref)) [] none []

/-- What a participating lane writes at issue: its registers and its bits, with the window of a lookahead form and the cycle from
which the result can be read (R192, R237). -/
def resultAtIssue (s : State) (x : Fields) (due : Nat) (h : Thread) (o : LaneOut) : Thread :=
  ((h.applyOut x.d.toNat o).openWindow x.la.toNat 0 x.d.toNat (readRegs s h x.d.toNat o.vals.length) due (h.predChange x.d.toNat o.pred)).markBusy
    x.d.toNat o due

/-- The active threads go on behind the instruction, those for which `f` answers a result with it written. -/
def writeAtIssue (s : State) (x : Fields) (due : Nat) (refs : List TRef) (f : Thread → Option LaneOut) : State :=
  let step := fun (h : Thread) =>
    let h : Thread := (f h).elim h (s.resultAtIssue x due h)
    { h with pc := h.pc + BitVec.ofNat 64 x.form.length }
  { s with threads := mapIf (fun h => refs.contains h.ref) step s.threads }

/-- An instruction whose lanes are independent and whose results are written when it issues. They can be read when `lat` cycles have
passed, and `hold` more in a group of width 64, twice that on a pipe with one slice (R30); reading D in a lookahead window before that gives the old value or the new (R192,
R237). -/
def lanewise (s : State) (op : Nat) (x : Fields) (lat hold : Nat) (f : Lane → LaneOut) : State :=
  s.issueConst op x fun tm sp act ws =>
    let lat := passLatency tm lat (if s.halvedIssue then 2 * hold else hold)
    let out := fun (h : Thread) => if h.guardTrue x.guard then some (f (laneOf s sp x ws h)) else none
    (s.writeAtIssue x (s.clk.cycle + lat) (act.map (·.ref)) out).slotFor x.set.toNat lat (act.filter fun t => t.guardTrue x.guard)

/-- An instruction over the group: `f` is given the active threads and the participating lanes, in lane order, and answers
what each lane writes at once. -/
def groupwise (s : State) (op : Nat) (x : Fields) (lat : Nat) (f : Team → List Thread → List Lane → List (TRef × LaneOut)) : State :=
  s.issueConst op x fun tm sp act ws =>
    let part := act.filter fun t => t.guardTrue x.guard
    let outs := f tm act (part.map (laneOf s sp x ws))
    let out := fun (h : Thread) => (outs.find? fun p => p.1 == h.ref).map (·.2)
    (s.writeAtIssue x (s.clk.cycle + lat) (act.map (·.ref)) out).slotFor x.set.toNat lat part

/-- A result that is due after at least `lat` cycles (R301, R378). -/
def addLater (s : State) (op lat set : Nat) (handler : Bool) (counted : List TRef) (lanes : List ResultLane) (holds : Option GRef)
    (stages : List Nat) (raises : Bool := false) : State :=
  let (id, s) := s.newResult op set handler counted lanes holds stages true raises
  s.after lat (.longLatencyResult id)

/-- What a load or store performed in the L1, the constant cache or the plot answers, after at least `lat` cycles: fences wait for it
(R163, R165). -/
def addAccess (s : State) (op lat set : Nat) (handler : Bool) (counted : List TRef) (lanes : List ResultLane)
    (raises : Bool := false) (logs : List (TRef × Nat) := []) : State :=
  let (id, s) := s.newResult op set handler counted lanes none [] true raises
  let s : State := { s with mem := { s.mem with results := mapIf (fun r => r.id == id) (fun r => { r with access := true, logs := logs }) s.mem.results } }
  s.after lat (.longLatencyResult id)

/-- A long-latency result of an instruction of its own, counted in its slot (R193). -/
def deliver (s : State) (lat set : Nat) (handler : Bool) (counted : List TRef) (lanes : List ResultLane) (holds : Option GRef)
    (stages : List Nat) (long : Bool := true) (raises : Bool := false) : State :=
  (s.count counted set).addResult s.clk.nextId lat set handler counted lanes holds stages long raises

/-- The lookahead windows that a long-latency instruction opens: its registers, and the predicate with the value that it will write in each
thread, keep their old values until it writes. -/
def openWindows (s : State) (ts : List TRef) (la op d n : Nat) (preds : List (TRef × Bool) := []) : State :=
  if la = 0 ∨ n = 0 then s
  else s.updThreads ts fun h =>
    { h with windows := h.windows ++ [⟨op, d, [], la + 1, 0, h.predChange d ((preds.find? fun p => p.1 == h.ref).map (·.2)), h.handler⟩] }

/-- An instruction over the group whose results come later; `stages` are the ends of its stages, where it has them (R265). -/
def groupLater (s : State) (op : Nat) (x : Fields) (f : Team → List Thread → List Lane → Nat × List (TRef × LaneOut))
    (stages : Team → List Nat := fun _ => []) : State :=
  s.issueConst op x fun tm sp act ws =>
    let part := act.filter fun t => t.guardTrue x.guard
    let (lat, outs) := f tm act (part.map (laneOf s sp x ws))
    let id := s.clk.nextId
    let lanes := outs.map fun p => (⟨p.1, x.d.toNat, p.2.vals, p.2.pred.map fun b => (x.d.toNat, b), p.2.flags⟩ : ResultLane)
    let s' := if part.isEmpty then s else s.deliver lat x.set.toNat ((act.head?.map (·.handler)).getD false) (part.map (·.ref)) lanes none (stages tm) (longLatency op) (raisesFlags op)
    (s'.openWindows (part.map (·.ref)) x.la.toNat id x.d.toNat 1 (outs.filterMap fun p => p.2.pred.map fun b => (p.1, b))).advance act x.form.length

/-- A long-latency instruction whose lanes are independent. -/
def lanewiseLater (s : State) (op : Nat) (x : Fields) (lat : List Lane → Nat) (f : Lane → LaneOut) : State :=
  s.groupLater op x fun _ _ lanes => (lat lanes, lanes.map fun l => (l.t.ref, f l))

end State

/-! ### Reading and writing typed values (R88, R90) -/

/-- The bits of a value of the type. -/
def typeBits (t : Ty) (v : W64) : Nat := v.toNat % 2 ^ t.bits

/-- The value of an integer operand (R88). -/
def intValue (t : Ty) (v : W64) : Int := if t.signed then signedOf t.bits v.toNat else (typeBits t v : Int)

/-- The register or pair that a value of the type writes: narrow signed integers are sign-extended, other narrow values
zero-extended (R88, R90). -/
def typeWords (t : Ty) (v : Nat) : List W32 :=
  let v := v % 2 ^ t.bits
  if t.wide then pairWords (BitVec.ofNat 64 v)
  else if t.signed && t.bits < 32 then [BitVec.ofInt 32 (signedOf t.bits v)]
  else [BitVec.ofNat 32 v]

/-- An integer result: wrapped, or saturated to the type's range (R88, R217). -/
def intWords (t : Ty) (sat : Bool) (v : Int) : List W32 :=
  let lo : Int := if t.signed then -(2 ^ (t.bits - 1) : Int) else 0
  let hi : Int := if t.signed then 2 ^ (t.bits - 1) - 1 else 2 ^ t.bits - 1
  typeWords t (wrapTo t.bits (if sat then max lo (min hi v) else v))

end Sys2Proof.Machine
end

