-- ==== Sys2Proof/Machine/Flags.lean ====
section
/-! DEFINITION. The flags of FSTAT, exact fractions, ROUND and the IEEE operations (spec/07_numbers.md R90 to R93,
spec/13_isa_arith.md R228 to R236). -/

namespace Sys2Proof.Machine

/-! ### Flags (R92) -/

namespace Flag
def nv : BitVec 7 := 1
def dz : BitVec 7 := 2
def of : BitVec 7 := 4
def uf : BitVec 7 := 8
def nx : BitVec 7 := 16
def lx : BitVec 7 := 32
def sat : BitVec 7 := 64
/-- The flag where a condition holds. -/
def when (b : Bool) (f : BitVec 7) : BitVec 7 := if b then f else 0
end Flag

/-- A rounded result: the bits of its format and its flags. -/
structure Rounded where
  bits  : Nat
  flags : BitVec 7
  deriving DecidableEq, Repr

/-! ### Exact fractions -/

/-- An exact rational; `den` is positive. -/
structure Frac where
  num : Int
  den : Nat
  deriving DecidableEq, Repr

namespace Frac

/-- ±m × 2^e. -/
def scaled (neg : Bool) (m : Nat) (e : Int) : Frac :=
  let v : Nat := m <<< e.toNat
  ⟨if neg then -(v : Int) else v, 1 <<< (-e).toNat⟩

def ofInt (i : Int) : Frac := ⟨i, 1⟩
def add (x y : Frac) : Frac := if x.den = y.den then ⟨x.num + y.num, x.den⟩ else ⟨x.num * y.den + y.num * x.den, x.den * y.den⟩
def mul (x y : Frac) : Frac := ⟨x.num * y.num, x.den * y.den⟩
def neg (x : Frac) : Frac := ⟨-x.num, x.den⟩
def sub (x y : Frac) : Frac := x.add y.neg
/-- x / y for y not zero. -/
def div (x y : Frac) : Frac := ⟨x.num * y.den * y.num.sign, x.den * y.num.natAbs⟩
def lt (x y : Frac) : Bool := decide (x.num * y.den < y.num * x.den)
def le (x y : Frac) : Bool := !(y.lt x)
def same (x y : Frac) : Bool := decide (x.num * y.den = y.num * x.den)
def isZero (x : Frac) : Bool := x.num == 0
def isNeg (x : Frac) : Bool := decide (x.num < 0)
def floor (x : Frac) : Int := x.num / x.den
/-- The same value in lowest terms. -/
def reduce (x : Frac) : Frac :=
  let g := Nat.gcd x.num.natAbs x.den
  if g = 0 then x else ⟨x.num / g, x.den / g⟩

end Frac

/-- floor(log2(n / d)) for positive n and d. -/
def floorLog2 (n d : Nat) : Int :=
  let k : Int := (Nat.log2 n : Int) - Nat.log2 d
  if d <<< k.toNat ≤ n <<< (-k).toNat then k else k - 1

/-- n / d rounded to an integer magnitude; the second part is true where it is exact (R90). -/
def roundNat (rnd : Rnd) (neg : Bool) (n d : Nat) : Nat × Bool :=
  let q := n / d
  let r := n % d
  let up := match rnd with
    | .nearestEven => decide (d < 2 * r ∨ (2 * r = d ∧ q % 2 = 1))
    | .towardZero => false
    | .towardPositive => !neg && r != 0
    | .towardNegative => neg && r != 0
  (if up then q + 1 else q, r == 0)

/-- floor(sqrt(n)), by bits from 2^k down; k is at least half the bits of n. -/
def sqrtFrom (n : Nat) : (k acc : Nat) → Nat
  | 0, acc => acc
  | k + 1, acc => let t := acc + 2 ^ k; sqrtFrom n k (if t * t ≤ n then t else acc)

def natSqrt (n : Nat) : Nat := sqrtFrom n (Nat.log2 n / 2 + 1) 0

/-! ### Binary formats (R90, R91) -/

/-- A binary format: precision in bits, exponent field in bits. -/
structure Fmt where
  p : Nat
  w : Nat
  deriving DecidableEq, Repr

def Fmt.binary16 : Fmt := ⟨11, 5⟩
def Fmt.binary32 : Fmt := ⟨24, 8⟩
def Fmt.binary64 : Fmt := ⟨53, 11⟩

def Fmt.ofTy : Ty → Fmt
  | .f16 => .binary16
  | .f64 => .binary64
  | _ => .binary32

namespace Fmt
def emin (f : Fmt) : Int := 2 - 2 ^ (f.w - 1)
def width (f : Fmt) : Nat := f.p + f.w
/-- The bits of +∞. -/
def inf (f : Fmt) : Nat := (2 ^ f.w - 1) * 2 ^ (f.p - 1)
/-- The canonical NaN (R91). -/
def nan (f : Fmt) : Nat := f.inf + 2 ^ (f.p - 2)
def signBit (f : Fmt) : Nat := 2 ^ (f.width - 1)
def withSign (f : Fmt) (neg : Bool) (m : Nat) : Nat := if neg then m + f.signBit else m
end Fmt

/-- What a binary value is. A zero is a `num` with m = 0. -/
inductive Fp where
  | nan (signaling : Bool)
  | inf (neg : Bool)
  | num (neg : Bool) (m : Nat) (e : Int)
  deriving DecidableEq, Repr

/-- The value of bits in a format. -/
def Fp.decode (f : Fmt) (bits : Nat) : Fp :=
  let neg := bits.testBit (f.width - 1)
  let mag := bits % f.signBit
  let ex := mag / 2 ^ (f.p - 1)
  let man := mag % 2 ^ (f.p - 1)
  if mag = f.inf then .inf neg
  else if f.inf < mag then .nan (!man.testBit (f.p - 2))
  else if ex = 0 then .num neg man (f.emin - (f.p - 1))
  else .num neg (man + 2 ^ (f.p - 1)) (f.emin + ex - 1 - (f.p - 1))

namespace Fp
def isNan : Fp → Bool | nan _ => true | _ => false
def isSignaling : Fp → Bool | nan s => s | _ => false
def isInf : Fp → Bool | inf _ => true | _ => false
def isZero : Fp → Bool | num _ m _ => m == 0 | _ => false
def sign : Fp → Bool | nan _ => false | inf n => n | num n _ _ => n
def flip : Fp → Fp | nan s => nan s | inf n => inf (!n) | num n m e => num (!n) m e
/-- The exact value of a number. -/
def value : Fp → Frac | num n m e => Frac.scaled n m e | _ => ⟨0, 1⟩
end Fp

/-- ROUND of a positive fraction n / d with a sign (R90, R91): tininess is detected after rounding. -/
def roundPos (f : Fmt) (rnd : Rnd) (neg : Bool) (n d : Nat) : Rounded :=
  let e := floorLog2 n d
  let at' := fun (t : Int) => roundNat rnd neg (n <<< (-t).toNat) (d <<< t.toNat)
  let el := max e f.emin
  let (m, exact) := at' (el - (f.p - 1))
  let mag := (el - f.emin).toNat * 2 ^ (f.p - 1) + m
  if f.inf ≤ mag then
    let toInf := match rnd with
      | .nearestEven => true
      | .towardZero => false
      | .towardPositive => !neg
      | .towardNegative => neg
    ⟨f.withSign neg (if toInf then f.inf else f.inf - 1), Flag.of ||| Flag.nx⟩
  else
    let tiny := decide (e < f.emin) && !(e == f.emin - 1 && (at' (e - (f.p - 1))).1 == 2 ^ f.p)
    ⟨f.withSign neg mag, Flag.when (!exact) Flag.nx ||| Flag.when (tiny && !exact) Flag.uf⟩

/-- ROUND(x, format, RND); an exact zero takes the given sign. -/
def roundFrac (f : Fmt) (rnd : Rnd) (zeroNeg : Bool) (x : Frac) : Rounded :=
  if x.num = 0 then ⟨f.withSign zeroNeg 0, 0⟩ else roundPos f rnd x.isNeg x.num.natAbs x.den

/-- A NaN result. -/
def nanResult (f : Fmt) (nv : Bool) : Rounded := ⟨f.nan, Flag.when nv Flag.nv⟩

/-- The sign of an exact zero of terms with these signs: true stands for a minus (R228). `cancel` says that some term is
not zero. -/
def zeroSign (rnd : Rnd) (signs : List Bool) (cancel : Bool) : Bool :=
  if !cancel && signs.all id && !signs.isEmpty then true
  else if !cancel && signs.all (! ·) then false
  else rnd == .towardNegative

/-- A sum of products, rounded once, with the special cases of R228 and R234. -/
def sumProducts (f : Fmt) (rnd : Rnd) (terms : List (List Fp)) : Rounded :=
  let all := terms.flatten
  let invalid := terms.any fun t => t.any (·.isInf) && t.any (·.isZero) && !(t.any (·.isNan))
  if all.any (·.isNan) || invalid then nanResult f (all.any (·.isSignaling) || invalid)
  else
    let signOf := fun (t : List Fp) => t.foldl (fun n x => n != x.sign) false
    let infs := (terms.filter fun t => t.any (·.isInf)).map signOf
    if infs.any id && infs.any (! ·) then nanResult f true
    else match infs with
      | n :: _ => ⟨f.withSign n f.inf, 0⟩
      | [] =>
        let values := terms.map fun t => t.foldl (fun v x => v.mul x.value) ⟨1, 1⟩
        roundFrac f rnd (zeroSign rnd (terms.map signOf) (values.any fun v => !v.isZero)) (values.foldl Frac.add ⟨0, 1⟩)

/-- FDIV (R228). -/
def divFp (f : Fmt) (rnd : Rnd) (a b : Fp) : Rounded :=
  let neg := a.sign != b.sign
  if a.isNan || b.isNan then nanResult f (a.isSignaling || b.isSignaling)
  else if (a.isInf && b.isInf) || (a.isZero && b.isZero) then nanResult f true
  else if a.isInf then ⟨f.withSign neg f.inf, 0⟩
  else if b.isInf then ⟨f.withSign neg 0, 0⟩
  else if b.isZero then ⟨f.withSign neg f.inf, Flag.dz⟩
  else roundFrac f rnd neg (a.value.div b.value)

/-- FSQRT (R228): the root is taken to enough bits, with a sticky bit below them. -/
def sqrtFp (f : Fmt) (rnd : Rnd) (a : Fp) : Rounded :=
  match a with
  | .nan s => nanResult f s
  | .inf false => ⟨f.inf, 0⟩
  | .inf true => nanResult f true
  | .num neg m e =>
    if m = 0 then ⟨f.withSign neg 0, 0⟩
    else if neg then nanResult f true
    else
      let (m, e) := if e % 2 = 0 then (m, e) else (2 * m, e - 1)
      let k := f.p + 2
      let n := m <<< (2 * k)
      let r := natSqrt n
      let v := Frac.scaled false (2 * r + boolNat (r * r != n)) (e / 2 - k - 1)
      roundPos f rnd false v.num.natAbs v.den

/-- An order key of a number or infinity; `strict` puts −0 below +0 (R229, R230). -/
def fpKey (f : Fmt) (strict : Bool) (bits : Nat) : Int :=
  let mag := bits % f.signBit
  if bits.testBit (f.width - 1) then -(mag : Int) - boolNat strict else mag

/-- FMIN and FMAX (R229). -/
def minMaxBits (f : Fmt) (isMax nan : Bool) (a b : Nat) : Rounded :=
  let x := Fp.decode f a
  let y := Fp.decode f b
  let nv := x.isSignaling || y.isSignaling
  if (x.isNan && y.isNan) || (nan && (x.isNan || y.isNan)) then nanResult f nv
  else if x.isNan then ⟨b, Flag.when nv Flag.nv⟩
  else if y.isNan then ⟨a, Flag.when nv Flag.nv⟩
  else
    let below := decide (fpKey f true a ≤ fpKey f true b)
    ⟨if below == isMax then b else a, 0⟩

/-- A condition over an order, for codes 0 to 5 (R198). -/
def condHolds (code : Nat) (lt eq : Bool) : Bool :=
  match code with
  | 0 => eq | 1 => !eq | 2 => lt | 3 => lt || eq | 4 => !(lt || eq) | _ => !lt

/-- FCMP (R230). -/
def compareBits (f : Fmt) (code a b : Nat) : Bool × BitVec 7 :=
  let x := Fp.decode f a
  let y := Fp.decode f b
  let unordered := x.isNan || y.isNan
  let nv := Flag.when (x.isSignaling || y.isSignaling || (unordered && decide (2 ≤ code ∧ code ≤ 5))) Flag.nv
  let ka := fpKey f false a
  let kb := fpKey f false b
  let r := if code = 6 then unordered else if code = 7 then !unordered
    else if unordered then code == 1 else condHolds code (decide (ka < kb)) (decide (ka = kb))
  (r, nv)

/-- roundToIntegral of a number, as a signed integer with an exactness bit (R231, R249). -/
def toIntegral (rnd : Rnd) (x : Frac) : Int × Bool :=
  let (m, exact) := roundNat rnd x.isNeg x.num.natAbs x.den
  (if x.isNeg then -(m : Int) else m, exact)

/-- FRND (R231). -/
def rintFp (f : Fmt) (rnd : Rnd) (a : Fp) : Rounded :=
  match a with
  | .nan s => nanResult f s
  | .inf n => ⟨f.withSign n f.inf, 0⟩
  | .num neg m e =>
    let (i, exact) := toIntegral rnd (Frac.scaled neg m e)
    let r := roundFrac f .towardZero neg (Frac.ofInt i)
    ⟨r.bits, Flag.when (!exact) Flag.nx⟩

/-- FFRAC (R231). -/
def fracFp (f : Fmt) (rnd : Rnd) (a : Fp) : Rounded :=
  match a with
  | .nan s => nanResult f s
  | .inf _ => nanResult f true
  | .num neg m e =>
    let x := Frac.scaled neg m e
    roundFrac f rnd false (x.sub (Frac.ofInt x.floor))

/-- FSCALE (R232): an exponent shift beyond the format's whole range rounds as the range's end does. -/
def scaleFp (f : Fmt) (rnd : Rnd) (a : Fp) (n : Int) : Rounded :=
  match a with
  | .nan s => nanResult f s
  | .inf neg => ⟨f.withSign neg f.inf, 0⟩
  | .num neg m e =>
    let n := max (-5000) (min 5000 n)
    roundFrac f rnd neg (Frac.scaled neg m (e + n))

/-- FCLASS (R233). -/
def classMask (f : Fmt) (bits : Nat) : Nat :=
  match Fp.decode f bits with
  | .nan s => if s then 2 ^ 8 else 2 ^ 9
  | .inf n => if n then 2 ^ 0 else 2 ^ 7
  | .num n m _ =>
    if m = 0 then (if n then 2 ^ 3 else 2 ^ 4)
    else if m < 2 ^ (f.p - 1) then (if n then 2 ^ 2 else 2 ^ 5)
    else (if n then 2 ^ 1 else 2 ^ 6)

/-- SIGNOP (R228). -/
def signOp (f : Fmt) (bits : Nat) (neg abs : Bool) : Nat :=
  let b := bits % 2 ^ f.width
  let b := if abs then b % f.signBit else b
  if neg then b ^^^ f.signBit else b

/-- The clamp to [0, 1] of M<4> (R228). -/
def clampUnit (f : Fmt) (r : Rounded) : Rounded :=
  let one : Nat := (2 ^ (f.w - 1) - 1) * 2 ^ (f.p - 1)
  match Fp.decode f r.bits with
  | .nan _ => { r with bits := 0 }
  | _ => if fpKey f false r.bits ≤ 0 then { r with bits := 0 } else if (one : Int) < fpKey f false r.bits then { r with bits := one } else r

/-- Conversion of a binary value to a format (R248): exact where it widens. -/
def convertFp (f : Fmt) (rnd : Rnd) (a : Fp) : Rounded :=
  match a with
  | .nan s => nanResult f s
  | .inf n => ⟨f.withSign n f.inf, 0⟩
  | .num n m e => roundFrac f rnd n (Frac.scaled n m e)

/-- Conversion of a binary value to an integer type (R249). -/
def fpToInt (t : Ty) (rnd : Rnd) (a : Fp) : Int × BitVec 7 :=
  let lo : Int := if t.signed then -(2 ^ (t.bits - 1) : Int) else 0
  let hi : Int := if t.signed then 2 ^ (t.bits - 1) - 1 else 2 ^ t.bits - 1
  match a with
  | .nan _ => (0, Flag.nv)
  | .inf n => (if n then lo else hi, Flag.nv)
  | .num n m e =>
    let (x, exact) := toIntegral rnd (Frac.scaled n m e)
    if x < lo then (lo, Flag.nv) else if hi < x then (hi, Flag.nv) else (x, Flag.when (!exact) Flag.nx)

/-- What a lane writes of a rounded result of a type. -/
def roundedOut (t : Ty) (r : Rounded) : LaneOut := { vals := typeWords t r.bits, flags := r.flags }

end Sys2Proof.Machine
end

