-- ==== Sys2Proof/Machine/Grit.lean ====
section
/-! DEFINITION. Grit numbers: decoding and rounding (spec/07_numbers.md R94 to R98). -/

namespace Sys2Proof.Machine

/-- Length of the run of bits equal to b from bit `i` − 1 downward. -/
def runLength (m : Nat) (b : Bool) : Nat → Nat
  | 0 => 0
  | i + 1 => if m.testBit i == b then 1 + runLength m b i else 0

/-- decode(M, n) of R94, for M not zero. -/
def gritMagnitude (n m : Nat) : Frac :=
  let b := m.testBit (n - 2)
  let len := runLength m b (n - 1)
  let k : Int := if b then (len : Int) - 1 else -(len : Int)
  let rest := n - 1 - len - 1
  let e := if rest = 0 then 0 else natField m (rest - 1) 1
  let fw := rest - 1
  Frac.scaled false (2 ^ fw + natField m 0 fw) (2 * k + e - fw)

/-- A grit value. -/
inductive Grit where
  | nav
  | num (neg : Bool) (mag : Nat)
  deriving DecidableEq, Repr

/-- The code of n bits (R94, R96). -/
def Grit.decode (n bits : Nat) : Grit :=
  let m := natField bits 0 (n - 1)
  let s := bits.testBit (n - 1)
  if m = 0 then (if s then .nav else .num false 0) else .num s m

def gritNav (n : Nat) : Nat := 2 ^ (n - 1)

/-- The exact value of a number (R94). -/
def gritValue (n : Nat) : Grit → Frac
  | .nav => ⟨0, 1⟩
  | .num s m => if m = 0 then ⟨0, 1⟩ else if s then (gritMagnitude n m).neg else gritMagnitude n m

/-- The largest magnitude code whose value is at most x, for x at least the smallest magnitude. -/
def gritBelow (n : Nat) (x : Frac) : Nat :=
  (List.range (2 ^ (n - 1))).foldl (fun c m => if m ≠ 0 ∧ (gritMagnitude n m).le x then m else c) 0

/-- R97: an exact real to a grit code. -/
def gritRound (n : Nat) (rnd : Rnd) (x : Frac) : Rounded :=
  let neg := x.isNeg
  let a : Frac := ⟨x.num.natAbs, x.den⟩
  let top := 2 ^ (n - 1) - 1
  let signed := fun (m : Nat) => m + boolNat neg * 2 ^ (n - 1)
  if x.isZero then ⟨0, 0⟩
  else if (gritMagnitude n top).lt a then ⟨signed top, Flag.sat ||| Flag.nx⟩
  else if a.lt (gritMagnitude n 1) then ⟨signed 1, Flag.sat ||| Flag.nx⟩
  else
    let c := gritBelow n a
    let v := gritMagnitude n c
    if v.same a then ⟨signed c, 0⟩
    else
      let two := (gritMagnitude n (c + 1)).add v
      let twice := a.add a
      let up := match rnd with
        | .nearestEven => two.lt twice || (two.same twice && c % 2 == 1)
        | .towardZero => false
        | .towardPositive => !neg
        | .towardNegative => neg
      ⟨signed (if up then c + 1 else c), Flag.nx⟩

/-- From IEEE to grit (R98). -/
def gritOfFp (n : Nat) (rnd : Rnd) (a : Fp) : Rounded :=
  match a with
  | .nan _ => ⟨gritNav n, Flag.nv⟩
  | .inf s => ⟨2 ^ (n - 1) - 1 + boolNat s * 2 ^ (n - 1), Flag.sat ||| Flag.nx⟩
  | .num s m e => gritRound n rnd (Frac.scaled s m e)

/-- From grit to IEEE, exactly (R98). -/
def fpOfGrit (f : Fmt) (n : Nat) (a : Grit) : Rounded :=
  match a with
  | .nav => ⟨f.nan, 0⟩
  | x => roundFrac f .nearestEven false (gritValue n x)

/-- Between grit formats (R98, R251). -/
def gritOfGrit (n n' : Nat) (rnd : Rnd) (a : Grit) : Rounded :=
  match a with
  | .nav => ⟨gritNav n, 0⟩
  | x => gritRound n rnd (gritValue n' x)

/-- GCVT (R251), by destination and source type. -/
def gritConvert (t src : Ty) (rnd : Rnd) (bits : Nat) : Rounded :=
  if src.isGrit then
    (if t.isGrit then gritOfGrit t.bits src.bits rnd (Grit.decode src.bits bits) else fpOfGrit (Fmt.ofTy t) src.bits (Grit.decode src.bits bits))
  else gritOfFp t.bits rnd (Fp.decode (Fmt.ofTy src) bits)

end Sys2Proof.Machine
end

