-- ==== Sys2Proof/Machine/Arith.lean ====
section
/-! DEFINITION. The meanings of the integer, logic, shift and bit-field instructions, opcodes 0x01 to 0x1F
(spec/13_isa_arith.md R214 to R227, R237). -/

namespace Sys2Proof.Machine

/-- The latency and pipe hold of the type: narrow or 64-bit (R237). -/
def latencyOf (t : Ty) (narrow wide : Nat) : Nat := if t.wide then wide else narrow
def holdOf (t : Ty) (wide : Nat) : Nat := if t.wide then wide else 1

namespace State

/-- The shared description of R217: exact operands, OPFN, then wrapping or saturation. -/
def integerOp (s : State) (op : Nat) (x : Fields) (lat latWide hold : Nat) (fn : Int → Int → Int → Int) : State :=
  s.lanewise op x (latencyOf x.ty lat latWide) (holdOf x.ty hold) fun l =>
    { vals := intWords x.ty (x.xop.getLsbD 0) (fn (intValue x.ty l.a) (intValue x.ty l.b) (intValue x.ty l.c)) }

/-- An operation on the bits of the type (R222 to R226). -/
def bitsOp (s : State) (op : Nat) (x : Fields) (fn : Lane → Nat) : State :=
  s.lanewise op x (latencyOf x.ty 4 6) (holdOf x.ty 2) fun l => { vals := typeWords x.ty (fn l) }

/-- A count of bits, written to one register (R225). -/
def countOp (s : State) (op : Nat) (x : Fields) (fn : Nat → Nat) : State :=
  s.lanewise op x (latencyOf x.ty 4 6) (holdOf x.ty 2) fun l => .word (BitVec.ofNat 32 (fn (typeBits x.ty l.a)))

end State

/-- IMULH: floor(a × b / 2^w) (R217). -/
def mulHigh (t : Ty) (a b : Int) : Int := a * b / (2 ^ t.bits : Int)

/-- Quotient and remainder of R220. -/
def divRem (t : Ty) (a b : Int) : Int × Int :=
  if b = 0 then (if t.signed then -1 else 2 ^ t.bits - 1, a)
  else if t.signed ∧ a = -(2 ^ (t.bits - 1) : Int) ∧ b = -1 then (a, 0)
  else (Int.tdiv a b, a - Int.tdiv a b * b)

/-- The latency of IDIV and IREM (R237), and the divide unit's interval to a second pass. -/
def divideLatency (tm : Team) (t : Ty) : Nat :=
  State.passLatency tm (if t.wide then 66 else if t.bits = 32 then 34 else 18) (if t.wide then 32 else 8)

/-- A shift count: 32 bits, unsigned (R223). -/
def shiftCount (l : Lane) : Nat := l.b.toNat % 2 ^ 32

def shiftLeft (t : Ty) (l : Lane) : Nat := if shiftCount l < t.bits then typeBits t l.a * 2 ^ shiftCount l % 2 ^ t.bits else 0
def shiftRight (t : Ty) (l : Lane) : Nat := if shiftCount l < t.bits then typeBits t l.a / 2 ^ shiftCount l else 0
def shiftArith (t : Ty) (l : Lane) : Nat := wrapTo t.bits (signedOf t.bits l.a.toNat / (2 ^ (min (shiftCount l) t.bits) : Int))
def rotateLeft (t : Ty) (l : Lane) : Nat :=
  let n := shiftCount l % t.bits
  let v := typeBits t l.a
  (v * 2 ^ n) % 2 ^ t.bits + v / 2 ^ (t.bits - n)

/-- The position word of BFX and BFI (R224): position and length. -/
def fieldPos (l : Lane) : Nat := natField l.b.toNat 0 8
def fieldLen (t : Ty) (l : Lane) : Nat := min (natField l.b.toNat 8 8) t.bits

/-- BFX (R224). -/
def extractField (t : Ty) (l : Lane) : Nat :=
  let n := fieldLen t l
  let f := wrapTo n (intValue t l.a / (2 ^ fieldPos l : Int))
  if n = 0 then 0 else if t.signed then wrapTo t.bits (signedOf n f) else f

/-- BFI (R224). -/
def insertField (t : Ty) (l : Lane) : Nat :=
  let n := min (fieldLen t l) (t.bits - fieldPos l)
  let mask := (2 ^ n - 1) * 2 ^ fieldPos l
  let c := typeBits t l.c
  (c - (c &&& mask)) + ((typeBits t l.a * 2 ^ fieldPos l) &&& mask)

def popCount (v : Nat) : Nat := (List.range 64).foldl (fun n k => n + boolNat (v.testBit k)) 0
def leadingZeros (w v : Nat) : Nat := if v = 0 then w else w - 1 - Nat.log2 v
def reverseBits (w v : Nat) : Nat := (List.range w).foldl (fun n k => n + (if v.testBit k then 2 ^ (w - 1 - k) else 0)) 0

/-- BPERM (R226). -/
def bytePermute (a b : Nat) : Nat :=
  (List.range 4).foldl (fun n i =>
    let sel := natField b (4 * i) 4
    let byte := natField a (8 * (sel % 4)) 8
    n + (if sel.testBit 3 then 0 else if sel.testBit 2 then (if byte.testBit 7 then 0xFF else 0) else byte) * 2 ^ (8 * i)) 0

/-- BOOL3 (R227). -/
def truthTable (w table a b c : Nat) : Nat :=
  (List.range w).foldl (fun n j =>
    n + boolNat (table.testBit (boolNat (a.testBit j) + 2 * boolNat (b.testBit j) + 4 * boolNat (c.testBit j))) * 2 ^ j) 0


/-- IADD (R217). -/
def iaddOp (x : Fields) (s : State) : State :=
  s.integerOp 0x01 x 4 6 2 fun a b _ => a + b

/-- IADD, base form (R217, R186). -/
def execIaddBase (d a : BitVec 8) (b : BitVec 7) (s : State) : Host.Outcome State Fault Refusal :=
  .next (iaddOp (Fields.ofBase 0x01 d a (b.setWidth 8)) s)

/-- IADD, extended and literal forms (R217). -/
def execIaddExtended (x : Fields) (s : State) : Host.Outcome State Fault Refusal :=
  .next (iaddOp x s)

/-- ISUB (R217). -/
def isubOp (x : Fields) (s : State) : State :=
  s.integerOp 0x02 x 4 6 2 fun a b _ => a - b

/-- ISUB, base form (R217, R186). -/
def execIsubBase (d a : BitVec 8) (b : BitVec 7) (s : State) : Host.Outcome State Fault Refusal :=
  .next (isubOp (Fields.ofBase 0x02 d a (b.setWidth 8)) s)

/-- ISUB, extended and literal forms (R217). -/
def execIsubExtended (x : Fields) (s : State) : Host.Outcome State Fault Refusal :=
  .next (isubOp x s)

/-- IMUL (R217). -/
def imulOp (x : Fields) (s : State) : State :=
  s.integerOp 0x03 x 6 10 4 fun a b _ => a * b

/-- IMUL, base form (R217, R186). -/
def execImulBase (d a : BitVec 8) (b : BitVec 7) (s : State) : Host.Outcome State Fault Refusal :=
  .next (imulOp (Fields.ofBase 0x03 d a (b.setWidth 8)) s)

/-- IMUL, extended and literal forms (R217). -/
def execImulExtended (x : Fields) (s : State) : Host.Outcome State Fault Refusal :=
  .next (imulOp x s)

/-- IMULH (R217). -/
def imulhOp (x : Fields) (s : State) : State :=
  s.integerOp 0x04 x 6 10 4 fun a b _ => mulHigh x.ty a b

/-- IMULH, base form (R217, R186). -/
def execImulhBase (d a : BitVec 8) (b : BitVec 7) (s : State) : Host.Outcome State Fault Refusal :=
  .next (imulhOp (Fields.ofBase 0x04 d a (b.setWidth 8)) s)

/-- IMULH, extended and literal forms (R217). -/
def execImulhExtended (x : Fields) (s : State) : Host.Outcome State Fault Refusal :=
  .next (imulhOp x s)

/-- IMAD (R217). -/
def imadOp (x : Fields) (s : State) : State :=
  s.integerOp 0x05 x 6 10 4 fun a b c => a * b + c

/-- IMAD, base form (R217, R186). -/
def execImadBase (d a : BitVec 8) (b : BitVec 7) (s : State) : Host.Outcome State Fault Refusal :=
  .next (imadOp (Fields.ofBase 0x05 d a (b.setWidth 8)) s)

/-- IMAD, extended and literal forms (R217). -/
def execImadExtended (x : Fields) (s : State) : Host.Outcome State Fault Refusal :=
  .next (imadOp x s)

/-- IDIV (R220). -/
def idivOp (x : Fields) (s : State) : State :=
  s.groupLater 0x06 x fun tm _ ls =>
    (divideLatency tm x.ty, ls.map fun l => (l.t.ref, { vals := intWords x.ty false (divRem x.ty (intValue x.ty l.a) (intValue x.ty l.b)).1 }))

/-- IDIV, extended forms (R220). -/
def execIdiv (x : Fields) (s : State) : Host.Outcome State Fault Refusal :=
  .next (idivOp x s)

/-- IREM (R220). -/
def iremOp (x : Fields) (s : State) : State :=
  s.groupLater 0x07 x fun tm _ ls =>
    (divideLatency tm x.ty, ls.map fun l => (l.t.ref, { vals := intWords x.ty false (divRem x.ty (intValue x.ty l.a) (intValue x.ty l.b)).2 }))

/-- IREM, extended forms (R220). -/
def execIrem (x : Fields) (s : State) : Host.Outcome State Fault Refusal :=
  .next (iremOp x s)

/-- IMIN (R217). -/
def iminOp (x : Fields) (s : State) : State :=
  s.integerOp 0x08 x 4 6 2 fun a b _ => min a b

/-- IMIN, base form (R217, R186). -/
def execIminBase (d a : BitVec 8) (b : BitVec 7) (s : State) : Host.Outcome State Fault Refusal :=
  .next (iminOp (Fields.ofBase 0x08 d a (b.setWidth 8)) s)

/-- IMIN, extended and literal forms (R217). -/
def execIminExtended (x : Fields) (s : State) : Host.Outcome State Fault Refusal :=
  .next (iminOp x s)

/-- IMAX (R217). -/
def imaxOp (x : Fields) (s : State) : State :=
  s.integerOp 0x09 x 4 6 2 fun a b _ => max a b

/-- IMAX, base form (R217, R186). -/
def execImaxBase (d a : BitVec 8) (b : BitVec 7) (s : State) : Host.Outcome State Fault Refusal :=
  .next (imaxOp (Fields.ofBase 0x09 d a (b.setWidth 8)) s)

/-- IMAX, extended and literal forms (R217). -/
def execImaxExtended (x : Fields) (s : State) : Host.Outcome State Fault Refusal :=
  .next (imaxOp x s)

/-- IABS (R218). -/
def iabsOp (x : Fields) (s : State) : State :=
  s.integerOp 0x0A x 4 6 2 fun a _ _ => a.natAbs

/-- IABS, base form (R218, R186). -/
def execIabsBase (d a : BitVec 8) (s : State) : Host.Outcome State Fault Refusal :=
  .next (iabsOp (Fields.ofBase 0x0A d a 0) s)

/-- IABS, extended and literal forms (R218). -/
def execIabsExtended (x : Fields) (s : State) : Host.Outcome State Fault Refusal :=
  .next (iabsOp x s)

/-- INEG (R218). -/
def inegOp (x : Fields) (s : State) : State :=
  s.integerOp 0x0B x 4 6 2 fun a _ _ => -a

/-- INEG, base form (R218, R186). -/
def execInegBase (d a : BitVec 8) (s : State) : Host.Outcome State Fault Refusal :=
  .next (inegOp (Fields.ofBase 0x0B d a 0) s)

/-- INEG, extended and literal forms (R218). -/
def execInegExtended (x : Fields) (s : State) : Host.Outcome State Fault Refusal :=
  .next (inegOp x s)

/-- ICMP (R219). -/
def icmpOp (x : Fields) (s : State) : State :=
  s.lanewise 0x0C x (latencyOf x.ty 4 6) (holdOf x.ty 2) fun l =>
    let a := intValue x.ty l.a
    let b := intValue x.ty l.b
    { pred := some (condHolds x.c.toNat (decide (a < b)) (decide (a = b))) }

/-- ICMP, extended forms (R219). -/
def execIcmp (x : Fields) (s : State) : Host.Outcome State Fault Refusal :=
  .next (icmpOp x s)

/-- ISEL (R219). -/
def iselOp (x : Fields) (s : State) : State :=
  s.lanewise 0x0D x (latencyOf x.ty 4 6) (holdOf x.ty 2) fun l => { vals := typeWords x.ty (if l.t.pred x.c.toNat then l.a else l.b).toNat }

/-- ISEL, extended forms (R219). -/
def execIsel (x : Fields) (s : State) : Host.Outcome State Fault Refusal :=
  .next (iselOp x s)

/-- ADDMIN (R217). -/
def addminOp (x : Fields) (s : State) : State :=
  s.integerOp 0x0E x 4 6 2 fun a b c => min (a + b) c

/-- ADDMIN, base form (R217, R186). -/
def execAddminBase (d a : BitVec 8) (b : BitVec 7) (s : State) : Host.Outcome State Fault Refusal :=
  .next (addminOp (Fields.ofBase 0x0E d a (b.setWidth 8)) s)

/-- ADDMIN, extended and literal forms (R217). -/
def execAddminExtended (x : Fields) (s : State) : Host.Outcome State Fault Refusal :=
  .next (addminOp x s)

/-- LEA (R221). -/
def leaOp (x : Fields) (s : State) : State :=
  s.lanewise 0x0F x 6 2 fun l => .pair (l.a + (l.b.setWidth 32).signExtend 64 <<< natField x.xop.toNat 0 3)

/-- LEA, base form (R221, R186). -/
def execLeaBase (d a : BitVec 8) (b : BitVec 7) (s : State) : Host.Outcome State Fault Refusal :=
  .next (leaOp (Fields.ofBase 0x0F d a (b.setWidth 8)) s)

/-- LEA, extended and literal forms (R221). -/
def execLeaExtended (x : Fields) (s : State) : Host.Outcome State Fault Refusal :=
  .next (leaOp x s)

/-- AND (R222). -/
def andOp (x : Fields) (s : State) : State :=
  s.bitsOp 0x10 x fun l => (l.a &&& l.b).toNat

/-- AND, base form (R222, R186). -/
def execAndBase (d a : BitVec 8) (b : BitVec 7) (s : State) : Host.Outcome State Fault Refusal :=
  .next (andOp (Fields.ofBase 0x10 d a (b.setWidth 8)) s)

/-- AND, extended and literal forms (R222). -/
def execAndExtended (x : Fields) (s : State) : Host.Outcome State Fault Refusal :=
  .next (andOp x s)

/-- OR (R222). -/
def orOp (x : Fields) (s : State) : State :=
  s.bitsOp 0x11 x fun l => (l.a ||| l.b).toNat

/-- OR, base form (R222, R186). -/
def execOrBase (d a : BitVec 8) (b : BitVec 7) (s : State) : Host.Outcome State Fault Refusal :=
  .next (orOp (Fields.ofBase 0x11 d a (b.setWidth 8)) s)

/-- OR, extended and literal forms (R222). -/
def execOrExtended (x : Fields) (s : State) : Host.Outcome State Fault Refusal :=
  .next (orOp x s)

/-- XOR (R222). -/
def xorOp (x : Fields) (s : State) : State :=
  s.bitsOp 0x12 x fun l => (l.a ^^^ l.b).toNat

/-- XOR, base form (R222, R186). -/
def execXorBase (d a : BitVec 8) (b : BitVec 7) (s : State) : Host.Outcome State Fault Refusal :=
  .next (xorOp (Fields.ofBase 0x12 d a (b.setWidth 8)) s)

/-- XOR, extended and literal forms (R222). -/
def execXorExtended (x : Fields) (s : State) : Host.Outcome State Fault Refusal :=
  .next (xorOp x s)

/-- ANDN (R222). -/
def andnOp (x : Fields) (s : State) : State :=
  s.bitsOp 0x13 x fun l => (l.a &&& ~~~l.b).toNat

/-- ANDN, base form (R222, R186). -/
def execAndnBase (d a : BitVec 8) (b : BitVec 7) (s : State) : Host.Outcome State Fault Refusal :=
  .next (andnOp (Fields.ofBase 0x13 d a (b.setWidth 8)) s)

/-- ANDN, extended and literal forms (R222). -/
def execAndnExtended (x : Fields) (s : State) : Host.Outcome State Fault Refusal :=
  .next (andnOp x s)

/-- SHL (R223). -/
def shlOp (x : Fields) (s : State) : State :=
  s.bitsOp 0x14 x (shiftLeft x.ty)

/-- SHL, base form (R223, R186). -/
def execShlBase (d a : BitVec 8) (b : BitVec 7) (s : State) : Host.Outcome State Fault Refusal :=
  .next (shlOp (Fields.ofBase 0x14 d a (b.setWidth 8)) s)

/-- SHL, extended and literal forms (R223). -/
def execShlExtended (x : Fields) (s : State) : Host.Outcome State Fault Refusal :=
  .next (shlOp x s)

/-- SHR (R223). -/
def shrOp (x : Fields) (s : State) : State :=
  s.bitsOp 0x15 x (shiftRight x.ty)

/-- SHR, base form (R223, R186). -/
def execShrBase (d a : BitVec 8) (b : BitVec 7) (s : State) : Host.Outcome State Fault Refusal :=
  .next (shrOp (Fields.ofBase 0x15 d a (b.setWidth 8)) s)

/-- SHR, extended and literal forms (R223). -/
def execShrExtended (x : Fields) (s : State) : Host.Outcome State Fault Refusal :=
  .next (shrOp x s)

/-- SRA (R223). -/
def sraOp (x : Fields) (s : State) : State :=
  s.bitsOp 0x16 x (shiftArith x.ty)

/-- SRA, base form (R223, R186). -/
def execSraBase (d a : BitVec 8) (b : BitVec 7) (s : State) : Host.Outcome State Fault Refusal :=
  .next (sraOp (Fields.ofBase 0x16 d a (b.setWidth 8)) s)

/-- SRA, extended and literal forms (R223). -/
def execSraExtended (x : Fields) (s : State) : Host.Outcome State Fault Refusal :=
  .next (sraOp x s)

/-- ROT (R223). -/
def rotOp (x : Fields) (s : State) : State :=
  s.bitsOp 0x17 x (rotateLeft x.ty)

/-- ROT, base form (R223, R186). -/
def execRotBase (d a : BitVec 8) (b : BitVec 7) (s : State) : Host.Outcome State Fault Refusal :=
  .next (rotOp (Fields.ofBase 0x17 d a (b.setWidth 8)) s)

/-- ROT, extended and literal forms (R223). -/
def execRotExtended (x : Fields) (s : State) : Host.Outcome State Fault Refusal :=
  .next (rotOp x s)

/-- BFX (R224). -/
def bfxOp (x : Fields) (s : State) : State :=
  s.bitsOp 0x18 x (extractField x.ty)

/-- BFX, base form (R224, R186). -/
def execBfxBase (d a : BitVec 8) (b : BitVec 7) (s : State) : Host.Outcome State Fault Refusal :=
  .next (bfxOp (Fields.ofBase 0x18 d a (b.setWidth 8)) s)

/-- BFX, extended and literal forms (R224). -/
def execBfxExtended (x : Fields) (s : State) : Host.Outcome State Fault Refusal :=
  .next (bfxOp x s)

/-- BFI (R224). -/
def bfiOp (x : Fields) (s : State) : State :=
  s.bitsOp 0x19 x (insertField x.ty)

/-- BFI, base form (R224, R186). -/
def execBfiBase (d a : BitVec 8) (b : BitVec 7) (s : State) : Host.Outcome State Fault Refusal :=
  .next (bfiOp (Fields.ofBase 0x19 d a (b.setWidth 8)) s)

/-- BFI, extended and literal forms (R224). -/
def execBfiExtended (x : Fields) (s : State) : Host.Outcome State Fault Refusal :=
  .next (bfiOp x s)

/-- POPC (R225). -/
def popcOp (x : Fields) (s : State) : State :=
  s.countOp 0x1A x popCount

/-- POPC, base form (R225, R186). -/
def execPopcBase (d a : BitVec 8) (s : State) : Host.Outcome State Fault Refusal :=
  .next (popcOp (Fields.ofBase 0x1A d a 0) s)

/-- POPC, extended and literal forms (R225). -/
def execPopcExtended (x : Fields) (s : State) : Host.Outcome State Fault Refusal :=
  .next (popcOp x s)

/-- CLZ (R225). -/
def clzOp (x : Fields) (s : State) : State :=
  s.countOp 0x1B x (leadingZeros x.ty.bits)

/-- CLZ, base form (R225, R186). -/
def execClzBase (d a : BitVec 8) (s : State) : Host.Outcome State Fault Refusal :=
  .next (clzOp (Fields.ofBase 0x1B d a 0) s)

/-- CLZ, extended and literal forms (R225). -/
def execClzExtended (x : Fields) (s : State) : Host.Outcome State Fault Refusal :=
  .next (clzOp x s)

/-- BREV (R225). -/
def brevOp (x : Fields) (s : State) : State :=
  s.bitsOp 0x1C x fun l => reverseBits x.ty.bits (typeBits x.ty l.a)

/-- BREV, base form (R225, R186). -/
def execBrevBase (d a : BitVec 8) (s : State) : Host.Outcome State Fault Refusal :=
  .next (brevOp (Fields.ofBase 0x1C d a 0) s)

/-- BREV, extended and literal forms (R225). -/
def execBrevExtended (x : Fields) (s : State) : Host.Outcome State Fault Refusal :=
  .next (brevOp x s)

/-- BPERM (R226). -/
def bpermOp (x : Fields) (s : State) : State :=
  s.bitsOp 0x1D x fun l => bytePermute l.a.toNat l.b.toNat

/-- BPERM, base form (R226, R186). -/
def execBpermBase (d a : BitVec 8) (b : BitVec 7) (s : State) : Host.Outcome State Fault Refusal :=
  .next (bpermOp (Fields.ofBase 0x1D d a (b.setWidth 8)) s)

/-- BPERM, extended and literal forms (R226). -/
def execBpermExtended (x : Fields) (s : State) : Host.Outcome State Fault Refusal :=
  .next (bpermOp x s)

/-- BOOL3 (R227). -/
def bool3Op (x : Fields) (s : State) : State :=
  s.bitsOp 0x1E x fun l => truthTable x.ty.bits x.low.toNat l.a.toNat l.b.toNat l.c.toNat

/-- BOOL3, extended forms (R227). -/
def execBool3 (x : Fields) (s : State) : Host.Outcome State Fault Refusal :=
  .next (bool3Op x s)

/-- MOV (R222). -/
def movOp (x : Fields) (s : State) : State :=
  s.bitsOp 0x1F x fun l => l.b.toNat

/-- MOV, base form (R222, R186). -/
def execMovBase (d : BitVec 8) (b : BitVec 7) (s : State) : Host.Outcome State Fault Refusal :=
  .next (movOp (Fields.ofBase 0x1F d 0 (b.setWidth 8)) s)

/-- MOV, extended and literal forms (R222). -/
def execMovExtended (x : Fields) (s : State) : Host.Outcome State Fault Refusal :=
  .next (movOp x s)

end Sys2Proof.Machine
end

