-- ==== Sys2Proof/Machine/Ieee.lean ====
section
/-! DEFINITION. The meanings of the IEEE instructions, opcodes 0x20 to 0x2E (spec/13_isa_arith.md R228 to R237). -/

namespace Sys2Proof.Machine

/-- 1 − c, exactly (R235); its exact zero is +0 (DESIGN CHOICE, assumption 13). -/
def Fp.oneMinus : Fp → Fp
  | .nan s => .nan s
  | .inf n => .inf (!n)
  | .num n m e =>
    let v := (Frac.ofInt 1).sub (Frac.scaled n m e)
    .num v.isNeg v.num.natAbs (if 0 ≤ e then 0 else e)

/-- The operands of an IEEE instruction after SIGNOP, as bits (R228). -/
def ieeeA (x : Fields) (l : Lane) : Nat := signOp (Fmt.ofTy x.ty) l.a.toNat (x.xop.getLsbD 0) (x.xop.getLsbD 2)
def ieeeB (x : Fields) (l : Lane) : Nat := signOp (Fmt.ofTy x.ty) l.b.toNat (x.xop.getLsbD 1) (x.xop.getLsbD 3)

/-- Their values. -/
def fpA (x : Fields) (l : Lane) : Fp := Fp.decode (Fmt.ofTy x.ty) (ieeeA x l)
def fpB (x : Fields) (l : Lane) : Fp := Fp.decode (Fmt.ofTy x.ty) (ieeeB x l)
def fpC (x : Fields) (l : Lane) : Fp := Fp.decode (Fmt.ofTy x.ty) (typeBits x.ty l.c)

/-- The result of an IEEE instruction, with the clamp of M<4> (R228). -/
def ieeeOut (x : Fields) (r : Rounded) : LaneOut := roundedOut x.ty (if x.xop.getLsbD 4 then clampUnit (Fmt.ofTy x.ty) r else r)

/-- The latency of the divide unit (R237). -/
def rootLatency (tm : Team) (t : Ty) : Nat :=
  State.passLatency tm (if t.wide then 44 else if t.bits = 16 then 14 else 22) (if t.wide then 32 else 8)

/-- The halves of an operand of FDOT2 (R234). -/
def halves16 (v : W64) (neg abs : Bool) : Fp × Fp :=
  (Fp.decode .binary16 (signOp .binary16 (natField v.toNat 0 16) neg abs), Fp.decode .binary16 (signOp .binary16 (natField v.toNat 16 16) neg abs))

/-- FDOT2's terms (R234). -/
def dotTerms (x : Fields) (l : Lane) : List (List Fp) :=
  let a := halves16 l.a (x.xop.getLsbD 0) (x.xop.getLsbD 2)
  let b := halves16 l.b (x.xop.getLsbD 1) (x.xop.getLsbD 3)
  [[a.1, b.1], [a.2, b.2], [fpC x l]]

namespace State

/-- The shared description of R228. -/
def ieeeOp (s : State) (op : Nat) (x : Fields) (lat : Nat) (fn : Fmt → Lane → Rounded) : State :=
  s.lanewise op x (latencyOf x.ty lat 8) (holdOf x.ty 4) fun l => ieeeOut x (fn (Fmt.ofTy x.ty) l)

/-- As ieeeOp, on the divide unit (R228, R238). -/
def divideOp (s : State) (op : Nat) (x : Fields) (fn : Fmt → Lane → Rounded) : State :=
  s.groupLater op x fun tm _ ls => (rootLatency tm x.ty, ls.map fun l => (l.t.ref, ieeeOut x (fn (Fmt.ofTy x.ty) l)))

end State


/-- FADD (R228). -/
def faddOp (x : Fields) (s : State) : State :=
  s.ieeeOp 0x20 x 4 fun f l => sumProducts f x.rnd [[fpA x l], [fpB x l]]

/-- FADD, base form (R228, R186). -/
def execFaddBase (d a : BitVec 8) (b : BitVec 7) (s : State) : Host.Outcome State Fault Refusal :=
  .next (faddOp (Fields.ofBase 0x20 d a (b.setWidth 8)) s)

/-- FADD, extended and literal forms (R228). -/
def execFaddExtended (x : Fields) (s : State) : Host.Outcome State Fault Refusal :=
  .next (faddOp x s)

/-- FSUB (R228). -/
def fsubOp (x : Fields) (s : State) : State :=
  s.ieeeOp 0x21 x 4 fun f l => sumProducts f x.rnd [[fpA x l], [(fpB x l).flip]]

/-- FSUB, base form (R228, R186). -/
def execFsubBase (d a : BitVec 8) (b : BitVec 7) (s : State) : Host.Outcome State Fault Refusal :=
  .next (fsubOp (Fields.ofBase 0x21 d a (b.setWidth 8)) s)

/-- FSUB, extended and literal forms (R228). -/
def execFsubExtended (x : Fields) (s : State) : Host.Outcome State Fault Refusal :=
  .next (fsubOp x s)

/-- FMUL (R228). -/
def fmulOp (x : Fields) (s : State) : State :=
  s.ieeeOp 0x22 x 4 fun f l => sumProducts f x.rnd [[fpA x l, fpB x l]]

/-- FMUL, base form (R228, R186). -/
def execFmulBase (d a : BitVec 8) (b : BitVec 7) (s : State) : Host.Outcome State Fault Refusal :=
  .next (fmulOp (Fields.ofBase 0x22 d a (b.setWidth 8)) s)

/-- FMUL, extended and literal forms (R228). -/
def execFmulExtended (x : Fields) (s : State) : Host.Outcome State Fault Refusal :=
  .next (fmulOp x s)

/-- FFMA (R228). -/
def ffmaOp (x : Fields) (s : State) : State :=
  s.ieeeOp 0x23 x 4 fun f l => sumProducts f x.rnd [[fpA x l, fpB x l], [fpC x l]]

/-- FFMA, base form (R228, R186). -/
def execFfmaBase (d a : BitVec 8) (b : BitVec 7) (s : State) : Host.Outcome State Fault Refusal :=
  .next (ffmaOp (Fields.ofBase 0x23 d a (b.setWidth 8)) s)

/-- FFMA, extended and literal forms (R228). -/
def execFfmaExtended (x : Fields) (s : State) : Host.Outcome State Fault Refusal :=
  .next (ffmaOp x s)

/-- FMIN (R229). -/
def fminOp (x : Fields) (s : State) : State :=
  s.lanewise 0x24 x (latencyOf x.ty 4 8) (holdOf x.ty 4) fun l =>
    roundedOut x.ty (minMaxBits (Fmt.ofTy x.ty) false (x.xop.getLsbD 5) (ieeeA x l) (ieeeB x l))

/-- FMIN, base form (R229, R186). -/
def execFminBase (d a : BitVec 8) (b : BitVec 7) (s : State) : Host.Outcome State Fault Refusal :=
  .next (fminOp (Fields.ofBase 0x24 d a (b.setWidth 8)) s)

/-- FMIN, extended and literal forms (R229). -/
def execFminExtended (x : Fields) (s : State) : Host.Outcome State Fault Refusal :=
  .next (fminOp x s)

/-- FMAX (R229). -/
def fmaxOp (x : Fields) (s : State) : State :=
  s.lanewise 0x25 x (latencyOf x.ty 4 8) (holdOf x.ty 4) fun l =>
    roundedOut x.ty (minMaxBits (Fmt.ofTy x.ty) true (x.xop.getLsbD 5) (ieeeA x l) (ieeeB x l))

/-- FMAX, base form (R229, R186). -/
def execFmaxBase (d a : BitVec 8) (b : BitVec 7) (s : State) : Host.Outcome State Fault Refusal :=
  .next (fmaxOp (Fields.ofBase 0x25 d a (b.setWidth 8)) s)

/-- FMAX, extended and literal forms (R229). -/
def execFmaxExtended (x : Fields) (s : State) : Host.Outcome State Fault Refusal :=
  .next (fmaxOp x s)

/-- FCMP (R230). -/
def fcmpOp (x : Fields) (s : State) : State :=
  s.lanewise 0x26 x (latencyOf x.ty 4 8) (holdOf x.ty 4) fun l =>
    let r := compareBits (Fmt.ofTy x.ty) x.c.toNat (ieeeA x l) (ieeeB x l)
    { pred := some r.1, flags := r.2 }

/-- FCMP, extended forms (R230). -/
def execFcmp (x : Fields) (s : State) : Host.Outcome State Fault Refusal :=
  .next (fcmpOp x s)

/-- FDIV (R228). -/
def fdivOp (x : Fields) (s : State) : State :=
  s.divideOp 0x27 x fun f l => divFp f x.rnd (fpA x l) (fpB x l)

/-- FDIV, extended forms (R228). -/
def execFdiv (x : Fields) (s : State) : Host.Outcome State Fault Refusal :=
  .next (fdivOp x s)

/-- FSQRT (R228). -/
def fsqrtOp (x : Fields) (s : State) : State :=
  s.divideOp 0x28 x fun f l => sqrtFp f x.rnd (fpA x l)

/-- FSQRT, extended forms (R228). -/
def execFsqrt (x : Fields) (s : State) : Host.Outcome State Fault Refusal :=
  .next (fsqrtOp x s)

/-- FRND (R231). -/
def frndOp (x : Fields) (s : State) : State :=
  s.ieeeOp 0x29 x 4 fun f l => rintFp f x.rnd (fpA x l)

/-- FRND, base form (R231, R186). -/
def execFrndBase (d a : BitVec 8) (s : State) : Host.Outcome State Fault Refusal :=
  .next (frndOp (Fields.ofBase 0x29 d a 0) s)

/-- FRND, extended and literal forms (R231). -/
def execFrndExtended (x : Fields) (s : State) : Host.Outcome State Fault Refusal :=
  .next (frndOp x s)

/-- FCLASS (R233). -/
def fclassOp (x : Fields) (s : State) : State :=
  s.lanewise 0x2A x (latencyOf x.ty 4 8) (holdOf x.ty 4) fun l => .word (BitVec.ofNat 32 (classMask (Fmt.ofTy x.ty) (typeBits x.ty l.a)))

/-- FCLASS, base form (R233, R186). -/
def execFclassBase (d a : BitVec 8) (s : State) : Host.Outcome State Fault Refusal :=
  .next (fclassOp (Fields.ofBase 0x2A d a 0) s)

/-- FCLASS, extended and literal forms (R233). -/
def execFclassExtended (x : Fields) (s : State) : Host.Outcome State Fault Refusal :=
  .next (fclassOp x s)

/-- FSCALE (R232). -/
def fscaleOp (x : Fields) (s : State) : State :=
  s.ieeeOp 0x2B x 4 fun f l => scaleFp f x.rnd (fpA x l) (l.b.setWidth 32).toInt

/-- FSCALE, base form (R232, R186). -/
def execFscaleBase (d a : BitVec 8) (b : BitVec 7) (s : State) : Host.Outcome State Fault Refusal :=
  .next (fscaleOp (Fields.ofBase 0x2B d a (b.setWidth 8)) s)

/-- FSCALE, extended and literal forms (R232). -/
def execFscaleExtended (x : Fields) (s : State) : Host.Outcome State Fault Refusal :=
  .next (fscaleOp x s)

/-- FDOT2 (R234). -/
def fdot2Op (x : Fields) (s : State) : State :=
  s.ieeeOp 0x2C x 5 fun f l => sumProducts f x.rnd (dotTerms x l)

/-- FDOT2, base form (R234, R186). -/
def execFdot2Base (d a : BitVec 8) (b : BitVec 7) (s : State) : Host.Outcome State Fault Refusal :=
  .next (fdot2Op (Fields.ofBase 0x2C d a (b.setWidth 8)) s)

/-- FDOT2, extended and literal forms (R234). -/
def execFdot2Extended (x : Fields) (s : State) : Host.Outcome State Fault Refusal :=
  .next (fdot2Op x s)

/-- FLERP (R235). -/
def flerpOp (x : Fields) (s : State) : State :=
  s.ieeeOp 0x2D x 4 fun f l => sumProducts f x.rnd [[(fpC x l).oneMinus, fpA x l], [fpC x l, fpB x l]]

/-- FLERP, base form (R235, R186). -/
def execFlerpBase (d a : BitVec 8) (b : BitVec 7) (s : State) : Host.Outcome State Fault Refusal :=
  .next (flerpOp (Fields.ofBase 0x2D d a (b.setWidth 8)) s)

/-- FLERP, extended and literal forms (R235). -/
def execFlerpExtended (x : Fields) (s : State) : Host.Outcome State Fault Refusal :=
  .next (flerpOp x s)

/-- FFRAC (R231). -/
def ffracOp (x : Fields) (s : State) : State :=
  s.ieeeOp 0x2E x 4 fun f l => fracFp f x.rnd (fpA x l)

/-- FFRAC, base form (R231, R186). -/
def execFfracBase (d a : BitVec 8) (s : State) : Host.Outcome State Fault Refusal :=
  .next (ffracOp (Fields.ofBase 0x2E d a 0) s)

/-- FFRAC, extended and literal forms (R231). -/
def execFfracExtended (x : Fields) (s : State) : Host.Outcome State Fault Refusal :=
  .next (ffracOp x s)

end Sys2Proof.Machine
end

