-- ==== Sys2Proof/Machine/RealArith.lean ====
section
/-! DEFINITION. Bounds on exponentials and logarithms in fixed point: what the exact rounding of the level-index rules
(spec/07_numbers.md R105 to R115) and the bounds of the special-function unit (spec/14_isa_levelindex.md R256) are decided
with. A number x stands for x / 2^P. -/

namespace Sys2Proof.Machine

/-- Bounds lo ≤ x ≤ hi of a real. -/
structure Ival where
  lo : Int
  hi : Int
  deriving DecidableEq, Repr

namespace Real

/-- z + z^3/3 + z^5/5 + …, from the power `pw` and the odd number `i` on. -/
def atanhFrom (q z2 : Nat) : (fuel i pw acc : Nat) → Nat
  | 0, _, _, acc => acc
  | n + 1, i, pw, acc => atanhFrom q z2 n (i + 2) ((pw * z2) >>> q) (acc + pw / i)

def atanh (q z : Nat) : Nat := atanhFrom q ((z * z) >>> q) (q / 3 + 4) 1 z 0

/-- ln 2. -/
def ln2 (q : Nat) : Nat := 2 * atanh q (2 ^ q / 3)

/-- ln of a positive fraction n / d. -/
def lnOf (q n d : Nat) : Int :=
  let k := floorLog2 n d
  let m := ((n <<< (q + (-k).toNat)) / (d <<< k.toNat))
  let one := 2 ^ q
  k * ln2 q + 2 * atanh q ((m - one) * one / (m + one))

/-- 1 + x + x^2/2 + … for 0 ≤ x < 1. -/
def taylorFrom (q x : Nat) : (fuel i pw acc : Nat) → Nat
  | 0, _, _, acc => acc
  | n + 1, i, pw, acc => taylorFrom q x n (i + 1) (((pw * x) >>> q) / (i + 1)) (acc + pw)

/-- exp(x) = m × 2^k with m in [1, 2). -/
def expScaled (q : Nat) (x : Int) : Nat × Int :=
  let k := x / ln2 q
  (taylorFrom q (x - k * ln2 q).toNat (q / 2 + 8) 0 (2 ^ q) 0, k)

/-- Working precision beyond P. -/
def guardBits : Nat := 64

def lnBelow (p n d : Nat) : Int := lnOf (p + guardBits) n d / 2 ^ guardBits - 1
def lnAbove (p n d : Nat) : Int := lnOf (p + guardBits) n d / 2 ^ guardBits + 2

def expFix (p : Nat) (x : Int) : Int :=
  let r := expScaled (p + guardBits) (x * 2 ^ guardBits)
  ((r.1 <<< r.2.toNat) >>> ((-r.2).toNat + guardBits) : Nat)

def expBelow (p : Nat) (x : Int) : Int := max 0 (expFix p x - 1)
def expAbove (p : Nat) (x : Int) : Int := expFix p x + 2

/-- Bounds of ln over positive bounds, and of exp. -/
def lnIval (p : Nat) (v : Ival) : Ival := ⟨lnBelow p v.lo.toNat (2 ^ p), lnAbove p v.hi.toNat (2 ^ p)⟩
def expIval (p : Nat) (v : Ival) : Ival := ⟨expBelow p v.lo, expAbove p v.hi⟩

end Real

end Sys2Proof.Machine
end

