-- ==== Sys2Proof/Machine/LevelNum.lean ====
section
/-! DEFINITION. Level-index numbers: their values, their correctly rounded operations, flags and latencies
(spec/07_numbers.md R104 to R115). -/

namespace Sys2Proof.Machine

/-- A level-index value (R105). `r` is the reciprocal flag; the level is 1 to 7. ±1 has r = false. -/
inductive Li where
  | nav
  | zero
  | val (neg r : Bool) (l f : Nat)
  deriving DecidableEq, Repr

/-- The fraction width (R104). -/
def liFrac : Ty → Nat
  | .li16 => 11
  | _ => 27

namespace Li

/-- The value of an encoding; ±1 with r = 1 is ±1 (R105). -/
def decode (q bits : Nat) : Li :=
  let f := natField bits 0 q
  let l := natField bits q 3
  if l = 0 then (if f = 0 then .zero else .nav)
  else .val (bits.testBit (q + 4)) (bits.testBit (q + 3) && !(l == 1 && f == 0)) l f

/-- The canonical encoding (R105). -/
def encode (q : Nat) : Li → Nat
  | .nav => 1
  | .zero => 0
  | .val neg r l f => boolNat neg * 2 ^ (q + 4) + boolNat (r && !(l == 1 && f == 0)) * 2 ^ (q + 3) + l * 2 ^ q + f

def flip : Li → Li
  | .val neg r l f => .val (!neg) r l f
  | x => x

/-- The pair (r, l) of the canonical encoding (R113). -/
def pair : Li → Bool × Nat
  | .val _ r l _ => (r, l)
  | _ => (false, 0)

def level (x : Li) : Nat := x.pair.2

/-- An order key of magnitudes. -/
def magKey (q : Nat) : Li → Int
  | .val _ r l f =>
    let s : Int := (l * 2 ^ q + f : Nat) - (2 ^ q : Int)
    8 * 2 ^ q + (if r then -s else s)
  | _ => 0

/-- An order key of values (R106, R244). -/
def key (q : Nat) (x : Li) : Int := match x with
  | .val neg _ _ _ => if neg then -(x.magKey q) else x.magKey q
  | _ => 0

end Li

/-! ### Logarithms of values, as towers -/

/-- ln of a positive real: ±φ(l + f / 2^q), or ln(f / 2^q). -/
inductive LogVal where
  | tower (neg : Bool) (l f : Nat)
  | ofFraction (f : Nat)
  deriving DecidableEq, Repr

/-- φ(l + f / 2^q); none where it is above exp(28). -/
def phi (p q f : Nat) : Nat → Option Ival
  | 0 => some ⟨(f * 2 ^ (p - q) : Nat), (f * 2 ^ (p - q) : Nat)⟩
  | l + 1 => match phi p q f l with
    | some v => if v.hi ≤ 28 * 2 ^ p then some (Real.expIval p v) else none
    | none => none

def LogVal.ival (p q : Nat) : LogVal → Option Ival
  | .tower neg l f => (phi p q f l).map fun v => if neg then ⟨-v.hi, -v.lo⟩ else v
  | .ofFraction f => some ⟨Real.lnBelow p f (2 ^ q), Real.lnAbove p f (2 ^ q)⟩

/-- ln(X ± Y) for X ≥ Y. -/
inductive LogSum where
  /-- So close to ln X that φ^(−1) moves by less than 2^(−q−14), upward or downward. -/
  | near
  | within (v : Ival)
  | unresolved
  deriving DecidableEq, Repr

def logSum (p q : Nat) (x y : LogVal) (sub : Bool) : LogSum :=
  match x.ival p q, y.ival p q with
  | some lx, some ly =>
    let d : Ival := ⟨lx.lo - ly.hi, lx.hi - ly.lo⟩
    if 200 * 2 ^ p < d.lo then .near
    else
      let e : Ival := ⟨Real.expBelow p (-d.hi), Real.expAbove p (-d.lo)⟩
      let v : Ival := if sub then ⟨2 ^ p - e.hi, 2 ^ p - e.lo⟩ else ⟨2 ^ p + e.lo, 2 ^ p + e.hi⟩
      if v.lo ≤ 0 then .unresolved
      else
        let w := Real.lnIval p v
        .within ⟨lx.lo + w.lo, lx.hi + w.hi⟩
  | _, _ => .near

/-- φ^(−1) of a bound v ≥ 0, rounded down or up. -/
def phiInv (p : Nat) (up : Bool) : (fuel : Nat) → Int → Int
  | 0, v => v
  | n + 1, v =>
    if v < 2 ^ p then v
    else 2 ^ p + phiInv p up n (max 0 (if up then Real.lnAbove p v.toNat (2 ^ p) else Real.lnBelow p v.toNat (2 ^ p)))

def phiInvIval (p : Nat) (v : Ival) : Ival := ⟨phiInv p false 10 v.lo, phiInv p true 10 v.hi⟩

/-! ### Rounding in s-space (R107) -/

/-- An exact result on its way to R107: t truncated to q + 13 fraction bits, and whether it is exact there. -/
structure Sval where
  neg   : Bool
  r     : Bool
  g     : Nat
  exact : Bool
  deriving DecidableEq, Repr

/-- A level-index result: its value, its flags, whether the refinement of R114 is taken. -/
structure LiOut where
  val    : Li
  flags  : BitVec 7
  refine : Bool
  deriving DecidableEq, Repr

/-- R107, steps 2 to 4. -/
def roundSpace (q : Nat) (x : Sval) : LiOut :=
  let gb := x.g % 2 ^ 13
  let n := x.g / 2 ^ 13
  let up := decide (2 ^ 12 < gb) || (gb == 2 ^ 12 && (!x.exact || n % 2 == 1))
  let n := if up then n + 1 else n
  let refine := gb == 0x0FFF || gb == 0x1000 || gb == 0x1001
  if 8 * 2 ^ q ≤ n then ⟨.val x.neg x.r 7 (2 ^ q - 1), Flag.nx ||| (if x.r then Flag.uf else Flag.of), refine⟩
  else ⟨.val x.neg (x.r && n != 2 ^ q) (n / 2 ^ q) (n % 2 ^ q), Flag.when (!x.exact || gb != 0) Flag.nx, refine⟩

/-- Bounds on t decide its truncation, or do not. -/
def truncT (p q : Nat) (t : Ival) : Except (Nat × Nat) Nat :=
  let a := (t.lo / 2 ^ (p - q - 13)).toNat
  let b := (t.hi / 2 ^ (p - q - 13)).toNat
  if a = b then .ok a else .error (a, b)

/-- Try precisions until one decides; the last leaves a free choice (DESIGN CHOICE, assumption 11). -/
def decideT (q : Nat) (neg : Bool) (f : Nat → Option (Bool × Ival)) : (fuel p : Nat) → Sval
  | 0, p =>
    match f p with
    | some (r, t) => match truncT p q t with
      | .ok g => ⟨neg, r, g, false⟩
      | .error (a, b) => ⟨neg, r, if Config.levelIndexUnresolved a then a else b, false⟩
    | none => ⟨neg, Config.levelIndexUnresolved 0, 2 ^ (q + 13), false⟩
  | n + 1, p =>
    match f p with
    | some (r, t) => match truncT p q t with
      | .ok g => ⟨neg, r, g, false⟩
      | .error _ => decideT q neg f n (2 * p)
    | none => decideT q neg f n (2 * p)

/-- t for a value of which ln is known: r and 1 + φ^(−1)(|ln|). -/
def tOfLog (p : Nat) (w : Ival) : Option (Bool × Ival) :=
  let one : Int := 2 ^ p
  if 0 < w.lo then some (false, let v := phiInvIval p w; ⟨one + v.lo, one + v.hi⟩)
  else if w.hi < 0 then some (true, let v := phiInvIval p ⟨-w.hi, -w.lo⟩; ⟨one + v.lo, one + v.hi⟩)
  else none

/-- A value at s = l + f / 2^q, moved a little up or down. -/
def nearT (q : Nat) (neg r : Bool) (l f : Nat) (up : Bool) : Sval :=
  let g := (l * 2 ^ q + f) * 2 ^ 13
  ⟨neg, r, if up then g else g - 1, false⟩

/-- A value exactly at s. -/
def exactT (q : Nat) (neg r : Bool) (s : Nat) : Sval := ⟨neg, r, s * 2 ^ 13 + 0 * q, true⟩

/-- x ± y of non-zero magnitudes |x| ≥ |y|, not cancelling; the sign is x's (R107, R243). -/
def addMag (q : Nat) (neg : Bool) (rx : Bool) (lx fx : Nat) (ry : Bool) (ly fy : Nat) (sub : Bool) : Sval :=
  let x := LogVal.tower rx (lx - 1) fx
  let y := LogVal.tower ry (ly - 1) fy
  match logSum 128 q x y sub with
  | .near => if lx = 1 ∧ fx = 0 then nearT q neg sub lx fx true else nearT q neg rx lx fx (sub == rx)
  | _ => decideT q neg (fun p => match logSum p q x y sub with | .within w => tOfLog p w | _ => none) 4 128

/-- ln|x|, where it is rational with denominator 2^q (R107): level 1, or e. -/
def logRational (q l f : Nat) : Option Nat := if l = 1 then some f else if l = 2 ∧ f = 0 then some (2 ^ q) else none

/-- ln of φ(l − 1 + f), for a value of level l. -/
def lnLog (l f : Nat) : LogVal := if l = 1 then .ofFraction f else .tower false (l - 2) f

/-- t of exp(±(A ± B)) for magnitudes A ≥ B of logarithms, A at level l ≥ 2: 1 + φ^(−1)(A ± B). -/
def mulT (p q l f l' f' : Nat) (sub : Bool) : Option Ival :=
  match logSum p q (lnLog l f) (lnLog l' f') sub with
  | .within w =>
    let one : Int := 2 ^ p
    let inv := fun (up : Bool) (v : Int) =>
      if v < 0 then (if up then Real.expAbove p v else Real.expBelow p v) else one + phiInv p up 10 v
    some ⟨one + inv false w.lo, one + inv true w.hi⟩
  | _ => none

/-- The product of two values that are not zero (R107, R243): logarithms add. -/
def mulMag (q : Nat) (neg : Bool) (rx : Bool) (lx fx : Nat) (ry : Bool) (ly fy : Nat) : Sval :=
  let swap := decide (lx * 2 ^ q + fx < ly * 2 ^ q + fy)
  let (ra, la, fa) := if swap then (ry, ly, fy) else (rx, lx, fx)
  let (rb, lb, fb) := if swap then (rx, lx, fx) else (ry, ly, fy)
  let sub := ra != rb
  let general := fun (_ : Unit) =>
    match logSum 128 q (lnLog la fa) (lnLog lb fb) sub with
    | .near => nearT q neg ra la fa (!sub)
    | _ => decideT q neg (fun p => (mulT p q la fa lb fb sub).map fun t => (ra, t)) 4 128
  if lb = 1 ∧ fb = 0 then exactT q neg ra (la * 2 ^ q + fa)
  else if sub ∧ la = lb ∧ fa = fb then exactT q neg false (2 ^ q)
  else match logRational q la fa, logRational q lb fb with
    | some a, some b =>
      let n := if sub then a - b else a + b
      if n ≤ 2 ^ q then exactT q neg ra (2 ^ q + n)
      else decideT q neg (fun p =>
        let v : Ival := ⟨(n * 2 ^ (p - q) : Nat), (n * 2 ^ (p - q) : Nat)⟩
        let t := phiInvIval p v
        some (ra, ⟨2 ^ p + t.lo, 2 ^ p + t.hi⟩)) 4 128
    | _, _ => general ()

/-- The refinement's cycles (R114). -/
def refineCycles (b : Bool) : Nat := if b then 8 else 0

/-- A result with its latency. -/
structure LiResult where
  bits    : Nat
  flags   : BitVec 7
  latency : Nat
  deriving DecidableEq, Repr

/-- The four operations of R243. -/
inductive LiOp where
  | add | sub | mul | div
  deriving DecidableEq, Repr

/-- The sum of a and b with the special cases of R109. -/
def liSum (q : Nat) (a b : Li) : LiOut :=
  match a, b with
  | .val na ra la fa, .val nb rb lb fb =>
    let ka := a.magKey q
    let kb := b.magKey q
    if ka = kb ∧ na ≠ nb then ⟨.zero, 0, false⟩
    else if kb ≤ ka then roundSpace q (addMag q na ra la fa rb lb fb (na != nb))
    else roundSpace q (addMag q nb rb lb fb ra la fa (na != nb))
  | .zero, y => ⟨y, 0, false⟩
  | x, _ => ⟨x, 0, false⟩

/-- The product of a and b, or the quotient, with the special cases of R109. -/
def liProduct (q : Nat) (div : Bool) (a b : Li) : LiOut :=
  match a, b with
  | .val na ra la fa, .val nb rb lb fb => roundSpace q (mulMag q (na != nb) ra la fa (rb != div && !(lb == 1 && fb == 0)) lb fb)
  | .zero, .zero => if div then ⟨.nav, Flag.nv, false⟩ else ⟨.zero, 0, false⟩
  | _, .zero => if div then ⟨.nav, Flag.dz, false⟩ else ⟨.zero, 0, false⟩
  | _, _ => ⟨.zero, 0, false⟩

/-- LADD, LSUB, LMUL, LDIV (R109, R113, R114, R243), on values after negation (DEDUCED, assumption 34). -/
def liArith (op : LiOp) (q : Nat) (a b : Li) : LiResult :=
  let base := match op with | .add | .sub => 6 | _ => 5
  if a = .nav ∨ b = .nav then ⟨Li.encode q .nav, 0, base⟩
  else
    let greater := if b.magKey q ≤ a.magKey q then a else b
    let o := match op with
      | .add => liSum q a b
      | .sub => liSum q a b.flip
      | .mul => liProduct q false a b
      | .div => liProduct q true a b
    ⟨o.val.encode q, o.flags ||| Flag.when (o.val.pair != greater.pair) Flag.lx, base + 2 * greater.level + refineCycles o.refine⟩

/-- LCMP (R244): the truth of the condition, and its flags. -/
def liCompare (q code : Nat) (a b : Li) : Bool × BitVec 7 :=
  if a = .nav ∨ b = .nav then (code == 1, Flag.when (decide (2 ≤ code)) Flag.nv)
  else (condHolds code (decide (a.key q < b.key q)) (decide (a.key q = b.key q)), 0)

/-- LMISC (R112, R245): the 32-bit result and its flags. -/
def liMisc (q lop : Nat) (a : Li) : Nat × BitVec 7 :=
  match lop, a with
  | 0, .zero => (Li.encode q .nav, Flag.dz)
  | 0, .val n r l f => (Li.encode q (.val n (!r) l f), 0)
  | 1, x => (x.flip.encode q, 0)
  | 2, .val _ r l f => (Li.encode q (.val false r l f), 0)
  | 3, .nav => (0xFFFFFFFF, 0)
  | 3, .zero => (0, 0)
  | 3, .val n r l _ => (l + 8 * boolNat r + 16 * boolNat n, 0)
  | _, x => (x.encode q, 0)

/-- LEXP (R110, R114). -/
def liExp (q : Nat) (a : Li) : LiResult :=
  match a with
  | .nav => ⟨Li.encode q .nav, 0, 4⟩
  | .zero => ⟨Li.encode q (.val false false 1 0), 0, 4⟩
  | .val neg false l f =>
    if l ≤ 6 then ⟨Li.encode q (.val false neg (l + 1) f), 0, 4⟩
    else ⟨Li.encode q (.val false neg 7 (2 ^ q - 1)), Flag.nx ||| (if neg then Flag.uf else Flag.of), 4⟩
  | .val neg true l f =>
    let o := roundSpace q (match phi 128 q f (l - 1) with
      | none => nearT q false neg 1 0 true
      | some _ => decideT q false (fun p => (phi p q f (l - 1)).map fun v =>
          let e := Real.expIval p ⟨-v.hi, -v.lo⟩
          (neg, ⟨2 ^ p + e.lo, 2 ^ p + e.hi⟩)) 4 128)
    ⟨o.val.encode q, o.flags, 10 + 3 * l + refineCycles o.refine⟩

/-- LLOG (R111, R114). -/
def liLog (q : Nat) (a : Li) : LiResult :=
  match a with
  | .nav => ⟨Li.encode q .nav, 0, 4⟩
  | .zero => ⟨Li.encode q .nav, Flag.dz, 4⟩
  | .val true _ _ _ => ⟨Li.encode q .nav, Flag.nv, 4⟩
  | .val false r l f =>
    if 2 ≤ l then ⟨Li.encode q (.val r false (l - 1) f), 0, 4⟩
    else if f = 0 then ⟨Li.encode q .zero, 0, 4⟩
    else
      let o := roundSpace q (decideT q r (fun p => tOfLog p ⟨Real.lnBelow p f (2 ^ q), Real.lnAbove p f (2 ^ q)⟩) 4 128)
      ⟨o.val.encode q, o.flags, 13 + refineCycles o.refine⟩

/-- LCVT from a binary format (R115). -/
def liOfFp (q : Nat) (a : Fp) : LiResult :=
  let out := fun (o : LiOut) => (⟨o.val.encode q, o.flags, 6 + 2 * o.val.level + refineCycles o.refine⟩ : LiResult)
  match a with
  | .nan _ => out ⟨.nav, Flag.nv, false⟩
  | .inf n => out ⟨.val n false 7 (2 ^ q - 1), Flag.of ||| Flag.nx, false⟩
  | .num n m e =>
    let v := Frac.scaled false m e
    if m = 0 then out ⟨.zero, 0, false⟩
    else if v.num = v.den then out ⟨.val n false 1 0, 0, false⟩
    else out (roundSpace q (decideT q n (fun p => tOfLog p ⟨Real.lnBelow p v.num.natAbs v.den, Real.lnAbove p v.num.natAbs v.den⟩) 4 128))

/-- LCVT between level-index formats (R115): s itself is rounded. Its latency is that of the result's level, where R114 could mean the operand's
(DEDUCED, assumption 110). -/
def liOfLi (q q' : Nat) (a : Li) : LiResult :=
  let out := fun (o : LiOut) => (⟨o.val.encode q, o.flags, 6 + 2 * o.val.level + refineCycles o.refine⟩ : LiResult)
  match a with
  | .val n r l f =>
    let s := (l * 2 ^ q' + f) * 2 ^ (q + 13)
    out (roundSpace q ⟨n, r, s / 2 ^ q', s % 2 ^ q' == 0⟩)
  | x => out ⟨x, 0, false⟩

/-- Bounds of exp(w) as fractions, for |w| up to 2,000. -/
def expFrac (p : Nat) (above : Bool) (w : Int) : Frac :=
  let w := max (-2000 * 2 ^ p) (min (2000 * 2 ^ p) w)
  let r := Real.expScaled (p + Real.guardBits) (w * 2 ^ Real.guardBits)
  Frac.scaled false (r.1 / 2 ^ 40 + (if above then 1 else 0)) (r.2 - (p + Real.guardBits - 40 : Nat))

/-- The guard bits of a binary result (R114): 13 bits below the last place of the format at that magnitude; none above the
format's range (DEDUCED, assumption 14). -/
def fpGuard (f : Fmt) (x : Frac) : Option Nat :=
  let e := max (floorLog2 x.num.natAbs x.den) f.emin
  if f.emin + 2 ^ f.w - 3 < e then none
  else
    let t := e - (f.p - 1) - 13
    some (((x.num.natAbs <<< (-t).toNat) / (x.den <<< t.toNat)) % 2 ^ 13)

/-- The refinement of a binary result of LCVT (R114). -/
def fpRefine (rnd : Rnd) : Option Nat → Bool
  | none => false
  | some g => if rnd = .nearestEven then g == 0x0FFF || g == 0x1000 || g == 0x1001 else g == 0x1FFF || g == 0 || g == 1

/-- Round bounds of a positive value until both ends round alike. -/
def decideFp (f : Fmt) (rnd : Rnd) (neg : Bool) (w : Nat → Ival) : (fuel p : Nat) → Rounded × Option Nat
  | 0, p =>
    let a := expFrac p (Config.levelIndexUnresolved p) (w p).lo
    (roundPos f rnd neg a.num.natAbs a.den, fpGuard f a)
  | n + 1, p =>
    let a := expFrac p false (w p).lo
    let b := expFrac p true (w p).hi
    let x := roundPos f rnd neg a.num.natAbs a.den
    if x = roundPos f rnd neg b.num.natAbs b.den ∧ fpGuard f a = fpGuard f b then (x, fpGuard f a) else decideFp f rnd neg w n (2 * p)

/-- LCVT into a binary format (R115). -/
def fpOfLi (f : Fmt) (rnd : Rnd) (q : Nat) (a : Li) : LiResult :=
  match a with
  | .nav => ⟨f.nan, Flag.nv, 6⟩
  | .zero => ⟨0, 0, 6 + refineCycles (fpRefine rnd (some 0))⟩
  | .val n r l x =>
    if l = 1 ∧ x = 0 then
      let o := roundPos f rnd n 1 1
      ⟨o.bits, o.flags, 8 + refineCycles (fpRefine rnd (some 0))⟩
    else
      let w := fun p => match phi p q x (l - 1) with
        | some v => if r then (⟨-v.hi, -v.lo⟩ : Ival) else v
        | none => if r then ⟨-2000 * 2 ^ p, -2000 * 2 ^ p⟩ else ⟨2000 * 2 ^ p, 2000 * 2 ^ p⟩
      let (o, g) := decideFp f rnd n w 4 128
      ⟨o.bits, o.flags, 6 + 2 * l + refineCycles (fpRefine rnd g)⟩

end Sys2Proof.Machine
end

