-- ==== Sys2Proof/Machine/Sfu.lean ====
section
/-! DEFINITION. The special-function unit: special operands, exact cases and the error bounds within which its results are
free (spec/14_isa_levelindex.md R255 to R258). -/

namespace Sys2Proof.Machine

namespace Sfu

/-- Fraction bits of the working precision. -/
def prec : Nat := 400

/-- π, by Machin's formula: 16 arctan(1/5) − 4 arctan(1/239). -/
def arctanInv (q k : Nat) : (fuel i pw : Nat) → Int → Int
  | 0, _, _, acc => acc
  | n + 1, i, pw, acc => arctanInv q k n (i + 2) (pw / (k * k)) (if i % 4 = 1 then acc + pw / i else acc - pw / i)

def pi (q : Nat) : Int := 16 * arctanInv q 5 (q / 4 + 4) 1 (2 ^ q / 5) 0 - 4 * arctanInv q 239 (q / 4 + 4) 1 (2 ^ q / 239) 0

/-- Σ (−1)^j x^(2j+i)/(2j+i)!, for sin (i = 1) and cos (i = 0), |x| < 1. -/
def trigFrom (q : Nat) (x : Int) : (fuel i : Nat) → (term acc : Int) → Int
  | 0, _, _, acc => acc
  | n + 1, i, term, acc => trigFrom q x n (i + 2) (-(term * x / 2 ^ q * x / 2 ^ q) / ((i + 1) * (i + 2) : Nat)) (acc + term)

/-- sin or cos of a fraction, with exact argument reduction, to within 2^−(prec − 16). -/
def trig (cosine : Bool) (x : Frac) : Int :=
  let q := prec
  let fx : Int := (x.num * 2 ^ q) / x.den
  let half := pi q / 2
  let n := (2 * fx + half) / (2 * half)
  let r := fx - n * half
  let s := trigFrom q r 90 1 r 0
  let c := trigFrom q r 90 0 (2 ^ q) 0
  match ((if cosine then n + 1 else n) % 4).toNat with
  | 0 => s
  | 1 => c
  | 2 => -s
  | _ => -c

def bounds (lo hi : Int) : Frac × Frac := (⟨lo, 2 ^ prec⟩, ⟨hi, 2 ^ prec⟩)

/-- Bounds on the function's value at m × 2^e with a sign, for operands that are no special case (R256). -/
def value (fn : Nat) (neg : Bool) (m : Nat) (e : Int) : Frac × Frac :=
  let x := Frac.scaled neg m e
  let p := prec
  match fn with
  | 0 => let v := (Frac.ofInt 1).div x; (v, v)
  | 1 =>
    let (m, e) := if e % 2 = 0 then (m, e) else (2 * m, e - 1)
    let t := natSqrt (2 ^ (2 * p) / m)
    (Frac.scaled false t (-(e / 2) - p), Frac.scaled false (if t * t * m = 2 ^ (2 * p) then t else t + 1) (-(e / 2) - p))
  | 2 =>
    let (m, e) := if e % 2 = 0 then (m, e) else (2 * m, e - 1)
    let t := natSqrt (m <<< (2 * p))
    (Frac.scaled false t (e / 2 - p), Frac.scaled false (if t * t = m <<< (2 * p) then t else t + 1) (e / 2 - p))
  | 3 =>
    let x := if x.lt (Frac.ofInt (-400)) then Frac.ofInt (-400) else x
    let k := x.floor
    let f : Int := ((x.num - k * x.den) * 2 ^ p) / x.den
    if x.num % x.den = 0 then let v := Frac.scaled false 1 k; (v, v)
    else
      let y := f * Real.ln2 (p + 16) / 2 ^ (p + 16)
      (Frac.scaled false (Real.expBelow p (y - 2)).toNat (k - p), Frac.scaled false (Real.expAbove p (y + 2)).toNat (k - p))
  | 4 =>
    let k := floorLog2 x.num.natAbs x.den
    if x.same (Frac.scaled false 1 k) then (Frac.ofInt k, Frac.ofInt k)
    else
      let l := Real.lnOf (p + 64) x.num.natAbs x.den * 2 ^ p / Real.ln2 (p + 64)
      bounds (l - 2 ^ 20) (l + 2 ^ 20)
  | 5 => let v := trig false x; bounds (v - 2 ^ 150) (v + 2 ^ 150)
  | 6 => let v := trig true x; bounds (v - 2 ^ 150) (v + 2 ^ 150)
  | _ =>
    let a := Frac.scaled false m e
    let sg := fun (lo hi : Frac) => if neg then (hi.neg, lo.neg) else (lo, hi)
    if a.lt (Frac.scaled false 1 (-40)) then sg (a.mul ((Frac.ofInt 1).sub (a.mul a))) a
    else
      let a := if (Frac.ofInt 40).lt a then Frac.ofInt 40 else a
      let t := Real.expIval p ⟨2 * a.num * 2 ^ p / a.den, 2 * a.num * 2 ^ p / a.den + 1⟩
      sg ⟨t.lo - 2 ^ p, (t.hi + 2 ^ p).toNat⟩ ⟨t.hi - 2 ^ p, (t.lo + 2 ^ p).toNat⟩

/-- The unit in the last place of a magnitude. -/
def ulp (f : Fmt) (v : Frac) : Frac :=
  if v.isZero then Frac.scaled false 1 (f.emin - (f.p - 1)) else Frac.scaled false 1 (max (floorLog2 v.num.natAbs v.den) f.emin - (f.p - 1))

/-- The error that R256 allows. -/
def tolerance (f : Fmt) (fn : Nat) (neg : Bool) (m : Nat) (e : Int) (v : Frac) : Frac :=
  let x := Frac.scaled neg m e
  let wide := f.p == 24
  let ulps := fun (n : Nat) => (ulp f v).mul (Frac.ofInt n)
  match fn with
  | 0 | 2 => ulps 1
  | 1 | 3 | 7 => ulps (if wide then 2 else 1)
  | 4 => if (Frac.scaled false 1 (-1)).le x && x.le (Frac.ofInt 2) then Frac.scaled false 1 (if wide then -22 else -10) else ulps (if wide then 2 else 1)
  | _ => Frac.scaled false 1 (if wide then -21 else -10)

/-- The result is fixed exactly by R256: its exact cases, and |x| ≥ 9 of .tanh under .f32. -/
def exactCase (f : Fmt) (fn : Nat) (m : Nat) (e : Int) (v : Frac) : Option Frac :=
  let pow2 := decide (2 ^ Nat.log2 m = m)
  let x := Frac.scaled false m e
  match fn with
  | 0 => if pow2 then some v else none
  | 1 | 2 => if pow2 && (Nat.log2 m + e) % 2 == 0 then some v else none
  | 3 => if x.num % x.den = 0 then some v else none
  | 4 => if pow2 then some v else none
  | 7 => if f.p == 24 && (Frac.ofInt 9).le x then some ⟨v.num.sign, 1⟩ else none
  | _ => none

/-- A result of a finite operand: the unit's own bits where they keep to R256, else the value rounded to nearest (DESIGN CHOICE, assumption 8). -/
def finite (f : Fmt) (fn bits : Nat) (neg : Bool) (m : Nat) (e : Int) : Nat :=
  let (lo, hi) := value fn neg m e
  match exactCase f fn m e lo with
  | some v => (roundFrac f .nearestEven false v).bits
  | none =>
    let tol := tolerance f fn neg m e (if lo.isNeg then hi else lo)
    let y := Config.sfuBits fn f.width bits % 2 ^ f.width
    let ok := match Fp.decode f y with
      | .num n my ey =>
        let v := Frac.scaled n my ey
        (hi.sub tol).le v && v.le (lo.add tol) && (fn < 5 || (!((Frac.ofInt 1).lt v) && !(v.lt (Frac.ofInt (-1)))))
      | _ => false
    if ok then y
    else
      let r := roundFrac f .nearestEven neg lo
      let one : Nat := (2 ^ (f.w - 1) - 1) * 2 ^ (f.p - 1)
      if 5 ≤ fn ∧ one < r.bits % f.signBit then f.withSign lo.isNeg one else r.bits

/-- SFU (R255 to R257). -/
def eval (f : Fmt) (fn bits : Nat) : Rounded :=
  let inf := fun (n : Bool) => f.withSign n f.inf
  let one : Nat := (2 ^ (f.w - 1) - 1) * 2 ^ (f.p - 1)
  match Fp.decode f bits with
  | .nan s => nanResult f s
  | .inf n =>
    match fn with
    | 0 => ⟨f.withSign n 0, 0⟩
    | 1 => if n then nanResult f true else ⟨0, 0⟩
    | 2 => if n then nanResult f true else ⟨inf false, 0⟩
    | 3 => ⟨if n then 0 else inf false, 0⟩
    | 4 => if n then nanResult f true else ⟨inf false, 0⟩
    | 5 | 6 => nanResult f true
    | _ => ⟨f.withSign n one, 0⟩
  | .num n m e =>
    if m = 0 then
      match fn with
      | 0 | 1 => ⟨inf n, Flag.dz⟩
      | 2 | 5 | 7 => ⟨f.withSign n 0, 0⟩
      | 4 => ⟨inf true, Flag.dz⟩
      | _ => ⟨one, 0⟩
    else
      let x := Frac.scaled n m e
      let beyond := match Fp.decode f (f.inf - 1) with
        | .num _ mm ee => Frac.scaled false mm ee
        | _ => ⟨0, 1⟩
      if fn = 0 ∧ beyond.lt ((Frac.ofInt 1).div (Frac.scaled false m e)) then ⟨inf n, Flag.of⟩
      else if n ∧ (fn = 1 ∨ fn = 2 ∨ fn = 4) then nanResult f true
      else if fn = 3 ∧ (Frac.ofInt (2 ^ (f.w - 1))).le x then ⟨inf false, Flag.of⟩
      else ⟨finite f fn bits n m e, 0⟩

end Sfu

end Sys2Proof.Machine
end

