-- ==== Sys2Proof/Machine/Convert.lean ====
section
/-! DEFINITION. The meanings of the level-index, conversion, packing, RAND and SFU instructions, opcodes 0x30 to 0x3F
(spec/14_isa_levelindex.md R241 to R258). -/

namespace Sys2Proof.Machine

/-- The level-index value of an operand. -/
def liValue (t : Ty) (v : W64) : Li := Li.decode (liFrac t) (typeBits t v)

/-- What a lane writes of a level-index result. -/
def liOut (t : Ty) (r : LiResult) : LaneOut := { vals := typeWords t r.bits, flags := r.flags }

/-- Operands of R243 after NEGA and NEGB. -/
def liA (x : Fields) (l : Lane) : Li := if x.xop.getLsbD 0 then (liValue x.ty l.a).flip else liValue x.ty l.a
def liB (x : Fields) (l : Lane) : Li := if x.xop.getLsbD 1 then (liValue x.ty l.b).flip else liValue x.ty l.b

/-- The latency of a group whose lanes take these latencies, one cycle more for a second pass (R114, R247). -/
def liLatency (tm : Team) (ls : List Nat) : Nat := State.passLatency tm (ls.foldl max 0) 1

namespace State

/-- A level-index instruction (R247): it is long-latency, and its latency is the longest of its lanes'. -/
def liLater (s : State) (op : Nat) (x : Fields) (f : Lane → LiResult) : State :=
  s.groupLater op x fun tm _ ls =>
    let rs := ls.map fun l => (l, f l)
    (liLatency tm (rs.map fun p => p.2.latency), rs.map fun p => (p.1.t.ref, liOut x.ty p.2))

/-- LADD, LSUB, LMUL and LDIV (R243). -/
def liArithOp (s : State) (op : Nat) (o : LiOp) (x : Fields) : State :=
  s.liLater op x fun l => liArith o (liFrac x.ty) (liA x l) (liB x l)

end State

/-- LADD (R243). -/
def execLadd (x : Fields) (s : State) : Host.Outcome State Fault Refusal := .next (s.liArithOp 0x30 .add x)
/-- LSUB (R243). -/
def execLsub (x : Fields) (s : State) : Host.Outcome State Fault Refusal := .next (s.liArithOp 0x31 .sub x)
/-- LMUL (R243). -/
def execLmul (x : Fields) (s : State) : Host.Outcome State Fault Refusal := .next (s.liArithOp 0x32 .mul x)
/-- LDIV (R243). -/
def execLdiv (x : Fields) (s : State) : Host.Outcome State Fault Refusal := .next (s.liArithOp 0x33 .div x)

/-- LCMP (R244, R247). -/
def execLcmp (x : Fields) (s : State) : Host.Outcome State Fault Refusal :=
  .next (s.groupLater 0x34 x fun tm _ ls =>
    (liLatency tm [3], ls.map fun l =>
      let r := liCompare (liFrac x.ty) x.c.toNat (liValue x.ty l.a) (liValue x.ty l.b)
      (l.t.ref, { pred := some r.1, flags := r.2 })))

/-- LMISC (R245, R247); .lvl writes 32 bits whatever the type. -/
def execLmisc (x : Fields) (s : State) : Host.Outcome State Fault Refusal :=
  .next (s.groupLater 0x35 x fun tm _ ls =>
    (liLatency tm [3], ls.map fun l =>
      let r := liMisc (liFrac x.ty) (natField x.xop.toNat 0 2) (liValue x.ty l.a)
      (l.t.ref, { vals := [BitVec.ofNat 32 r.1], flags := r.2 })))

/-- LEXP (R110, R246). -/
def execLexp (x : Fields) (s : State) : Host.Outcome State Fault Refusal :=
  .next (s.liLater 0x36 x fun l => liExp (liFrac x.ty) (liValue x.ty l.a))

/-- LLOG (R111, R246). -/
def execLlog (x : Fields) (s : State) : Host.Outcome State Fault Refusal :=
  .next (s.liLater 0x37 x fun l => liLog (liFrac x.ty) (liValue x.ty l.a))

/-- The source type of a conversion (R197). -/
def srcTy (x : Fields) : Ty := (OpTable.srct x).getD .b32

/-- CVT on one value (R248, R249). -/
def convertOut (x : Fields) (l : Lane) : LaneOut :=
  let src := srcTy x
  if src.isInt then
    (if x.ty.isInt then { vals := intWords x.ty (x.xop.getLsbD 5) (intValue src l.a) }
     else roundedOut x.ty (roundFrac (Fmt.ofTy x.ty) x.rnd false (Frac.ofInt (intValue src l.a))))
  else
    let a := Fp.decode (Fmt.ofTy src) (typeBits src l.a)
    if x.ty.isInt then
      let r := fpToInt x.ty x.rnd a
      { vals := intWords x.ty false r.1, flags := r.2 }
    else roundedOut x.ty (convertFp (Fmt.ofTy x.ty) x.rnd a)

/-- CVT and GCVT take 4 cycles, or 6 with a 64-bit type (R268). -/
def convertLatency (x : Fields) : Nat := if x.ty.wide || (srcTy x).wide then 6 else 4

/-- CVT (R248). -/
def execCvt (x : Fields) (s : State) : Host.Outcome State Fault Refusal :=
  .next (s.lanewise 0x38 x (convertLatency x) 1 (convertOut x))

/-- LCVT on one value (R115, R250). -/
def levelConvert (x : Fields) (l : Lane) : LiResult :=
  let src := srcTy x
  if x.ty.isLi then
    (if src.isLi then liOfLi (liFrac x.ty) (liFrac src) (liValue src l.a) else liOfFp (liFrac x.ty) (Fp.decode (Fmt.ofTy src) (typeBits src l.a)))
  else fpOfLi (Fmt.ofTy x.ty) x.rnd (liFrac src) (liValue src l.a)

/-- LCVT (R250). -/
def execLcvt (x : Fields) (s : State) : Host.Outcome State Fault Refusal := .next (s.liLater 0x39 x (levelConvert x))

/-- GCVT (R251). -/
def execGcvt (x : Fields) (s : State) : Host.Outcome State Fault Refusal :=
  .next (s.lanewise 0x3A x (convertLatency x) 1 fun l => roundedOut x.ty (gritConvert x.ty (srcTy x) x.rnd (typeBits (srcTy x) l.a)))

/-! ### Six-bit packing (R253) -/

/-- A number of `w`-bit digits by lane; a lane that does not participate gives 0. -/
def laneStream (w : Nat) (ls : List Lane) (width : Nat) : Nat :=
  (List.range width).foldl (fun p j =>
    match ls.find? fun l => l.t.lane == j with
    | some l => p + natField l.a.toNat 0 w * 2 ^ (w * j)
    | none => p) 0

/-- PACK6 (R253). -/
def execPack6 (x : Fields) (s : State) : Host.Outcome State Fault Refusal :=
  .next (s.groupwise 0x3B x 6 fun tm _ ls =>
    let p := laneStream 6 ls tm.header.width
    ls.map fun l => (l.t.ref, .word (if l.t.lane < 3 * tm.header.width / 16 then BitVec.ofNat 32 (natField p (32 * l.t.lane) 32) else 0)))

/-- UNPK6 (R253). -/
def execUnpk6 (x : Fields) (s : State) : Host.Outcome State Fault Refusal :=
  .next (s.groupwise 0x3C x 6 fun tm _ ls =>
    let p := laneStream 32 ls (3 * tm.header.width / 16)
    ls.map fun l => (l.t.ref, .word (BitVec.ofNat 32 (natField p (6 * l.t.lane) 6))))

/-! ### PKH, RAND, SFU -/

/-- PKH (R252). -/
def pkhOp (x : Fields) (s : State) : State :=
  s.lanewise 0x3D x 4 1 fun l =>
    let lo := convertFp .binary16 x.rnd (Fp.decode .binary32 (l.a.toNat % 2 ^ 32))
    let hi := convertFp .binary16 x.rnd (Fp.decode .binary32 (l.b.toNat % 2 ^ 32))
    { vals := [BitVec.ofNat 32 (lo.bits + hi.bits * 2 ^ 16)], flags := lo.flags ||| hi.flags }

/-- PKH, base form (R252, R186). -/
def execPkhBase (d a : BitVec 8) (b : BitVec 7) (s : State) : Host.Outcome State Fault Refusal :=
  .next (pkhOp (Fields.ofBase 0x3D d a (b.setWidth 8)) s)

/-- PKH, extended form (R252). -/
def execPkhExtended (x : Fields) (s : State) : Host.Outcome State Fault Refusal := .next (pkhOp x s)

/-- MUL(i) and SH(i) of R117. -/
def mixSteps : List (W64 × Nat) :=
  [(0xE4F16A0B93C72D59, 29), (0x8D3A57C1F026B6E5, 32), (0xC6B91E4D7A0538F3, 27), (0x9F42D8B36C17A0E7, 31)]

/-- MIX(K, C) (R117). -/
def mix (k c : W64) : W64 :=
  mixSteps.zipIdx.foldl (fun x p =>
    let x := x * p.1.1
    let x := x ^^^ (x >>> p.1.2)
    x ^^^ k.rotateLeft (16 * (p.2 + 1))) (c ^^^ k)

/-- The unit form of RAND (R117, R254). -/
def unitOfMix (x : W64) : W32 :=
  BitVec.ofNat 32 (roundFrac .binary32 .nearestEven false (Frac.scaled false (natField x.toNat 40 24) (-24))).bits

/-- RAND (R254). -/
def execRand (x : Fields) (s : State) : Host.Outcome State Fault Refusal :=
  .next (s.lanewise 0x3E x 8 1 fun l => if x.xop.getLsbD 0 then .word (unitOfMix (mix l.a l.b)) else .pair (mix l.a l.b))

/-- The latency of SFU (R258). -/
def sfuLatency (tm : Team) (fn : Nat) : Nat := (if fn ≤ 4 then 12 else 16) + (tm.header.width / 16 - 1)

/-- The cycles to the completion of a group's results: in pass order, so that its passes complete after those of the group before it.
Entry 3 of the core's units is the cycle of the latest completion, the present group's included (R258). -/
def sfuDue (s : State) (c : CoreId) (tm : Team) (fn : Nat) : Nat := max (sfuLatency tm fn) (assocGet 0 (c, 3) s.clk.units - s.clk.cycle)

/-- SFU (R255). -/
def execSfu (x : Fields) (s : State) : Host.Outcome State Fault Refusal :=
  .next (s.groupLater 0x3F x fun tm act ls =>
    let fn := natField x.xop.toNat 0 3
    (((act.head?).map fun t => sfuDue s t.ref.core tm fn).getD 0, ls.map fun l => (l.t.ref, roundedOut x.ty (Sfu.eval (Fmt.ofTy x.ty) fn (typeBits x.ty l.a)))))

end Sys2Proof.Machine
end

