-- ==== Sys2Proof/Machine/Lanes.lean ====
section
/-! DEFINITION. The meanings of the cross-lane instructions and TMOV, opcodes 0x50 to 0x56
(spec/14_isa_levelindex.md R259 to R269). -/

namespace Sys2Proof.Machine

/-- log2 of a group width. -/
def stagesOf (tm : Team) : Nat := Nat.log2 tm.header.width

/-- The value of the lane at position j, if it participates. -/
def laneAt (ls : List Lane) (j : Int) : Option Lane := ls.find? fun l => (l.t.lane : Int) == j

/-- The lane that SHFL reads (R260). -/
def shuffleSource (mode : Nat) (l : Lane) : Int :=
  let b := natField l.b.toNat 0 32
  match mode with
  | 0 => b
  | 1 => l.t.lane + signedOf 32 b
  | 2 => ((l.t.lane ^^^ natField b 0 6 : Nat) : Int)
  | _ => ((l.t.lane ^^^ (2 ^ (min (natField b 0 3) 6) - 1) : Nat) : Int)

/-- The lane that LSHF reads (R261). -/
def shiftSource (down rot : Bool) (w : Nat) (l : Lane) : Int :=
  let n : Int := (natField l.b.toNat 0 32 : Nat)
  let j : Int := if down then l.t.lane + n else l.t.lane - n
  if rot then j % w else j

/-- What SHFL and LSHF write: A of the source lane, or C of the lane itself (R260, R261). -/
def exchange (t : Ty) (ls : List Lane) (src : Lane → Int) : List (TRef × LaneOut) :=
  ls.map fun l => (l.t.ref, { vals := typeWords t (match laneAt ls (src l) with | some k => k.a | none => l.c).toNat })

/-- SHFL (R260). -/
def execShfl (x : Fields) (s : State) : Host.Outcome State Fault Refusal :=
  .next (s.groupwise 0x50 x (latencyOf x.ty 6 8) fun _ _ ls => exchange x.ty ls (shuffleSource (natField x.xop.toNat 0 2)))

/-- LSHF (R261). -/
def execLshf (x : Fields) (s : State) : Host.Outcome State Fault Refusal :=
  .next (s.groupwise 0x51 x (latencyOf x.ty 6 8) fun tm _ ls =>
    exchange x.ty ls (shiftSource (x.xop.getLsbD 0) (x.xop.getLsbD 1) tm.header.width))

/-- A mask of lanes. -/
def laneMask (ls : List Lane) : W64 := ls.foldl (fun m l => m ||| (1#64 <<< l.t.lane)) 0

/-- VOTE (R262). -/
def voteOut (x : Fields) (ls : List Lane) : LaneOut :=
  let q := ls.filter fun l => l.t.pred x.a.toNat
  match natField x.xop.toNat 0 2 with
  | 0 => { pred := some (q.length == ls.length) }
  | 1 => { pred := some (!q.isEmpty) }
  | 2 => { pred := some (q.length == ls.length || q.isEmpty) }
  | _ => if x.xop.getLsbD 2 then .word (BitVec.ofNat 32 q.length) else .pair (laneMask q)

def execVote (x : Fields) (s : State) : Host.Outcome State Fault Refusal :=
  .next (s.groupwise 0x52 x 4 fun _ _ ls => ls.map fun l => (l.t.ref, voteOut x ls))

/-! ### REDUCE and SCAN (R263 to R265) -/

/-- COMB (R263), left operand first, with its flags. -/
def combine (t : Ty) (rop : Nat) (rnd : Rnd) (a b : Nat) : Rounded :=
  if t = .f32 then
    let r := match rop with
      | 0 => sumProducts .binary32 rnd [[Fp.decode .binary32 a], [Fp.decode .binary32 b]]
      | 1 => minMaxBits .binary32 false false a b
      | _ => minMaxBits .binary32 true false a b
    r
  else
    let va := intValue t (BitVec.ofNat 64 a)
    let vb := intValue t (BitVec.ofNat 64 b)
    ⟨match rop with
      | 0 => (a + b) % 2 ^ t.bits
      | 1 => if vb < va then b else a
      | 2 => if va < vb then b else a
      | 3 => a &&& b
      | 4 => a ||| b
      | _ => a ^^^ b, 0⟩

/-- A value, or ABSENT, and the flags of the combinations so far. -/
abbrev Partial := Option Nat × BitVec 7

/-- One stage of the tree: neighbours combine. -/
def treeStage (t : Ty) (rop : Nat) (rnd : Rnd) : List Partial → List Partial
  | a :: b :: rest =>
    let c : Partial := match a.1, b.1 with
      | some u, some v => let r := combine t rop rnd u v; (some r.bits, a.2 ||| b.2 ||| r.flags)
      | some u, none => (some u, a.2 ||| b.2)
      | none, v => (v, a.2 ||| b.2)
    c :: treeStage t rop rnd rest
  | l => l

def treeReduce (t : Ty) (rop : Nat) (rnd : Rnd) : (stages : Nat) → List Partial → Partial
  | 0, l => l.headD (none, 0)
  | n + 1, l => treeReduce t rop rnd n (treeStage t rop rnd l)

/-- The end of each stage of a tree, in cycles after issue (R265, R268); binary32 addition takes four cycles a stage
(DEDUCED, assumption 15). -/
def treeEnds (t : Ty) (rop : Nat) (tm : Team) : List Nat :=
  (List.range (stagesOf tm)).map fun k => 2 + (if t.wide || (t == .f32 && rop == 0) then 4 else 2) * (k + 1)

/-- REDUCE (R263). -/
def reduceOut (x : Fields) (tm : Team) (ls : List Lane) : List (TRef × LaneOut) :=
  let rop := natField x.xop.toNat 0 3
  let leaves : List Partial := (List.range tm.header.width).map fun (i : Nat) => ((laneAt ls (i : Int)).map fun l => typeBits x.ty l.a, 0)
  let r := treeReduce x.ty rop x.rnd (stagesOf tm) leaves
  ls.map fun l => (l.t.ref, { vals := typeWords x.ty (r.1.getD 0), flags := r.2 })

def execReduce (x : Fields) (s : State) : Host.Outcome State Fault Refusal :=
  .next (s.groupLater 0x53 x
    (fun tm _ ls => ((treeEnds x.ty (natField x.xop.toNat 0 3) tm).getLastD 2, reduceOut x tm ls))
    (fun tm => treeEnds x.ty (natField x.xop.toNat 0 3) tm))

/-- The identity of an operation (R264). -/
def scanIdentity (t : Ty) (rop : Nat) : Nat :=
  if t = .f32 then (match rop with | 0 => 0 | 1 => Fmt.binary32.inf | _ => Fmt.binary32.withSign true Fmt.binary32.inf)
  else match rop with
    | 1 => if t.signed then 2 ^ (t.bits - 1) - 1 else 2 ^ t.bits - 1
    | 2 => if t.signed then 2 ^ (t.bits - 1) else 0
    | 3 => 2 ^ t.bits - 1
    | _ => 0

/-- Prefixes in ascending lane order: what is below each value, and the value combined with it. -/
def prefixes (t : Ty) (rop : Nat) (rnd : Rnd) : Option Nat → BitVec 7 → List Nat → List (Option Nat × Nat × BitVec 7)
  | _, _, [] => []
  | none, f, v :: vs => (none, v, f) :: prefixes t rop rnd (some v) f vs
  | some y, f, v :: vs =>
    let r := combine t rop rnd y v
    (some y, r.bits, f ||| r.flags) :: prefixes t rop rnd (some r.bits) (f ||| r.flags) vs

/-- SCAN (R264). -/
def scanOut (x : Fields) (ls : List Lane) : List (TRef × LaneOut) :=
  let rop := natField x.xop.toNat 0 3
  let excl := x.xop.getLsbD 3
  let ps := prefixes x.ty rop x.rnd none 0 (ls.map fun l => typeBits x.ty l.a)
  let used := if excl then ps.dropLast else ps
  let flags := used.foldl (fun f p => f ||| p.2.2) 0
  (ls.zip ps).map fun p =>
    (p.1.t.ref, { vals := typeWords x.ty (if excl then p.2.1.getD (scanIdentity x.ty rop) else p.2.2.1), flags := flags })

/-- The ends of SCAN's stages or lane positions (R265). -/
def scanEnds (x : Fields) (tm : Team) : List Nat :=
  if x.ty = .f32 ∧ natField x.xop.toNat 0 3 = 0 then (List.range tm.header.width).map fun p => 5 + p
  else treeEnds x.ty (natField x.xop.toNat 0 3) tm

def execScan (x : Fields) (s : State) : Host.Outcome State Fault Refusal :=
  .next (s.groupLater 0x54 x (fun tm _ ls => ((scanEnds x tm).getLastD 2, scanOut x ls)) (fun tm => scanEnds x tm))

/-- MATCH (R266). -/
def execMatchLanes (x : Fields) (s : State) : Host.Outcome State Fault Refusal :=
  .next (s.groupwise 0x55 x (latencyOf x.ty 8 10) fun _ _ ls =>
    ls.map fun l => (l.t.ref, .pair (laneMask (ls.filter fun k => typeBits x.ty k.a == typeBits x.ty l.a))))

/-! ### Team registers (R54, R267) -/

/-- TMOV at the holding core: a read of g gives its value, a write leaves the highest participating lane's (R54). -/
def tmovWriteNow (s : State) (team g : Nat) (vals : List W32) : State :=
  match vals.getLast? with
  | some v => s.updTeam team fun tm => { tm with tregs := tm.tregs.set g v }
  | none => s

/-- TMOV read (R267). From another core it reaches the holding core, and its answer returns, after the transit (R36). -/
def execTmovRead (x : Fields) (s : State) : Host.Outcome State Fault Refusal :=
  .next (s.issueThen 0x56 x fun tm _ act =>
    match act with
    | [] => s
    | h :: _ =>
      let d := holdTransit tm h.ref.core
      if d = 0 then s.lanewise 0x56 x 4 1 fun _ => .word (tm.tregs.getD x.a.toNat 0)
      else
        let part := act.filter fun t => t.guardTrue x.guard
        let id := s.clk.nextId
        let s := (s.fresh).2
        let s := if part.isEmpty then s else
          let a : Arrival := ⟨s.clk.cycle + d, h.gref, tm.id, 0x56, x, part.map fun t => (t.ref, true, 0), id, false, h.handler⟩
          (s.sendArrival a).count (part.map (·.ref)) x.set.toNat
        ((s.openWindows (part.map (·.ref)) x.la.toNat id x.d.toNat 1).advance act x.form.length))

/-- TMOV.w (R267): its last effect, which its slot follows, is the write at the holding core (R193, R241). -/
def execTmovWrite (x : Fields) (s : State) : Host.Outcome State Fault Refusal :=
  .next (s.issueThen 0x56 x fun tm sp act =>
    match act with
    | [] => s
    | h :: _ =>
      let d := holdTransit tm h.ref.core
      let part := (act.filter fun t => t.guardTrue x.guard).map (laneOf s sp x [])
      let vals := part.map fun l => (l.a.setWidth 32 : W32)
      let ts := part.map (·.t)
      let s' := if d = 0 then (tmovWriteNow s tm.id x.d.toNat vals).slotFor x.set.toNat (State.passLatency tm 4 1) ts
        else if part.isEmpty then s
        else (s.count (ts.map (·.ref)) x.set.toNat).sendArrival
          ⟨s.clk.cycle + d, h.gref, tm.id, 0x56, x, part.map fun l => (l.t.ref, true, l.a.setWidth 32), s.clk.nextId, false, h.handler⟩
      s'.advance act x.form.length)

end Sys2Proof.Machine
end

