-- ==== Sys2Proof/Machine/Address.lean ====
section
/-! DEFINITION. The addresses of memory instructions and the checks of R124 at issue (spec/09_memory.md R121 to R148,
spec/15_isa_memory.md R270, R271, R276). -/

namespace Sys2Proof.Machine

/-- DISP in a 64-bit or in a 32-bit role (R270): the literal, or IMM, which an instruction with KW = 1 does not have (R185). -/
def disp64 (x : Fields) : Int := if x.form = .extLit then x.lit.toInt else if x.kw then 0 else x.low.toInt
def disp32 (x : Fields) : Int := if x.form = .extLit then (x.lit.setWidth 32).toInt else if x.kw then 0 else x.low.toInt

/-- A failing check with its place in R124's order. -/
abbrev Check (α : Type) : Type := Except (Nat × Trap) α

/-- The earliest failing check, with its place, and among equals the lowest lane (R331); the list is in lane order. -/
def leastFail {α : Type} (l : List (Check α)) : Option (Nat × Trap) :=
  leastBy (·.1) (l.filterMap fun c => match c with | .error f => some f | .ok _ => none)

/-- The trap that it raises. -/
def firstFail {α : Type} (l : List (Check α)) : Option Trap := (leastFail l).map (·.2)

/-- What passed. -/
def passed {α : Type} (l : List (Check α)) : List α := l.filterMap fun c => match c with | .ok a => some a | .error _ => none

/-- A failing check of a lane. -/
def fails {α : Type} (order cause info lane : Nat) (addr : Nat := 0) : Check α := .error (order, { cause := cause, info := info, lane := lane, addr := addr })

/-- The virtual address of a global access (R270; DEDUCED, assumption 18). -/
def globalVa (x : Fields) (a : W64) : Nat := wrapTo 64 (a.toNat + disp64 x)

/-- A global access: checks 1 to 4 (R124). -/
def globalCheck (c : Context) (n : Need) (size align va lane : Nat) : Check (Nat × (W64 × W64 × W64)) :=
  if 2 ^ 56 ≤ va then fails 1 Cause.range va lane
  else match rangeCheck c va size n with
    | .error cause => fails (if cause = Cause.perm then 3 else 2) cause va lane va
    | .ok r => if va % align = 0 then .ok r else fails 4 Cause.align va lane

/-- PSTRIDE and PBASE (R145). -/
def privStride (c : Context) : Nat := natField c.priv.toNat 56 8 * 2 ^ 16
def privBase (c : Context) (k : CoreId) : Nat :=
  natField c.priv.toNat 16 40 * 2 ^ 16 + ((k.die * 36 + k.site) * 4 + k.core) * 32 * privStride c

/-- The virtual address of a word of a thread slot's private array (R145). -/
def privWord (c : Context) (k : CoreId) (slot w : Nat) : Nat :=
  privBase c k + (w * 64 + slot % 64) * 4 + slot / 64 * privStride c

/-- The pieces of a private access, one for each word (R146): virtual address, intermediate address, bytes, byte within the
access. -/
def privCheck (c : Context) (t : Thread) (tm : Team) (n : Need) (size : Nat) (x : Int) : Check (List (Nat × Nat × Nat × Nat)) :=
  let o := wrapTo 32 x
  let words := List.range (ceilDiv (o % 4 + size) 4)
  let pieces := words.map fun k =>
    let lo := if k = 0 then o else o / 4 * 4 + 4 * k
    let hi := min (o + size) (o / 4 * 4 + 4 * k + 4)
    let va := privWord c t.ref.core t.ref.slot (lo / 4) + lo % 4
    match globalCheck c n (hi - lo) 1 va t.lane with
    | .ok r => Except.ok (va, r.1, hi - lo, lo - o)
    | .error e => Except.error e
  match leastFail pieces with
  | some f => .error f
  | none =>
    if o % size != 0 then fails 4 Cause.align o t.lane
    else if x != o ∨ tm.header.privw ≤ (o + size - 1) / 4 then fails 6 Cause.stackLimit o t.lane
    else .ok (passed pieces)

/-- Another team than the plot's writer in a single-writer window over these bytes (R141). -/
def writerRefuses (s : State) (p : Plot) (team o size : Nat) : Bool :=
  (s.core p.core).windows.any fun w => w.plot == p.id && decide (w.offset < o + size ∧ o < w.offset + 128) &&
    (match w.writer with | some t => t != team | none => false)

/-- A local plot access: checks 4 and 5 (R124, R139, R143; DEDUCED, assumption 35). -/
def plotCheck (s : State) (t : Thread) (tm : Team) (writes : Bool) (size : Nat) (x : Int) : Check Nat :=
  let o := wrapTo 32 x
  if o % size != 0 then fails 4 Cause.align o t.lane
  else match s.plotOf tm.id t.ref.core with
    | none => if tm.header.plot = 0 then fails 5 Cause.plotBounds o t.lane else fails 5 Cause.plotOwner o t.lane
    | some p =>
      if writes && writerRefuses s p tm.id o size then fails 5 Cause.windowWriter o t.lane
      else if x != o ∨ p.size < o + size then fails 5 Cause.plotBounds o t.lane
      else .ok o

/-- A window address (R276): the home core, the window, the offset; a bad one raises PLOT_BOUNDS, a misaligned one ALIGN. -/
def windowCheck (x : Fields) (t : Thread) (size : Nat) (a : W64) : Check (CoreId × Nat × Nat) :=
  let w := a.toNat % 2 ^ 32
  let off : Int := natField w 0 7 + disp32 x
  if off % size != 0 then fails 4 Cause.align (wrapTo 64 off) t.lane
  else if natField w 14 18 != 0 ∨ off < 0 ∨ 128 < off + size then fails 5 Cause.plotBounds w t.lane
  else .ok (⟨t.ref.core.die, t.ref.core.site, natField w 12 2⟩, natField w 7 5, off.toNat)

/-- A constant-window operand as a check of R124, for the lowest participating lane. -/
def constCheck {α : Type} (c : ConstRead) : List (Check α) :=
  match c with
  | .trap order t => [.error (order, t)]
  | _ => []

/-- The words of a constant operand that is there. -/
def ConstRead.got (c : ConstRead) : List W32 := match c with
  | .words ws => ws
  | _ => []

/-- A register or pair holding the bytes of a loaded value: extended by the type, or one register for every four bytes
(R274, R275). -/
def loadWords (t : Ty) (bs : List Byte) : List W32 :=
  if bs.length < 4 then typeWords t (leNat bs)
  else (List.range (bs.length / 4)).map fun k => BitVec.ofNat 32 (leNat ((bs.drop (4 * k)).take 4))

/-- The bytes that a store takes from n registers. -/
def regBytes (s : State) (t : Thread) (first n : Nat) : List Byte :=
  (readRegs s t first n).flatMap fun w => leBytes 4 w.toNat

end Sys2Proof.Machine
end

