-- ==== Sys2Proof/Machine/LoadStore.lean ====
section
/-! DEFINITION. The meanings of the loads, stores, atomics and packets, opcodes 0x40 to 0x48
(spec/15_isa_memory.md R272 to R280; spec/10_consistency.md R155 to R163). -/

namespace Sys2Proof.Machine

/-- The context of a team. -/
def ctxOf (s : State) (tm : Team) : Context := (s.ctx tm.ctx).getD Context.reset

/-- What all the requests of an instruction share. -/
def requestOf (tm : Team) (h : Thread) (x : Fields) (op : Nat) (kind : ReqKind) : Request :=
  { id := 0, op := op, core := h.ref.core, ctx := tm.ctx, group := some h.group, pc := h.pc, set := x.set.toNat, handler := h.handler
    kind := kind, route := .home, ty := x.ty, va := 0, ia := 0, frame := 0, perms := 0, parts := [], stage := .travelling
    line := [], old := [], w := 0, leaseEnd := 0, flags := 0, poison := false }

/-- The lease class granted at most (R152, R157): none outside module memory but for a remote line of a range with ROR. -/
def leaseClass (requested : Nat) (r : W64 × W64 × W64) (ia : Nat) : Nat :=
  if inModule ia || (inEwerlink ia && rangeRor r) then min requested (rangeLmax r) else 0

/-- An L1 line that serves a global hit (R159): under a lease that still runs, with the permission in its tag or in the page
presence cache. -/
def globalHit (s : State) (c : CoreId) (ctx ia : Nat) : Option L1Line :=
  match s.l1Line c ctx ia with
  | some l =>
    if !l.isPrivate && decide (s.chrono c < l.leaseEnd) && ((s.pageHeld c ctx ia .read).isSome || !(inModule ia)) then some l else none
  | none => none

/-- The lines that accesses touch. -/
def linesOf (as : List LaneAccess) : List Nat := (as.map fun a => lineOf a.ia).eraseDups

/-- Make a line's L1 copy the most recently used. -/
def touchL1 (s : State) (c : CoreId) (ctx ia : Nat) : State := s.updL1 c ctx ia id

/-- Begin an instruction of this family: its number, its slots counted (R193), its lookahead windows opened (R192), the
active threads past it (R38). -/
def beginMem (s : State) (act part : List Thread) (x : Fields) (dst n : Nat) : Nat × State :=
  let (op, s) := s.fresh
  let refs := part.map (·.ref)
  (op, ((s.count refs x.set.toNat).openWindows refs x.la.toNat op dst n).advance act x.form.length)

/-- A result lane of loaded bytes. -/
def loadLane (t : TRef) (ty : Ty) (reg : Nat) (bs : List Byte) : ResultLane := ⟨t, reg, loadWords ty bs, none, 0⟩

/-! ### Global loads and stores -/

/-- The bytes of an L1 line that an access reads, after the thread's own store queue (R161). -/
def hitBytes (s : State) (ctx : Nat) (l : L1Line) (a : LaneAccess) : List Byte :=
  State.applyOwn (s.queueBytes a.t ctx a.ia a.size) ((l.data.drop (a.ia % 128)).take a.size)

/-- Requests for accesses, one for each line (R273). All the bytes of a request are read or written at one moment, where R155 leaves the
16-byte units of a wider access unordered (DESIGN CHOICE, assumption 100). -/
def lineRequests (base : Request) (s : State) (as : List LaneAccess) : List Request :=
  (linesTouched as).map fun u =>
    { base with ia := u.1, va := u.2.1, route := routeOf u.1
                parts := u.2.2.map fun p => { p with own := s.queueBytes p.t base.ctx (u.1 + p.off) p.size } }

/-- MISS and VHIT of a global-load miss (R79). -/
def countMiss (s : State) (c : CoreId) (ctx line : Nat) : State :=
  s.updCore c fun k => { k with miss := k.miss + 1, vhit := k.vhit + boolNat (k.victims.contains (ctx, line)) }

/-- A global load of accesses with their lease classes (R155, R159, R274). -/
def loadGlobal (s : State) (tm : Team) (h : Thread) (x : Fields) (op : Nat) (as : List (LaneAccess × Nat)) : State :=
  let c := h.ref.core
  let s := (linesOf (as.map (·.1))).foldl (fun s ln =>
    let uncached := as.any fun a => lineOf a.1.ia == ln && a.2 == 0
    if uncached then (s.expelPrivate c tm.ctx ln).dropL1 c tm.ctx ln else s.expelPrivate c tm.ctx ln) s
  let hits := as.filterMap fun a => (globalHit s c tm.ctx a.1.ia).map fun l => (a.1, l)
  let misses := as.filter fun a => (globalHit s c tm.ctx a.1.ia).isNone
  if hits.any fun p => p.2.poison then s.killContext tm.ctx Cause.uncorrected ((hits.find? fun p => p.2.poison).map (·.2.frame) |>.getD 0) c else
  let lanes := hits.map fun p => loadLane p.1.t x.ty p.1.reg (hitBytes s tm.ctx p.2 p.1)
  let lease := fun (ia : Nat) => ((misses.find? fun a => lineOf a.1.ia == ia).map (·.2)).getD 0
  let rs := (lineRequests (requestOf tm h x op (.load 0)) s (misses.map (·.1))).map fun r => { r with kind := .load (lease r.ia) }
  let s := (linesOf (hits.map (·.1))).foldl (fun s ln => (touchL1 s c tm.ctx ln).usePage c ln) s
  let s := (linesOf (misses.map (·.1))).foldl (fun s ln => countMiss s c tm.ctx ln) s
  let s := if hits.isEmpty then s else s.addAccess op 24 x.set.toNat h.handler (hits.map fun p => p.1.t) lanes
  if rs.isEmpty then s else s.sendAll rs

/-- A global store of accesses (R160, R274): a private copy of the line is first removed (R148). -/
def storeGlobal (s : State) (tm : Team) (h : Thread) (x : Fields) (op : Nat) (as : List LaneAccess) : State :=
  let s := (linesOf as).foldl (fun s ln => s.expelPrivate h.ref.core tm.ctx ln) s
  let rs := (lineRequests (requestOf tm h x op .store) s as).map fun r => { r with parts := r.parts.map fun p => { p with own := [] } }
  if rs.isEmpty then s else s.sendAll rs

/-! ### Private accesses (R145 to R148) -/

/-- The private L1 line of an access, where its page check passes. -/
def privateHit (s : State) (c : CoreId) (ctx ia : Nat) (n : Need) : Option L1Line :=
  match s.l1Line c ctx ia with
  | some l => if l.isPrivate && (s.pageHeld c ctx ia n).isSome then some l else none
  | none => none

/-- Write bytes into a private line (R148); in a bank that leaves CACHE mode they are also written through to the home (R137). -/
def writePrivate (s : State) (c : CoreId) (ctx ia : Nat) (bs : List Byte) : State :=
  match s.l1Line c ctx ia with
  | none => s
  | some l =>
    let through := (s.core c).changes.any fun k => k.bank == l.bank
    let s := if through then (s.performWrite (l.frame + ia % 128) ia bs (some (l.perms, l.ctx))).1 else s
    s.updL1 c ctx ia fun l => { l with dirty := l.dirty || !through, data := overlay (ia % 128) bs l.data }

/-- A private store of the thread to the line is on its way: what follows it waits its turn behind it. -/
def privAhead (s : State) (t : TRef) (ctx ia : Nat) : Bool :=
  s.mem.requests.any fun r => r.ctx == ctx && r.kind == .privStore && lineOf r.ia == lineOf ia && r.parts.any fun p => p.t == t

/-- One store covers a private line whole: its poison clears (R349). -/
def cleanCovered (s : State) (c : CoreId) (ctx : Nat) (as : List LaneAccess) : State :=
  let spans := as.map fun a => (a.ia, a.size)
  (linesOf as).foldl (fun s ln => if spansCover spans ln 128 then s.updL1 c ctx ln fun l => { l with poison := false } else s) s

/-- A private load or store: a lane whose every word hits is performed in the L1 now, a load after the thread's own stores that are on
their way (R161); the others fill their lines from the home, as does a store behind such a one. A global copy of a line is first
dropped (R148; DESIGN CHOICE, assumption 64). -/
def accessPrivate (s : State) (tm : Team) (h : Thread) (x : Fields) (op : Nat) (store : Bool) (as : List LaneAccess) : State :=
  let c := h.ref.core
  let need : Need := if store then .write else .read
  let s := (linesOf as).foldl (fun s ln => match s.l1Line c tm.ctx ln with
    | some l => if l.isPrivate then s else s.dropL1 c tm.ctx ln
    | none => s) s
  let hit := fun (t : TRef) => as.all fun a => a.t != t ||
    (inModule a.ia && (privateHit s c tm.ctx a.ia need).isSome && !(store && privAhead s t tm.ctx a.ia))
  let now := as.filter fun a => hit a.t
  let later := as.filter fun a => !(hit a.t)
  let spoilt := now.find? fun a => !store && ((s.l1Line c tm.ctx a.ia).map (·.poison)).getD false
  if spoilt.isSome then s.killContext tm.ctx Cause.uncorrected ((spoilt.bind fun a => s.l1Line c tm.ctx a.ia).map (·.frame) |>.getD 0) c else
  let words := fun (a : LaneAccess) => ((s.l1Line c tm.ctx a.ia).map fun l => hitBytes s tm.ctx l a).getD []
  let lanes := if store then [] else ((now.map (·.t)).eraseDups).filterMap fun t =>
    let mine := now.filter fun a => a.t == t
    mine.head?.map fun a => loadLane t x.ty a.reg (mine.flatMap words)
  let s := if store then now.foldl (fun s a => writePrivate s c tm.ctx a.ia a.data) (cleanCovered s c tm.ctx now)
    else (linesOf now).foldl (fun s ln => touchL1 s c tm.ctx ln) s
  let s := (linesOf now).foldl (fun s ln => s.usePage c ln) s
  let s := if now.isEmpty then s else s.addAccess op 24 x.set.toNat h.handler ((now.map (·.t)).eraseDups) lanes
  let rs := lineRequests (requestOf tm h x op (if store then .privStore else .privLoad)) s later
  if rs.isEmpty then s else s.sendAll rs

/-! ### Local plot accesses (R139, R167) -/

/-- Bytes of the plot that a team holds on a core. -/
def plotBytes (s : State) (team : Nat) (c : CoreId) (o n : Nat) : List Byte := ((s.plotOf team c).map fun p => p.read o n).getD (List.replicate n 0)
def writePlot (s : State) (team : Nat) (c : CoreId) (o : Nat) (bs : List Byte) : State :=
  match s.plotOf team c with
  | some p => s.writePlotBytes p o bs
  | none => s

/-- One store of these byte ranges clears the poison of the plot's lines that it covers whole (R349). -/
def coverPlot (s : State) (team : Nat) (c : CoreId) (spans : List (Nat × Nat)) : State :=
  match s.plotOf team c with
  | some p => s.clearPlotCovered p spans
  | none => s

/-- Bytes of a team's plot lie in a poisoned line (R349). -/
def poisonedPlot (s : State) (team : Nat) (c : CoreId) (o n : Nat) : Bool := ((s.plotOf team c).map fun p => s.plotPoisoned p o n).getD false

/-! ### LD, LDV, ST, STV -/

/-- One lane's access once its checks pass. -/
inductive Located where
  | global (a : LaneAccess) (r : W64 × W64 × W64)
  | plot (t : TRef) (o : Nat) (data : List Byte)
  | priv (as : List LaneAccess)
  deriving DecidableEq, Repr

/-- Locate a lane's bytes and check them (R124, R270). -/
def locate (s : State) (tm : Team) (x : Fields) (store : Bool) (size reg : Nat) (l : Lane) (data : List Byte) : Check Located :=
  let c := ctxOf s tm
  let need : Need := if store then .write else .read
  match OpTable.xf x 0 3 with
  | 0 => (globalCheck c need size size (globalVa x l.a) l.t.lane).map fun r => .global ⟨l.t.ref, globalVa x l.a, r.1, size, reg, data, []⟩ r.2
  | 1 => (plotCheck s l.t tm store size (natField l.a.toNat 0 32 + disp32 x)).map fun o => .plot l.t.ref o data
  | _ => (privCheck c l.t tm need size (natField l.a.toNat 0 32 + disp32 x)).map fun ps =>
      .priv (ps.map fun p => ⟨l.t.ref, p.1, p.2.1, p.2.2.1, reg + p.2.2.2 / 4, (data.drop p.2.2.2).take p.2.2.1, []⟩)

/-- LD and LDV (R274, R275). -/
def loadOp (s : State) (opc : Nat) (x : Fields) (size n : Nat) : State :=
  s.issueThen opc x fun tm sp act =>
    let part := act.filter fun t => t.guardTrue x.guard
    match part with
    | [] => s.advance act x.form.length
    | h :: _ =>
      let checks := part.map fun t => locate s tm x false size x.d.toNat (laneOf s sp x [] t) []
      match firstFail checks with
      | some t => s.trapGroup t
      | none =>
        let found := passed checks
        let (op, s) := beginMem s act part x x.d.toNat n
        match OpTable.xf x 0 3 with
        | 0 => loadGlobal s tm h x op (found.filterMap fun f => match f with
            | .global a r => some (a, leaseClass (OpTable.xf x 3 2) r a.ia)
            | _ => none)
        | 1 => if found.any (fun f => match f with | .plot _ o _ => poisonedPlot s tm.id h.ref.core o size | _ => false) then
            s.killContext tm.ctx Cause.uncorrected 0 h.ref.core
          else s.addAccess op 12 x.set.toNat h.handler (part.map (·.ref)) (found.filterMap fun f => match f with
            | .plot t o _ => some (loadLane t x.ty x.d.toNat (plotBytes s tm.id h.ref.core o size))
            | _ => none)
        | _ => accessPrivate s tm h x op false (found.flatMap fun f => match f with | .priv as => as | _ => [])

/-- ST and STV (R274, R275): the data comes from registers, from a constant window, or from one word of it for each (DEDUCED, assumption 19). -/
def storeOp (s : State) (opc : Nat) (x : Fields) (size n : Nat) : State :=
  s.issueThen opc x fun tm sp act =>
    let part := act.filter fun t => t.guardTrue x.guard
    match part with
    | [] => s.advance act x.form.length
    | h :: _ =>
      let consts := constOperand s tm { sp with b := .regs n } x
      let bytes := fun (t : Thread) => (if x.kw then consts.got.flatMap fun w => leBytes 4 w.toNat else regBytes s t x.b.toNat n).take size
      let checks := part.map fun t => locate s tm x true size 0 (laneOf s sp x [] t) (bytes t)
      match firstFail (checks ++ constCheck consts) with
      | some t => s.trapGroup t
      | none => match consts with
        | .missing va ia => fillConst s tm va ia part
        | _ =>
          let found := passed checks
          let (op, s) := beginMem s act part x 0 0
          match OpTable.xf x 0 3 with
          | 0 => storeGlobal s tm h x op (found.filterMap fun f => match f with | .global a _ => some a | _ => none)
          | 1 =>
            let s := found.foldl (fun s f => match f with | .plot _ o bs => writePlot s tm.id h.ref.core o bs | _ => s) s
            let s := coverPlot s tm.id h.ref.core (found.filterMap fun f => match f with | .plot _ o bs => some (o, bs.length) | _ => none)
            s.addAccess op 12 x.set.toNat h.handler (part.map (·.ref)) []
          | _ => accessPrivate s tm h x op true (found.flatMap fun f => match f with | .priv as => as | _ => [])

/-- Registers of a value of the type. -/
def regsOf (t : Ty) : Nat := if t.wide then 2 else 1

/-- LD (R274). -/
def execLd (x : Fields) (s : State) : Host.Outcome State Fault Refusal := .next (loadOp s 0x40 x x.ty.bytes (regsOf x.ty))
/-- ST (R274). -/
def execSt (x : Fields) (s : State) : Host.Outcome State Fault Refusal := .next (storeOp s 0x41 x x.ty.bytes (regsOf x.ty))
/-- LDV (R275). -/
def execLdv (x : Fields) (s : State) : Host.Outcome State Fault Refusal := .next (loadOp s 0x44 x (4 * OpTable.countOf x) (OpTable.countOf x))
/-- STV (R275). -/
def execStv (x : Fields) (s : State) : Host.Outcome State Fault Refusal := .next (storeOp s 0x45 x (4 * OpTable.countOf x) (OpTable.countOf x))

/-! ### Packets (R142, R276, R277) -/

/-- A packet instruction: each participating lane sends one packet, in ascending lane order. -/
def packetOp (s : State) (opc : Nat) (x : Fields) (kind : ReqKind) (dst : Nat) (takesB : Bool) : State :=
  s.issueThen opc x fun tm sp act =>
    let part := act.filter fun t => t.guardTrue x.guard
    match part with
    | [] => s.advance act x.form.length
    | h :: _ =>
      let consts := if takesB then constOperand s tm sp x else .words []
      let size := x.ty.bytes
      let lanes := part.map (laneOf s sp x consts.got)
      let checks := lanes.map fun l => (windowCheck x l.t size l.a).map fun w => (l, w)
      match firstFail (checks ++ constCheck consts) with
      | some t => s.trapGroup t
      | none => match consts with
        | .missing va ia => fillConst s tm va ia part
        | _ =>
          let found := passed checks
          let writes := match kind with | .store => false | _ => true
          let (op, s) := beginMem s act part x dst (if writes then regsOf x.ty else 0)
          s.sendAll (found.map fun p =>
            let (l, home, win, off) := p
            let data := if takesB then leBytes size l.b.toNat else []
            { requestOf tm h x op kind with
              route := .packet home win off, va := l.a.toNat % 2 ^ 32, ia := 2 ^ 60 + (home.core * 32 + win) * 128
              parts := [⟨l.t.ref, off, size, dst, data, leBytes size l.c.toNat, []⟩] })

/-- LDP (R277). -/
def execLdp (x : Fields) (s : State) : Host.Outcome State Fault Refusal := .next (packetOp s 0x42 x (.load 0) x.d.toNat false)
/-- STP (R277). -/
def execStp (x : Fields) (s : State) : Host.Outcome State Fault Refusal := .next (packetOp s 0x43 x .store 0 true)

/-! ### Atomics (R278, R279) -/

/-- The new value of an atomic, and the flags of .fadd (R278, R279). -/
def atomicNew (t : Ty) (aop : Nat) (rnd : Rnd) (old b c : Nat) : Rounded :=
  let w := t.bits
  let sg := fun (v : Nat) => intValue t (BitVec.ofNat 64 v)
  match aop with
  | 0 => ⟨(old + b) % 2 ^ w, 0⟩
  | 1 => ⟨if sg b < sg old then b else old, 0⟩
  | 2 => ⟨if sg old < sg b then b else old, 0⟩
  | 3 => ⟨old &&& b, 0⟩
  | 4 => ⟨old ||| b, 0⟩
  | 5 => ⟨old ^^^ b, 0⟩
  | 6 => ⟨b, 0⟩
  | 7 => ⟨if old = c then b else old, 0⟩
  | 8 => ⟨if b ≤ old then 0 else old + 1, 0⟩
  | 9 => ⟨if old = 0 ∨ b < old then b else old - 1, 0⟩
  | _ => sumProducts .binary32 rnd [[Fp.decode .binary32 old], [Fp.decode .binary32 b]]

/-- The waits of a FENCE that a thread has still to make are over (R165). -/
def fenceDone (s : State) (tm : Team) (t : Thread) (scope : Scope) : Bool :=
  let timed := match scope with
    | .thread | .group => false
    | .team => tm.header.shape != 0
    | _ => true
  !(s.outstanding t.ref) && (!timed || decide (t.wmax + 8 ≤ s.chrono t.ref.core))

/-- The fence wait of an instruction that releases (R279, R295, R297): scope 0 waits for nothing in an ATOM. -/
def fencesDone (s : State) (tm : Team) (ts : List Thread) (scope : Scope) : Bool := ts.all fun t => fenceDone s tm t scope

/-- ATOMP (R278, R279): its fence wait is that of ATOM. -/
def execAtomp (x : Fields) (s : State) : Host.Outcome State Fault Refusal :=
  .next (s.issueThen 0x47 x fun tm _ act =>
    let part := act.filter fun t => t.guardTrue x.guard
    if x.scope != .thread && !(fencesDone s tm part x.scope) then s
    else packetOp s 0x47 x (.atomic (OpTable.xf x 0 4) x.rnd) x.d.toNat true)

/-! ### LDK (R280) -/

/-- The words of a lane's constant load, from an exact word offset. -/
def ldkRead (s : State) (tm : Team) (x : Fields) (l : Lane) : ConstRead :=
  constAt s tm l.t.ref.core (natField x.xop.toNat 0 3) (natField l.a.toNat 0 32 + disp32 x) l.t.lane (regsOf x.ty)

/-- LDK (R280): hits at once, each missing line by a fill. -/
def execLdk (x : Fields) (s : State) : Host.Outcome State Fault Refusal :=
  .next (s.issueThen 0x48 x fun tm sp act =>
    let part := act.filter fun t => t.guardTrue x.guard
    match part with
    | [] => s.advance act x.form.length
    | h :: _ =>
      let reads := part.map fun t => (t, ldkRead s tm x (laneOf s sp x [] t))
      let checks : List (Check Unit) := reads.flatMap fun p => constCheck p.2
      match firstFail checks with
      | some t => s.trapGroup t
      | none =>
        let (op, s) := beginMem s act part x x.d.toNat (regsOf x.ty)
        let hits := reads.filterMap fun p => match p.2 with | .words ws => some (p.1.ref, ws) | _ => none
        let as := reads.filterMap fun p => match p.2 with
          | .missing va ia => some (⟨p.1.ref, va, ia, 4 * regsOf x.ty, x.d.toNat, [], []⟩ : LaneAccess)
          | _ => none
        let s := if hits.isEmpty then s else s.addAccess op 8 x.set.toNat h.handler (hits.map (·.1)) (hits.map fun p => ⟨p.1, x.d.toNat, p.2, none, 0⟩)
        let s := (linesOf as).foldl (fun s ln => s.expelPrivate h.ref.core tm.ctx ln) s
        let rs := (lineRequests (requestOf tm h x op (.constFill tm.run)) s as).map fun r => { r with parts := r.parts.map fun p => { p with own := [] } }
        if rs.isEmpty then s else s.sendAll rs)

end Sys2Proof.Machine
end

