-- ==== Sys2Proof/Machine/MemControl.lean ====
section
/-! DEFINITION. The meanings of FENCE, WAIT, PLOT, PREF, CCTL and BANKCFG, opcodes 0x49 to 0x4E
(spec/15_isa_memory.md R281 to R287). -/

namespace Sys2Proof.Machine

/-! ### FENCE and WAIT (R165, R281, R282) -/

/-- FENCE (R281): each participating thread stalls until its wait is over; a FENCE guarded off in every lane does not. -/
def execFence (x : Fields) (s : State) : Host.Outcome State Fault Refusal :=
  .next (s.issueThen 0x49 x fun _ _ act =>
    let part := (act.filter fun t => t.guardTrue x.guard).map (·.ref)
    (s.updThreads part fun h => { h with fence := some x.scope }).advance act x.form.length)

/-- Every slot of a mask holds at most N in a thread (R282). -/
def slotsWithin (t : Thread) (mask n : Nat) : Bool := (List.range 6).all fun k => !(mask.testBit k) || decide (t.slot (k + 1) ≤ n)

/-- WAIT (R282): the group is held while a slot of the mask is above the threshold in an active thread. -/
def execWait (x : Fields) (s : State) : Host.Outcome State Fault Refusal :=
  .next (s.issueThen 0x4A x fun _ _ act =>
    if act.all fun t => slotsWithin t (natField x.low.toNat 0 6) (natField x.low.toNat 6 6) then s.advance act x.form.length else s)

/-! ### Instructions that act once for their group -/

namespace State

/-- An instruction that acts once, with the operands of its lowest participating lane, and writes one status to D of every
participating lane. `act` answers a trap, or the status and the state. -/
def onceStatus (s : State) (op : Nat) (x : Fields) (lat : Nat) (f : Team → Lane → State → Except Trap (Nat × State)) : State :=
  s.issueConst op x fun tm sp act ws =>
    let part := act.filter fun t => t.guardTrue x.guard
    match part with
    | [] => s.advance act x.form.length
    | h :: _ =>
      match f tm (laneOf s sp x ws h) s with
      | .error t => s.trapGroup t
      | .ok (status, s) =>
        let (n, s) := beginMem s act part x x.d.toNat 1
        s.addLater n lat x.set.toNat h.handler (part.map (·.ref)) (part.map fun t => ⟨t.ref, x.d.toNat, [BitVec.ofNat 32 status], none, 0⟩) none []

end State

/-! ### PLOT (R285, R286) -/

/-- PLOT_OWNER of PLOT: TRAPINFO is the plot offset it names (R329). -/
def plotOwnerTrap (l : Lane) : Trap := { cause := Cause.plotOwner, info := natField l.a.toNat 0 32, lane := l.t.lane }

/-- The thread of a context at a slot of a core, if it is resident there (R286). -/
def residentThread (s : State) (c : CoreId) (ctx slot : Nat) : Option Thread :=
  match s.thread ⟨c, ctx, slot⟩ with
  | some t => if t.exited then none else some t
  | none => none

def closeWindows (s : State) (c : CoreId) (ctx : Nat) (p : PlotWindow → Bool) : State := s.updCore c fun k => State.shutWindows k ctx p

/-- PLOT.open (R285, R286): statuses in ascending order (DEDUCED, assumption 16). -/
def plotOpen (tm : Team) (l : Lane) (s : State) : Except Trap (Nat × State) :=
  let c := l.t.ref.core
  let b := natField l.b.toNat 0 32
  let off := natField l.a.toNat 0 32
  match s.plotOf tm.id c with
  | none => .error (plotOwnerTrap l)
  | some p =>
    let sw := b.testBit 8
    let writer := residentThread s { c with core := natField b 16 2 } tm.ctx (natField b 18 11)
    if (s.core c).windows.any fun w => w.index == natField b 0 5 then .ok (1, s)
    else if off % 128 ≠ 0 ∨ p.size ≤ off then .ok (2, s)
    else if sw ∧ writer = none then .ok (3, s)
    else if natField b 5 3 ≠ 0 ∨ natField b 9 7 ≠ 0 ∨ natField b 29 3 ≠ 0 then .ok (6, s)
    else
      let w : PlotWindow := ⟨natField b 0 5, tm.id, p.id, off, if sw then writer.map (·.team) else none⟩
      .ok (0, s.updCore c fun k => { k with windows := k.windows ++ [w], closed := k.closed.filter fun q => q.2 != w.index })

/-- PLOT.close (R285, R286). -/
def plotClose (tm : Team) (l : Lane) (s : State) : Except Trap (Nat × State) :=
  let c := l.t.ref.core
  let b := natField l.b.toNat 0 32
  match s.plotOf tm.id c with
  | none => .error (plotOwnerTrap l)
  | some _ =>
    if !((s.core c).windows.any fun w => w.index == natField b 0 5 && w.team == tm.id) then .ok (1, s)
    else if natField l.a.toNat 0 32 ≠ 0 ∨ natField b 5 27 ≠ 0 then .ok (6, s)
    else .ok (0, closeWindows s c tm.ctx fun w => w.index == natField b 0 5)

/-- PLOT.give (R143, R285, R286). -/
def plotGive (tm : Team) (l : Lane) (s : State) : Except Trap (Nat × State) :=
  let c := l.t.ref.core
  let b := natField l.b.toNat 0 32
  match s.plotOf tm.id c with
  | none => .error (plotOwnerTrap l)
  | some p =>
    match residentThread s c tm.ctx (natField b 0 11) with
    | none => .ok (3, s)
    | some t =>
      if t.team = tm.id then .ok (3, s)
      else if natField l.a.toNat 0 32 ≠ 0 ∨ natField b 11 21 ≠ 0 then .ok (6, s)
      else .ok (0, closeWindows (s.updPlot p.id fun q => { q with holder := .givenTo t.team }) c tm.ctx fun w => w.plot == p.id)

/-- PLOT.take (R143, R285, R286): statuses in ascending order (DEDUCED, assumption 16). -/
def plotTake (tm : Team) (l : Lane) (s : State) : Except Trap (Nat × State) :=
  let c := l.t.ref.core
  let given := s.plots.filter fun p => p.core == c && p.ctx == tm.ctx && (match p.holder with | .givenTo _ => true | _ => false)
  match given.find? fun p => p.holder == .givenTo tm.id with
  | none => if given.isEmpty then .ok (4, s) else .error (plotOwnerTrap l)
  | some p =>
    if (s.plotOf tm.id c).isSome then .ok (5, s)
    else if natField l.a.toNat 0 32 ≠ 0 ∨ natField l.b.toNat 0 32 ≠ 0 then .ok (6, s)
    else .ok (0, s.updPlot p.id fun q => { q with owner := tm.id, holder := .heldBy tm.id })

/-- PLOT.open (R285). -/
def execPlotOpen (x : Fields) (s : State) : Host.Outcome State Fault Refusal := .next (s.onceStatus 0x4B x 12 plotOpen)
/-- PLOT.close (R285). -/
def execPlotClose (x : Fields) (s : State) : Host.Outcome State Fault Refusal := .next (s.onceStatus 0x4B x 12 plotClose)
/-- PLOT.give (R285). -/
def execPlotGive (x : Fields) (s : State) : Host.Outcome State Fault Refusal := .next (s.onceStatus 0x4B x 12 plotGive)
/-- PLOT.take (R285). -/
def execPlotTake (x : Fields) (s : State) : Host.Outcome State Fault Refusal := .next (s.onceStatus 0x4B x 12 plotTake)

/-! ### PREF (R283) -/

/-- The lines that a PREF fills, each with its virtual address and lease class: a lane whose check fails names none (R283). -/
def prefetchLines (s : State) (tm : Team) (x : Fields) (lanes : List Lane) : List (Nat × Nat × Nat) :=
  (lanes.filterMap fun l => match globalCheck (ctxOf s tm) .read 1 1 (globalVa x l.a) l.t.lane with
    | .error _ => none
    | .ok (ia, r) => some (lineOf ia, globalVa x l.a / 128 * 128, leaseClass 1 r ia)).foldl
      (fun acc q => if acc.any fun k => k.1 == q.1 then acc else acc ++ [q]) []

/-- PREF of one line (R273, R283): into the home slice, or into the L1 unless a copy is there; what fills nothing is dropped. -/
def prefetchLine (s : State) (tm : Team) (h : Thread) (x : Fields) (ln va lease : Nat) : State :=
  let slice := x.xop.getLsbD 0
  if if slice then !(inModule ln) else lease == 0 || (globalHit s h.ref.core tm.ctx ln).isSome then s
  else
    let (op, s) := (s.expelPrivate h.ref.core tm.ctx ln).fresh
    s.sendNew { requestOf tm h x op (if slice then .sliceFill else .fill lease) with group := none, ia := ln, va := va, route := routeOf ln }

/-- PREF (R283). -/
def execPref (x : Fields) (s : State) : Host.Outcome State Fault Refusal :=
  .next (s.issueThen 0x4C x fun tm sp act =>
    let part := act.filter fun t => t.guardTrue x.guard
    match part with
    | [] => s.advance act x.form.length
    | h :: _ =>
      ((prefetchLines s tm x (part.map (laneOf s sp x []))).foldl (fun s q => prefetchLine s tm h x q.1 q.2.1 q.2.2) s).advance act x.form.length)

/-! ### CCTL (R284) -/

/-- Send a dirty private line back to its home for threads that will wait for it (R281); the last acknowledgement releases their
slot (R284). -/
def sendWriteBack (s : State) (tm : Team) (h : Thread) (x : Fields) (op : Nat) (l : L1Line) (ts : List TRef) : State :=
  let (id, s) := s.fresh
  s.travel { requestOf tm h x op .writeBack with
             id := id, group := none, ia := l.line, frame := l.frame, perms := l.perms, line := l.data, poison := l.poison, parts := ts.map fun t => ⟨t, 0, 0, 0, [], [], []⟩ }

/-- A private store of the context that the L1 of a core has still to take, on a line that the test accepts: CCTL waits for it, so
that what was stored before it goes back. -/
def privStorePending (s : State) (c : CoreId) (ctx : Nat) (on : Nat → Bool) : Bool :=
  s.mem.requests.any fun r => r.core == c && r.ctx == ctx && r.kind == .privStore && on (lineOf r.ia)

/-- CCTL.wbpriv: every dirty private line of the context goes back to its home and stays, clean (DEDUCED, assumption 38). -/
def execCctlWbpriv (x : Fields) (s : State) : Host.Outcome State Fault Refusal :=
  .next (s.issueThen 0x4D x fun tm _ act =>
    let part := act.filter fun t => t.guardTrue x.guard
    match part with
    | [] => s.advance act x.form.length
    | h :: _ =>
      if privStorePending s h.ref.core tm.ctx fun _ => true then s else
      let refs := part.map (·.ref)
      let mine := fun (l : L1Line) => l.ctx == tm.ctx && l.isPrivate && l.dirty
      let dirty := (s.core h.ref.core).l1.filter mine
      let (op, s) := beginMem s act part x 0 0
      let s := dirty.foldl (fun s l => sendWriteBack s tm h x op l refs) s
      let s := s.updCore h.ref.core fun k => { k with l1 := mapIf mine (fun l => { l with dirty := false }) k.l1 }
      if dirty.isEmpty then s.addLater op 24 x.set.toNat h.handler refs [] none [] else s)

/-- CCTL.invl1: for each lane the L1 copy of its line is dropped, a dirty private one after it has gone back; an address
that no range matches is ignored. -/
def execCctlInvl1 (x : Fields) (s : State) : Host.Outcome State Fault Refusal :=
  .next (s.issueThen 0x4D x fun tm sp act =>
    let part := act.filter fun t => t.guardTrue x.guard
    match part with
    | [] => s.advance act x.form.length
    | h :: _ =>
      let lanes := part.map (laneOf s sp x [])
      let lines := (lanes.filterMap fun l => (translate (ctxOf s tm) (globalVa x l.a) 1).map fun r => lineOf r.1).eraseDups
      if privStorePending s h.ref.core tm.ctx fun ln => lines.contains ln then s else
      let (op, s) := beginMem s act part x 0 0
      let backs := lines.any fun ln => ((s.l1Line h.ref.core tm.ctx ln).map fun l => l.isPrivate && l.dirty).getD false
      let s := lines.foldl (fun s ln => match s.l1Line h.ref.core tm.ctx ln with
        | some l =>
          let s := if l.isPrivate && l.dirty then sendWriteBack s tm h x op l (part.map (·.ref)) else s
          s.dropL1 h.ref.core tm.ctx ln
        | none => s) s
      if backs then s else s.addLater op 24 x.set.toNat h.handler (part.map (·.ref)) [] none [])

/-- CCTL.invk: the constant-cache lines of the context. -/
def execCctlInvk (x : Fields) (s : State) : Host.Outcome State Fault Refusal :=
  .next (s.issueThen 0x4D x fun tm _ act =>
    let part := act.filter fun t => t.guardTrue x.guard
    match part with
    | [] => s.advance act x.form.length
    | h :: _ =>
      let (op, s) := beginMem s act part x 0 0
      let s := s.updCore h.ref.core fun k => { k with klines := k.klines.filter fun l => l.ctx != tm.ctx }
      s.addLater op 24 x.set.toNat h.handler (part.map (·.ref)) [] none [])

/-! ### BANKCFG (R137, R138, R287) -/

/-- The status of a bank change request (R138), in the order of its table. -/
def bankStatus (s : State) (c : CoreId) (bank mode : Nat) : Nat :=
  let k := s.core c
  let now := (k.modes.getD bank 0).toNat
  let changing := k.changes.any fun b => b.bank == bank
  if !changing ∧ now = 1 ∧ (s.plots.any fun p => p.core == c && p.units.any fun u => u.1 == bank) then 1
  else if !changing ∧ now = 2 ∧ (k.fifo.any (fun f => f.bank == bank) ∨ k.ringEntries.any fun e => e.1 == bank) then 2
  else if !changing ∧ now = 0 ∧ (State.cacheBanks k).length = 1 then 3
  else if changing then 4
  else if mode = 3 ∨ mode = now then 5
  else 0

/-- Cycles from an accepted change until the old contents of a CACHE bank have gone back and are dropped, which end a change that is
not to PLOT (DESIGN CHOICE, assumption 98), and those that zero a PLOT bank (R137). -/
def bankClearCycles : Nat := 4
def bankZeroCycles : Nat := 512

/-- BANKCFG (R287): an accepted change begins, and the bank reads CHANGING. Steps 1 to 3 of R137 are empty but from CACHE. -/
def execBankcfg (x : Fields) (s : State) : Host.Outcome State Fault Refusal :=
  .next (s.onceStatus 0x4E x 4 fun _ l s =>
    let a := natField l.a.toNat 0 32
    let b := natField l.b.toNat 0 32
    let c := l.t.ref.core
    if 48 ≤ a ∨ 4 ≤ b then .ok (6, s)
    else
      let st := bankStatus s c a b
      if st ≠ 0 then .ok (st, s)
      else
        let empty := (s.core c).modes.getD a 0 != 0
        let s := s.updCore c fun k => { k with changes := k.changes ++ [⟨a, b, empty⟩] }
        .ok (0, s.after (if empty && b == 1 then bankZeroCycles else bankClearCycles) (.bankChangeComplete c a)))

end Sys2Proof.Machine
end

