-- ==== Sys2Proof/Machine/Control.lean ====
section
/-! DEFINITION. The meanings of the control-flow instructions, opcodes 0x58 to 0x5F, and events at a team's holding core
(spec/16_isa_control.md R303 to R313, R326; spec/03_execution.md R36, R50 to R53; spec/05_scheduling.md R78). -/

namespace Sys2Proof.Machine

/-! ### The sets of groups (R78) -/

/-- The pending group that has been ready longest, the lowest group slot on a tie. -/
def longestReady (k : Core) : Option Nat :=
  (leastBy (·.2) (sortBy (·.1) (k.pending.filterMap fun p => p.2.map fun n => (p.1, n)))).map (·.1)

/-- Position p takes that group, and the group that held it becomes pending; nothing changes while no pending group is
ready. -/
def exchangePosition (k : Core) (now p : Nat) : Core :=
  match longestReady k with
  | none => k
  | some g =>
    let out : List (Nat × Option Nat) := match k.positions.getD p none with
      | some o => [(o.1, none)]
      | none => []
    { k with positions := k.positions.set p (some (g, now)), pending := k.pending.filter (fun q => q.1 != g) ++ out }

/-! ### Targets (R304, R305) -/

/-- A relative target: the instruction's own address plus 4 × the word offset. -/
def relative (t : Thread) (off : Int) : W64 := t.pc + BitVec.ofInt 64 (4 * off)

/-- The word offset of an extended form (R305, R307, R309). -/
def offsetOf (x : Fields) : Int := x.low.toInt

/-- ALIGN for the first of the targets that is not a multiple of 4 (R304). -/
def targetTrap (ts : List (Thread × W64)) : Option Trap :=
  (ts.find? fun p => p.2.toNat % 4 != 0).map fun p => { cause := Cause.align, info := p.2.toNat, lane := p.1.lane }

namespace State

/-- Every active thread takes its next PC: its target, or the address after the instruction (R38, R39). -/
def takeTargets (s : State) (act : List Thread) (len : Nat) (target : Thread → Option W64) : State :=
  let refs := act.map (·.ref)
  { s with threads := s.threads.map fun h =>
      if refs.contains h.ref then { h with pc := (target h).getD (h.pc + BitVec.ofNat 64 len) } else h }

/-- A relative branch of the participating lanes (R305). -/
def branch (s : State) (act : List Thread) (len : Nat) (g : Guard) (off : Int) : State :=
  match act with
  | [] => s
  | h :: _ => (s.takeTargets act len fun t => if t.guardTrue g then some (relative t off) else none).delayIssue h.gref 2

/-- A transfer to a register or literal target (R304, R306, R308): the cycles to its next issue follow from the targets. -/
def absolute (s : State) (op : Nat) (x : Fields) (delay : List W64 → Nat) : State :=
  s.issueThen op x fun _ _ act =>
    let part := act.filter fun t => t.guardTrue x.guard
    let target := fun (t : Thread) => if x.form = .lit then x.lit else readOpd s t (.regs 2) x.a
    match targetTrap (part.map fun t => (t, target t)) with
    | some e => s.trapGroup e
    | none =>
      match act with
      | [] => s
      | h :: _ =>
        (s.takeTargets act x.form.length fun t => if t.guardTrue x.guard then some (target t) else none).delayIssue h.gref (delay (part.map target))

/-- The cycles of a RET: 2 when each target is the return address of the group's latest CALL (R326; DEDUCED, assumption 54). -/
def retDelay (s : State) (targets : List W64) : Nat :=
  match s.clk.issue.bind fun g => (s.group g).bind (·.link) with
  | some l => if targets.all (· == l) then 2 else 6
  | none => 6

end State

/-- BRA, base form (R305): unguarded. -/
def execBraBase (off : BitVec 23) (s : State) : Host.Outcome State Fault Refusal :=
  .next (s.branch s.active 4 Guard.always off.toInt)

/-- BRA, extended form (R305). -/
def execBraExtended (x : Fields) (s : State) : Host.Outcome State Fault Refusal :=
  .next (s.issueThen 0x58 x fun _ _ act => s.branch act x.form.length x.guard (offsetOf x))

/-- JMP (R306). -/
def execJmp (x : Fields) (s : State) : Host.Outcome State Fault Refusal :=
  .next (s.absolute 0x59 x fun _ => 6)

namespace State

/-- CALL (R307): the target is read before the link is written; the link pair, the address after the CALL, may be read in
its lookahead window. -/
def callOp (s : State) (x : Fields) (delay : Nat) (target : Thread → W64) : State :=
  s.issueThen 0x5A x fun _ _ act =>
    let part := act.filter fun t => t.guardTrue x.guard
    match targetTrap (part.map fun t => (t, target t)) with
    | some e => s.trapGroup e
    | none =>
      match act with
      | [] => s
      | h :: _ =>
        let refs := act.map (·.ref)
        let link := h.pc + 12
        let linked := fun (t : Thread) =>
          (t.setRegs x.d.toNat (pairWords link)).openWindow x.la.toNat 0 x.d.toNat (readRegs s t x.d.toNat 2) (s.clk.cycle + delay)
        let one := fun (t : Thread) =>
          if !(refs.contains t.ref) then t
          else if t.guardTrue x.guard then { linked t with pc := target t }
          else { t with pc := t.pc + 12 }
        let s' : State := { s with threads := s.threads.map one }
        (s'.updGroup h.gref fun g => { g with link := some link }).delayIssue h.gref delay

end State

/-- CALL, relative (R307). -/
def execCall (x : Fields) (s : State) : Host.Outcome State Fault Refusal :=
  .next (s.callOp x 2 fun t => relative t (offsetOf x))

/-- CALL.reg (R307). -/
def execCallReg (x : Fields) (s : State) : Host.Outcome State Fault Refusal :=
  .next (s.callOp x 6 fun t => readOpd s t (.regs 2) x.a)

/-- RET, base form (R308). -/
def execRetBase (a : BitVec 8) (s : State) : Host.Outcome State Fault Refusal :=
  .next (s.absolute 0x5B (Fields.ofBase 0x5B 0 a 0) s.retDelay)

/-- RET, extended form (R308). -/
def execRetExtended (x : Fields) (s : State) : Host.Outcome State Fault Refusal :=
  .next (s.absolute 0x5B x s.retDelay)

/-! ### REFORM (R309) -/

/-- REFORM: each participating thread is filed under its next PC and sort key; the others advance. -/
def execReform (x : Fields) (s : State) : Host.Outcome State Fault Refusal :=
  .next (s.issueThen 0x5C x fun _ sp act =>
    match act with
    | [] => s
    | h :: _ =>
      let part := act.filter fun t => t.guardTrue x.guard
      let rest := act.filter fun t => !(t.guardTrue x.guard)
      let key := fun (t : Thread) => if x.xop.getLsbD 0 then natField (readOpd s t sp.b x.b).toNat 0 16 else 0
      let s' := (s.advance rest x.form.length).delayIssue h.gref 2
      (part.foldl (fun s t => s.fileThread t.ref (relative t (offsetOf x)) (key t)) s').ceaseGroups)

/-! ### Convergence events at the holding core (R36, R51, R310) -/

/-- The opcode and the number of TRAPINFO of CONV_MISUSE (R329). -/
def misuseTrap (op n lane : Nat) : Trap := { cause := Cause.convMisuse, info := op * 2 ^ 16 + n, lane := lane }

/-- The threads of an event that misuse a convergence register: of a declaration, of a join or signature. -/
def Cvg.misused (c : Cvg) (join : Bool) (ts : List TRef) : List TRef :=
  if join then (if c.isOpen then ts.filter fun t => !(c.members.contains t) || c.signed.any fun p => p.1 == t else ts)
  else if c.isOpen then (if c.s = 0 then ts.filter fun t => c.members.contains t else ts)
  else []

/-- A declaration by the threads. -/
def Cvg.declare (c : Cvg) (ts : List TRef) : Cvg :=
  if ts.isEmpty then c
  else if c.isOpen then { c with e := c.e + ts.length, members := c.members ++ ts }
  else ⟨true, ts.length, 0, ts, []⟩

/-- A join or signature by the threads, each with its vote if it signs by MMA.sign. -/
def Cvg.sign (c : Cvg) (ts : List (TRef × Option Vote)) : Cvg := { c with s := c.s + ts.length, signed := c.signed ++ ts }

namespace State

/-- A declaration, a join or a signature takes effect at the holding core, or reports the threads that misuse the
register. -/
def convergeEvent (s : State) (tm : Team) (n : Nat) (join : Bool) (ts : List (TRef × Option Vote)) : Except (List TRef) State :=
  match tm.cvgs[n]? with
  | none => .ok s
  | some c =>
    match c.misused join (ts.map (·.1)) with
    | [] =>
      let s := s.updTeam tm.id fun k => { k with cvgs := modifyAt (fun c => if join then c.sign ts else c.declare (ts.map (·.1))) n k.cvgs }
      .ok (if join then (s.updThreads (ts.map (·.1)) fun h => { h with status := .waiting (.cvg n) }).settle else s)
    | bad => .error bad

/-- The lane of the first of the threads. -/
def laneOfRef (s : State) (ts : List TRef) : Nat := ((ts.head?.bind s.thread).map (·.lane)).getD 0

/-- The exit of threads at a cancellation point (R58). -/
def cancelExit (s : State) (ts : List TRef) : State := ((ts.foldl (fun s t => s.exitThread t .cancelled) s).ceaseGroups).settle

/-- The threads of a team observe its cancel flag: not those in handler mode (R338). -/
def observes (tm : Team) (h : Thread) : Bool := tm.cancel && !h.handler

/-- Send an event of a group to the team's holding core: the active threads, each with a word where it participates. -/
def sendEvent (s : State) (tm : Team) (op : Nat) (x : Fields) (act : List Thread) (word : Thread → W32) : State :=
  match act with
  | [] => s
  | h :: _ => s.sendArrival ⟨s.clk.cycle + holdTransit tm h.ref.core, h.gref, tm.id, op, x,
      act.map fun t => (t.ref, t.guardTrue x.guard, word t), 0, false, h.handler⟩

/-- The answer of a holding core to an event, on its way back: its threads advance, or trap where `misuse` is 1 and the lane
is `lane`. -/
def answerEvent (s : State) (tm : Team) (a : Arrival) (misuse lane : Nat) (ts : List TRef) : State :=
  s.sendArrival { a with due := s.clk.cycle + holdTransit tm a.group.core, answer := true, result := misuse,
                         threads := ts.map fun t => (t, false, BitVec.ofNat 32 lane) }

/-- Threads of a list that have not exited. -/
def alive (s : State) (ts : List TRef) : List TRef := ts.filter fun t => match s.thread t with
  | some h => !h.exited && h.dying.isNone
  | none => false

/-- An answer arrives: the threads trap, or go past the instruction; a CVG.decl takes its 4 cycles more (R326). -/
def eventAnswered (s : State) (a : Arrival) (n : Nat) : State :=
  let ts := s.alive (a.threads.map (·.1))
  if a.result = 1 then
    let lane := ((a.threads.head?).map (·.2.2.toNat)).getD 0
    (s.trapThreads (ts.filterMap fun t => (s.thread t).map fun h => (t, h.pc)) (misuseTrap a.op n lane)).settle
  else
    let s := s.updThreads ts fun h => { h with pc := h.pc + BitVec.ofNat 64 a.x.form.length }
    if a.op = 0x5D && !(a.x.xop.getLsbD 0) then s.delayIssue a.group 4 else s

/-- A CVG event arrives at the holding core. -/
def cvgArrives (s : State) (tm : Team) (a : Arrival) : State :=
  let n := a.x.d.toNat % 16
  let join := a.x.xop.getLsbD 0
  let all := s.alive (a.threads.map (·.1))
  let part := s.alive ((a.threads.filter fun p => p.2.1).map (·.1))
  match s.convergeEvent tm n join (part.map fun t => (t, none)) with
  | .error bad => s.answerEvent tm a 1 (s.laneOfRef bad) all
  | .ok s' => s'.answerEvent tm a 0 0 (if join then all.filter fun t => !(part.contains t) else all)

/-- CVG (R310): at the holding core at once; from another core by an event that the group waits for (R36). -/
def cvgOp (s : State) (x : Fields) : State :=
  s.issueThen 0x5D x fun tm _ act =>
    let part := act.filter fun t => t.guardTrue x.guard
    let rest := act.filter fun t => !(t.guardTrue x.guard)
    let n := x.d.toNat % 16
    let join := x.xop.getLsbD 0
    match part with
    | [] => s.advance act x.form.length
    | h :: _ =>
      if join && observes tm h then (s.advance rest x.form.length).cancelExit (part.map (·.ref))
      else if holdTransit tm h.ref.core ≠ 0 then s.sendEvent tm 0x5D x act fun _ => 0
      else match s.convergeEvent tm n join (part.map fun t => (t.ref, none)) with
        | .error bad => s.trapGroup (misuseTrap 0x5D n (s.laneOfRef bad))
        | .ok s' =>
          if join then s'.advance rest x.form.length
          else (s'.advance act x.form.length).delayIssue h.gref 4

end State

/-- CVG.decl (R310). -/
def execCvgDecl (x : Fields) (s : State) : Host.Outcome State Fault Refusal := .next (s.cvgOp x)

/-- CVG.join (R310). -/
def execCvgJoin (x : Fields) (s : State) : Host.Outcome State Fault Refusal := .next (s.cvgOp x)

/-! ### EXIT and YIELD (R311, R312) -/

namespace State

/-- EXIT (R311): the participating threads end when their accesses are done; the others go on, when these accesses are done (R326,
canLook). -/
def exitOp (s : State) (x : Fields) : State :=
  s.issueThen 0x5E x fun _ _ act =>
    match act with
    | [] => s
    | h :: _ =>
      let part := (act.filter fun t => t.guardTrue x.guard).map (·.ref)
      let s := (s.advance (act.filter fun t => !(t.guardTrue x.guard)) x.form.length).delayIssue h.gref 1
      ((part.foldl (fun s t => s.exitThread t .normal) s).ceaseGroups).settle

/-- The group leaves the active set at the end of the cycle if a pending group is ready then (R312). -/
def yieldGroup (s : State) (g : GRef) : State := s.updGroup g fun k => { k with yields := true }

/-- Plain YIELD (R312). It is the group that yields, so that an extended form with every lane guarded off yields too (DEDUCED, assumption 115). -/
def yieldOp (s : State) (x : Fields) : State :=
  s.issueThen 0x5F x fun _ _ act =>
    match act with
    | [] => s
    | h :: _ => ((s.advance act x.form.length).delayIssue h.gref 2).yieldGroup h.gref

end State

/-- EXIT, base form. -/
def execExitBase (s : State) : Host.Outcome State Fault Refusal := .next (s.exitOp (Fields.ofBase 0x5E 0 0 0))

/-- EXIT, extended form. -/
def execExitExtended (x : Fields) (s : State) : Host.Outcome State Fault Refusal := .next (s.exitOp x)

/-- YIELD, base form. -/
def execYieldBase (s : State) : Host.Outcome State Fault Refusal := .next (s.yieldOp (Fields.ofBase 0x5F 0 0 0))

/-- YIELD, extended form. -/
def execYieldExtended (x : Fields) (s : State) : Host.Outcome State Fault Refusal := .next (s.yieldOp x)

/-- YIELD.chk (R312, R338): a cancellation point. -/
def execYieldChk (x : Fields) (s : State) : Host.Outcome State Fault Refusal :=
  .next (s.issueThen 0x5F x fun tm _ act =>
    let part := act.filter fun t => t.guardTrue x.guard
    match part with
    | [] => s.yieldOp x
    | h :: _ =>
      if part.any (State.observes tm) then
        ((s.advance (act.filter fun t => !(t.guardTrue x.guard)) x.form.length).delayIssue h.gref 2).cancelExit (part.map (·.ref))
      else s.yieldOp x)

end Sys2Proof.Machine
end

