-- ==== Sys2Proof/Machine/Tile.lean ====
section
/-! DEFINITION. Tiles: shapes, fragments, the use scoreboard, and the meanings of the tile instructions, opcodes 0x60 to
0x67 and 0x6A, with TTAKE_GRANT and TILE_SLOT_DRAIN (spec/20_isa_tile.md R354 to R368, R376). -/

namespace Sys2Proof.Machine

/-! ### Shapes and fragments (R358, R366) -/

/-- Bytes of a row, and of the image. -/
def Tile.rowBytes (t : Tile) : Nat := t.cols * t.et.bits / 8
def Tile.size (t : Tile) : Nat := t.rows * t.rowBytes

/-- The empty tile that a shape word names; none where it is malformed (R358). -/
def tileOfShape (w : W32) : Option Tile :=
  let n := w.toNat
  match Ty.ofCode (natField n 0 5) with
  | some et =>
    let t : Tile := ⟨et, natField n 8 6 + 1, natField n 16 7 + 1, []⟩
    if (et == .f16 || et == .f32 || et == .g6 || et == .g8) && natField n 5 3 == 0 && natField n 14 2 == 0 && natField n 23 9 == 0 &&
        t.cols % 8 == 0 && decide (t.size ≤ 16384)
    then some { t with data := List.replicate t.size 0 } else none
  | none => none

/-- Elements that one register holds (R366). -/
def perFragment (et : Ty) : Nat := match et with
  | .g8 | .g6 => 4
  | .f16 => 2
  | _ => 1

/-- Row and column of a coordinate word, or none where it is bad (R366). -/
def coordinate (t : Tile) (w : W32) : Option (Nat × Nat) :=
  let n := w.toNat
  let row := natField n 0 6
  let col := natField n 16 7
  let e := perFragment t.et
  if natField n 6 10 = 0 ∧ natField n 23 9 = 0 ∧ row < t.rows ∧ col % e = 0 ∧ col + e ≤ t.cols then some (row, col) else none

/-- A row as one little-endian number: column c is the field of w bits at w × c. -/
def Tile.row (t : Tile) (r : Nat) : Nat := leNat ((t.data.drop (r * t.rowBytes)).take t.rowBytes)

/-- The bits of one element. -/
def Tile.element (t : Tile) (r c : Nat) : Nat := natField (t.row r) (c * t.et.bits) t.et.bits

/-- A fragment as a register holds it (R366). -/
def Tile.fragment (t : Tile) (r c : Nat) : W32 := BitVec.ofNat 32 (natField (t.row r) (c * t.et.bits) (perFragment t.et * t.et.bits))

/-- The bytes of a fragment in the image: where they start, and how many they are. -/
def Tile.fragmentSpan (t : Tile) (r c : Nat) : Nat × Nat := (r * t.rowBytes + c * t.et.bits / 8, perFragment t.et * t.et.bits / 8)

/-- Write a fragment; bits of the register above it are ignored. -/
def Tile.setFragment (t : Tile) (r c : Nat) (v : W32) : Tile :=
  let lo := c * t.et.bits
  let n := perFragment t.et * t.et.bits
  let old := t.row r
  let new := old % 2 ^ lo + natField v.toNat 0 n * 2 ^ lo + old / 2 ^ (lo + n) * 2 ^ (lo + n)
  { t with data := overlay (r * t.rowBytes) (leBytes t.rowBytes new) t.data }

/-! ### Results in lanes -/

namespace State

/-- A result reaches its lane: registers of the code that named them, predicate and flags; its lookahead window closes. A
thread that has exited discards it (R311, R337). -/
def writeLane (s : State) (op : Nat) (handler : Bool) (l : ResultLane) : State :=
  s.updThread l.t fun h =>
    if h.exited || h.dying.isSome then h
    else
      let h := (h.setRegsOf handler l.reg l.vals).orFlags l.flags
      let h := match l.pred with
        | some (n, v) => h.setPred n v
        | none => h
      { h with windows := h.windows.filter fun w => w.op != op || w.op == 0 }

def writeLanes (s : State) (op : Nat) (handler : Bool) (ls : List ResultLane) : State := ls.foldl (fun s l => s.writeLane op handler l) s

/-- The slots that an instruction counted are released (R193). -/
def release (s : State) (ts : List TRef) (handler : Bool) (set : Nat) : State := s.updThreads ts fun h => h.slotDown handler set

/-! ### The use scoreboard (R361) -/

/-- Bytes of a tile slot lie in a poisoned line: a context that reads them dies (R349). -/
def poisonedTile (s : State) (die site slot : Nat) (spans : List (Nat × Nat)) : Bool :=
  (spans.flatMap fun p => linesMet p.1 p.2).any fun l => s.mem.tilePoison.contains (die, site, slot, l)

/-- One write of these bytes of a tile slot clears the poison of the lines that it covers whole (R349). -/
def cleanTile (s : State) (die site slot : Nat) (spans : List (Nat × Nat)) : State :=
  { s with mem := { s.mem with tilePoison := s.mem.tilePoison.filter fun q =>
      !(q.1 == die && q.2.1 == site && q.2.2.1 == slot && spansCover spans (128 * q.2.2.2) 128) } }

/-- The bytes of its slot's tile that a use reads, and those that it writes. -/
def useReads (t : Tile) : UseKind → List (Nat × Nat)
  | .storeGlobal | .storePlot _ => [(0, t.size)]
  | .readFragments _ lanes => lanes.filterMap fun l => (coordinate t l.2).map fun rc => t.fragmentSpan rc.1 rc.2
  | .loadGlobal | .loadPlot _ | .writeFragments _ => []

def useWrites (t : Tile) : UseKind → List (Nat × Nat)
  | .loadGlobal | .loadPlot _ => [(0, t.size)]
  | .writeFragments lanes => lanes.filterMap fun l => (coordinate t l.2.1).map fun rc => t.fragmentSpan rc.1 rc.2
  | .storeGlobal | .storePlot _ | .readFragments _ _ => []

/-- Begin a use whose turn has come. -/
def beginUse (s : State) (u : TileUse) : State :=
  let s : State := { s with tile := { s.tile with uses := mapIf (fun k => k.id == u.id) (fun k => { k with begun := true }) s.tile.uses } }
  let reads := ((s.tileUse u.id).map fun k => useReads k.2.tile u.kind).getD []
  if s.poisonedTile u.die u.site u.slot reads then s.killContext u.ctx Cause.uncorrected 0 u.core
  else match u.kind with
    | .loadGlobal | .storeGlobal =>
      let mine := s.mem.requests.filter fun r => r.stage == .queued && (r.kind == .tileLoad u.id || r.kind == .tileStore u.id)
      mine.foldl (fun s r => s.travel r) s
    | .storePlot o => match s.tileUse u.id with
      | some (_, t) => (writePlot s u.team u.core o t.tile.data).after u.cycles (.longLatencyResult u.id)
      | none => s
    | _ => s.after u.cycles (.longLatencyResult u.id)

/-- Begin every use whose turn has come. -/
def beginUses (s : State) : State :=
  let due := s.tile.uses.filter fun u => !u.begun && (match s.tileUse u.id with | some (_, t) => useTurn t u.id | none => false)
  due.foldl (fun s u => if s.tile.uses.any fun k => k.id == u.id then s.beginUse u else s) s

/-- A new use takes its place in the order of its slot. -/
def addUse (s : State) (u : TileUse) (writes : Bool) : State :=
  let s : State := { s with tile := { s.tile with uses := s.tile.uses ++ [u] } }
  s.updTileSlot u.die u.site u.slot fun t => { t with uses := t.uses ++ [(u.id, writes)] }

/-- A use is over. -/
def dropUse (s : State) (u : TileUse) : State :=
  let s : State := { s with tile := { s.tile with uses := s.tile.uses.filter fun k => k.id != u.id } }
  (s.updTileSlot u.die u.site u.slot fun t => { t with uses := t.uses.filter fun k => k.1 != u.id }).beginUses

/-- The last effect of a use (R367, R368). -/
def finishUse (s : State) (u : TileUse) : State :=
  match s.tileUse u.id with
  | none => s
  | some (_, t) =>
    let s := s.cleanTile u.die u.site u.slot (useWrites t.tile u.kind)
    let s := match u.kind with
      | .loadPlot image => s.updTileSlot u.die u.site u.slot fun k => { k with tile := { k.tile with data := image } }
      | .readFragments dst lanes =>
        s.writeLanes u.op u.handler (lanes.filterMap fun (l : TRef × W32) => (coordinate t.tile l.2).map fun (rc : Nat × Nat) => (⟨l.1, dst, [t.tile.fragment rc.1 rc.2], none, 0⟩ : ResultLane))
      | .writeFragments lanes =>
        s.updTileSlot u.die u.site u.slot fun k =>
          { k with tile := lanes.foldl (fun (m : Tile) (l : TRef × W32 × W32) => match coordinate m l.2.1 with | some rc => m.setFragment rc.1 rc.2 l.2.2 | none => m) k.tile }
      | _ => s
    (s.release u.threads u.handler u.set).dropUse u

/-- The use of a global image ends with its last unit. -/
def unitDone (s : State) (use : Nat) : State :=
  if s.mem.requests.any fun r => r.kind == .tileLoad use || r.kind == .tileStore use then s
  else match s.tile.uses.find? fun u => u.id == use with
    | some u => s.finishUse u
    | none => s

end State

/-! ### Instructions that act once for their group (R354, R355) -/

/-- TILE_STALE and TILE_SHAPE traps (R355). -/
def staleTrap (tm : Team) (h : Nat) (st : HandleState) (lane : Nat) : Trap := { cause := Cause.tileStale, info := State.staleInfo tm h st, lane := lane }
def shapeTrap (reason : Nat) (h : Option Nat) (word : W32) (lane : Nat) : Trap := { cause := Cause.tileShape, info := State.shapeInfo reason h word, lane := lane }

/-- What a tile instruction is given: its team, its participating lanes (the lowest first), its active threads, the handle it
names. -/
structure TileCtx where
  tm   : Team
  low  : Lane
  part : List Lane
  act  : List Thread
  h    : Nat
  hs   : Handle

namespace TileCtx
def refs (c : TileCtx) : List TRef := c.part.map (·.t.ref)
def core (c : TileCtx) : CoreId := c.low.t.ref.core
def lane (c : TileCtx) : Nat := c.low.t.lane
/-- The instruction holds its handle (R359). -/
def holds (c : TileCtx) : Bool := State.heldBy c.hs.state c.refs
def stale (c : TileCtx) : Trap := staleTrap c.tm c.h c.hs.state c.lane
end TileCtx

namespace State

/-- The issue of a tile instruction that names a handle: without a participating lane it does nothing (R354). -/
def tileOp (s : State) (op : Nat) (x : Fields) (h : Nat) (f : TileCtx → State) : State :=
  s.issueThen op x fun tm sp act =>
    match (act.filter fun t => t.guardTrue x.guard).map (laneOf s sp x []) with
    | [] => s.advance act x.form.length
    | l :: ls => f ⟨tm, l, l :: ls, act, h, (State.handlesOf tm l.t.ref.core).getD h ⟨.empty, 0⟩⟩

/-- A tile instruction without a use: its slot is released after its cycles (R378). -/
def tileDone (s : State) (c : TileCtx) (x : Fields) (lat : Nat) (lanes : List ResultLane) : State :=
  let op := s.clk.nextId
  let s := (s.count c.refs x.set.toNat).openWindows c.refs x.la.toNat op x.d.toNat (if lanes.isEmpty then 0 else 1)
  (s.addLater op (passLatency c.tm lat 1) x.set.toNat c.low.t.handler c.refs lanes none []).advance c.act x.form.length

/-- The tile bound to a handle. -/
def tileOf (s : State) (c : TileCtx) : Option Tile := (s.tileSlot c.core.die c.core.site c.hs.slot).map (·.tile)

/-- A use of the handle's slot by the instruction, and the instruction's issue. -/
def useTile (s : State) (c : TileCtx) (x : Fields) (kind : UseKind) (cycles : Nat) (writes : Bool) (dst : Nat) : Nat × State :=
  let (op, s) := s.fresh
  let (id, s) := s.fresh
  let u : TileUse := ⟨id, op, c.core, c.tm.ctx, some c.low.t.group, c.tm.id, c.low.t.pc, x.set.toNat, c.low.t.handler, c.core.die, c.core.site,
    c.hs.slot, kind, c.refs, cycles, false⟩
  let s := (s.count c.refs x.set.toNat).openWindows c.refs x.la.toNat op x.d.toNat dst
  (id, (s.addUse u writes).advance c.act x.form.length)

end State

/-! ### Allocation and hand-over (R362 to R365) -/

/-- A free slot of the team's pool in a cluster (R357). -/
def freePoolSlot (s : State) (team : Nat) (c : CoreId) : Option TileSlot :=
  leastBy (·.slot) (s.tile.slots.filter fun t => t.die == c.die && t.site == c.site && t.owner == .pool team && !t.bound && !t.drains)

/-- TALLOC (R362): without a free slot of the pool its group is not ready. -/
def execTalloc (x : Fields) (s : State) : Host.Outcome State Fault Refusal :=
  .next (s.tileOp 0x60 x x.d.toNat fun c =>
    let word : W32 := c.low.b.setWidth 32
    if c.hs.state ≠ .empty then s.trapGroup c.stale
    else match tileOfShape word with
      | none => s.trapGroup (shapeTrap 1 (some c.h) word c.lane)
      | some t =>
        match freePoolSlot s c.tm.id c.core with
        | none => s
        | some k =>
          let s := s.updTileSlot c.core.die c.core.site k.slot fun q => { q with bound := true, tile := t }
          let s := s.updHandle c.tm.id c.core c.h fun _ => ⟨.held c.core c.low.t.ref.slot, k.slot⟩
          (s.cleanTile c.core.die c.core.site k.slot [(0, 16384)]).tileDone c x 12 [])

/-- TFREE (R363). -/
def execTfree (x : Fields) (s : State) : Host.Outcome State Fault Refusal :=
  .next (s.tileOp 0x61 x x.a.toNat fun c =>
    if !c.holds then s.trapGroup c.stale
    else ((s.drainSlot c.core.die c.core.site c.hs.slot).updHandle c.tm.id c.core c.h fun k => { k with state := .empty }).tileDone c x 12 [])

/-- The other core of a core's pair (R364). -/
def pairMate (tm : Team) (c : CoreId) : Option CoreId :=
  (tm.parts.find? fun p => p.core.die == c.die && p.core.site == c.site && p.core != c).map (·.core)

/-- The receiver that a word of TGIVE names: a thread of the team that has not ended (R364). -/
def receiver (s : State) (tm : Team) (c : CoreId) (w : W32) : Option TRef :=
  if natField w.toNat 12 20 ≠ 0 then none
  else
    let core := if w.getLsbD 11 then pairMate tm c else some c
    core.bind fun k =>
      let t : TRef := ⟨k, tm.ctx, natField w.toNat 0 11⟩
      match s.thread t with
      | some h => if h.team == tm.id && !h.exited then some t else none
      | none => none

/-- TGIVE (R364). -/
def execTgive (x : Fields) (s : State) : Host.Outcome State Fault Refusal :=
  .next (s.tileOp 0x62 x x.a.toNat fun c =>
    let word : W32 := c.low.b.setWidth 32
    if !c.holds then s.trapGroup c.stale
    else match receiver s c.tm c.core word with
      | none => s.trapGroup (shapeTrap 6 (some c.h) word c.lane)
      | some t => (s.updHandle c.tm.id c.core c.h fun k => { k with state := .given t.core t.slot }).tileDone c x 12 [])

/-- The thread of a list to which a handle is given. -/
def givenAmong (st : HandleState) (ts : List TRef) : Option TRef := match st with
  | .given c k => ts.find? fun t => t.core == c && t.slot == k
  | _ => none

/-- TTAKE (R365). -/
def execTtake (x : Fields) (s : State) : Host.Outcome State Fault Refusal :=
  .next (s.tileOp 0x63 x x.a.toNat fun c =>
    let word : W32 := c.low.b.setWidth 32
    let given := givenAmong c.hs.state c.refs
    if given.isNone && !(word.getLsbD 0) then s.trapGroup c.stale
    else if natField word.toNat 1 31 ≠ 0 then s.trapGroup (shapeTrap 8 (some c.h) word c.lane)
    else match given with
      | some t => (s.updHandle c.tm.id c.core c.h fun k => { k with state := .held t.core t.slot }).tileDone c x 12 []
      | none =>
        let (id, s) := (s.count c.refs x.set.toNat).newResult s.clk.nextId x.set.toNat c.low.t.handler c.refs [] none []
        let s := s.updThreads c.refs fun h => { h with status := .waiting (.handle c.h id) }
        s.advance (c.act.filter fun t => !(c.refs.contains t.ref)) x.form.length)

/-- The handle that a waiting TTAKE of a thread may take now: its number and the waiting result. -/
def takeable (s : State) (t : TRef) : Option (Nat × Nat × Nat) :=
  match s.thread t with
  | none => none
  | some h => match h.status, s.team h.team with
    | .waiting (.handle n res), some tm =>
      match ((State.handlesOf tm t.core)[n]?).map fun (k : Handle) => k.state with
      | some (.given c k) => if c == t.core && k == t.slot then some (tm.id, n, res) else none
      | _ => none
    | _, _ => none

/-- TTAKE_GRANT (R365): the handle is given to a waiting thread, which takes it; the threads of its TTAKE resume (DEDUCED, assumption 52). -/
def execTtakeGrant (t : TRef) (s : State) : Host.Outcome State Fault Refusal :=
  .next (match takeable s t with
    | none => s
    | some (team, n, res) =>
      let mates := (s.threads.filter fun h => h.status == .waiting (.handle n res)).map (·.ref)
      ((s.updHandle team t.core n fun k => { k with state := .held t.core t.slot }).wake mates).afterExactly 0 (.longLatencyResult res))

/-- TILE_SLOT_DRAIN (R357): a released slot without a use goes back: to the pool of its team, to the tile store's free slots,
or to the Kiln. -/
def execTileSlotDrain (die site slot : Nat) (s : State) : Host.Outcome State Fault Refusal :=
  .next (match s.tileSlot die site slot with
    | none => s
    | some t =>
      if !t.drains || !t.uses.isEmpty then s
      else
        let back := match t.owner with
          | .pool team => (s.team team).isSome
          | .hidden _ _ _ => true
          | _ => false
        if back then s.updTileSlot die site slot fun k => { k with drains := false, bound := false }
        else { s with tile := { s.tile with slots := s.tile.slots.filter fun k => !(k.die == die && k.site == site && k.slot == slot) } })

/-! ### Tile images (R367) -/

namespace State

/-- The requests for the 16-byte units of an image: every participating thread has a part in each. -/
def imageRequests (c : TileCtx) (x : Fields) (op : Nat) (kind : ReqKind) (va ia size : Nat) : List Request :=
  let base := requestOf c.tm c.low.t x op kind
  (List.range (ceilDiv size 16)).map fun k =>
    let n := min 16 (size - 16 * k)
    let others := c.refs.drop 1
    { base with ia := ia + 16 * k, va := va + 16 * k, route := routeOf (ia + 16 * k)
                parts := ⟨c.low.t.ref, 0, n, 16 * k, [], [], []⟩ :: others.map fun t => ⟨t, 0, 0, 0, [], [], []⟩ }

/-- TLD and TST: checks, then one use of the tile slot. Private copies of a global image's lines leave the L1 first (R148). -/
def imageOp (s : State) (op : Nat) (x : Fields) (store : Bool) : State :=
  s.tileOp op x x.d.toNat fun c =>
    match s.tileOf c with
    | none => s.trapGroup c.stale
    | some t =>
      let need : Need := if store then .write else .read
      if !c.holds then s.trapGroup c.stale
      else if x.ty ≠ t.et then s.trapGroup (shapeTrap 2 (some c.h) 0 c.lane)
      else if x.xop.getLsbD 0 then
        let o := natField c.low.a.toNat 0 32 + disp32 x
        let w := wrapTo 32 o
        let check : Check Nat :=
          if w % 16 ≠ 0 then fails 4 Cause.align w c.lane
          else match s.plotOf c.tm.id c.core with
            | none => if c.tm.header.plot = 0 then fails 5 Cause.plotBounds w c.lane else fails 5 Cause.plotOwner w c.lane
            | some p =>
              if store && writerRefuses s p c.tm.id w t.size then fails 5 Cause.windowWriter w c.lane
              else if o ≠ w ∨ p.size < w + t.size then fails 5 Cause.plotBounds w c.lane
              else .ok w
        match firstFail [check] with
        | some e => s.trapGroup e
        | none =>
          let cycles := passLatency c.tm (12 + ceilDiv t.size 128) 1
          if !store && poisonedPlot s c.tm.id c.core w t.size then s.killContext c.tm.ctx Cause.uncorrected 0 c.core
          else if store then ((s.useTile c x (.storePlot w) cycles false 0).2).beginUses
          else ((s.useTile c x (.loadPlot (plotBytes s c.tm.id c.core w t.size)) cycles true 0).2).beginUses
      else
        let va := globalVa x c.low.a
        match globalCheck (ctxOf s c.tm) need t.size 16 va c.lane with
        | .error e => s.trapGroup e.2
        | .ok (ia, _) =>
          let s := (List.range (ceilDiv (ia % 128 + t.size) 128)).foldl (fun s k => s.expelPrivate c.core c.tm.ctx (lineOf ia + 128 * k)) s
          let opn := s.clk.nextId
          let (id, s) := s.useTile c x (if store then .storeGlobal else .loadGlobal) (passLatency c.tm 0 1) (!store) 0
          let rs := imageRequests c x opn (if store then .tileStore id else .tileLoad id) va ia t.size
          (s.sendAll rs).beginUses

end State

/-- TLD (R367). -/
def execTld (x : Fields) (s : State) : Host.Outcome State Fault Refusal := .next (s.imageOp 0x64 x false)

/-- TST (R367). -/
def execTst (x : Fields) (s : State) : Host.Outcome State Fault Refusal := .next (s.imageOp 0x65 x true)

/-! ### Fragments (R368) -/

namespace State

/-- TLDV and TSTV: each lane's coordinate word is checked. -/
def fragmentOp (s : State) (op : Nat) (x : Fields) (h : Nat) (writes : Bool) (kind : List Lane → UseKind) : State :=
  s.tileOp op x h fun c =>
    match s.tileOf c with
    | none => s.trapGroup c.stale
    | some t =>
      if !c.holds then s.trapGroup c.stale
      else if x.ty ≠ t.et then s.trapGroup (shapeTrap 2 (some c.h) 0 c.lane)
      else match c.part.find? fun l => (coordinate t (l.b.setWidth 32)).isNone with
        | some l => s.trapGroup (shapeTrap 3 (some c.h) (l.b.setWidth 32) l.t.lane)
        | none => ((s.useTile c x (kind c.part) (passLatency c.tm 16 1) writes (if writes then 0 else 1)).2).beginUses

end State

/-- TLDV (R368). -/
def execTldv (x : Fields) (s : State) : Host.Outcome State Fault Refusal :=
  .next (s.fragmentOp 0x66 x x.a.toNat false fun ls => .readFragments x.d.toNat (ls.map fun l => (l.t.ref, l.b.setWidth 32)))

/-- TSTV (R368): of lanes that name one element the highest-numbered writes last. -/
def execTstv (x : Fields) (s : State) : Host.Outcome State Fault Refusal :=
  .next (s.fragmentOp 0x67 x x.d.toNat true fun ls => .writeFragments (ls.map fun l => (l.t.ref, l.b.setWidth 32, l.a.setWidth 32)))

/-! ### TSTAT (R376) -/

/-- The state word of a handle. -/
def handleWord (s : State) (tm : Team) (c : CoreId) (h : Handle) : W32 :=
  let busy := match s.tileSlot c.die c.site h.slot with
    | some t => h.state != .empty && !t.uses.isEmpty
    | none => false
  BitVec.ofNat 32 (match h.state with
    | .empty => 0
    | .held k n => 1 + boolNat busy * 4 + n * 8 + boolNat (State.isUpper tm k) * 2 ^ 14
    | .given k n => 2 + boolNat busy * 4 + n * 8 + boolNat (State.isUpper tm k) * 2 ^ 14)

/-- TSTAT. -/
def execTstat (x : Fields) (s : State) : Host.Outcome State Fault Refusal :=
  .next (s.tileOp 0x6A x x.a.toNat fun c =>
    s.tileDone c x 8 (c.refs.map fun t => ⟨t, x.d.toNat, [handleWord s c.tm c.core c.hs], none, 0⟩))

end Sys2Proof.Machine
end

