-- ==== Sys2Proof/Machine/Matrix.lean ====
section
/-! DEFINITION. The matrix engine: MMA, MMA.sign and MACC, the reservation table, tile passes and the wide accumulators
(spec/20_isa_tile.md R369 to R375; spec/05_scheduling.md R80 to R86; spec/07_numbers.md R100 to R103). -/

namespace Sys2Proof.Machine

/-! ### The wide accumulator (R100 to R103) -/

/-- A cleared element (DESIGN CHOICE, assumption 76). -/
def Acc.zero : Acc := ⟨0, false, false, 0⟩

/-- The value of an operand element times 2^24; none for NaV, NaN and infinities (R101, R102). -/
def scaledElement (et : Ty) (bits : Nat) : Option Int :=
  let at24 := fun (v : Frac) => v.num * 2 ^ 24 / v.den
  match et with
  | .g8 | .g6 => match Grit.decode et.bits bits with
    | .nav => none
    | g => some (at24 (gritValue et.bits g))
  | _ => match Fp.decode .binary16 bits with
    | .num n m e => some (at24 (Frac.scaled n m e))
    | _ => none

/-- Add the products of one pass to an element (R101, R102, R372). -/
def Acc.addProducts (a : Acc) (ps : List (Option Int × Option Int)) : Acc :=
  let n := a.count + ps.length
  let sum := ps.foldl (fun (w : Int) p => match p with
    | (some x, some y) => w + x * y * 2 ^ 16
    | _ => w) a.w.toInt
  ⟨BitVec.ofInt 128 sum, a.nav || ps.any fun p => p.1.isNone || p.2.isNone, a.ov || decide (2 ^ 31 < n), n⟩

/-- The read-out of an element to target 0 .f32, 1 .f16, 2 .g8, 3 .li32 (R103). -/
def Acc.readOut (a : Acc) (target : Nat) (rnd : Rnd) : Rounded :=
  let v : Frac := ⟨a.w.toInt, 2 ^ 64⟩
  match target with
  | 0 => if a.ov || a.nav then ⟨Fmt.binary32.nan, Flag.nv⟩ else roundFrac .binary32 rnd false v
  | 1 => if a.ov || a.nav then ⟨Fmt.binary16.nan, Flag.nv⟩ else roundFrac .binary16 rnd false v
  | 2 => if a.ov then ⟨gritNav 8, Flag.nv⟩ else if a.nav then ⟨gritNav 8, 0⟩ else gritRound 8 rnd v
  | _ =>
    if a.ov || a.nav then ⟨Li.nav.encode 27, Flag.when a.ov Flag.nv⟩
    else
      let r := liOfFp 27 (.num (decide (a.w.toInt < 0)) a.w.toInt.natAbs (-64))
      ⟨r.bits, r.flags⟩

namespace State

/-- An element of a context's accumulator bank. -/
def accElement (s : State) (ctx die site e : Nat) : Acc :=
  match s.tile.banks.find? fun b => b.ctx == ctx && b.die == die && b.site == site with
  | some b => assocGet Acc.zero e b.elems
  | none => Acc.zero

/-- Replace an element; a cleared one is not listed. -/
def setAccElement (s : State) (ctx die site e : Nat) (a : Acc) : State :=
  let here := fun (b : AccBank) => b.ctx == ctx && b.die == die && b.site == site
  let put := fun (l : List (Nat × Acc)) => if a = Acc.zero then l.filter fun p => p.1 != e else assocSet e a l
  if s.tile.banks.any here then { s with tile := { s.tile with banks := mapIf here (fun b => { b with elems := put b.elems }) s.tile.banks } }
  else { s with tile := { s.tile with banks := s.tile.banks ++ [⟨ctx, die, site, put []⟩] } }

/-! ### Power permits (R84 to R86) -/

/-- Ask the steward of a die for a permit: first in, first out, and by ascending cluster site within a tick, die-level units
after the clusters (site 64). -/
def askPermit (s : State) (die : Nat) (who : Asker) (cost site : Nat) (realTime : Bool) : State :=
  let r : PermitReq := ⟨who, cost, site, false, s.tick⟩
  let key := fun (q : PermitReq) => q.tick * 128 + q.site
  s.updSteward die fun w => if realTime then { w with rt := insertBy key r w.rt } else { w with other := insertBy key r w.other }

/-! ### Reading an accumulator (R375) -/

/-- The accepted operations of a context in a cluster that cover an element and have not completed; an entry counts as accepted from 8
cycles after the vote (R378). -/
def covering (s : State) (ctx die site e : Nat) : List Nat :=
  let covers := fun (o : MmaOp) =>
    let r := natField o.format.toNat 0 6
    let c := natField o.format.toNat 6 6
    let tileAt := fun (k : Nat) => (s.tileSlot o.die o.site k).map (·.tile)
    match tileAt o.slotA, tileAt o.slotB with
    | some a, some b =>
      let ((m, _), (_, n)) := mmaDims o.format a b
      decide (r ≤ e / 64 ∧ e / 64 < r + m ∧ c ≤ e % 64 ∧ e % 64 < c + n)
    | _, _ => false
  (s.tile.ops.filter fun o => o.ctx == ctx && o.die == die && o.site == site && o.entry.isSome && decide (o.voted + 8 ≤ s.clk.cycle) && covers o).map (·.id)

/-- An earlier MACC of the context has still to read the element. -/
def readBefore (s : State) (m : MaccOp) (e : Nat) : Bool :=
  (s.tile.maccs.takeWhile fun k => k.id != m.id).any fun k =>
    k.ctx == m.ctx && k.die == m.die && k.site == m.site && k.todo.any fun l => l.2.1 == e

/-- A MACC reads its lanes in ascending order, each when the operations it waits for have completed. -/
def maccLanes (s : State) (m : MaccOp) : List (TRef × Nat × List Nat) → State × MaccOp
  | [] => (s, { m with todo := [] })
  | (t, e, ops) :: rest =>
    if (ops.any fun o => s.tile.ops.any fun k => k.id == o) || s.readBefore m e then (s, { m with todo := (t, e, ops) :: rest })
    else
      let r := (s.accElement m.ctx m.die m.site e).readOut m.target m.rnd
      let s := if m.clr then s.setAccElement m.ctx m.die m.site e Acc.zero else s
      maccLanes s { m with todo := rest, done := m.done ++ [⟨t, m.reg, [BitVec.ofNat 32 r.bits], none, r.flags⟩] } rest

/-- Let a MACC read what it can; when it has read all, its results are due 10 cycles later (R378). -/
def maccRun (s : State) (m : MaccOp) : State :=
  let (s, m) := s.maccLanes m m.todo
  if m.todo.isEmpty then
    let s : State := { s with tile := { s.tile with maccs := s.tile.maccs.filter fun k => k.id != m.id } }
    s.addLater m.id (if m.wide then 11 else 10) m.set m.handler (m.done.map (·.t)) m.done none [] true
  else { s with tile := { s.tile with maccs := mapIf (fun k => k.id == m.id) (fun _ => m) s.tile.maccs } }

/-- Every MACC reads what it can, in the order they reached the engine. -/
def maccsRun (s : State) : State := s.tile.maccs.foldl (fun s m => s.maccRun m) s

/-! ### Operations and passes (R80, R81, R371 to R373) -/

/-- The number of passes of an operation (R373). -/
def passesOf (o : MmaOp) : Nat := ceilDiv o.kdim 16

/-- An operation whose next pass may be granted: accepted 8 cycles or more after its vote (R378), passes left, and the turns
of its two uses (R361). -/
def passReady (s : State) (o : MmaOp) : Bool :=
  let turn := fun (slot use : Nat) => ((s.tileSlot o.die o.site slot).map fun t => useTurn t use).getD false
  o.entry.isSome && decide (o.pass < passesOf o ∧ o.voted + 8 ≤ s.clk.cycle) && turn o.slotA o.useA && turn o.slotB o.useB

/-- The winner among a context's operations (R81). -/
def passWinner (os : List MmaOp) : Option MmaOp :=
  let entry := fun (o : MmaOp) => o.entry.getD 0
  match leastBy (fun o => o.saturated.getD 0 * 64 + entry o) (os.filter fun o => o.age == 255 && o.saturated.isSome) with
  | some o => some o
  | none => leastBy (fun o => (o.prio * 256 + (255 - o.age)) * 64 + entry o) os

/-- The operation that a grant goes to, with its context place: the places alternate while both hold entries (R81). -/
def nextPass (s : State) (die site : Nat) : Option (MmaOp × Nat) :=
  let g := s.engineOf die site
  let of := fun (p : Nat) => s.tile.ops.filter fun o => o.die == die && o.site == site && s.passReady o && g.places.getD p none == some o.ctx
  let first := if g.last = 0 then 1 else 0
  match passWinner (of first) with
  | some o => some (o, first)
  | none => (passWinner (of (1 - first))).map fun o => (o, 1 - first)

/-- After a grant: the other entries of the context that have passes left age, the granted one starts again at 0. -/
def ageEntries (s : State) (o : MmaOp) (grant : Nat) : State :=
  let older := fun (q : MmaOp) =>
    if q.id = o.id then { q with age := 0, saturated := none }
    else { q with age := min 255 (q.age + 1), saturated := if q.age = 254 then some grant else q.saturated }
  let mine := fun (q : MmaOp) => q.die == o.die && q.site == o.site && q.ctx == o.ctx && q.entry.isSome && decide (q.pass < passesOf q)
  { s with tile := { s.tile with ops := mapIf mine older s.tile.ops } }

/-- The elements of A and B that a pass multiplies, as scaled values: A(i, k) and B(k, j) for k from 16p (R372, R373). -/
def passOperands (o : MmaOp) (a b : Tile) : (Nat × Nat) × List (List (Option Int)) × List (List (Option Int)) :=
  let ((m, _), (_, n)) := mmaDims o.format a b
  let ks := (List.range 16).map (· + 16 * o.pass) |>.filter (· < o.kdim)
  let av := fun (i k : Nat) => scaledElement a.et (if o.format.getLsbD 12 then a.element k i else a.element i k)
  let bv := fun (k j : Nat) => scaledElement b.et (if o.format.getLsbD 13 then b.element j k else b.element k j)
  ((m, n), (List.range m).map (fun i => ks.map fun k => av i k), (List.range n).map (fun j => ks.map fun k => bv k j))

/-- The cycles of a pass (R373): a product is skipped when b is zero and column k of A holds only numbers. -/
def passCycles (o : MmaOp) (a b : Tile) : Nat :=
  let ((m, _), rows, cols) := passOperands o a b
  let clean := fun (k : Nat) => rows.all fun r => (r.getD k none).isSome
  let q := m * sumBy (fun (c : List (Option Int)) => (c.zipIdx.filter fun p => !(p.1 == some 0 && clean p.2)).length) cols
  let r := if a.et = .g6 ∧ b.et = .g6 then 16384 else if a.et = .f16 ∨ b.et = .f16 then 2048 else 8192
  max 1 (ceilDiv q r)

/-- Add a pass into the accumulator; the first pass clears under CLR (R372). -/
def addPass (s : State) (o : MmaOp) (a b : Tile) : State :=
  let ((m, n), rows, cols) := passOperands o a b
  let r0 := natField o.format.toNat 0 6
  let c0 := natField o.format.toNat 6 6
  (List.range m).foldl (fun s i => (List.range n).foldl (fun s j =>
    let e := 64 * (r0 + i) + (c0 + j)
    let old := if o.clr && o.pass == 0 then Acc.zero else s.accElement o.ctx o.die o.site e
    s.setAccElement o.ctx o.die o.site e (old.addProducts ((rows.getD i []).zip (cols.getD j [])))) s) s

/-- Where an operation's tiles are poisoned, its context dies (R349). -/
def mmaPoisoned (s : State) (o : MmaOp) : Bool :=
  [o.slotA, o.slotB].any fun k => ((s.tileSlot o.die o.site k).map fun t => s.poisonedTile o.die o.site k [(0, t.tile.size)]).getD false

/-- The permit of a granted pass has come (R86): it runs its cycles. -/
def beginPass (s : State) (die site : Nat) : State :=
  match (s.engineOf die site).granted with
  | none => s
  | some (id, _) =>
    match s.tile.ops.find? fun o => o.id == id with
    | none => s.updEngine die site fun g => { g with granted := none }
    | some o =>
      let s := s.updEngine die site fun g => { g with granted := some (id, true) }
      match s.tileSlot die site o.slotA, s.tileSlot die site o.slotB with
      | some a, some b =>
        if s.mmaPoisoned o then s.killContext o.ctx Cause.uncorrected 0 ⟨die, site, 0⟩
        else s.afterExactly (passCycles o a.tile b.tile) (.tilePassComplete die site)
      | _, _ => s

/-- An operation is over: its uses end, its voters' slots are released, and what waited for it goes on (R371). -/
def finishMma (s : State) (o : MmaOp) : State :=
  let s : State := { s with tile := { s.tile with ops := s.tile.ops.filter fun q => q.id != o.id } }
  let drop := fun (t : TileSlot) => { t with uses := t.uses.filter fun u => u.1 != o.useA && u.1 != o.useB }
  let s := (s.updTileSlot o.die o.site o.slotA drop).updTileSlot o.die o.site o.slotB drop
  let s := o.voters.foldl (fun s v => s.release [v.1] v.2.2 v.2.1) s
  s.beginUses.maccsRun

end State

/-- TILE_PASS_GRANT (R81, R86): an engine without a pass grants one and asks for its permit. -/
def execTilePassGrant (die site : Nat) (s : State) : Host.Outcome State Fault Refusal :=
  .next (if (s.engineOf die site).granted.isSome then s
    else match s.nextPass die site with
      | none => s
      | some (o, p) =>
        let s := s.updEngine die site fun g => { g with granted := some (o.id, false), last := p, grants := g.grants + 1 }
        (s.ageEntries o (s.engineOf die site).grants).askPermit die (.pass die site) 16 site o.realTime)

/-- TILE_PASS_COMPLETE (R372, R373): the pass's products are in the accumulator. The last pass leaves the table, and its
results are readable 6 cycles later (DESIGN CHOICE, assumption 51). -/
def execTilePassComplete (die site : Nat) (s : State) : Host.Outcome State Fault Refusal :=
  .next (match (s.engineOf die site).granted with
    | some (id, true) =>
      let s := s.updEngine die site fun g => { g with granted := none }
      match s.tile.ops.find? fun o => o.id == id with
      | none => s
      | some o =>
        let s := match s.tileSlot die site o.slotA, s.tileSlot die site o.slotB with
          | some a, some b => s.addPass o a.tile b.tile
          | _, _ => s
        let last := decide (State.passesOf o ≤ o.pass + 1)
        let next := fun (q : MmaOp) => { q with pass := q.pass + 1, entry := if last then some 32 else q.entry }
        let s : State := { s with tile := { s.tile with ops := mapIf (fun q => q.id == id) next s.tile.ops } }
        if last then s.afterExactly 6 (.longLatencyResult id) else s
    | _ => s)

/-- MMA_ACCEPT (R371): an operation that passed its checks takes an entry; a signed one is accepted no sooner than 8 cycles
after its vote (R378). -/
def execMmaAccept (op : Nat) (s : State) : Host.Outcome State Fault Refusal :=
  .next (if s.tile.ops.any fun o => o.id == op && decide (o.voted + 8 ≤ s.clk.cycle) then s.acceptMma op else s)

/-- The vote of a lane (R374). -/
def voteOf (x : Fields) (s : State) (t : Thread) : Vote :=
  ⟨(readOpd s t (.regs 1) x.d).setWidth 32, x.a.toNat % 32, x.b.toNat % 32, x.xop.getLsbD 0, x.set.toNat, t.handler⟩

/-- An MMA that passes its checks finds no entry for its context, so that its group is not ready (R80, R371). -/
def mmaWaits (s : State) (tm : Team) (x : Fields) (act : List Thread) : Bool :=
  match act.filter fun t => t.guardTrue x.guard with
  | [] => false
  | h :: hs => (s.mmaCheck tm ((h :: hs).map fun t => (t.ref, voteOf x s t))).isOk && (s.freeEntry h.ref.core.die h.ref.core.site tm.ctx).isNone

/-- The trap of an MMA of one group: a failing tile is reported for its lowest participating lane, a diverging vote for the voter
(R331, R374). -/
def mmaTrap (t : Trap) (h : Thread) : Trap := if t.cause = Cause.formatDivergence then t else { t with lane := h.lane, thread := some h.ref }

/-- MMA (R371): the group's lanes vote. Without an entry for its context the group is not ready; with one it is ready again when its
operation is accepted, 8 cycles after the vote (R378; DEDUCED, assumption 102). -/
def execMma (x : Fields) (s : State) : Host.Outcome State Fault Refusal :=
  .next (s.issueThen 0x68 x fun tm _ act =>
    let part := act.filter fun t => t.guardTrue x.guard
    match part with
    | [] => s.advance act x.form.length
    | h :: _ =>
      match s.mmaCheck tm (part.map fun t => (t.ref, voteOf x s t)) with
      | .error t => s.trapGroup (mmaTrap t h)
      | .ok r =>
        if (s.freeEntry h.ref.core.die h.ref.core.site tm.ctx).isNone then s
        else
          let s := s.count (part.map (·.ref)) x.set.toNat
          let (s, id) := s.newMma tm (part.map fun t => (t.ref, voteOf x s t)) (some h.gref) none r
          ((s.acceptMma id).advance act x.form.length).delayIssue h.gref 8)

namespace State

/-- An MMA.sign arrives at the holding core (R36, R53). -/
def mmaSignArrives (s : State) (tm : Team) (a : Arrival) : State :=
  let n := a.x.c.toNat % 16
  let all := s.alive (a.threads.map (·.1))
  let votes := (a.threads.filter fun p => p.2.1 && all.contains p.1).filterMap fun p =>
    (s.thread p.1).map fun h => (p.1, some { voteOf a.x s h with format := p.2.2 })
  let part := votes.map (·.1)
  match (s.count part a.x.set.toNat).convergeEvent tm n true votes with
  | .error bad => s.answerEvent tm a 1 (s.laneOfRef bad) all
  | .ok s' => s'.answerEvent tm a 0 0 (all.filter fun t => !(part.contains t))

end State

/-- MMA.sign (R53, R371): the participating threads sign, and the last signature attempts the operation. -/
def execMmaSign (x : Fields) (s : State) : Host.Outcome State Fault Refusal :=
  .next (s.issueThen 0x68 x fun tm _ act =>
    let part := act.filter fun t => t.guardTrue x.guard
    let rest := act.filter fun t => !(t.guardTrue x.guard)
    let n := x.c.toNat % 16
    match part with
    | [] => s.advance act x.form.length
    | h :: _ =>
      if State.observes tm h then (s.advance rest x.form.length).cancelExit (part.map (·.ref))
      else if holdTransit tm h.ref.core ≠ 0 then s.sendEvent tm 0x68 x act fun t => (voteOf x s t).format
      else match (s.count (part.map (·.ref)) x.set.toNat).convergeEvent tm n true (part.map fun t => (t.ref, some (voteOf x s t))) with
        | .error bad => s.trapGroup (misuseTrap 0x68 n (s.laneOfRef bad))
        | .ok s' => s'.advance rest x.form.length)

/-- MACC (R375): each lane's element word is checked; the lanes are read as the operations they wait for complete. -/
def execMacc (x : Fields) (s : State) : Host.Outcome State Fault Refusal :=
  .next (s.issueThen 0x69 x fun tm sp act =>
    let part := (act.filter fun t => t.guardTrue x.guard).map (laneOf s sp x [])
    match part with
    | [] => s.advance act x.form.length
    | l :: _ =>
      match part.find? fun k => natField k.a.toNat 12 20 ≠ 0 with
      | some k => s.trapGroup (shapeTrap 7 none (k.a.setWidth 32) k.t.lane)
      | none =>
        let c := l.t.ref.core
        let refs := part.map (·.t.ref)
        let (id, s) := s.fresh
        let m : MaccOp := ⟨id, tm.ctx, c.die, c.site, x.d.toNat, OpTable.xf x 0 2, x.rnd, x.xop.getLsbD 2, x.set.toNat, l.t.handler,
          tm.header.width == 64, part.map fun k => (k.t.ref, natField k.a.toNat 0 12, s.covering tm.ctx c.die c.site (natField k.a.toNat 0 12)), []⟩
        let s := ((s.count refs x.set.toNat).openWindows refs x.la.toNat id x.d.toNat 1).advance act x.form.length
        let s : State := { s with tile := { s.tile with maccs := s.tile.maccs ++ [m] } }
        s.maccRun m)

end Sys2Proof.Machine
end

