-- ==== Sys2Proof/Machine/Boot.lean ====
section
/-! DEFINITION. Resets and the boot sequence (spec/26_system.md R435 to R441): POWER_ON_RESET and RESET_GO, and the reset
that TSHUT makes. -/

namespace Sys2Proof.Machine

/-! ### The boot sequence (R436 to R438) -/

/-- Bits set in a bitmap of 36. -/
def bitsSet (w : W64) : Nat := ((List.range 36).filter fun k => w.getLsbD k).length

/-- The checks of a configuration record at step 3 (R438). -/
def ConfigRecord.acceptable (r : ConfigRecord) : Bool :=
  r.reservedZero && r.magic == 0x4B4E0C0F#32 && r.arithMhz == 2900 && decide (r.dieW0 + r.dieW1 + 110 ≤ 500) && r.clusen.all fun c => decide (bitsSet c ≤ 32)

/-- The step of 1 to 3 at which a copy of the boot flash fails, or 0. -/
def FlashCopy.failsAt (f : FlashCopy) : Nat :=
  if !f.headerOk then 1
  else if !(Config.signatureVerifies f.image f.sig) then 2
  else if !(Config.recordVerifies f.image f.record.bytes f.record.sig && f.record.acceptable) then 3
  else 0

/-- The package after one pass of the sequence, for a reset with cause `lastRst`: `second` says that a pass has already
failed at steps 4 to 8. -/
def bootPass (p : Package) (lastRst failStep : Nat) (second : Bool) : Package ⊕ Nat :=
  let a := p.flashA.failsAt
  let b := p.flashB.failsAt
  let dead := fun (step : Nat) => Package.booted p.flashA p.flashB (a != 0) lastRst step (p.bootFaults.drop 1) (step - 1)
  if a ≠ 0 ∧ b ≠ 0 then .inl (dead b)
  else
    let fail := if a ≠ 0 then a else failStep
    match p.bootFaults.head? with
    | some k =>
      if 4 ≤ k ∧ k ≤ 8 then (if second then .inl (dead k) else .inr k)
      else .inl (Package.booted p.flashA p.flashB (a != 0) lastRst fail (p.bootFaults.drop 1))
    | none => .inl (Package.booted p.flashA p.flashB (a != 0) lastRst fail [])

/-- The boot of a reset: a first failure at steps 4 to 8 resets the module once, with LASTRST = 3 (R437). -/
def bootPackage (p : Package) (lastRst failStep : Nat) : Package :=
  match bootPass p lastRst failStep false with
  | .inl q => q
  | .inr k => match bootPass { p with bootFaults := p.bootFaults.drop 1 } 3 k true with
    | .inl q => q
    | .inr _ => p

namespace State

/-- The entries of the logs in module memory, each 16-byte unit with its physical address, which a migration of its page may have
moved (R133, R445). -/
def logCells (s : State) : List (Nat × List Byte) :=
  (s.ctxs.filter fun c => c.ctl.getLsbD 5).flatMap fun c => (List.range c.logHead).filterMap fun k =>
    let ia := c.logBase.toNat + 16 * k
    if inModule ia then (s.mappedTo ia).map fun pa => (s.redirect pa ia, s.readMem (s.redirect pa ia) 16) else none

/-- A reset with a cause (R435): every register and SRAM, and module memory, at its reset value. What the outside world does
next and has seen stays. Logs hold their entries where TSHUT makes the reset (R448). -/
def reboot (s : State) (lastRst : Nat) : State :=
  let q := bootPackage s.pkg lastRst (if lastRst = 0 then 0 else s.pkg.failStep)
  let t := State.booted { q with out := s.pkg.out }
  let t := { t with clk := { t.clk with agenda := s.clk.agenda, free := s.clk.free, nextId := s.clk.nextId } }
  if lastRst = 2 then s.logCells.foldl (fun t p => t.writeMem p.1 p.2) t else t

end State

/-- POWER_ON_RESET (R435). -/
def execPowerOnReset (s : State) : Host.Outcome State Fault Refusal := .next (s.reboot 0)

/-- RESET_GO (R435): an application core writes 1 to RESET.GO. -/
def execResetGo (s : State) : Host.Outcome State Fault Refusal := .next (s.reboot 1)

/-- TSHUT (R444): a die's temperature has reached TSHUT. -/
def execTshut (die : Nat) (s : State) : Host.Outcome State Fault Refusal :=
  .next (if die < Config.dies then s.reboot 2 else s)

end Sys2Proof.Machine
end

