-- ==== Sys2Proof/Machine/Aperture.lean ====
section
/-! DEFINITION. Reading the registers of the device aperture and the Silt, and performing reads and writes of engines and
hosts at the homes (spec/24_fabric.md R413, R414, R422, R430 to R432; spec/22_render.md R381, R392; spec/26_system.md R437,
R442, R444, R445; spec/16_isa_control.md R318 to R320; spec/09_memory.md R132). -/

namespace Sys2Proof.Machine

/-! ### Masks of writable bits -/

/-- The bits h to l of a register. -/
def maskBits (h l : Nat) : W64 := BitVec.ofNat 64 (2 ^ (h + 1) - 2 ^ l)

def rangeMask : Nat → W64
  | 2 => maskBits 51 16 ||| maskBits 11 9 ||| maskBits 4 0
  | _ => maskBits 55 16

/-- A word of a three-word register. -/
def word3 (r : W64 × W64 × W64) : Nat → W64
  | 0 => r.1
  | 1 => r.2.1
  | _ => r.2.2

def setWord3 (r : W64 × W64 × W64) (k : Nat) (v : W64) : W64 × W64 × W64 :=
  match k with
  | 0 => (v, r.2.1, r.2.2)
  | 1 => (r.1, v, r.2.2)
  | _ => (r.1, r.2.1, v)

namespace State

/-! ### Supervisor registers (R319) -/

/-- A supervisor register of a context or the package, by its number. -/
def supRead (s : State) (ctx n : Nat) : Option W64 :=
  match s.ctx ctx with
  | none => none
  | some c =>
    if n = 0x100 then some (c.ctl.setWidth 64)
    else if 0x110 ≤ n ∧ n < 0x128 then some (word3 (c.ranges.getD ((n - 0x110) / 3) (0, 0, 0)) ((n - 0x110) % 3))
    else match n with
      | 0x130 => some c.priv
      | 0x131 => some c.cwtbase
      | 0x132 => some c.save
      | 0x140 => some (BitVec.ofNat 64 s.pkg.xcost)
      | _ => none

/-- A supervisor register of a memory die, by its number (R125, R132). -/
def memDieRead (s : State) (k n : Nat) : Option W64 :=
  match s.memDie k with
  | none => none
  | some d => match n with
    | 0x200 => some d.systab
    | 0x201 => some d.migPage
    | 0x202 => some d.migFrame
    | 0x203 => some (BitVec.ofNat 64 (d.status * 2 ^ 8 + boolNat d.busy * 2))
    | 0x204 => some (BitVec.ofNat 64 d.bound)
    | 0x205 => some (BitVec.ofNat 64 (d.frames.length * 2 ^ 60 + boolNat d.promEn))
    | 0x206 => some d.promLog
    | 0x207 => some (BitVec.ofNat 64 (d.promHead % 512))
    | _ => none

/-! ### The other blocks -/

/-- QSTAT (R66). -/
def qstat (c : Context) : W64 := BitVec.ofNat 64 (c.rejects % 2 ^ 16 * 2 ^ 48 + c.lastCode * 2 ^ 40 + c.late % 2 ^ 16 * 2 ^ 16 + c.queue.length)

/-- A register of the render block of a die, by its offset (R381); unlisted offsets read zero. -/
def renderRead (r : Render) (o : Nat) : W64 :=
  if 0x80 ≤ o ∧ o < 0x100 then
    match r.snaps[(o - 0x80) / 32]?, (o - 0x80) % 32 with
    | some n, 0 => n.1
    | some n, 8 => n.2.1
    | some n, 16 => BitVec.ofNat 64 (n.2.2.2 * 2 ^ 32 + n.2.2.1)
    | _, _ => 0
  else if 0x1000 ≤ o ∧ o < 0x5000 then
    let e := o - 0x1000
    if e % 32 < 24 then word3 (assocGet (0, 0, 0) (e / 512, e % 512 / 32) r.hwins) (e % 32 / 8) else 0
  else match o with
    | 0x00 => r.view
    | 0x08 => r.sweep.setWidth 64
    | 0x10 => r.ovl
    | 0x18 => r.kctl
    | 0x20 => r.knode
    | 0x28 => r.kdesc
    | 0x30 => r.kfb
    | 0x38 => r.khalo
    | 0x40 => r.krec
    | 0x48 => r.kclus
    | 0x50 => r.miss
    | _ => 0

/-- BOOTSTAT (R437). -/
def bootStat (p : Package) : W64 := BitVec.ofNat 64 (p.lastRst * 2 ^ 8 + p.failStep * 2 ^ 4 + boolNat p.copyB * 2 + boolNat p.done)

/-- THERMd (R444). -/
def therm (w : Steward) : W64 := BitVec.ofNat 64 (w.refused.toNat * 2 ^ 32 + w.temp % 256 * 2 ^ 8 + w.level)

/-- A register of the package block, by its offset (R432). -/
def packageRead (s : State) (o : Nat) : W64 :=
  let p := s.pkg
  if 0x200 ≤ o ∧ o < 0x600 then (if (o - 0x200) % 0x200 / 8 < 36 then (s.coreen ((o - 0x200) / 0x200) ((o - 0x200) % 0x200 / 8)).setWidth 64 else 0)
  else if 0x800 ≤ o ∧ o < 0xA00 then
    let port := (o - 0x800) / 0x100
    let e := (o - 0x800) % 0x100
    if e = 0 then BitVec.ofNat 64 (boolNat (p.ewUp.getD port false) * 2 ^ 63 + boolNat (p.ewEn.getD port false))
    else if 0x20 ≤ e ∧ e < 0xA0 ∧ e % 0x20 < 24 then word3 (assocGet (0, 0, 0) (port, (e - 0x20) / 0x20) p.ewWin) (e % 0x20 / 8) else 0
  else if 0xA00 ≤ o ∧ o < 0xB00 then (if o % 0x20 < 24 then word3 (assocGet (0, 0, 0) ((o - 0xA00) / 0x20) p.dmaWin) (o % 0x20 / 8) else 0)
  else if 0xD00 ≤ o ∧ o < 0x1100 then
    match s.ctx ((o - 0xD00) / 0x20), o % 0x20 with
    | some c, 0x00 => c.logBase
    | some c, 0x08 => c.logLimit
    | some c, 0x10 => BitVec.ofNat 64 (16 * c.logHead)
    | some c, 0x18 => BitVec.ofNat 64 (boolNat c.stalled * 2 + boolNat c.replay)
    | _, _ => 0
  else match o with
    | 0x000 => BitVec.ofNat 64 p.xcost
    | 0x100 => p.record.clusen.getD 0 0
    | 0x108 => p.record.clusen.getD 1 0
    | 0x110 => p.record.chanen
    | 0xC00 => ((s.steward 0).map therm).getD 0
    | 0xC08 => ((s.steward 1).map therm).getD 0
    | 0x1100 => bootStat p
    | 0x1208 => p.secBuf
    | 0x1210 => BitVec.ofNat 64 p.secStat
    | _ => 0

/-! ### The Silt (R152, R392) -/

/-- Where the Silt's bytes are kept: at their intermediate addresses. -/
def siltBase (d : Nat) : Nat := 0xF000000000000 + d * 0x4000000

/-- WIDTH, HEIGHT and NBANDS of a view: a WIDTH or HEIGHT of 0 turns it off (R380, R381). -/
def viewWidth (r : Render) : Nat := natField r.view.toNat 0 13
def viewHeight (r : Render) : Nat := natField r.view.toNat 16 13
def viewBands (r : Render) : Nat := if viewWidth r = 0 then 0 else viewHeight r / 16

/-- A byte of the Silt: the control region is computed, records are stored. -/
def siltByte (s : State) (d o : Nat) : Byte :=
  if 0x10000 ≤ o then s.mem.mem.read (siltBase d + o)
  else match s.die d with
    | none => 0
    | some r =>
      if o < 8 * viewBands r ∧ o % 8 < 4 then ((leBytes 4 (assocGet 0 (o / 8) r.wcount).toNat).getD (o % 8) 0)
      else if 0x800 ≤ o ∧ o < 0x804 then ((leBytes 4 r.drops.toNat).getD (o - 0x800) 0)
      else 0

/-! ### A register of the aperture (R413) -/

/-- Where an aperture address lies. -/
inductive Block where
  | silt (die off : Nat)
  | render (die off : Nat)
  | display (off : Nat)
  | queue (ctx off : Nat)
  | faultRing (ctx off : Nat)
  | sup (ctx off : Nat)
  | package (off : Nat)
  | memDie (k off : Nat)
  | messages (ctx off : Nat)
  deriving DecidableEq, Repr

/-- The block that covers an address. -/
def blockOf (ia : Nat) : Option Block :=
  let o := ia - 0xF000000000000
  let within := fun (base size count : Nat) => decide (base ≤ o ∧ o < base + size * count)
  if within 0 0x4000000 2 then some (.silt (o / 0x4000000) (o % 0x4000000))
  else if within 0x10000000 0x10000 2 then some (.render ((o - 0x10000000) / 0x10000) (o % 0x10000))
  else if within 0x10020000 0x1000 1 then some (.display (o % 0x1000))
  else if within 0x20000000 0x1000 32 then some (.queue ((o - 0x20000000) / 0x1000) (o % 0x1000))
  else if within 0x30000000 0x4000 32 then some (.faultRing ((o - 0x30000000) / 0x4000) (o % 0x4000))
  else if within 0x40000000 0x1000 32 then some (.sup ((o - 0x40000000) / 0x1000) (o % 0x1000))
  else if within 0x50000000 0x10000 1 then some (.package (o % 0x10000))
  else if within 0x50020000 0x10000 4 then some (.memDie ((o - 0x50020000) / 0x10000) (o % 0x10000))
  else if within 0x60000000 0x1000 32 then some (.messages ((o - 0x60000000) / 0x1000) (o % 0x1000))
  else none

/-- Device threads may reach the block. -/
def Block.device : Block → Bool
  | .silt _ _ | .render _ _ | .display _ | .queue _ _ => true
  | _ => false

/-- The value of the 8-byte register at an offset of a block; none where the block has no register there to read (the post
area, R64). -/
def blockRead (s : State) (b : Block) : Option W64 :=
  match b with
  | .silt _ _ => none
  | .render d o => (s.die d).map fun r => renderRead r o
  | .display o => some (if o = 0 then s.pkg.dmode else if o = 8 then s.pkg.dstart else 0)
  | .queue c o =>
    if o < 0xF00 then none
    else (s.ctx c).map fun k => if o = 0xF00 then qstat k else if o = 0xF08 then k.cgsweep else 0
  | .faultRing c o => (s.ctx c).map fun k =>
      if o < 0x2000 then BitVec.ofNat 64 (leNat (((assocGet [] (o / 32) k.ring).drop (o % 32)).take 8))
      else if o = 0x2000 then k.frWrite.setWidth 64 else if o = 0x2008 then k.frRead.setWidth 64 else 0
  | .sup c o => some ((s.supRead c (o / 8 + 0x100)).getD 0)
  | .package o => some (s.packageRead o)
  | .memDie k o => some ((s.memDieRead k (o / 8 + 0x200)).getD 0)
  | .messages c o => (s.ctx c).map fun k => k.mqdest.getD (o / 8) 0

/-- A read at an address that the given block covers. -/
def blockLoad (s : State) (device : Bool) (ia n : Nat) (k : Option Block) : Except Nat (List Byte) :=
  match k with
  | none => .error Cause.page
  | some (.silt d o) => .ok ((List.range n).map fun k => s.siltByte d (o + k))
  | some b =>
    if device && !b.device then .error Cause.perm
    else if n ≠ 8 ∨ ia % 8 ≠ 0 then .error Cause.page
    else match s.blockRead b with
      | some v => .ok (leBytes 8 v.toNat)
      | none => .error Cause.page

/-- A read of the aperture (R413): by a device thread or an application core. Errors are causes of memory-side faults. -/
def apertureRead (s : State) (device : Bool) (ia n : Nat) : Except Nat (List Byte) := s.blockLoad device ia n (blockOf ia)

/-! ### Accesses of engines, hosts and requests at the homes (R155, R169, R349, R350) -/

/-- The page of a unit of module memory, as the walking die finds it for a need: its frame address, its entry for A and D. -/
def pageFor (s : State) (ia : Nat) (n : Need) : Except Nat (Nat × Option Nat) :=
  match s.walk ia with
  | .page _ => .error Cause.page
  | .mapped e entry => if pagePermits e.perms n then .ok (e.frame + (ia - e.page), entry) else .error Cause.perm

/-- The supervisor is told of a malformed entry that an access of n bytes at an intermediate address meets (R127). -/
def reportMalformed (s : State) (ctx ia n : Nat) : State :=
  let bad := fun (a : Nat) => inModule a && s.walk a == .page true
  match (ia :: (List.range (n / 2 ^ 16 + 1)).map fun k => min (ia + n - 1) ((ia / 2 ^ 16 + k + 1) * 2 ^ 16)).find? bad with
  | some a => s.emit (.report ctx a)
  | none => s

/-- The home of a physical address is on a failed die (R350), or its line is poisoned for a read (R349). -/
def uncorrected (s : State) (pa ia : Nat) (read : Bool) : Bool :=
  let p := s.redirect pa ia
  s.pkg.dieFailed.contains (homeDie p) || (read && s.isPoisoned p)

/-- The page that a failing check names (R332): the mapped page that refuses, or the 64 KiB page that is absent. -/
def faultPage (s : State) (ia cause : Nat) : Nat :=
  match s.walk ia with
  | .mapped e _ => if cause = Cause.perm then e.page else ia / 2 ^ 16 * 2 ^ 16
  | .page _ => ia / 2 ^ 16 * 2 ^ 16

/-- The aligned 16-byte units of a byte range: address and length. -/
def unitSpans (ia n : Nat) : List (Nat × Nat) :=
  (List.range (if n = 0 then 0 else ceilDiv (ia % 16 + n) 16)).map fun k =>
    let lo := max ia (unitOf ia + 16 * k)
    (lo, min (ia + n) (unitOf ia + 16 * k + 16) - lo)

/-- The physical address of the first unit of a byte range whose error cannot be corrected (R334, R349). -/
def spoiltAddress (s : State) (ia n : Nat) (need : Need) : Nat :=
  ((unitSpans ia n).findSome? fun u => match s.pageFor u.1 need with
    | .ok (pa, _) => if s.uncorrected pa u.1 (need == .read) then some (s.redirect pa u.1) else none
    | .error _ => none).getD 0

/-- Read module memory at the homes; the first failing unit decides the cause. -/
def homeBytes (s : State) (n : Need) : List (Nat × Nat) → Except Nat (List Byte × State)
  | [] => .ok ([], s)
  | (ia, len) :: rest =>
    match s.pageFor ia n with
    | .error c => .error c
    | .ok (pa, entry) =>
      if s.uncorrected pa ia true then .error Cause.uncorrected
      else
        let bs := s.readMem (s.redirect pa ia) len
        match homeBytes (s.markEntry entry false) n rest with
        | .error c => .error c
        | .ok (more, s') => .ok (bs ++ more, s')

/-- Check a write of module memory. -/
def homeWritable (s : State) (n : Need) (spans : List (Nat × Nat)) : Option Nat :=
  spans.findSome? fun p => match s.pageFor p.1 n with
    | .error c => some c
    | .ok (pa, _) => if s.uncorrected pa p.1 false then some Cause.uncorrected else none

/-- Write module memory at the homes for a context, 0 where none is named, with the largest W. -/
def homePut (s : State) (ctx : Nat) (bs : List Byte) (w : Nat) : List (Nat × Nat) → State × Nat
  | [] => (s, w)
  | (ia, len) :: rest =>
    match s.pageFor ia .write with
    | .error _ => (s, w)
    | .ok (pa, _) =>
      let (s, w') := s.performWrite pa ia (bs.take len) (s.pageTag ia ctx)
      homePut s ctx (bs.drop len) (max w w') rest

/-- One write at the homes of bytes at an intermediate address, with the largest W; lines that it covers whole lose their poison (R349). -/
def homeWrite (s : State) (ia : Nat) (bs : List Byte) (ctx : Nat := 0) : State × Nat :=
  let r := s.homePut ctx bs 0 (unitSpans ia bs.length)
  (r.1.clearCovered ((unitSpans ia bs.length).filterMap fun p => (s.mappedTo p.1).map fun pa => (s.redirect pa p.1, p.2)), r.2)

/-- Where an access that leaves the device goes (R430): the Ewerlink port and the remote module's address, or PCIe space. -/
def outsideAddr (ia : Nat) : Option Nat × Nat :=
  if inEwerlink ia then (some ((ia - 2 ^ 51) / 2 ^ 49), (ia - 2 ^ 51) % 2 ^ 49) else (none, ia)

/-- A device or engine read at an intermediate address, on any route. Bytes of another module or of PCIe space are free
(DESIGN CHOICE, assumption 9). -/
def deviceRead (s : State) (ia n : Nat) : Except Nat (List Byte × State) :=
  if inModule ia then s.homeBytes .read (unitSpans ia n)
  else if inAperture ia then (s.apertureRead true ia n).map fun bs => (bs, s)
  else if inEwerlink ia && !(s.pkg.ewUp.getD ((ia - 2 ^ 51) / 2 ^ 49) false && s.pkg.ewEn.getD ((ia - 2 ^ 51) / 2 ^ 49) false) then .error Cause.page
  else if inEwerlink ia && Config.foreignRefuses s.clk.free then .error Cause.perm
  else .ok ((List.range n).map fun k => Config.foreignByte (s.clk.free + k), { s with clk := { s.clk with free := s.clk.free + n } })

/-- As reportMalformed, for a read through a context's range registers that has failed. -/
def reportRead (s : State) (ctx va n : Nat) : State :=
  match (s.ctx ctx).map fun c => rangeCheck c va n .read with
  | some (.ok (ia, _)) => s.reportMalformed ctx ia n
  | _ => s

/-- The physical address of the error that a read through a context's range registers has met. -/
def spoiltRead (s : State) (ctx va n : Nat) : Nat :=
  match (s.ctx ctx).map fun c => rangeCheck c va n .read with
  | some (.ok (ia, _)) => s.spoiltAddress ia n .read
  | _ => 0

/-- A read through a context's range registers: RANGE, PERM, PAGE or UNCORRECTED, or the bytes. -/
def contextRead (s : State) (ctx va n : Nat) : Except Nat (List Byte × State) :=
  match s.ctx ctx with
  | none => .error Cause.range
  | some c => match rangeCheck c va n .read with
    | .error e => .error e
    | .ok (ia, _) => s.deviceRead ia n

end State

end Sys2Proof.Machine
end

