-- ==== Sys2Proof/Machine/Logline.lean ====
section
/-! DEFINITION. The Logline: the entries of a context's log, their appending, and their use in a replay (spec/26_system.md
R445 to R447). -/

namespace Sys2Proof.Machine

namespace State

/-- Words 0 to 3 of an entry's header: TIME, KIND, payload length, place. -/
def logHeader (time kind units : Nat) (c : CoreId) (slot : Nat) : List Byte :=
  leBytes 8 time ++ leBytes 2 kind ++ leBytes 2 units ++ leBytes 4 (c.die * 2 ^ 31 + c.site * 2 ^ 24 + c.core * 2 ^ 22 + slot)

/-- The intermediate address of a unit of a context's log. -/
def logAt (c : Context) (unit : Nat) : Nat := natField c.logBase.toNat 12 40 * 2 ^ 12 + 16 * unit

/-- The log's size in units. -/
def logUnits (c : Context) : Nat := natField c.logLimit.toNat 4 28

/-- The context records, or replays. -/
def recording (s : State) (ctx : Nat) : Bool := s.ctxLog ctx && !(((s.ctx ctx).map (·.replay)).getD false)
def replaying (s : State) (ctx : Nat) : Bool := s.ctxLog ctx && ((s.ctx ctx).map (·.replay)).getD false

/-- Bytes of a log are stored where LOGBASE puts it: at their homes, in the records of a Silt, or beyond the device (R120, R446). -/
def logStore (s : State) (ctx ia : Nat) (bs : List Byte) : State :=
  if inModule ia then (s.homeWrite ia bs ctx).1
  else if inAperture ia then (match blockOf ia with
    | some (.silt _ o) => if 0x10000 ≤ o then s.writeMem ia bs else s
    | _ => s)
  else s.emit (.sent (outsideAddr ia).1 (outsideAddr ia).2 bs)

/-- Append an entry; one that would pass LOGLIMIT is not written, and the context is held (R446). -/
def logAppend (s : State) (ctx kind : Nat) (time : Nat) (place : CoreId) (slot : Nat) (payload : List Byte) : State :=
  if !(s.recording ctx) then s
  else match s.ctx ctx with
    | none => s
    | some c =>
      let units := ceilDiv payload.length 16
      if logUnits c < c.logHead + 1 + units then s.updCtx ctx fun k => { k with stalled := true }
      else
        let bs := logHeader time kind units place slot ++ payload ++ List.replicate (16 * units - payload.length) 0
        let s := s.logStore ctx (logAt c c.logHead) bs
        s.updCtx ctx fun k => { k with logHead := k.logHead + 1 + units }

/-- The bytes of a log as they stand in memory; beyond the device they are free (DESIGN CHOICE, assumption 9). -/
def logRead (s : State) (at' n : Nat) : List Byte :=
  if inModule at' then (match s.homeBytes .read (unitSpans at' n) with
    | .ok (bs, _) => bs
    | .error _ => List.replicate n 0)
  else if inAperture at' then s.readMem at' n
  else (List.range n).map fun k => Config.foreignByte (s.clk.free + k)

/-- The first entry from a unit on that is of a kind, is accepted by its place and payload, and is not used: its unit and payload. An
entry of kind 0 ends the log. -/
def logFind (s : State) (c : Context) (kind : Nat) (ok : Nat → List Byte → Bool) : (fuel unit : Nat) → Option (Nat × List Byte)
  | 0, _ => none
  | fuel + 1, unit =>
    if logUnits c ≤ unit then none
    else
      let h := s.logRead (logAt c unit) 16
      let k := leNat ((h.drop 8).take 2)
      let n := leNat ((h.drop 10).take 2)
      let bs := s.logRead (logAt c (unit + 1)) (16 * n)
      if k = 0 then none
      else if k = kind && !(c.replayed.contains unit) && ok (leNat (h.drop 12)) bs then some (unit, bs)
      else logFind s c kind ok fuel (unit + 1 + n)

/-- The next recorded event of a kind in a replay. -/
def logNext (s : State) (ctx kind : Nat) (ok : Nat → List Byte → Bool) : Option (Nat × List Byte) :=
  (s.ctx ctx).bind fun c => s.logFind c kind ok (logUnits c) 0

/-- A replay uses up the entry at a unit. -/
def logUse (s : State) (ctx unit : Nat) : State := s.updCtx ctx fun k => { k with replayed := unit :: k.replayed }

/-- The next recorded event of a kind, of a place where one is named, which the replay uses up. -/
def logTake (s : State) (ctx kind : Nat) (place : Option Nat) : Option (List Byte × State) :=
  (s.logNext ctx kind fun w _ => place == none || place == some w).map fun r => (r.2, s.logUse ctx r.1)

/-- The place word of a thread. -/
def placeWord (c : CoreId) (slot : Nat) : Nat := c.die * 2 ^ 31 + c.site * 2 ^ 24 + c.core * 2 ^ 22 + slot

/-- A replayed event differs from its log entry (R447): the context is halted, with a record of kind UNHANDLED and cause
SOFTWARE. -/
def replayDiffers (s : State) (ctx : Nat) (c : CoreId) : State :=
  (s.setCtl ctx 3 true).faultRecord .unhandled ctx (s.faultBytes .unhandled Cause.software ctx 0 0 c 0 0 0)

end State

end Sys2Proof.Machine
end

