-- ==== Sys2Proof/Machine/Records.lean ====
section
/-! DEFINITION. Task records: their layout, validation and posting, cancellation, the Pilot's dequeue and placement, and the
launch of a team (spec/05_scheduling.md R62 to R75, R87; spec/03_execution.md R31 to R35; spec/24_fabric.md R427 to R429). -/

namespace Sys2Proof.Machine

/-! ### Layout (R62, R63) -/

/-- The little-endian field of n bytes at an offset. -/
def fieldAt (bs : List Byte) (o n : Nat) : Nat := leNat ((bs.drop o).take n)

/-- Bits h to l of the n-byte field at an offset. -/
def bitsAt (bs : List Byte) (o n h l : Nat) : Nat := natField (fieldAt bs o n) l (h + 1 - l)

/-- A kernel header from its 32 bytes; none where a field leaves its range (R63). -/
def Header.parse (bs : List Byte) : Option Header :=
  let entry := fieldAt bs 0 8
  let w := fieldAt bs 8 4
  let p := fieldAt bs 12 4
  let handler := signedOf 32 (fieldAt bs 16 4)
  if natField entry 56 8 ≠ 0 ∨ entry % 4 ≠ 0 ∨ natField w 30 2 = 3 ∨ natField w 28 2 = 3 ∨ natField w 26 2 = 3 ∨ natField w 13 8 ≠ 0 ∨
      768 < natField p 22 10 ∨ 32 < natField p 16 6 ∨ handler % 4 ≠ 0 then none
  else some
    { entry := BitVec.ofNat 64 entry, width := 16 * 2 ^ natField w 30 2, shape := natField w 28 2, place := natField w 26 2
      vregs := 8 * (natField w 21 5 + 1), tsize := natField w 0 13, plot := natField p 22 10, tiles := natField p 16 6, privw := natField p 0 16
      handler := handler, wins := (List.range 8).map fun k => natField (fieldAt bs 20 12) (12 * k) 12 }

/-- A record from its 64 bytes, not yet validated. -/
def Record.parse (bs : List Byte) (seq : Nat) (h : Header) (poster : Poster) : Record :=
  { seq := seq, node := BitVec.ofNat 64 (fieldAt bs 0 8), payload := BitVec.ofNat 64 (fieldAt bs 8 8), deadline := BitVec.ofNat 64 (fieldAt bs 16 8)
    prio := bitsAt bs 24 4 31 30, cgroup := bitsAt bs 24 4 29 24, dep := bitsAt bs 24 4 23 12, tag := bitsAt bs 28 4 31 16, succ := bitsAt bs 28 4 15 0
    tcount := bitsAt bs 32 4 31 16, tbase := bitsAt bs 32 4 15 0, hint := bitsAt bs 36 4 31 30, hdie := bitsAt bs 36 4 29 29
    hcluster := bitsAt bs 36 4 28 23, header := h, raw := bs, poster := poster, marked := false }

/-- A reserved bit of a record is set (R62). -/
def recordReserved (bs : List Byte) : Bool :=
  bitsAt bs 24 4 11 0 != 0 || bitsAt bs 36 4 22 0 != 0 || (bs.drop 40).any (· != 0)

/-! ### Validation (R67) -/

namespace Code
/-- The codes of R67. -/
def accepted : Nat := 0
def full : Nat := 1
def reserved : Nat := 2
def node : Nat := 3
def header : Nat := 4
def count : Nat := 5
def place : Nat := 6
def split : Nat := 7
end Code

/-- Threads of a team's first core and the number of its cores: 1, 2 or, for a bridge, one or two for each half (R33). -/
def shareOf (h : Header) (cores : Nat) : Nat := ceilDiv h.tsize cores

/-- A core's share of n threads fits an empty context bank (R32). -/
def shareFits (h : Header) (n : Nat) : Bool :=
  decide (n ≤ Config.bankThreads ∧ n * h.vregs ≤ Config.bankRegisters ∧ ceilDiv n h.width ≤ Config.bankGroups)

/-- TSIZE and the shares of a header (R33, R67). A bridge half may use a core pair. -/
def Header.fits (h : Header) : Bool :=
  match h.shape with
  | 0 => decide (1 ≤ h.tsize ∧ h.tsize ≤ 2048) && shareFits h h.tsize
  | 1 => decide (2 ≤ h.tsize ∧ h.tsize ≤ 4096) && shareFits h (shareOf h 2)
  | _ => decide (2 ≤ h.tsize ∧ h.tsize ≤ 4096) && shareFits h (ceilDiv (shareOf h 2) (if h.tsize < 4 then 1 else 2))

namespace State

/-- Die d has an enabled seam site and has not failed (R427). -/
def seamOk (s : State) (d : Nat) : Bool := s.dieOk d && (List.range 4).any fun k => s.siteOn d (32 + k)

/-- The hint names an enabled site, and a bridge can be placed (R67, R427). -/
def placeOk (s : State) (r : Record) : Bool :=
  (decide (r.hint < 2) || s.siteOn r.hdie r.hcluster) && (r.header.shape != 2 || (r.hint == 0 && s.seamOk 0 && s.seamOk 1))

/-- The checks of R67 in order: the code that rejects, or the record with DEP and class as queued (R68, R70). -/
def validate (s : State) (ctx : Nat) (bs : List Byte) (poster : Poster) : Except Nat (Record × State) :=
  match s.ctx ctx with
  | none => .error Code.node
  | some c =>
    let node := fieldAt bs 0 8
    if Config.queueDepth ≤ c.queue.length then .error Code.full
    else if recordReserved bs then .error Code.reserved
    else if node % 32 ≠ 0 then .error Code.node
    else match s.contextRead ctx node 32 with
      | .error _ => .error Code.node
      | .ok (hb, s) => match Header.parse hb with
        | none => .error Code.header
        | some h =>
          let r := Record.parse bs s.clk.nextId h poster
          if !h.fits || decide (natField c.priv.toNat 56 8 * 2 ^ 16 < h.privw * 256) then .error Code.header
          else if r.tcount = 0 ∨ 65536 < r.tbase + r.tcount then .error Code.count
          else if !(s.placeOk r) then .error Code.place
          else .ok (r, s)

/-- A rejection counts (R66, R67). -/
def reject (s : State) (ctx code : Nat) : State := s.updCtx ctx fun c => { c with rejects := (c.rejects + 1) % 2 ^ 16, lastCode := code }

/-- Post a record (R67 to R70): the code and the state. The credits of its TAG reduce DEP and are used up (DEDUCED, assumption 24). -/
def post (s : State) (ctx : Nat) (bs : List Byte) (poster : Poster) : Nat × State :=
  match s.validate ctx bs poster with
  | .error code => (code, (if code = Code.node then s.reportRead ctx (fieldAt bs 0 8) 32 else s).reject ctx code)
  | .ok (r, s) =>
    let (seq, s) := s.fresh
    let prio := if r.prio = 0 && !(s.ctxRt ctx) then 1 else r.prio
    (Code.accepted, s.updCtx ctx fun c =>
      let mine := if r.tag = 0 then 0 else (c.credits.filter (· == r.tag)).length
      let used := min mine r.dep
      let credits := c.credits.filter (· != r.tag) ++ List.replicate (mine - used) r.tag
      { c with queue := c.queue ++ [{ r with seq := seq, prio := prio, dep := r.dep - used }], credits := if used = 0 then c.credits else credits })

/-- A post by a unit or a thread of the device: code 3 while the context is not enabled (R320). -/
def devicePost (s : State) (ctx : Nat) (bs : List Byte) (poster : Poster) : Nat × State :=
  if s.ctxEn ctx then s.post ctx bs poster else (Code.node, s.reject ctx Code.node)

/-! ### Cancellation (R71) -/

/-- Cancel group g of a context: its queued records are marked, and the flags of its running teams set. -/
def cancelGroup (s : State) (ctx g : Nat) : State :=
  let hit := fun (r : Run) => r.ctx == ctx && r.record.cgroup == g
  let runs := (s.runs.filter hit).map (·.id)
  let s := s.updCtx ctx fun c => { c with queue := mapIf (fun r => r.cgroup == g) (fun r => { r with marked := true }) c.queue }
  { s with runs := mapIf hit (fun r => { r with cancel := true }) s.runs
           teams := mapIf (fun t => runs.contains t.run) (fun t => { t with cancel := true }) s.teams }

/-- Cancel each group whose bit is set. -/
def cancelGroups (s : State) (ctx : Nat) (mask : W64) : State :=
  (List.range 64).foldl (fun s g => if mask.getLsbD g then s.cancelGroup ctx g else s) s

/-! ### Where a team fits (R32, R73, R74) -/

/-- A bank of the core holds the context and takes new teams: not while the bank's context is to be swapped out (R73, R345). -/
def bankTakes (s : State) (c : CoreId) (ctx : Nat) : Bool :=
  let k := s.core c
  s.coreOn c && s.dieOk c.die && (k.active == some ctx || (k.shadow == some ctx && (match k.swap with | some w => !w.spill | none => true)))

/-- Slots in use in a bank: those of its teams' threads. -/
def usedSlots (s : State) (c : CoreId) (ctx : Nat) : List Nat := (s.threads.filter fun t => t.ref.core == c && t.ref.ctx == ctx).map (·.ref.slot)

/-- The lowest run of n free slots (DESIGN CHOICE, assumption 21). -/
def freeRun (used : List Nat) (n : Nat) : (fuel first : Nat) → Option Nat
  | 0, _ => none
  | fuel + 1, first =>
    match used.filter fun u => decide (first ≤ u ∧ u < first + n) with
    | [] => if first + n ≤ Config.bankThreads then some first else none
    | u :: us => freeRun used n fuel (us.foldl max u + 1)

/-- Group slots of a bank that no resident team is allotted. -/
def freeGroups (s : State) (c : CoreId) (ctx : Nat) : List Nat :=
  let used := (s.teams.filter fun t => t.ctx == ctx).flatMap fun t => (t.parts.filter fun p => p.core == c).flatMap (·.groups)
  (List.range Config.bankGroups).filter fun g => !(used.contains g)

/-- Registers of a bank that resident threads hold. A thread that has exited counts until its team ends, as it does for its slot (DESIGN
CHOICE, assumption 92). -/
def usedRegs (s : State) (c : CoreId) (ctx : Nat) : Nat :=
  sumBy (fun (t : Thread) => ((s.team t.team).map (·.header.vregs)).getD 0) (s.threads.filter fun t => t.ref.core == c && t.ref.ctx == ctx)

/-- Free 4 KiB units of a core's PLOT banks, lowest bank and unit first (R139). -/
def freeUnits (s : State) (c : CoreId) : List (Nat × Nat) :=
  let k := s.core c
  let used := (s.plots.filter fun p => p.core == c).flatMap (·.units)
  ((List.range 48).filter fun b => k.modes.getD b 0 == 1 && !(k.changes.any fun x => x.bank == b)).flatMap fun b =>
    ((List.range 16).map fun u => (b, u)).filter fun u => !(used.contains u)

/-- The part of a team of n threads on a core, if it fits there. -/
def fitPart (s : State) (h : Header) (ctx : Nat) (c : CoreId) (n : Nat) : Option Part :=
  let groups := ceilDiv n h.width
  let free := s.freeGroups c ctx
  if !(s.bankTakes c ctx) || decide (free.length < groups ∨ Config.bankRegisters < s.usedRegs c ctx + n * h.vregs ∨ (s.freeUnits c).length < h.plot) then none
  else (freeRun (s.usedSlots c ctx) n (Config.bankThreads + 1) 0).map fun first => ⟨c, first, n, free.take groups⟩

/-- Slots of a cluster's tile store that are free (R357). -/
def freeTiles (s : State) (die site : Nat) : List Nat :=
  (List.range 128).filter fun k => (s.tileSlot die site k).isNone

/-- A team's pool fits the cluster's tile store. -/
def poolFits (s : State) (h : Header) (die site : Nat) : Bool := h.tiles == 0 || decide (h.tiles + 2 ≤ (s.freeTiles die site).length)

/-- Free thread slots of a core's bank. -/
def freeThreads (s : State) (ctx : Nat) (c : CoreId) : Nat := Config.bankThreads - (s.usedSlots c ctx).length

/-- Split n threads over a core pair of a cluster: the first ceil(n/2) on the lower core (R33). -/
def fitPair (s : State) (h : Header) (ctx die site lower n : Nat) : Option (List Part) :=
  match s.fitPart h ctx ⟨die, site, lower⟩ (ceilDiv n 2), s.fitPart h ctx ⟨die, site, lower + 1⟩ (n - ceilDiv n 2) with
  | some a, some b => some [a, b]
  | _, _ => none

/-- The candidate with most free thread slots, then the lowest core (R74). -/
def mostFree (s : State) (ctx : Nat) (cs : List (List Part)) : Option (List Part) :=
  leastBy (fun ps => Config.coresPerCluster * Config.bankThreads - sumBy (fun (p : Part) => s.freeThreads ctx p.core) ps) cs

/-- The fitting core or pair of a cluster (R74): n threads on one core, or on a pair. -/
def fitCluster (s : State) (h : Header) (ctx die site n : Nat) (pair : Bool) : Option (List Part) :=
  if !(s.poolFits h die site) then none
  else if pair then s.mostFree ctx ([0, 2].filterMap fun k => s.fitPair h ctx die site k n)
  else s.mostFree ctx ((List.range 4).filterMap fun k => (s.fitPart h ctx ⟨die, site, k⟩ n).map fun p => [p])

/-- Enabled sites of a die. -/
def sitesOn (s : State) (die : Nat) : List Nat := (List.range Config.sites).filter fun k => s.siteOn die k

/-- Threads of a context in a cluster. -/
def clusterThreads (s : State) (ctx die site : Nat) : Nat :=
  (s.threads.filter fun t => t.ref.ctx == ctx && t.ref.core.die == die && t.ref.core.site == site).length

/-- The clusters of a die in the order of R74. -/
def siteOrder (s : State) (r : Record) (last : Option Nat) (ctx die : Nat) : List Nat :=
  let on := s.sitesOn die
  let named := decide (2 ≤ r.hint) && r.hdie == die
  if named && r.hint == 3 then [r.hcluster]
  else
    let rest := match r.header.place, last with
      | 1, _ => on
      | 2, some l => (on.filter fun k => decide (l < k)) ++ on.filter fun k => decide (k ≤ l)
      | 2, none => on
      | _, _ => sortBy (fun k => s.clusterThreads ctx die k * 64 + k) on
    if named then r.hcluster :: rest else rest

/-- The half of a bridge team on a die: the lowest enabled seam site with a fitting core or core pair (R427). -/
def fitHalf (s : State) (h : Header) (ctx die n : Nat) : Option (List Part) :=
  ((s.sitesOn die).filter fun k => decide (32 ≤ k)).findSome? fun k =>
    match s.fitCluster h ctx die k n false with
    | some p => some p
    | none => if n < 2 then none else s.fitCluster h ctx die k n true

/-- LOAD_d (R73). -/
def loadOf (s : State) (die : Nat) : Nat := (s.teams.filter fun t => t.parts.any fun p => p.core.die == die).length

/-- The die that owns the channel of PAYLOAD's page, where a page holds it (R73). -/
def payloadDie (s : State) (ctx : Nat) (payload : W64) : Option Nat :=
  match (s.ctx ctx).bind fun c => translate c payload.toNat 1 with
  | some (ia, _) => if inModule ia then (match s.walk ia with | .mapped e _ => some (homeDie (e.frame + (ia - e.page))) | .page _ => none) else none
  | none => none

/-- The dies in the order in which a record tries them (R73): under HINT 00 one die, under HINT 01 and 10 the other one as well. -/
def dieOrder (s : State) (ctx : Nat) (r : Record) : List Nat :=
  if r.hint = 0 then
    let home := s.payloadDie ctx r.payload
    let cost := fun (d : Nat) => s.loadOf d + (match home with | some k => if k = d then 0 else s.pkg.xcost | none => 0)
    let tie := match home with | some 1 => 1 | _ => 0
    let order := if cost 0 < cost 1 then [0, 1] else if cost 1 < cost 0 then [1, 0] else [tie, 1 - tie]
    (order.filter s.dieOk).take 1
  else if r.hint = 3 then [r.hdie] else [r.hdie, 1 - r.hdie]

/-- A part at a given first slot, where it is free. -/
def fitAt (s : State) (h : Header) (ctx : Nat) (c : CoreId) (n first : Nat) : Option Part :=
  if freeRun (s.usedSlots c ctx) n 1 first = some first then (s.fitPart h ctx c n).map fun p => { p with slot0 := first } else none

/-- The parts of a team whose first core and slot a replay names (R447); the others are placed as usual. -/
def planAt (s : State) (ctx : Nat) (h : Header) (word : Nat) : Option (List Part) :=
  let c : CoreId := ⟨natField word 31 1, natField word 24 6, natField word 22 2⟩
  let first := natField word 0 11
  let n := if h.shape = 2 then ceilDiv h.tsize 2 else h.tsize
  let one := fun (k : Nat) => (s.fitAt h ctx c k first)
  let pair := match one (ceilDiv n 2), s.fitPart h ctx { c with core := c.core + 1 } (n - ceilDiv n 2) with
    | some a, some b => if c.core % 2 = 0 then some [a, b] else none
    | _, _ => none
  if !(s.poolFits h c.die c.site) then none
  else match h.shape with
    | 0 => (one n).map fun p => [p]
    | 1 => pair
    | _ => match (match one n with | some p => some [p] | none => pair), s.fitHalf h ctx 1 (h.tsize - n) with
      | some a, some b => some (a ++ b)
      | _, _ => none

/-- Where the next team of a record goes: its parts, lower core and die 0 first (R73, R74). -/
def plan (s : State) (ctx : Nat) (r : Record) (last : Option Nat) : Option (List Part) :=
  let h := r.header
  if h.shape = 2 then
    match s.fitHalf h ctx 0 (ceilDiv h.tsize 2), s.fitHalf h ctx 1 (h.tsize - ceilDiv h.tsize 2) with
    | some a, some b => some (a ++ b)
    | _, _ => none
  else (s.dieOrder ctx r).findSome? fun d => if s.dieOk d then (s.siteOrder r last ctx d).findSome? fun k => s.fitCluster h ctx d k h.tsize (h.shape == 1) else none

/-! ### The order of the Pilot (R69, R72) -/

/-- DEADLINE as R69 orders it: 0 counts as the latest. -/
def deadlineKey (r : Record) : Nat := if r.deadline = 0 then 2 ^ 64 else r.deadline.toNat

/-- What stands at the head of a class of a context: a run with teams still to place, or the first eligible record. -/
inductive Head where
  | running (r : Run)
  | queued (ctx : Nat) (r : Record)
  deriving DecidableEq, Repr

def Head.record : Head → Record
  | .running r => r.record
  | .queued _ r => r
def Head.ctx : Head → Nat
  | .running r => r.ctx
  | .queued c _ => c

/-- The first eligible record of a class (R69). -/
def firstEligible (c : Context) (cls : Nat) : Option Record :=
  leastBy (fun r => deadlineKey r * 2 ^ 64 + r.seq) (c.queue.filter fun r => r.prio == cls && r.dep == 0)

/-- The heads of every class of every context that may be placed (R72, R320). -/
def heads (s : State) : List Head :=
  (List.range Config.contexts).flatMap fun n =>
    match s.ctx n with
    | none => []
    | some c =>
      if !(s.ctxEn n) || s.ctxHalted n then []
      else (List.range 4).filterMap fun cls =>
        match s.runs.find? fun r => r.ctx == n && r.record.prio == cls && decide (r.placed < r.record.tcount) with
        | some r => some (.running r)
        | none => (firstEligible c cls).map fun r => .queued n r

/-- The heads in the order in which the Pilot chooses: class, DEADLINE, round robin after the context last served. -/
def headOrder (s : State) : List Head :=
  sortBy (fun (h : Head) => (h.record.prio * 2 ^ 65 + deadlineKey h.record) * 32 + (h.ctx + 32 - s.pkg.served % 32 - 1) % 32) s.heads

/-- The DEQ entry of a replay that holds the place of a head's next team (R446, R447): the run's own, its next continuation, or for a
queued record the next dequeue of the log. -/
def recordedEntry (s : State) (h : Head) : Option (Nat × List Byte) :=
  match h with
  | .queued ctx r => (s.logNext ctx 1 fun _ _ => true).bind fun e => if e.2.take 64 == r.raw then some e else none
  | .running r =>
    if r.placed % 4 = 0 ∧ r.placed ≠ 0 then s.logNext r.ctx 1 fun _ bs => bs.take 64 == r.record.raw
    else match r.entry, s.ctx r.ctx with
      | some u, some c => some (u, s.logRead (logAt c (u + 1)) 80)
      | _, _ => none

/-- The recorded place of the next team of a head: the k-th of the four of an entry. -/
def recordedSpot (s : State) (h : Head) (k : Nat) : Option Nat := (s.recordedEntry h).map fun e => fieldAt e.2 (64 + 4 * (k % 4)) 4

/-- The next team of a head goes to this die: a bridge team is placed with die 0 (DEDUCED, assumption 25; DESIGN CHOICE, assumption 30) (DESIGN CHOICE, assumption 32). -/
def goesTo (s : State) (h : Head) (die : Nat) : Option (List Part) :=
  let placed := match h with | .running r => r.placed | .queued _ _ => 0
  let plan := if s.replaying h.ctx then (s.recordedSpot h placed).bind fun w => s.planAt h.ctx h.record.header w
    else s.plan h.ctx h.record (match h with | .running r => r.lastSite | .queued _ _ => none)
  match plan with
  | some ps => if (ps.head?.map (·.core.die)) = some die then some ps else none
  | none => none

/-! ### Launch (R31, R34, R35, R46, R54, R139, R149, R357) -/

/-- A thread as it starts: the i-th of its part. -/
def newThread (tm : Team) (p : Part) (base i : Nat) : Thread :=
  { ref := ⟨p.core, tm.ctx, p.slot0 + i⟩, team := tm.id, tidx := base + i, status := .eligible, group := p.groups.getD (i / tm.header.width) 0
    lane := i % tm.header.width, moving := false, pc := tm.header.entry, regs := List.replicate tm.header.vregs 0, preds := 1, fstat := 0
    sb := List.replicate 6 0, wmax := 0, handler := false, hv := List.replicate 16 0, aside := List.replicate 6 0, savedAt := 0, trapPc := 0
    trapCause := 0, trapInfo := 0, fence := none, dying := none, retry := none, windows := [], busy := [] }

/-- The constant windows of a launch (R149): an entry that cannot be read leaves its window unbound (DEDUCED, assumption 31). -/
def bindWindows (s : State) (ctx : Nat) : List Nat → List (Option (Nat × Nat)) × State
  | [] => ([], s)
  | w :: ws =>
    let at' := ((s.ctx ctx).map fun c => natField c.cwtbase.toNat 4 52 * 16 + 16 * w).getD 0
    let (one, s) : Option (Nat × Nat) × State := if w = 0xFFF then (none, s) else match s.contextRead ctx at' 16 with
      | .error _ => (none, s)
      | .ok (bs, s) => (some (fieldAt bs 0 8, natField (fieldAt bs 8 4) 0 18), s)
    let (rest, s) := bindWindows s ctx ws
    (one :: rest, s)

/-- Allot and zero a part's plot, and form its groups: they issue when the plot is zeroed (R35, R139). -/
def launchPart (s : State) (tm : Team) (base : Nat) (p : Part) : State :=
  let (id, s) := s.fresh
  let units := (s.freeUnits p.core).take tm.header.plot
  let s : State := if tm.header.plot = 0 then s else { s with plots := s.plots ++ [⟨id, tm.ctx, p.core, tm.id, .heldBy tm.id, units, []⟩] }
  let s : State := { s with threads := s.threads ++ (List.range p.count).map fun i => newThread tm p base i }
  let s := p.groups.foldl (fun s g => s.formGroup ⟨p.core, tm.ctx, g⟩ tm.id) s
  let ready := s.clk.cycle + 32 * tm.header.plot
  { s with groups := mapIf (fun g => g.team == tm.id && g.ref.core == p.core) (fun g => { g with ready := ready }) s.groups
           mem := { s.mem with plotPoison := s.mem.plotPoison.filter fun q => q.1 != id } }

/-- Reserve a pool of TILES + 2 slots in a cluster (R357). -/
def reservePool (s : State) (tm : Team) (die site : Nat) : State :=
  if tm.header.tiles = 0 then s
  else
    let new := ((s.freeTiles die site).take (tm.header.tiles + 2)).map fun k => (⟨die, site, k, .pool tm.id, false, false, [], ⟨.f32, 0, 0, []⟩⟩ : TileSlot)
    { s with tile := { s.tile with slots := s.tile.slots ++ new } }

/-- The handles of a half at its start (R359): EMPTY, but a reconstruction team holds the Kiln's tiles (R408). -/
def firstHandles (s : State) (r : Record) (h : Header) (p : Option Part) : List Handle :=
  let kiln := match r.poster with
    | .band d sweep b => ((s.die d).bind fun k => k.bands.find? fun (x : Band) => x.sweep.toNat == sweep && x.band == b).map (fun (x : Band) => x.slots) |>.getD []
    | _ => []
  (List.range h.tiles).map fun k => match kiln[k]?, p with
    | some slot, some q => ⟨.held q.core q.slot0, slot⟩
    | _, _ => ⟨.empty, 0⟩

/-- A DEQ entry begins (R446): at the dequeue, and for each four teams more. It is written in its turn, its places zero until the teams
are placed; a replay uses up the entry instead. The answer is the unit where the entry starts. -/
def beginEntry (s : State) (h : Head) : State × Option Nat :=
  let ctx := h.ctx
  if s.replaying ctx then (match s.recordedEntry h with
    | some e => (s.logUse ctx e.1, some e.1)
    | none => (s, none))
  else
    let head := ((s.ctx ctx).map (·.logHead)).getD 0
    let t := s.logAppend ctx 1 (s.chrono (dieUnit 0)) ⟨0, 0, 0⟩ 0 (h.record.raw ++ List.replicate 16 0)
    (t, if ((t.ctx ctx).map (·.logHead)).getD 0 = head then none else some head)

/-- The place of a run's next team enters its DEQ entry. -/
def logPlace (s : State) (r : Run) (word : Nat) : State :=
  let (s, entry) := if r.placed % 4 = 0 ∧ r.placed ≠ 0 then s.beginEntry (.running r) else (s, r.entry)
  let s := match entry, s.ctx r.ctx with
    | some u, some c => if s.recording r.ctx then s.logStore r.ctx (logAt c (u + 1) + 64 + 4 * (r.placed % 4)) (leBytes 4 word) else s
    | _, _ => s
  s.updRun r.id fun q => { q with entry := entry }

/-- Place and launch the next team of a run (DESIGN CHOICE, assumption 26). -/
def launch (s : State) (r : Run) (parts : List Part) : State :=
  let (id, s) := s.fresh
  let h := r.record.header
  let (wins, s) := s.bindWindows r.ctx h.wins
  let hs := s.firstHandles r.record h parts.head?
  let tm : Team :=
    { id := id, ctx := r.ctx, run := r.id, number := r.record.tbase + r.placed, prio := r.record.prio, payload := r.record.payload, header := h, parts := parts
      cancel := r.cancel, sieveAge := 0x0800, cvgs := List.replicate 16 idleCvg, tregs := List.replicate 64 0, rings := List.replicate 8 ⟨[], 0, 0, [], []⟩
      windows := wins, handles := hs, handles1 := if h.shape = 2 then List.replicate h.tiles ⟨.empty, 0⟩ else []
      policy := match r.record.poster with | .policy d k => some (d, k) | _ => none
      ended := none }
  let s : State := { s with teams := s.teams ++ [tm] }
  let s := (parts.foldl (fun (acc : Nat × State) p => (acc.1 + p.count, acc.2.launchPart tm acc.1 p)) (0, s)).2
  let halves := (parts.map fun p => (p.core.die, p.core.site)).eraseDups
  let s := halves.foldl (fun s d => s.reservePool tm d.1 d.2) s
  let bound := fun (t : TileSlot) => (parts.head?.map fun p => (p.core.die, p.core.site)) == some (t.die, t.site) && (hs.any fun k => k.state != .empty && k.slot == t.slot)
  let s : State := { s with tile := { s.tile with slots := mapIf bound (fun t => { t with bound := true }) s.tile.slots } }
  let site := (parts.head?.map (·.core.site))
  let s := s.logPlace r ((parts.head?.map fun p => placeWord p.core p.slot0).getD 0)
  let s := s.updRun r.id fun q => { q with placed := q.placed + 1, lastSite := site }
  let s := match r.record.poster with
    | .band d sweep b => s.updDie d fun k => { k with bands := mapIf (fun (x : Band) => x.sweep.toNat == sweep && x.band == b) (fun x => { x with taken := true }) k.bands }
    | _ => s
  { s with pkg := { s.pkg with served := r.ctx } }

/-- Take a record from its queue (R69): it becomes a run, or is dropped and retires where it is marked (R58), which serves its context in
no round (DESIGN CHOICE, assumption 107). -/
def dequeue (s : State) (ctx : Nat) (r : Record) (die : Nat) : State :=
  let late := r.deadline != 0 && decide (r.deadline.toNat < s.chrono (dieUnit die))
  let (s, entry) := s.beginEntry (.queued ctx r)
  let s := s.updCtx ctx fun c => { c with queue := c.queue.filter (fun q => q.seq != r.seq), late := if late then (c.late + 1) % 2 ^ 16 else c.late }
  if r.marked then s.retire ctx r false
  else
    let (id, s) := s.fresh
    { s with runs := s.runs ++ [⟨id, ctx, r, 0, 0, .normal, false, none, entry⟩] }

end State

/-! ### The Pilot -/

/-- A replayed context's head differs from its log (R447): the log holds no further dequeue, or that of another record which stands
behind this one. A head whose dequeue the log holds later waits. -/
def headDiffers (s : State) (h : State.Head) : Bool :=
  match h with
  | .queued ctx r => s.replaying ctx && (match s.logNext ctx 1 fun _ _ => true with
    | some e => e.2.take 64 != r.raw && (((s.ctx ctx).map (·.queue)).getD []).any fun q => q.raw == e.2.take 64 && q.prio == r.prio && q.dep == 0
    | none => true)
  | .running _ => false

/-- A marked record is dropped when it is dequeued, wherever its teams would go (R71), in a replay in its turn. -/
def dropsHead (s : State) (h : State.Head) : Bool :=
  match h with
  | .queued ctx r => r.marked && (!(s.replaying ctx) || (s.recordedEntry h).isSome)
  | .running _ => false

/-- PILOT_DEQUEUE (R69, R72): the first head that is marked, or whose next team this die takes, is dequeued if it is queued. -/
def execPilotDequeue (die : Nat) (s : State) : Host.Outcome State Fault Refusal :=
  .next (if !(s.dieOk die) then s
    else match s.headOrder.find? (headDiffers s) with
    | some h => s.replayDiffers h.ctx ⟨die, 0, 0⟩
    | none => match s.headOrder.find? fun h => dropsHead s h || (s.goesTo h die).isSome with
      | some (.queued ctx r) => s.dequeue ctx r die
      | _ => s)

/-- TEAM_PLACE (R72 to R74): the first run whose next team this die takes. -/
def execTeamPlace (die : Nat) (s : State) : Host.Outcome State Fault Refusal :=
  .next (if !(s.dieOk die) then s
    else match s.headOrder.findSome? fun h => match h with
        | .running r => (s.goesTo h die).map fun ps => (r, ps)
        | .queued _ _ => none with
      | some (r, ps) => s.launch r ps
      | none => s)

/-- CREDIT_RETIRE (R70): a retirement that a full credit table holds takes effect when an entry frees: as a
credit, or as a decrement of a record posted meanwhile (DEDUCED, assumption 23). -/
def execCreditRetire (ctx : Nat) (s : State) : Host.Outcome State Fault Refusal :=
  .next (s.updCtx ctx fun c => match c.retiring with
    | [] => c
    | t :: ts =>
      if c.credits.length < Config.creditEntries then State.creditTag { c with retiring := ts } t else c)

/-! ### Posts from the outside world (R64, R65, R71) -/

namespace State

/-- The answer to a store or load of a host. -/
def answer (s : State) (hart : Nat) (data : List Byte) (error : Bool) : State := s.emit (.answer hart data error)

/-- A post to a context's window by an application core: an error where the context is not enabled (R320). -/
def hostPost (s : State) (hart ctx : Nat) (bs : List Byte) : State :=
  if s.ctxEn ctx then (s.post ctx bs .program).2.answer hart [] false else s.answer hart [] true

end State

/-- A store of n bytes of a hart to the post area that is no part of its post sequence to this window breaks the sequence, unless all its
bytes are at the same post offset and the sequence holds none of them: the buffer is discarded, and counts as a rejection (R65; DEDUCED,
assumption 27). -/
def breakSequence (s : State) (hart ctx offset n : Nat) : State :=
  match s.pkg.posts.find? fun b => b.hart == hart && b.ctx == ctx with
  | none => s
  | some b =>
    let last := offset + n - 1
    if b.offset ≠ offset / 64 * 64 ∨ b.offset ≠ last / 64 * 64 ∨ 64 ≤ n ∨ b.words.any fun w => decide (offset / 8 ≤ offset / 64 * 8 + w.1 ∧ offset / 64 * 8 + w.1 ≤ last / 8) then
      ({ s with pkg := { s.pkg with posts := s.pkg.posts.filter fun k => k != b } } : State).reject ctx Code.split
    else s

/-- RECORD_POST (R64): a single 64-byte store to an aligned offset of the post area (DESIGN CHOICE, assumption 58). -/
def execRecordPost (ctx offset : Nat) (bytes : List Byte) (s : State) : Host.Outcome State Fault Refusal :=
  .next (if Config.contexts ≤ ctx ∨ bytes.length ≠ 64 ∨ offset % 64 ≠ 0 ∨ 0xF00 ≤ offset then s.answer 0 [] true
    else (breakSequence s 0 ctx offset 64).hostPost 0 ctx bytes)

/-- POST_SEQUENCE_STORE (R65): one aligned doubleword of a post sequence (DEDUCED, assumption 27). -/
def execPostSequenceStore (hart ctx offset : Nat) (value : W64) (s : State) : Host.Outcome State Fault Refusal :=
  .next (if Config.contexts ≤ ctx ∨ offset % 8 ≠ 0 ∨ 0xF00 ≤ offset || !(s.ctxEn ctx) then s.answer hart [] true
    else
      let mine := fun (b : PostBuffer) => b.hart == hart && b.ctx == ctx
      let slot := offset / 64 * 64
      let word := (offset % 64 / 8, value)
      let keep := fun (s : State) (bs : List PostBuffer) => ({ s with pkg := { s.pkg with posts := bs ++ s.pkg.posts.filter fun b => !(mine b) } } : State)
      match s.pkg.posts.find? mine with
      | none => (keep s [⟨hart, ctx, slot, [word]⟩]).answer hart [] false
      | some b =>
        if b.offset ≠ slot then ((keep s [⟨hart, ctx, slot, [word]⟩]).reject ctx Code.split).answer hart [] false
        else if b.words.any fun w => w.1 == word.1 then ((keep s [⟨hart, ctx, slot, [word]⟩]).reject ctx Code.split).answer hart [] false
        else
          let words := b.words ++ [word]
          if words.length < 8 then (keep s [{ b with words := words }]).answer hart [] false
          else (keep s []).hostPost hart ctx ((List.range 8).flatMap fun k => leBytes 8 (assocGet 0 k words).toNat))

/-- CANCELSET (R71): each 1 cancels its group. -/
def execCancelset (ctx : Nat) (groups : W64) (s : State) : Host.Outcome State Fault Refusal := .next (s.cancelGroups ctx groups)

end Sys2Proof.Machine
end

