-- ==== Sys2Proof/Machine/Registers.lean ====
section
/-! DEFINITION. Writing the registers of the device aperture, by SYS.wrsup, by device stores and by the host
(spec/00_scope.md R5; spec/16_isa_control.md R318 to R322; spec/09_memory.md R121, R125, R132; spec/22_render.md R381, R382,
R392, R394; spec/24_fabric.md R413, R414, R422, R426, R431; spec/26_system.md R442, R443, R445, R446). -/

namespace Sys2Proof.Machine

/-- The writable bits replace the old ones. -/
def masked (mask old new : W64) : W64 := (old &&& ~~~mask) ||| (new &&& mask)

namespace State

/-! ### Contexts -/

/-- A write of CTXCTL (R320): EN rising makes every image invalid (R322); LOG rising starts a log at 0, in which no
entry of a running record stands, LOG falling lets a held
context go (R445, R446); DEAD clears by a 1 while DRAIN is 0. -/
def writeCtl (s : State) (ctx : Nat) (v : W64) : State :=
  let anew := v.getLsbD 5 && !(s.ctxLog ctx)
  let s : State := { s with runs := mapIf (fun r => anew && r.ctx == ctx) (fun r => { r with entry := none }) s.runs }
  s.updCtx ctx fun c =>
    let rises := fun (n : Nat) => v.getLsbD n && !(c.ctl.getLsbD n)
    let dead := c.ctl.getLsbD 6 && !(v.getLsbD 6 && !(c.ctl.getLsbD 7))
    let rw := v.setWidth 8 &&& 0x2F#8
    let kept := (c.ctl &&& 0x80#8) ||| (if dead then 0x40#8 else 0)
    { c with ctl := rw ||| kept
             coreImages := if rises 0 then [] else c.coreImages
             accImages := if rises 0 then [] else c.accImages
             logHead := if rises 5 then 0 else c.logHead
             replayed := if rises 5 then [] else c.replayed
             msgs := if rises 5 then 0 else c.msgs
             stalled := c.stalled && v.getLsbD 5 }

/-- A write of a supervisor register of a context or the package (R319). -/
def supWrite (s : State) (ctx n : Nat) (v : W64) : State :=
  if n = 0x100 then s.writeCtl ctx v
  else if 0x110 ≤ n ∧ n < 0x128 then
    let k := (n - 0x110) / 3
    let w := (n - 0x110) % 3
    s.updCtx ctx fun c => { c with ranges := modifyAt (fun r => setWord3 r w (v &&& rangeMask w)) k c.ranges }
  else match n with
    | 0x130 => s.updCtx ctx fun c => { c with priv := v &&& maskBits 63 16 }
    | 0x131 => s.updCtx ctx fun c => { c with cwtbase := v &&& maskBits 55 4 }
    | 0x132 => s.updCtx ctx fun c => { c with save := v &&& maskBits 51 19 }
    | 0x140 => { s with pkg := { s.pkg with xcost := natField v.toNat 0 8 } }
    | _ => s

/-! ### Memory dies (R125, R132, R133) -/

/-- A write of an 8-byte table entry by a memory die. -/
def setEntry (s : State) (pa v : Nat) : State := s.writeMem pa (leBytes 8 v)

/-- The 64 KiB entry that maps a page by itself: its address, its value (R126). -/
def smallEntry (s : State) (ia : Nat) : Option (Nat × Nat) :=
  match s.walk ia, s.entryAddress ia with
  | .mapped e (some _), some at' =>
    let v := s.entryAt at'
    if e.size = 2 ^ 16 ∧ natField v 61 2 = 0 then some (at', v) else none
  | _, _ => none

/-- MIGCTL.START (R132, R133): a status, or a move of the page. The conditions are examined in the order 4, 3, 1, 2 (assumption
28). -/
def migStart (s : State) (k : Nat) : State :=
  match s.memDie k with
  | none => s
  | some d =>
    let page := natField d.migPage.toNat 16 36 * 2 ^ 16
    let frame := natField d.migFrame.toNat 16 22 * 2 ^ 16
    let ends := fun (code : Nat) => s.updMemDie k fun d => { d with status := code }
    if walkingDie page ≠ k then ends 4
    else if d.move.isSome then ends 3
    else match (if inModule page then s.smallEntry page else none) with
      | none => ends 1
      | some (at', v) =>
        if !(s.channelOn (channelOf frame)) then ends 2
        else
          let old := natField v 16 22 * 2 ^ 16
          let s := s.setEntry at' (v ||| 2 ^ 55)
          let s := s.updMemDie k fun d => { d with status := 0, busy := true, bound := 0, move := some ⟨page, frame, old, none, 0, [], false, false, []⟩ }
          s.after 1 (.migrationLineCopy (k + 2))

/-- PROMCTL.PUSH (R132): a frame of this die's enabled channels is held (R25, R433); 0 names none (DEDUCED, assumption 28). -/
def promPush (s : State) (k : Nat) (v : W64) : State :=
  let frame := natField v.toNat 21 17 * 2 ^ 21
  s.updMemDie k fun d =>
    if frame = 0 ∨ 15 ≤ d.frames.length ∨ frame / 2 ^ 36 ≠ k ∨ !(s.channelOn (channelOf frame)) then d else { d with frames := d.frames ++ [frame] }

/-- A write of a memory die's register. Bits of SYSTAB that no rule lists are as RSV (DESIGN CHOICE, assumption 89). -/
def memDieWrite (s : State) (k n : Nat) (v : W64) : State :=
  match n with
  | 0x200 => s.updMemDie k fun d => { d with systab := v &&& maskBits 37 12 }
  | 0x201 => s.updMemDie k fun d => { d with migPage := v &&& maskBits 51 16 }
  | 0x202 => s.updMemDie k fun d => { d with migFrame := v &&& maskBits 37 16 }
  | 0x203 => if v.getLsbD 0 then s.migStart k else s
  | 0x205 => (s.promPush k v).updMemDie k fun d => { d with promEn := v.getLsbD 0 }
  | 0x206 => s.updMemDie k fun d => { d with promLog := v &&& maskBits 37 3 }
  | _ => s

/-! ### The render block (R381, R382, R392, R394, R408) -/

/-- Hidden-state tiles of a die read zero (R408). -/
def zeroHidden (s : State) (d : Nat) : State :=
  let mine := fun (t : TileSlot) => match t.owner with
    | .hidden k _ _ => k == d
    | _ => false
  { s with tile := { s.tile with slots := mapIf mine (fun t => { t with tile := { t.tile with data := List.replicate t.tile.size 0 } }) s.tile.slots } }

/-- The registers of R382 that take effect together: VIEW and KREC keep their values where the new ones do not fit. -/
def applyRender (s : State) (d : Nat) (ws : List (Nat × W64)) : State :=
  match s.die d with
  | none => s
  | some r =>
    let view := assocGet r.view 0x00 ws
    let krec := assocGet r.krec 0x40 ws
    let fits := decide (ceilDiv (natField view.toNat 0 13) 128 + natField krec.toNat 8 4 ≤ 32)
    let view := if fits then view else r.view
    let kctl := assocGet r.kctl 0x18 ws
    let s := if view != r.view || (kctl.getLsbD 63 && !(r.kctl.getLsbD 63)) then s.zeroHidden d else s
    s.updDie d fun r =>
      { r with view := view, krec := if fits then krec else r.krec, ovl := assocGet r.ovl 0x10 ws, kctl := kctl, knode := assocGet r.knode 0x20 ws
               kdesc := assocGet r.kdesc 0x28 ws, kfb := assocGet r.kfb 0x30 ws, khalo := assocGet r.khalo 0x38 ws, kclus := assocGet r.kclus 0x48 ws
               wcount := if view != r.view then [] else r.wcount, drops := if view != r.view then 0 else r.drops }

/-- Writable bits of the registers that wait for the sweep boundary. -/
def renderMask : Nat → Option W64
  | 0x00 => some (maskBits 28 16 ||| maskBits 12 0)
  | 0x10 => some (maskBits 63 63 ||| maskBits 47 32 ||| maskBits 28 16 ||| maskBits 12 0)
  | 0x18 => some (maskBits 63 63 ||| maskBits 60 0)
  | 0x20 => some (maskBits 55 0)
  | 0x28 => some (maskBits 55 6)
  | 0x30 => some (maskBits 55 12)
  | 0x38 => some (maskBits 55 6)
  | 0x40 => some (maskBits 18 16 ||| maskBits 11 8 ||| maskBits 5 0)
  | 0x48 => some (maskBits 47 0)
  | _ => none

/-- SNAPn.CTL.GO (R394): the snapshot is not usable until it has been binned (DESIGN CHOICE, assumption 77). -/
def snapGo (s : State) (d n : Nat) : State :=
  match (s.die d).bind fun r => r.snaps[n]? with
  | none => s
  | some (_, addr, count, _) =>
    let s := s.updDie d fun r =>
      { r with snaps := modifyAt (fun k => (k.1, k.2.1, k.2.2.1, 0)) n r.snaps, binning := (n, addr, count) :: r.binning.filter fun b => b.1 != n }
    s.after 1 (.snapshotBinned d n)

/-- Scan-out is on (R414). -/
def scanning (s : State) : Bool := s.pkg.dmode.getLsbD 63

/-- A write of a register of a render block. -/
def renderWrite (s : State) (d o : Nat) (v : W64) : State :=
  if 0x1000 ≤ o ∧ o < 0x5000 then
    let e := o - 0x1000
    let w := e % 32 / 8
    let mask := match w with
      | 0 => maskBits 55 0
      | 1 => maskBits 63 0
      | _ => maskBits 63 63 ||| maskBits 15 8 ||| maskBits 1 0
    let key := (e / 512, e % 512 / 32)
    if 24 ≤ e % 32 then s
    else s.updDie d fun r => { r with hwins := assocSet key (setWord3 (assocGet (0, 0, 0) key r.hwins) w (v &&& mask)) r.hwins }
  else if 0x80 ≤ o ∧ o < 0x100 then
    let n := (o - 0x80) / 32
    match (o - 0x80) % 32 with
    | 0 => s.updDie d fun r => { r with snaps := modifyAt (fun k => (v, k.2)) n r.snaps }
    | 8 => s.updDie d fun r => { r with snaps := modifyAt (fun k => (k.1, v &&& maskBits 55 6, k.2.2)) n r.snaps }
    | 16 =>
      let s := s.updDie d fun r => { r with snaps := modifyAt (fun k => (k.1, k.2.1, natField v.toNat 0 20, k.2.2.2)) n r.snaps }
      if v.getLsbD 63 then s.snapGo d n else s
    | _ => s
  else match renderMask o with
    | none => s
    | some m =>
      if s.scanning then s.updDie d fun r => { r with waits := assocSet o (v &&& m) r.waits }
      else s.applyRender d [(o, v &&& m)]

/-! ### The display block (R414) -/

/-- A write of DMODE. -/
def dmodeWrite (s : State) (v : W64) : State :=
  let v := v &&& (maskBits 63 58 ||| maskBits 44 32 ||| maskBits 19 0)
  let n := v.toNat
  let low := fun (r : Render) => decide (natField n 32 13 < viewHeight r)
  if natField n 0 20 < 100 ∨ natField n 32 13 = 0 ∨ s.render.any low ∨ (!(v.getLsbD 62) && natField n 58 2 == natField n 60 2) then s
  else if s.scanning then { s with pkg := { s.pkg with dmodeWait := some v } }
  else
    if v.getLsbD 63 then ({ s with pkg := { s.pkg with dmode := v, dstart := BitVec.ofNat 64 (s.tick + 1), sweeping := false } } : State).atTick (s.tick + 1) .sweepBoundary
    else { s with pkg := { s.pkg with dmode := v } }

/-! ### The security block (R442, R443) -/

/-- SECBUF names n bytes of module memory (DEDUCED, assumption 57). -/
def secBuffer (s : State) (n : Nat) : Option Nat :=
  let at' := natField s.pkg.secBuf.toNat 6 46 * 2 ^ 6
  if at' + n ≤ 2 ^ 51 then some at' else none

def setSec (s : State) (st : Nat) : State := { s with pkg := { s.pkg with secStat := st } }

/-- SECCMD OP 1 (R441, R442): extend a register by the 32 bytes at SECBUF. A buffer that no page lets it read is refused. -/
def secExtend (s : State) (mr : Nat) : State :=
  if s.pkg.secStat = 1 then s
  else match s.secBuffer 32 with
    | none => s.setSec 3
    | some at' =>
      if mr < 2 ∨ 8 ≤ mr then s.setSec 3
      else match s.homeBytes .read (unitSpans at' 32) with
        | .error _ => (s.reportMalformed 0 at' 32).setSec 3
        | .ok (bs, s) => ({ s with pkg := { s.pkg with mr := modifyAt (fun m => extendMr m bs) mr s.pkg.mr } } : State).setSec 2

/-- SECCMD OP 2 (R443): read the nonce and begin the report. -/
def secAttest (s : State) : State :=
  if s.pkg.secStat = 1 then s
  else match s.secBuffer 704 with
    | none => s.setSec 3
    | some at' => match s.homeBytes .read (unitSpans at' 32) with
      | .error _ => (s.reportMalformed 0 at' 32).setSec 3
      | .ok (bs, s) => (({ s with pkg := { s.pkg with secNonce := bs } } : State).setSec 1).after 1 .attestReportDone

def secCommand (s : State) (v : W64) : State :=
  match natField v.toNat 0 4 with
  | 1 => s.secExtend (natField v.toNat 4 4)
  | 2 => s.secAttest
  | _ => s

/-! ### The package block (R432, R437, R445) -/

/-- A write of LOGLIMIT (R446): a larger size lets a held context go. -/
def logLimitWrite (s : State) (ctx : Nat) (v : W64) : State :=
  s.updCtx ctx fun c =>
    let new := v &&& maskBits 31 4
    { c with logLimit := new, stalled := c.stalled && !(decide (c.logLimit.toNat < new.toNat)) }

/-- A write of LOGCTL: REPLAY rising starts at the first entry (R447). -/
def logCtlWrite (s : State) (ctx : Nat) (v : W64) : State :=
  s.updCtx ctx fun c => { c with replay := v.getLsbD 0, replayed := if v.getLsbD 0 && !c.replay then [] else c.replayed }

/-- A write of a register of the package block. Bits that no rule lists are as RSV (DESIGN CHOICE, assumption 89). -/
def packageWrite (s : State) (o : Nat) (v : W64) : State :=
  let p := s.pkg
  if 0x800 ≤ o ∧ o < 0xA00 then
    let port := (o - 0x800) / 0x100
    let e := (o - 0x800) % 0x100
    let key := (port, (e - 0x20) / 0x20)
    let w := e % 0x20 / 8
    if e = 0 then { s with pkg := { p with ewEn := modifyAt (fun _ => v.getLsbD 0) port p.ewEn } }
    else if 0x20 ≤ e ∧ e < 0xA0 ∧ e % 0x20 < 24 then
      { s with pkg := { p with ewWin := assocSet key (setWord3 (assocGet (0, 0, 0) key p.ewWin) w (v &&& rangeMask w)) p.ewWin } }
    else s
  else if 0xA00 ≤ o ∧ o < 0xB00 then
    let key := (o - 0xA00) / 0x20
    let w := o % 0x20 / 8
    if o % 0x20 < 24 then { s with pkg := { p with dmaWin := assocSet key (setWord3 (assocGet (0, 0, 0) key p.dmaWin) w (v &&& rangeMask w)) p.dmaWin } } else s
  else if 0xD00 ≤ o ∧ o < 0x1100 then
    let c := (o - 0xD00) / 0x20
    match o % 0x20 with
    | 0x00 => s.updCtx c fun k => { k with logBase := v &&& maskBits 51 12 }
    | 0x08 => s.logLimitWrite c v
    | 0x18 => s.logCtlWrite c v
    | _ => s
  else match o with
    | 0x000 => { s with pkg := { p with xcost := natField v.toNat 0 8 } }
    | 0x1108 => if v.getLsbD 0 then s.reboot 1 else s
    | 0x1200 => s.secCommand v
    | 0x1208 => { s with pkg := { p with secBuf := v &&& maskBits 51 6 } }
    | _ => s

/-! ### Any register of the aperture -/

/-- FRREAD (R413): a value ahead of FRWRITE, or more than 256 behind it, is ignored; bits 63:32 are as RSV (DESIGN CHOICE, assumption 89). -/
def frReadWrite (s : State) (ctx : Nat) (v : W64) : State :=
  s.updCtx ctx fun c => if (c.frWrite - v.setWidth 32).toNat ≤ Config.faultRingEntries then { c with frRead := v.setWidth 32 } else c

/-- Writable bits of MQDESTn (R422). -/
def mqMask : W64 := maskBits 63 62 ||| maskBits 16 16 ||| maskBits 13 8 ||| maskBits 5 0

/-- An 8-byte write of a register under its access codes (R5); none where the block has no register there to write. -/
def blockWrite (s : State) (b : Block) (v : W64) : Option State :=
  match b with
  | .silt _ _ => none
  | .render d o => some (s.renderWrite d o v)
  | .display o => some (if o = 0 then s.dmodeWrite v else s)
  | .queue c o =>
    if o < 0xF00 then none
    else some (if o = 0xF08 then s.updCtx c fun k => { k with cgsweep := v } else if o = 0xF10 then s.cancelGroups c v else s)
  | .faultRing c o => some (if o = 0x2008 then s.frReadWrite c v else s)
  | .sup c o => some (if o % 8 = 0 then s.supWrite c (o / 8 + 0x100) v else s)
  | .package o => some (s.packageWrite o v)
  | .memDie k o => some (s.memDieWrite k (o / 8 + 0x200) v)
  | .messages c o => some (s.updCtx c fun k => { k with mqdest := modifyAt (fun _ => v &&& mqMask) (o / 8) k.mqdest })

/-- Bytes stored to the Silt by an engine, a thread or a host: the control region ignores them (R152, R392). -/
def siltStore (s : State) (d o : Nat) (bs : List Byte) : State :=
  (bs.zipIdx).foldl (fun s p => if 0x10000 ≤ o + p.2 then s.writeMem (siltBase d + o + p.2) [p.1] else s) s

/-- A write at an address that the given block covers. -/
def blockStore (s : State) (device : Bool) (ia : Nat) (bs : List Byte) (k : Option Block) : Except Nat State :=
  match k with
  | none => .error Cause.page
  | some (.silt d o) => .ok (s.siltStore d o bs)
  | some b =>
    if device && !b.device then .error Cause.perm
    else if bs.length ≠ 8 ∨ ia % 8 ≠ 0 then .error Cause.page
    else match s.blockWrite b (BitVec.ofNat 64 (leNat bs)) with
      | some s => .ok s
      | none => .error Cause.page

/-- A store to the aperture (R413) by a device thread or an application core; the error is the cause of a memory-side fault. A
store to the post area is the host's (R64). -/
def apertureWrite (s : State) (device : Bool) (ia : Nat) (bs : List Byte) : Except Nat State := s.blockStore device ia bs (blockOf ia)

/-! ### Writes of engines and of requests outside module memory (R169, R413, R430) -/

/-- The Ewerlink port of an address carries accesses (R430, R431). -/
def portOpen (s : State) (ia : Nat) : Bool :=
  let p := (ia - 2 ^ 51) / 2 ^ 49
  s.pkg.ewUp.getD p false && s.pkg.ewEn.getD p false

/-- The unit whose chronometer times a store to the aperture (R154, R413): of a die's Silt and render block that die, of a memory die's
registers that die, of the other blocks die 0's (DESIGN CHOICE, assumption 101). -/
def blockUnit (k : Option Block) : CoreId := match k with
  | some (.silt d _) | some (.render d _) => dieUnit d
  | some (.memDie k _) => memDieUnit k
  | _ => dieUnit 0

/-- A write at an intermediate address on any route, with its W. In the aperture W is the unit's chronometer (R413); what
goes to another module or to PCIe space leaves the device. -/
def deviceWrite (s : State) (ia : Nat) (bs : List Byte) (ctx : Nat := 0) : Except Nat (State × Nat) :=
  if inModule ia then
    match s.homeWritable .write (unitSpans ia bs.length) with
    | some c => .error c
    | none => .ok (s.homeWrite ia bs ctx)
  else if inAperture ia then (s.apertureWrite true ia bs).map fun s' => (s', s.chrono (blockUnit (blockOf ia)))
  else if inEwerlink ia && !(s.portOpen ia) then .error Cause.page
  else if inEwerlink ia && Config.foreignRefuses s.clk.free then .error Cause.perm
  else .ok (s.emit (.sent (outsideAddr ia).1 (outsideAddr ia).2 bs), 0)

/-- What an engine's access meets: RANGE or PERM, an absent page, an uncorrected error at a physical address, or nothing. -/
inductive Met (α : Type) where
  | ok (a : α)
  | cause (c : Nat)
  | absent (ia : Nat)
  | uncorrected (pa : Nat)
  deriving DecidableEq, Repr

/-- An error of a device access at an address as an engine meets it. -/
def metError (s : State) (ia n : Nat) (need : Need) (c : Nat) {α : Type} : Met α :=
  if c = Cause.page then
    .absent (((unitSpans ia n).find? fun u => match s.pageFor u.1 need with | .error e => e == Cause.page | .ok _ => false).map (·.1) |>.getD ia)
  else if c = Cause.uncorrected then .uncorrected (s.spoiltAddress ia n need) else .cause c

/-- An engine reads n bytes at a virtual address of a context (R123, R169, R288). -/
def engineRead (s : State) (ctx va n : Nat) : Met (List Byte × State) :=
  match s.ctx ctx with
  | none => .cause Cause.range
  | some c => match rangeCheck c va n .read with
    | .error e => .cause e
    | .ok (ia, _) => match s.deviceRead ia n with
      | .ok r => .ok r
      | .error e => s.metError ia n .read e

/-- The checks of an engine's write of n bytes, with the intermediate address. -/
def engineWritable (s : State) (ctx va n : Nat) : Met Nat :=
  match s.ctx ctx with
  | none => .cause Cause.range
  | some c => match rangeCheck c va n .write with
    | .error e => .cause e
    | .ok (ia, _) =>
      if inModule ia then (match s.homeWritable .write (unitSpans ia n) with | some e => s.metError ia n .write e | none => .ok ia)
      else if inAperture ia then (match s.apertureWrite true ia (List.replicate n 0) with | .error e => s.metError ia n .write e | .ok _ => .ok ia)
      else if inEwerlink ia && !(s.portOpen ia) then .absent ia
      else if inEwerlink ia && Config.foreignRefuses s.clk.free then .cause Cause.perm
      else .ok ia

/-- An engine's write for a context that has passed its checks, with its W. -/
def engineWrite (s : State) (ctx ia : Nat) (bs : List Byte) : State × Nat :=
  match s.deviceWrite ia bs ctx with
  | .ok r => r
  | .error _ => (s, 0)

/-- The first cycle at which an engine's write at an address has been acknowledged from outside module memory: after the trip to its unit
and back, or to the remote module, which may be longer (R170, R177; DESIGN CHOICE, assumption 80). -/
def ackedFrom (s : State) (ia : Nat) : Nat × State :=
  if inModule ia then (0, s) else (s.clk.cycle + 140 + Config.extraDelay s.clk.free, { s with clk := { s.clk with free := s.clk.free + 1 } })

/-- The Ewerlink port of an address. -/
def portOf (ia : Nat) : Nat := (ia - 2 ^ 51) / 2 ^ 49

/-- A command keeps in mind a write of its own over an Ewerlink port until it has been acknowledged (R434). -/
def noteRemote (s : State) (id ia acked : Nat) : State :=
  if inEwerlink ia then s.updCmd id fun q => { q with remote := q.remote ++ [(portOf ia, acked)] } else s

end State

/-! ### Rows of register writes -/

/-- REGISTER_WRITE (R5): an application core writes a register. -/
def execRegisterWrite (ia : Nat) (value : W64) (s : State) : Host.Outcome State Fault Refusal :=
  .next (match s.apertureWrite false ia (leBytes 8 value.toNat) with
    | .ok s' => s'.answer 0 [] false
    | .error _ => s.answer 0 [] true)

/-- FRREAD_WRITE (R413). -/
def execFrreadWrite (ctx : Nat) (value : W64) (s : State) : Host.Outcome State Fault Refusal := .next (s.frReadWrite ctx value)

/-- DMODE_WRITE (R414). -/
def execDmodeWrite (value : W64) (s : State) : Host.Outcome State Fault Refusal := .next (s.dmodeWrite value)

/-- SNAPSHOT_GO (R394). -/
def execSnapshotGo (die n : Nat) (s : State) : Host.Outcome State Fault Refusal := .next (s.snapGo die n)

/-- MIGCTL_START (R132, R133); sockets 2 to 5 are memory dies 0 to 3. -/
def execMigctlStart (socket : Nat) (s : State) : Host.Outcome State Fault Refusal :=
  .next (if 2 ≤ socket ∧ socket ≤ 5 then s.migStart (socket - 2) else s)

/-- PROMCTL_PUSH (R132): the written value also carries EN. -/
def execPromctlPush (socket : Nat) (value : W64) (s : State) : Host.Outcome State Fault Refusal :=
  .next (if 2 ≤ socket ∧ socket ≤ 5 then s.memDieWrite (socket - 2) 0x205 value else s)

/-- CTXCTL of a context with a bit set, as software writes it: DEAD written 0. -/
def ctlWith (s : State) (ctx bit : Nat) : W64 := (((s.ctx ctx).map (·.ctl)).getD 0 &&& 0x2F#8).setWidth 64 ||| (1#64 <<< bit)

/-- CONTEXT_ENABLE (R320, R322): EN is written 1. -/
def execContextEnable (ctx : Nat) (s : State) : Host.Outcome State Fault Refusal := .next (s.writeCtl ctx (ctlWith s ctx 0))

/-- CONTEXT_HALT (R320): HALT is written 1. -/
def execContextHalt (ctx : Nat) (s : State) : Host.Outcome State Fault Refusal := .next (s.writeCtl ctx (ctlWith s ctx 3))

/-- DEAD_CLEAR (R320): 1 is written to DEAD. -/
def execDeadClear (ctx : Nat) (s : State) : Host.Outcome State Fault Refusal := .next (s.writeCtl ctx (ctlWith s ctx 6))

/-- LOG_ENABLE (R445): LOG is written 1. -/
def execLogEnable (ctx : Nat) (s : State) : Host.Outcome State Fault Refusal := .next (s.writeCtl ctx (ctlWith s ctx 5))

/-- LOGLIMIT_WRITE (R446). -/
def execLoglimitWrite (ctx : Nat) (value : W64) (s : State) : Host.Outcome State Fault Refusal := .next (s.logLimitWrite ctx value)

/-- SEC_EXTEND (R442). -/
def execSecExtend (mr : Nat) (s : State) : Host.Outcome State Fault Refusal := .next (s.secExtend mr)

/-- SEC_ATTEST (R443). -/
def execSecAttest (s : State) : Host.Outcome State Fault Refusal := .next s.secAttest

/-- ATTEST_REPORT_DONE (R443): the report is in memory and SECSTAT reads done. Its CHRONO is die 0's (DESIGN CHOICE, assumption 116). -/
def execAttestReportDone (s : State) : Host.Outcome State Fault Refusal :=
  .next (if s.pkg.secStat ≠ 1 then s
    else match s.secBuffer 704 with
      | none => s.setSec 3
      | some at' =>
        let body := s.pkg.secNonce ++ s.pkg.mr.flatten ++ leBytes 8 (s.chrono (State.dieUnit 0)) ++ List.replicate 24 0
        let report := body ++ (List.range 384).map fun k => Config.identitySignature body k
        match s.homeWritable .write (State.unitSpans at' 704) with
        | some _ => (s.reportMalformed 0 at' 704).setSec 3
        | none => (s.homeWrite at' report).1.setSec 2)

end Sys2Proof.Machine
end

