-- ==== Sys2Proof/Machine/Traverse.lean ====
section
/-! DEFINITION. The traversal of a ray through a hierarchy window (spec/22_render.md R397 to R404, R451). -/

namespace Sys2Proof.Machine

/-! ### Values with infinities -/

/-- A number or an infinity. -/
inductive Lim where
  | below
  | fin (v : Frac)
  | above
  deriving DecidableEq, Repr

namespace Lim
def lt : Lim → Lim → Bool
  | .below, .below | .above, _ | .fin _, .below => false
  | .below, _ | .fin _, .above => true
  | .fin a, .fin b => a.lt b
def le (a b : Lim) : Bool := !(b.lt a)
def max (a b : Lim) : Lim := if a.lt b then b else a
def min (a b : Lim) : Lim := if b.lt a then b else a
end Lim

/-- The value of binary32 bits; none for a NaN. -/
def lim32 (bits : Nat) : Option Lim :=
  match Fp.decode .binary32 bits with
  | .nan _ => none
  | .inf n => some (if n then .below else .above)
  | .num n m e => some (.fin (Frac.scaled n m e))

/-- ROUND to binary32, nearest-even. -/
def round32 (v : Frac) : Lim := (lim32 (roundFrac .binary32 .nearestEven false v).bits).getD (.fin v)

/-! ### Vectors -/

def vec (l : List Frac) (k : Nat) : Frac := l.getD k ⟨0, 1⟩
def vsub (a b : List Frac) : List Frac := (List.range 3).map fun k => ((vec a k).sub (vec b k)).reduce
def vdot (a b : List Frac) : Frac := ((List.range 3).foldl (fun (s : Frac) k => s.add ((vec a k).mul (vec b k))) ⟨0, 1⟩).reduce
def vcross (a b : List Frac) : List Frac :=
  [(1, 2), (2, 0), (0, 1)].map fun p => (((vec a p.1).mul (vec b p.2)).sub ((vec a p.2).mul (vec b p.1))).reduce

/-- A ray in use: origin and direction. -/
structure Ray where
  o : List Frac
  d : List Frac
  deriving DecidableEq, Repr

/-- A hit: distance, barycentric weights of vertices 1 and 2, instance, primitive, shader. -/
structure Hit where
  t : Frac
  u : Frac
  v : Frac
  inst : Nat
  prim : Nat
  shader : Nat
  deriving DecidableEq, Repr

/-! ### The box test (R400) -/

/-- The end of an axis interval: ROUND((x − o) / d). -/
def slabEnd (x : Lim) (o d : Frac) : Lim :=
  match x with
  | .fin v => round32 ((v.sub o).div d)
  | .above => if d.isNeg then .below else .above
  | .below => if d.isNeg then .above else .below

/-- Where the ray enters a box that it meets. -/
def boxEntry (bounds : List Nat) (r : Ray) (tmin tb : Lim) : Option Lim :=
  match (bounds.map lim32).mapM id with
  | none => none
  | some bs =>
    let axis := fun (k : Nat) => (bs.getD k .above, bs.getD (k + 3) .below, vec r.o k, vec r.d k)
    let axes := (List.range 3).map axis
    if axes.any fun a => a.2.1.lt a.1 then none
    else if axes.any fun a => a.2.2.2.isZero && !((a.1.le (.fin a.2.2.1)) && (Lim.fin a.2.2.1).le a.2.1) then none
    else
      let ends := (axes.filter fun a => !a.2.2.2.isZero).map fun a => (slabEnd a.1 a.2.2.1 a.2.2.2, slabEnd a.2.1 a.2.2.1 a.2.2.2)
      let entry := ends.foldl (fun m e => m.max (e.1.min e.2)) tmin
      let leave := ends.foldl (fun m e => m.min (e.1.max e.2)) tb
      if entry.le leave then some entry else none

/-! ### The triangle test (R401) -/

/-- The range of t along which a + b t ≥ 0. -/
def clipRange (a b : Frac) (range : Option (Lim × Lim)) : Option (Lim × Lim) :=
  range.bind fun (lo, hi) =>
    if b.isZero then (if a.isNeg then none else some (lo, hi))
    else
      let t := (a.neg.div b).reduce
      if b.isNeg then some (lo, hi.min (.fin t)) else some (lo.max (.fin t), hi)

/-- Distance and barycentric weights at which a ray meets a triangle. -/
def triangleHit (vs : List Frac) (r : Ray) (tmin tb : Lim) (cull : Bool) : Option (Frac × Frac × Frac) :=
  let v0 := vs.take 3
  let e1 := vsub ((vs.drop 3).take 3) v0
  let e2 := vsub ((vs.drop 6).take 3) v0
  let n := vcross e1 e2
  let nn := vdot n n
  let den := vdot n r.d
  if nn.isZero || (cull && decide (0 < den.num)) then none
  else
    let w0 := vsub r.o v0
    let uOf := fun (w : List Frac) => ((vdot (vcross w e2) n).div nn).reduce
    let vOf := fun (w : List Frac) => ((vdot (vcross e1 w) n).div nn).reduce
    let u0 := uOf w0
    let v0' := vOf w0
    let ud := uOf r.d
    let vd := vOf r.d
    let at' := fun (t : Frac) => (t, (u0.add (t.mul ud)).reduce, (v0'.add (t.mul vd)).reduce)
    if !den.isZero then
      let t := (((vdot n w0).neg).div den).reduce
      let (_, u, v) := at' t
      if !(tmin.le (.fin t)) || !((Lim.fin t).le tb) || u.isNeg || v.isNeg || (Frac.lt ⟨1, 1⟩ (u.add v)) then none else some (at' t)
    else if !(vdot n w0).isZero then none
    else
      let range := clipRange u0 ud (clipRange v0' vd (clipRange ((Frac.ofInt 1).sub (u0.add v0')).reduce ((ud.add vd).neg).reduce (some (tmin, tb))))
      match range with
      | some (.fin lo, hi) => if (Lim.fin lo).le hi then some (at' lo) else none
      | _ => none

/-! ### The loop (R403) -/

/-- What a traversal keeps: the ray record's TMIN, MASK, FIRST, CULL and BUDGET, the window. -/
structure TraceArgs where
  ctx    : Nat
  die    : Nat
  base   : Nat
  root   : Nat
  size   : Nat
  rtype  : Nat
  ray    : Ray
  tmin   : Lim
  mask   : Nat
  first  : Bool
  cull   : Bool
  budget : Nat
  deriving DecidableEq, Repr

/-- A stacked node: offset, type, depth, rank, instance. -/
structure Entry where
  off   : Nat
  typ   : Nat
  depth : Nat
  rank  : Nat
  inst  : Option (Nat × Ray)
  deriving DecidableEq, Repr

/-- The registers of a traversal. -/
structure Walker where
  node   : Entry
  tb     : Lim
  best   : Option Hit
  visits : Nat
  lost   : Bool
  mark   : Option Nat
  trail  : List Nat
  stack  : List Entry
  cycles : Nat

/-- How a traversal ends: status, best hit, visits, cycles. -/
structure TraceEnd where
  status : Nat
  best   : Option Hit
  visits : Nat
  cycles : Nat
  deriving DecidableEq, Repr

def Walker.finish (w : Walker) (status : Nat) : TraceEnd := ⟨status, w.best, w.visits, w.cycles⟩

/-- A push; onto eight entries it discards the bottom one. -/
def Walker.push (w : Walker) (e : Entry) : Walker :=
  if 8 ≤ w.stack.length then { w with stack := e :: w.stack.take 7, lost := true } else { w with stack := e :: w.stack }

/-- POP: the next node, or the end. -/
def Walker.pop (w : Walker) (a : TraceArgs) : Walker ⊕ TraceEnd :=
  match w.stack with
  | [] =>
    if !w.lost then .inr (w.finish (if w.best.isSome then 0 else 1))
    else .inl { w with lost := false, mark := some (w.node.depth - 1), node := ⟨a.root, a.rtype, 0, 0, none⟩ }
  | e :: rest => .inl { w with stack := rest, trail := w.trail.set (e.depth - 1) e.rank, node := e }

/-- Visit a leaf (R401). -/
def Walker.leaf (w : Walker) (a : TraceArgs) (raw : List Byte) : Walker ⊕ TraceEnd :=
  let coords := (List.range 9).map fun k => lim32 (fieldAt raw (4 * k) 4)
  let vs := coords.filterMap fun c => match c with | some (.fin v) => some v | _ => none
  if fieldAt raw 42 2 / 2 ≠ 0 ∨ fieldAt raw 44 4 ≠ 0 ∨ vs.length ≠ 9 then .inr (w.finish 3)
  else
    let r := (w.node.inst.map (·.2)).getD a.ray
    match triangleHit vs r a.tmin w.tb (a.cull && !((fieldAt raw 42 2).testBit 0)) with
    | none => w.pop a
    | some (t, u, v) =>
      let h : Hit := ⟨t, u, v, (w.node.inst.map (·.1)).getD 0xFFFFFFFF, fieldAt raw 36 4, fieldAt raw 40 2⟩
      let better := match w.best with
        | none => true
        | some b => t.lt b.t || (t.same b.t && decide (h.inst < b.inst ∨ (h.inst = b.inst ∧ h.prim < b.prim)))
      if !better then w.pop a
      else
        let w := { w with best := some h, tb := .fin t }
        if a.first then .inr (w.finish 0) else w.pop a

/-- The object ray of an instance (R402); none where it cannot be traced. -/
def objectRay (m : List Frac) (r : Ray) : Option Ray :=
  let row := fun (k : Nat) => (m.drop (4 * k)).take 4
  let exact := fun (k : Nat) (o : Bool) => if o then ((vdot (row k) r.o).add (vec (row k) 3)).reduce else vdot (row k) r.d
  let comp := fun (o : Bool) => (List.range 3).filterMap fun k => match round32 (exact k o) with
    | .fin v => some v
    | _ => none
  let o := comp true
  let d := comp false
  if o.length ≠ 3 ∨ d.length ≠ 3 ∨ d.all (·.isZero) then none else some ⟨o, d⟩

/-- Visit an instance (R399, R402): a masked one is skipped before its transform is looked at. -/
def Walker.instanceNode (w : Walker) (a : TraceArgs) (raw : List Byte) : Walker ⊕ TraceEnd :=
  let m := (List.range 12).filterMap fun k => match lim32 (fieldAt raw (4 * k) 4) with
    | some (.fin v) => some v
    | _ => none
  let root := fieldAt raw 56 4
  if w.node.inst.isSome ∨ !(root == 1 || root == 3) ∨ fieldAt raw 60 4 ≠ 0 then .inr (w.finish 3)
  else if fieldAt raw 52 1 &&& a.mask = 0 then w.pop a
  else if m.length ≠ 12 then .inr (w.finish 3)
  else match objectRay m a.ray with
    | none => w.pop a
    | some r => .inl { w with node := ⟨fieldAt raw 48 4, root, w.node.depth + 1, 0, some (fieldAt raw 53 3, r)⟩ }

/-- Visit a box (R400, R403). -/
def Walker.box (w : Walker) (a : TraceArgs) (raw : List Byte) : Walker ⊕ TraceEnd :=
  if fieldAt raw 0 1 ≠ 1 ∨ ((raw.drop 2).take 14).any (· != 0) then .inr (w.finish 3)
  else
    let r := (w.node.inst.map (·.2)).getD a.ray
    let d := w.node.depth
    let met := (List.range 4).filterMap fun i =>
      let typ := natField (fieldAt raw 1 1) (2 * i) 2
      if typ = 0 then none
      else (boxEntry ((List.range 6).map fun k => fieldAt raw (16 + 24 * i + 4 * k) 4) r a.tmin w.tb).map fun e => (e, typ, fieldAt raw (112 + 4 * i) 4)
    let insert := fun (l : List (Lim × Nat × Nat)) (x : Lim × Nat × Nat) => (l.takeWhile fun y => y.1.le x.1) ++ x :: (l.dropWhile fun y => y.1.le x.1)
    let kids := ((met.foldl insert []).zipIdx).map fun p => (⟨p.1.2.2, p.1.2.1, d + 1, p.2, w.node.inst⟩ : Entry)
    let at' := w.trail.getD d 0
    let descend := match w.mark with
      | some m => decide (d < m ∧ at' < kids.length)
      | none => false
    if descend then
      let w := (kids.drop (at' + 1)).reverse.foldl Walker.push w
      match kids[at']? with
      | some e => .inl { w with node := e }
      | none => w.pop a
    else
      let (c, w) := match w.mark with
        | some m => if d ≤ m then (kids.drop (at' + 1), { w with mark := none }) else (kids, w)
        | none => (kids, w)
      match c with
      | [] => w.pop a
      | e :: rest => .inl { rest.reverse.foldl Walker.push w with trail := w.trail.set d e.rank, node := e }

/-- Units of 16 bytes of a node type. -/
def nodeUnits : Nat → Nat
  | 1 => 8 | 2 => 4 | 3 => 3 | _ => 1

/-- The least cycles of an engine access of n bytes, at most a page, from a die to their homes (R301, R451). -/
def homeCycles (s : State) (ctx die va n : Nat) : Nat :=
  let home := fun (a : Nat) => match (s.ctx ctx).bind fun c => translate c a 1 with
    | some (ia, _) => (match s.pageFor ia .read with | .ok (pa, _) => s.homeOf pa ia | .error _ => die)
    | none => die
  if home va = die ∧ home (va + n - 1) = die then 140 else 260

/-- The least cycles of a node visit: its read at its home, and its test (R451). -/
def visitCycles (s : State) (a : TraceArgs) (va typ : Nat) : Nat :=
  homeCycles s a.ctx a.die va (16 * nodeUnits typ) + (match typ with | 1 => 4 | 2 => 8 | _ => 6)

/-- VISIT, from the node that the walker stands at. -/
def traverseFor (a : TraceArgs) : (fuel : Nat) → State → Walker → State.Met (TraceEnd × State)
  | 0, s, w => .ok (w.finish 2, s)
  | fuel + 1, s, w =>
    let w := { w with visits := w.visits + 1 }
    let n := w.node
    if a.budget < w.visits ∨ 64 ≤ n.depth then .ok (w.finish 2, s)
    else if a.size < n.off + nodeUnits n.typ then .ok (w.finish 3, s)
    else
      let va := a.base + 16 * n.off
      match s.engineRead a.ctx va (16 * nodeUnits n.typ) with
      | .cause c => .cause c
      | .absent ia => .absent ia
      | .uncorrected pa => .uncorrected pa
      | .ok (raw, s) =>
        let w := { w with cycles := w.cycles + visitCycles s a va n.typ }
        let next := match n.typ with
          | 3 => w.leaf a raw
          | 2 => w.instanceNode a raw
          | _ => w.box a raw
        match next with
        | .inl w => traverseFor a fuel s w
        | .inr e => .ok (e, s)

/-- The traversal of a ray. -/
def traverse (a : TraceArgs) (tmax : Lim) (s : State) : State.Met (TraceEnd × State) :=
  if a.rtype = 0 then .ok (⟨1, none, 0, 0⟩, s)
  else traverseFor a (a.budget + 2) s ⟨⟨a.root, a.rtype, 0, 0, none⟩, tmax, none, 0, false, none, List.replicate 64 0, [], 0⟩

/-! ### Ray records (R397, R398, R404) -/

/-- What a lane of a TRACE does: its status, the outputs from a byte of its record, the cycles it takes at least. -/
structure TraceDone where
  status : Nat
  outAt  : Nat
  out    : List Byte
  cycles : Nat
  deriving DecidableEq, Repr

/-- Bytes 40 to 63 of a record (R404). -/
def traceOutputs (e : TraceEnd) : List Byte :=
  let r32 := fun (v : Frac) => (roundFrac .binary32 .nearestEven false v).bits
  let r16 := fun (v : Frac) => (roundFrac .binary16 .nearestEven false v).bits
  (match e.best with
   | some h => leBytes 4 (r32 h.t) ++ leBytes 2 (r16 h.u) ++ leBytes 2 (r16 h.v) ++ leBytes 4 h.inst ++ leBytes 4 h.prim ++ leBytes 2 h.shader
   | none => leBytes 4 0x7F800000 ++ leBytes 4 0 ++ leBytes 4 0xFFFFFFFF ++ leBytes 4 0xFFFFFFFF ++ leBytes 2 0xFFFF) ++
  leBytes 2 e.status ++ leBytes 4 e.visits

/-- A lane that ends without a traversal and writes STATUS and VISITS only. -/
def traceRefused (status : Nat) : TraceDone := ⟨status, 58, leBytes 2 status ++ leBytes 4 0, 0⟩

/-- The fields of a well-formed record: ray, TMIN, TMAX; none where it is malformed (R398). -/
def rayOf (raw : List Byte) (paymax : Nat) : Option (Ray × Lim × Lim) :=
  let f := (List.range 8).filterMap fun k => lim32 (fieldAt raw (4 * k) 4)
  let word := fieldAt raw 32 4
  match f with
  | [o0, o1, o2, tmin, d0, d1, d2, tmax] =>
    let fins := fun (l : List Lim) => l.filterMap fun x => match x with | .fin v => some v | _ => none
    let o := fins [o0, o1, o2]
    let d := fins [d0, d1, d2]
    if natField word 24 8 ≠ 0 ∨ natField word 10 6 ≠ 0 ∨ o.length ≠ 3 ∨ d.length ≠ 3 ∨ d.all (·.isZero) ∨ tmax.lt tmin ∨ 2 ^ 20 < fieldAt raw 36 4 ∨
        paymax < natField word 16 8 then none
    else some (⟨o, d⟩, tmin, tmax)
  | _ => none

/-- The status of a failing range or page check: 6 for RANGE, 7 for PERM (R291). -/
def traceCause (c : Nat) : Nat := if c = Cause.perm then 7 else 6

/-- The page and range check of the window's bytes (R397, check 6): the status of a failure, and the address of the page that fails. -/
def windowFault (s : State) (ctx base n : Nat) : Option (Nat × Option Nat) :=
  match s.ctx ctx with
  | none => some (6, none)
  | some c => match rangeCheck c base n .read with
    | .error e => some (traceCause e, none)
    | .ok (ia, _) =>
      if !(inModule ia) then none
      else
        let first := ia / 2 ^ 16
        let pages := (List.range ((ia + n - 1) / 2 ^ 16 + 1 - first)).map fun k => max ia ((first + k) * 2 ^ 16)
        pages.findSome? fun a => match s.pageFor a .read with
          | .ok _ => none
          | .error e => some (if e = Cause.perm then 7 else 6, some a)

/-- The checks of one lane of a TRACE in order, then its traversal, whose cycles it gives (R397). -/
def traceChecked (s : State) (ctx die va : Nat) (b : Nat) (hwin : W64 × W64 × W64) : State.Met (TraceDone × State) :=
  let (w0, w1, w2) := hwin
  let early := if natField b 4 4 ≠ 0 ∨ b / 2 ^ 12 ≠ 0 then some 5 else if !(w2.getLsbD 63) then some 5 else if natField w0.toNat 0 4 < natField b 8 4 then some 4 else none
  match early with
  | some st => .ok (traceRefused st, s)
  | none => match s.engineRead ctx va 64 with
    | .cause c => .ok (⟨traceCause c, 0, [], 0⟩, s)
    | .absent ia => .absent ia
    | .uncorrected pa => .uncorrected pa
    | .ok (raw, s) => match rayOf raw (natField w2.toNat 8 8) with
      | none => .ok (traceRefused 5, s)
      | some (ray, tmin, tmax) =>
        let word := fieldAt raw 32 4
        let payload := if natField word 16 8 = 0 then State.Met.ok ([], s) else s.engineRead ctx (va + 64) (16 * natField word 16 8)
        match payload with
        | .cause c => .ok (⟨traceCause c, 0, [], 0⟩, s)
        | .absent ia => .absent ia
        | .uncorrected pa => .uncorrected pa
        | .ok (_, s) =>
          let base := natField w0.toNat 4 52 * 16
          let size := natField w1.toNat 0 32
          match windowFault s ctx base (max 1 (16 * size)) with
          | some (st, at') => .ok (⟨st, 0, [], 0⟩, (at'.map fun a => s.reportMalformed ctx a 1).getD s)
          | none =>
            let budget := fieldAt raw 36 4
            let a : TraceArgs :=
              { ctx := ctx, die := die, base := base, root := natField w1.toNat 32 32, size := size, rtype := natField w2.toNat 0 2, ray := ray, tmin := tmin
                mask := natField word 0 8, first := word.testBit 8, cull := word.testBit 9, budget := if budget = 0 then 2 ^ 20 else budget }
            match traverse a tmax s with
            | .cause c => .ok (⟨traceCause c, 0, [], 0⟩, s)
            | .absent ia => .absent ia
            | .uncorrected pa => .uncorrected pa
            | .ok (e, s) => .ok (⟨e.status, 40, traceOutputs e, e.cycles⟩, s)

/-- Bytes that a lane reads of its record, its payload included where the record is well formed (R397, R451). -/
def traceBytes (s : State) (ctx va : Nat) (hwin : W64 × W64 × W64) : Nat := match s.engineRead ctx va 64 with
  | .ok (raw, _) => if (rayOf raw (natField hwin.2.2.toNat 8 8)).isSome then 64 + 16 * natField (fieldAt raw 32 4) 16 8 else 64
  | _ => 64

/-- One lane of a TRACE (R397, R451): 24 cycles, the read of its record and payload, the visits, and the write of its outputs. -/
def traceLane (s : State) (ctx die va : Nat) (b : Nat) (hwin : W64 × W64 × W64) : State.Met (TraceDone × State) :=
  match traceChecked s ctx die va b hwin with
  | .ok (d, s') =>
    let reads := homeCycles s ctx die va (traceBytes s ctx va hwin)
    let writes := if d.out.isEmpty then 0 else homeCycles s ctx die (va + d.outAt) d.out.length
    .ok ({ d with cycles := 24 + reads + d.cycles + writes }, s')
  | r => r

end Sys2Proof.Machine
end

