-- ==== Sys2Proof/Machine/Engine.lean ====
section
/-! DEFINITION. The engine commands COPY, TRACE, SXDRAW and SILT with their parts and completions, SXPRI, ENQ and CANCEL,
opcodes 0x70 to 0x76 (spec/15_isa_memory.md R288 to R296; spec/10_consistency.md R169 to R173; spec/22_render.md R391 to R393). -/

namespace Sys2Proof.Machine

/-! ### Copy descriptors (R289, R290) -/

/-- The total of a copy in elements. -/
def CopyDesc.total (d : CopyDesc) : Nat := d.dims.foldl (fun n k => n * k.1) 1

def CopyDesc.bytes (d : CopyDesc) : Nat := d.total * d.esize

/-- Bytes of a descriptor whose NDIM field is n. -/
def descSize (n : Nat) : Nat := 48 + 16 * n

/-- A descriptor from its bytes; none where it is malformed (R290). -/
def CopyDesc.parse (bs : List Byte) : Option CopyDesc :=
  let w := fieldAt bs 16 4
  let n := natField w 0 4
  let e : Nat := 2 ^ natField w 4 3
  let dims := (List.range (n + 1)).map fun k => (fieldAt bs (32 + 16 * k) 4, signedOf 48 (fieldAt bs (36 + 16 * k) 6), signedOf 48 (fieldAt bs (42 + 16 * k) 6))
  let src := fieldAt bs 0 8
  let dst := fieldAt bs 8 8
  let bad := natField w 12 20 != 0 || natField w 7 1 != 0 || decide (4 < natField w 4 3 ∨ 1 < natField w 10 2 ∨ 1 < natField w 8 2) || ((bs.drop 20).take 12).any (· != 0)
  let highPlot := fun (sp v : Nat) => sp == 1 && decide (2 ^ 32 ≤ v)
  if bad || dims.any (fun k => k.1 == 0 || k.2.1 % (e : Int) != 0 || k.2.2 % (e : Int) != 0) || src % e != 0 || dst % e != 0 ||
      highPlot (natField w 8 2) src || highPlot (natField w 10 2) dst then none
  else some ⟨BitVec.ofNat 64 src, BitVec.ofNat 64 dst, natField w 10 2, natField w 8 2, e, dims⟩

/-- Source and destination displacement of the element with a flat number (R289). -/
def CopyDesc.place (d : CopyDesc) (e : Nat) : Int × Int :=
  (d.dims.foldl (fun (acc : Nat × Int × Int) k => (acc.1 / k.1, acc.2.1 + (acc.1 % k.1 : Nat) * k.2.1, acc.2.2 + (acc.1 % k.1 : Nat) * k.2.2)) (e, 0, 0)).2

/-- Elements of a part of 64 KiB, and the elements of part p. -/
def CopyDesc.perPart (d : CopyDesc) : Nat := 65536 / d.esize
def CopyDesc.part (d : CopyDesc) (p : Nat) : List Nat :=
  (List.range (min d.perPart (d.total - p * d.perPart))).map (· + p * d.perPart)
def CopyDesc.parts (d : CopyDesc) : Nat := ceilDiv d.total d.perPart

/-- The code of a failing element (R290). -/
def copyCause (c : Nat) : Nat := if c = Cause.perm then 4 else 3

namespace State

/-! ### Pending bytes of a barrier (R172, R173) -/

/-- A barrier that no BAR.init has set up yet (R172). -/
def freshBarrier : Barrier :=
  { p := 0, scope := .thread, arr := 0, dep := 0, pend := 0, bwmax := 0, sstep := 0, die := 0, teams := [], waiters := [], late := 0, gone := 0, finished := false, wide := false, broken := false }

def barrier (s : State) (ctx b : Nat) : Barrier := ((s.ctx ctx).map fun c => assocGet freshBarrier b c.barriers).getD freshBarrier
def updBarrier (s : State) (ctx b : Nat) (f : Barrier → Barrier) : State :=
  s.updCtx ctx fun c => { c with barriers := assocSet b (f (assocGet freshBarrier b c.barriers)) c.barriers }

/-- Bytes leave PEND with the write time of their part. -/
def pendDone (s : State) (c : Cmd) (n ew : Nat) : State :=
  match c.barrier with
  | none => s
  | some b =>
    let n := min n (((s.cmd c.id).map (·.counted)).getD 0)
    (s.updBarrier c.ctx b fun k => { k with pend := k.pend - n, bwmax := max k.bwmax ew }).updCmd c.id fun k => { k with counted := k.counted - n }

/-! ### The life of a command (R170, R288) -/

/-- The scope at which a command completes (R170, R173): that of its barrier, or of its release flag. -/
def cmdScope (s : State) (c : Cmd) : Scope := match c.barrier with
  | some b => (s.barrier c.ctx b).scope
  | none => if c.rel then c.scope else .thread

/-- The unit whose chronometer a command reads (R154): its cluster's engines, or its die's Silt and Sextant. -/
def cmdUnit (c : Cmd) : CoreId := match c.kind with
  | .copy _ | .trace => engineUnit c.core.die c.core.site
  | .sxdraw | .silt => dieUnit c.core.die

/-- Completion waits for the leases of the command's writes (R170). -/
def cmdTimed (s : State) (c : Cmd) : Bool :=
  match s.cmdScope c with
  | .thread | .group => false
  | .team => c.wide
  | _ => true

/-- Writes with this W, acknowledged at a cycle, complete under the command's flags (R170). -/
def writesOver (s : State) (c : Cmd) (w acked : Nat) : Bool :=
  decide (acked ≤ s.clk.cycle) && (!(s.cmdTimed c) || decide (w + 8 ≤ s.chrono (cmdUnit c)))

/-- The completion of such writes is looked at after at least d cycles, when it can have come. -/
def lookAgain (s : State) (c : Cmd) (d w acked : Nat) : State :=
  let d := max d (acked - s.clk.cycle)
  if s.cmdTimed c then s.afterFrom d (cycleOfTick (w + 8 + assocGet 0 (cmdUnit c) s.clk.skew)) (.engineCommandComplete c.id)
  else s.after d (.engineCommandComplete c.id)

/-- The bytes of a part are written: they leave PEND when the part completes (R173). -/
def partWritten (s : State) (c : Cmd) (n w acked : Nat) : State :=
  if c.barrier.isNone then s
  else (s.updCmd c.id fun k => { k with dues := k.dues ++ [(n, w, acked)] }).lookAgain c 0 w acked

/-- The parts of a command that have completed leave PEND. -/
def settleParts (s : State) (c : Cmd) : State :=
  let written := c.dues.filter fun p => s.writesOver c p.2.1 p.2.2
  written.foldl (fun s p => s.pendDone c p.1 p.2.1) (s.updCmd c.id fun k => { k with dues := k.dues.filter fun p => !(written.contains p) })

/-- The work of a command is done, its last effect at least `lat` cycles away: it completes when its last write has been acknowledged and
its release wait is over. -/
def endCommand (s : State) (c : Cmd) (lat : Nat) : State :=
  match s.cmd c.id with
  | none => s
  | some c => (s.updCmd c.id fun k => { k with ended := true }).lookAgain c lat c.ewmax c.acked

/-- An engine page fault is reported once for its address (R288). -/
def reportPage (s : State) (ctx ia : Nat) : State := if s.pkg.out.contains (.report ctx ia) then s else s.emit (.report ctx ia)

/-- The page fault of a command is reported, and it waits (R288). -/
def blockCommand (s : State) (c : Cmd) (ia : Nat) : State := (s.reportPage c.ctx ia).updCmd c.id fun k => { k with blocked := some ia }

/-- A lane's work is done with a status. -/
def laneStatus (s : State) (c : Cmd) (k : Nat) (st : W32) : State :=
  s.updCmd c.id fun q => { q with lanes := modifyAt (fun l => { l with done := true, status := st }) k q.lanes }

/-- A command is dropped: its threads' slots are released and its statuses discarded. -/
def dropCommand (s : State) (id : Nat) : State := { s with mem := { s.mem with cmds := s.mem.cmds.filter fun c => c.id != id } }

/-- A command reads what an error has spoilt: its context dies, and the command ends (R347, R349). -/
def stopCommand (s : State) (c : Cmd) (pa : Nat) : State := (s.dropCommand c.id).killContext c.ctx Cause.uncorrected pa c.core

/-! ### COPY -/

/-- The first lane that is not done. -/
def cmdLane (c : Cmd) : Option (Nat × CmdLane) := findIdxVal (fun l => !l.done) c.lanes

/-- Go on with a copy: the next descriptor is read and validated, or a permit asked for its next part (R86, R290). -/
def copyNext (s : State) (id : Nat) : (fuel : Nat) → State
  | 0 => s
  | fuel + 1 =>
    match s.cmd id with
    | none => s
    | some c => match cmdLane c, c.kind with
      | none, _ => s.endCommand c 1
      | some _, .copy (some _) => s.askPermit c.core.die (.command id) 12 c.core.site c.realTime
      | some (k, l), _ =>
        let next := fun (s : State) (st : W32) => copyNext (s.laneStatus c k st) id fuel
        match s.engineRead c.ctx l.addr.toNat 32 with
        | .absent ia => s.blockCommand c ia
        | .uncorrected pa => s.stopCommand c pa
        | .cause e => next s (BitVec.ofNat 32 (copyCause e))
        | .ok (head, s) => match s.engineRead c.ctx l.addr.toNat (descSize (natField (fieldAt head 16 4) 0 4)) with
          | .absent ia => s.blockCommand c ia
          | .uncorrected pa => s.stopCommand c pa
          | .cause e => next s (BitVec.ofNat 32 (copyCause e))
          | .ok (bs, s) => match CopyDesc.parse bs with
            | none => next s 1
            | some d =>
              if c.barrier.isSome && decide (2 ^ 32 ≤ d.bytes) then next s 2
              else (s.updCmd id fun q => { q with kind := .copy (some d), parts := 0 }).askPermit c.core.die (.command id) 12 c.core.site c.realTime

/-- The bytes of an element at its source: global, or in the plot that the issuing team holds on the issuing core. -/
def copyRead (s : State) (c : Cmd) (d : CopyDesc) (e : Nat) : Met (List Byte × State) :=
  let at' : Int := d.src.toNat + (d.place e).1
  if d.ssp = 0 then (match s.engineRead c.ctx (wrapTo 64 at') d.esize with | .cause x => .cause (copyCause x) | r => r)
  else match s.plotOf c.team c.core with
    | none => .cause 5
    | some p => if at' < 0 ∨ (p.size : Int) < at' + d.esize then .cause 5
      else if s.plotPoisoned p at'.toNat d.esize then .uncorrected 0 else .ok (p.read at'.toNat d.esize, s)

/-- Where an element is written: an intermediate address, or an offset of the plot. One in a single-writer window of another team gives
the code of the plot, 5 (R141, R290; DESIGN CHOICE, assumption 114). -/
def copyTarget (s : State) (c : Cmd) (d : CopyDesc) (e : Nat) : Met (Nat × Bool) :=
  let at' : Int := d.dst.toNat + (d.place e).2
  if d.dsp = 0 then (match s.engineWritable c.ctx (wrapTo 64 at') d.esize with
    | .ok ia => .ok (ia, false)
    | .cause x => .cause (copyCause x)
    | .absent ia => .absent ia
    | .uncorrected pa => .uncorrected pa)
  else match s.plotOf c.team c.core with
    | none => .cause 5
    | some p =>
      if at' < 0 ∨ (p.size : Int) < at' + d.esize ∨ writerRefuses s p c.team at'.toNat d.esize then .cause 5 else .ok (at'.toNat, true)

/-- Read every source element of a part, in flat order. -/
def copyGather (s : State) (c : Cmd) (d : CopyDesc) : List Nat → Met (List (List Byte) × State)
  | [] => .ok ([], s)
  | e :: es => match s.copyRead c d e with
    | .ok (bs, s) => match copyGather s c d es with
      | .ok (rest, s) => .ok (bs :: rest, s)
      | r => r
    | .cause x => .cause x
    | .absent ia => .absent ia
    | .uncorrected pa => .uncorrected pa

/-- Check every destination element of a part. -/
def copyTargets (s : State) (c : Cmd) (d : CopyDesc) : List Nat → Met (List (Nat × Bool))
  | [] => .ok []
  | e :: es => match s.copyTarget c d e with
    | .ok t => match copyTargets s c d es with
      | .ok rest => .ok (t :: rest)
      | r => r
    | .cause x => .cause x
    | .absent ia => .absent ia
    | .uncorrected pa => .uncorrected pa

/-- Write the elements of a part, with its largest W and the cycle at which the writes that leave the module are acknowledged. -/
def copyScatter (s : State) (c : Cmd) (w acked : Nat) : List ((Nat × Bool) × List Byte) → State × Nat × Nat
  | [] => (s, w, acked)
  | ((at', plot), bs) :: rest =>
    if plot then copyScatter (writePlot s c.team c.core at' bs) c w acked rest
    else
      let (s, w') := s.engineWrite c.ctx at' bs
      let (k, s) := s.ackedFrom at'
      copyScatter (s.noteRemote c.id at' k) c (max w w') (max acked k) rest

/-- The lines that the elements of a part cover together lose their poison (R349). -/
def copyCleans (s : State) (c : Cmd) (targets : List ((Nat × Bool) × List Byte)) : State :=
  let spans := fun (plot : Bool) => (targets.filter fun p => p.1.2 == plot).map fun p => (p.1.1, p.2.length)
  let s := if s.mem.poisoned.isEmpty then s
    else s.clearCovered ((spans false).filterMap fun p => if inModule p.1 then (s.mappedTo p.1).map fun pa => (s.redirect pa p.1, p.2) else none)
  match s.plotOf c.team c.core with
  | some k => if s.mem.plotPoison.isEmpty then s else s.clearPlotCovered k (spans true)
  | none => s

/-- The watchdog of a context restarts (R346). -/
def restartWatchdog (s : State) (ctx : Nat) : State := s.updCtx ctx fun c => { c with watchdog := 0 }

/-- A part of a copy: all of its source, then its writes; or the end of the lane (R290). The order and grouping of its unit reads and
writes is open (R171); here they happen at one moment (DESIGN CHOICE, assumption 100). -/
def copyPart (s : State) (c : Cmd) (d : CopyDesc) (k : Nat) : State :=
  let els := d.part c.parts
  let fails := fun (s : State) (code : Nat) =>
    (((s.updCmd c.id fun q => { q with kind := .copy none }).laneStatus c k (BitVec.ofNat 32 (min c.parts (2 ^ 24 - 1) * 256 + code))).pendDone c
      ((d.total - c.parts * d.perPart) * d.esize) 0).copyNext c.id (c.lanes.length + 1)
  match s.copyGather c d els with
  | .absent ia => s.blockCommand c ia
  | .uncorrected pa => s.stopCommand c pa
  | .cause code => fails s code
  | .ok (bytes, s) => match s.copyTargets c d els with
    | .absent ia => s.blockCommand c ia
    | .uncorrected pa => s.stopCommand c pa
    | .cause code => fails s code
    | .ok targets =>
      let (s, w, acked) := s.copyScatter c 0 0 (targets.zip bytes)
      let s := ((s.copyCleans c (targets.zip bytes)).partWritten c (els.length * d.esize) w acked).restartWatchdog c.ctx
      let s := s.updCmd c.id fun q => { q with ewmax := max q.ewmax w, acked := max q.acked acked, parts := q.parts + 1 }
      if c.parts + 1 < d.parts then s.askPermit c.core.die (.command c.id) 12 c.core.site c.realTime
      else ((s.updCmd c.id fun q => { q with kind := .copy none }).laneStatus c k (BitVec.ofNat 32 (min (c.parts + 1) (2 ^ 24 - 1) * 256))).copyNext c.id (c.lanes.length + 1)

/-! ### TRACE -/

/-- What every lane of a batch does, in lane order, or what stops the batch. -/
def traceLanes (s : State) (c : Cmd) : List CmdLane → Met (List TraceDone × State)
  | [] => .ok ([], s)
  | l :: ls => match traceLane s c.ctx c.core.die l.addr.toNat l.b.toNat (l.hwin.getD (0, 0, 0)) with
    | .ok (d, s) => match traceLanes s c ls with
      | .ok (rest, s) => .ok (d :: rest, s)
      | r => r
    | .cause x => .cause x
    | .absent ia => .absent ia
    | .uncorrected pa => .uncorrected pa

/-- The permit of a batch has come: every lane traverses, and ends after the cycles of R451. -/
def traceBegin (s : State) (c : Cmd) : State :=
  match s.traceLanes c c.lanes with
  | .absent ia => s.blockCommand c ia
  | .uncorrected pa => s.stopCommand c pa
  | .cause _ => s
  | .ok (ds, s) =>
    let s := s.updCmd c.id fun q => { q with lanes := (q.lanes.zip ds).map fun p => { p.1 with outAt := p.2.outAt, out := p.2.out, status := BitVec.ofNat 32 p.2.status } }
    (ds.zipIdx).foldl (fun s p => s.after p.1.cycles (.traceLaneComplete c.id p.2)) s

/-! ### SILT (R391 to R393) -/

/-- Records of a band's bin (R392). -/
def binSize (r : Render) : Nat := if viewBands r = 0 then 0 else 2095104 / viewBands r

/-- Append a record to a die's Silt. -/
def siltPut (s : State) (d : Nat) (bs : List Byte) : State :=
  match s.die d with
  | none => s
  | some r =>
    let x := fieldAt bs 0 2 / 16
    let y := fieldAt bs 2 2
    let b := y / 256
    if viewWidth r ≤ x ∨ viewHeight r ≤ y / 16 ∨ viewBands r ≤ b then s.updDie d fun k => { k with drops := k.drops + 1 }
    else
      let n := assocGet 0 b r.wcount
      let s := s.writeMem (siltBase d + 0x10000 + 32 * (b * binSize r + n.toNat % binSize r)) (bs.take 32)
      s.updDie d fun k => { k with wcount := assocSet b (n + 1) k.wcount }

/-- An append with its copy in the binocular overlap (R393). -/
def siltAppend (s : State) (d : Nat) (bs : List Byte) : State :=
  let s' := s.siltPut d bs
  match s.die d with
  | none => s
  | some r =>
    let x := fieldAt bs 0 2
    let o := r.ovl.toNat
    if r.ovl.getLsbD 63 ∧ natField o 0 13 ≤ x / 16 ∧ x / 16 < natField o 16 13 ∧ s.dieOk (1 - d) then
      let x' := wrapTo 16 ((x : Int) + 16 * signedOf 16 (natField o 32 16))
      let flags := bs.getD 28 0 ||| 2
      s'.siltPut (1 - d) (overlay 28 [flags] (overlay 0 (leBytes 2 x') bs))
    else s'

/-- Read the records of a SILT, in lane order. -/
def siltRecords (s : State) (c : Cmd) : List CmdLane → Met (List (Nat ⊕ List Byte) × State)
  | [] => .ok ([], s)
  | l :: ls =>
    let rest := fun (x : Nat ⊕ List Byte) (s : State) => match siltRecords s c ls with
      | .ok (more, s) => Met.ok (x :: more, s)
      | r => r
    match s.engineRead c.ctx l.addr.toNat 32 with
    | .ok (bs, s) => rest (.inr bs) s
    | .cause x => rest (.inl (traceCause x)) s
    | .absent ia => .absent ia
    | .uncorrected pa => .uncorrected pa

/-- SILT's work: every record is read, then the appends are made in lane order. -/
def siltRun (s : State) (c : Cmd) : State :=
  match s.siltRecords c c.lanes with
  | .absent ia => s.blockCommand c ia
  | .uncorrected pa => s.stopCommand c pa
  | .cause _ => s
  | .ok (rs, s) =>
    let s := rs.foldl (fun s r => match r with | .inr bs => s.siltAppend c.core.die bs | .inl _ => s) s
    let w := s.chrono (dieUnit c.core.die)
    let lanes := (c.lanes.zip rs).map fun p => { p.1 with done := true, status := match p.2 with | .inl st => BitVec.ofNat 32 st | .inr _ => 0 }
    let s := (s.updCmd c.id fun q => { q with lanes := lanes, ewmax := max q.ewmax w }).partWritten c (32 * rs.length) w (s.clk.cycle + 140)
    match s.cmd c.id with
    | some c => s.endCommand c 140
    | none => s

/-! ### Beginning -/

/-- The unit that works on a command: a cluster's copy engine or traversal unit, or the die's Silt or Sextant (R11, R288). -/
def sameUnit (a b : Cmd) : Bool :=
  match a.kind, b.kind with
  | .copy _, .copy _ | .trace, .trace => a.core.die == b.core.die && a.core.site == b.core.site
  | _, _ => false

/-- A command waits for accesses of its threads (R170, R288), or for an earlier command of its unit. -/
def cmdHeld (s : State) (c : Cmd) : Bool :=
  (s.mem.requests.any fun r => c.after.contains r.id) || (s.mem.flits.any fun f => c.after.contains f.id) ||
  (s.mem.results.any fun r => c.after.contains r.id) || (s.tile.uses.any fun u => c.after.contains u.id) ||
  (s.mem.cmds.any fun k => k.id != c.id && sameUnit k c && k.begun && !k.ended && k.blocked.isNone) ||
  ((s.mem.cmds.takeWhile fun k => k.id != c.id).any fun k => sameUnit k c && !k.begun)

/-- Hand the lanes of an SXDRAW to the die's Sextant, in lane order (R292, R384). -/
def sextantTakes (s : State) (c : Cmd) : State :=
  (c.lanes.zipIdx).foldl (fun s p =>
    let (id, s) := s.fresh
    s.updDie c.core.die fun r => { r with blocks := r.blocks ++ [⟨id, c.id, p.2, p.1.addr, [], c.ctx, .waiting, 0, 0, [], [], [], 0, none⟩] }) s

/-- A command begins its work. -/
def beginCommand (s : State) (c : Cmd) : State :=
  let s := s.updCmd c.id fun q => { q with begun := true }
  match c.kind with
  | .copy _ => s.copyNext c.id (c.lanes.length + 1)
  | .trace => s.askPermit c.core.die (.command c.id) 6 c.core.site c.realTime
  | .sxdraw => s.sextantTakes c
  | .silt => s.siltRun c

/-- The page that an access waited for is there. -/
def pageThere (s : State) (ia : Nat) : Bool :=
  if inModule ia then (match s.walk ia with | .mapped _ _ => true | .page _ => false) else s.portOpen ia

/-- A command whose page has come goes on. -/
def unblockCommand (s : State) (c : Cmd) : State :=
  let s := s.updCmd c.id fun q => { q with blocked := none }
  match c.kind with
  | .copy (some _) => s.after 1 (.copyPartComplete c.id)
  | .copy none => s.copyNext c.id (c.lanes.length + 1)
  | .trace =>
    if c.lanes.any fun l => l.out != [] then
      (c.lanes.zipIdx).foldl (fun s p =>
        if p.1.done || s.clk.timers.any fun t => t.2 == .traceLaneComplete c.id p.2 then s else s.after 1 (.traceLaneComplete c.id p.2)) s
    else s.traceBegin c
  | .silt => s.siltRun c
  | .sxdraw => s

/-- Every command that can begin or go on does so, in the order of their arrival. -/
def beginCommands (s : State) : State :=
  (s.mem.cmds.map (·.id)).foldl (fun s id => match s.cmd id with
    | none => s
    | some c => match c.blocked with
      | some ia => if s.pageThere ia then s.unblockCommand c else s
      | none => if !c.begun && !(s.cmdHeld c) then s.beginCommand c else s) s

/-- The permit of a command's next part or batch is granted (R85, R86). -/
def commandPermit (s : State) (id : Nat) : State :=
  match s.cmd id with
  | none => s
  | some c => match c.kind with
    | .copy (some d) => s.after (140 + (d.part c.parts).length * d.esize / 128) (.copyPartComplete id)
    | .trace => s.traceBegin c
    | _ => s

/-! ### Issue -/

/-- Accesses of threads that a command waits for: all of them under ACQ, what the L1, the plot and a tile image have still to return
included (R170); else their stores to the command blocks (R288). -/
def waitsFor (s : State) (ts : List TRef) (acq : Bool) (blocks : List (Nat × Nat)) : List Nat :=
  let mine := fun (r : Request) => r.parts.any fun p => ts.contains p.t
  let meets := fun (r : Request) => (match r.kind with | .store | .atomic _ _ => true | _ => false) &&
    r.parts.any fun p => ts.contains p.t && blocks.any fun b => decide (r.ia + p.off < b.1 + b.2 ∧ b.1 < r.ia + p.off + p.size)
  ((s.mem.requests.filter fun r => mine r && (acq || meets r)).map (·.id)) ++
  (if acq then
    (s.mem.flits.filter fun f => match f.from' with | some (t, _, _) => ts.contains t | none => false).map (·.id) ++
    (s.mem.results.filter fun r => r.access && r.counted.any fun t => ts.contains t).map (·.id) ++
    (s.tile.uses.filter fun u => accessUse u && u.threads.any fun t => ts.contains t).map (·.id)
  else [])

/-- The address of a lane's command block (R288); under KW = 1 there is no IMM to add (R185). -/
def blockVa (x : Fields) (l : Lane) : Nat := globalVa x l.a

/-- Bytes of a copy descriptor at an address: its NDIM is that of its home, or that of a store of the issuing threads on its way, which the
command waits for (R161, R288). -/
def descBytes (s : State) (tm : Team) (ts : List TRef) (va : Nat) : Nat :=
  match rangeCheck (ctxOf s tm) (va + 16) 4 .read, s.contextRead tm.ctx (va + 16) 4 with
  | .ok (ia, _), .ok (bs, _) => descSize (natField (leNat (ts.foldl (fun bs t => applyOwn (s.queueBytes t tm.ctx ia 4) bs) bs)) 0 4)
  | _, _ => descSize 0

/-- The bytes that a COPY counts in its barrier for a descriptor (R173), or the absent page that it lies in. -/
def descCount (s : State) (tm : Team) (va n : Nat) : Except Nat Nat := match s.engineRead tm.ctx va n with
  | .ok (bs, _) => .ok (((CopyDesc.parse bs).map (·.bytes)).getD 0)
  | .absent ia => .error ia
  | _ => .ok 0

/-- The bytes that a command counts in its barrier for each lane (R173), or an absent page that a descriptor lies in. -/
def countedBytes (s : State) (tm : Team) (op : Nat) (ts : List TRef) (vas : List Nat) : Except Nat (List Nat) :=
  if op = 0x74 then .ok (vas.map fun _ => 32) else vas.mapM fun va => s.descCount tm va (s.descBytes tm ts va)

/-- Commands that a unit's queue holds (R288). -/
def queueFull (s : State) (c : Cmd) : Bool :=
  let n := (s.mem.cmds.filter fun k => sameUnit k c).length
  match c.kind with
  | .copy _ => decide (16 ≤ n)
  | .trace => decide (8 ≤ n)
  | _ => false

/-- The issue of an engine command: its block is checked as a load; a full queue, a barrier that cannot take its bytes yet, or an absent page
of a descriptor whose bytes it counts, which is reported, holds it (R173, R288; DEDUCED, assumption 41). -/
def engineOp (s : State) (op : Nat) (x : Fields) (kind : CmdKind) (size : State → Team → List TRef → Nat → Nat) (align : Nat) : State :=
  s.issueThen op x fun tm sp act =>
    let part := act.filter fun t => t.guardTrue x.guard
    match part with
    | [] => s.advance act x.form.length
    | h :: _ =>
      let refs := part.map (·.ref)
      let consts := constOperand s tm sp x
      let lanes := part.map (laneOf s sp x consts.got)
      let block := fun (l : Lane) => size s tm refs (blockVa x l)
      let checks := lanes.map fun l => (globalCheck (ctxOf s tm) .read (block l) align (blockVa x l) l.t.lane).map fun r => (l, r.1)
      match firstFail (checks ++ constCheck consts) with
      | some t => s.trapGroup t
      | none => match consts with
        | .missing va ia => fillConst s tm va ia part
        | _ =>
        let bar := if (op == 0x70 || op == 0x74) && x.xop.getLsbD 2 then some (x.c.toNat % 64) else none
        let hwin := fun (l : Lane) => if op = 0x71 then (s.die h.ref.core.die).map fun r => assocGet (0, 0, 0) (tm.ctx, natField l.b.toNat 0 4) r.hwins else none
        let blocks := (passed checks).map fun p => (p.2, block p.1)
        let waits := s.waitsFor refs (x.xop.getLsbD 0) blocks
        let cmd : Cmd :=
          { id := s.clk.nextId, op := op, core := h.ref.core, ctx := tm.ctx, team := tm.id, wide := tm.header.shape != 0, set := x.set.toNat, handler := h.handler, kind := kind
            lanes := lanes.map fun l => ⟨l.t.ref, x.d.toNat, BitVec.ofNat 64 (blockVa x l), l.b.setWidth 32, hwin l, false, 0, [], 0, false⟩
            acq := x.xop.getLsbD 0, rel := x.xop.getLsbD 1, scope := x.scope, barrier := bar, counted := 0, ewmax := 0, acked := 0, remote := [], dues := [], parts := 0, realTime := tm.prio == 0
            begun := false, ended := false, blocked := none, after := waits }
        let issue := fun (s : State) (cmd : Cmd) =>
          let (op, s) := beginMem s act part x x.d.toNat 1
          ({ s with mem := { s.mem with cmds := s.mem.cmds ++ [{ cmd with id := op }] } } : State).beginCommands
        if s.queueFull cmd then s
        else match bar with
          | none => issue s cmd
          | some b =>
            if op = 0x70 && !(s.waitsFor refs false blocks).isEmpty then s
            else match s.countedBytes tm op refs (lanes.map (blockVa x)) with
              | .error ia => s.reportPage tm.ctx ia
              | .ok ns =>
                let fits := ns.filter fun n => decide (n < 2 ^ 32)
                let total := fits.foldl (· + ·) 0
                if 2 ^ 32 ≤ total then issue s { cmd with lanes := cmd.lanes.map fun l => { l with done := true, status := 2 } }
                else if 2 ^ 32 ≤ (s.barrier tm.ctx b).pend + total then s
                else issue (s.updBarrier tm.ctx b fun k => { k with pend := k.pend + total }) { cmd with counted := total }

/-- Write the statuses of lanes to D (R288); a thread that has exited discards it (R302). -/
def writeStatus (s : State) (c : Cmd) (ls : List CmdLane) : State :=
  s.writeLanes c.id c.handler ((ls.filter fun l => !l.gone).map fun l => ⟨l.t, l.reg, [l.status], none, 0⟩)

/-- A command completes (R170, R193): its remaining bytes leave PEND, the statuses are written, except those that a TRACE's lanes have
had at their own ends (R451), and the slot is released. -/
def finishCommand (s : State) (c : Cmd) : State :=
  let s := s.pendDone c c.counted c.ewmax
  let s := if c.kind = .trace ∧ !(s.cmdTimed c) then s else s.writeStatus c c.lanes
  let s := (s.release ((c.lanes.filter fun l => !l.gone).map (·.t)) c.handler c.set).dropCommand c.id
  (s.restartWatchdog c.ctx).beginCommands

end State

/-! ### The instructions -/

/-- COPY (R289, R290; DEDUCED, assumption 40). -/
def execCopy (x : Fields) (s : State) : Host.Outcome State Fault Refusal := .next (s.engineOp 0x70 x (.copy none) (fun s tm ts va => s.descBytes tm ts va) 32)

/-- TRACE (R291). -/
def execTrace (x : Fields) (s : State) : Host.Outcome State Fault Refusal := .next (s.engineOp 0x71 x .trace (fun _ _ _ _ => 64) 64)

/-- SXDRAW (R292). -/
def execSxdraw (x : Fields) (s : State) : Host.Outcome State Fault Refusal := .next (s.engineOp 0x72 x .sxdraw (fun _ _ _ _ => 64) 64)

/-- SILT (R294; DEDUCED, assumption 50). -/
def execSilt (x : Fields) (s : State) : Host.Outcome State Fault Refusal := .next (s.engineOp 0x74 x .silt (fun _ _ _ _ => 32) 32)

/-- SXPRI (R293): the draw whose policy record made the team takes the priorities. -/
def execSxpri (x : Fields) (s : State) : Host.Outcome State Fault Refusal :=
  .next (s.issueConst 0x73 x fun tm sp act ws =>
    let lanes := (act.filter fun t => t.guardTrue x.guard).map (laneOf s sp x ws)
    match tm.policy with
    | none => s
    | some (d, draw) =>
      let cells := (((s.die d).bind fun r => r.blocks.find? fun (b : Draw) => b.id == draw).map fun (b : Draw) => b.prio.length).getD 0
      match lanes.find? fun l => decide (cells ≤ natField l.a.toNat 0 32) with
      | some l => s.trapGroup { cause := Cause.range, info := natField l.a.toNat 0 32, lane := l.t.lane }
      | none =>
        let set := fun (p : List Nat) => lanes.foldl (fun (p : List Nat) l => p.set (natField l.a.toNat 0 32) (natField l.b.toNat 0 16)) p
        (s.updDie d fun r => { r with blocks := mapIf (fun b => b.id == draw) (fun b => { b with prio := set b.prio }) r.blocks }).advance act x.form.length)

/-! ### ENQ and CANCEL (R295, R296) -/

namespace State

/-- Post the records of an ENQ's lanes, in lane order: the code of each, or the cause of the page check that failed. -/
def postLanes (s : State) (tm : Team) : List (Lane × Nat × Nat) → State × List (Lane × Nat × Nat × (Nat ⊕ Nat))
  | [] => (s, [])
  | (l, va, ia) :: rest =>
    match s.contextRead tm.ctx va 64 with
    | .error e =>
      let (s', r) := postLanes (s.reportRead tm.ctx va 64) tm rest
      (s', (l, va, ia, .inl e) :: r)
    | .ok (bs, s1) =>
      let (code, s2) := s1.devicePost tm.ctx bs .program
      let (s', r) := postLanes s2 tm rest
      (s', (l, va, ia, .inr code) :: r)

end State

/-- ENQ (R295): held until its fence wait is over; each lane posts its record, and D receives the code. Lanes whose page
check fails park (R332). -/
def execEnq (x : Fields) (s : State) : Host.Outcome State Fault Refusal :=
  .next (s.issueThen 0x75 x fun tm sp act =>
    let part := act.filter fun t => t.guardTrue x.guard
    match part with
    | [] => s.advance act x.form.length
    | h :: _ =>
      let lanes := part.map (laneOf s sp x [])
      let checks := lanes.map fun l => (globalCheck (ctxOf s tm) .read 64 64 (State.blockVa x l) l.t.lane).map fun r => (l, State.blockVa x l, r.1)
      match firstFail checks with
      | some t => s.trapGroup t
      | none =>
        if !(fencesDone s tm part x.scope) then s
        else
          let (op, s) := beginMem s act part x x.d.toNat 1
          let (s, done) := s.postLanes tm (passed checks)
          match done.find? fun p => p.2.2.2 == .inl Cause.uncorrected with
          | some p => s.killContext tm.ctx Cause.uncorrected (s.spoiltRead tm.ctx p.2.1 64) h.ref.core
          | none =>
            let ok := done.filterMap fun p => match p.2.2.2 with | .inr c => some (p.1.t.ref, c) | .inl _ => none
            let bad := done.filterMap fun p => match p.2.2.2 with | .inl c => some (p.1.t.ref, p.2.1, p.2.2.1, c) | .inr _ => none
            let s := if ok.isEmpty then s else s.addLater op 140 x.set.toNat h.handler (ok.map (·.1)) (ok.map fun p => ⟨p.1, x.d.toNat, [BitVec.ofNat 32 p.2], none, 0⟩) none []
            let key := fun (p : TRef × Nat × Nat × Nat) => (s.faultPage p.2.2.1 p.2.2.2, p.2.2.2)
            (bad.map key).eraseDups.foldl (fun s k =>
              let mine := bad.filter fun p => key p == k
              let at' := fun (t : TRef) => ((mine.find? fun p => p.1 == t).map fun p => (p.2.1, p.2.2.1)).getD (0, 0)
              match mine.head? with
              | some (_, _, _, c) => s.parkThreads (mine.map (·.1)) h.pc x.set.toNat h.handler at' c false
              | none => s) s)

/-- CANCEL (R296). -/
def execCancel (x : Fields) (s : State) : Host.Outcome State Fault Refusal :=
  .next (s.issueThen 0x76 x fun tm sp act =>
    let lanes := (act.filter fun t => t.guardTrue x.guard).map (laneOf s sp x [])
    (lanes.foldl (fun s l => s.cancelGroup tm.ctx (natField l.a.toNat 0 6)) s).advance act x.form.length)

/-! ### Happenings of commands -/

/-- COPY_PART_COMPLETE (R290): a permitted part is read and written; it leaves PEND when its writes complete (R173). A dead context's command ends (R347). -/
def execCopyPartComplete (cmd : Nat) (s : State) : Host.Outcome State Fault Refusal :=
  .next (match s.cmd cmd with
    | none => s
    | some c =>
      if s.ctxDead c.ctx then s.dropCommand cmd
      else match c.kind, State.cmdLane c with
        | .copy (some d), some (k, _) => s.copyPart c d k
        | _, _ => s)

/-- TRACE_LANE_COMPLETE (R404): the outputs of a lane are written to its record. Its status follows at once, or with the
command's where a release wait follows; the command ends with its last lane. -/
def execTraceLaneComplete (cmd lane : Nat) (s : State) : Host.Outcome State Fault Refusal :=
  .next (match s.cmd cmd with
    | none => s
    | some c =>
      if s.ctxDead c.ctx then s.dropCommand cmd
      else match c.lanes[lane]? with
        | none => s
        | some l =>
          if l.done then s
          else
            let finish := fun (s : State) (st : W32) =>
              let s := s.laneStatus c lane st
              match s.cmd cmd with
              | none => s
              | some c =>
                let s := if s.cmdTimed c then s else s.writeStatus c ((c.lanes[lane]?).toList)
                if c.lanes.all (·.done) then s.endCommand c 0 else s
            if l.out.isEmpty then finish s l.status
            else match s.engineWritable c.ctx (l.addr.toNat + l.outAt) l.out.length with
              | .absent ia => s.blockCommand c ia
              | .uncorrected pa => s.stopCommand c pa
              | .cause e => finish s (BitVec.ofNat 32 (traceCause e))
              | .ok ia =>
                let (s, w) := s.engineWrite c.ctx ia l.out
                let (k, s) := s.ackedFrom ia
                finish ((s.noteRemote cmd ia k).updCmd cmd fun q => { q with ewmax := max q.ewmax w, acked := max q.acked k }) l.status)

/-- ENGINE_COMMAND_COMPLETE (R170, R173, R288): parts whose writes are over leave PEND; the command completes when its last write has
been acknowledged and its release wait is over. -/
def execEngineCommandComplete (cmd : Nat) (s : State) : Host.Outcome State Fault Refusal :=
  .next (match s.cmd cmd with
    | none => s
    | some c =>
      let s := s.settleParts c
      if !c.ended then s
      else if s.writesOver c c.ewmax c.acked then s.finishCommand c
      else s.lookAgain c 1 c.ewmax c.acked)

end Sys2Proof.Machine
end

