-- ==== Sys2Proof/Machine/Stages.lean ====
section
/-! DEFINITION. Stage rings: STAGE (opcode 0x77) and STAGE_ACQUIRE_GRANT (spec/15_isa_memory.md R297, R301;
spec/03_execution.md R36, R55 to R58). -/

namespace Sys2Proof.Machine

/-- A FIFO bank of a core with a free entry, the lowest first: 512 entries each (R135, R144). -/
def fifoRoom (k : Core) : Option Nat :=
  (List.range 48).find? fun b =>
    k.modes.getD b 0 == 2 && !(k.changes.any fun c => c.bank == b) &&
    decide ((k.fifo.filter fun f => f.bank == b).length + (k.ringEntries.filter fun e => e.1 == b).length < 512)

/-- The condition of an acquire (R56). -/
def Ring.ready (r : Ring) (consume : Bool) : Bool :=
  match r.stages[if consume then r.consumer else r.producer]? with
  | some g => g.full == consume && g.owner.isNone
  | none => false

/-- The acquires of one kind that wait on a ring (R56). -/
def Ring.waiting (r : Ring) (consume : Bool) : List Acquire := if consume then r.toConsume else r.toProduce

/-- An acquire takes its stage: the stage's number and the ring (R56). -/
def Ring.take (r : Ring) (consume : Bool) (owner : Nat × Nat) : Nat × Ring :=
  let n := r.stages.length
  let own := fun (g : Stage) => { g with owner := some owner }
  if consume then (r.consumer, { r with stages := modifyAt own r.consumer r.stages, consumer := (r.consumer + 1) % n })
  else (r.producer, { r with stages := modifyAt own r.producer r.stages, producer := (r.producer + 1) % n })

/-- An acquire joins those that wait. -/
def Ring.enqueue (r : Ring) (consume : Bool) (a : Acquire) : Ring :=
  if consume then { r with toConsume := r.toConsume ++ [a] } else { r with toProduce := r.toProduce ++ [a] }

/-- The longest waiting acquire of a kind leaves. -/
def Ring.dequeue (r : Ring) (consume : Bool) : Ring :=
  if consume then { r with toConsume := r.toConsume.drop 1 } else { r with toProduce := r.toProduce.drop 1 }

/-- What a STAGE operation meets at the holding core: it is done, with the value of D if it writes one; its threads wait; or
it raises CONV_MISUSE. -/
inductive StageMet where
  | done (d : Option Nat) (s : State)
  | waits (s : State)
  | misuse

namespace State

def updRing (s : State) (team ring : Nat) (f : Ring → Ring) : State := s.updTeam team fun tm => { tm with rings := modifyAt f ring tm.rings }

/-- The owner that a thread stands for (R55). -/
def ownerOf (tm : Team) (t : TRef) : Nat × Nat := (teamCoreIndex tm t.core, t.slot)

/-- STAGE.init (R297). -/
def stageInit (s : State) (tm : Team) (k r n : Nat) (g : Ring) : StageMet :=
  if n = 0 ∨ 16 < n || g.stages.any (fun q => q.owner.isSome) || !g.toProduce.isEmpty || !g.toConsume.isEmpty then .misuse
  else
    let fresh : Ring := ⟨List.replicate n ⟨false, none⟩, 0, 0, [], []⟩
    match g.stages, holdingCore tm with
    | [], some c => match fifoRoom (s.core c) with
      | none => .done (some 1) s
      | some b => .done (some 0) ((s.updCore c fun q => { q with ringEntries := q.ringEntries ++ [(b, k, r)] }).updRing k r fun _ => fresh)
    | _, _ => .done (some 0) (s.updRing k r fun _ => fresh)

/-- The operation STOP on a ring by threads in lane order, at the holding core (R56, R297). -/
def stageEvent (s : State) (tm : Team) (stop r word : Nat) (a : Acquire) : StageMet :=
  match tm.rings[r]?, a.threads with
  | some g, t :: ts =>
    match stop with
    | 0 => s.stageInit tm tm.id r (natField word 0 5) g
    | 1 | 2 =>
      let consume := stop == 2
      if g.stages.isEmpty then .misuse
      else if g.ready consume && (g.waiting consume).isEmpty then
        let (n, g') := g.take consume (ownerOf tm t)
        .done (some n) (s.updRing tm.id r fun _ => g')
      else .waits ((s.updRing tm.id r fun g => g.enqueue consume a).updThreads (t :: ts) fun h => { h with status := .waiting (.stage r) })
    | _ =>
      match g.stages[natField word 0 4]? with
      | none => .misuse
      | some q =>
        if q.owner == some (ownerOf tm t) && q.full == (stop == 4) then
          .done none (s.updRing tm.id r fun g => { g with stages := modifyAt (fun _ => ⟨stop == 3, none⟩) (natField word 0 4) g.stages })
        else .misuse
  | _, _ => .done none s

/-- Count a STAGE in its slot and open its lookahead windows (R192, R193). -/
def beginStage (s : State) (x : Fields) (ts : List TRef) : Nat × State :=
  let (op, s) := s.fresh
  (op, (s.count ts x.set.toNat).openWindows ts x.la.toNat op x.d.toNat (if OpTable.xf x 0 3 < 3 then 1 else 0))

/-- The results of a STAGE that is done: D in every participating lane, and the slots (R297, R301). -/
def stageResult (s : State) (x : Fields) (op lat : Nat) (handler : Bool) (ts : List TRef) (d : Option Nat) : State :=
  let lanes := match d with
    | some v => ts.map fun t => (⟨t, x.d.toNat, [BitVec.ofNat 32 v], none, 0⟩ : ResultLane)
    | none => []
  s.addLater op lat x.set.toNat handler ts lanes none []

/-- STAGE: a release waits as a FENCE of its scope (R297); an acquire is a cancellation point (R58). From another core it
goes to the holding core (R36). -/
def stageOp (s : State) (x : Fields) : State :=
  s.issueConst 0x77 x fun tm sp act ws =>
    let part := act.filter fun t => t.guardTrue x.guard
    let rest := act.filter fun t => !(t.guardTrue x.guard)
    let stop := OpTable.xf x 0 3
    let r := x.c.toNat % 8
    match part with
    | [] => s.advance act x.form.length
    | h :: _ =>
      let refs := part.map (·.ref)
      let word := (laneOf s sp x ws h).b.setWidth 32
      if (stop == 1 || stop == 2) && observes tm h then (s.advance rest x.form.length).cancelExit refs
      else if decide (3 ≤ stop) && !(fencesDone s tm part x.scope) then s
      else if holdTransit tm h.ref.core ≠ 0 then s.sendEvent tm 0x77 x act fun _ => word
      else
        let (op, s1) := s.beginStage x refs
        match s1.stageEvent tm stop r word.toNat ⟨op, refs, x.d.toNat, h.handler, x.set.toNat⟩ with
        | .misuse => s.trapGroup (misuseTrap 0x77 r h.lane)
        | .waits s2 => s2.advance rest x.form.length
        | .done d s2 => (s2.stageResult x op 4 h.handler refs d).advance act x.form.length

/-- A STAGE arrives at the holding core (R36). -/
def stageArrives (s : State) (tm : Team) (a : Arrival) : State :=
  let all := s.alive (a.threads.map (·.1))
  let part := s.alive ((a.threads.filter fun p => p.2.1).map (·.1))
  let word := ((a.threads.head?).map (·.2.2.toNat)).getD 0
  let handler := ((part.head?.bind s.thread).map (·.handler)).getD false
  let (op, s1) := s.beginStage a.x part
  match s1.stageEvent tm (OpTable.xf a.x 0 3) (a.x.c.toNat % 8) word ⟨op, part, a.x.d.toNat, handler, a.x.set.toNat⟩ with
  | .misuse => s.answerEvent tm a 1 (s.laneOfRef part) all
  | .waits s2 => s2.answerEvent tm a 0 0 (all.filter fun t => !(part.contains t))
  | .done d s2 => (s2.stageResult a.x op (4 + holdTransit tm a.group.core) handler part d).answerEvent tm a 0 0 all

/-- The longest waiting acquire of a kind can be granted. -/
def grantable (s : State) (team ring : Nat) (consume : Bool) : Option (Team × Ring × Acquire × TRef) :=
  (s.team team).bind fun tm => (tm.rings[ring]?).bind fun g =>
    (g.waiting consume).head?.bind fun a => a.threads.head?.bind fun t => if g.ready consume then some (tm, g, a, t) else none

end State

/-- STAGE.init (R297). -/
def execStageInit (x : Fields) (s : State) : Host.Outcome State Fault Refusal := .next (s.stageOp x)
/-- STAGE.acqp (R56). -/
def execStageAcqp (x : Fields) (s : State) : Host.Outcome State Fault Refusal := .next (s.stageOp x)
/-- STAGE.acqc (R56). -/
def execStageAcqc (x : Fields) (s : State) : Host.Outcome State Fault Refusal := .next (s.stageOp x)
/-- STAGE.relp (R56). -/
def execStageRelp (x : Fields) (s : State) : Host.Outcome State Fault Refusal := .next (s.stageOp x)
/-- STAGE.relc (R56). -/
def execStageRelc (x : Fields) (s : State) : Host.Outcome State Fault Refusal := .next (s.stageOp x)

/-- STAGE_ACQUIRE_GRANT (R56): the owner is the lowest-numbered thread still waiting; the threads resume, and D follows. -/
def execStageAcquireGrant (team ring : Nat) (consume : Bool) (s : State) : Host.Outcome State Fault Refusal :=
  .next (match s.grantable team ring consume with
    | none => s
    | some (tm, g, a, t) =>
      let (n, g') := g.take consume (State.ownerOf tm t)
      let s := (s.updRing team ring fun _ => g'.dequeue consume).wake a.threads
      s.addLater a.op (4 + 2 * holdTransit tm t.core) a.set a.handler a.threads (a.threads.map fun t => ⟨t, a.reg, [BitVec.ofNat 32 n], none, 0⟩) none [])

end Sys2Proof.Machine
end

