-- ==== Sys2Proof/Machine/Barriers.lean ====
section
/-! DEFINITION. Meridian barriers: BAR (opcode 0x78) and BARRIER_COMPLETE (spec/10_consistency.md R172 to R174;
spec/15_isa_memory.md R298, R299; spec/18_traps.md R351). -/

namespace Sys2Proof.Machine

/-- TRAPINFO of BARRIER_BROKEN (R329). -/
def brokenTrap (b sstep lane : Nat) : Trap := { cause := Cause.barrierBroken, info := sstep * 2 ^ 32 + b, kind := .waiting, lane := lane }

namespace State

/-- The Meridian that holds a barrier (R298): that of the surviving die where one has failed (R351; DESIGN CHOICE, assumption 43). -/
def holdingDie (s : State) (tm : Team) (scope : Scope) (die : Nat) : Nat :=
  let d := match scope with
    | .package | .system => 0
    | _ => if tm.header.shape = 2 then 0 else die
  if s.dieOk d then d else 1 - d

/-- The time condition of R174 applies. -/
def barrierTimed (b : Barrier) : Bool :=
  match b.scope with
  | .thread | .group => false
  | .team => b.wide
  | _ => true

/-- The barrier completes now (R174, R299). -/
def barrierDone (s : State) (b : Barrier) : Bool :=
  decide (0 < b.p) && !b.broken && !b.finished && b.arr + b.dep == b.p && b.pend == 0 &&
  (!(barrierTimed b) || decide (max b.bwmax b.gone + 8 ≤ s.chrono (dieUnit b.die)))

/-- A completion (R174, R299): parties that exited after they had arrived depart now. -/
def Barrier.complete (b : Barrier) : Barrier :=
  { b with sstep := (b.sstep + 1) % 2 ^ 32, bwmax := 0, arr := 0, dep := b.dep + b.late, late := 0, waiters := [], finished := b.arr == 0 }

end State

/-- BAR.init (R298): acts once, with the P of the lowest participating lane (DEDUCED, assumption 42). -/
def execBarInit (x : Fields) (s : State) : Host.Outcome State Fault Refusal :=
  .next (s.issueThen 0x78 x fun tm sp act =>
    let part := act.filter fun t => t.guardTrue x.guard
    match part with
    | [] => s.advance act x.form.length
    | h :: _ =>
      let n := x.c.toNat % 64
      let a := natField (laneOf s sp x [] h).a.toNat 0 32
      let b := s.barrier tm.ctx n
      if natField a 0 20 = 0 ∨ natField a 20 12 ≠ 0 ∨ b.arr ≠ 0 ∨ b.pend ≠ 0 then s.trapGroup (misuseTrap 0x78 n h.lane)
      else
        let refs := part.map (·.ref)
        let s := s.updBarrier tm.ctx n fun b =>
          { b with p := natField a 0 20, scope := x.scope, arr := 0, dep := 0, sstep := 0, die := s.holdingDie tm x.scope h.ref.core.die
                   teams := if b.teams.contains tm.id then b.teams else b.teams ++ [tm.id], wide := b.wide || tm.header.shape != 0, waiters := [], late := 0, gone := 0, finished := false, broken := false }
        let s := s.count refs x.set.toNat
        (s.addLater s.clk.nextId 1 x.set.toNat h.handler refs [] none []).advance act x.form.length)

/-- A BAR arrival (R174, R299): a cancellation point; it first waits for the accesses of its threads. At a broken barrier the
arriving threads trap (R351). -/
def execBarArrive (x : Fields) (s : State) : Host.Outcome State Fault Refusal :=
  .next (s.issueThen 0x78 x fun tm _ act =>
    let part := act.filter fun t => t.guardTrue x.guard
    let rest := act.filter fun t => !(t.guardTrue x.guard)
    match part with
    | [] => s.advance act x.form.length
    | h :: _ =>
      let refs := part.map (·.ref)
      let n := x.c.toNat % 64
      let b := s.barrier tm.ctx n
      if State.observes tm h then (s.advance rest x.form.length).cancelExit refs
      else if !(fencesDone s tm part .thread) then s
      else if b.broken then ((s.advance rest x.form.length).trapThreads (part.map fun t => (t.ref, t.pc)) (brokenTrap n b.sstep h.lane)).settle
      else if b.p = 0 ∨ b.p < b.arr + b.dep + part.length then s.trapGroup (misuseTrap 0x78 n h.lane)
      else
        let late := part.foldl (fun m t => max m t.wmax) b.bwmax
        let s := s.updBarrier tm.ctx n fun b =>
          { b with arr := b.arr + part.length, bwmax := late, waiters := b.waiters ++ refs
                   teams := if b.teams.contains tm.id then b.teams else b.teams ++ [tm.id], wide := b.wide || tm.header.shape != 0 }
        let s := s.count refs x.set.toNat
        let s := (s.addLater s.clk.nextId 1 x.set.toNat h.handler refs [] none []).advance rest x.form.length
        s.updThreads refs fun h => { h with status := .waiting (.barrier n) })

/-- BARRIER_COMPLETE (R174, R299): every waiting party resumes after its BAR. -/
def execBarrierComplete (ctx bar : Nat) (s : State) : Host.Outcome State Fault Refusal :=
  .next (let b := s.barrier ctx bar
    if s.barrierDone b then (s.updBarrier ctx bar State.Barrier.complete).wake b.waiters else s)

end Sys2Proof.Machine
end

