-- ==== Sys2Proof/Machine/Messages.lean ====
section
/-! DEFINITION. Message queues: MOVQ (opcode 0x79) and MESSAGE_ARRIVAL (spec/15_isa_memory.md R300; spec/24_fabric.md R421 to
R423; spec/09_memory.md R144; spec/26_system.md R446, R447). -/

namespace Sys2Proof.Machine

namespace State

/-! ### Sending -/

/-- The cores and receive queue that a send register names (R422); none where its set is empty. -/
def destinations (s : State) (ctx : Nat) (c : CoreId) (n : Nat) : Option (List CoreId × Nat) :=
  match (s.ctx ctx).bind fun k => k.mqdest[n]? with
  | none => none
  | some v =>
    let die := if v.getLsbD 62 then c.die else natField v.toNat 16 1
    let site := if v.getLsbD 62 then c.site else natField v.toNat 8 6
    let cores := ((List.range 4).filter fun k => v.getLsbD k).map fun k => (⟨die, site, k⟩ : CoreId)
    if !(v.getLsbD 63) || cores.isEmpty || cores.any fun k => !(s.coreOn k) then none else some (cores, natField v.toNat 4 2)

/-- The path of a flit (R417, R419). -/
def flitPath (s : State) (f : Flit) : Path :=
  let ends := corePorts f.sender f.dest
  ⟨.message, s.realTimeOf (f.from'.toList.map (·.1)), ends.1, ends.2⟩

/-- Flits of a context from one core to one core keep their order (R300). -/
def sameSender (g f : Flit) : Bool := g.sender == f.sender && g.ctx == f.ctx && g.dest == f.dest

/-- The cycle before which a flit must not arrive: after the earlier flits on its path, and those of its core to the same core (R300,
R417). -/
def flitAfter (s : State) (f : Flit) : Nat :=
  let ahead := fun (g : Flit) => s.flitPath g == s.flitPath f || sameSender g f
  s.clk.timers.foldl (fun n t => match t.2 with
    | .messageArrival k => if s.mem.flits.any fun g => g.id == k && ahead g then max n t.1 else n
    | _ => n) 0

/-- An earlier flit of its sender, or one on its path that finds no entry, is still before it (R300, R417). What a replay keeps waiting for
its recorded turn lets others of its path pass (R447; DEDUCED, assumption 46). -/
def flitBehind (s : State) (f : Flit) : Bool :=
  (s.mem.flits.takeWhile fun g => g.id != f.id).any fun g => sameSender g f || (s.flitPath g == s.flitPath f && !(s.replaying g.ctx))

/-- One flit on its way (R301, R418). -/
def sendFlit (s : State) (f : Flit) : State :=
  let (id, s) := s.fresh
  let s : State := { s with mem := { s.mem with flits := s.mem.flits ++ [{ f with id := id }] } }
  s.afterFrom (24 + max 6 (transit f.sender f.dest)) (s.flitAfter f) (.messageArrival id)

/-! ### Receiving -/

/-- The next flit of a receive queue is read: an entry whose last flit has been read is free (R144). -/
def takeFlit (k : Core) (ctx queue : Nat) : Option (Flit × Core) :=
  match k.fifo.find? fun e => e.ctx == ctx && e.queue == queue with
  | none => none
  | some e => match e.flits with
    | [] => none
    | f :: rest => some (f, { k with fifo := if rest.isEmpty then k.fifo.filter (fun x => x != e) else mapIf (fun x => x == e) (fun x => { x with flits := rest }) k.fifo })

/-- The registers of a flit (R300). -/
def flitWords (f : Flit) : List W32 := (List.range 4).map fun i => BitVec.ofNat 32 (leNat ((f.bytes.drop (4 * i)).take 4))

/-- Serve the waiting receives of a queue in the order they reached it, each lane in ascending order (R423). A receive whose
lanes all hold a flit resumes its threads. -/
def serveReceives (s : State) (c : CoreId) (ctx queue : Nat) : (fuel : Nat) → State
  | 0 => s
  | fuel + 1 =>
    let mine := fun (r : Receive) => r.ctx == ctx && r.queue == queue
    match (s.core c).receives.find? mine with
    | none => s
    | some r => match r.threads with
      | [] =>
        let s := s.updCore c fun k => { k with receives := k.receives.filter fun q => q.op != r.op }
        ((s.release r.served r.handler r.set).wake r.served).serveReceives c ctx queue fuel
      | t :: ts => match takeFlit (s.core c) ctx queue with
        | none => s
        | some (f, k) =>
          let s := s.updCore c fun _ => { k with receives := mapIf (fun q => q.op == r.op) (fun q => { q with threads := ts, served := q.served ++ [t] }) k.receives }
          (s.writeLane r.op r.handler ⟨t, r.reg, flitWords f, none, 0⟩).serveReceives c ctx queue fuel

/-- Lanes still to be served on a core, with one step more for each receive. -/
def receiveFuel (s : State) (c : CoreId) : Nat := sumBy (fun (r : Receive) => r.threads.length + 1) (s.core c).receives + 1

/-- Put a flit into its receive queue, if an entry has room (R423; DEDUCED, assumption 44). -/
def enterQueue (s : State) (f : Flit) : Option State :=
  let k := s.core f.dest
  let open' := fun (e : FifoEntry) => e.ctx == f.ctx && e.queue == f.queue && decide (e.filled < 8)
  if k.fifo.any open' then
    some (s.updCore f.dest fun k => { k with fifo := mapIf open' (fun e => { e with filled := e.filled + 1, flits := e.flits ++ [f] }) k.fifo })
  else (fifoRoom k).map fun b => s.updCore f.dest fun k => { k with fifo := k.fifo ++ [⟨b, f.ctx, f.queue, 1, [f]⟩] }

/-- The payload of a log entry for a flit: its bytes, the sender, the queue and the order number (R446). -/
def flitLog (f : Flit) (n : Nat) : List Byte := f.bytes ++ leBytes 4 (placeWord f.sender 0) ++ leBytes 4 f.queue ++ leBytes 8 n

/-- What a replay says of a flit that is about to enter: it is the next recorded one, another must come first, or it differs
(R447). -/
inductive Replayed where
  | now (s : State)
  | later
  | differs

/-- The Logline's part in an arrival (DESIGN CHOICE, assumption 45). -/
def logFlit (s : State) (f : Flit) : Replayed :=
  if s.replaying f.ctx then
    match s.logTake f.ctx 3 (some (placeWord f.dest 0)) with
    | none => .differs
    | some (p, s') =>
      if (p.drop 16).take 8 ≠ leBytes 4 (placeWord f.sender 0) ++ leBytes 4 f.queue then .later
      else if p.take 16 ≠ f.bytes then .differs else .now s'
  else
    let n := ((s.ctx f.ctx).map (·.msgs)).getD 0
    .now ((s.logAppend f.ctx 3 (s.chrono f.dest) f.dest 0 (flitLog f n)).updCtx f.ctx fun c => { c with msgs := if s.recording f.ctx then c.msgs + 1 else c.msgs })

/-- A flit leaves the fabric: the last of a thread's send releases its slot (R300). -/
def flitDelivered (s : State) (f : Flit) : State :=
  let s : State := { s with mem := { s.mem with flits := s.mem.flits.filter fun g => g.id != f.id } }
  match f.from' with
  | none => s
  | some (t, set, handler) =>
    if s.mem.flits.any fun g => g.op == f.op && (match g.from' with | some (u, _, _) => u == t | none => false) then s else s.release [t] handler set

end State

/-- MOVQ, a send (R300): one flit for each participating lane and destination core. -/
def execMovqSend (x : Fields) (s : State) : Host.Outcome State Fault Refusal :=
  .next (s.issueThen 0x79 x fun tm _ act =>
    let part := act.filter fun t => t.guardTrue x.guard
    match part with
    | [] => s.advance act x.form.length
    | h :: _ =>
      match s.destinations tm.ctx h.ref.core (x.d.toNat % 4) with
      | none => s.trapGroup { cause := Cause.range, info := 0, lane := h.lane }
      | some (cores, q) =>
        let (op, s) := beginMem s act part x 0 0
        let flits := part.flatMap fun t => cores.map fun c =>
          (⟨0, op, (readRegs s t x.a.toNat 4).flatMap fun w => leBytes 4 w.toNat, t.ref.core, t.ref.slot, tm.ctx, c, q, some (t.ref, x.set.toNat, t.handler)⟩ : Flit)
        flits.foldl (fun s f => s.sendFlit f) s)

/-- MOVQ.recv (R300): the participating threads wait for a flit each. -/
def execMovqRecv (x : Fields) (s : State) : Host.Outcome State Fault Refusal :=
  .next (s.issueThen 0x79 x fun tm _ act =>
    let part := act.filter fun t => t.guardTrue x.guard
    let rest := act.filter fun t => !(t.guardTrue x.guard)
    match part with
    | [] => s.advance act x.form.length
    | h :: _ =>
      let refs := part.map (·.ref)
      let q := x.a.toNat % 4
      let (op, s) := s.fresh
      let s := ((s.count refs x.set.toNat).openWindows refs x.la.toNat op x.d.toNat 4).advance rest x.form.length
      let s := s.updThreads refs fun h => { h with status := .waiting (.queue q) }
      let s := s.updCore h.ref.core fun k => { k with receives := k.receives ++ [⟨op, tm.ctx, q, refs, [], x.d.toNat, h.handler, x.set.toNat⟩] }
      s.serveReceives h.ref.core tm.ctx q (s.receiveFuel h.ref.core))

/-- MESSAGE_ARRIVAL (R423): a flit enters its receive queue behind the earlier flits of its sender and of its path; without a free entry, or
while a replay calls for another flit, it waits in the fabric (DEDUCED, assumption 46). -/
def execMessageArrival (flit : Nat) (s : State) : Host.Outcome State Fault Refusal :=
  .next (match s.mem.flits.find? fun f => f.id == flit with
    | none => s
    | some f =>
      let waits := s.afterExactly 1 (.messageArrival flit)
      if s.flitBehind f then waits
      else match s.enterQueue f with
        | none => waits
        | some _ => match s.logFlit f with
          | .later => waits
          | .differs => if s.ctxHalted f.ctx then waits else (s.replayDiffers f.ctx f.dest).afterExactly 1 (.messageArrival flit)
          | .now s => match s.enterQueue f with
            | none => s
            | some s => (s.flitDelivered f).serveReceives f.dest f.ctx f.queue (s.receiveFuel f.dest))

end Sys2Proof.Machine
end

