-- ==== Sys2Proof/Machine/Atomics.lean ====
section
/-! DEFINITION. ATOM, opcode 0x46, and what the Logline records of atomics (spec/15_isa_memory.md R278, R279;
spec/26_system.md R446, R447). -/

namespace Sys2Proof.Machine

namespace State

/-- The entry of an atomic that returns: the old value, then W (R446). -/
def logAtomic (s : State) (ctx : Nat) (t : TRef) (old w : Nat) : State :=
  s.logAppend ctx 4 (s.chrono t.core) t.core t.slot (leBytes 8 old ++ leBytes 8 w)

/-- The old value and W that a replay supplies to a thread's next atomic (R447); a log that holds none halts the context (DESIGN CHOICE, assumption 48). -/
def recordedAtomic (s : State) (ctx : Nat) (t : TRef) (old w : Nat) : (Nat × Nat) × State :=
  if !(s.replaying ctx) then ((old, w), s)
  else match s.logTake ctx 4 (some (placeWord t.core t.slot)) with
    | some (p, s) => ((leNat (p.take 8), leNat ((p.drop 8).take 8)), s)
    | none => ((old, w), s.replayDiffers ctx t.core)

end State

/-- An ATOM on the issuing core's plot: lanes in ascending order, each with its own old value (R273, R279), which its log entry carries when
it returns (R446). -/
def plotAtomics (s : State) (tm : Team) (c : CoreId) (x : Fields) : List (Lane × Nat) → State × List (ResultLane × Nat)
  | [] => (s, [])
  | (l, o) :: rest =>
    let n := x.ty.bytes
    let ((old, _), s) := s.recordedAtomic tm.ctx l.t.ref (leNat (plotBytes s tm.id c o n)) 0
    let r := atomicNew x.ty (OpTable.xf x 0 4) x.rnd old (typeBits x.ty l.b) (typeBits x.ty l.c)
    let (s', ls) := plotAtomics (writePlot s tm.id c o (leBytes n r.bits)) tm c x rest
    (s', (⟨l.t.ref, x.d.toNat, typeWords x.ty old, none, r.flags⟩, old) :: ls)

/-- ATOM (R278, R279). -/
def execAtom (x : Fields) (s : State) : Host.Outcome State Fault Refusal :=
  .next (s.issueThen 0x46 x fun tm sp act =>
    let part := act.filter fun t => t.guardTrue x.guard
    match part with
    | [] => s.advance act x.form.length
    | h :: _ =>
      let consts := constOperand s tm sp x
      let lanes := part.map (laneOf s sp x consts.got)
      let n := x.ty.bytes
      let plot := OpTable.xf x 4 2 == 1
      let checks := lanes.map fun l =>
        if plot then (plotCheck s l.t tm true n (natField l.a.toNat 0 32 + disp32 x)).map fun o => (l, o, 0)
        else (globalCheck (ctxOf s tm) .atomic n n (globalVa x l.a) l.t.lane).map fun r => (l, r.1, globalVa x l.a)
      match firstFail (checks ++ constCheck consts) with
      | some t => s.trapGroup t
      | none => match consts with
        | .missing va ia => fillConst s tm va ia part
        | _ =>
          if x.scope != .thread && !(fencesDone s tm part x.scope) then s
          else
            let found := passed checks
            let (op, s) := beginMem s act part x x.d.toNat (regsOf x.ty)
            if plot && (found.any fun p => poisonedPlot s tm.id h.ref.core p.2.1 n) then s.killContext tm.ctx Cause.uncorrected 0 h.ref.core
            else if plot then
              let (s, ls) := plotAtomics s tm h.ref.core x (found.map fun p => (p.1, p.2.1))
              s.addAccess op 12 x.set.toNat h.handler (part.map (·.ref)) (ls.map (·.1)) (OpTable.xf x 0 4 == 10) (ls.map fun q => (q.1.t, q.2))
            else
              let as := found.map fun p => (⟨p.1.t.ref, p.2.2, p.2.1, n, x.d.toNat, leBytes n p.1.b.toNat, leBytes n p.1.c.toNat⟩ : LaneAccess)
              let s := (linesOf as).foldl (fun s ln => s.expelL1 h.ref.core tm.ctx ln) s
              let rs := (lineRequests (requestOf tm h x op (.atomic (OpTable.xf x 0 4) x.rnd)) s as).map fun r =>
                { r with parts := r.parts.map fun p => { p with own := [] } }
              s.sendAll rs)

end Sys2Proof.Machine
end

