-- ==== Sys2Proof/Machine/System.lean ====
section
/-! DEFINITION. SREG, TRAP, SYS, NOP and PAIR, opcodes 0x7A to 0x7E (spec/16_isa_control.md R314 to R326; spec/12_encoding.md
R200 to R206; spec/18_traps.md R336 to R345; spec/09_memory.md R128). -/

namespace Sys2Proof.Machine

/-! ### SREG (R206, R314) -/

/-- BANKMAPn (R135): two bits for each of sixteen banks. -/
def bankMap (k : Core) (n : Nat) : Nat :=
  (List.range 16).foldl (fun v j =>
    let b := 16 * n + j
    v + (if k.changes.any fun c => c.bank == b then 3 else (k.modes.getD b 0).toNat) * 4 ^ j) 0

/-- TRAPSB (R336). -/
def trapSb (h : Thread) : Nat := (nonZeroSlots h.aside).toNat * 2 ^ 6 + h.savedAt.toNat

/-- A special register as a thread reads it. -/
def specialRead (s : State) (tm : Team) (h : Thread) (n : Nat) : W64 :=
  let c := h.ref.core
  match n with
  | 0x000 => BitVec.ofNat 64 h.lane
  | 0x001 => BitVec.ofNat 64 h.ref.slot
  | 0x002 => BitVec.ofNat 64 h.group
  | 0x003 => BitVec.ofNat 64 tm.header.width
  | 0x004 => BitVec.ofNat 64 h.tidx
  | 0x005 => BitVec.ofNat 64 tm.header.tsize
  | 0x006 => BitVec.ofNat 64 (tm.number % 2 ^ 16)
  | 0x007 => BitVec.ofNat 64 c.core
  | 0x008 => BitVec.ofNat 64 c.site
  | 0x009 => BitVec.ofNat 64 c.die
  | 0x00A => BitVec.ofNat 64 tm.ctx
  | 0x00B => tm.sieveAge.setWidth 64
  | 0x00C => h.fstat.setWidth 64
  | 0x00D => BitVec.ofNat 64 (s.chrono c)
  | 0x00E => tm.payload
  | 0x00F => BitVec.ofNat 64 (s.core c).limit
  | 0x010 => BitVec.ofNat 64 (bankMap (s.core c) 0)
  | 0x011 => BitVec.ofNat 64 (bankMap (s.core c) 1)
  | 0x012 => BitVec.ofNat 64 (bankMap (s.core c) 2)
  | 0x020 => h.trapPc
  | 0x021 => BitVec.ofNat 64 (trapSb h)
  | 0x022 => h.trapCause.setWidth 64
  | 0x023 => h.trapInfo
  | _ => 0

/-- Reads of CHRONO by lanes in order: each is recorded, or supplied by a replay (R446, R447). -/
def chronoReads (s : State) (ctx : Nat) : List Thread → List (TRef × W64) × State
  | [] => ([], s)
  | h :: hs =>
    let c := h.ref.core
    let now := s.chrono c
    let (v, s) : Nat × State :=
      if s.replaying ctx then match s.logTake ctx 2 (some (State.placeWord c h.ref.slot)) with
        | some (p, s) => (leNat (p.take 8), s)
        | none => (now, s.replayDiffers ctx c)
      else (now, s.logAppend ctx 2 now c h.ref.slot (leBytes 16 now))
    let (rest, s) := chronoReads s ctx hs
    ((h.ref, BitVec.ofNat 64 v) :: rest, s)

/-- An earlier instruction of the thread that can raise a flag has not written its result (R93). -/
def flagsPending (s : State) (t : TRef) : Bool :=
  (s.mem.results.any fun r => r.raises && r.counted.contains t) ||
  (s.mem.requests.any fun r => (match r.kind with | .atomic 10 _ => true | _ => false) && r.parts.any fun p => p.t == t) ||
  (s.tile.maccs.any fun m => (m.todo.any fun l => l.1 == t) || m.done.any fun l => l.t == t)

/-- SREG, a read (R314): the result can be read 4 cycles after issue, 5 in a group of width 64 (R326); a read of FSTAT waits for flags
(R93). -/
def execSregRead (x : Fields) (s : State) : Host.Outcome State Fault Refusal :=
  .next (s.issueThen 0x7A x fun tm _ act =>
    let part := act.filter fun t => t.guardTrue x.guard
    let n := natField x.low.toNat 0 12
    if n == 0x00C && part.any fun t => flagsPending s t.ref then s
    else
      let (vals, s) : List (TRef × W64) × State :=
        if n = 0x00D then chronoReads s tm.ctx part else (part.map fun t => (t.ref, specialRead s tm t n), s)
      let outs := vals.map fun p => (p.1, if x.ty.wide then LaneOut.pair p.2 else LaneOut.word (p.2.setWidth 32))
      s.groupwise 0x7A x (State.passLatency tm 4 1) fun _ _ _ => outs)

/-- SREG, a write (R314): FSTAT of each lane, the team's SIEVEAGE by the highest lane (R46); read-only registers ignore it. -/
def execSregWrite (x : Fields) (s : State) : Host.Outcome State Fault Refusal :=
  .next (s.issueThen 0x7A x fun tm sp act =>
    let part := act.filter fun t => t.guardTrue x.guard
    let n := natField x.low.toNat 0 12
    if n == 0x00C && part.any fun t => flagsPending s t.ref then s
    else
      let lanes := part.map (laneOf s sp x [])
      let s := match n with
        | 0x00B => match lanes.getLast? with
          | some l => s.updTeam tm.id fun k => { k with sieveAge := BitVec.ofNat 16 (max 64 (natField l.a.toNat 0 16)) }
          | none => s
        | 0x00C => lanes.foldl (fun (s : State) (l : Lane) => s.updThread l.t.ref fun h => { h with fstat := l.a.setWidth 7 }) s
        | _ => s
      s.advance act x.form.length)

/-! ### TRAP and NOP (R315, R316) -/

/-- TRAP (R315): the participating threads trap after it; the others advance (DEDUCED, assumption 53). -/
def trapOp (s : State) (x : Fields) (cause : Nat) : State :=
  s.issueThen 0x7B x fun _ _ act =>
    let part := act.filter fun t => t.guardTrue x.guard
    let s := s.advance (act.filter fun t => !(t.guardTrue x.guard)) x.form.length
    let lane := ((part.head?).map (·.lane)).getD 0
    (s.trapThreads (part.map fun t => (t.ref, t.pc + BitVec.ofNat 64 x.form.length))
      { cause := cause, info := natField x.low.toNat 0 16, kind := .after, lane := lane }).settle

/-- TRAP (R315). -/
def execTrapSoftware (x : Fields) (s : State) : Host.Outcome State Fault Refusal := .next (trapOp s x Cause.software)
/-- TRAP.break (R315). -/
def execTrapBreak (x : Fields) (s : State) : Host.Outcome State Fault Refusal := .next (trapOp s x Cause.break_)

/-- NOP (R316, R326). -/
def nopOp (s : State) (x : Fields) : State :=
  s.issueThen 0x7D x fun _ _ act =>
    match act with
    | [] => s
    | h :: _ => (s.advance act x.form.length).delayIssue h.gref 2

/-- NOP, base form. -/
def execNopBase (s : State) : Host.Outcome State Fault Refusal := .next (nopOp s (Fields.ofBase 0x7D 0 0 0))
/-- NOP, extended form. -/
def execNopExtended (x : Fields) (s : State) : Host.Outcome State Fault Refusal := .next (nopOp s x)

/-! ### SYS.rdsup and SYS.wrsup (R317, R318, R321) -/

/-- The cycles of a supervisor access: those of a trip to a home and back (DESIGN CHOICE, assumption 5). -/
def supLatency : Nat := 140

/-- The selector of a lane names an absent memory die (R318). -/
def badSocket (n : Nat) (a : W64) : Bool := decide (0x200 ≤ n ∧ (natField a.toNat 8 4 < 2 ∨ 5 < natField a.toNat 8 4))

/-- Send every lane's access to the unit that holds the register; the group waits for the answers. -/
def supervisorOp (s : State) (x : Fields) (write : Bool) : State :=
  s.issueThen 0x7C x fun _ sp act =>
    let part := act.filter fun t => t.guardTrue x.guard
    let n := natField x.low.toNat 0 12
    let lanes := part.map (laneOf s sp x [])
    match lanes with
    | [] => s.advance act x.form.length
    | h :: _ =>
      match lanes.find? fun l => badSocket n l.a with
      | some l => s.trapGroup { cause := Cause.range, info := 0, lane := l.t.lane }
      | none =>
        let refs := part.map (·.ref)
        let sups := lanes.map fun l => (⟨l.t.ref, natField l.a.toNat 0 5, natField l.a.toNat 8 4 - 2, n, if write then some l.b else none, x.d.toNat⟩ : SupAccess)
        let (op, s) := beginMem s act part x x.d.toNat (if write then 0 else 2)
        let (id, s) := s.newResult op x.set.toNat h.t.handler refs [] (some h.t.gref) []
        let s : State := { s with mem := { s.mem with results := mapIf (fun r => r.id == id) (fun r => { r with sups := sups }) s.mem.results } }
        s.after supLatency (.longLatencyResult id)

/-- SYS.rdsup (R321). -/
def execSysRdsup (x : Fields) (s : State) : Host.Outcome State Fault Refusal := .next (supervisorOp s x false)
/-- SYS.wrsup (R321). -/
def execSysWrsup (x : Fields) (s : State) : Host.Outcome State Fault Refusal := .next (supervisorOp s x true)

/-- One access is made: a register is written, or read for its lane (DESIGN CHOICE, assumption 60). -/
def supAccess (s : State) (a : SupAccess) : State × List ResultLane :=
  match a.value with
  | some v => (if a.num < 0x200 then s.supWrite a.ctx a.num v else s.memDieWrite a.die a.num v, [])
  | none =>
    let v := (if a.num < 0x200 then s.supRead a.ctx a.num else s.memDieRead a.die a.num).getD 0
    (s, [⟨a.t, a.reg, pairWords v, none, 0⟩])

/-! ### SYS.swap (R323, R343, R345) -/

/-- The distinct contexts that the banks of a cluster would hold with another context in a core's shadow bank (R83, R323). -/
def clusterContexts (s : State) (c : CoreId) (ctx : Nat) : List Nat :=
  let cores := ((List.range 4).map fun k => (⟨c.die, c.site, k⟩ : CoreId)).filter s.coreOn
  (cores.flatMap fun k =>
    let q := s.core k
    let shadow := if k = c then some ctx else match q.swap with
      | some w => if w.spill then some w.ctx else q.shadow
      | none => q.shadow
    (q.active.toList ++ shadow.toList)).eraseDups

/-- CTXSAVE of a context names no save area (R322). -/
def noSaveArea (s : State) (ctx : Nat) : Bool := ((s.ctx ctx).map fun c => natField c.save.toNat 19 33 == 0).getD true

/-- The status of a swap (R323): 4 first, which a second swap of a core meets whatever it names (R328), then 2 and 3, then ascending
(DEDUCED, assumption 17). -/
def swapStatus (s : State) (a b : Nat) (c : CoreId) : Nat :=
  let k := s.core c
  let ctx := b % 32
  if k.swap.isSome then 4
  else if natField a 9 23 ≠ 0 ∨ 32 ≤ b || !(s.coreOn c) then 2
  else if !(s.ctxEn ctx) then 3
  else if k.active = some ctx then 1
  else if k.shadow = some ctx then 0
  else if noSaveArea s ctx || (k.shadow.map (noSaveArea s)).getD false then 5
  else if 2 < (clusterContexts s c ctx).length then 6
  else 0

/-- SYS.swap: acts once for its group; an accepted swap begins. Its status comes after the cycles of R326, and is no long-latency result (R303). -/
def execSysSwap (x : Fields) (s : State) : Host.Outcome State Fault Refusal :=
  .next (s.issueConst 0x7C x fun tm sp act ws =>
    let part := act.filter fun t => t.guardTrue x.guard
    match part with
    | [] => s.advance act x.form.length
    | h :: _ =>
      let l := laneOf s sp x ws h
      let a := natField l.a.toNat 0 32
      let b := natField l.b.toNat 0 32
      let c : CoreId := ⟨natField a 8 1, natField a 2 6, natField a 0 2⟩
      let st := swapStatus s a b c
      let (op, s) := beginMem s act part x x.d.toNat 1
      let refs := part.map (·.ref)
      let lanes := refs.map fun t => (⟨t, x.d.toNat, [BitVec.ofNat 32 st], none, 0⟩ : ResultLane)
      let s := s.addResult op (State.passLatency tm (8 + 2 * transit h.ref.core c) 1) x.set.toNat h.handler refs lanes (some h.gref) [] false
      if st ≠ 0 then s
      else
        let spill := (s.core c).shadow != some (b % 32)
        let s := s.updCore c fun k => { k with swap := some ⟨b % 32, spill, none⟩ }
        s.afterExactly 1 (if spill then .swapSpillFill c else .swapExchange c))

/-! ### SYS.shoot (R128 to R134, R324) -/

/-- The size of a page of a size code. -/
def pageSize : Nat → Nat
  | 0 => 2 ^ 16
  | 1 => 2 ^ 21
  | _ => 2 ^ 30

/-- The status of a shoot-down (R324). -/
def shootStatus (ia b : Nat) : Nat :=
  if b % 4 = 3 ∨ natField b 2 30 ≠ 0 ∨ ia % pageSize (b % 4) ≠ 0 then 1 else if inModule ia then 0 else 2

namespace State

/-- The 2 MiB region of a move meets a page. -/
def regionMeets (m : Move) (page size : Nat) : Bool := decide (m.page / 2 ^ 21 * 2 ^ 21 < page + size ∧ page < m.page / 2 ^ 21 * 2 ^ 21 + 2 ^ 21)

/-- A promotion of a region that a shoot-down meets is to be abandoned (R134). -/
def abandonMove (page size : Nat) (m : Move) : Move := if m.promotion.isSome && !m.closing && regionMeets m page size then { m with abandon := true } else m

/-- Steps 1 to 5 of R324 on one page; loads in flight keep no copy, and walks fill no cache (R153). -/
def shootPage (s : State) (page size : Nat) : State :=
  let hit := fun (ia : Nat) => decide (page ≤ ia ∧ ia < page + size)
  let s := s.cores.foldl (fun s k => (k.l1.filter fun l => hit l.line).foldl (fun s l => s.writeBackLine k.id l) s) s
  { s with
    cores := s.cores.map fun k => { k with pages := k.pages.filter fun e => !(decide (e.page < page + size ∧ page < e.page + e.size))
                                           l1 := k.l1.filter fun l => !(hit l.line) }
    mem := { s.mem with
      slices := mapIf (fun l => hit l.line) (fun l => { l with perms := 0 }) s.mem.slices
      walks := mapIf (fun w => hit w.ia) (fun w => { w with stale := true }) s.mem.walks
      requests := mapIf (fun r => hit r.ia && r.stage == .performed) (fun r => { r with leaseEnd := 0 }) s.mem.requests
      dies := s.mem.dies.map fun d => { d with move := d.move.map (abandonMove page size) } } }

/-- The accesses that passed their check under an entry of the page and have still to be performed (R128). -/
def underOld (s : State) (page size : Nat) : List Nat :=
  (s.mem.requests.filter fun r => decide (page ≤ r.ia ∧ r.ia < page + size) && r.route == .home && (match r.stage, r.kind with
    | .checked, _ | .queued, _ | .travelling, _ => true
    | .performed, .privLoad | .performed, .privStore => true
    | _, _ => false)).map (·.id)

/-- A migration of the page or of a part of it runs, or a promotion is being abandoned (R153, R324). -/
def moving (s : State) (page size : Nat) : Bool :=
  s.mem.dies.any fun d => match d.move with
    | some m => if m.promotion.isSome then m.abandon && regionMeets m page size
      else decide (page ≤ m.page ∧ m.page < page + size)
    | none => false

/-- The cycles of a shoot-down by a core, at least (R326). -/
def shootLatency (s : State) (c : CoreId) : Nat :=
  let all := (List.range 2).flatMap fun d => (List.range Config.sites).map fun k => (⟨d, k, 0⟩ : CoreId)
  16 + 2 * ((all.filter fun k => s.siteOn k.die k.site).foldl (fun m k => max m (transit c k)) 0)

end State

/-- SYS.shoot (R324): lanes in ascending order; the statuses follow when every unit has acknowledged (DESIGN CHOICE, assumption 47). -/
def execSysShoot (x : Fields) (s : State) : Host.Outcome State Fault Refusal :=
  .next (s.issueConst 0x7C x fun _ sp act ws =>
    let part := act.filter fun t => t.guardTrue x.guard
    match part with
    | [] => s.advance act x.form.length
    | h :: _ =>
      let lanes := part.map (laneOf s sp x ws)
      let asks := lanes.map fun l => (l.t.ref, l.a.toNat, natField l.b.toNat 0 32)
      let pages := (asks.filter fun p => shootStatus p.2.1 p.2.2 == 0).map fun p => (p.2.1, pageSize (p.2.2 % 4))
      let out := asks.map fun p => (⟨p.1, x.d.toNat, [BitVec.ofNat 32 (shootStatus p.2.1 p.2.2)], none, 0⟩ : ResultLane)
      let (op, s) := beginMem s act part x x.d.toNat 1
      let s := pages.foldl (fun s p => s.shootPage p.1 p.2) s
      let waits := pages.flatMap fun p => s.underOld p.1 p.2
      let (id, s) := s.newResult op x.set.toNat h.handler (part.map (·.ref)) out (some h.gref) []
      let s : State := { s with mem := { s.mem with results := mapIf (fun r => r.id == id) (fun r => { r with pages := pages, waits := waits }) s.mem.results } }
      s.after (lanes.length * s.shootLatency h.ref.core) (.longLatencyResult id))

/-- A shoot-down still waits: for an access under an old entry, or for a move (R128, R324). -/
def shootWaits (s : State) (r : Result) : Bool :=
  (s.mem.requests.any fun q => r.waits.contains q.id && (q.stage != .performed || (match q.kind with | .privLoad | .privStore => true | _ => false))) ||
  r.pages.any fun p => s.moving p.1 p.2

/-! ### SYS.tret (R325, R339, R342) -/

/-- One thread leaves its handler. -/
def returnThread (s : State) (l : Lane) : State :=
  let t := l.t.ref
  let s' := s.updThread t fun h => h.leaveHandler l.a
  if l.b.getLsbD 0 then s'.exitThread t .normal
  else if l.a != l.t.trapPc then s'.leaveCvgs t l.t.team else s'

/-- SYS.tret: held until the handler's own slots are zero; the resume PCs are checked first. -/
def execSysTret (x : Fields) (s : State) : Host.Outcome State Fault Refusal :=
  .next (s.issueConst 0x7C x fun _ sp act ws =>
    let lanes := (act.filter fun t => t.guardTrue x.guard).map (laneOf s sp x ws)
    let rest := act.filter fun t => !(t.guardTrue x.guard)
    match lanes with
    | [] => s.advance act x.form.length
    | h :: _ =>
      if lanes.any fun l => l.t.sb.any (· != 0) then s
      else match targetTrap (lanes.map fun l => (l.t, l.a)) with
        | some e => s.trapGroup e
        | none => ((lanes.foldl returnThread ((s.advance rest x.form.length).delayIssue h.t.gref 6)).ceaseGroups).settle)

/-! ### PAIR (R200 to R202) -/

/-- The operation of a half: those that pair (R201). -/
def halfOp : Nat → Option (Fields → State → State)
  | 0x01 => some iaddOp | 0x02 => some isubOp | 0x03 => some imulOp | 0x04 => some imulhOp | 0x05 => some imadOp
  | 0x08 => some iminOp | 0x09 => some imaxOp | 0x0A => some iabsOp | 0x0B => some inegOp | 0x0E => some addminOp
  | 0x10 => some andOp | 0x11 => some orOp | 0x12 => some xorOp | 0x13 => some andnOp | 0x14 => some shlOp | 0x15 => some shrOp
  | 0x16 => some sraOp | 0x17 => some rotOp | 0x18 => some bfxOp | 0x19 => some bfiOp | 0x1A => some popcOp | 0x1B => some clzOp
  | 0x1C => some brevOp | 0x1D => some bpermOp | 0x1F => some movOp | 0x20 => some faddOp | 0x21 => some fsubOp | 0x22 => some fmulOp
  | 0x23 => some ffmaOp | 0x24 => some fminOp | 0x25 => some fmaxOp | 0x29 => some frndOp | 0x2A => some fclassOp | 0x2B => some fscaleOp
  | 0x2C => some fdot2Op | 0x2D => some flerpOp | 0x2E => some ffracOp
  | _ => none

/-- The fields of a half: those of its base form (R186), at the length of a PAIR. -/
def halfFields (g : Guard) (h : Half) : Fields := { Fields.ofBase h.op.toNat h.d h.a h.b with form := .ext, guard := g }

/-- Step 4 of R203 for a half. -/
def halfBounds (s : State) (h : Half) (t : Thread) (g : Guard) : Bool :=
  match s.team t.team, opSpec h.op.toNat (Fields.ofBase h.op.toNat h.d h.a h.b) with
  | some tm, some sp => boundsOk sp (halfFields g h) t.handler tm
  | _, _ => false

/-- The pipe on which half n runs: its own, or the one that is left (R25, R200). -/
def halfPipe (s : State) (c : CoreId) (n : Nat) : Nat := if s.pipeSlices c n = 0 then 1 - n else n

/-- An instruction of a group, as on another pipe than the one under which it issued. -/
def onPipe (s : State) (g : GRef) (p : Nat) : State := { s with clk := { s.clk with slots := (g, p) :: s.clk.slots } }

/-- The cycles by which half 1 follows half 0 on a core with one pipe: those for which half 0 holds it (R25, R30). -/
def halfDelay (s : State) (tm : Team) (c : CoreId) : Nat :=
  if halfPipe s c 0 = halfPipe s c 1 then State.passLatency tm 1 1 * (if s.pipeSlices c (halfPipe s c 0) = 1 then 2 else 1) else 0

/-- A result of a half that comes n cycles later. -/
def Thread.delayHalf (t : Thread) (d n : Nat) : Thread :=
  { t with busy := t.busy.map fun b => if b.first = regKey t.handler d then { b with due := b.due + n } else b }

/-- PAIR: neither half reads what the other writes (R201), so that the second, run after the first, reads what stood before
either wrote. Each takes the cycles of its own pipe (R25, R200, R239). -/
def execPair (g0 g1 : Guard) (h0 h1 : Half) (s : State) : Host.Outcome State Fault Refusal :=
  .next (match s.active with
    | [] => s
    | t :: ts =>
      if !(halfBounds s h0 t g0 && halfBounds s h1 t g1) then s.trapGroup (decodeTrap Cause.regBounds ((encode (.pair g0 g1 h0 h1)).headD 0))
      else match halfOp h0.op.toNat, halfOp h1.op.toNat with
        | some f0, some f1 =>
          let refs := (t :: ts).map (·.ref)
          let n := ((s.team t.team).map fun tm => halfDelay s tm t.ref.core).getD 0
          let s' := (f0 (halfFields g0 h0) (onPipe s t.gref (halfPipe s t.ref.core 0))).updThreads refs fun h => { h with pc := t.pc }
          let u := (f1 (halfFields g1 h1) (onPipe s' t.gref (halfPipe s t.ref.core 1))).updThreads refs fun h => h.delayHalf h1.d.toNat n
          { u with clk := { u.clk with slots := s.clk.slots } }
        | _, _ => s)

end Sys2Proof.Machine
end

