-- ==== Sys2Proof/Machine/Homes.lean ====
section
/-! DEFINITION. What becomes of memory requests: page walks, performing at the homes and at the plot units, returns and
acknowledgements, fences, and long-latency results (spec/09_memory.md R131, R133, R142; spec/10_consistency.md R155 to R177;
spec/15_isa_memory.md R272 to R284; spec/18_traps.md R332, R348, R349; spec/24_fabric.md R413, R430, R431). -/

namespace Sys2Proof.Machine

/-- The failure of a request, if it has one. -/
def Request.cause? (r : Request) : Option Nat := match r.stage with
  | .failed c _ => some c
  | .refused c => some c
  | _ => none

namespace State

/-! ### Ends of accesses -/

/-- Another request of the same instruction has still to serve the thread. -/
def stillServes (s : State) (r : Request) (t : TRef) : Bool :=
  s.mem.requests.any fun q => q.id != r.id && q.op == r.op && q.parts.any fun p => p.t == t

/-- A request is over: a thread's slot is released with its last request (R193, R272). -/
def endRequest (s : State) (r : Request) : State :=
  let ts := ((r.parts.map (·.t)).eraseDups).filter fun t => !(s.stillServes r t)
  (s.dropRequest r.id).release ts r.handler r.set

/-- A request has been performed: its answer reaches the core after the earlier packets on its path (R417). -/
def answerAfter (s : State) (r : Request) (d : Nat) (i : Instr) : State :=
  let s := s.updRequest r.id fun _ => { r with stage := .performed }
  s.afterFrom d (s.pathTime (s.requestPath r true)) i

/-- A request waits one cycle where it stands. -/
def again (s : State) (i : Instr) : State := s.afterExactly 1 i

/-! ### Failing checks (R131, R332, R142) -/

/-- Threads are withdrawn from every request of an instruction. -/
def withdraw (s : State) (op : Nat) (ts : List TRef) : State :=
  let cut := fun (r : Request) => if r.op = op then { r with parts := r.parts.filter fun p => !(ts.contains p.t) } else r
  let keep := fun (r : Request) => r.op != op || (cut r).parts != [] || r.parts.isEmpty
  { s with mem := { s.mem with requests := (s.mem.requests.filter keep).map cut } }

/-- A tile image whose page check fails is dropped whole, with its use (R354, R367). -/
def dropImage (s : State) (op use : Nat) : State :=
  let s : State := { s with mem := { s.mem with requests := s.mem.requests.filter fun q => q.op != op } }
  match s.tile.uses.find? fun u => u.id == use with
  | some u => s.dropUse u
  | none => s

/-- The use of a tile image's request. -/
def imageUse (k : ReqKind) : Option Nat := match k with
  | .tileLoad u | .tileStore u => some u
  | _ => none

/-- The threads in lane order. -/
def byLane (s : State) (ts : List TRef) : List TRef := sortBy (fun t => ((s.thread t).map (·.lane)).getD 0) ts

/-- Where the access of a thread in failing requests starts: its virtual and its intermediate address (R329, R331). -/
def failAddr (rs : List Request) (t : TRef) : Option (Nat × Nat) :=
  leastBy (·.1) (rs.flatMap fun r => (r.parts.filter fun p => p.t == t).map fun p => match r.route with
    | .packet _ _ _ => (r.va, r.ia)
    | _ => (r.va + p.off, r.ia + p.off))

/-- The failing threads of an instruction for one key: they trap at a plot unit's refusal, and park otherwise. The lowest lane is
reported (R331). -/
def failThreads (s : State) (r : Request) (rs : List Request) (cause : Nat) (ts : List TRef) : State :=
  let ts := s.byLane ts
  let at' := fun (t : TRef) => (failAddr rs t).getD (r.va, r.ia)
  let va := ((ts.head?).map fun t => (at' t).1).getD r.va
  if cause = Cause.page ∨ cause = Cause.perm then s.parkThreads ts r.pc r.set r.handler at' cause false
  else
    let s := (s.release ts r.handler r.set).updThreads ts fun h => { h with pc := r.pc }
    let lane := ((ts.head?.bind s.thread).map (·.lane)).getD 0
    s.trapThreads (ts.map fun t => (t, r.pc)) { cause := cause, info := va, kind := .lane, lane := lane, thread := ts.head? }

/-- The page and cause by which failing threads form a sub-group (R332); a packet has no page. -/
def failKey (r : Request) : Nat × Nat :=
  match r.route, r.stage with
  | .packet _ _ _, _ => (0, (r.cause?).getD 0)
  | _, .failed c page => (page + 1, c)
  | _, _ => (r.ia / 2 ^ 16 * 2 ^ 16 + 1, (r.cause?).getD 0)

/-- The sub-groups of failing threads of an instruction: its first request, its threads. -/
def failGroups (bad : List Request) : List (Request × List TRef) :=
  (bad.foldl (fun (acc : List (Request × List TRef)) r =>
    let taken := acc.flatMap (·.2)
    let new := ((r.parts.map (·.t)).eraseDups).filter fun t => !(taken.contains t)
    if acc.any fun (a : Request × List TRef) => failKey a.1 == failKey r then acc.map fun a => if failKey a.1 = failKey r then (a.1, a.2 ++ new) else a
    else acc ++ [(r, new)]) []).filter fun a => !a.2.isEmpty

/-- When every check of an instruction has been answered: the failing lanes' threads leave it, the others travel. -/
def settleOp (s : State) (op : Nat) : State :=
  let mine := s.mem.requests.filter fun r => r.op == op
  let waits := mine.any fun r => match r.stage, r.route with
    | .walking _, _ => true
    | .travelling, .home => false
    | .travelling, _ => true
    | _, _ => false
  if waits then s
  else
    let bad := mine.filter fun r => r.cause?.isSome
    let s : State := match bad.head?.bind fun (r : Request) => imageUse r.kind with
      | some u => match bad.head? with
        | some r => (s.dropImage op u).failThreads r [] ((r.cause?).getD 0) ((r.parts.map (·.t)).eraseDups)
        | none => s
      | none =>
        let gone := (bad.flatMap fun r => r.parts.map (·.t)).eraseDups
        let s := s.withdraw op gone
        let left := s.mem.requests.filter fun (r : Request) => !(r.op == op && r.cause?.isSome)
        let s : State := { s with mem := { s.mem with requests := left } }
        (failGroups bad).foldl (fun s a => s.failThreads a.1 (bad.filter fun r => failKey r == failKey a.1) ((a.1.cause?).getD 0) a.2) s
    let s : State := if bad.isEmpty then s else s.settle
    (s.mem.requests.filter fun r => r.op == op && r.stage == .checked).foldl (fun s r => s.travel r) s

/-- A request outside module memory, or a packet, is turned away: its lanes fail when the instruction's other checks are
answered. A prefetch is dropped (R283). -/
def refuse (s : State) (r : Request) (cause : Nat) : State :=
  match r.kind with
  | .fill _ | .sliceFill => s.dropRequest r.id
  | _ => (s.updRequest r.id fun q => { q with stage := .refused cause }).settleOp r.op

/-- The lanes of a request outside module memory that its unit turns away, with their causes: they leave it, in requests of their own. -/
def splitRefused (s : State) (r : Request) (bad : List (LanePart × Nat)) : State :=
  ((bad.map (·.2)).eraseDups).foldl (fun s c =>
    let (id, s) := s.fresh
    let q : Request := { r with id := id, parts := (bad.filter fun p => p.2 == c).map (·.1), stage := .refused c }
    { s with mem := { s.mem with requests := s.mem.requests ++ [q] } }) s

/-! ### Performing at the homes -/

/-- The move engine is copying the line of a request (R133). -/
def beingCopied (s : State) (r : Request) : Bool :=
  match (s.memDie (walkingDie r.ia)).bind fun d => d.move.map fun m => (d, m) with
  | some (d, m) => d.busy && m.page == r.ia / 2 ^ 16 * 2 ^ 16 && m.oldFrame == r.frame / 2 ^ 16 * 2 ^ 16 && natField r.ia 7 9 == d.bound
  | none => false

/-- An uncorrectable error stops the context of a request, which is gone (R349, R350). -/
def spoiltRequest (s : State) (r : Request) : State :=
  (s.dropRequest r.id).killContext r.ctx Cause.uncorrected (s.redirect r.frame r.ia) r.core

/-- The lease class that a request asks of its home. -/
def leaseOfKind : ReqKind → Nat
  | .load l | .fill l => l
  | _ => 0

/-- The entry that maps a line is marked accessed, while it still maps it there (R127). -/
def markAccess (s : State) (r : Request) : State :=
  match s.walk r.ia with
  | .mapped e entry => if e.frame + (r.ia - e.page) = r.frame then s.markEntry entry false else s
  | .page _ => s

/-- A load or fill is performed at its home: the line as it stands, and the lease it is granted (R155, R158). -/
def readHome (s : State) (r : Request) : State × Request :=
  let pa := s.redirect r.frame r.ia
  let d := homeDie pa
  let lease := leaseOfKind r.kind
  let e := if lease = 0 then 0 else s.chrono (sliceUnit d (homeSlice r.ia)) + Config.leaseTicks lease
  let bs := s.readMem (lineOf pa) 128
  ((s.touchSlice d r.ia pa r.perms r.ctx e).markAccess r, { r with line := bs, leaseEnd := e })

/-- A request outside module memory reads its line whole: a constant line, a prefetch, and a line that the L1 is to keep (R177). -/
def wholeLine (r : Request) : Bool := match r.kind with
  | .constFill _ | .fill _ => true
  | .load l => l != 0 && r.route == .remote
  | _ => false

/-- Read the bytes of parts outside module memory into their places of the line, with the parts that their unit turns away. -/
def readParts (s : State) (r : Request) (line : List Byte) (bad : List (LanePart × Nat)) : List LanePart → State × List Byte × List (LanePart × Nat)
  | [] => (s, line, bad)
  | p :: ps =>
    if p.size = 0 then readParts s r line bad ps
    else match s.deviceRead (r.ia + p.off) p.size with
      | .error c => readParts s r line (bad ++ [(p, c)]) ps
      | .ok (bs, s) => readParts s r (overlay (r.ia % 128 + p.off) bs line) bad ps

/-- Write the bytes of a request's parts in lane order, so that the highest lane's remain (R273): the largest W, and the parts that a unit
outside module memory turns away. -/
def writeParts (s : State) (r : Request) (w : Nat) (bad : List (LanePart × Nat)) : List LanePart → State × Nat × List (LanePart × Nat)
  | [] => (s, w, bad)
  | p :: ps =>
    if p.size = 0 then writeParts s r w bad ps
    else if r.route = .home then
      let (s, w') := s.performWrite (r.frame + p.off) (r.ia + p.off) p.data (some (r.perms, r.ctx))
      writeParts s r (max w w') bad ps
    else match s.deviceWrite (r.ia + p.off) p.data with
      | .error c => writeParts s r w (bad ++ [(p, c)]) ps
      | .ok (s, w') => writeParts s r (max w w') bad ps

/-- The parts of a request at their home are one write: a line that they cover together loses its poison (R273, R349). -/
def writeHome (s : State) (r : Request) : State × Nat :=
  let (s, w, _) := s.writeParts r 0 [] r.parts
  (s.clearCovered (r.parts.map fun p => (s.redirect (r.frame + p.off) (r.ia + p.off), p.size)), w)

/-- A request outside module memory is over for the parts that its unit has turned away, and `answer` follows for the others. -/
def answerParts (s : State) (r : Request) (bad : List (LanePart × Nat)) (answer : State → Request → State) : State :=
  if bad.isEmpty then (answer s r).settleOp r.op
  else
    let left := r.parts.filter fun p => !(bad.any fun b => b.1 == p)
    let s := s.splitRefused r bad
    if left.isEmpty then (s.dropRequest r.id).settleOp r.op else (answer s { r with parts := left }).settleOp r.op

/-- The way back to the core (DESIGN CHOICE, assumption 80, for another module). -/
def wayBack (s : State) (r : Request) : Nat := match r.route with
  | .home => trip r.core (s.homeOf r.frame r.ia)
  | _ => 70

/-- One lane of an atomic: its old value and W, as a replay may supply them, and its new value (R162, R279, R447). -/
def atomicPart (s : State) (r : Request) (aop : Nat) (rnd : Rnd) (p : LanePart) : State × List Byte × Nat :=
  let pa := r.frame + p.off
  let ia := r.ia + p.off
  let w := s.writeTime (s.homeOf pa ia) ia
  let (v, s) := s.recordedAtomic r.ctx p.t (leNat (s.readMem (s.redirect pa ia) p.size)) w
  let new := (atomicNew r.ty aop rnd v.1 (leNat p.data) (leNat p.cmp)).bits
  ((s.performWrite pa ia (leBytes p.size new) (some (r.perms, r.ctx))).1, leBytes 8 v.1 ++ leBytes 8 v.2, v.2)

/-- The lanes of an atomic in ascending order (R273). -/
def atomicParts (s : State) (r : Request) (aop : Nat) (rnd : Rnd) : State × List (List Byte) × Nat :=
  r.parts.foldl (fun (acc : State × List (List Byte) × Nat) p =>
    let (s, old, w) := acc.1.atomicPart r aop rnd p
    (s, acc.2.1 ++ [old], max acc.2.2 w)) (s, [], 0)

/-- One lane of an atomic is sent to another module, or to PCIe space, with its operation (R430): what it returns is free (DESIGN CHOICE,
assumption 9). -/
def sendAtomic (s : State) (ia : Nat) (aop : Nat) (ty : Ty) (operand compare : List Byte) : Except Nat (List Byte × State) :=
  (s.deviceRead ia operand.length).map fun q =>
    (q.1, q.2.emit (.sentAtomic (outsideAddr ia).1 (outsideAddr ia).2 aop ty operand compare))

/-- The lanes of an atomic outside the module, in ascending order: those sent with their old values and
W, which a replay may supply (R447), and those turned away. -/
def foreignParts (s : State) (r : Request) (aop : Nat) : List LanePart → State × List (LanePart × List Byte) × List (LanePart × Nat)
  | [] => (s, [], [])
  | p :: ps => match s.sendAtomic (r.ia + p.off) aop r.ty p.data p.cmp with
    | .error c =>
      let (s, done, bad) := foreignParts s r aop ps
      (s, done, (p, c) :: bad)
    | .ok (bs, s) =>
      let (v, s) := s.recordedAtomic r.ctx p.t (leNat bs) 0
      let (s, done, bad) := foreignParts s r aop ps
      (s, (p, leBytes 8 v.1 ++ leBytes 8 v.2) :: done, bad)

/-- An atomic performed outside the module. -/
def foreignAtomic (s : State) (r : Request) (aop : Nat) : State :=
  let (s, done, bad) := s.foreignParts r aop r.parts
  s.answerParts r bad fun s r => s.answerAfter { r with old := done.map (·.2) } 78 (.loadReturn r.id)

/-- The cause of an atomic to the aperture: PERM at a block that device threads do not reach, else PAGE (R413). -/
def apertureAtomic (ia : Nat) : Nat := match blockOf ia with
  | some b => if b.device then Cause.page else Cause.perm
  | none => Cause.page

/-- A private line that goes back is written at its home, and keeps the error that it holds (R148, R168, R349). -/
def performBack (s : State) (r : Request) : State × Nat :=
  let (s, w) := s.performWrite r.frame r.ia r.line (some (r.perms, r.ctx))
  (if r.poison then s.setPoison (s.redirect r.frame r.ia) else s, w)

/-- A write waits where it stands: an earlier one of its thread to its line has not been performed (R156), or the line is being
copied (R133). -/
def writeWaits (s : State) (r : Request) : Bool := s.earlierWrite r || (r.route == .home && s.beingCopied r)

end State

/-- HOME_LOAD (R155, R158): a load or fill is performed. The homes answer a dead context with zeros (R348). -/
def execHomeLoad (req : Nat) (s : State) : Host.Outcome State Fault Refusal :=
  .next (match s.request req with
    | none => s
    | some r =>
      if r.stage ≠ .travelling then s
      else if s.ctxDrain r.ctx then s.answerAfter { r with line := List.replicate 128 0, leaseEnd := 0 } (s.wayBack r) (.loadReturn req)
      else match r.route with
        | .home =>
          if s.beingCopied r then s.again (.homeLoad req)
          else if s.uncorrected r.frame r.ia true then s.spoiltRequest r
          else
            let (s, r) := s.readHome r
            s.answerAfter r (s.wayBack r) (.loadReturn req)
        | _ =>
          if r.kind == .privStore then
            let (s, w, bad) := s.writeParts r 0 [] r.parts
            s.answerParts r bad fun s r => s.answerAfter { r with w := w } 70 (.loadReturn req)
          else if State.wholeLine r then
            match s.deviceRead (lineOf r.ia) 128 with
            | .error c => s.refuse r c
            | .ok (bs, s) => (s.answerAfter { r with line := bs, leaseEnd := State.leaseOfKind r.kind } 70 (.loadReturn req)).settleOp r.op
          else
            let (s, line, bad) := s.readParts r (List.replicate 128 0) [] r.parts
            s.answerParts r bad fun s r => s.answerAfter { r with line := line } 70 (.loadReturn req))

/-- HOME_STORE (R155, R160): a store, a tile's unit or a private line is performed. The homes drop a dead context's (R348). -/
def execHomeStore (req : Nat) (s : State) : Host.Outcome State Fault Refusal :=
  .next (match s.request req with
    | none => s
    | some r =>
      if r.stage ≠ .travelling then s
      else if s.ctxDrain r.ctx then s.answerAfter r (s.wayBack r) (.storeAck req)
      else match r.route with
        | .home =>
          if s.writeWaits r then s.again (.homeStore req)
          else if s.uncorrected r.frame r.ia false then s.spoiltRequest r
          else
            let (s, w) := match r.kind with
              | .writeBack => s.performBack r
              | _ => s.writeHome r
            s.answerAfter { r with w := w } (s.wayBack r) (.storeAck req)
        | _ =>
          if s.writeWaits r then s.again (.homeStore req)
          else
            let (s, w, bad) := s.writeParts r 0 [] r.parts
            s.answerParts r bad fun s r => s.answerAfter { r with w := w } 70 (.storeAck req))

/-- HOME_ATOMIC (R162, R279): an indivisible read and write for each lane, in ascending lane order. In the aperture it is
refused (R413). -/
def execHomeAtomic (req : Nat) (s : State) : Host.Outcome State Fault Refusal :=
  .next (match s.request req with
    | none => s
    | some r => match r.kind with
    | .atomic aop rnd =>
      if r.stage ≠ .travelling then s
      else if s.ctxDrain r.ctx then s.answerAfter { r with old := r.parts.map fun _ => List.replicate 16 0 } (s.wayBack r + 8) (.loadReturn req)
      else match r.route with
        | .home =>
          if s.writeWaits r then s.again (.homeAtomic req)
          else if s.uncorrected r.frame r.ia true then s.spoiltRequest r
          else
            let (s, old, w) := s.atomicParts r aop rnd
            s.answerAfter { r with old := old, w := w } (s.wayBack r + 8) (.loadReturn req)
        | .aperture => s.refuse r (State.apertureAtomic r.ia)
        | _ => if s.writeWaits r then s.again (.homeAtomic req) else s.foreignAtomic r aop
    | _ => s)

/-! ### Packets at a plot unit (R140 to R143, R277, R279) -/

/-- What a plot unit finds wrong with a packet: a window that was never open for the sender, one that has closed, or another
team's write to a single-writer window (R140, R141, R143, R302; DEDUCED, assumption 35). -/
def packetCause (s : State) (r : Request) (home : CoreId) (index : Nat) (win : Option PlotWindow) (p : LanePart) : Option Nat :=
  match win with
  | none => some (if (s.core home).closed.contains (r.ctx, index) then Cause.plotOwner else Cause.plotBounds)
  | some w =>
    let writes := match r.kind with | .load _ => false | _ => true
    match w.writer with
    | some t => if writes && ((s.thread p.t).map (·.team)) != some t then some Cause.windowWriter else none
    | none => none

/-- OPERATION_PACKET (R142): the packet is checked, executed and answered, or refused to its sender. -/
def execOperationPacket (packet : Nat) (s : State) : Host.Outcome State Fault Refusal :=
  .next (match s.request packet with
    | none => s
    | some r => match r.route, r.parts.head? with
      | .packet home win _, some p =>
        if r.stage ≠ .travelling then s
        else if s.ctxDrain r.ctx then s.dropRequest packet
        else
          let w := (s.core home).windows.find? fun (w : PlotWindow) => w.index == win && ((s.plot w.plot).map (·.ctx)) == some r.ctx
          let back := if home = r.core then 12 else 20
          match packetCause s r home win w p with
          | some c => s.refuse r c
          | none => match w.bind fun w => (s.plot w.plot).map fun k => (w.offset + p.off, k) with
            | none => s.refuse r Cause.plotOwner
            | some (o, k) =>
              if r.kind ≠ .store && s.plotPoisoned k o p.size then (s.dropRequest packet).killContext r.ctx Cause.uncorrected 0 home
              else match r.kind with
                | .store => (s.writePlotBytes k o p.data).answerAfter r back (.storeAck packet)
                | .atomic aop rnd =>
                  let (v, s) := s.recordedAtomic r.ctx p.t (leNat (k.read o p.size)) 0
                  let new := (atomicNew r.ty aop rnd v.1 (leNat p.data) (leNat p.cmp)).bits
                  (s.writePlotBytes k o (leBytes p.size new)).answerAfter { r with old := [leBytes 8 v.1 ++ leBytes 8 v.2] } back (.loadReturn packet)
                | _ => s.answerAfter { r with line := List.replicate p.off 0 ++ k.read o p.size } back (.loadReturn packet)
      | _, _ => s)

/-! ### Returns (R159, R161, R272) -/

namespace State

/-- Keep a returned line in the L1 under its lease: not where the core already holds a copy under a later lease or a private
one, nor where a store or a shoot-down has overtaken it. -/
def keepLoaded (s : State) (r : Request) : State :=
  let e := match r.route with
    | .home => r.leaseEnd
    | .remote => if r.leaseEnd = 0 then 0 else s.chrono r.core + Config.leaseTicks r.leaseEnd
    | _ => 0
  let better := match s.l1Line r.core r.ctx r.ia with
    | some l => l.isPrivate || decide (e ≤ l.leaseEnd)
    | none => false
  if e = 0 || better then s
  else
    let pa := s.redirect r.frame r.ia
    s.fillL1 r.core ⟨r.ctx, lineOf r.ia, 0, false, false, false, e, r.perms, lineOf pa, r.line⟩

/-- The lanes of a load, after their own store queues (R161). -/
def loadedLanes (r : Request) : List ResultLane :=
  let base := match r.route with
    | .packet _ _ _ => 0
    | _ => r.ia % 128
  (r.parts.filter fun p => p.size != 0).map fun p => loadLane p.t r.ty p.reg (applyOwn p.own ((r.line.drop (base + p.off)).take p.size))

/-- The lanes of an atomic: the old value, and the flags of .fadd (R279). -/
def atomicLanes (r : Request) (aop : Nat) (rnd : Rnd) : List ResultLane :=
  (r.parts.zip r.old).map fun q =>
    let old := leNat (q.2.take 8)
    ⟨q.1.t, q.1.reg, typeWords r.ty old, none, if aop = 10 then (atomicNew r.ty aop rnd old (leNat q.1.data) (leNat q.1.cmp)).flags else 0⟩

/-- An atomic returns: its values, W and log entries reach its lanes (R161, R162, R446). -/
def atomicReturned (s : State) (r : Request) (aop : Nat) (rnd : Rnd) : State :=
  let s := match r.route with
    | .home => s.expelL1 r.core r.ctx r.ia
    | _ => s
  let s := (r.parts.zip r.old).foldl (fun s q =>
    (s.updThread q.1.t fun h => { h with wmax := max h.wmax (leNat ((q.2.drop 8).take 8)) }).logAtomic r.ctx q.1.t (leNat (q.2.take 8)) (leNat ((q.2.drop 8).take 8))) s
  s.writeLanes r.op r.handler (atomicLanes r aop rnd)

/-- W enters the WMAX of threads (R161). -/
def raiseWmax (s : State) (ts : List TRef) (w : Nat) : State := s.updThreads ts fun h => { h with wmax := max h.wmax w }

/-- The private line of a request is there, filled unless another fill brought it (R148). -/
def privateLine (s : State) (r : Request) : State × Option L1Line :=
  let there := match s.l1Line r.core r.ctx r.ia with
    | some l => l.isPrivate
    | none => false
  let s := if there then s else s.fillL1 r.core ⟨r.ctx, lineOf r.ia, 0, true, false, false, 0, r.perms, lineOf (s.redirect r.frame r.ia), r.line⟩
  (s, s.l1Line r.core r.ctx r.ia)

/-- A private store is made in its line, which it cleans where it covers it whole (R148, R349), or has been made outside module memory with
its W (R161, R413). -/
def privateStored (s : State) (r : Request) : State :=
  if r.route ≠ .home then s.raiseWmax ((r.parts.map (·.t)).eraseDups) r.w
  else
    let parts := r.parts.filter fun p => p.size != 0
    let s := (s.privateLine r).1
    let s := if spansCover (parts.map fun p => (r.ia + p.off, p.size)) (lineOf r.ia) 128 then s.updL1 r.core r.ctx r.ia fun l => { l with poison := false } else s
    parts.foldl (fun s p => writePrivate s r.core r.ctx (r.ia + p.off) p.data) s

/-- The bytes of a thread in the lines of a private load, from the first register on. -/
def privateWords (rs : List Request) (t : TRef) : Nat × List Byte :=
  let own := sortBy (·.1) (rs.flatMap fun q => (q.parts.filter fun p => p.t == t && p.size != 0).map fun p =>
    (p.reg, applyOwn p.own ((q.line.drop (q.ia % 128 + p.off)).take p.size)))
  ((own.head?.map (·.1)).getD 0, own.flatMap (·.2))

/-- A line of a private load has come. A lane whose lines are all there takes its value, whole, and its slot is released (R193, R272). -/
def privateLoaded (s : State) (r : Request) (line : List Byte) : State :=
  let s := s.updRequest r.id fun q => { q with line := line, stage := .returned }
  let mine := s.mem.requests.filter fun q => q.op == r.op
  let ts := ((r.parts.map (·.t)).eraseDups).filter fun t => mine.all fun q => q.stage == .returned || !(q.parts.any fun p => p.t == t)
  let lanes := ts.map fun t => loadLane t r.ty (privateWords mine t).1 (privateWords mine t).2
  ((s.writeLanes r.op r.handler lanes).withdraw r.op ts).release ts r.handler r.set

/-- The private line of a request is there, and the access is made in it: one whose error cannot be corrected ends the context of a load
(R148, R349). For a dead context nothing is made (R348). -/
def privateReturned (s : State) (r : Request) (store : Bool) : State :=
  if s.ctxDrain r.ctx then s.endRequest r
  else if store then (s.privateStored r).endRequest r
  else if r.route ≠ .home then s.privateLoaded r r.line
  else
    let (s, line) := s.privateLine r
    match line with
    | none => s.privateLoaded r r.line
    | some l => if l.poison then (s.dropRequest r.id).killContext r.ctx Cause.uncorrected l.frame r.core else s.privateLoaded r l.data

/-- An earlier private store of one of a private store's threads to its line has not been made: it goes first. -/
def earlierPrivate (s : State) (r : Request) : Bool :=
  r.kind == .privStore && s.mem.requests.any fun q => decide (q.id < r.id) && q.kind == .privStore && q.core == r.core && q.ctx == r.ctx &&
    lineOf q.ia == lineOf r.ia && q.parts.any fun a => r.parts.any fun b => a.t == b.t

/-- A constant line enters the core's constant cache while its launch runs, and serves an LDK (R150, R280). -/
def constReturned (s : State) (r : Request) (run : Nat) : State :=
  let s := if (s.run run).isNone then s
    else s.updCore r.core fun k =>
      { k with klines := (⟨r.ctx, run, lineOf r.ia, r.line⟩ :: k.klines.filter fun l => !(l.ctx == r.ctx && l.run == run && l.line == lineOf r.ia)).take 512 }
  s.writeLanes r.op r.handler (loadedLanes r)

/-- A unit of a tile image is in the tile (R367). -/
def unitLoaded (s : State) (r : Request) (use : Nat) : State :=
  match s.tileUse use, r.parts.head? with
  | some (u, _), some p =>
    let s := s.updTileSlot u.die u.site u.slot fun t => { t with tile := { t.tile with data := overlay p.reg ((r.line.drop (r.ia % 128 + p.off)).take p.size) t.tile.data } }
    (s.dropRequest r.id).unitDone use
  | _, _ => s.dropRequest r.id

end State

/-- LOAD_RETURN (R272): the value of a load, fill or atomic reaches its core. -/
def execLoadReturn (req : Nat) (s : State) : Host.Outcome State Fault Refusal :=
  .next (match s.request req with
    | none => s
    | some r =>
      if r.stage ≠ .performed then s
      else if s.earlierPrivate r then s.again (.loadReturn req)
      else match r.kind with
        | .load _ => ((s.keepLoaded r).writeLanes r.op r.handler (State.loadedLanes r)).endRequest r
        | .fill _ => (s.keepLoaded r).dropRequest req
        | .sliceFill => s.dropRequest req
        | .atomic aop rnd => (s.atomicReturned r aop rnd).endRequest r
        | .privLoad => s.privateReturned r false
        | .privStore => s.privateReturned r true
        | .constFill run => (s.constReturned r run).endRequest r
        | .tileLoad use => s.unitLoaded r use
        | _ => s)

namespace State

/-- The issuing core updates its own copy of a stored line; a fill on its way that was performed earlier is not kept (R160,
R161). -/
def updateOwn (s : State) (r : Request) : State :=
  let parts := r.parts.filter fun p => p.size != 0
  let mine := fun (l : L1Line) => l.ctx == r.ctx && l.line == lineOf r.ia && !l.isPrivate
  let clean := spansCover (parts.map fun p => (r.ia + p.off, p.size)) (lineOf r.ia) 128
  let stored := fun (l : L1Line) => { l with data := parts.foldl (fun d p => overlay (r.ia % 128 + p.off) p.data d) l.data, poison := l.poison && !clean }
  let s := s.updCore r.core fun k => { k with l1 := mapIf mine stored k.l1 }
  let stale := fun (q : Request) => q.core == r.core && q.ctx == r.ctx && lineOf q.ia == lineOf r.ia && q.stage == .performed
  { s with mem := { s.mem with requests := mapIf stale (fun q => { q with leaseEnd := 0 }) s.mem.requests } }

end State

/-- STORE_ACK (R160, R161): an acknowledgement reaches its core; that of a CCTL's write-back carries W too (R168). -/
def execStoreAck (req : Nat) (s : State) : Host.Outcome State Fault Refusal :=
  .next (match s.request req with
    | none => s
    | some r =>
      if r.stage ≠ .performed then s
      else
        let ts := (r.parts.map (·.t)).eraseDups
        match r.kind, r.route with
        | .store, .packet _ _ _ => s.endRequest r
        | .store, _ => ((s.raiseWmax ts r.w).updateOwn r).endRequest r
        | .tileStore use, _ => (((s.raiseWmax ts r.w).updateOwn r).dropRequest req).unitDone use
        | .writeBack, _ => (s.raiseWmax ts r.w).endRequest r
        | _, _ => s)

/-! ### Page walks (R126, R127, R131, R332) -/

namespace State

/-- The walking die's verdict on a walk: the page, or PAGE or PERM, with whether the entry is malformed. -/
def walkVerdict (s : State) (w : Walk) : Except (Nat × Bool) PageEntry :=
  match s.walk w.ia with
  | .page bad => .error (Cause.page, bad)
  | .mapped e _ => if pagePermits e.perms w.need then .ok e else .error (Cause.perm, false)

/-- The instruction whose requests wait for a walk. -/
def walkOp (s : State) (w : Nat) : Option Nat := (s.mem.requests.find? fun r => r.stage == .walking w).map (·.op)

/-- The fetch of an instruction meets PAGE or PERM: the threads that asked for it, and still stand there, park (R332). -/
def fetchFails (s : State) (w : Walk) (pc : W64) (ts : List TRef) (cause : Nat) : State :=
  let still := ts.filter fun t => ((s.thread t).map fun h => h.status == .eligible && h.dying.isNone && h.pc == pc).getD false
  match still with
  | [] => s
  | t :: _ => (s.parkThreads still pc 0 (((s.thread t).map (·.handler)).getD false) (fun _ => (w.va, w.ia)) cause true).settle

end State

/-- PAGE_WALK_ANSWER (R131): a pass fills the presence cache, unless a shoot-down has overtaken it; a failure parks lanes. -/
def execPageWalkAnswer (walk : Nat) (s : State) : Host.Outcome State Fault Refusal :=
  .next (match s.mem.walks.find? fun w => w.id == walk with
    | none => s
    | some w =>
      let op := s.walkOp walk
      let s : State := { s with mem := { s.mem with walks := s.mem.walks.filter fun k => k.id != walk } }
      let waiting := fun (r : Request) => r.stage == .walking walk
      match s.walkVerdict w, w.who with
      | .ok e, who =>
        let s := if w.stale then s else s.fillPage w.core e
        match who, op with
        | .requests, some op =>
          let pass := fun (r : Request) => { r with stage := .checked, frame := e.frame + (r.ia - e.page), perms := e.perms }
          ({ s with mem := { s.mem with requests := mapIf waiting pass s.mem.requests } } : State).settleOp op
        | _, _ => s
      | .error (cause, bad), who =>
        let s := if bad then s.emit (.report w.ctx w.ia) else s
        match who, op with
        | .fetch _ pc ts, _ => s.fetchFails w pc ts cause
        | .requests, some op =>
          let prefetch := fun (r : Request) => match r.kind with | .fill _ | .sliceFill => true | _ => false
          let rs := mapIf waiting (fun r => { r with stage := .failed cause (s.faultPage w.ia cause) }) (s.mem.requests.filter fun r => !(waiting r && prefetch r))
          ({ s with mem := { s.mem with requests := rs } } : State).settleOp op
        | _, _ => s)

/-! ### Fences and the ends of threads (R165, R311) -/

/-- FENCE_COMPLETE (R165): the thread goes on. -/
def execFenceComplete (t : TRef) (s : State) : Host.Outcome State Fault Refusal :=
  .next (match s.thread t with
    | none => s
    | some h => match h.fence, s.team h.team with
      | some scope, some tm => if fenceDone s tm h scope then s.updThread t fun h => { h with fence := none } else s
      | _, _ => s)

/-! ### Long-latency results -/

namespace State

/-- Make the accesses of SYS.rdsup or SYS.wrsup in lane order (R321). -/
def runSups (s : State) (as : List SupAccess) : State × List ResultLane :=
  as.foldl (fun (acc : State × List ResultLane) a =>
    let (s, ls) := supAccess acc.1 a
    (s, acc.2 ++ ls)) (s, [])

/-- A result is written: the log entries of plot atomics (R446), registers, predicates and flags, then the slots. -/
def giveResult (s : State) (r : Result) : State :=
  let s : State := { s with mem := { s.mem with results := s.mem.results.filter fun q => q.id != r.id } }
  let (s, more) := s.runSups r.sups
  let s := r.logs.foldl (fun s l => s.logAtomic l.1.ctx l.1 l.2 0) s
  (s.writeLanes r.op r.handler (r.lanes ++ more)).release r.counted r.handler r.set

/-- A shoot-down ends: its pages' entries and copies are gone, and what was parked on them resumes (R324, R333). -/
def endShoot (s : State) (r : Result) : State :=
  r.pages.foldl (fun s p => (s.shootPage p.1 p.2).resumeParked p.1 p.2) s

end State

/-- LONG_LATENCY_RESULT (R247, R265, R324, R361, R371): the result, the use or the operation with this number is over. -/
def execLongLatencyResult (result : Nat) (s : State) : Host.Outcome State Fault Refusal :=
  .next (match s.mem.results.find? fun r => r.id == result with
    | some r =>
      if r.held.isSome then s
      else if shootWaits s r then s.again (.longLatencyResult result)
      else (s.endShoot r).giveResult r
    | none => match s.tile.uses.find? fun u => u.id == result with
      | some u => s.finishUse u
      | none => match s.tile.ops.find? fun o => o.id == result with
        | some o => s.finishMma o
        | none => s)

end Sys2Proof.Machine
end

