-- ==== Sys2Proof/Machine/Issue.lean ====
section
/-! DEFINITION. Fetching a group's next instruction, when a group is ready, which groups issue in a cycle, and what an issue
leaves in its group and threads (spec/05_scheduling.md R76 to R79; spec/03_execution.md R37, R47; spec/12_encoding.md R183, R192,
R193, R203 to R205; spec/09_memory.md R131). -/

namespace Sys2Proof.Machine

/-! ### Fetch (R123, R131, R204, R205) -/

/-- What fetching an instruction meets. -/
inductive Fetched where
  | instr (i : Instr)
  /-- A trap of the whole group: a decode cause, or RANGE or PERM of a range. -/
  | trap (t : Trap)
  /-- A page that only the walking die can answer for: the word's intermediate address. -/
  | walk (ia : Nat)
  /-- A failure of a unit outside module memory: PAGE or PERM. -/
  | refused (cause ia : Nat)
  | spoilt (pa : Nat)
  deriving DecidableEq, Repr

/-- One word of code. -/
inductive FetchedWord where
  | word (w : W32)
  | other (f : Fetched)

/-- The trap of a failing fetch: it reports the address of the first word (R204). -/
def fetchTrap (cause pc lane : Nat) : Trap := { cause := cause, info := pc, kind := .group, lane := lane, fetch := true, addr := pc }

/-- Fetch a word at an address for an instruction at pc. -/
def fetchWord (s : State) (g : GRef) (pc va lane : Nat) : FetchedWord :=
  match s.ctx g.ctx with
  | none => .other (.trap (fetchTrap Cause.range pc lane))
  | some c =>
    match rangeCheck c va 4 .fetch with
    | .error cause => .other (.trap (fetchTrap cause pc lane))
    | .ok (ia, _) =>
      if inModule ia then
        match s.pageHeld g.core g.ctx ia .fetch with
        | none => .other (.walk ia)
        | some (pa, _) =>
          if s.uncorrected pa ia true then .other (.spoilt (s.redirect pa ia))
          else .word (BitVec.ofNat 32 (leNat (s.readMem (s.redirect pa ia) 4)))
      else match s.deviceRead ia 4 with
        | .ok (bs, _) => .word (BitVec.ofNat 32 (leNat bs))
        | .error cause => .other (.refused cause ia)

namespace State

/-- The fetch of one word uses its page presence entry (R129), and is an access for the page table (R127). -/
def noteFetchWord (s : State) (g : GRef) (va : Nat) : State :=
  match (s.ctx g.ctx).map fun c => rangeCheck c va 4 .fetch with
  | some (.ok (ia, _)) =>
    if !(inModule ia) then s
    else match s.pageHeld g.core g.ctx ia .fetch with
      | none => s
      | some (pa, _) =>
        let s := s.usePage g.core ia
        match s.walk ia with
        | .mapped e entry => if e.frame + (ia - e.page) = pa then s.markEntry entry false else s
        | _ => s
  | _ => s

/-- The fetch of an instruction of n words. -/
def noteFetch (s : State) (g : GRef) (pc n : Nat) : State := (s.noteFetchWord g pc).noteFetchWord g (pc + 4 * (n - 1))

end State

/-- Further words of an instruction. -/
def fetchWords (s : State) (g : GRef) (pc lane : Nat) : (n va : Nat) → Except Fetched (List W32)
  | 0, _ => .ok []
  | n + 1, va => match fetchWord s g pc va lane with
    | .other f => .error f
    | .word w => match fetchWords s g pc lane n (va + 4) with
      | .ok ws => .ok (w :: ws)
      | .error f => .error f

/-- The cause code of a decode failure (R203). -/
def decodeCode : DecodeCause → Nat
  | .illegalOp => Cause.illegalOp
  | .illegalField => Cause.illegalField
  | .illegalPair => Cause.illegalPair

/-- Fetch and decode the instruction at the minimum PC of a group, for its active threads (DEDUCED, assumption 65). -/
def fetchAt (s : State) (g : GRef) (act : List Thread) : Fetched :=
  match act with
  | [] => .trap (fetchTrap Cause.range 0 0)
  | h :: _ =>
    let pc := h.pc.toNat
    match fetchWord s g pc pc h.lane with
    | .other f => f
    | .word w0 => match fetchWords s g pc h.lane ((wordForm w0).words - 1) (pc + 4) with
      | .error f => f
      | .ok ws => match decode (w0 :: ws) with
        | .ok i => .instr i
        | .error c => .trap (decodeTrap (decodeCode c) w0)

/-! ### Registers still due (R77, R78, R192) -/

/-- What an instruction reads and writes: register runs (first, count) and predicates, its guard's among those read. -/
structure Uses where
  reads  : List (Nat × Nat)
  writes : List (Nat × Nat)
  preds  : List Nat
  predWrites : List Nat

/-- The run of an operand. -/
def opdRun (o : Opd) (v : BitVec 8) : List (Nat × Nat) := match o with
  | .regs n => if n = 0 then [] else [(v.toNat, n)]
  | _ => []

/-- The predicate of an operand. -/
def opdPred (o : Opd) (v : BitVec 8) : List Nat := match o with
  | .pred => if v.toNat % 8 = 0 then [] else [v.toNat % 8]
  | _ => []

/-- Opcodes whose D is a source: SREG's and TMOV's writes name no register there, MMA reads its format word from D. -/
def readsD (op : Nat) : Bool := op == 0x68

/-- The uses of an instruction's fields. -/
def usesOf (op : Nat) (x : Fields) : Uses :=
  match opSpec op x with
  | none => ⟨[], [], [], []⟩
  | some sp =>
    let d := opdRun sp.d x.d
    ⟨opdRun sp.a x.a ++ opdRun sp.c x.c ++ (if bIsRegister sp x then opdRun sp.b x.b else []) ++ (if readsD op then d else []),
     if readsD op then [] else d,
     opdPred sp.a x.a ++ opdPred sp.b x.b ++ opdPred sp.c x.c ++ [x.guard.pred.toNat],
     opdPred sp.d x.d⟩

/-- Runs of registers of a thread that instructions have still to write, with the instruction: all of them, or those of long-latency
instructions, to which cross-lane results and team registers do not belong (R78, R268). -/
def dueRuns (s : State) (all : Bool) (t : TRef) : List (Nat × Nat × Nat) :=
  ((s.mem.results.filter fun r => all || r.long).flatMap fun r =>
    ((r.lanes.filter fun l => l.t == t).map fun l => (r.op, regKey r.handler l.reg, l.vals.length)) ++
    ((r.sups.filter fun a => a.t == t && a.value.isNone).map fun a => (r.op, regKey r.handler a.reg, 2))) ++
  (s.mem.requests.flatMap fun r => match r.kind with
    | .load _ | .atomic _ _ | .privLoad | .constFill _ =>
      (r.parts.filter fun p => p.t == t && p.size != 0).map fun p => (r.op, regKey r.handler p.reg, if p.size < 4 then 1 else p.size / 4)
    | _ => []) ++
  (s.mem.cmds.flatMap fun c => (c.lanes.filter fun l => l.t == t && !(l.done && c.kind == .trace && !(s.cmdTimed c))).map fun l => (c.id, regKey c.handler l.reg, 1)) ++
  (s.tile.maccs.flatMap fun m =>
    ((m.todo.filter fun l => l.1 == t).map fun _ => (m.id, regKey m.handler m.reg, 1)) ++ ((m.done.filter fun l => l.t == t).map fun _ => (m.id, regKey m.handler m.reg, 1))) ++
  (s.tile.uses.flatMap fun u => match u.kind with
    | .readFragments d ls => (ls.filter fun l => l.1 == t).map fun _ => (u.op, regKey u.handler d, 1)
    | _ => []) ++
  (if all then s.mem.arrivals.flatMap fun a => if a.op = 0x56 ∧ OpTable.xf a.x 0 1 = 0 then
      (a.threads.filter fun p => p.1 == t).map fun _ => (a.result, regKey a.handler a.x.d.toNat, 1) else []
   else [])

/-- Predicates of a thread that those instructions have still to write, with the instruction. A write of p0 writes nothing (R219). -/
def duePreds (s : State) (all : Bool) (t : TRef) : List (Nat × Nat) :=
  (s.mem.results.filter fun r => all || r.long).flatMap fun r =>
    (r.lanes.filter fun l => l.t == t).filterMap fun l => l.pred.bind fun p => if p.1 % 8 = 0 then none else some (r.op, p.1 % 8)

/-- Runs have a register in common. -/
def runsMeet (a b : Nat × Nat) : Bool := decide (0 < a.2 ∧ 0 < b.2 ∧ a.1 < b.1 + b.2 ∧ b.1 < a.1 + a.2)

/-- A register or predicate that the instruction uses is still due in a thread. A read inside the lookahead window of the
instruction that will write it is not compared; a write is (R192). -/
def waitsRegister (s : State) (all : Bool) (h : Thread) (u : Uses) : Bool :=
  let due := dueRuns s all h.ref
  let key := fun (r : Nat × Nat) => (regKey h.handler r.1, r.2)
  let free := fun (op : Nat) => h.windows.any fun w => w.op == op && w.op != 0 && decide (0 < w.left) && w.handler == h.handler
  (due.any fun d => u.writes.any fun r => runsMeet d.2 (key r)) ||
  (due.any fun d => !(free d.1) && u.reads.any fun r => runsMeet d.2 (key r)) ||
  ((duePreds s all h.ref).any fun p => u.predWrites.contains p.2 || (!(free p.1) && u.preds.contains p.2))

/-- The result is still to come in this cycle, but for a reader inside the lookahead window of its instruction (R192). -/
def Busy.blocks (b : Busy) (h : Thread) (cycle : Nat) (u : Uses) : Bool :=
  let key := fun (r : Nat × Nat) => (regKey h.handler r.1, r.2)
  let free := h.windows.any fun w => w.op == 0 && decide (0 < w.left) && w.handler == h.handler && regKey w.handler w.first == b.first && w.due == b.due
  decide (cycle < b.due) &&
    ((u.writes.any fun r => runsMeet (b.first, b.count) (key r)) || (b.pred.any fun p => u.predWrites.contains p) ||
     (!free && ((u.reads.any fun r => runsMeet (b.first, b.count) (key r)) || b.pred.any fun p => u.preds.contains p)))

/-- A register or predicate that the instruction uses is awaiting the result of a short-latency instruction (R77, R237). -/
def waitsShort (cycle : Nat) (act : List Thread) (u : Uses) : Bool := act.any fun h => h.busy.any fun b => b.blocks h cycle u

/-! ### Readiness (R77) -/

/-- The fields, opcode and uses of an instruction; a PAIR has those of both halves. -/
def issueUses (i : Instr) : Nat × Option Fields × Uses :=
  match i with
  | .pair g0 g1 h0 h1 =>
    let u := fun (g : Guard) (h : Half) => usesOf h.op.toNat { Fields.ofBase h.op.toNat h.d h.a h.b with guard := g }
    let a := u g0 h0
    let b := u g1 h1
    (0x7E, none, ⟨a.reads ++ b.reads, a.writes ++ b.writes, a.preds ++ b.preds, a.predWrites ++ b.predWrites⟩)
  | .braBase _ => (0x58, none, ⟨[], [], [], []⟩)
  | _ => match i.row? with
    | some (op, x, _) => (op, some x, usesOf op x)
    | none => (0, none, ⟨[], [], [], []⟩)

/-- The slots of the WAIT field, or of a WAIT instruction, hold the group (R193, R282). -/
def heldBySlots (act : List Thread) (op : Nat) (x : Option Fields) : Bool :=
  match x with
  | none => false
  | some x => act.any fun t => !(slotsWithin t x.wait.toNat 0) || (op == 0x4A && !(slotsWithin t (natField x.low.toNat 0 6) (natField x.low.toNat 6 6)))

/-- The group's next instruction waits for a long-latency result (R78). -/
def waitsLong (s : State) (act : List Thread) (i : Instr) : Bool :=
  let (op, x, u) := issueUses i
  heldBySlots act op x || act.any fun h => waitsRegister s false h u

/-- The instruction would carry a slot counter above 63 (R193). -/
def slotFull (act : List Thread) (x : Option Fields) : Bool :=
  match x with
  | none => false
  | some x => x.set != 0 && act.any fun t => t.guardTrue x.guard && decide (63 ≤ t.slot x.set.toNat)

/-- A throttled load (R79). -/
def throttled (op : Nat) (x : Option Fields) : Bool :=
  match x with
  | none => false
  | some x => op == 0x42 || op == 0x4C || ((op == 0x40 || op == 0x44) && OpTable.xf x 0 3 == 0) || (op == 0x64 && !(x.xop.getLsbD 0))

/-- FSTAT, which the instruction reads or clears, awaits flags (R93, R240). -/
def waitsFlags (s : State) (act : List Thread) (op : Nat) (x : Option Fields) : Bool :=
  match x with
  | none => false
  | some x => op == 0x7A && natField x.low.toNat 0 12 == 0x00C && act.any fun t => t.guardTrue x.guard && flagsPending s t.ref

/-- A unit beside the pipe does not accept the instruction of the threads (R77): a matrix engine without an entry for its context (R80,
R371), the full queue of a copy or traversal engine (R288), a tile pool without a free slot, for a handle that the team has (R362, R188). -/
def unitRefuses (s : State) (act : List Thread) (op : Nat) (x : Option Fields) : Bool :=
  match x with
  | none => false
  | some x =>
    match act.filter fun t => t.guardTrue x.guard with
    | [] => false
    | h :: _ =>
      match s.team h.team with
      | none => false
      | some tm =>
        let c := h.ref.core
        let queued := fun (of : CmdKind → Bool) => (s.mem.cmds.filter fun k => of k.kind && k.core.die == c.die && k.core.site == c.site).length
        match op with
        | 0x68 => !(x.xop.getLsbD 1) && mmaWaits s tm x act
        | 0x70 => decide (16 ≤ queued fun k => match k with | .copy _ => true | _ => false)
        | 0x71 => decide (8 ≤ queued fun k => k == .trace)
        | 0x60 =>
          decide (x.d.toNat < tm.header.tiles) && ((State.handlesOf tm c).getD x.d.toNat ⟨.empty, 0⟩).state == .empty &&
          ((opSpec op x).any fun sp => (tileOfShape ((readB s h sp x []).setWidth 32)).isSome) && (freePoolSlot s tm.id c).isNone
        | _ => false

/-- The group slot has load permission in the present window (R79). -/
def permitted (k : Core) (g : Nat) : Bool := decide ((g + 64 - k.permit % 64) % 64 < k.limit)

/-- The active bank of a core issues: its context runs and no exchange is under way (R76, R320, R343). -/
def bankIssues (s : State) (k : Core) : Bool :=
  match k.active with
  | none => false
  | some c => s.coreOn k.id && s.dieOk k.id.die && !(s.ctxHalted c) && (match k.swap with | some w => w.until'.isNone || w.spill | none => true)

/-- A group can be looked at for issue: it has active threads, none is stalled by a FENCE, no EXIT of its threads still drains their accesses,
its fetch is not suspended, and its last instruction's delay is over (R77, R131, R165, R311, R326; DEDUCED, assumptions 36 and 66). -/
def canLook (s : State) (g : Group) : Option (List Thread) :=
  match s.activeOf g.ref with
  | [] => none
  | act => if decide (s.clk.cycle < g.ready) || (act.any fun t => t.fence.isSome) || ((s.groupThreads g.ref).any fun t => t.dying == some .normal) ||
      s.suspended g.ref then none else some act

/-- The instruction that a group can issue now (R77), or the trap or failure that its fetch meets. -/
def nextOf (s : State) (k : Core) (g : Group) : Option (List Thread × Fetched) :=
  match canLook s g with
  | none => none
  | some act => match fetchAt s g.ref act with
    | .instr i =>
      let (op, x, u) := issueUses i
      if heldBySlots act op x || (act.any fun h => waitsRegister s true h u) || waitsShort s.clk.cycle act u || waitsFlags s act op x ||
          slotFull act x || (throttled op x && !(permitted k g.ref.group)) || unitRefuses s act op x then none
      else some (act, .instr i)
    | .walk _ => none
    | f => some (act, f)

/-- The groups of a core's active bank. -/
def bankGroups (s : State) (k : Core) : List Group := match k.active with
  | some c => s.groups.filter fun g => g.ref.core == k.id && g.ref.ctx == c
  | none => []

def groupAt (s : State) (k : Core) (g : Nat) : Option Group := match k.active with
  | some c => s.group ⟨k.id, c, g⟩
  | none => none

/-! ### Walks for code (R131) -/

/-- Groups whose fetch needs the walking die, with their PC, the intermediate address of the word and their active threads. -/
def fetchWalks (s : State) : List (GRef × Nat × Nat × List TRef) :=
  s.cores.flatMap fun k => if bankIssues s k then (bankGroups s k).filterMap fun g => match canLook s g with
    | some (h :: hs) => (match fetchAt s g.ref (h :: hs) with | .walk ia => some (g.ref, h.pc.toNat, ia, (h :: hs).map (·.ref)) | _ => none)
    | _ => none
  else []

namespace State

/-- Send the fetch of a group's threads to the walking die. -/
def walkFetch (s : State) (g : GRef) (pc ia : Nat) (ts : List TRef) : State :=
  let (w, s) := s.fresh
  let walk : Walk := ⟨w, g.core, g.ctx, pc, ia, .fetch, .fetch g (BitVec.ofNat 64 pc) ts, false⟩
  ({ s with mem := { s.mem with walks := s.mem.walks ++ [walk] } } : State).after 70 (.pageWalkAnswer w)

end State

/-! ### The choice of a cycle (R76, R77) -/

/-- Ready groups of the active set at or after the pointer, with their positions. -/
def readyOrder (s : State) (k : Core) : List (Nat × Group × Fetched) :=
  ((List.range 8).map fun n => (k.pointer + n) % 8).filterMap fun p =>
    ((k.positions.getD p none).bind fun q => groupAt s k q.1).bind fun g => (nextOf s k g).map fun r => (p, g, r.2)

def isPair : Fetched → Bool
  | .instr (.pair _ _ _ _) => true
  | _ => false

/-- A pipe takes an instruction in this cycle: it is not held, neither by the instructions before nor by the second pass of a divide. An
instruction that holds the pipe for more cycles may begin before that pass, which the divide unit takes in all the same (DESIGN CHOICE, assumption 112). -/
def pipeOpen (s : State) (c : CoreId) (p : Nat) : Bool :=
  let n := s.pipeSlices c p
  let second := assocGet 0 (c, 4 + p) s.clk.units
  n != 0 && decide (assocGet 0 (c, p) s.clk.pipes ≤ s.clk.cycle) && !decide (s.clk.cycle < second ∧ second ≤ s.clk.cycle + 2 / n)

/-- The pipes of a core that issue (R25). -/
def livePipes (s : State) (c : CoreId) : List Nat := (List.range 2).filter fun p => s.pipeSlices c p != 0

/-- The unit that an instruction needs beside a pipe, 0 the pipe's divide unit and 2 the SFU, with the cycles between two passes
that it accepts (R238, R258). -/
def unitNeeded (f : Fetched) : Option (Nat × Nat) :=
  match f with
  | .instr i => match issueUses i with
    | (0x06, some x, _) | (0x07, some x, _) | (0x27, some x, _) | (0x28, some x, _) => some (0, if x.ty.wide then 32 else 8)
    | (0x3F, _, _) => some (2, 1)
    | _ => none
  | _ => none

/-- The unit as it stands in the clock's list, for an instruction on a pipe. -/
def unitKey (u p : Nat) : Nat := if u = 0 then p else u

/-- The unit that an instruction needs accepts work, on a pipe (R77). -/
def unitFree (s : State) (c : CoreId) (p : Nat) (f : Fetched) : Bool :=
  match unitNeeded f with
  | some (u, _) => decide (assocGet 0 (c, unitKey u p) s.clk.units ≤ s.clk.cycle)
  | none => true

/-- A group is ready (R77): some pipe's units accept its instruction. -/
def groupReady (s : State) (k : Core) (g : Group) : Bool := match nextOf s k g with
  | none => false
  | some (_, f) => (livePipes s k.id).any fun p => unitFree s k.id p f

/-- The first ready group for a pipe, and those after it; `sfu` says that this cycle's other slot has taken the SFU. -/
def firstFor (s : State) (k : Core) (sfu : Bool) (p : Nat) : List (Nat × Group × Fetched) → Option ((Nat × Group × Fetched) × List (Nat × Group × Fetched))
  | [] => none
  | r :: rest =>
    if unitFree s k.id p r.2.2 && !(sfu && (unitNeeded r.2.2).map (·.1) == some 2) then some (r, rest) else firstFor s k sfu p rest

/-- Fill a core's open slots: the first takes the first ready group, the second the next one. A PAIR takes both slots, or the one
pipe of a degraded core: where it is next and cannot, the slot stays idle, so that it issues within the 8 cycles of R77. -/
def takeSlots (s : State) (k : Core) : (both sfu : Bool) → List Nat → List (Nat × Group × Fetched) → List (Nat × Nat × Group × Fetched)
  | _, _, [], _ => []
  | both, sfu, p :: ps, rs =>
    match firstFor s k sfu p rs with
    | none => takeSlots s k false sfu ps rs
    | some (r, rest) =>
      if isPair r.2.2 then (if both then [(p, r)] else [])
      else (p, r) :: takeSlots s k false (sfu || (unitNeeded r.2.2).map (·.1) == some 2) ps rest

/-- The width of a group. -/
def widthOf (s : State) (g : Group) : Nat := ((s.team g.team).map fun t => t.header.width).getD 16

/-- The cycles for which an instruction of a group holds its pipe (R25, R30, R237): its passes, each twice as long where a slice of
the pipe is disabled (DESIGN CHOICE, assumption 33). A divide holds it at the acceptance of a pass (R238). -/
def pipeHold (s : State) (k : Core) (p : Nat) (g : Group) (f : Fetched) : Nat :=
  let passes := if widthOf s g = 64 ∧ (unitNeeded f).map (·.1) ≠ some 0 then 2 else 1
  let each := match f with
    | .instr i => match issueUses i with
      | (op, some x, _) =>
        if op = 0x0F then 2
        else if !x.ty.wide then 1
        else if op = 0x03 ∨ op = 0x04 ∨ op = 0x05 ∨ (0x20 ≤ op ∧ op ≤ 0x2E ∧ op ≠ 0x27 ∧ op ≠ 0x28) then 4
        else if op < 0x20 ∧ op ≠ 0x06 ∧ op ≠ 0x07 then 2 else 1
      | _ => 1
    | _ => 1
  passes * each * (if s.pipeSlices k.id p = 1 then 2 else 1)

/-- The pipes that an issue holds, with the cycle in which each is open again. A PAIR holds both, or the one pipe of a degraded core
for both its halves. -/
def heldPipes (s : State) (k : Core) (t : Nat × Nat × Group × Fetched) : List ((CoreId × Nat) × Nat) :=
  let until' := fun (p : Nat) => s.clk.cycle + pipeHold s k p t.2.2.1 t.2.2.2
  if isPair t.2.2.2 then
    (match livePipes s k.id with
     | [p] => [((k.id, p), 2 * until' p - s.clk.cycle)]
     | ps => ps.map fun p => ((k.id, p), until' p))
  else [((k.id, t.1), until' t.1)]

/-- The units that an issue takes, with the cycle in which each accepts work again, the second pass of a divide and the completion of
the SFU's results (R238, R258). -/
def heldUnit (s : State) (k : Core) (t : Nat × Nat × Group × Fetched) : List ((CoreId × Nat) × Nat) :=
  let (p, _, g, f) := t
  let w := widthOf s g
  match unitNeeded f with
  | some (0, n) =>
    ((k.id, p), s.clk.cycle + n * (if w = 64 then 2 else 1)) ::
    (if w = 64 then [((k.id, 4 + p), s.clk.cycle + n + (if s.pipeSlices k.id p = 1 then 2 else 1))] else [])
  | some (u, _) =>
    let fn := match f with
      | .instr i => ((issueUses i).2.1.map fun x => natField x.xop.toNat 0 3).getD 0
      | _ => 0
    [((k.id, u), s.clk.cycle + w / 16),
     ((k.id, 3), max (s.clk.cycle + ((s.team g.team).map fun tm => sfuLatency tm fn).getD 0) (assocGet 0 (k.id, 3) s.clk.units + w / 16))]
  | none => []

/-- What a core issues in this cycle, and its pointer after it. -/
def chooseCore (s : State) (k : Core) : List (Nat × Nat × Group × Fetched) × Nat :=
  if !(bankIssues s k) then ([], k.pointer)
  else
    let live := livePipes s k.id
    let ps := live.filter (pipeOpen s k.id)
    let took := takeSlots s k (ps.length == live.length) false ps (readyOrder s k)
    (took, (took.getLast?.map fun r => (r.2.1 + 1) % 8).getD k.pointer)

/-! ### The order within a cycle -/

/-- The place of a group in the order of one cycle: die 0 and the lower core first, then ascending GROUP (R267, R55; DEDUCED, assumption 113). -/
def groupPlace (g : GRef) : Nat := ((g.core.die * 64 + g.core.site) * 4 + g.core.core) * 64 + g.group

/-- The place of a convergence event: the least team thread index of the threads that execute it (R52). -/
def eventPlace (ts : List Thread) : Nat := 2 ^ 20 + ((leastBy (fun (t : Thread) => t.tidx) ts).map (·.tidx)).getD 4096

/-- The order of issues within a cycle: exits before convergence events (R61), those in ascending team thread index (R52), the
others by core and GROUP (R55), a cancellation after them (R61), and what must see it, or changes a bank, last (R328, R153). -/
def issueKey (s : State) (g : Group) (f : Fetched) : Nat :=
  let place := groupPlace g.ref
  let event := fun (x : Fields) => eventPlace ((s.activeOf g.ref).filter fun t => t.guardTrue x.guard)
  match f with
  | .instr .exitBase | .instr (.exitExtended _) => place
  | .instr (.cvgDecl x) | .instr (.cvgJoin x) | .instr (.mmaSign x) => event x
  | .instr (.cancel _) => 2 ^ 22 + place
  | .instr (.yieldChk _) | .instr (.bankcfg _) => 2 ^ 23 + place
  | _ => 2 ^ 21 + place

namespace State

/-- The choice of the cycle: every core's groups, their pipes, and the pipes and units that they hold. -/
def choose (s : State) : State :=
  let picks := s.cores.map fun k => (k, chooseCore s k)
  let all := sortBy (fun (p : Group × Fetched) => issueKey s p.1 p.2) (picks.flatMap fun p => p.2.1.map fun t => t.2.2)
  let still := fun (l : List ((CoreId × Nat) × Nat)) => l.filter fun h => decide (s.clk.cycle < h.2)
  let pipes := picks.flatMap fun p => p.2.1.flatMap fun t => heldPipes s p.1 t
  let units := picks.flatMap fun p => p.2.1.flatMap fun t => heldUnit s p.1 t
  { s with cores := picks.map fun p => { p.1 with pointer := p.2.2 }
           clk := { s.clk with chosen := some (all.map fun p => p.1.ref)
                               slots := picks.flatMap fun p => p.2.1.map fun t => (t.2.2.1.ref, t.1)
                               pipes := pipes ++ still s.clk.pipes
                               units := (units ++ still s.clk.units).foldl (fun l u => if l.any fun q => q.1 == u.1 then l else l ++ [u]) [] } }

/-! ### What an issue finds and leaves behind (R47, R192, R333, R346) -/

end State

/-- A predicate that a lookahead window leaves open reads in this instruction as its old value or the new one; a result that has come is
written, and its window is closed (R192). -/
def Thread.freePreds (t : Thread) (cycle free : Nat) : Thread :=
  let put := fun (t : Thread) (w : Window) => match w.pred with
    | none => t
    | some (p, old, new) =>
      if w.op = 0 ∧ w.due ≤ cycle then t.setPred p new else t.setPred p (if Config.windowRead free t.ref.slot (512 + p) then new else old)
  { t.windows.foldl put t with windows := t.windows.filter fun w => w.op != 0 || decide (cycle < w.due) }

/-- A thread of the issue: results that have come are forgotten, its open lookahead windows shrink, and the mark of a retry goes at another instruction (DESIGN CHOICE, assumption 67). -/
def Thread.issued (t : Thread) (cycle : Nat) (pc : W64) : Thread :=
  let windows := t.windows.map fun w => { w with left := w.left - 1 }
  let put := fun (t : Thread) (w : Window) => match w.pred with
    | some (p, _, new) => if w.op = 0 ∧ w.left = 0 then t.setPred p new else t
    | none => t
  { windows.foldl put t with
    busy := t.busy.filter fun b => decide (cycle < b.due)
    windows := windows.filter fun w => decide (0 < w.left)
    retry := match t.retry with
      | some r => if r.2.2 = pc then some r else none
      | none => none }

namespace State

/-- The threads of a group that are eligible and not active (R47); a drawn thread is eligible from its place on (R44). -/
def waiters (s : State) (g : GRef) (act : List Thread) : List TRef :=
  (((s.groupThreads g).filter fun t => t.status == .eligible && t.dying.isNone).filter fun t => !(act.any fun a => a.ref == t.ref)).map (·.ref)

/-- The issue counter of a group that issues (R47): it starts again when no thread waits or a waiting thread has become active. -/
def counted (g : Group) (act : List Thread) (waits : List TRef) : Nat :=
  if waits.isEmpty then 0 else (if act.any fun a => g.waits.contains a.ref then 0 else g.counter) + 1

/-- The counter after the instruction: a waiting thread that it has made active starts it again, unless a REFORM of the active threads
meets an automatic reform, which then files the threads that waited (R47, R61). -/
def recounted (s : State) (g : GRef) (act : List Thread) (waits : List TRef) (n : Nat) : Nat :=
  let filed := act.any fun a => ((s.thread a.ref).map fun h => h.status == .binned).getD false
  if ((s.activeOf g).any fun a => waits.contains a.ref) && !(decide (4096 ≤ n) && filed) then 0 else n

/-- An instruction of a group has issued; `act` are the threads that were active. -/
def afterIssue (s : State) (g : Group) (act : List Thread) (waits : List TRef) : State :=
  let refs := act.map (·.ref)
  let pc := ((act.head?).map (·.pc)).getD 0
  let s := s.updThreads refs fun t => Thread.issued t s.clk.cycle pc
  let s := s.updGroup g.ref fun k => { k with counter := s.recounted g.ref act waits (counted g act waits), waits := waits }
  let s := s.restartWatchdog g.ref.ctx
  { s with clk := { s.clk with issue := none, free := s.clk.free + 1 } }

end State

/-! ### The sets at the end of a cycle (R78) -/

/-- The group of a position waits for a long-latency result. -/
def positionWaits (s : State) (k : Core) (g : Nat) : Bool :=
  match groupAt s k g with
  | none => false
  | some gr => match s.activeOf gr.ref with
    | [] => false
    | act => match fetchAt s gr.ref act with
      | .instr i => waitsLong s act i
      | _ => false

/-- Note since when each pending group has been ready. -/
def notePending (s : State) (k : Core) : Core :=
  { k with pending := k.pending.map fun p =>
      let ready := ((groupAt s k p.1).map fun g => groupReady s k g).getD false
      (p.1, if ready then some (p.2.getD s.clk.cycle) else none) }

/-- Positions whose group waits or has yielded (R312), or that are empty, take the pending group that has been ready longest. -/
def movePositions (s : State) (k : Core) : Core :=
  (List.range 8).foldl (fun (q : Core) p => match q.positions.getD p none with
    | some (g, _) => if positionWaits s k g || ((groupAt s k g).map (·.yields)).getD false then exchangePosition q s.clk.cycle p else q
    | none => exchangePosition q s.clk.cycle p) k

/-- The position whose group has been in the active set longest; of groups that entered it in one cycle, the lowest position (DESIGN
CHOICE, assumption 96). -/
def oldestPosition (k : Core) : Option Nat :=
  (leastBy (fun (p : Nat × Nat) => p.2) ((List.range 8).filterMap fun p => (k.positions.getD p none).map fun q => (p, q.2))).map (·.1)

/-- A pending group has been ready for 256 cycles. -/
def displaces (s : State) (k : Core) : Bool := bankIssues s k && k.pending.any fun p => match p.2 with
  | some n => decide (n + 256 ≤ s.clk.cycle)
  | none => false

/-- ACTIVE_SET_DISPLACE (R78): the pending group that has been ready longest takes the oldest position. -/
def execActiveSetDisplace (core : CoreId) (s : State) : Host.Outcome State Fault Refusal :=
  .next (let k := s.core core
    if displaces s k then match oldestPosition k with
      | some p => s.updCore core fun k => exchangePosition k s.clk.cycle p
      | none => s
    else s)

/-! ### Load throttling (R79) -/

/-- THROTTLE_WINDOW_END (R79): L and the permission pointer for the next window. The pointer advances by the L of the window that ends
(DESIGN CHOICE, assumption 95). -/
def execThrottleWindowEnd (core : CoreId) (s : State) : Host.Outcome State Fault Refusal :=
  .next (s.updCore core fun k =>
    let l := if 64 ≤ k.miss ∧ k.miss ≤ 8 * k.vhit then max 2 (k.limit / 2) else if 32 * k.vhit < k.miss then min 64 (2 * k.limit) else k.limit
    { k with limit := l, permit := (k.permit + k.limit) % 64, miss := 0, vhit := 0 })

/-! ### Team registers from afar (R36, R54, R267) -/

namespace State

/-- A TMOV arrives at the holding core: a read's value follows after the cycles of R268, which the transit lengthens once; a write takes effect and
its slot is released (R193). -/
def tmovArrives (s : State) (tm : Team) (a : Arrival) : State :=
  let ts := a.threads.map (·.1)
  if OpTable.xf a.x 0 1 = 0 then
    let v := tm.tregs.getD a.x.a.toNat 0
    s.addResult a.result (passLatency tm 4 1) a.x.set.toNat a.handler ts (ts.map fun t => ⟨t, a.x.d.toNat, [v], none, 0⟩) none [] false
  else (tmovWriteNow s tm.id a.x.d.toNat (a.threads.map (·.2.2))).addResult a.result (passLatency tm 4 1) a.x.set.toNat a.handler ts [] none [] false

/-- An access or an answer on its way between a team's cores arrives (R36). -/
def arrives (s : State) (a : Arrival) : State :=
  let s : State := { s with mem := { s.mem with arrivals := s.mem.arrivals.filter fun b => b != a } }
  match s.team a.team with
  | none => s
  | some tm =>
    if a.answer then s.eventAnswered a (if a.op = 0x5D then a.x.d.toNat % 16 else if a.op = 0x68 then a.x.c.toNat % 16 else a.x.c.toNat % 8)
    else match a.op with
      | 0x56 => s.tmovArrives tm a
      | 0x5D => s.cvgArrives tm a
      | 0x68 => s.mmaSignArrives tm a
      | _ => s.stageArrives tm a

/-- The order of an arrival among the events of its cycle, as issueKey numbers them: convergence events by the least team thread index
of the threads that execute them, the others by core and GROUP (R52, R55). -/
def arrivalKey (s : State) (a : Arrival) : Nat :=
  if a.op = 0x5D ∨ a.op = 0x68 then eventPlace ((a.threads.filter fun p => p.2.1).filterMap fun p => s.thread p.1)
  else 2 ^ 21 + groupPlace a.group

/-- The next arrival of this cycle. -/
def nextArrival (s : State) : Option Arrival := leastBy s.arrivalKey (s.mem.arrivals.filter fun a => decide (a.due ≤ s.clk.cycle))

end State

end Sys2Proof.Machine
end

