-- ==== Sys2Proof/Machine/Sched.lean ====
section
/-! DEFINITION. The happenings of the Sieve and of a core's groups: draws, moves, automatic reform, exits of waiting cancelled
threads (spec/03_execution.md R41 to R47, R58, R59, R61). -/

namespace Sys2Proof.Machine

/-! ### Draws (R43 to R45) -/

/-- The filings of a bin that were complete before the cycle (R45, R61). -/
def Bin.completed (now : Nat) (b : Bin) : Nat := (b.threads.filter fun p => decide (p.2 < now)).length

/-- The age of a bin is that of its oldest filing. -/
def Bin.reaches (now limit : Nat) (b : Bin) : Bool := match b.threads with
  | [] => false
  | (_, t) :: _ => decide (t + limit ≤ now)

namespace State

/-- The Sieve of a core moves no thread (R45). -/
def sieveIdle (s : State) (c : CoreId) : Bool := !(s.clk.timers.any fun t => match t.2 with
  | .threadMove r => r.core == c
  | _ => false)

/-- Every thread of a team on a core that has not exited is BINNED, its filing complete before the cycle (R43, R45). -/
def allBinned (s : State) (c : CoreId) (now : Nat) (team : Nat) : Bool :=
  let filed := (s.core c).bins.flatMap fun b => (b.threads.filter fun p => decide (p.2 < now)).map fun p => (b.ctx, p.1)
  s.threads.all fun t => !(t.ref.core == c && t.team == team) || t.exited || (t.status == .binned && filed.contains (t.ref.ctx, t.ref.slot))

/-- The class under which a bin is drawable, 5 if it is not (R43). -/
def drawClass (s : State) (c : CoreId) (now : Nat) (b : Bin) : Nat :=
  match s.team b.team with
  | none => 5
  | some tm =>
    if b.completed now = 0 then 5
    else if (s.core c).forced.contains (b.ctx, b.index) then 1
    else if s.allBinned c now b.team then 2
    else if tm.header.width ≤ b.completed now then 3
    else if b.reaches now tm.sieveAge.toNat then 4 else 5

/-- The next draw of a core's Sieve: its bin, class and number of threads (R43). -/
def nextDraw (s : State) (c : CoreId) : Option (Bin × Nat × Nat) :=
  if !(s.sieveIdle c) then none
  else match (s.core c).active with
    | none => none
    | some a =>
      let now := s.bankTime c a
      let mine := ((s.core c).bins.filter fun b => b.ctx == a).map fun b => (s.drawClass c now b, b)
      let least := (mine.map (·.1)).foldl min 5
      if least = 5 then none
      else (oldestBin now ((mine.filter fun p => p.1 == least).map (·.2))).map fun b =>
        (b, least, min (((s.team b.team).map (·.header.width)).getD 16) (b.completed now))

end State

/-- SIEVE_DRAW (R43, R44): the draw of class 1, 2 or 3 that is due. -/
def execSieveDraw (core : CoreId) (s : State) : Host.Outcome State Fault Refusal :=
  .next (match s.nextDraw core with
    | some (b, cls, n) => if cls = 4 then s else s.drawBin core b n
    | none => s)

/-- BIN_AGE_LIMIT (R43): the draw of class 4 from the bin whose age has reached the limit. -/
def execBinAgeLimit (core : CoreId) (ctx bin : Nat) (s : State) : Host.Outcome State Fault Refusal :=
  .next (match s.nextDraw core with
    | some (b, cls, n) => if cls = 4 ∧ b.ctx = ctx ∧ b.index = bin then s.drawBin core b n else s
    | none => s)

/-- THREAD_MOVE (R45): the thread takes part in its group's issue. -/
def execThreadMove (t : TRef) (s : State) : Host.Outcome State Fault Refusal :=
  .next (s.updThread t fun h => { h with moving := false })

/-! ### Automatic reform (R47) -/

/-- AUTOMATIC_REFORM (R47): the eligible threads of the group that are not active are filed under their PCs, with key 0; those that
waited at the latest issue are, where a REFORM of the active threads has made them active (R61). -/
def execAutomaticReform (g : GRef) (s : State) : Host.Outcome State Fault Refusal :=
  .next (match s.group g with
    | none => s
    | some k =>
      if k.counter < 4096 then s
      else
        let file := fun (s : State) (t : TRef) => match s.thread t with
          | some h => s.fileThread t h.pc 0
          | none => s
        let act := (s.activeOf g).filter fun t => !(k.waits.contains t.ref)
        (((s.waiters g act).foldl file s).updGroup g fun k => { k with counter := 0, waits := [] }).ceaseGroups)

/-! ### Cancelled threads that wait (R58, R59) -/

/-- A thread waits at a cancellation point of a team whose flag is set; not one in handler mode (R338), nor while its context's log is
full (R448). -/
def cancelledWaiter (s : State) (h : Thread) : Bool :=
  !(s.ctxHalted h.ref.ctx) &&
  (match h.status with | .waiting (.cvg _) | .waiting (.barrier _) | .waiting (.stage _) => true | _ => false) &&
  ((s.team h.team).map fun tm => State.observes tm h).getD false

/-- WAITING_CANCEL_EXIT (R59): the thread exits CANCELLED. -/
def execWaitingCancelExit (t : TRef) (s : State) : Host.Outcome State Fault Refusal :=
  .next (match s.thread t with
    | some h => if cancelledWaiter s h then s.cancelExit [t] else s
    | none => s)

end Sys2Proof.Machine
end

