-- ==== Sys2Proof/Machine/Power.lean ====
section
/-! DEFINITION. The power stewards (spec/05_scheduling.md R84 to R86) and the thermal throttle (spec/26_system.md R444). Buckets
count in 1/1024 nJ, so that every refill of R84 and R444 is whole. -/

namespace Sys2Proof.Machine

/-- What a tick adds to the main bucket and to the reserve (R84, R444): RTSHARE counts 256ths, and a tick is 1 ns. -/
def Steward.refills (w : Steward) (r : ConfigRecord) : Nat × Nat :=
  let full := (256 - r.rtShare) * r.heavyW * 4
  ((if w.level = 0 then full else if w.level = 1 then full / 2 else full / 4), r.rtShare * r.heavyW * 4)

/-- The steward after a tick's refill. -/
def Steward.refill (w : Steward) (r : ConfigRecord) : Steward :=
  let add := w.refills r
  { w with main := min (4096 * 1024) (w.main + add.1), reserve := min (1024 * 1024) (w.reserve + add.2) }

/-- The request served next, with the steward after its grant (R85): the real-time queue first, from the reserve bucket or else
from the main one (DESIGN CHOICE, assumption 56). -/
def Steward.grant (w : Steward) : Option (PermitReq × Steward) :=
  let other := match w.other with
    | q :: rest => if q.cost * 1024 ≤ w.main then some (q, { w with other := rest, main := w.main - q.cost * 1024 }) else none
    | [] => none
  match w.rt with
  | q :: rest =>
    if q.cost * 1024 ≤ w.reserve then some (q, { w with rt := rest, reserve := w.reserve - q.cost * 1024 })
    else if q.cost * 1024 ≤ w.main then some (q, { w with rt := rest, main := w.main - q.cost * 1024 })
    else other
  | [] => other

/-- A request waits that has not yet been counted as refused. -/
def Steward.uncounted (w : Steward) : Nat := ((w.rt ++ w.other).filter fun q => !q.refused).length

/-- Count the requests that wait as refused (R444). -/
def Steward.countRefused (w : Steward) : Steward :=
  let mark := fun (q : PermitReq) => { q with refused := true }
  { w with rt := w.rt.map mark, other := w.other.map mark, refused := w.refused + BitVec.ofNat 32 w.uncounted }

namespace State

/-- A granted operation begins (R86). -/
def permitted (s : State) (q : PermitReq) : State := match q.who with
  | .pass d site => s.beginPass d site
  | .command id => s.commandPermit id
  | .kiln d => s.updDie d fun r => match findIdxVal (fun (g : Gather) => !g.done) r.gathers with
    | some (k, _) => { r with gathers := modifyAt (fun (g : Gather) => { g with permit := true }) k r.gathers }
    | none => r

end State

/-- PERMIT_REFILL (R84). -/
def execPermitRefill (die : Nat) (s : State) : Host.Outcome State Fault Refusal :=
  .next (s.updSteward die fun w => w.refill s.pkg.record)

/-- PERMIT_GRANT (R85): the request whose turn it is is granted; where none can be, those that wait have been refused. -/
def execPermitGrant (die : Nat) (s : State) : Host.Outcome State Fault Refusal :=
  .next (match s.steward die with
    | none => s
    | some w => match w.grant with
      | some (q, w') => (s.updSteward die fun _ => w').permitted q
      | none => s.updSteward die Steward.countRefused)

/-- The throttle level of a temperature (R444). -/
def throttleLevel (r : ConfigRecord) (temp : Nat) : Nat :=
  if temp < r.tThrot then 0 else if temp < r.tThrot + 5 then 1 else 2

/-- THROTTLE_LEVEL_CHANGE (R444): a die's temperature is read; one that reaches TSHUT resets the module (DESIGN CHOICE, assumption 68). -/
def execThrottleLevelChange (die temp : Nat) (s : State) : Host.Outcome State Fault Refusal :=
  .next (if ¬ die < Config.dies then s
    else if s.pkg.record.tShut ≤ temp then s.reboot 2
    else s.updSteward die fun w => { w with temp := temp, level := throttleLevel s.pkg.record temp })

end Sys2Proof.Machine
end

