-- ==== Sys2Proof/Machine/Swap.lean ====
section
/-! DEFINITION. Context swaps, watchdogs, the end of a dead context's requests, fault records that waited, and bank changes
(spec/18_traps.md R334, R343 to R348; spec/05_scheduling.md R83; spec/13_isa_arith.md R265; spec/09_memory.md R137). -/

namespace Sys2Proof.Machine

namespace State

/-! ### Before a spill (R83, R344, R345) -/

/-- A thread of a context on a core. -/
def inBank (c : CoreId) (ctx : Nat) (t : TRef) : Bool := t.core == c && t.ctx == ctx

/-- Something in flight is due to a bank (R344): requests, walks, results, flits, engine statuses, accesses of team state, tile
uses, matrix operations in the table, Sieve moves. A REDUCE or SCAN holds its progress in the bank. -/
def dueToBank (s : State) (c : CoreId) (ctx : Nat) : Bool :=
  let mine := inBank c ctx
  (s.mem.requests.any fun r => r.core == c && r.ctx == ctx) ||
  (s.mem.walks.any fun w => w.core == c && w.ctx == ctx) ||
  (s.mem.results.any fun r => r.held.isNone && ((r.counted.any mine) || (r.lanes.any fun l => mine l.t) || (r.sups.any fun a => mine a.t))) ||
  (s.mem.flits.any fun f => match f.from' with | some (t, _, _) => mine t | none => false) ||
  (s.mem.cmds.any fun k => k.lanes.any fun l => mine l.t) ||
  (s.mem.arrivals.any fun a => a.group.core == c && a.group.ctx == ctx) ||
  (s.tile.uses.any fun u => u.core == c && u.ctx == ctx) ||
  (s.tile.ops.any fun o => o.entry.isSome && o.voters.any fun v => mine v.1) ||
  (s.tile.maccs.any fun m => (m.todo.any fun l => mine l.1) || (m.done.any fun l => mine l.t)) ||
  (s.clk.timers.any fun t => match t.2 with | .threadMove r => mine r | _ => false)

/-- The banks of a cluster, but for one core's shadow bank, that hold a context. -/
def elsewhere (s : State) (c : CoreId) (ctx : Nat) : Bool :=
  (List.range Config.coresPerCluster).any fun k =>
    let id : CoreId := ⟨c.die, c.site, k⟩
    s.coreOn id && ((s.core id).active == some ctx || (id != c && (s.core id).shadow == some ctx))

/-- Operations of a context have entries of the cluster's table (R83). -/
def entriesLeft (s : State) (c : CoreId) (ctx : Nat) : Bool :=
  s.tile.ops.any fun o => o.die == c.die && o.site == c.site && o.ctx == ctx && o.entry.isSome

/-- The context leaves the cluster with a core's shadow bank. -/
def leavesCluster (s : State) (c : CoreId) (ctx : Nat) : Bool := !(s.elsewhere c ctx)

/-- A context place of a cluster. -/
def placeOf (s : State) (c : CoreId) (ctx : Nat) : Option Nat :=
  (List.range 2).find? fun p => (s.engineOf c.die c.site).places.getD p none == some ctx

/-- A place is or becomes free for a context that enters the cluster with this swap. -/
def placeWaits (s : State) (c : CoreId) (ctx : Nat) : Bool :=
  (s.placeOf c ctx).isNone && !((s.core c).shadow.any fun o => s.leavesCluster c o) &&
  !((List.range 2).any fun p => ((s.engineOf c.die c.site).places.getD p none).isNone)

/-- The spill must wait (R83, R345; DEDUCED, assumption 70). -/
def spillWaits (s : State) (c : CoreId) (ctx : Nat) : Bool :=
  s.placeWaits c ctx || match (s.core c).shadow with
    | none => false
    | some o => s.dueToBank c o || (s.leavesCluster c o && s.entriesLeft c o)

/-- Cycles of a spill or fill of a bank with these threads (R345). -/
def moveCycles (ts : List Thread) : Nat := ceilDiv (4 * sumBy (fun (t : Thread) => t.regs.length) ts) 128 + ceilDiv (64 * ts.length) 128 + 256

def bankThreads (s : State) (c : CoreId) (ctx : Nat) : List Thread := s.threads.filter fun t => inBank c ctx t.ref

/-- The image of a context for a core is valid (R322). -/
def imageValid (s : State) (c : CoreId) (ctx : Nat) : Bool := ((s.ctx ctx).map fun k => k.coreImages.contains c).getD false
def accImageValid (s : State) (c : CoreId) (ctx : Nat) : Bool := ((s.ctx ctx).map fun k => k.accImages.contains (c.die, c.site)).getD false

/-- Cycles of steps 2 and 3 of R345. -/
def spillCycles (s : State) (c : CoreId) (ctx : Nat) : Nat :=
  let out := match (s.core c).shadow with
    | none => 0
    | some o => moveCycles (s.bankThreads c o) + (if s.leavesCluster c o then 512 else 0)
  out + moveCycles (if s.imageValid c ctx then s.bankThreads c ctx else []) + (if (s.placeOf c ctx).isNone then 512 else 0)

/-! ### Spill and fill (R83, R322, R345) -/

/-- The intermediate addresses of a context's images of a core and of its cluster's accumulators (R322). -/
def saveBase (s : State) (ctx : Nat) : Nat := ((s.ctx ctx).map fun k => natField k.save.toNat 19 33 * 2 ^ 19).getD 0
def coreImageAt (s : State) (c : CoreId) (ctx : Nat) : Nat := ((c.die * 36 + c.site) * 4 + c.core) * 2 ^ 19 + s.saveBase ctx
def accImageAt (s : State) (c : CoreId) (ctx : Nat) : Nat := 144 * 2 ^ 20 + (c.die * 36 + c.site) * 2 ^ 16 + s.saveBase ctx

/-- A thread's part of an image, 64 bytes and its registers (R345), in a layout of the model's own (DESIGN CHOICE, assumption 55). -/
def threadImage (h : Thread) : List Byte :=
  leBytes 8 h.pc.toNat ++ leBytes 1 h.preds.toNat ++ leBytes 1 h.fstat.toNat ++ List.replicate 54 0 ++ h.regs.flatMap fun v => leBytes 4 v.toNat

/-- Threads with what an image holds of them. -/
def threadsOf : List Thread → List Byte → List Thread
  | [], _ => []
  | h :: hs, bs =>
    { h with pc := BitVec.ofNat 64 (leNat (bs.take 8)), preds := BitVec.ofNat 8 (leNat ((bs.drop 8).take 1)), fstat := BitVec.ofNat 7 (leNat ((bs.drop 9).take 1))
             regs := (List.range h.regs.length).map fun k => BitVec.ofNat 32 (leNat ((bs.drop (64 + 4 * k)).take 4)) } ::
    threadsOf hs (bs.drop (64 + 4 * h.regs.length))

/-- The threads of a bank in slot order. -/
def imageThreads (s : State) (c : CoreId) (ctx : Nat) : List Thread := sortBy (fun (t : Thread) => t.ref.slot) (s.bankThreads c ctx)

/-- Write an image where its page lies in module memory; one without a page keeps its content in the device (DESIGN CHOICE, assumption 55). -/
def writeImage (s : State) (ia : Nat) (bs : List Byte) : State :=
  if bs.isEmpty || !(inModule ia) || (s.homeWritable .write (unitSpans ia bs.length)).isSome then s else (s.homeWrite ia bs).1

/-- Read an image back. -/
def readImage (s : State) (ia n : Nat) : Option (List Byte × State) :=
  if n = 0 || !(inModule ia) then none else match s.homeBytes .read (unitSpans ia n) with
    | .ok r => some r
    | .error _ => none

/-- The threads of a bank as their image holds them. -/
def loadThreads (s : State) (c : CoreId) (ctx : Nat) : State :=
  let ts := s.imageThreads c ctx
  match s.readImage (s.coreImageAt c ctx) (ts.flatMap threadImage).length with
  | none => s
  | some (bs, s) =>
    let come := threadsOf ts bs
    { s with threads := s.threads.map fun h => (come.find? fun t => t.ref == h.ref).getD h }

/-- The image of an accumulator bank: its 4,096 elements, 16 bytes each. -/
def accImage (s : State) (c : CoreId) (ctx : Nat) : List Byte :=
  let elems := (s.tile.banks.find? fun b => b.ctx == ctx && b.die == c.die && b.site == c.site).map (·.elems)
  (List.range 4096).flatMap fun k => leBytes 16 ((assocGet ⟨0, false, false, 0⟩ k (elems.getD [])).w.toNat)

/-- The bytes of an accumulator image (R322): 4,096 elements of 16 bytes. -/
def accImageBytes : Nat := 4096 * 16

/-- A bank whose elements hold the words of an image. -/
def accsOf (bs : List Byte) (b : AccBank) : AccBank :=
  { b with elems := b.elems.map fun e => (e.1, { e.2 with w := BitVec.ofNat 128 (leNat ((bs.drop (16 * e.1)).take 16)) }) }

/-- The accumulators of a bank as their image holds them. -/
def loadAccs (s : State) (c : CoreId) (ctx : Nat) : State :=
  match s.readImage (s.accImageAt c ctx) accImageBytes with
  | none => s
  | some (bs, s) => { s with tile := { s.tile with banks := mapIf (fun b => b.ctx == ctx && b.die == c.die && b.site == c.site) (accsOf bs) s.tile.banks } }

/-- The shadow context goes to its image, and out of its place with the cluster's last bank (DESIGN CHOICE, assumption 55; DESIGN CHOICE, assumption 59). -/
def spillBank (s : State) (c : CoreId) : State :=
  match (s.core c).shadow with
  | none => s
  | some o =>
    let leaves := s.leavesCluster c o
    let s := s.writeImage (s.coreImageAt c o) ((s.imageThreads c o).flatMap threadImage)
    let s := if leaves then s.writeImage (s.accImageAt c o) (s.accImage c o) else s
    let s := s.updCtx o fun k => { k with coreImages := c :: k.coreImages.filter (· != c)
                                          accImages := if leaves then (c.die, c.site) :: k.accImages.filter (· != (c.die, c.site)) else k.accImages }
    let s := if leaves then s.updEngine c.die c.site fun g => { g with places := g.places.map fun p => if p == some o then none else p } else s
    s.updCore c fun k => { k with shadow := none, frozenPositions := List.replicate 8 none, frozenPending := [], frozenPointer := 0 }

/-- The context takes the lower free place of its cluster; an invalid accumulator image clears the bank. -/
def takePlace (s : State) (c : CoreId) (ctx : Nat) : State :=
  if (s.placeOf c ctx).isSome then s
  else
    let free := (List.range 2).find? fun p => ((s.engineOf c.die c.site).places.getD p none).isNone
    let s := s.updEngine c.die c.site fun g => { g with places := modifyAt (fun _ => some ctx) (free.getD 0) g.places }
    if s.accImageValid c ctx then s.loadAccs c ctx
    else { s with tile := { s.tile with banks := s.tile.banks.filter fun b => !(b.ctx == ctx && b.die == c.die && b.site == c.site) } }

/-- The context comes from its image; an invalid image loads a bank without a thread. Its groups are pending. -/
def fillBank (s : State) (c : CoreId) (ctx : Nat) : State :=
  let s : State := if s.imageValid c ctx then s.loadThreads c ctx else
    { s with threads := s.threads.filter fun t => !(inBank c ctx t.ref)
             groups := s.groups.filter fun g => !(g.ref.core == c && g.ref.ctx == ctx)
             cores := mapIf (fun k => k.id == c) (fun k => { k with bins := k.bins.filter fun b => b.ctx != ctx }) s.cores }
  let gs := (sortBy (·.ref.group) (s.groups.filter fun g => g.ref.core == c && g.ref.ctx == ctx)).map fun g => (g.ref.group, none)
  (s.takePlace c ctx).updCore c fun k =>
    { k with shadow := some ctx, frozenPositions := List.replicate 8 none, frozenPending := gs, frozenPointer := 0, swap := some ⟨ctx, false, none⟩ }

/-! ### The exchange (R265, R343) -/

/-- A cycle as a frozen bank keeps it, and back: the time since it, and the cycle that lies as far back. -/
def turnTime (s : State) (n : Nat) : Nat := s.clk.cycle - n

/-- A REDUCE or SCAN of a bank whose result is still to come (R265). -/
def scanOf (c : CoreId) (ctx : Nat) (r : Result) : Bool := !r.stages.isEmpty && r.lanes.any fun l => inBank c ctx l.t

/-- Stages complete when the bank becomes shadow: the one in progress finishes. -/
def stagesDone (s : State) (r : Result) : Nat := min r.stages.length ((r.stages.filter fun k => decide (r.base + k ≤ s.clk.cycle)).length + 1)

/-- Hold the progress of the scans of the outgoing bank; one in its last stage finishes. -/
def holdScans (s : State) (c : CoreId) (ctx : Nat) : State :=
  let hold := fun (r : Result) => scanOf c ctx r && r.held.isNone && decide (s.stagesDone r < r.stages.length)
  let ids := (s.mem.results.filter hold).map (·.id)
  { s with mem := { s.mem with results := mapIf hold (fun r => { r with held := some (s.stagesDone r) }) s.mem.results }
           clk := { s.clk with timers := s.clk.timers.filter fun t => match t.2 with | .longLatencyResult i => !(ids.contains i) | _ => true } }

/-- Resume the scans of the incoming bank with the stages that remain. -/
def resumeScans (s : State) (c : CoreId) (ctx : Nat) : State :=
  (s.mem.results.filter fun r => scanOf c ctx r && r.held.isSome).foldl (fun s r =>
    let past := r.stages.getD (r.held.getD 1 - 1) 0
    let last := r.stages.getLastD 0
    let s : State := { s with mem := { s.mem with results := mapIf (fun q => q.id == r.id) (fun q => { q with held := none, base := s.clk.cycle - past }) s.mem.results } }
    s.afterExactly (last - past) (.longLatencyResult r.id)) s

/-- The banks exchange: sets, pointer and clocks of the outgoing bank freeze, those of the incoming one become current (DESIGN CHOICE, assumption 69). -/
def exchangeBanks (s : State) (c : CoreId) : State :=
  let t := s.turnTime
  let sets := fun (l : List (Option (Nat × Nat))) => l.map fun p => p.map fun q => (q.1, t q.2)
  let since := fun (l : List (Nat × Option Nat)) => l.map fun p => (p.1, p.2.map t)
  let out := (s.core c).active
  let come := (s.core c).shadow
  let clock := fun (ctx : Nat) (b : List (Nat × Nat)) => assocSet ctx (t (assocGet 0 ctx b)) b
  let s := s.updCore c fun k =>
    { k with active := come, shadow := out
             positions := sets k.frozenPositions, pending := since k.frozenPending, pointer := k.frozenPointer
             frozenPositions := sets k.positions, frozenPending := since k.pending, frozenPointer := k.pointer
             banks := come.toList.foldl (fun b x => clock x b) (out.toList.foldl (fun b x => clock x b) k.banks) }
  let s := out.toList.foldl (fun s x => s.holdScans c x) s
  come.toList.foldl (fun s x => s.resumeScans c x) s

end State

/-- SWAP_SPILL_FILL (R345): the engine waits, moves for its cycles, and then the shadow bank holds the named context. -/
def execSwapSpillFill (core : CoreId) (s : State) : Host.Outcome State Fault Refusal :=
  .next (match (s.core core).swap with
    | some ⟨ctx, true, none⟩ =>
      if s.spillWaits core ctx then s.again (.swapSpillFill core)
      else
        let n := s.spillCycles core ctx
        (s.updCore core fun k => { k with swap := some ⟨ctx, true, some (s.clk.cycle + n)⟩ }).afterExactly n (.swapSpillFill core)
    | some ⟨ctx, true, some n⟩ =>
      if s.clk.cycle < n then s
      else if s.spillWaits core ctx then s.again (.swapSpillFill core)
      else ((s.spillBank core).fillBank core ctx).afterExactly 0 (.swapExchange core)
    | _ => s)

/-- SWAP_EXCHANGE (R343): the exchange begins, or its 96 cycles are over. -/
def execSwapExchange (core : CoreId) (s : State) : Host.Outcome State Fault Refusal :=
  .next (match (s.core core).swap with
    | some ⟨ctx, false, none⟩ =>
      ((s.exchangeBanks core).updCore core fun k => { k with swap := some ⟨ctx, false, some (s.clk.cycle + 96)⟩ }).afterExactly 96 (.swapExchange core)
    | some ⟨_, false, some n⟩ => if s.clk.cycle < n then s else s.updCore core fun k => { k with swap := none }
    | _ => s)

/-! ### Watchdogs and dead contexts (R346 to R348) -/

/-- WDTICKS (R346, R438). -/
def watchdogTicks (s : State) : Nat := 2 ^ s.pkg.record.wdLog

/-- The watchdog of a context does not count (R346; DEDUCED, assumption 72). -/
def watchdogRests (s : State) (ctx : Nat) : Bool :=
  !(s.teams.any fun t => t.ctx == ctx) || s.ctxHalted ctx || (s.threads.any fun t => t.ref.ctx == ctx && t.status == .parked)

/-- WATCHDOG_EXPIRY (R346; DESIGN CHOICE, assumption 71). -/
def execWatchdogExpiry (ctx : Nat) (s : State) : Host.Outcome State Fault Refusal :=
  .next (match s.ctx ctx with
    | none => s
    | some c => if watchdogTicks s ≤ c.watchdog && !(watchdogRests s ctx) && !(s.ctxDead ctx) then s.killContext ctx Cause.watchdog 0 ⟨0, 0, 0⟩ else s)

/-- A request with the tag of a context remains in the package (R348). -/
def tagged (s : State) (ctx : Nat) : Bool :=
  (s.mem.requests.any fun r => r.ctx == ctx) || (s.mem.cmds.any fun c => c.ctx == ctx) || (s.mem.flits.any fun f => f.ctx == ctx) ||
  (s.mem.walks.any fun w => w.ctx == ctx)

/-- DRAIN_COMPLETE (R348). -/
def execDrainComplete (ctx : Nat) (s : State) : Host.Outcome State Fault Refusal :=
  .next (if s.ctxDrain ctx && !(tagged s ctx) then s.setCtl ctx 7 false else s)

/-! ### Fault records that waited (R334, R413) -/

/-- DEFERRED_FAULT_RECORD (R334): the oldest waiting record is written when an entry is free. -/
def execDeferredFaultRecord (ctx : Nat) (s : State) : Host.Outcome State Fault Refusal :=
  .next (s.updCtx ctx fun c => match c.frWait with
    | bs :: rest => if State.ringFull c then c else State.ringPut { c with frWait := rest } bs
    | [] => c)

/-! ### Bank changes (R137) -/

/-- The lines of a bank are written back where dirty and private, and dropped. -/
def State.clearBank (s : State) (core : CoreId) (bank : Nat) : State :=
  let s := ((s.core core).l1.filter fun l => l.bank == bank).foldl (fun s l => s.writeBackLine core l) s
  s.updCore core fun k => { k with l1 := k.l1.filter fun l => l.bank != bank }

/-- BANK_CHANGE_COMPLETE (R137): steps 2 and 3 first, the bank's dirty private lines going back and its lines being dropped; then, behind the
zeroing of step 4, the new code takes effect. -/
def execBankChangeComplete (core : CoreId) (bank : Nat) (s : State) : Host.Outcome State Fault Refusal :=
  .next (match (s.core core).changes.find? fun b => b.bank == bank with
    | none => s
    | some ch =>
      if !ch.cleared && ch.mode == 1 then
        ((s.clearBank core bank).updCore core fun k =>
          { k with changes := mapIf (fun b => b.bank == bank) (fun b => { b with cleared := true }) k.changes }).afterExactly bankZeroCycles (.bankChangeComplete core bank)
      else
        (if ch.cleared then s else s.clearBank core bank).updCore core fun k =>
          { k with changes := k.changes.filter fun b => b.bank != bank, modes := modifyAt (fun _ => BitVec.ofNat 2 ch.mode) bank k.modes })

end Sys2Proof.Machine
end

