-- ==== Sys2Proof/Machine/Migrate.lean ====
section
/-! DEFINITION. The move engines of the memory dies: migration of a page line by line, promotion of a region, and its
abandonment (spec/09_memory.md R128, R132 to R134). Sockets 2 to 5 are memory dies 0 to 3. -/

namespace Sys2Proof.Machine

/-- The memory die of a socket. -/
def dieOfSocket (socket : Nat) : Nat := socket - 2

/-! ### Entries (R127) -/

/-- An entry with other FRAME, SIZE and MIG. -/
def entryWith (e frame size mig : Nat) : Nat :=
  e / 2 ^ 63 * 2 ^ 63 + size * 2 ^ 61 + natField e 56 5 * 2 ^ 56 + mig * 2 ^ 55 + natField e 38 17 * 2 ^ 38 + frame / 2 ^ 16 * 2 ^ 16 + natField e 0 16

/-- The frame that an entry names. -/
def entryFrame (e : Nat) : Nat := natField e 16 22 * 2 ^ 16

namespace State

/-- Change the entry of a page with the function. -/
def changeEntry (s : State) (page : Nat) (f : Nat → Nat) : State :=
  match s.entryAddress page with
  | none => s
  | some at' => s.setEntry at' (f (s.entryAt at'))

/-! ### One line (R133) -/

/-- A slice's EVMAX takes in a lease (R158). -/
def raiseEvmax (s : State) (d slice lease : Nat) : State :=
  { s with mem := { s.mem with evmax := assocSet (d, slice) (max (s.evmaxOf d slice) lease) s.mem.evmax } }

/-- The line's home slice writes it back and invalidates it, and its lease passes to the new home (R133, R158); within a die the line's
tag names the new frame. -/
def moveSlice (s : State) (ia old new : Nat) : State :=
  let d := homeDie old
  let d' := homeDie new
  let lease := s.leaseOf d ia
  match s.sliceLine d ia with
  | none => if d = d' then s else s.raiseEvmax d' (homeSlice ia) lease
  | some l =>
    if d = d' then { s with mem := { s.mem with slices := mapIf (fun k => k == l) (fun k => { k with frame := lineOf new }) s.mem.slices } }
    else
      let s : State := { s with mem := { s.mem with slices := s.mem.slices.filter fun k => !(k.die == d && k.slice == homeSlice ia && k.line == lineOf ia) } }
      (s.raiseEvmax d (homeSlice ia) l.lease).keepSlice { l with die := d', lease := max lease (s.leaseOf d' ia), frame := lineOf new }

/-- Copy a line; an error in it goes with it (R349). -/
def copyLine (s : State) (ia old new : Nat) : State :=
  let s' := (s.writeMem new (s.readMem old 128)).moveSlice ia old new
  if s.isPoisoned old then { s' with mem := { s'.mem with poisoned := lineOf new :: s'.mem.poisoned.filter (· != lineOf new) } } else s'.clearCovered [(new, 128)]

/-! ### The end of a move (R128, R133, R134) -/

/-- The requests that passed their check under the old entries of a page or region. -/
def closeMove (s : State) (k page size : Nat) : State :=
  let waits := s.underOld page size
  let s := (s.updMemDie k fun d => { d with move := d.move.map fun m => { m with closing := true, waits := waits } })
  (s.shootPage page size).again (.migrationLineCopy (k + 2))

/-- The frames that a promotion gives back: the old frame of each moved page, and the unused parts of the free frame. -/
def Move.released (m : Move) : List Nat :=
  if m.promotion.isNone then []
  else m.done.map (·.2) ++ ((List.range 32).drop m.done.length).map fun j => m.target + j * 2 ^ 16

/-- Write a released frame to PROMLOG. -/
def logFrame (s : State) (k frame : Nat) : State :=
  match s.memDie k with
  | none => s
  | some d => (s.writeMem (natField d.promLog.toNat 3 35 * 8 + 8 * (d.promHead % 512)) (leBytes 8 (frame / 2 ^ 16 * 2 ^ 16))).updMemDie k fun d => { d with promHead := (d.promHead + 1) % 512 }

/-- The shoot-down of a move is complete: no access under an old entry is left. It is no SYS.shoot, so what is parked stays (R333). -/
def endMove (s : State) (k : Nat) (m : Move) : State :=
  let page := if m.promotion.isSome then m.page / 2 ^ 21 * 2 ^ 21 else m.page
  let size := if m.promotion.isSome then 2 ^ 21 else 2 ^ 16
  let s := (Move.released m).foldl (fun s f => s.logFrame k f) s
  let s := s.updMemDie k fun d => { d with move := none, busy := false, frames := if m.promotion.isSome then d.frames.filter (· != m.target) else d.frames }
  s.shootPage page size

/-- The accesses that a closing move waits for have been performed. -/
def moveSettled (s : State) (m : Move) : Bool :=
  !(s.mem.requests.any fun q => m.waits.contains q.id && (q.stage != .performed || (match q.kind with | .privLoad | .privStore => true | _ => false)))

/-- The pages of a promotion's region. -/
def regionPages (page : Nat) : List Nat := (List.range 32).map fun j => page / 2 ^ 21 * 2 ^ 21 + j * 2 ^ 16

/-- A promotion has moved its 32 pages: the followers' entries, then the lead's. -/
def finishPromotion (s : State) (k : Nat) (m : Move) : State :=
  let pages := regionPages m.page
  let s := (pages.drop 1 ++ pages.take 1).foldl (fun s p => s.changeEntry p fun e => entryWith e m.target 1 0) s
  s.closeMove k (m.page / 2 ^ 21 * 2 ^ 21) (2 ^ 21)

/-- Abandonment: each moved page keeps its new place under an entry of its own; the others keep their entries. -/
def abandon (s : State) (k : Nat) (m : Move) : State :=
  let s := (m.done.zipIdx).foldl (fun s p => s.changeEntry p.1.1 fun e => entryWith e (m.target + p.2 * 2 ^ 16) 0 0) s
  let rest := (regionPages m.page).drop m.done.length
  let s := rest.foldl (fun s p => s.changeEntry p fun e => entryWith e (entryFrame e) (natField e 61 2) 0) s
  s.closeMove k (m.page / 2 ^ 21 * 2 ^ 21) (2 ^ 21)

/-- The engine turns to a page of a promotion: MIG is set. A page that is no longer mapped by itself ends the promotion. -/
def promotePage (s : State) (k : Nat) (m : Move) : State :=
  let page := m.page / 2 ^ 21 * 2 ^ 21 + m.done.length * 2 ^ 16
  match s.smallEntry page with
  | none => s.abandon k m
  | some (at', e) =>
    let s := s.setEntry at' (entryWith e (entryFrame e) 0 1)
    let m := { m with page := page, oldFrame := entryFrame e, frame := m.target + m.done.length * 2 ^ 16 }
    (s.updMemDie k fun d => { d with bound := 0, move := some m }).after 1 (.migrationLineCopy (k + 2))

/-- The lines of a page are copied. -/
def pageCopied (s : State) (k : Nat) (m : Move) : State :=
  if m.promotion.isNone then (s.changeEntry m.page fun e => entryWith e m.frame 0 0).closeMove k m.page (2 ^ 16)
  else
    let m := { m with done := m.done ++ [(m.page, m.oldFrame)] }
    let s := s.updMemDie k fun d => { d with move := some m }
    if m.abandon then s.again (.promotionAbandon (k + 2))
    else if m.done.length = 32 then s.finishPromotion k m
    else s.promotePage k m

end State

/-- MIGRATION_LINE_COPY (R133, R134): the next line of the move is copied; after line 511 the page is done. A move whose entries
are written ends when the accesses under the old ones have been performed. -/
def execMigrationLineCopy (socket : Nat) (s : State) : Host.Outcome State Fault Refusal :=
  let k := dieOfSocket socket
  .next (match s.memDie k with
    | none => s
    | some d => match d.move with
      | none => s
      | some m =>
        if m.closing then (if s.moveSettled m then s.endMove k m else s.again (.migrationLineCopy socket))
        else if 512 ≤ d.bound then s
        else
          let s := s.copyLine (m.page + 128 * d.bound) (m.oldFrame + 128 * d.bound) (m.frame + 128 * d.bound)
          let s := s.updMemDie k fun d => { d with bound := d.bound + 1 }
          if d.bound = 511 then s.pageCopied k m else s.after 1 (.migrationLineCopy socket))

/-- PROMOTION_ABANDON (R134): the page in progress has finished its copy, and a shoot-down has met the region. -/
def execPromotionAbandon (socket : Nat) (s : State) : Host.Outcome State Fault Refusal :=
  let k := dieOfSocket socket
  .next (match s.memDie k with
    | none => s
    | some d => match d.move with
      | some m => if m.promotion.isSome && m.abandon && !m.closing && d.bound == 512 then s.abandon k m else s
      | none => s)

/-- A region qualifies for promotion: the free frame that it goes to (R134). -/
def promotable (s : State) (k region : Nat) : Option Nat :=
  match s.memDie k with
  | none => none
  | some d =>
    let base := region * 2 ^ 21
    let es := (State.regionPages base).map s.smallEntry
    let vs := es.filterMap fun e => e.map (·.2)
    let chans := (vs.map fun v => State.channelOf (entryFrame v)).eraseDups
    let perms := (vs.map fun v => natField v 57 4).eraseDups
    let plain := vs.all fun v => v.testBit 63 && natField v 55 2 == 0
    if !d.promEn || d.move.isSome || !(inModule base) || walkingDie base != k || vs.length != 32 || !plain || perms.length != 1 then none
    else match chans with
      | [c] => d.frames.find? fun f => State.channelOf f == c
      | _ => none

/-- PROMOTION_START (R134): the engine begins with a qualifying region, by its number of 2 MiB (DESIGN CHOICE, assumption 73). -/
def execPromotionStart (socket region : Nat) (s : State) : Host.Outcome State Fault Refusal :=
  let k := dieOfSocket socket
  .next (match promotable s k region with
    | none => s
    | some f =>
      let s := s.updMemDie k fun d => { d with busy := true }
      s.promotePage k ⟨region * 2 ^ 21, f, 0, some region, f, [], false, false, []⟩)

end Sys2Proof.Machine
end

