-- ==== Sys2Proof/Machine/Display.lean ====
section
/-! DEFINITION. The display engine and the Kiln: sweep boundaries, lit bands, gathers, band records (spec/22_render.md R405 to
R412; spec/24_fabric.md R414). -/

namespace Sys2Proof.Machine

namespace State

/-! ### Sweeps (R405, R414) -/

/-- LINE and VTOTAL of DMODE. -/
def lineTicks (s : State) : Nat := natField s.pkg.dmode.toNat 0 20
def sweepTicks (s : State) : Nat := natField s.pkg.dmode.toNat 32 13 * s.lineTicks

/-- Tb of band b of the sweep that lies some sweeps ahead of this one (R414). -/
def bandTick (s : State) (ahead b : Nat) : Nat := s.pkg.dstart.toNat + ahead * s.sweepTicks + 16 * b * s.lineTicks

/-- A sweep boundary is due: the first after EN rose, or the next. -/
def boundaryDue (s : State) : Bool := s.scanning && decide (s.pkg.dstart.toNat + (if s.pkg.sweeping then s.sweepTicks else 0) ≤ s.tick)

/-! ### Gathers that wait (R406) -/

/-- The first gather that is not done asks for its permit, if it has not (R406). -/
def askKiln (s : State) (d : Nat) : State :=
  let asked := ((s.steward d).map fun w => w.rt.any fun q => q.who == .kiln d).getD false
  match ((s.die d).bind fun r => r.gathers.find? fun g => !g.done) with
  | some g => if g.permit || asked then s else s.askPermit d (.kiln d) 4 64 true
  | none => s

/-- Gathers that have not begun are given up. -/
def dropGathers (s : State) (d : Nat) (p : Gather → Bool) : State :=
  let gone := fun (g : Gather) => !g.done && p g
  let first := ((s.die d).bind fun r => r.gathers.find? fun g => !g.done).any gone
  let s := if first then s.updSteward d fun w => { w with rt := w.rt.filter fun q => q.who != .kiln d } else s
  (s.updDie d fun r => { r with gathers := r.gathers.filter fun g => !(gone g) }).askKiln d

/-- A change of VIEW (R392): the gathers that wait count none of the records laid out under the old one, and those of bands that the view
no longer has are given up. -/
def turnView (s : State) (d : Nat) (old : W64) : State :=
  match s.die d with
  | none => s
  | some r =>
    if r.view = old then s
    else
      (s.updDie d fun r => { r with gathers := mapIf (fun g => !g.done) (fun g => { g with count := 0 }) r.gathers }).dropGathers d fun g =>
        decide (viewBands r ≤ g.band)

/-- Apply the waiting writes of a die's render block together (R382). -/
def applyWaits (s : State) (d : Nat) : State :=
  match s.die d with
  | none => s
  | some r => ((s.applyRender d r.waits).updDie d fun k => { k with waits := [] }).turnView d r.view

/-- A sweep boundary: counts, cancels, waiting writes; then the next sweep, if scan-out stays on (DESIGN CHOICE, assumption 74). -/
def passBoundary (s : State) : State :=
  let s : State := { s with render := s.render.map fun r => { r with sweep := r.sweep + 1 } }
  let s := (List.range Config.contexts).foldl (fun s n => s.cancelGroups n (((s.ctx n).map (·.cgsweep)).getD 0)) s
  let s : State := { s with pkg := { s.pkg with dmode := s.pkg.dmodeWait.getD s.pkg.dmode, dmodeWait := none } }
  let s := (s.applyWaits 0).applyWaits 1
  if s.scanning then
    let next := fun (r : Render) => { r with nextLit := 0, nextGather := if r.nextGather.1 = 0 then (0, 0) else (r.nextGather.1 - 1, r.nextGather.2) }
    let s : State := { s with pkg := { s.pkg with dstart := BitVec.ofNat 64 s.tick, sweeping := true }, render := s.render.map next }
    ((s.atTick (s.bandTick 1 0) .sweepBoundary).afterExactly 0 (.bandLight 0)).afterExactly 0 (.bandLight 1)
  else
    let s : State := { s with pkg := { s.pkg with sweeping := false }, render := s.render.map fun r => { r with nextGather := (0, 0) } }
    (s.dropGathers 0 fun _ => true).dropGathers 1 fun _ => true

/-! ### The Kiln's addresses (R382) -/

/-- KCTX of a die. -/
def kilnCtx (r : Render) : Nat := natField r.knode.toNat 0 5

/-- The 64 KiB pages that a range of intermediate addresses meets. -/
def pagesOf (ia n : Nat) : List Nat := (List.range ((ia + n - 1) / 2 ^ 16 + 1 - ia / 2 ^ 16)).map fun k => max ia ((ia / 2 ^ 16 + k) * 2 ^ 16)

/-- A context's range registers and pages let n bytes be read and written. -/
def kilnReaches (s : State) (ctx va n : Nat) : Bool :=
  match s.ctx ctx with
  | none => false
  | some c => match rangeCheck c va n .read, rangeCheck c va n .write with
    | .ok (ia, _), .ok _ => !(inModule ia) || ((pagesOf ia n).all fun p => match s.pageFor p .read, s.pageFor p .write with
        | .ok (pa, _), .ok _ => !(s.pkg.dieFailed.contains (homeDie (s.redirect pa p)))
        | _, _ => false)
    | _, _ => false

/-- The supervisor is told of a malformed entry that such a check meets (R127). -/
def kilnReport (s : State) (ctx va n : Nat) : State :=
  match s.ctx ctx with
  | none => s
  | some c => match rangeCheck c va n .read, rangeCheck c va n .write with
    | .ok (ia, _), .ok _ => s.reportMalformed ctx ia n
    | _, _ => s

/-- The display reads n bytes that it reaches: A is set in their entries (R127). -/
def kilnReads (s : State) (ctx va n : Nat) : State :=
  match (s.ctx ctx).map fun c => rangeCheck c va n .read with
  | some (.ok (ia, _)) => if !(inModule ia) then s else (pagesOf ia n).foldl (fun s p => match s.pageFor p .read with
      | .ok (_, entry) => s.markEntry entry false
      | .error _ => s) s
  | _ => s

/-- The address of row 16b of a copy of the frame (R410). -/
def copyRow (r : Render) (copy b : Nat) : Nat := r.kfb.toNat + copy * (viewWidth r * viewHeight r * 4) + 64 * viewWidth r * b

/-- The copy that shows a band now. -/
def frontCopy (r : Render) (b : Nat) : Nat := if r.front.contains b then 1 else 0

/-! ### Lit bands (R411) -/

/-- A band is missed: COUNT, BAND and CAUSE. -/
def missBand (s : State) (d b cause : Nat) : State :=
  s.updDie d fun r => { r with miss := BitVec.ofNat 64 (cause * 2 ^ 48 + b % 2 ^ 16 * 2 ^ 32 + (natField r.miss.toNat 0 32 + 1) % 2 ^ 32) }

/-- A gather that has not begun by Tb is given up. -/
def dropGather (s : State) (d : Nat) (sweep : W32) (b : Nat) : State := s.dropGathers d fun g => g.sweep == sweep && g.band == b

/-- The display shows a band from its front copy, where it reaches it (R410, R411). -/
def showBand (s : State) (d b : Nat) : State :=
  match s.die d with
  | none => s
  | some r =>
    let va := copyRow r (frontCopy r b) b
    let n := 64 * viewWidth r
    if s.kilnReaches (kilnCtx r) va n then s.kilnReads (kilnCtx r) va n else s.kilnReport (kilnCtx r) va n

/-- Band b of the present sweep is lit: it flips to its new copy, or is missed, and is shown from its front copy. -/
def lightBand (s : State) (d b : Nat) : State :=
  match s.die d with
  | none => s
  | some r =>
    let this := fun (k : Band) => k.sweep == r.sweep && k.band == b
    let drop := fun (s : State) => s.updDie d fun k => { k with bands := k.bands.filter fun x => !(this x) }
    let begun := r.gathers.any fun g => g.sweep == r.sweep && g.band == b && g.done
    let found : Option BandState := (r.bands.find? this).map fun (x : Band) => x.state
    match found with
    | some .retired =>
      let s := (drop s).updDie d fun k => { k with front := if k.front.contains b then k.front.filter (· != b) else b :: k.front }
      (if s.kilnReaches (kilnCtx r) (copyRow r (1 - frontCopy r b) b) (64 * viewWidth r) then s else s.missBand d b 4).showBand d b
    | some .posted => ((s.updDie d fun k => { k with bands := mapIf this (fun x => { x with state := .missed 0 }) k.bands }).missBand d b 0).showBand d b
    | some .failed => ((drop s).missBand d b 1).showBand d b
    | some (.missed c) => ((drop s).missBand d b c).showBand d b
    | none => (if begun then s.missBand d b 0 else (s.dropGather d r.sweep b).missBand d b 2).showBand d b

/-! ### Gathers (R406 to R408) -/

/-- LEAD, AGEMAX and HS of KCTL. -/
def kilnLead (r : Render) : Nat := natField r.kctl.toNat 0 32
def kilnAgeMax (r : Render) : Nat := natField r.kctl.toNat 32 24
def kilnHs (r : Render) : Nat := natField r.kctl.toNat 56 5

/-- NKC + 1, KHID, CGROUP of KREC, and the cluster of a band. -/
def kilnClusters (r : Render) : Nat := natField r.krec.toNat 16 3 + 1
def kilnHidden (r : Render) : Nat := natField r.krec.toNat 8 4
def kilnSite (r : Render) (b : Nat) : Nat := natField r.kclus.toNat (6 * (b % kilnClusters r)) 6

/-- The band gathered next: those lit already are passed over. -/
def nextBand (r : Render) : Nat × Nat := if r.nextGather.1 = 0 then (0, max r.nextGather.2 r.nextLit) else r.nextGather

def bandAfter (r : Render) (p : Nat × Nat) : Nat × Nat := if p.2 + 1 < viewBands r then (p.1, p.2 + 1) else (p.1 + 1, 0)

/-- The gather of the next band opens (R406): Tg has come, Tb has not. -/
def opens (s : State) (d : Nat) : Option (Render × Nat × Nat) :=
  match s.die d with
  | none => none
  | some r =>
    let n := nextBand r
    let p := if n.2 < viewBands r then n else (n.1 + 1, 0)
    let tb := s.bandTick p.1 p.2
    if s.pkg.sweeping && s.scanning && s.dieOk d && r.kctl.getLsbD 63 && viewWidth r != 0 && viewBands r != 0 && decide (tb ≤ s.tick + kilnLead r) && decide (s.tick < tb) then
      some (r, p) else none

/-- The gather opens with WCOUNT as it stands at Tg. -/
def openGather (s : State) (d : Nat) (r : Render) (p : Nat × Nat) : State :=
  let tb := s.bandTick p.1 p.2
  let g : Gather := ⟨r.sweep + BitVec.ofNat 32 p.1, p.2, tb - kilnLead r, tb, assocGet 0 p.2 r.wcount, false, false, kilnSite r p.2, [], 0⟩
  (s.updDie d fun k => { k with gathers := k.gathers ++ [g], nextGather := bandAfter r p }).askKiln d

/-- A Silt record that a gather uses (R406, step 3): its pixel, in the band's rows or in one beyond every tile, and the four terms w × RAD
and w. -/
def gatherTerms (r : Render) (g : Gather) (bs : List Byte) : Option ((Nat × Nat) × List Frac) :=
  let age := wrapTo 32 ((g.tg : Int) - fieldAt bs 4 4)
  let half := fun (o : Nat) => Fp.decode .binary16 (fieldAt bs o 2)
  let rad := [half 16, half 18, half 20]
  let weight := half 22
  if kilnAgeMax r < age || (weight :: rad).any fun f => f.isNan || f.isInf then none
  else
    let w := (Fp.decode .binary32 (roundFrac .binary32 .nearestEven weight.sign (weight.value.mul ⟨1, 2 ^ (age / 2 ^ kilnHs r)⟩)).bits).value
    let y := fieldAt bs 2 2 / 16
    some ((fieldAt bs 0 2 / 16, if y < 16 * g.band then 2 ^ 16 else y - 16 * g.band), rad.map (fun f => w.mul f.value) ++ [w])

/-- Add the terms of a record to a pixel's accumulators, binary32 bits (R406, step 4). -/
def accumulate (acc : List ((Nat × Nat) × List Nat)) (t : (Nat × Nat) × List Frac) : List ((Nat × Nat) × List Nat) :=
  let old := assocGet (List.replicate 4 0) t.1 acc
  let sum := fun (p : Nat × Frac) => match Fp.decode .binary32 p.1 with
    | .num n m e => (roundFrac .binary32 .nearestEven false ((Frac.scaled n m e).add p.2).reduce).bits
    | _ => p.1
  assocSet t.1 ((old.zip t.2).map sum) acc

/-- The records of a band's bin, oldest first (R406, step 2). -/
def binRecords (s : State) (d : Nat) (r : Render) (g : Gather) : List (List Byte) :=
  let sb := binSize r
  let n := min g.count.toNat sb
  (List.range n).map fun k => s.readMem (siltBase d + 0x10000 + 32 * (g.band * sb + (g.count.toNat - n + k) % sb)) 32

/-- ROUND to binary16 of binary32 bits. -/
def half16 (bits : Nat) : Nat := (convertFp .binary16 .nearestEven (Fp.decode .binary32 bits)).bits

/-- Gather tile g of a band (R407): pixels past WIDTH are zero. -/
def gatherTile (width : Nat) (acc : List ((Nat × Nat) × List Nat)) (g : Nat) : Tile :=
  let element := fun (row col : Nat) =>
    let x := 128 * g + 32 * (row / 16) + col / 4
    if width ≤ x then 0 else half16 ((assocGet (List.replicate 4 0) (x, row % 16) acc).getD (col % 4) 0)
  ⟨.f16, 64, 128, (List.range 64).flatMap fun row => (List.range 128).flatMap fun col => leBytes 2 (element row col)⟩

/-- The zero tile of a band's hidden state. -/
def zeroTile : Tile := ⟨.f16, 64, 128, List.replicate 16384 0⟩

/-- Hidden tile j of a band, wherever it is. -/
def hiddenTile (s : State) (d b j : Nat) : Option TileSlot := s.tile.slots.find? fun t => t.owner == .hidden d b j

/-- A slot is at rest. -/
def resting (t : TileSlot) : Bool := !t.bound && !t.drains && t.uses.isEmpty

/-- The gather can begin: its permit has come, its hidden tiles are at rest, and the cluster has the slots it needs. -/
def gatherReady (s : State) (d : Nat) (r : Render) (g : Gather) : Bool :=
  let hidden := (List.range (kilnHidden r)).map fun j => s.hiddenTile d g.band j
  let stay := hidden.filter fun h => match h with | some t => t.site == g.site | none => false
  let need := ceilDiv (viewWidth r) 128 + (hidden.length - stay.length)
  g.permit && s.siteOn d g.site && (hidden.all fun h => match h with | some t => resting t | none => true) && decide (need ≤ (s.freeTiles d g.site).length)

/-- Hidden tile j of a band comes to a cluster: in the slot it holds, or in a free one, with its contents. -/
def bringHidden (s : State) (d : Nat) (g : Gather) (j : Nat) : State × Nat :=
  match s.hiddenTile d g.band j with
  | some t =>
    if t.site = g.site then (s, t.slot)
    else
      let k := (s.freeTiles d g.site).headD 0
      ({ s with tile := { s.tile with slots := mapIf (fun q => q == t) (fun q => { q with site := g.site, slot := k }) s.tile.slots } }, k)
  | none =>
    let k := (s.freeTiles d g.site).headD 0
    ({ s with tile := { s.tile with slots := s.tile.slots ++ [⟨d, g.site, k, .hidden d g.band j, false, false, [], zeroTile⟩] } }, k)

/-- The gather: its records go into tiles in the cluster's slots. -/
def runGather (s : State) (d : Nat) (r : Render) (k : Nat) (g : Gather) : State :=
  let terms := (s.binRecords d r g).filterMap fun bs => gatherTerms r g bs
  let acc := terms.foldl accumulate []
  let new := (s.freeTiles d g.site).take (ceilDiv (viewWidth r) 128)
  let slots := (new.zipIdx).map fun p => (⟨d, g.site, p.1, .gather, false, false, [], gatherTile (viewWidth r) acc p.2⟩ : TileSlot)
  let s : State := { s with tile := { s.tile with slots := s.tile.slots ++ slots } }
  let (s, hidden) := (List.range (kilnHidden r)).foldl (fun (a : State × List Nat) j =>
    let (s, n) := a.1.bringHidden d g j
    (s, a.2 ++ [n])) (s, [])
  let s := s.updDie d fun q => { q with gathers := modifyAt (fun (x : Gather) => { x with done := true, slots := new ++ hidden, used := terms.length }) k q.gathers }
  (s.after 1 (.kilnBandPost d)).askKiln d

/-- The gather that can begin now, with its place in the list; none while no sweep is scanned out (R414). -/
def gatherDue (s : State) (d : Nat) : Option (Render × Nat × Gather) :=
  match s.die d with
  | none => none
  | some r => match findIdxVal (fun (g : Gather) => !g.done) r.gathers with
    | some (k, g) => if s.scanning && decide (s.tick < g.tb) && s.gatherReady d r g then some (r, k, g) else none
    | none => none

/-! ### Band records (R409) -/

/-- The band descriptor: bytes 4 to 7 and the parity of the halo slots are those of the register SWEEP as it stands (R409). -/
def bandDescriptor (r : Render) (g : Gather) : List Byte :=
  let halo := fun (e q : Nat) => r.khalo.toNat + (2 * e + q) * 64 * viewWidth r
  let q := r.sweep.toNat % 2
  leBytes 4 g.band ++ leBytes 4 r.sweep.toNat ++ leBytes 8 g.tb ++ leBytes 8 (copyRow r (1 - frontCopy r g.band) g.band) ++
  leBytes 8 (halo g.band q) ++ leBytes 8 (if g.band = 0 then 0 else halo (g.band - 1) (1 - q)) ++
  leBytes 8 (if g.band + 1 = viewBands r then 0 else halo (g.band + 1) (1 - q)) ++
  leBytes 4 (ceilDiv (viewWidth r) 128) ++ leBytes 4 g.used ++ leBytes 8 0

/-- The 64 bytes of a record that a unit posts, with TCOUNT 1 and no dependences (R62). -/
def unitRecord (node payload deadline prio cgroup tbase hint hdie hcluster : Nat) : List Byte :=
  leBytes 8 node ++ leBytes 8 payload ++ leBytes 8 deadline ++ leBytes 4 (prio * 2 ^ 30 + cgroup * 2 ^ 24) ++ leBytes 4 0 ++
  leBytes 4 (2 ^ 16 + tbase) ++ leBytes 4 (hint * 2 ^ 30 + hdie * 2 ^ 29 + hcluster * 2 ^ 23) ++ leBytes 24 0

/-- TILES of the kernel header at an address, if it can be read. -/
def headerTiles (s : State) (ctx node : Nat) : Option Nat := match s.contextRead ctx node 32 with
  | .ok (bs, _) => (Header.parse bs).map (·.tiles)
  | .error _ => none

/-- The record of a gathered band is not posted: its slots are free, and the band is missed with a cause. -/
def noRecord (s : State) (d : Nat) (g : Gather) (cause : Nat) : State :=
  let s := s.freeGathered d g.site g.slots
  if g.tb ≤ s.tick then s else s.updDie d fun r => { r with bands := r.bands ++ [⟨g.sweep, g.band, .missed cause, g.site, [], true⟩] }

/-- Write the descriptor of a gathered band, at an address that needs RD and WR (R382), and post its record; none is posted without
scan-out, or for a band that the view no longer has (R414). -/
def postBand (s : State) (d : Nat) (r : Render) (g : Gather) : State :=
  let ctx := kilnCtx r
  let at' := r.kdesc.toNat + 64 * g.band
  let node := r.knode.toNat / 32 * 32
  if !(s.scanning) || decide (viewBands r ≤ g.band) then s.freeGathered d g.site g.slots
  else match s.engineWritable ctx at' 64 with
  | .ok ia =>
    if !(s.kilnReaches ctx at' 64) then (s.kilnReport ctx at' 64).noRecord d g 4 else
    let s := (s.engineWrite ctx ia (bandDescriptor r g)).1
    if ((s.headerTiles ctx node).map fun t => decide (t < ceilDiv (viewWidth r) 128 + kilnHidden r)).getD false then s.noRecord d g 3
    else
      let bs := unitRecord node at' g.tb 0 (natField r.krec.toNat 0 6) g.band 3 d g.site
      let (code, s) := s.devicePost ctx bs (.band d g.sweep.toNat g.band)
      if code ≠ Code.accepted then s.noRecord d g 1
      else s.updDie d fun k => { k with bands := k.bands ++ [⟨g.sweep, g.band, if g.tb ≤ s.tick then .missed 0 else .posted, g.site, g.slots, false⟩] }
  | .uncorrected pa => s.killContext ctx Cause.uncorrected pa ⟨d, g.site, 0⟩
  | _ => (s.kilnReport ctx at' 64).noRecord d g 4

end State

/-- SWEEP_BOUNDARY (R405, R414). -/
def execSweepBoundary (s : State) : Host.Outcome State Fault Refusal := .next (if s.boundaryDue then s.passBoundary else s)

/-- BAND_LIGHT (R411): the next band of the sweep is lit at its tick. -/
def execBandLight (die : Nat) (s : State) : Host.Outcome State Fault Refusal :=
  .next (match s.die die with
    | none => s
    | some r =>
      let b := r.nextLit
      if !(s.scanning && s.pkg.sweeping && s.dieOk die) || State.viewWidth r == 0 || decide (State.viewBands r ≤ b) || decide (s.tick < s.bandTick 0 b) then s
      else
        let s := (s.lightBand die b).updDie die fun k => { k with nextLit := b + 1 }
        if b + 1 < State.viewBands r then s.atTick (s.bandTick 0 (b + 1)) (.bandLight die) else s)

/-- KILN_GATHER (R406): the next band's gather opens at Tg; the first open one begins when it has its permit and slots (DESIGN CHOICE, assumption 49; DESIGN CHOICE, assumption 75). -/
def execKilnGather (die : Nat) (s : State) : Host.Outcome State Fault Refusal :=
  .next (match s.opens die with
    | some (r, p) => s.openGather die r p
    | none => match s.gatherDue die with
      | some (r, k, g) => s.runGather die r k g
      | none => s)

/-- KILN_BAND_POST (R409). -/
def execKilnBandPost (die : Nat) (s : State) : Host.Outcome State Fault Refusal :=
  .next (match s.die die with
    | none => s
    | some r => match r.gathers.find? fun g => g.done with
      | none => s
      | some g => (s.updDie die fun k => { k with gathers := k.gathers.filter fun x => x != g }).postBand die r g)

end Sys2Proof.Machine
end

