-- ==== Sys2Proof/Machine/Sextant.lean ====
section
/-! DEFINITION. The Sextant's draws, the snapshots and the visibility resolver (spec/22_render.md R383 to R390, R394 to R396,
R412). -/

namespace Sys2Proof.Machine

/-! ### Draw blocks (R384) -/

namespace Draw
def at' (b : Draw) (o n : Nat) : Nat := fieldAt b.bytes o n
def maps (b : Draw) : Nat := b.at' 0 8
def waveBuf (b : Draw) : Nat := b.at' 8 8
def shader (b : Draw) : Nat := b.at' 16 8
def policyNode (b : Draw) : Nat := b.at' 24 8
def prioBuf (b : Draw) : Nat := b.at' 32 8
def key (b : Draw) : Nat := b.at' 40 8
def cw (b : Draw) : Nat := natField (b.at' 48 4) 22 6 + 1
def cy0 (b : Draw) : Nat := natField (b.at' 48 4) 11 11
def cx0 (b : Draw) : Nat := natField (b.at' 48 4) 0 11
def npos (b : Draw) : Nat := natField (b.at' 52 4) 13 13
def ageShift (b : Draw) : Nat := natField (b.at' 52 4) 9 4
def probes (b : Draw) : Bool := (b.at' 52 4).testBit 8
def waveCode (b : Draw) : Nat := natField (b.at' 52 4) 6 2
def waveSize (b : Draw) : Nat := 16 * 2 ^ b.waveCode
def ch (b : Draw) : Nat := natField (b.at' 52 4) 0 6 + 1
def cgroup (b : Draw) : Nat := natField (b.at' 56 4) 26 6
def prioClass (b : Draw) : Nat := natField (b.at' 56 4) 24 2
def weights (b : Draw) : List Nat := [b.at' 56 1, b.at' 57 1, b.at' 58 1]
def dlrel (b : Draw) : Nat := b.at' 60 4
/-- The virtual address of cell c's map entry (R383). -/
def cellVa (b : Draw) (r : Render) (c : Nat) : Nat := b.maps + 4 * State.viewWidth r * (b.cy0 + c / b.cw) + 8 * (b.cx0 + c % b.cw)
end Draw

/-- A draw block is malformed (R384). -/
def Draw.malformed (b : Draw) (r : Render) : Bool :=
  natField (b.at' 48 4) 28 4 != 0 || natField (b.at' 52 4) 26 6 != 0 || b.waveCode == 3 || decide (State.viewWidth r / 2 < b.cx0 + b.cw) ||
  decide (State.viewHeight r / 2 < b.cy0 + b.ch) || b.npos == 0 || decide (4096 < b.npos) || b.shader % 32 != 0 || b.policyNode % 32 != 0 ||
  (b.probes && b.ctx != State.kilnCtx r)

/-- The priority of a cell from its map entry at tick TP (R385). -/
def Draw.priority (b : Draw) (tp e : Nat) : Nat :=
  let base := sumBy (fun (p : Nat × Nat) => p.1 * natField e (8 * p.2) 8) b.weights.zipIdx
  let a := min 255 (wrapTo 32 ((tp : Int) - natField e 32 32) / 2 ^ b.ageShift)
  min 65535 (base * (16 + a) / 1024)

/-- The cell of the next position (R387): the highest P, then the higher H, then the lower number. -/
def Draw.choose (b : Draw) : Option Nat :=
  let top := b.prio.foldl max 0
  let hash := fun (c : Nat) => (mix (BitVec.ofNat 64 b.key) (BitVec.ofNat 64 (c * 2 ^ 32 + b.t0 % 2 ^ 32))).toNat / 2 ^ 48
  if top = 0 then none
  else ((b.prio.zipIdx.filter fun p => p.1 == top).foldl (fun (best : Option (Nat × Nat)) p => match best with
    | none => some (hash p.2, p.2)
    | some m => if m.1 < hash p.2 then some (hash p.2, p.2) else some m) none).map (·.2)

/-- The bytes of a wave block (R389). -/
def Draw.waveBytes (b : Draw) (w : Wave) : List Byte :=
  let entry := fun (p : Sample) => leBytes 2 p.x ++ leBytes 2 p.y ++ leBytes 4 p.time ++ leBytes 4 (p.found.getD (0, 0)).1 ++ leBytes 4 (p.found.getD (0, 0)).2
  leBytes 4 (boolNat b.probes * 2 ^ 8 + w.samples.length) ++ leBytes 4 b.t0 ++ leBytes 8 b.block.toNat ++ w.samples.flatMap entry

def Draw.waveVa (b : Draw) (k : Nat) : Nat := b.waveBuf + k * (16 + 16 * b.waveSize)

/-! ### Triangles (R394, R396) -/

/-- The exact coordinates of a snapshot triangle: x, y, z of its vertices; none where one is not finite. -/
def triangleOf (raw : List Byte) : Option (List Frac) :=
  let cs := (List.range 9).filterMap fun k => match lim32 (fieldAt raw (4 * k) 4) with
    | some (.fin v) => some v
    | _ => none
  if cs.length = 9 then some cs else none

/-- Tiles of 16 × 16 pixels of a view along one axis that coordinates touch. -/
def tilesTouched (cs : List Frac) (pixels : Nat) : Nat :=
  let at' := cs.map fun c => (c.div ⟨16, 1⟩).floor
  let lo := max 0 (at'.foldl min (at'.headD 0))
  let hi := min (ceilDiv pixels 16 : Int) (at'.foldl max (at'.headD 0) + 1)
  (hi - lo).toNat

/-- Entries of the primitive-identifier store that a triangle takes. -/
def tilesOf (r : Render) (cs : List Frac) : Nat :=
  tilesTouched [vec cs 0, vec cs 3, vec cs 6] (State.viewWidth r) * tilesTouched [vec cs 1, vec cs 4, vec cs 7] (State.viewHeight r)

/-- The edge function of a point against the edge from a to b. -/
def edgeOf (cs : List Frac) (a b : Nat) (px py : Frac) : Frac :=
  let x := fun k => vec cs (3 * k)
  let y := fun k => vec cs (3 * k + 1)
  ((((x b).sub (x a)).mul (py.sub (y a))).sub (((y b).sub (y a)).mul (px.sub (x a)))).reduce

/-- DEPTH bits of a sample covered by a triangle (R396). -/
def coveredAt (cs : List Frac) (px py : Frac) : Option Nat :=
  let e0 := edgeOf cs 1 2 px py
  let e1 := edgeOf cs 2 0 px py
  let e2 := edgeOf cs 0 1 px py
  let area := edgeOf cs 0 1 (vec cs 6) (vec cs 7)
  let es := [e0, e1, e2]
  if area.isZero || !(es.all (fun e => !e.isNeg) || es.all (fun e => e.isNeg || e.isZero)) then none
  else
    let z := (((e0.mul (vec cs 2)).add (e1.mul (vec cs 5))).add (e2.mul (vec cs 8))).div area
    some (roundFrac .binary32 .nearestEven false z.reduce).bits

/-- The front-most primitive of a sample: PRIM and DEPTH (R396). -/
def frontMost (tris : List (List Byte)) (x y : Nat) : Nat × Nat :=
  let px : Frac := ⟨x, 16⟩
  let py : Frac := ⟨y, 16⟩
  let value := fun (bits : Nat) => (Fp.decode .binary32 bits).value
  let hits := tris.filterMap fun raw => (triangleOf raw).bind fun cs => (coveredAt cs px py).map fun z => (fieldAt raw 36 4, z)
  (hits.foldl (fun (best : Option (Nat × Nat)) h => match best with
    | none => some h
    | some m => if (value h.2).lt (value m.2) || ((value h.2).same (value m.2) && decide (h.1 < m.1)) then some h else some m) none).getD (0xFFFFFFFF, 0x7F800000)

/-- The usable snapshot that a probe of a TIME uses (R395): the nearest, the earlier on a tie. -/
def snapshotFor (r : Render) (time : Nat) : Option Nat :=
  let usable := (r.snaps.zipIdx).filterMap fun p => if p.1.2.2.2 = 1 then some (p.1.1.toNat, p.2) else none
  let far := fun (t : Nat) => if t < time then time - t else t - time
  (leastBy (fun (p : Nat × Nat) => 2 * far p.1 + boolNat (decide (time < p.1))) usable).map (·.2)

namespace State

/-! ### A die's draw -/

/-- The draw that a die's Sextant runs: the first in its list (R384). -/
def drawOf (s : State) (d : Nat) : Option (Render × Draw) := (s.die d).bind fun r => r.blocks.head?.map fun b => (r, b)

def updDraw (s : State) (d id : Nat) (f : Draw → Draw) : State := s.updDie d fun r => { r with blocks := mapIf (fun b => b.id == id) f r.blocks }

/-- A draw ends with a status; its SXDRAW goes on to complete with its last lane (R390). -/
def endDraw (s : State) (d : Nat) (b : Draw) (status : Nat) : State :=
  let s := s.updDie d fun r => { r with blocks := r.blocks.filter fun k => k.id != b.id }
  match s.cmd b.cmd with
  | none => s
  | some c =>
    let s := s.laneStatus c b.lane (BitVec.ofNat 32 status)
    match s.cmd b.cmd with
    | some c => if c.lanes.all (·.done) then s.endCommand c 1 else s
    | none => s

/-- An access of a draw fails: the draw ends, waits for a page, or its context dies (R288, R292, R349). -/
def drawFails {α : Type} (s : State) (d : Nat) (b : Draw) : Met α → State
  | .ok _ => s
  | .cause c => s.endDraw d b (traceCause c)
  | .uncorrected pa => s.killContext b.ctx Cause.uncorrected pa ⟨d, 0, 0⟩
  | .absent ia =>
    let s := if s.pkg.out.contains (.report b.ctx ia) then s else s.emit (.report b.ctx ia)
    s.updDraw d b.id fun k => { k with blocked := some ia }

/-- The draw can go on: it waits for no page. -/
def unblocked (s : State) (b : Draw) : Bool := match b.blocked with
  | none => true
  | some ia => s.pageThere ia

/-- An atomic of the Sextant on a map entry (R162, R383): its 8 bytes, and where they are. -/
def engineAtomic (s : State) (ctx va : Nat) : Met (Nat × Nat × State) :=
  match s.ctx ctx with
  | none => .cause Cause.range
  | some c => match rangeCheck c va 8 .atomic with
    | .error e => .cause e
    | .ok (ia, _) =>
      if inModule ia then
        match s.homeWritable .atomic (unitSpans ia 8) with
        | some e => s.metError ia 8 .atomic e
        | none => match s.homeBytes .atomic (unitSpans ia 8) with
          | .ok (bs, s) => .ok (ia, leNat bs, s)
          | .error e => s.metError ia 8 .atomic e
      else match s.deviceRead ia 8 with
        | .ok (bs, s) => .ok (ia, leNat bs, s)
        | .error e => s.metError ia 8 .read e

/-- Writes of a draw count in its command's write time, and in the time at which its writes are acknowledged (R170). -/
def drawWrites (s : State) (b : Draw) (ia : Nat) (bs : List Byte) : State :=
  let (s, w) := s.engineWrite b.ctx ia bs
  let (k, s) := s.ackedFrom ia
  (s.noteRemote b.cmd ia k).updCmd b.cmd fun c => { c with ewmax := max c.ewmax w, acked := max c.acked k }

/-- The writes of a draw so far have been acknowledged (R390). -/
def drawAcked (s : State) (b : Draw) : Bool := ((s.cmd b.cmd).map fun c => decide (c.acked ≤ s.clk.cycle)).getD true

/-! ### The start of a draw (R385, R386) -/

/-- The map entries of a region, in cell order. -/
def readCells (s : State) (ctx : Nat) : List Nat → Met (List Nat × State)
  | [] => .ok ([], s)
  | va :: rest => match s.engineRead ctx va 8 with
    | .ok (bs, s) => match readCells s ctx rest with
      | .ok (more, s) => .ok (leNat bs :: more, s)
      | r => r
    | .cause c => .cause c
    | .absent ia => .absent ia
    | .uncorrected pa => .uncorrected pa

/-- Read a draw's block and compute its priorities. -/
def startDraw (s : State) (d : Nat) (r : Render) (b : Draw) : State :=
  match s.engineRead b.ctx b.block.toNat 64 with
  | .ok (bytes, s) =>
    let b := { b with bytes := bytes }
    if b.malformed r then s.endDraw d b 1
    else match s.readCells b.ctx ((List.range (b.cw * b.ch)).map (b.cellVa r)) with
      | .ok (es, s) =>
        let tp := s.chrono (dieUnit d)
        s.updDraw d b.id fun k => { k with bytes := bytes, prio := es.map (b.priority tp), phase := if b.policyNode = 0 then .ready else .priorities }
      | f => s.drawFails d b f
  | f => s.drawFails d b f

/-- Write every P to PRIOBUF (R386, step 1). -/
def writePriorities (s : State) (d : Nat) (b : Draw) : State :=
  match s.engineWritable b.ctx b.prioBuf (2 * b.prio.length) with
  | .ok ia => (s.drawWrites b ia (b.prio.flatMap fun p => leBytes 2 p)).updDraw d b.id fun k => { k with phase := .policy }
  | f => s.drawFails d b f

/-- Post the policy record (R386, step 2): FULL leaves it to be posted again. -/
def postPolicy (s : State) (d : Nat) (b : Draw) : State :=
  let (code, s) := s.devicePost b.ctx (unitRecord b.policyNode b.block.toNat 0 b.prioClass b.cgroup 0 1 d 0) (.policy d b.id)
  if code = Code.accepted then s.updDraw d b.id fun k => { k with phase := .policyRuns }
  else if code = Code.full then s
  else s.endDraw d b 1

/-- The next step of the draw's policy: PRIOBUF, then the record. -/
def policyStep (s : State) (d : Nat) : State :=
  match s.drawOf d with
  | some (_, b) => match b.phase with
    | .priorities => s.writePriorities d b
    | .policy => s.postPolicy d b
    | _ => s
  | none => s

/-! ### Positions and waves (R387 to R390) -/

/-- Write a wave's block, once its samples are resolved. -/
def writeWave (s : State) (d : Nat) (b : Draw) (w : Wave) : State :=
  if w.written || w.samples.any (fun p => p.found.isNone) then s
  else match s.engineWritable b.ctx (b.waveVa w.k) (16 + 16 * w.samples.length) with
    | .ok ia => (s.drawWrites b ia (b.waveBytes w)).updDraw d b.id fun k => { k with waves := mapIf (fun v => v.k == w.k) (fun v => { v with written := true }) k.waves }
    | f => s.drawFails d b f

/-- The wave being filled is complete. -/
def closeWave (s : State) (d : Nat) (b : Draw) : State :=
  if b.entries.isEmpty then s
  else
    let w : Wave := ⟨b.waveNo, b.entries, false⟩
    let s := s.updDraw d b.id fun k => { k with entries := [], waveNo := k.waveNo + 1, waves := k.waves ++ [w] }
    s.writeWave d b w

/-- No position is left to draw: the last wave is complete, and the draw ends with its post. -/
def finishSelection (s : State) (d : Nat) (b : Draw) : State := (s.updDraw d b.id fun k => { k with phase := .posting }).closeWave d b

/-- One position (R387, R388): the cell's map entry is updated by an atomic. -/
def drawPosition (s : State) (d : Nat) (r : Render) (b : Draw) : State :=
  match (if b.npos ≤ b.n then none else b.choose) with
  | none => s.finishSelection d b
  | some c => match s.engineAtomic b.ctx (b.cellVa r c) with
    | .ok (ia, e, s) =>
      let q := natField e 24 8
      let stamp := b.t0 + b.n + 1
      let s := s.drawWrites b ia (leBytes 3 e ++ leBytes 1 (q + 1) ++ leBytes 4 stamp)
      let x := 32 * (b.cx0 + c % b.cw) + reverseBits 5 (q % 32)
      let y := 32 * (b.cy0 + c / b.cw) + reverseBits 5 ((q ^^^ (q / 2)) % 32)
      let snap := if b.probes then snapshotFor r stamp else none
      let p : Sample := ⟨x, y, stamp % 2 ^ 32, snap, if b.probes then (if snap.isNone then some (0xFFFFFFFF, 0x7F800000) else none) else some (0, 0)⟩
      let b := { b with prio := modifyAt (· / 2) c b.prio, n := b.n + 1, entries := b.entries ++ [p], blocked := none }
      let s := s.updDraw d b.id fun k => { k with prio := b.prio, n := b.n, entries := b.entries, blocked := none }
      if b.entries.length = b.waveSize then s.closeWave d b else s
    | f => s.drawFails d b f

/-- A position is due: one each tick from T0 + 1 on. -/
def positionDue (s : State) (d : Nat) : Option (Render × Draw) :=
  match s.drawOf d with
  | some (r, b) => if b.phase == .selecting && s.unblocked b && decide (b.t0 + b.n + 1 ≤ s.chrono (dieUnit d)) then some (r, b) else none
  | none => none

/-- Post the first wave of a draw, in wave order (R390): FULL leaves it to be posted again. -/
def postWave (s : State) (d : Nat) (b : Draw) (w : Wave) : State :=
  let deadline := if b.dlrel = 0 then 0 else b.t0 + b.dlrel
  let (code, s) := s.devicePost b.ctx (unitRecord b.shader (b.waveVa w.k) deadline b.prioClass b.cgroup w.k 1 d 0) (.wave d b.id w.k)
  if code = Code.accepted then s.updDraw d b.id fun k => { k with waves := k.waves.filter fun v => v.k != w.k }
  else if code = Code.full then s
  else s.endDraw d b 1

/-- A sample of the die's draw is still to be resolved. -/
def unresolved (b : Draw) : List Sample := ((b.waves.flatMap (·.samples)) ++ b.entries).filter fun p => p.found.isNone

/-- Resolve the draw's samples at a position and time. -/
def resolveSample (s : State) (d : Nat) (r : Render) (b : Draw) (p : Sample) : State :=
  let hit := frontMost (match p.snap with | some n => assocGet [] n r.binned | none => []) p.x p.y
  let set := mapIf (fun (q : Sample) => q == p) (fun q => { q with found := some hit })
  let s := s.updDraw d b.id fun k => { k with entries := set k.entries, waves := k.waves.map fun w => { w with samples := set w.samples } }
  match s.drawOf d with
  | some (_, b) => b.waves.foldl (fun s w => s.writeWave d b w) s
  | none => s

/-! ### Binning (R394) -/

/-- What binning a snapshot's triangles ends with: STATUS, and the triangles where it is usable. -/
def binSnapshot (r : Render) (n : Nat) (tris : List (List Byte)) : Nat × List (List Byte) :=
  let parts := tris.map triangleOf
  if tris.isEmpty || (tris.any fun raw => fieldAt raw 40 8 != 0) || parts.any (·.isNone) then (3, [])
  else
    let count := fun (ts : List (List Byte)) => sumBy (tilesOf r) (ts.filterMap triangleOf)
    let others := sumBy (fun (p : Nat × List (List Byte)) => if p.1 = n then 0 else count p.2) r.binned
    if 2 ^ 20 < others + count tris then (2, []) else (1, tris)

/-- A probe is using a snapshot (R412). -/
def snapshotUsed (r : Render) (n : Nat) : Bool := r.blocks.any fun b => (unresolved b).any fun p => p.snap == some n

/-- A snapshot has been binned. -/
def setBinned (s : State) (d n st : Nat) (tris : List (List Byte)) : State :=
  s.updDie d fun r =>
    { r with snaps := modifyAt (fun k => (k.1, k.2.1, k.2.2.1, st)) n r.snaps, binning := r.binning.filter fun b => b.1 != n
             binned := if st = 1 then assocSet n tris r.binned else r.binned.filter fun b => b.1 != n }

end State

/-- SEXTANT_DRAW_START (R384 to R386; DESIGN CHOICE, assumption 78). -/
def execSextantDrawStart (die : Nat) (s : State) : Host.Outcome State Fault Refusal :=
  .next (match s.drawOf die with
    | some (r, b) =>
      if b.phase == .waiting && s.unblocked b then
        let b := { b with blocked := none }
        let s := (s.updDraw die b.id fun k => { k with blocked := none }).startDraw die r b
        (s.policyStep die).policyStep die
      else s
    | none => s)

/-- POLICY_RECORD_REPOST (R386): PRIOBUF is written, or the policy record posted, again. -/
def execPolicyRecordRepost (die : Nat) (s : State) : Host.Outcome State Fault Refusal :=
  .next (match s.drawOf die with
    | some (_, b) => if s.unblocked b then (s.updDraw die b.id fun k => { k with blocked := none }).policyStep die else s
    | none => s)

/-- SELECTION_START (R387). -/
def execSelectionStart (die : Nat) (s : State) : Host.Outcome State Fault Refusal :=
  .next (match s.drawOf die with
    | some (_, b) => if b.phase == .ready then s.updDraw die b.id fun k => { k with phase := .selecting, t0 := s.chrono (State.dieUnit die), n := 0 } else s
    | none => s)

/-- POSITION_DRAW (R387, R388). -/
def execPositionDraw (die : Nat) (s : State) : Host.Outcome State Fault Refusal :=
  .next (match s.positionDue die with
    | some (r, b) => s.drawPosition die r b
    | none => s)

/-- WAVE_POST (R390): the first wave is written if it could not be before, or posted; the draw ends with its last wave. -/
def execWavePost (die : Nat) (s : State) : Host.Outcome State Fault Refusal :=
  .next (match s.drawOf die with
    | some (_, b) =>
      if !(s.unblocked b) then s
      else
        let b := { b with blocked := none }
        let s := s.updDraw die b.id fun k => { k with blocked := none }
        match b.waves with
        | [] => if b.phase == .posting then s.endDraw die b 0 else s
        | w :: _ =>
          if !w.written then s.writeWave die b w
          else if s.drawAcked b then s.postWave die b w else s
    | none => s)

/-- PROBE_RESOLVE (R396). -/
def execProbeResolve (die : Nat) (s : State) : Host.Outcome State Fault Refusal :=
  .next (match s.drawOf die with
    | some (r, b) => match State.unresolved b with
      | p :: _ => s.resolveSample die r b p
      | [] => s
    | none => s)

/-- SNAPSHOT_BINNED (R394, R412): binning waits for the probes that use the snapshot. A snapshot that KCTX's range registers or
pages do not let the unit read is malformed; for an absent page it waits. -/
def execSnapshotBinned (die n : Nat) (s : State) : Host.Outcome State Fault Refusal :=
  .next (match s.die die with
    | none => s
    | some r => match r.binning.find? fun b => b.1 == n with
      | none => s
      | some (_, addr, count) =>
        if State.snapshotUsed r n then s.again (.snapshotBinned die n)
        else match s.engineRead (State.kilnCtx r) addr.toNat (48 * count) with
          | .ok (bs, s) =>
            let (st, tris) := State.binSnapshot r n ((List.range count).map fun k => (bs.drop (48 * k)).take 48)
            s.setBinned die n st tris
          | .cause _ => s.setBinned die n 3 []
          | .uncorrected pa => s.killContext (State.kilnCtx r) Cause.uncorrected pa ⟨die, 0, 0⟩
          | .absent ia => (if s.pkg.out.contains (.report (State.kilnCtx r) ia) then s else s.emit (.report (State.kilnCtx r) ia)).again (.snapshotBinned die n))

end Sys2Proof.Machine
end

