-- ==== Sys2Proof/Machine/Outside.lean ====
section
/-! DEFINITION. Accesses from outside: the application cores, inbound PCIe DMA, inbound Ewerlink, and the Ewerlink links
(spec/10_consistency.md R175 to R177; spec/24_fabric.md R413, R425, R426, R430, R431, R434; spec/26_system.md R446, R447). -/

namespace Sys2Proof.Machine

namespace State

/-! ### The host directory (R175, R425) -/

/-- Application cores. -/
def harts : Nat := 16

/-- The die and slice that are the home of a line now. -/
def lineHome (s : State) (line : Nat) : Nat × Nat :=
  match s.walk line with
  | .mapped e _ => (s.homeOf (e.frame + (line - e.page)) line, homeSlice line)
  | .page _ => (0, homeSlice line)

/-- The 128-byte lines that n bytes meet. -/
def hostLines (ia n : Nat) : List Nat := if n = 0 then [] else (List.range ((ia + n - 1) / 128 + 1 - ia / 128)).map fun k => (ia / 128 + k) * 128

/-- A line leaves the directory, and its reservations clear (R176). -/
def leaveDirectory (s : State) (line : Nat) : State :=
  { s with pkg := { s.pkg with directory := s.pkg.directory.filter fun p => p.1 != line, reserved := s.pkg.reserved.filter fun r => r.2 != line } }

/-- A hart's cache holds the line: its presence bit is set. Without a free entry the least recently allocated line of the slice
leaves first. -/
def enterDirectory (s : State) (hart line : Nat) : State :=
  if s.pkg.directory.any fun p => p.1 == line then
    { s with pkg := { s.pkg with directory := mapIf (fun p => p.1 == line) (fun p => (p.1, p.2 ||| (1#16 <<< hart))) s.pkg.directory } }
  else
    let home := s.lineHome line
    let mates := s.pkg.directory.filter fun p => s.lineHome p.1 == home
    let s := if 8192 ≤ mates.length then (match mates.getLast? with | some p => s.leaveDirectory p.1 | none => s) else s
    { s with pkg := { s.pkg with directory := (line, 1#16 <<< hart) :: s.pkg.directory } }

/-- The hart's cache holds every line of an access (R425). -/
def enterLines (s : State) (hart ia n : Nat) : State := if inModule ia then (hostLines ia n).foldl (fun s l => s.enterDirectory hart l) s else s

/-! ### Host accesses at an intermediate address (R175, R176, R413, R426) -/

/-- A host read of n bytes: module memory through the system table, the aperture, another module or PCIe space; none is an error (DESIGN CHOICE, assumption 79). -/
def hostRead (s : State) (ia n : Nat) : Option (List Byte × State) :=
  if inAperture ia then
    match s.apertureRead false ia n with
    | .ok bs => some (bs, s)
    | .error _ => none
  else match s.deviceRead ia n with
    | .ok r => some r
    | .error _ => none

/-- A host write: its W, or none for an error. -/
def hostWrite (s : State) (ia : Nat) (bs : List Byte) : Option (State × Nat) :=
  if inAperture ia then
    match s.apertureWrite false ia bs with
    | .ok s' => some (s', s.chrono (blockUnit (blockOf ia)))
    | .error _ => none
  else match s.deviceWrite ia bs with
    | .ok r => some r
    | .error _ => none

/-- The host copies of a line but the storing hart's own are invalidated by its store (R175); its entry keeps its place (R425). -/
def keepOwnCopy (before : List (Nat × BitVec 16)) (hart : Nat) (lines : List Nat) (s : State) : State :=
  let now := s.pkg.directory
  let keep := fun (p : Nat × BitVec 16) =>
    if lines.contains p.1 then (if p.2.getLsbD hart then some (p.1, 1#16 <<< hart) else none) else now.find? fun q => q.1 == p.1
  { s with pkg := { s.pkg with directory := before.filterMap keep } }

/-- An integer of n bytes read as signed. -/
def signedBytes (n v : Nat) : Int := signedOf (8 * n) v

/-- The new value of an AMO of n bytes (R176). -/
def amoNew (op : AmoOp) (n old b : Nat) : Nat :=
  match op with
  | .swap => b
  | .add => (old + b) % 2 ^ (8 * n)
  | .and => old &&& b
  | .or => old ||| b
  | .xor => old ^^^ b
  | .min => if signedBytes n b < signedBytes n old then b else old
  | .max => if signedBytes n old < signedBytes n b then b else old
  | .minu => min old b
  | .maxu => max old b

/-- The operation and format of R279 that an AMO of n bytes is. -/
def amoCode (n : Nat) (op : AmoOp) : Nat × Ty :=
  let u : Ty := if n = 4 then .n32 else .n64
  let i : Ty := if n = 4 then .i32 else .i64
  match op with
  | .add => (0, u) | .min => (1, i) | .max => (2, i) | .minu => (1, u) | .maxu => (2, u) | .and => (3, u) | .or => (4, u) | .xor => (5, u) | .swap => (6, u)

/-- An atomic of n bytes by an outside agent: the old value, the state and W. Only module memory and another module serve it; to another
module its operation goes, which is performed there (R430). -/
def outsideAtomic (s : State) (ia n : Nat) (new : Nat → Nat) (code : Nat × Ty) (operand compare : Nat) : Option (Nat × State × Nat) :=
  if inModule ia then
    let spans := unitSpans ia n
    if (s.homeWritable .atomic spans).isSome then none
    else match s.homeBytes .atomic spans with
      | .error _ => none
      | .ok (bs, s) =>
        let (s, w) := s.homeWrite ia (leBytes n (new (leNat bs)))
        some (leNat bs, s, w)
  else if inEwerlink ia then
    match s.sendAtomic ia code.1 code.2 (leBytes n operand) (leBytes n compare) with
    | .ok (bs, s) => some (leNat bs, s, 0)
    | .error _ => none
  else none

/-- An AMO by an outside agent (R176). -/
def outsideAmo (s : State) (ia n : Nat) (op : AmoOp) (v : Nat) : Option (Nat × State × Nat) :=
  let b := v % 2 ^ (8 * n)
  s.outsideAtomic ia n (fun old => amoNew op n old b) (amoCode n op) b 0

/-- An error response to a hart; the supervisor is told of a malformed entry that the access met (R127). -/
def refuseHost (s : State) (hart ia n : Nat) : State := (s.reportMalformed 0 ia n).answer hart [] true

/-- A store of a hart has been performed: its copies in the directory, and its acknowledgement, held for a store to module memory until the
home's CHRONO reaches W + 8 (R175). -/
def hostStored (s s' : State) (hart ia n w : Nat) : State :=
  if inModule ia then (State.keepOwnCopy s.pkg.directory hart (hostLines ia n) s').emit (.ack hart (w + 8)) else s'.emit (.ack hart w)

end State

/-! ### Application cores -/

/-- HOST_LOAD (R175): the home's value; the line is held in the hart's cache. -/
def execHostLoad (hart ia size : Nat) (s : State) : Host.Outcome State Fault Refusal :=
  .next (if State.harts ≤ hart ∨ size = 0 then s
    else match s.hostRead ia size with
      | none => s.refuseHost hart ia size
      | some (bs, s) => (s.enterLines hart ia size).answer hart bs false)

/-- HOST_STORE (R175). A store to a post area posts, or breaks the hart's sequence (R64, R65). -/
def execHostStore (hart ia : Nat) (bytes : List Byte) (s : State) : Host.Outcome State Fault Refusal :=
  if State.harts ≤ hart ∨ bytes.isEmpty then .next s
  else match State.blockOf ia, inAperture ia with
    | some (.queue c o), true =>
      if o < 0xF00 then
        (if bytes.length = 64 ∧ o % 64 = 0 then .next ((breakSequence s hart c o 64).hostPost hart c bytes)
         else if bytes.length = 8 ∧ o % 8 = 0 then execPostSequenceStore hart c o (BitVec.ofNat 64 (leNat bytes)) s
         else .next ((breakSequence s hart c o bytes.length).answer hart [] true))
      else .next (match s.hostWrite ia bytes with
        | some (s, w) => s.emit (.ack hart w)
        | none => s.answer hart [] true)
    | _, _ => .next (match s.hostWrite ia bytes with
      | some (s', w) => s.hostStored s' hart ia bytes.length w
      | none => s.refuseHost hart ia bytes.length)

/-- HOST_AMO (R176). -/
def execHostAmo (hart ia size : Nat) (op : AmoOp) (value : W64) (s : State) : Host.Outcome State Fault Refusal :=
  .next (if State.harts ≤ hart then s
    else if (size ≠ 4 ∧ size ≠ 8) ∨ ia % size ≠ 0 then s.answer hart [] true
    else match s.outsideAmo ia size op value.toNat with
      | some (old, s, w) =>
        let s := s.answer hart (leBytes size old) false
        if inModule ia then s.emit (.ack hart (w + 8)) else s
      | none => s.refuseHost hart ia size)

/-- HOST_LR (R176): the home's value, and a reservation of the hart on the line. -/
def execHostLr (hart ia size : Nat) (s : State) : Host.Outcome State Fault Refusal :=
  .next (if State.harts ≤ hart then s
    else if !(inModule ia) || decide ((size ≠ 4 ∧ size ≠ 8) ∨ ia % size ≠ 0) then s.answer hart [] true
    else match s.hostRead ia size with
      | none => s.refuseHost hart ia size
      | some (bs, s) =>
        let s := s.enterLines hart ia size
        let s : State := { s with pkg := { s.pkg with reserved := (hart, lineOf ia) :: s.pkg.reserved.filter fun r => r.1 != hart } }
        s.answer hart bs false)

/-- HOST_SC (R176): performed only while the reservation stands; the answer's byte is 0 for success. -/
def execHostSc (hart ia : Nat) (bytes : List Byte) (s : State) : Host.Outcome State Fault Refusal :=
  .next (if State.harts ≤ hart then s
    else if !(inModule ia) || decide ((bytes.length ≠ 4 ∧ bytes.length ≠ 8) ∨ ia % bytes.length ≠ 0) then s.answer hart [] true
    else if !(s.pkg.reserved.contains (hart, lineOf ia)) then s.answer hart [1] false
    else match s.hostWrite ia bytes with
      | some (s', w) => (s.hostStored s' hart ia bytes.length w).answer hart [0] false
      | none => s.refuseHost hart ia bytes.length)

/-! ### Inbound windows (R426, R431) -/

/-- The landing address of n bytes at a bus address or offset in a set of windows; none where no window matches or it lacks the
permission. ROR, LMAX and EX are ignored. -/
def landing (wins : List (W64 × W64 × W64)) (at' n : Nat) (need : Need) : Option Nat :=
  let plain := wins.map fun w => (w.1, w.2.1, w.2.2 &&& ~~~(maskBits 11 9))
  match rangeOf plain at' with
  | none => none
  | some w => if rangePermits w need && decide (at' + n ≤ rangeTop w) then some (rangeBase w + (at' - rangeLow w)) else none

namespace State

/-- The DMA range registers, and a port's inbound windows. -/
def dmaWindows (s : State) : List (W64 × W64 × W64) := (List.range 8).map fun n => assocGet (0, 0, 0) n s.pkg.dmaWin
def portWindows (s : State) (p : Nat) : List (W64 × W64 × W64) := (List.range 4).map fun n => assocGet (0, 0, 0) (p, n) s.pkg.ewWin

/-! ### The Logline's part (R446, R447) -/

/-- Ranges of a context map one of n bytes at an intermediate address. -/
def contextMaps (s : State) (ctx ia n : Nat) : Bool :=
  match s.ctx ctx with
  | none => false
  | some c => c.ranges.any fun r => r.2.2.getLsbD 0 && decide (rangeBase r < ia + n ∧ ia < rangeBase r + (rangeTop r - rangeLow r))

/-- Record an inbound write for every context that records and maps it. -/
def logInbound (s : State) (ia : Nat) (bs : List Byte) : State :=
  (List.range Config.contexts).foldl (fun s n => if s.recording n && s.contextMaps n ia bs.length then
    s.logAppend n 5 (s.chrono (dieUnit 0)) ⟨0, 0, 0⟩ 0 (leBytes 8 ia ++ leBytes 8 bs.length ++ bs) else s) s

/-- A replaying context maps a byte of the write: it comes from its log. -/
def replayedWrite (s : State) (ia n : Nat) : Bool := (List.range Config.contexts).any fun c => s.replaying c && s.contextMaps c ia n

/-- The first entry of a log that a replay has not used: its unit, kind and payload. -/
def logOldest (s : State) (c : Context) : (fuel unit : Nat) → Option (Nat × Nat × List Byte)
  | 0, _ => none
  | fuel + 1, unit =>
    if logUnits c ≤ unit then none
    else
      let h := s.logRead (logAt c unit) 16
      let k := leNat ((h.drop 8).take 2)
      let n := leNat ((h.drop 10).take 2)
      if k = 0 then none
      else if c.replayed.contains unit then logOldest s c fuel (unit + 1 + n)
      else some (unit, k, s.logRead (logAt c (unit + 1)) (16 * n))

/-- The recorded inbound write that a replaying context's order of events has reached. -/
def inboundDue (s : State) (ctx : Nat) : Option (Nat × Nat × List Byte) :=
  if !(s.replaying ctx) then none
  else (s.ctx ctx).bind fun c => (s.logOldest c (logUnits c) 0).bind fun e =>
    if e.2.1 = 5 then some (e.1, fieldAt e.2.2 0 8, (e.2.2.drop 16).take (fieldAt e.2.2 8 8)) else none

/-- Make the recorded inbound write. -/
def replayInbound (s : State) (ctx : Nat) : State :=
  match s.inboundDue ctx with
  | none => s
  | some (unit, ia, bs) =>
    let s := s.updCtx ctx fun k => { k with replayed := unit :: k.replayed }
    match s.hostWrite ia bs with
    | some r => r.1
    | none => s

/-- An inbound access that has landed: its data, the state and W, or none for an error. In the aperture it reaches the blocks that a
device thread reaches, and not those that only the application cores do (R413, R445). -/
def inbound (s : State) (ia : Nat) (a : Inbound) : Option (List Byte × State × Nat) :=
  match a with
  | .read n => match s.deviceRead ia n with
    | .ok (bs, s) => some (bs, s, 0)
    | .error _ => none
  | .write bs =>
    if s.replayedWrite ia bs.length then some ([], s, 0)
    else match s.deviceWrite ia bs with
      | .ok (s', w) => some ([], s'.logInbound ia bs, w)
      | .error _ => none
  | .atomic n op v => (s.outsideAmo ia n op v.toNat).map fun r => (leBytes n r.1, r.2)
  | .device t aop rnd b c =>
    (s.outsideAtomic ia t.bytes (fun old => (atomicNew t aop rnd old (typeBits t b) (typeBits t c)).bits) (aop, t) (typeBits t b) (typeBits t c)).map
      fun r => (leBytes t.bytes r.1, r.2)

end State

/-- The bytes of an inbound access, and what it needs. -/
def inboundSize : Inbound → Nat
  | .read n => n
  | .write bs => bs.length
  | .atomic n _ _ => n
  | .device t _ _ _ _ => t.bytes

/-- The supervisor is told of a malformed entry that an inbound access met (R127). -/
def refuseInbound (s : State) (ia : Nat) (a : Inbound) : State := s.reportMalformed 0 ia (inboundSize a)

def inboundNeed : Inbound → Need
  | .read _ => .read
  | .write _ => .write
  | .atomic _ _ _ | .device _ _ _ _ _ => .atomic

/-- DMA_INBOUND (R426): a request that matches no range is unsupported. -/
def execDmaInbound (bus : Nat) (access : Inbound) (s : State) : Host.Outcome State Fault Refusal :=
  .next (match landing s.dmaWindows bus (inboundSize access) (inboundNeed access) with
    | none => s.emit (.dma [] true)
    | some ia => match s.inbound ia access with
      | some (bs, s, _) => s.emit (.dma bs false)
      | none => (refuseInbound s ia access).emit (.dma [] true))

/-- EWERLINK_INBOUND (R431): an access that matches no window, or lacks a permission, is refused. The acknowledgement of a store or atomic
to module memory is held until the home's CHRONO reaches W + 8 (R175, R177). -/
def execEwerlinkInbound (port offset : Nat) (access : Inbound) (s : State) : Host.Outcome State Fault Refusal :=
  .next (if !(s.pkg.ewUp.getD port false) then s
    else match landing (s.portWindows port) offset (inboundSize access) (inboundNeed access) with
      | none => s.emit (.ewerlink port [] true)
      | some ia => match s.inbound ia access with
        | some (bs, s, w) =>
          let s := if bs.isEmpty then s else s.emit (.ewerlink port bs false)
          if inboundNeed access = .read then s else s.emit (.ewerlinkAck port (if inModule ia then w + 8 else w))
        | none => (refuseInbound s ia access).emit (.ewerlink port [] true))

/-! ### Links (R431, R434) -/

/-- EWERLINK_DOWN (R434): every context with an access outstanding over the port, on its way or with its answer on the way back, becomes
dead, and the accesses are over; so with a command whose writes over the port await their acknowledgement. -/
def execEwerlinkDown (port : Nat) (s : State) : Host.Outcome State Fault Refusal :=
  .next (let out := fun (r : Request) => r.route == .remote && State.portOf r.ia == port && (match r.stage with | .travelling | .performed | .refused _ => true | _ => false)
    let awaits := fun (c : Cmd) => c.remote.any fun p => p.1 == port && decide (s.clk.cycle < p.2)
    let lost := ((s.mem.requests.filter out).map (fun r => (r.ctx, r.core)) ++ (s.mem.cmds.filter awaits).map fun c => (c.ctx, c.core)).eraseDups
    let s : State := { s with pkg := { s.pkg with ewUp := modifyAt (fun _ => false) port s.pkg.ewUp }
                              mem := { s.mem with requests := s.mem.requests.filter (fun r => !(out r)), cmds := s.mem.cmds.filter fun c => !(awaits c) } }
    lost.foldl (fun s p => if s.ctxDead p.1 then s else s.killContext p.1 Cause.uncorrected 0 p.2) s)

/-- EWERLINK_LINK_UP (R431). -/
def execEwerlinkLinkUp (port : Nat) (s : State) : Host.Outcome State Fault Refusal :=
  .next { s with pkg := { s.pkg with ewUp := modifyAt (fun _ => true) port s.pkg.ewUp } }

end Sys2Proof.Machine
end

