-- ==== Sys2Proof/Machine/Failures.lean ====
section
/-! DEFINITION. Soft errors, the failure of a compute die, and broken barriers (spec/18_traps.md R349 to R351). -/

namespace Sys2Proof.Machine

namespace State

/-! ### Broken barriers (R351) -/

/-- The threads of a list that sit in one group, group by group. -/
def byGroup (s : State) (ts : List TRef) : List (List Thread) :=
  let hs := ts.filterMap s.thread
  ((hs.map Thread.gref).eraseDups).map fun g => hs.filter fun h => h.gref == g

/-- A barrier breaks: its waiting threads trap, with one event for each group, and each later arrival will. -/
def breakBarrier (s : State) (ctx n : Nat) (b : Barrier) (survivor : Nat) : State :=
  let s := s.updBarrier ctx n fun k => { k with broken := true, arr := 0, pend := 0, bwmax := 0, waiters := [], die := survivor }
  let s := s.faultRecord .broken ctx (s.faultBytes .broken Cause.barrierBroken ctx 0 0 ⟨survivor, 0, 0⟩ 0 0 0)
  (s.byGroup b.waiters).foldl (fun s hs => s.trapThreads (hs.map fun h => (h.ref, h.pc)) (brokenTrap n b.sstep ((hs.head?.map (·.lane)).getD 0))) s

/-- Commands of a die count in no barrier any more. -/
def uncountCommands (s : State) (d : Nat) : State :=
  (s.mem.cmds.filter fun c => c.core.die == d).foldl (fun s c => s.pendDone c c.counted 0) s

/-! ### A die fails (R350) -/

/-- A team has a part on a die. -/
def hasPart (tm : Team) (d : Nat) : Bool := tm.parts.any fun p => p.core.die == d

/-- What was in flight on a failed die is gone. -/
def clearDie (s : State) (d : Nat) : State :=
  let here := fun (t : TRef) => t.core.die == d
  { s with
    mem := { s.mem with
      requests := s.mem.requests.filter fun r => r.core.die != d
      walks := s.mem.walks.filter fun w => w.core.die != d
      parked := s.mem.parked.filter fun p => !(p.threads.any here)
      results := s.mem.results.filter fun r => !((r.counted.any here) || r.lanes.any fun l => here l.t)
      cmds := s.mem.cmds.filter fun c => c.core.die != d
      flits := s.mem.flits.filter fun f => f.sender.die != d && f.dest.die != d
      arrivals := s.mem.arrivals.filter fun a => a.group.core.die != d }
    tile := { s.tile with
      slots := s.tile.slots.filter fun t => t.die != d
      uses := s.tile.uses.filter fun u => u.die != d
      ops := s.tile.ops.filter fun o => o.die != d
      maccs := s.tile.maccs.filter fun o => o.die != d
      engines := mapIf (fun e => e.die == d) (fun e => { e with granted := none }) s.tile.engines }
    render := modifyAt (fun r => { r with blocks := [], binning := [], gathers := [] }) d s.render
    pkg := { s.pkg with stewards := modifyAt (fun w => { w with rt := [], other := [] }) d s.pkg.stewards
                        dieFailed := d :: s.pkg.dieFailed } }

/-- Threads that a failed die has ended, on the other die too, are no longer waited for: what they have sent is performed and answered
to none, what they have not sent and what they are parked for is dropped (DEDUCED, assumption 81). -/
def disown (s : State) (gone : TRef → Bool) : State :=
  let nobody := fun (t : TRef) => if gone t then { t with slot := t.slot + Config.bankThreads } else t
  let cut := fun (r : Request) => match r.stage with
    | .travelling | .performed => { r with parts := r.parts.map fun p => { p with t := nobody p.t } }
    | _ => { r with parts := r.parts.filter fun p => !(gone p.t) }
  let parked := s.mem.parked.map fun p => { p with threads := p.threads.filter fun t => !(gone t) }
  { s with mem := { s.mem with requests := (s.mem.requests.filter fun r => r.parts.isEmpty || !(cut r).parts.isEmpty).map cut
                               parked := parked.filter fun p => !p.threads.isEmpty } }

/-- The barriers of package or system scope that have parties on a die, with their contexts. -/
def wideBarriers (s : State) (lost : List Nat) : List (Nat × Nat × Barrier) :=
  (List.range Config.contexts).flatMap fun c => (((s.ctx c).map (·.barriers)).getD []).filterMap fun p =>
    let wide := match p.2.scope with | .package | .system => true | _ => false
    if wide && decide (0 < p.2.p) && !p.2.broken && (p.2.teams.any fun t => lost.contains t) then some (c, p.1, p.2) else none

/-- A compute die fails (DEDUCED, assumption 81). -/
def failDie (s : State) (d : Nat) : State :=
  if !(s.dieOk d) then s
  else
    let dead := s.teams.filter fun t => hasPart t d
    let lost := dead.map (·.id)
    let told := (dead.map (·.ctx)).eraseDups
    let s := told.foldl (fun s c => s.faultRecord .dieFail c (s.faultBytes .dieFail Cause.uncorrected c 0 0 ⟨d, 0, 0⟩ 0 0 0)) s
    let wide := s.wideBarriers lost
    let done := wide.filter fun w => s.barrierDone w.2.2
    let broken := wide.filter fun w => !(s.barrierDone w.2.2)
    let s := done.foldl (fun s w => (s.updBarrier w.1 w.2.1 Barrier.complete).wake w.2.2.waiters) s
    let s := ((s.threads.filter fun h => lost.contains h.team && !h.exited).foldl (fun s h => s.departBarriers h) s).uncountCommands d
    let gone := (s.threads.filter fun h => lost.contains h.team).map (·.ref)
    let s := dead.foldl (fun s t => s.endTeam t .faulted true) s
    let s := (s.clearDie d).disown fun t => gone.contains t
    let s : State := { s with cores := s.cores.map fun k => { k with receives := k.receives.filter fun r => r.threads.any fun t => (s.thread t).isSome } }
    let s := broken.foldl (fun s w => s.breakBarrier w.1 w.2.1 w.2.2 (1 - d)) s
    (s.ceaseGroups).settle

end State

/-- DIE_FAIL (R350, R351). -/
def execDieFail (die : Nat) (s : State) : Host.Outcome State Fault Refusal := .next (s.failDie die)

/-! ### Soft errors (R349) -/

/-- An address of module memory or of a Silt, rounded to its line, is marked. -/
def poisonLine (s : State) (a : Nat) : State := { s with mem := { s.mem with poisoned := lineOf a :: s.mem.poisoned.filter (· != lineOf a) } }

/-- SOFT_ERROR (R349): a corrected error is reported; an uncorrected one acts by where it lies (DESIGN CHOICE, assumption 82). There is no
uncorrected error in an accumulator bank, a constant-cache line or a FIFO entry, for which R349 names no outcome (DESIGN CHOICE,
assumption 90). -/
def execSoftError (e : SoftError) (s : State) : Host.Outcome State Fault Refusal :=
  .next (match e with
    | .corrected ctx => s.faultRecord .corrected ctx (s.faultBytes .corrected 0 ctx 0 0 ⟨0, 0, 0⟩ 0 0 0)
    | .bank ctx => if s.ctxDead ctx then s else s.killContext ctx Cause.uncorrected 0 ⟨0, 0, 0⟩
    | .line a => poisonLine s a
    | .l1Line c ctx line => s.updCore c fun k => { k with l1 := mapIf (fun l => l.ctx == ctx && l.line == lineOf line) (fun l => { l with poison := true }) k.l1 }
    | .plotLine p line => match s.plot p with
      | some q => if 128 * line < q.size then { s with mem := { s.mem with plotPoison := (p, line) :: s.mem.plotPoison.filter (· != (p, line)) } } else s
      | none => s
    | .tileLine d site slot line =>
      if (s.tileSlot d site slot).isNone ∨ 128 ≤ line then s
      else { s with mem := { s.mem with tilePoison := (d, site, slot, line) :: s.mem.tilePoison.filter (· != (d, site, slot, line)) } }
    | .die d => s.failDie d)

end Sys2Proof.Machine
end

