-- ==== Sys2Proof/Machine/Clockwork.lean ====
section
/-! DEFINITION. What makes each happening of the machine come in its turn: due timers, what follows at once from the state, the
issue of a chosen group, what the outside world does, and the end of a cycle and of a tick (spec/03_execution.md R37, R52, R55, R61;
spec/05_scheduling.md R72 to R87; spec/10_consistency.md R182; spec/16_isa_control.md R328; spec/18_traps.md R332, R346, R353;
spec/24_fabric.md R434; DESIGN CHOICE, assumption 4). Step.lean only calls these. -/

namespace Sys2Proof.Machine

/-! ### Due timers -/

/-- Among what is due, a sweep boundary comes first, so that it sees registers as before a write of its tick (R87, R434), and loads are
performed at their homes after everything else of their cycle (R182). -/
def timerKey (t : Nat × Instr) : Nat := match t.2 with
  | .sweepBoundary => 4 * t.1
  | .homeLoad _ => 4 * t.1 + 2
  | _ => 4 * t.1 + 1

/-- What happens after the issues of its cycle: a store acknowledgement, which a hit of the cycle does not see (R182), and the writes of
supervisor registers, which an access of the cycle does not (R328). -/
def lateTimer (s : State) (i : Instr) : Bool := match i with
  | .storeAck _ => true
  | .longLatencyResult r => s.mem.results.any fun k => k.id == r && !k.sups.isEmpty
  | _ => false

/-- The happening that comes next among those that are due, with its place in the list; before the issues of the cycle are chosen, not
those that come after them. -/
def dueTimer (s : State) (early : Bool) : Option (Nat × Instr) :=
  let due := s.clk.timers.zipIdx.filter fun p => decide (p.1.1 ≤ s.clk.cycle) && !(early && lateTimer s p.1.2)
  (leastBy (fun (p : (Nat × Instr) × Nat) => timerKey p.1) due).map fun p => (p.2, p.1.2)

/-- Take a timer away. -/
def dropTimer (s : State) (k : Nat) : State := { s with clk := { s.clk with timers := s.clk.timers.eraseIdx k } }

/-! ### What goes on without an instruction of its own -/

/-- A thread whose end waited for its accesses, which are done now (R311). -/
def dyingThread (s : State) : Option (TRef × Ending) :=
  s.threads.findSome? fun t => t.dying.bind fun how => if t.exited || s.outstanding t.ref then none else some (t.ref, how)

/-- An engine command can begin or go on. -/
def commandMoves (s : State) : Bool := s.mem.cmds.any fun c => match c.blocked with
  | some ia => s.pageThere ia
  | none => !c.begun && !(s.cmdHeld c)

/-- A recorded inbound write that a replaying context has reached (R447). -/
def replayDue (s : State) : Option Nat := (List.range Config.contexts).find? fun n => (s.inboundDue n).isSome

/-- The next of these. -/
def housekeeping (s : State) : Option State :=
  match dyingThread s with
  | some (t, how) => some (match how, s.thread t with
    | .normal, some h => ((s.exitNow t how).delayIssue h.gref 0).settle
    | _, _ => (s.exitNow t how).settle)
  | none => match fetchWalks s with
    | (g, pc, ia, ts) :: _ => some (s.walkFetch g pc ia ts)
    | [] =>
      if commandMoves s then some s.beginCommands
      else (replayDue s).map s.replayInbound

/-! ### Happenings whose condition holds -/

/-- Tile slots that have drained (R357), TTAKEs that can be granted (R365), operations that an entry has come free for (R371). -/
def tileRules (s : State) : List Instr :=
  ((s.tile.slots.filter fun t => t.drains && t.uses.isEmpty).map fun t => .tileSlotDrain t.die t.site t.slot) ++
  ((s.threads.filter fun t => (takeable s t.ref).isSome).map fun t => .ttakeGrant t.ref) ++
  ((s.tile.ops.filter fun o => o.entry.isNone && decide (o.voted + 8 ≤ s.clk.cycle) && (s.freeEntry o.die o.site o.ctx).isSome).map fun o => .mmaAccept o.id)

/-- Fences, barriers and stages (R165, R174, R56). -/
def orderRules (s : State) : List Instr :=
  (s.threads.filterMap fun t => match t.fence, s.team t.team with
    | some scope, some tm => if fenceDone s tm t scope then some (.fenceComplete t.ref) else none
    | _, _ => none) ++
  (s.ctxs.zipIdx.flatMap fun c => (c.1.barriers.filter fun b => s.barrierDone b.2).map fun b => .barrierComplete c.2 b.1) ++
  (s.teams.flatMap fun tm => (List.range tm.rings.length).flatMap fun r =>
    ([false, true].filter fun consume => (s.grantable tm.id r consume).isSome).map fun consume => .stageAcquireGrant tm.id r consume)

/-- A retirement that a full credit table holds can take effect (R70). -/
def retires (c : Context) : Bool := match c.retiring with
  | _ :: _ => decide (c.credits.length < Config.creditEntries)
  | [] => false

/-- Retirements, waiting fault records, and drains (R70, R334, R348). -/
def contextRules (s : State) : List Instr :=
  s.ctxs.zipIdx.flatMap fun c =>
    (if retires c.1 then [.creditRetire c.2] else []) ++
    (if !c.1.frWait.isEmpty && !(State.ringFull c.1) then [.deferredFaultRecord c.2] else []) ++
    (if s.ctxDrain c.2 && !(tagged s c.2) then [.drainComplete c.2] else [])

/-- Passes (R81). -/
def engineRules (s : State) : List Instr :=
  ((s.tile.ops.map fun o => (o.die, o.site)).eraseDups.filter fun p =>
    (s.engineOf p.1 p.2).granted.isNone && (s.nextPass p.1 p.2).isSome).map fun p => .tilePassGrant p.1 p.2

/-- Draws and reforms (R43, R47). -/
def sieveRules (s : State) : List Instr :=
  (s.cores.filterMap fun k => (s.nextDraw k.id).map fun d => if d.2.1 = 4 then .binAgeLimit k.id d.1.ctx d.1.index else .sieveDraw k.id) ++
  ((s.groups.filter fun g => decide (4096 ≤ g.counter)).map fun g => .automaticReform g.ref)

/-- A post of a context would be accepted or rejected for good: its queue has room, or it is not enabled. -/
def postMoves (s : State) (ctx : Nat) : Bool :=
  !(s.ctxEn ctx) || decide ((((s.ctx ctx).map fun c => c.queue.length).getD 0) < Config.queueDepth)

/-- The Sextant of a die (R384 to R396). -/
def sextantRules (s : State) (d : Nat) : List Instr :=
  match s.drawOf d with
  | none => []
  | some (_, b) =>
    let go := s.unblocked b
    (if go && b.phase == .waiting then [.sextantDrawStart d] else []) ++
    (if go && (b.phase == .priorities || (b.phase == .policy && postMoves s b.ctx)) then [.policyRecordRepost d] else []) ++
    (if b.phase == .ready then [.selectionStart d] else []) ++
    (if (s.positionDue d).isSome then [.positionDraw d] else []) ++
    (if (State.unresolved b).isEmpty then [] else [.probeResolve d]) ++
    (match b.waves with
     | [] => if go && b.phase == .posting then [.wavePost d] else []
     | w :: _ =>
       let able := if w.written then postMoves s b.ctx && s.drawAcked b else w.samples.all fun p => p.found.isSome
       if go && able then [.wavePost d] else [])

/-- The render side (R384 to R406). -/
def renderRules (s : State) : List Instr :=
  (List.range Config.dies).flatMap fun d =>
    sextantRules s d ++ (if (s.opens d).isSome || (s.gatherDue d).isSome then [.kilnGather d] else [])

/-- The next happening whose condition holds now. -/
def ruleDue (s : State) : Option Instr :=
  (tileRules s ++ orderRules s ++ contextRules s ++ engineRules s ++ sieveRules s ++ renderRules s).head?

/-! ### The issue of a chosen group (R37, R77) -/

/-- An instruction that had to wait has left everything as it was: nothing begun, no thread moved. -/
def movedOn (g : GRef) (act : List Thread) (s t : State) : Bool :=
  t.clk.nextId != s.clk.nextId || t.clk.free != s.clk.free || t.clk.timers.length != s.clk.timers.length ||
  t.mem.arrivals.length != s.mem.arrivals.length || ((t.group g).map (·.ready)) != ((s.group g).map (·.ready)) ||
  act.any fun h => match t.thread h.ref with
    | none => true
    | some k => k.pc != h.pc || k.status != h.status || k.dying != h.dying || k.fence != h.fence || k.handler != h.handler

/-- No group issues. -/
def endIssue (s : State) : State := { s with clk := { s.clk with issue := none } }

/-- After the meaning of an instruction: what its issue leaves behind, unless it had to wait. -/
def settleIssue (g : Group) (act : List Thread) (before after : State) : State :=
  if movedOn g.ref act before after then after.afterIssue g act (before.waiters g.ref act) else endIssue after

/-- A group whose fetch or decode traps it (R204). -/
def trapIssue (s : State) (t : Trap) : State := endIssue (s.trapGroup t).ceaseGroups.settle

/-- The group whose issue is next in the cycle, if it can still issue: with its threads and what its fetch gives. -/
def issueNext (s : State) (g : GRef) : Option (Group × List Thread × Fetched) :=
  let k := s.core g.core
  if !(bankIssues s k) || k.active != some g.ctx then none
  else (s.group g).bind fun gr => (nextOf s k gr).map fun r => (gr, r.1, r.2)

/-- The group issues an instruction of n words, fetched for these threads: it leaves the list of the cycle, its fetch is noted, and
predicates in open lookahead windows take the value that this instruction reads. -/
def beginIssue (s : State) (g : GRef) (rest : List GRef) (act : List Thread) (n : Nat) : State :=
  let s : State := { s with clk := { s.clk with chosen := some rest, issue := some g } }
  let s := s.updThreads (act.map (·.ref)) fun t => t.freePreds s.clk.cycle s.clk.free
  match act with
  | [] => s
  | h :: _ => s.noteFetch g h.pc.toNat n

/-- What the first group of the cycle's list issues, if it is an instruction: the group and its threads. -/
def issuing (s : State) (g : GRef) : Option (Group × List Thread × Instr) :=
  (issueNext s g).bind fun r => match r.2.2 with
    | .instr i => some (r.1, r.2.1, i)
    | _ => none

/-- What becomes of a chosen group that issues no instruction. -/
def failIssue (s : State) (g : GRef) (rest : List GRef) : State :=
  match issueNext s g with
  | some (_, act, f) =>
    let s' := beginIssue s g rest act 1
    (match f with
     | .trap t => trapIssue s' t
     | .refused cause ia =>
       let pc := ((act.head?).map (·.pc)).getD 0
       endIssue (s'.parkThreads (act.map (·.ref)) pc 0 (((act.head?).map (·.handler)).getD false) (fun _ => (pc.toNat, ia)) cause true).settle
     | .spoilt pa => endIssue (s'.killContext g.ctx Cause.uncorrected pa g.core)
     | _ => endIssue s')
  | none => endIssue (beginIssue s g rest [] 1)

/-- The number in the order of the cycle of what a chosen group issues. -/
def issueTurn (s : State) (g : GRef) : Nat := match issueNext s g with
  | some (gr, _, f) => issueKey s gr f
  | none => 0

/-! ### The end of a cycle -/

/-- Push happenings for a cycle. -/
def pushAt (s : State) (cycle : Nat) (is : List Instr) : State :=
  { s with clk := { s.clk with timers := s.clk.timers ++ is.map fun i => (cycle, i) } }

/-- The sets of every core at the end of a cycle (R78, R312), and the displacements that follow, one of a core in a cycle
(DESIGN CHOICE, assumption 108). -/
def turnSets (s : State) : State :=
  let s' : State := { s with cores := s.cores.map fun k => movePositions s (notePending s k), groups := s.groups.map fun g => { g with yields := false } }
  pushAt s' s'.clk.cycle ((s'.cores.filter fun k => displaces s' k).map fun k => .activeSetDisplace k.id)

/-- Each watchdog counts the tick, or rests at 0 (R346). -/
def countWatchdogs (s : State) : State :=
  { s with ctxs := s.ctxs.zipIdx.map fun c => { c.1 with watchdog := if watchdogRests s c.2 then 0 else c.1.watchdog + 1 } }

/-- A new tick begins: refills (R84). -/
def beginTick (s : State) : State := pushAt (countWatchdogs s) s.clk.cycle [.permitRefill 0, .permitRefill 1]

/-- The next cycle begins: groups whose last filings are over cease (R49), cancelled threads that wait, the ends of throttle windows, and what a new tick brings. -/
def beginCycle (s : State) : State :=
  let t := s.tick
  let s : State := { s with clk := { s.clk with cycle := s.clk.cycle + 1, chosen := none } }
  let s := s.ceaseGroups
  let s := pushAt s s.clk.cycle ((s.threads.filter fun t => cancelledWaiter s t).map fun t => .waitingCancelExit t.ref)
  let s := if s.clk.cycle % 4096 = 0 then pushAt s s.clk.cycle (s.cores.map fun k => .throttleWindowEnd k.id) else s
  if s.tick = t then s else beginTick s

/-- The cycle is the last of its tick. -/
def tickEnds (s : State) : Bool := Config.tickOf (s.clk.cycle + 1) != s.tick

/-- Each die's Pilot at the end of a tick (R72, R434), after its cancellations (R87). A bridge team takes die 0's turn of the tick, and
leaves die 1 its own (DESIGN CHOICE, assumption 106). -/
def closeTick (s : State) : State :=
  pushAt { s with clk := { s.clk with lastTick := s.tick } } s.clk.cycle [.pilotDequeue 0, .teamPlace 0, .pilotDequeue 1, .teamPlace 1]

/-- What comes last in a tick: the permits of its requests (R85), and watchdogs that have run out and that no issue of the tick has
restarted (R346, R353). -/
def tickRules (s : State) : List Instr :=
  (((List.range Config.dies).filter fun d => ((s.steward d).map fun w => w.grant.isSome || decide (0 < w.uncounted)).getD false).map fun d => .permitGrant d) ++
  ((s.ctxs.zipIdx.filter fun c => decide (watchdogTicks s ≤ c.1.watchdog) && !(watchdogRests s c.2) && !(s.ctxDead c.2)).map fun c => .watchdogExpiry c.2)

/-! ### What comes next -/

/-- What a step does: a happening in a state, a change without one, or the issue of the first chosen group. -/
inductive Turn where
  | run (i : Instr) (s : State)
  | go (s : State)
  | issue (g : GRef) (rest : List GRef)

/-- A happening that is due. -/
def timerTurn (s : State) (early : Bool) : Option Turn := (dueTimer s early).map fun p => .run p.2 (dropTimer s p.1)

/-- What follows from the state. -/
def ruleTurn (s : State) : Option Turn := match housekeeping s with
  | some t => some (.go t)
  | none => (ruleDue s).map fun i => .run i s

/-- What the outside world does. -/
def agendaTurn (s : State) : Option Turn := match s.clk.agenda with
  | i :: is => some (.run i { s with clk := { s.clk with agenda := is } })
  | [] => none

/-- The Pilots' dequeues and placements. -/
def closingTurn (s : State) : Option Turn := if tickEnds s && s.clk.lastTick != s.tick then some (.go (closeTick s)) else none

/-- What comes before the issue of a group: an event at a holding core that precedes it (R52, R55), or all that a group sees which issues
last in its cycle (R328, R153). -/
def beforeIssue (s : State) (g : GRef) : Option Turn :=
  let late := match agendaTurn s with
    | some t => some t
    | none => match closingTurn s with
      | some t => some t
      | none => timerTurn s false
  match s.nextArrival, late with
  | none, none => none
  | a, late =>
    let key := issueTurn s g
    match a.filter fun a => decide (s.arrivalKey a < key) with
    | some a => some (.go (s.arrives a))
    | none => if 2 ^ 23 ≤ key then late else none

/-- What follows the issues of a cycle. -/
def afterIssues (s : State) : Turn :=
  match timerTurn s false with
  | some t => t
  | none => match ruleTurn s with
    | some t => t
    | none => match s.nextArrival with
      | some a => .go (s.arrives a)
      | none => match agendaTurn s with
        | some t => t
        | none => match closingTurn s with
          | some t => t
          | none => match (if tickEnds s then tickRules s else []) with
            | i :: _ => .run i s
            | [] => .go (beginCycle (turnSets s))

/-- What precedes the choice of a cycle's issues, or the choice. -/
def beforeChoice (s : State) : Turn :=
  match timerTurn s true with
  | some t => t
  | none => match ruleTurn s with
    | some t => t
    | none => .go s.choose

/-- What comes next. -/
def nextTurn (s : State) : Turn :=
  match s.clk.chosen with
  | none => beforeChoice s
  | some [] => afterIssues s
  | some (g :: rest) => match beforeIssue s g with
    | some t => t
    | none => .issue g rest

/-! ### A launched team, for a first instruction (R35) -/

/-- The core that State.withFetchWord launches its team on, and the group of its one thread. -/
def firstCore : CoreId := ⟨0, 0, 0⟩
def firstGroup : GRef := ⟨firstCore, 0, 0⟩

/-- A kernel header of one thread with 256 registers, its code at virtual address 0. -/
def firstHeader : Header :=
  { entry := 0, width := 16, shape := 0, place := 0, vregs := 256, tsize := 1, plot := 0, tiles := 0, privw := 0, handler := 0, wins := List.replicate 8 0xFFF }

def firstPart : Part := ⟨firstCore, 0, 1, [0]⟩

/-- A team of one thread, numbered n, of the run n + 1. -/
def firstTeam (n : Nat) : Team :=
  { id := n, ctx := 0, run := n + 1, number := 0, prio := 1, payload := 0, header := firstHeader, parts := [firstPart]
    cancel := false, sieveAge := 0x0800, cvgs := List.replicate 16 State.idleCvg, tregs := List.replicate 64 0, rings := List.replicate 8 ⟨[], 0, 0, [], []⟩
    windows := List.replicate 8 none, handles := [], handles1 := [], policy := none, ended := none }

/-- The run that it is the one team of. -/
def firstRun (n : Nat) : Run :=
  let r : Record := { seq := n + 2, node := 0, payload := 0, deadline := 0, prio := 1, cgroup := 0, dep := 0, tag := 0, succ := 0, tcount := 1, tbase := 0
                      hint := 0, hdie := 0, hcluster := 0, header := firstHeader, raw := [], poster := .program, marked := false }
  { id := n + 1, ctx := 0, record := r, placed := 1, ended := 0, result := .normal, cancel := false, lastSite := some 0, entry := none }

/-- Context 0 enabled and a supervisor context, as the boot image leaves it, its first 64 KiB mapped at intermediate address 0 with
every permission (R121, R320, R440). -/
def firstContext (c : Context) : Context := { c with ctl := 3, stalled := false, ranges := (0, 0x10000#64, 0x1F#64) :: c.ranges.drop 1 }

/-- The launched group in position 0 of its core's active set, and its page in the presence cache (R78, R129). -/
def firstCoreState (now : Nat) (k : Core) : Core :=
  { k with active := some 0, swap := none, positions := k.positions.set 0 (some (0, now)), pages := ⟨0, 2 ^ 16, 15, 0⟩ :: k.pages }

/-- A machine in which a team of one thread has been launched for code at virtual address 0 of context 0, and its group has
been chosen to issue. -/
def launchFirst (s : State) (code : List Byte) : State :=
  let n := s.clk.nextId
  let tm := firstTeam n
  let others := fun (g : GRef) => g != firstGroup
  let s : State := { s with
    clk := { s.clk with agenda := [], issue := none, chosen := some [firstGroup], slots := [(firstGroup, 0)], nextId := n + 3 }
    mem := { s.mem with arrivals := [] }
    pkg := { s.pkg with bootErr := false }
    ctxs := modifyAt firstContext 0 s.ctxs
    threads := State.newThread tm firstPart 0 0 :: s.threads.filter fun t => t.ref != ⟨firstCore, 0, 0⟩ && others t.gref
    groups := ⟨firstGroup, n, 0, none, 0, [], false⟩ :: s.groups.filter fun g => others g.ref
    teams := tm :: s.teams
    runs := firstRun n :: s.runs }
  (s.updCore firstCore (firstCoreState s.clk.cycle)).writeMem 0 code

end Sys2Proof.Machine
end

