-- ==== Sys2Proof/Machine/Dispatch.lean ====
section
/-! DEFINITION. The meaning of every constructor of Instr: one arm, one call. -/

namespace Sys2Proof.Machine

def exec (i : Instr) (s : State) : Host.Outcome State Fault Refusal :=
  match i with
  | .iaddBase d a b => Sys2Proof.Machine.execIaddBase d a b s
  | .iaddExtended x => Sys2Proof.Machine.execIaddExtended x s
  | .isubBase d a b => Sys2Proof.Machine.execIsubBase d a b s
  | .isubExtended x => Sys2Proof.Machine.execIsubExtended x s
  | .imulBase d a b => Sys2Proof.Machine.execImulBase d a b s
  | .imulExtended x => Sys2Proof.Machine.execImulExtended x s
  | .imulhBase d a b => Sys2Proof.Machine.execImulhBase d a b s
  | .imulhExtended x => Sys2Proof.Machine.execImulhExtended x s
  | .imadBase d a b => Sys2Proof.Machine.execImadBase d a b s
  | .imadExtended x => Sys2Proof.Machine.execImadExtended x s
  | .idiv x => Sys2Proof.Machine.execIdiv x s
  | .irem x => Sys2Proof.Machine.execIrem x s
  | .iminBase d a b => Sys2Proof.Machine.execIminBase d a b s
  | .iminExtended x => Sys2Proof.Machine.execIminExtended x s
  | .imaxBase d a b => Sys2Proof.Machine.execImaxBase d a b s
  | .imaxExtended x => Sys2Proof.Machine.execImaxExtended x s
  | .iabsBase d a => Sys2Proof.Machine.execIabsBase d a s
  | .iabsExtended x => Sys2Proof.Machine.execIabsExtended x s
  | .inegBase d a => Sys2Proof.Machine.execInegBase d a s
  | .inegExtended x => Sys2Proof.Machine.execInegExtended x s
  | .icmp x => Sys2Proof.Machine.execIcmp x s
  | .isel x => Sys2Proof.Machine.execIsel x s
  | .addminBase d a b => Sys2Proof.Machine.execAddminBase d a b s
  | .addminExtended x => Sys2Proof.Machine.execAddminExtended x s
  | .leaBase d a b => Sys2Proof.Machine.execLeaBase d a b s
  | .leaExtended x => Sys2Proof.Machine.execLeaExtended x s
  | .andBase d a b => Sys2Proof.Machine.execAndBase d a b s
  | .andExtended x => Sys2Proof.Machine.execAndExtended x s
  | .orBase d a b => Sys2Proof.Machine.execOrBase d a b s
  | .orExtended x => Sys2Proof.Machine.execOrExtended x s
  | .xorBase d a b => Sys2Proof.Machine.execXorBase d a b s
  | .xorExtended x => Sys2Proof.Machine.execXorExtended x s
  | .andnBase d a b => Sys2Proof.Machine.execAndnBase d a b s
  | .andnExtended x => Sys2Proof.Machine.execAndnExtended x s
  | .shlBase d a b => Sys2Proof.Machine.execShlBase d a b s
  | .shlExtended x => Sys2Proof.Machine.execShlExtended x s
  | .shrBase d a b => Sys2Proof.Machine.execShrBase d a b s
  | .shrExtended x => Sys2Proof.Machine.execShrExtended x s
  | .sraBase d a b => Sys2Proof.Machine.execSraBase d a b s
  | .sraExtended x => Sys2Proof.Machine.execSraExtended x s
  | .rotBase d a b => Sys2Proof.Machine.execRotBase d a b s
  | .rotExtended x => Sys2Proof.Machine.execRotExtended x s
  | .bfxBase d a b => Sys2Proof.Machine.execBfxBase d a b s
  | .bfxExtended x => Sys2Proof.Machine.execBfxExtended x s
  | .bfiBase d a b => Sys2Proof.Machine.execBfiBase d a b s
  | .bfiExtended x => Sys2Proof.Machine.execBfiExtended x s
  | .popcBase d a => Sys2Proof.Machine.execPopcBase d a s
  | .popcExtended x => Sys2Proof.Machine.execPopcExtended x s
  | .clzBase d a => Sys2Proof.Machine.execClzBase d a s
  | .clzExtended x => Sys2Proof.Machine.execClzExtended x s
  | .brevBase d a => Sys2Proof.Machine.execBrevBase d a s
  | .brevExtended x => Sys2Proof.Machine.execBrevExtended x s
  | .bpermBase d a b => Sys2Proof.Machine.execBpermBase d a b s
  | .bpermExtended x => Sys2Proof.Machine.execBpermExtended x s
  | .bool3 x => Sys2Proof.Machine.execBool3 x s
  | .movBase d b => Sys2Proof.Machine.execMovBase d b s
  | .movExtended x => Sys2Proof.Machine.execMovExtended x s
  | .faddBase d a b => Sys2Proof.Machine.execFaddBase d a b s
  | .faddExtended x => Sys2Proof.Machine.execFaddExtended x s
  | .fsubBase d a b => Sys2Proof.Machine.execFsubBase d a b s
  | .fsubExtended x => Sys2Proof.Machine.execFsubExtended x s
  | .fmulBase d a b => Sys2Proof.Machine.execFmulBase d a b s
  | .fmulExtended x => Sys2Proof.Machine.execFmulExtended x s
  | .ffmaBase d a b => Sys2Proof.Machine.execFfmaBase d a b s
  | .ffmaExtended x => Sys2Proof.Machine.execFfmaExtended x s
  | .fminBase d a b => Sys2Proof.Machine.execFminBase d a b s
  | .fminExtended x => Sys2Proof.Machine.execFminExtended x s
  | .fmaxBase d a b => Sys2Proof.Machine.execFmaxBase d a b s
  | .fmaxExtended x => Sys2Proof.Machine.execFmaxExtended x s
  | .fcmp x => Sys2Proof.Machine.execFcmp x s
  | .fdiv x => Sys2Proof.Machine.execFdiv x s
  | .fsqrt x => Sys2Proof.Machine.execFsqrt x s
  | .frndBase d a => Sys2Proof.Machine.execFrndBase d a s
  | .frndExtended x => Sys2Proof.Machine.execFrndExtended x s
  | .fclassBase d a => Sys2Proof.Machine.execFclassBase d a s
  | .fclassExtended x => Sys2Proof.Machine.execFclassExtended x s
  | .fscaleBase d a b => Sys2Proof.Machine.execFscaleBase d a b s
  | .fscaleExtended x => Sys2Proof.Machine.execFscaleExtended x s
  | .fdot2Base d a b => Sys2Proof.Machine.execFdot2Base d a b s
  | .fdot2Extended x => Sys2Proof.Machine.execFdot2Extended x s
  | .flerpBase d a b => Sys2Proof.Machine.execFlerpBase d a b s
  | .flerpExtended x => Sys2Proof.Machine.execFlerpExtended x s
  | .ffracBase d a => Sys2Proof.Machine.execFfracBase d a s
  | .ffracExtended x => Sys2Proof.Machine.execFfracExtended x s
  | .ladd x => Sys2Proof.Machine.execLadd x s
  | .lsub x => Sys2Proof.Machine.execLsub x s
  | .lmul x => Sys2Proof.Machine.execLmul x s
  | .ldiv x => Sys2Proof.Machine.execLdiv x s
  | .lcmp x => Sys2Proof.Machine.execLcmp x s
  | .lmisc x => Sys2Proof.Machine.execLmisc x s
  | .lexp x => Sys2Proof.Machine.execLexp x s
  | .llog x => Sys2Proof.Machine.execLlog x s
  | .cvt x => Sys2Proof.Machine.execCvt x s
  | .lcvt x => Sys2Proof.Machine.execLcvt x s
  | .gcvt x => Sys2Proof.Machine.execGcvt x s
  | .pack6 x => Sys2Proof.Machine.execPack6 x s
  | .unpk6 x => Sys2Proof.Machine.execUnpk6 x s
  | .pkhBase d a b => Sys2Proof.Machine.execPkhBase d a b s
  | .pkhExtended x => Sys2Proof.Machine.execPkhExtended x s
  | .rand x => Sys2Proof.Machine.execRand x s
  | .sfu x => Sys2Proof.Machine.execSfu x s
  | .ld x => Sys2Proof.Machine.execLd x s
  | .st x => Sys2Proof.Machine.execSt x s
  | .ldp x => Sys2Proof.Machine.execLdp x s
  | .stp x => Sys2Proof.Machine.execStp x s
  | .ldv x => Sys2Proof.Machine.execLdv x s
  | .stv x => Sys2Proof.Machine.execStv x s
  | .atom x => Sys2Proof.Machine.execAtom x s
  | .atomp x => Sys2Proof.Machine.execAtomp x s
  | .ldk x => Sys2Proof.Machine.execLdk x s
  | .fence x => Sys2Proof.Machine.execFence x s
  | .wait x => Sys2Proof.Machine.execWait x s
  | .plotOpen x => Sys2Proof.Machine.execPlotOpen x s
  | .plotClose x => Sys2Proof.Machine.execPlotClose x s
  | .plotGive x => Sys2Proof.Machine.execPlotGive x s
  | .plotTake x => Sys2Proof.Machine.execPlotTake x s
  | .pref x => Sys2Proof.Machine.execPref x s
  | .cctlWbpriv x => Sys2Proof.Machine.execCctlWbpriv x s
  | .cctlInvl1 x => Sys2Proof.Machine.execCctlInvl1 x s
  | .cctlInvk x => Sys2Proof.Machine.execCctlInvk x s
  | .bankcfg x => Sys2Proof.Machine.execBankcfg x s
  | .shfl x => Sys2Proof.Machine.execShfl x s
  | .lshf x => Sys2Proof.Machine.execLshf x s
  | .vote x => Sys2Proof.Machine.execVote x s
  | .reduce x => Sys2Proof.Machine.execReduce x s
  | .scan x => Sys2Proof.Machine.execScan x s
  | .matchLanes x => Sys2Proof.Machine.execMatchLanes x s
  | .tmovRead x => Sys2Proof.Machine.execTmovRead x s
  | .tmovWrite x => Sys2Proof.Machine.execTmovWrite x s
  | .braBase off => Sys2Proof.Machine.execBraBase off s
  | .braExtended x => Sys2Proof.Machine.execBraExtended x s
  | .jmp x => Sys2Proof.Machine.execJmp x s
  | .call x => Sys2Proof.Machine.execCall x s
  | .callReg x => Sys2Proof.Machine.execCallReg x s
  | .retBase a => Sys2Proof.Machine.execRetBase a s
  | .retExtended x => Sys2Proof.Machine.execRetExtended x s
  | .reform x => Sys2Proof.Machine.execReform x s
  | .cvgDecl x => Sys2Proof.Machine.execCvgDecl x s
  | .cvgJoin x => Sys2Proof.Machine.execCvgJoin x s
  | .exitBase => Sys2Proof.Machine.execExitBase s
  | .exitExtended x => Sys2Proof.Machine.execExitExtended x s
  | .yieldBase => Sys2Proof.Machine.execYieldBase s
  | .yieldExtended x => Sys2Proof.Machine.execYieldExtended x s
  | .yieldChk x => Sys2Proof.Machine.execYieldChk x s
  | .talloc x => Sys2Proof.Machine.execTalloc x s
  | .tfree x => Sys2Proof.Machine.execTfree x s
  | .tgive x => Sys2Proof.Machine.execTgive x s
  | .ttake x => Sys2Proof.Machine.execTtake x s
  | .tld x => Sys2Proof.Machine.execTld x s
  | .tst x => Sys2Proof.Machine.execTst x s
  | .tldv x => Sys2Proof.Machine.execTldv x s
  | .tstv x => Sys2Proof.Machine.execTstv x s
  | .mma x => Sys2Proof.Machine.execMma x s
  | .mmaSign x => Sys2Proof.Machine.execMmaSign x s
  | .macc x => Sys2Proof.Machine.execMacc x s
  | .tstat x => Sys2Proof.Machine.execTstat x s
  | .copy x => Sys2Proof.Machine.execCopy x s
  | .trace x => Sys2Proof.Machine.execTrace x s
  | .sxdraw x => Sys2Proof.Machine.execSxdraw x s
  | .sxpri x => Sys2Proof.Machine.execSxpri x s
  | .silt x => Sys2Proof.Machine.execSilt x s
  | .enq x => Sys2Proof.Machine.execEnq x s
  | .cancel x => Sys2Proof.Machine.execCancel x s
  | .stageInit x => Sys2Proof.Machine.execStageInit x s
  | .stageAcqp x => Sys2Proof.Machine.execStageAcqp x s
  | .stageAcqc x => Sys2Proof.Machine.execStageAcqc x s
  | .stageRelp x => Sys2Proof.Machine.execStageRelp x s
  | .stageRelc x => Sys2Proof.Machine.execStageRelc x s
  | .stageAcquireGrant team ring consume => Sys2Proof.Machine.execStageAcquireGrant team ring consume s
  | .barInit x => Sys2Proof.Machine.execBarInit x s
  | .barArrive x => Sys2Proof.Machine.execBarArrive x s
  | .barrierComplete ctx bar => Sys2Proof.Machine.execBarrierComplete ctx bar s
  | .movqSend x => Sys2Proof.Machine.execMovqSend x s
  | .movqRecv x => Sys2Proof.Machine.execMovqRecv x s
  | .sregRead x => Sys2Proof.Machine.execSregRead x s
  | .sregWrite x => Sys2Proof.Machine.execSregWrite x s
  | .trapSoftware x => Sys2Proof.Machine.execTrapSoftware x s
  | .trapBreak x => Sys2Proof.Machine.execTrapBreak x s
  | .sysRdsup x => Sys2Proof.Machine.execSysRdsup x s
  | .sysWrsup x => Sys2Proof.Machine.execSysWrsup x s
  | .sysSwap x => Sys2Proof.Machine.execSysSwap x s
  | .sysShoot x => Sys2Proof.Machine.execSysShoot x s
  | .sysTret x => Sys2Proof.Machine.execSysTret x s
  | .nopBase => Sys2Proof.Machine.execNopBase s
  | .nopExtended x => Sys2Proof.Machine.execNopExtended x s
  | .pair g0 g1 h0 h1 => Sys2Proof.Machine.execPair g0 g1 h0 h1 s
  | .powerOnReset => Sys2Proof.Machine.execPowerOnReset s
  | .resetGo => Sys2Proof.Machine.execResetGo s
  | .secAttest => Sys2Proof.Machine.execSecAttest s
  | .attestReportDone => Sys2Proof.Machine.execAttestReportDone s
  | .pilotDequeue die => Sys2Proof.Machine.execPilotDequeue die s
  | .teamPlace die => Sys2Proof.Machine.execTeamPlace die s
  | .creditRetire ctx => Sys2Proof.Machine.execCreditRetire ctx s
  | .sieveDraw core => Sys2Proof.Machine.execSieveDraw core s
  | .threadMove t => Sys2Proof.Machine.execThreadMove t s
  | .binAgeLimit core ctx bin => Sys2Proof.Machine.execBinAgeLimit core ctx bin s
  | .automaticReform g => Sys2Proof.Machine.execAutomaticReform g s
  | .waitingCancelExit t => Sys2Proof.Machine.execWaitingCancelExit t s
  | .activeSetDisplace core => Sys2Proof.Machine.execActiveSetDisplace core s
  | .throttleWindowEnd core => Sys2Proof.Machine.execThrottleWindowEnd core s
  | .mmaAccept op => Sys2Proof.Machine.execMmaAccept op s
  | .tilePassGrant die site => Sys2Proof.Machine.execTilePassGrant die site s
  | .tilePassComplete die site => Sys2Proof.Machine.execTilePassComplete die site s
  | .permitRefill die => Sys2Proof.Machine.execPermitRefill die s
  | .permitGrant die => Sys2Proof.Machine.execPermitGrant die s
  | .pageWalkAnswer walk => Sys2Proof.Machine.execPageWalkAnswer walk s
  | .deferredFaultRecord ctx => Sys2Proof.Machine.execDeferredFaultRecord ctx s
  | .homeLoad req => Sys2Proof.Machine.execHomeLoad req s
  | .homeStore req => Sys2Proof.Machine.execHomeStore req s
  | .homeAtomic req => Sys2Proof.Machine.execHomeAtomic req s
  | .loadReturn req => Sys2Proof.Machine.execLoadReturn req s
  | .storeAck req => Sys2Proof.Machine.execStoreAck req s
  | .fenceComplete t => Sys2Proof.Machine.execFenceComplete t s
  | .migrationLineCopy socket => Sys2Proof.Machine.execMigrationLineCopy socket s
  | .promotionStart socket region => Sys2Proof.Machine.execPromotionStart socket region s
  | .promotionAbandon socket => Sys2Proof.Machine.execPromotionAbandon socket s
  | .bankChangeComplete core bank => Sys2Proof.Machine.execBankChangeComplete core bank s
  | .copyPartComplete cmd => Sys2Proof.Machine.execCopyPartComplete cmd s
  | .engineCommandComplete cmd => Sys2Proof.Machine.execEngineCommandComplete cmd s
  | .traceLaneComplete cmd lane => Sys2Proof.Machine.execTraceLaneComplete cmd lane s
  | .swapSpillFill core => Sys2Proof.Machine.execSwapSpillFill core s
  | .swapExchange core => Sys2Proof.Machine.execSwapExchange core s
  | .watchdogExpiry ctx => Sys2Proof.Machine.execWatchdogExpiry ctx s
  | .drainComplete ctx => Sys2Proof.Machine.execDrainComplete ctx s
  | .tileSlotDrain die site slot => Sys2Proof.Machine.execTileSlotDrain die site slot s
  | .ttakeGrant t => Sys2Proof.Machine.execTtakeGrant t s
  | .messageArrival flit => Sys2Proof.Machine.execMessageArrival flit s
  | .sweepBoundary => Sys2Proof.Machine.execSweepBoundary s
  | .bandLight die => Sys2Proof.Machine.execBandLight die s
  | .kilnGather die => Sys2Proof.Machine.execKilnGather die s
  | .kilnBandPost die => Sys2Proof.Machine.execKilnBandPost die s
  | .snapshotBinned die n => Sys2Proof.Machine.execSnapshotBinned die n s
  | .sextantDrawStart die => Sys2Proof.Machine.execSextantDrawStart die s
  | .selectionStart die => Sys2Proof.Machine.execSelectionStart die s
  | .positionDraw die => Sys2Proof.Machine.execPositionDraw die s
  | .wavePost die => Sys2Proof.Machine.execWavePost die s
  | .probeResolve die => Sys2Proof.Machine.execProbeResolve die s
  | .longLatencyResult result => Sys2Proof.Machine.execLongLatencyResult result s
  | .operationPacket packet => Sys2Proof.Machine.execOperationPacket packet s
  | .policyRecordRepost die => Sys2Proof.Machine.execPolicyRecordRepost die s
  | .throttleLevelChange die temp => Sys2Proof.Machine.execThrottleLevelChange die temp s
  | .tshut die => Sys2Proof.Machine.execTshut die s
  | .secExtend mr => Sys2Proof.Machine.execSecExtend mr s
  | .logEnable ctx => Sys2Proof.Machine.execLogEnable ctx s
  | .loglimitWrite ctx value => Sys2Proof.Machine.execLoglimitWrite ctx value s
  | .contextEnable ctx => Sys2Proof.Machine.execContextEnable ctx s
  | .contextHalt ctx => Sys2Proof.Machine.execContextHalt ctx s
  | .deadClear ctx => Sys2Proof.Machine.execDeadClear ctx s
  | .registerWrite ia value => Sys2Proof.Machine.execRegisterWrite ia value s
  | .recordPost ctx offset bytes => Sys2Proof.Machine.execRecordPost ctx offset bytes s
  | .postSequenceStore hart ctx offset value => Sys2Proof.Machine.execPostSequenceStore hart ctx offset value s
  | .cancelset ctx groups => Sys2Proof.Machine.execCancelset ctx groups s
  | .frreadWrite ctx value => Sys2Proof.Machine.execFrreadWrite ctx value s
  | .hostLoad hart ia size => Sys2Proof.Machine.execHostLoad hart ia size s
  | .hostStore hart ia bytes => Sys2Proof.Machine.execHostStore hart ia bytes s
  | .hostAmo hart ia size op value => Sys2Proof.Machine.execHostAmo hart ia size op value s
  | .hostLr hart ia size => Sys2Proof.Machine.execHostLr hart ia size s
  | .hostSc hart ia bytes => Sys2Proof.Machine.execHostSc hart ia bytes s
  | .dmaInbound bus access => Sys2Proof.Machine.execDmaInbound bus access s
  | .ewerlinkInbound port offset access => Sys2Proof.Machine.execEwerlinkInbound port offset access s
  | .ewerlinkDown port => Sys2Proof.Machine.execEwerlinkDown port s
  | .migctlStart socket => Sys2Proof.Machine.execMigctlStart socket s
  | .promctlPush socket value => Sys2Proof.Machine.execPromctlPush socket value s
  | .softError e => Sys2Proof.Machine.execSoftError e s
  | .dieFail die => Sys2Proof.Machine.execDieFail die s
  | .dmodeWrite value => Sys2Proof.Machine.execDmodeWrite value s
  | .snapshotGo die n => Sys2Proof.Machine.execSnapshotGo die n s
  | .ewerlinkLinkUp port => Sys2Proof.Machine.execEwerlinkLinkUp port s

end Sys2Proof.Machine
end

