-- ==== Sys2Proof/Machine/Step.lean ====
section
/-! DEFINITION. One step of the machine (DESIGN CHOICE, assumption 4): what comes next, as Clockwork.lean says. -/

namespace Sys2Proof.Machine

/-- The first group of the cycle's list issues. -/
def issueStep (s : State) (g : GRef) (rest : List GRef) : Host.Outcome State Fault Refusal :=
  match issuing s g with
  | some (gr, act, i) =>
    let b := beginIssue s g rest act (Sys2Proof.encode i).length
    match exec i b with
    | .next t => .next (settleIssue gr act b t)
    | .fault f => .fault f
    | .refused r => .refused r
  | none => .next (failIssue s g rest)

/-- One step (DESIGN CHOICE, assumption 84). -/
def step (s : State) : Host.Outcome State Fault Refusal :=
  if s.pkg.bootErr then match s.clk.agenda with
    | .powerOnReset :: is => exec .powerOnReset { s with clk := { s.clk with agenda := is } }
    | _ => .fault .heldInReset
  else match nextTurn s with
    | .run i t => exec i t
    | .go t => .next t
    | .issue g rest => issueStep s g rest

/-- s with the instruction whose bits are w as the next to issue: a team of one thread has been launched for it on core 0 of
cluster site 0 of die 0 (DESIGN CHOICE, assumption 29). -/
def State.withFetchWord (s : State) (nbits w : Nat) : State := launchFirst s (Sys2Proof.tableBytes (w % 2 ^ nbits))

end Sys2Proof.Machine
end

