-- ==== Sys2Proof/Machine/DexasText.lean ====
section
/-! DEFINITION. The dexas assembler's source text: characters to tokens, numbers, operands, options and source lines
(spec/12_encoding.md R207 to R209, R211). -/

namespace Sys2Proof.Dexas

/-- A text; labels and names are kept as written. -/
abbrev Text := List Char

/-- Why a line is an assembly error (R207 to R211, R450). -/
inductive AsmError where
  /-- The line is not of R207's shape. -/
  | syntaxError
  /-- R196 has no such mnemonic, or R211 no such directive. -/
  | unknownMnemonic
  /-- A modifier or type that the opcode lacks, or one written twice (R197, R207). -/
  | badModifier
  /-- An operand beyond its class, or too many or too few of them (R208, R210). -/
  | badOperand
  /-- An option the instruction does not read, or not a value of it (R209). -/
  | badOption
  /-- The opcode allows no form that holds the line, or decode would refuse it (R210). -/
  | noForm
  /-- A value outside its field. -/
  | outOfRange
  /-- A label that no line defines. -/
  | undefinedLabel
  /-- A label defined twice. -/
  | duplicateLabel
  /-- A line in a section that R450 does not allow it in. -/
  | wrongSection
  /-- A header directive, .kernel or .endk out of place (R211). -/
  | wrongPlace
  deriving DecidableEq, Repr

/-! ### Tokens -/

inductive Tok where
  | word (s : Text)
  | sym (c : Char)
  deriving DecidableEq, Repr

def isDigit (c : Char) : Bool := decide ('0'.toNat ≤ c.toNat ∧ c.toNat ≤ '9'.toNat)
def isLetter (c : Char) : Bool :=
  decide ('a'.toNat ≤ c.toNat ∧ c.toNat ≤ 'z'.toNat) || decide ('A'.toNat ≤ c.toNat ∧ c.toNat ≤ 'Z'.toNat)
def wordChar (c : Char) : Bool := isDigit c || isLetter c || c == '_' || c == '.'
def isBlank (c : Char) : Bool := c == ' ' || c == '\t' || c == '\r'

def lowerChar (c : Char) : Char :=
  if 'A'.toNat ≤ c.toNat ∧ c.toNat ≤ 'Z'.toNat then Char.ofNat (c.toNat + 32) else c
/-- Mnemonics and modifiers are case-insensitive (R207). -/
def lower (s : Text) : Text := s.map lowerChar

/-- End the word read so far, its characters in reverse. -/
def flushWord (acc : Text) (ts : List Tok) : List Tok := if acc.isEmpty then ts else .word acc.reverse :: ts

/-- The tokens of a line; a comment runs from a semicolon to its end (R207). The manual prints a minus sign as U+2212. -/
def lex : Text → Text → List Tok
  | [], acc => flushWord acc []
  | c :: cs, acc =>
    if wordChar c then lex cs (c :: acc)
    else if c == ';' then flushWord acc []
    else if isBlank c then flushWord acc (lex cs [])
    else flushWord acc (.sym (if c.toNat = 0x2212 then '-' else c) :: lex cs [])

/-! ### Numbers -/

def digitOf (base : Nat) (c : Char) : Option Nat :=
  let l := lowerChar c
  let v := if isDigit c then some (c.toNat - '0'.toNat) else if isLetter c then some (l.toNat - 'a'.toNat + 10) else none
  v.bind fun n => if n < base then some n else none

/-- The digits of a base; underscores separate (R2). The number and how many digits there were. -/
def digits (base : Nat) : Text → Option (Nat × Nat)
  | s => s.foldl (fun r c => match r with
    | none => none
    | some (v, k) => if c == '_' then some (v, k) else (digitOf base c).map fun n => (v * base + n, k + 1)) (some (0, 0))

def natOf (base : Nat) (s : Text) : Option Nat := match digits base s with
  | some (v, _ + 1) => some v
  | _ => none

/-- A number without its sign: a whole number, or a decimal fraction as numerator and denominator (R208). -/
inductive Num where
  | whole (n : Nat)
  | frac (num den : Nat)
  deriving DecidableEq, Repr

/-- Split at the first point. -/
def splitPoint (s : Text) : Text × Option Text :=
  let a := s.takeWhile (· != '.')
  match s.drop a.length with
  | [] => (a, none)
  | _ :: rest => (a, some rest)

def numberOf (s : Text) : Option Num :=
  match s with
  | '0' :: 'x' :: rest => (natOf 16 rest).map .whole
  | '0' :: 'X' :: rest => (natOf 16 rest).map .whole
  | '0' :: 'b' :: rest => (natOf 2 rest).map .whole
  | '0' :: 'B' :: rest => (natOf 2 rest).map .whole
  | _ => match splitPoint s with
    | (a, none) => (natOf 10 a).map .whole
    | (a, some f) => match digits 10 a, digits 10 f with
      | some (w, _ + 1), some (v, k + 1) => some (.frac (w * 10 ^ (k + 1) + v) (10 ^ (k + 1)))
      | _, _ => none

/-! ### Operands (R208) -/

/-- The register kinds of R188 and R189. -/
inductive RegKind where
  | v | hv | p | g | h | c | qo | qi
  deriving DecidableEq, Repr

structure Reg where
  kind : RegKind
  num  : Nat
  deriving DecidableEq, Repr

/-- How many registers of a kind there are (R188, R189). -/
def RegKind.count : RegKind → Nat
  | .v => 256 | .hv => 16 | .p => 8 | .g => 64 | .h => 32 | .c => 16 | .qo => 4 | .qi => 4

/-- A register's field value; hv0 is 0xF0 (R189). -/
def Reg.field (r : Reg) : BitVec 8 := BitVec.ofNat 8 (if r.kind = .hv then 0xF0 + r.num else r.num)

/-- A decimal register number. -/
def plainNat (s : Text) : Option Nat := if s.all isDigit then natOf 10 s else none

def regIn (k : RegKind) (s : Text) : Option Reg := (plainNat s).bind fun n => if n < k.count then some ⟨k, n⟩ else none

/-- A register, written in lower case (R207). -/
def regOf (s : Text) : Option Reg :=
  match s with
  | 'h' :: 'v' :: r => regIn .hv r
  | 'q' :: 'o' :: r => regIn .qo r
  | 'q' :: 'i' :: r => regIn .qi r
  | 'v' :: r => regIn .v r
  | 'p' :: r => regIn .p r
  | 'g' :: r => regIn .g r
  | 'h' :: r => regIn .h r
  | 'c' :: r => regIn .c r
  | _ => none

/-- A constant window k0 to k7. -/
def windowOf (s : Text) : Option Nat :=
  match s with
  | 'k' :: r => (plainNat r).bind fun n => if n < 8 then some n else none
  | _ => none

/-- A scoreboard slot sb1 to sb6. -/
def slotOf (s : Text) : Option Nat :=
  match s with
  | 's' :: 'b' :: r => (plainNat r).bind fun n => if 1 ≤ n ∧ n ≤ 6 then some n else none
  | _ => none

/-- The space of an address (R208). -/
inductive Space where
  | global | plot | priv | peer
  | const (window : Nat)
  deriving DecidableEq, Repr

/-- A number or label with its sign. -/
inductive Value where
  | int (v : Int)
  | frac (neg : Bool) (num den : Nat)
  | label (name : Text)
  deriving DecidableEq, Repr

inductive Operand where
  /-- A register or pair, with −v, |v| or −|v|. -/
  | reg (r : Reg) (pair neg abs : Bool)
  | value (v : Value)
  | window (k offset : Nat)
  | mem (space : Space) (r : Reg) (pair : Bool) (disp : Value)
  /-- A condition, .eq to .ord. -/
  | cond (name : Text)
  /-- sb1+sb3: bit n − 1 stands for sbn. -/
  | slots (mask : Nat)
  deriving DecidableEq, Repr

/-- A label begins with a letter or an underscore and is no register. -/
def isName (s : Text) : Bool := match s with
  | c :: _ => isLetter c || c == '_'
  | [] => false

def Num.signed (n : Num) (neg : Bool) : Value := match n with
  | .whole v => .int (if neg then -(v : Int) else v)
  | .frac a b => .frac neg a b

/-- A pair's halves: the upper is the next register of the same kind, the lower even (R188). -/
def pairOf (a b : Text) : Option Reg :=
  match regOf a, regOf b with
  | some x, some y => if x.kind = y.kind ∧ y.num = x.num + 1 ∧ x.num % 2 = 0 then some x else none
  | _, _ => none

/-- A register or pair at the head of the tokens. -/
def readReg : List Tok → Option (Reg × Bool × List Tok)
  | .word a :: .sym ':' :: .word b :: ts => (pairOf a b).map fun r => (r, true, ts)
  | .word a :: ts => (regOf a).map fun r => (r, false, ts)
  | _ => none

/-- A displacement: a number, or a label's image offset. -/
def dispOf (neg : Bool) (s : Text) : Option Value :=
  match numberOf s with
  | some (.whole v) => some (.int (if neg then -(v : Int) else v))
  | some _ => none
  | none => if isName s && !neg then some (.label s) else none

/-- The rest of an address after its bracket. -/
def readAddress (sp : Space) (ts : List Tok) : Option (Operand × List Tok) :=
  match readReg ts with
  | some (r, p, .sym ']' :: rest) => some (.mem sp r p (.int 0), rest)
  | some (r, p, .sym '+' :: .word n :: .sym ']' :: rest) => (dispOf false n).map fun d => (.mem sp r p d, rest)
  | some (r, p, .sym '-' :: .word n :: .sym ']' :: rest) => (dispOf true n).map fun d => (.mem sp r p d, rest)
  | _ => none

/-- sb1+sb3…: the mask of the slots from here on. -/
def readSlots : List Tok → Nat → Option (Nat × List Tok)
  | .sym '+' :: .word s :: ts, m => match slotOf s with
    | some n => readSlots ts (m ||| 2 ^ (n - 1))
    | none => none
  | ts, m => some (m, ts)

def spaceNamed (s : Text) : Option Space :=
  if s = "plot".toList then some .plot
  else if s = "priv".toList then some .priv
  else if s = "peer".toList then some .peer
  else (windowOf s).map .const

/-- A single word as an operand. -/
def wordOperand (neg : Bool) (s : Text) : Option Operand :=
  match regOf s with
  | some r => some (.reg r false neg false)
  | none => match s with
    | '.' :: name => if neg then none else some (.cond (lower name))
    | _ => match numberOf s with
      | some n => some (.value (n.signed neg))
      | none => if isName s && !neg then some (.value (.label s)) else none

/-- One operand and what follows it (R208). -/
def readOperand (ts : List Tok) : Option (Operand × List Tok) :=
  match ts with
  | .sym '[' :: rest => readAddress .global rest
  | .sym '-' :: .sym '|' :: rest => match readReg rest with
    | some (r, p, .sym '|' :: rest) => some (.reg r p true true, rest)
    | _ => none
  | .sym '|' :: rest => match readReg rest with
    | some (r, p, .sym '|' :: rest) => some (.reg r p false true, rest)
    | _ => none
  | .sym '-' :: .word a :: .sym ':' :: .word b :: rest => (pairOf a b).map fun r => (.reg r true true false, rest)
  | .sym '-' :: .word a :: rest => (wordOperand true a).map fun o => (o, rest)
  | .word a :: .sym '[' :: rest => (spaceNamed a).bind fun sp => readAddress sp rest
  | .word a :: .sym ':' :: .word b :: rest => match windowOf a with
    | some k => match numberOf b with
      | some (.whole n) => some (.window k n, rest)
      | _ => none
    | none => (pairOf a b).map fun r => (.reg r true false false, rest)
  | .word a :: rest => match slotOf a with
    | some n => (readSlots rest (2 ^ (n - 1))).map fun (m, rest) => (.slots m, rest)
    | none => (wordOperand false a).map fun o => (o, rest)
  | _ => none

/-! ### Lines (R207) -/

/-- keyword=value; the words that a + joins. -/
structure Opt where
  key  : Text
  vals : List Text
  deriving DecidableEq, Repr

structure Args where
  operands : List Operand := []
  options  : List Opt := []
  deriving DecidableEq, Repr

/-- The further words of an option's value. -/
def readJoined : List Tok → List Text × List Tok
  | .sym '+' :: .word s :: ts => let r := readJoined ts; (s :: r.1, r.2)
  | ts => ([], ts)

/-- Operands separated by commas, and options. `open_` says that an operand may begin here; only
.kernel's handler= follows a comma (R211). -/
def readArgs : Nat → Bool → List Tok → Args → Option Args
  | _, _, [], acc => some acc
  | 0, _, _, _ => none
  | n + 1, open_, ts, acc =>
    match ts with
    | .word k :: .sym '=' :: .word v :: rest =>
      let j := readJoined rest
      if (open_ && !acc.operands.isEmpty) != (k == "handler".toList) then none
      else readArgs n (acc.operands.isEmpty) j.2 { acc with options := acc.options ++ [⟨lower k, v :: j.1⟩] }
    | _ =>
      if !open_ then none
      else match readOperand ts with
        | none => none
        | some (o, rest) =>
          let acc := { acc with operands := acc.operands ++ [o] }
          match rest with
          | .sym ',' :: [] => none
          | .sym ',' :: rest => readArgs n true rest acc
          | rest => readArgs n false rest acc

/-- An instruction as written: its guard, mnemonic, modifiers, operands and options. -/
structure Insn where
  guard : Guard
  name  : Text
  mods  : List Text
  args  : Args
  deriving DecidableEq, Repr

/-- Split at points. -/
def splitDots : Text → List Text
  | [] => [[]]
  | c :: cs => match splitDots cs with
    | [] => [[c]]
    | w :: ws => if c == '.' then [] :: w :: ws else (c :: w) :: ws

/-- The guard ?pN or ?!pN at the head of the tokens. -/
def readGuard (ts : List Tok) : Option (Option Guard × List Tok) :=
  match ts with
  | .sym '?' :: .sym '!' :: .word p :: rest => match regOf p with
    | some ⟨.p, n⟩ => some (some ⟨true, BitVec.ofNat 3 n⟩, rest)
    | _ => none
  | .sym '?' :: .word p :: rest => match regOf p with
    | some ⟨.p, n⟩ => some (some ⟨false, BitVec.ofNat 3 n⟩, rest)
    | _ => none
  | .sym '?' :: _ => none
  | ts => some (none, ts)

def readInsn (ts : List Tok) : Option Insn :=
  match readGuard ts with
  | some (g, .word w :: rest) => match splitDots (lower w) with
    | name :: mods =>
      if name.isEmpty then none
      else (readArgs (rest.length + 1) true rest {}).map fun a => ⟨g.getD Guard.always, name, mods, a⟩
    | [] => none
  | _ => none

inductive Stmt where
  | insn (i : Insn)
  /-- Two halves joined by || (R208). -/
  | pair (i j : Insn)
  | directive (name : Text) (args : Args)
  deriving DecidableEq, Repr

structure Line where
  label : Option Text
  stmt  : Option Stmt
  deriving DecidableEq, Repr

/-- Split at the first ||. -/
def splitPair : List Tok → List Tok × Option (List Tok)
  | .sym '|' :: .sym '|' :: rest => ([], some rest)
  | t :: ts => let r := splitPair ts; (t :: r.1, r.2)
  | [] => ([], none)

def readStmt (ts : List Tok) : Option Stmt :=
  match ts with
  | .word ('.' :: name) :: rest => (readArgs (rest.length + 1) true rest {}).map fun a => .directive (lower name) a
  | _ => match splitPair ts with
    | (a, none) => (readInsn a).map .insn
    | (a, some b) => match readInsn a, readInsn b with
      | some i, some j => some (.pair i j)
      | _, _ => none

/-- A source line (R207). -/
def readLine (s : Text) : Except AsmError Line :=
  let body := fun (l : Option Text) (ts : List Tok) =>
    if ts.isEmpty then .ok ⟨l, none⟩
    else match readStmt ts with
      | some st => Except.ok (⟨l, some st⟩ : Line)
      | none => .error .syntaxError
  match lex s [] with
  | .word w :: .sym ':' :: rest => if isName w && (regOf w).isNone then body (some w) rest else .error .syntaxError
  | ts => body none ts

end Sys2Proof.Dexas
end

