-- ==== Sys2Proof/Machine/Dexas.lean ====
section
/-! DEFINITION. The dexas assembler: a source line to an instruction's words, the directives, and a source file to one
image (spec/12_encoding.md R195 to R198, R206 to R212, R450). -/

namespace Sys2Proof.Dexas

/-! ### The opcode map as dexas writes it (R195, R196, R197) -/

def mnemonics : List (String × Nat) :=
  [("iadd", 0x01), ("isub", 0x02), ("imul", 0x03), ("imulh", 0x04), ("imad", 0x05), ("idiv", 0x06), ("irem", 0x07), ("imin", 0x08),
   ("imax", 0x09), ("iabs", 0x0A), ("ineg", 0x0B), ("icmp", 0x0C), ("isel", 0x0D), ("addmin", 0x0E), ("lea", 0x0F), ("and", 0x10),
   ("or", 0x11), ("xor", 0x12), ("andn", 0x13), ("shl", 0x14), ("shr", 0x15), ("sra", 0x16), ("rot", 0x17), ("bfx", 0x18), ("bfi", 0x19),
   ("popc", 0x1A), ("clz", 0x1B), ("brev", 0x1C), ("bperm", 0x1D), ("bool3", 0x1E), ("mov", 0x1F)] ++
  [("fadd", 0x20), ("fsub", 0x21), ("fmul", 0x22), ("ffma", 0x23), ("fmin", 0x24), ("fmax", 0x25), ("fcmp", 0x26), ("fdiv", 0x27),
   ("fsqrt", 0x28), ("frnd", 0x29), ("fclass", 0x2A), ("fscale", 0x2B), ("fdot2", 0x2C), ("flerp", 0x2D), ("ffrac", 0x2E),
   ("ladd", 0x30), ("lsub", 0x31), ("lmul", 0x32), ("ldiv", 0x33), ("lcmp", 0x34), ("lmisc", 0x35), ("lexp", 0x36), ("llog", 0x37),
   ("cvt", 0x38), ("lcvt", 0x39), ("gcvt", 0x3A), ("pack6", 0x3B), ("unpk6", 0x3C), ("pkh", 0x3D), ("rand", 0x3E), ("sfu", 0x3F)] ++
  [("ld", 0x40), ("st", 0x41), ("ldp", 0x42), ("stp", 0x43), ("ldv", 0x44), ("stv", 0x45), ("atom", 0x46), ("atomp", 0x47), ("ldk", 0x48),
   ("fence", 0x49), ("wait", 0x4A), ("plot", 0x4B), ("pref", 0x4C), ("cctl", 0x4D), ("bankcfg", 0x4E), ("shfl", 0x50), ("lshf", 0x51),
   ("vote", 0x52), ("reduce", 0x53), ("scan", 0x54), ("match", 0x55), ("tmov", 0x56), ("bra", 0x58), ("jmp", 0x59), ("call", 0x5A),
   ("ret", 0x5B), ("reform", 0x5C), ("cvg", 0x5D), ("exit", 0x5E), ("yield", 0x5F)] ++
  [("talloc", 0x60), ("tfree", 0x61), ("tgive", 0x62), ("ttake", 0x63), ("tld", 0x64), ("tst", 0x65), ("tldv", 0x66), ("tstv", 0x67),
   ("mma", 0x68), ("macc", 0x69), ("tstat", 0x6A), ("copy", 0x70), ("trace", 0x71), ("sxdraw", 0x72), ("sxpri", 0x73), ("silt", 0x74),
   ("enq", 0x75), ("cancel", 0x76), ("stage", 0x77), ("bar", 0x78), ("movq", 0x79), ("sreg", 0x7A), ("trap", 0x7B), ("sys", 0x7C), ("nop", 0x7D)]

/-- Look a text up among strings. -/
def lookup {α : Type} (tbl : List (String × α)) (s : Text) : Option α := (tbl.find? fun e => e.1.toList == s).map (·.2)

def opOf (name : Text) : Option Nat := lookup mnemonics name

/-- The type suffixes (R195). -/
def tyOf (s : Text) : Option Ty :=
  lookup [("b32", .b32), ("b64", .b64), ("i8", .i8), ("i16", .i16), ("i32", .i32), ("i64", .i64), ("n8", .n8), ("n16", .n16), ("n32", .n32),
    ("n64", .n64), ("f16", .f16), ("f32", .f32), ("f64", .f64), ("li16", .li16), ("li32", .li32), ("g6", .g6), ("g8", .g8)] s

/-- An XOP field's low bit, width and value. -/
structure XopField where
  low   : Nat
  width : Nat
  value : Nat
  deriving DecidableEq, Repr

/-- A field whose values 0, 1, … have these names (R197). -/
def named (low width : Nat) (names : List String) : List (String × XopField) :=
  names.zipIdx.map fun (n, i) => (n, ⟨low, width, i⟩)

/-- A bit that a name sets. -/
def flag (bit : Nat) (name : String) : List (String × XopField) := [(name, ⟨bit, 1, 1⟩)]

/-- The modifiers of an opcode's XOP bits (R196, R197). -/
def modifiers (op : Nat) : List (String × XopField) :=
  match op with
  | 0x01 | 0x02 | 0x03 | 0x05 | 0x0A | 0x0B => flag 0 "sat"
  | 0x0F => named 0 3 ["s0", "s1", "s2", "s3", "s4", "s5", "s6", "s7"]
  | 0x20 | 0x21 | 0x22 | 0x23 | 0x27 | 0x28 | 0x29 | 0x2B | 0x2C | 0x2D | 0x2E => flag 4 "sat"
  | 0x24 | 0x25 => flag 5 "nan"
  | 0x35 => named 0 2 ["rcp", "neg", "abs", "lvl"]
  | 0x38 => flag 5 "sat"
  | 0x3E => flag 0 "unit"
  | 0x3F => named 0 3 ["rcp", "rsqrt", "sqrt", "exp2", "log2", "sin", "cos", "tanh"]
  | 0x44 | 0x45 => named 5 2 ["x2", "x4", "x8"]
  | 0x46 | 0x47 => named 0 4 ["add", "min", "max", "and", "or", "xor", "exch", "cas", "inc", "dec", "fadd"]
  | 0x4B => named 0 3 ["open", "close", "give", "take"]
  | 0x4C => flag 0 "slice"
  | 0x4D => named 0 2 ["wbpriv", "invl1", "invk"]
  | 0x50 => named 0 2 ["lane", "step", "flip", "rev"]
  | 0x51 => flag 0 "down" ++ flag 1 "rot"
  | 0x52 => named 0 2 ["every", "some", "same", "mask"] ++ flag 2 "cnt"
  | 0x53 => named 0 3 ["add", "min", "max", "and", "or", "xor"]
  | 0x54 => named 0 3 ["add", "min", "max", "and", "or", "xor"] ++ flag 3 "excl"
  | 0x56 => flag 0 "w"
  | 0x5A => flag 0 "reg"
  | 0x5C => flag 0 "key"
  | 0x5D => named 0 1 ["decl", "join"]
  | 0x5F => flag 0 "chk"
  | 0x68 => flag 0 "clr" ++ flag 1 "sign"
  | 0x69 => named 0 2 ["f32", "f16", "g8", "li32"] ++ flag 2 "clr"
  | 0x70 | 0x74 => flag 0 "acq" ++ flag 1 "rel" ++ flag 2 "bar"
  | 0x71 | 0x72 => flag 0 "acq" ++ flag 1 "rel"
  | 0x77 => named 0 3 ["init", "acqp", "acqc", "relp", "relc"]
  | 0x78 => flag 0 "init"
  | 0x79 => flag 0 "recv"
  | 0x7A => flag 0 "w"
  | 0x7B => flag 0 "break"
  | 0x7C => named 0 4 ["rdsup", "wrsup", "swap", "shoot", "tret"]
  | _ => []

/-- The M, NEGA and NEGB bits that signs may set: bit 0 −A, 1 −B, 2 |A|, 3 |B| (R196, R197). -/
def signBits (op : Nat) : Nat :=
  match op with
  | 0x20 | 0x21 | 0x22 | 0x23 | 0x24 | 0x25 | 0x26 | 0x27 | 0x2C | 0x2D => 0xF
  | 0x28 | 0x29 | 0x2B | 0x2E => 0x5
  | 0x30 | 0x31 | 0x32 | 0x33 => 0x3
  | _ => 0

/-- CVT, LCVT and GCVT name their source type by a second suffix (R197). -/
def secondType (op : Nat) : Bool := op == 0x38 || op == 0x39 || op == 0x3A

/-- The special registers (R206) and the supervisor registers (R319) by name. -/
def specialNames : List (String × Nat) :=
  ["LANE", "SLOT", "GROUP", "WIDTH", "TIDX", "TSIZE", "TEAM", "CORE", "CLUSTER", "DIE", "CTX", "SIEVEAGE", "FSTAT", "CHRONO", "PAYLOAD", "LDLIM",
    "BANKMAP0", "BANKMAP1", "BANKMAP2"].zipIdx ++
  [("TRAPPC", 0x020), ("TRAPSB", 0x021), ("TRAPCAUSE", 0x022), ("TRAPINFO", 0x023)]

def supervisorNames : List (String × Nat) :=
  [("CTXCTL", 0x100), ("CTXPRIV", 0x130), ("CWTBASE", 0x131), ("CTXSAVE", 0x132), ("PILOTCFG", 0x140), ("SYSTAB", 0x200),
   ("MIGPAGE", 0x201), ("MIGFRAME", 0x202), ("MIGCTL", 0x203), ("MIGBOUND", 0x204), ("PROMCTL", 0x205), ("PROMLOG", 0x206), ("PROMHEAD", 0x207)] ++
  (["RANGE0", "RANGE1", "RANGE2", "RANGE3", "RANGE4", "RANGE5", "RANGE6", "RANGE7"].zipIdx.flatMap fun (r, n) =>
    [(r ++ ".VBASE", 0x110 + 3 * n), (r ++ ".VTOP", 0x111 + 3 * n), (r ++ ".MAP", 0x112 + 3 * n)])

def conditions : List (String × Nat) :=
  [("eq", 0), ("ne", 1), ("lt", 2), ("le", 3), ("gt", 4), ("ge", 5), ("un", 6), ("ord", 7)]

/-! ### Labels -/

/-- A label, or the first instruction of the kernel that a line opens. -/
inductive Key where
  | name (s : Text)
  | entry (line : Nat)
  deriving DecidableEq, Repr

abbrev Labels := List (Key × Nat)

def Labels.find (ls : Labels) (k : Key) : Except AsmError Nat :=
  match List.find? (fun (e : Key × Nat) => e.1 == k) ls with
  | some e => .ok e.2
  | none => .error .undefinedLabel

/-! ### Fields of a line -/

/-- What an operand of a line fills. -/
inductive Slot where
  | d | a | b | c
  /-- A memory address in A with its displacement in IMM. -/
  | address
  /-- A record or block address, which may stand without brackets. -/
  | block
  /-- A number in IMM. -/
  | number
  /-- A label, as an offset in words from the instruction (R208). -/
  | target
  /-- A register number in IMM. -/
  | register
  /-- WAIT's slots and its threshold (R282). -/
  | mask | threshold
  deriving DecidableEq, Repr

/-- The operands in the order D, A, B, C of R196, and after them what IMM holds; where an instruction's own rule writes
another order, that order (R282, R307, R309, R314, R317). -/
def slotsOf (op : Nat) (x : Fields) (s : OpSpec) : List Slot :=
  let has := fun (o : Opd) (sl : Slot) => if o = .unused then [] else [sl]
  let bit0 := x.xop.toNat.testBit 0
  let first : Slot := match s.imm with
    | .disp _ => if 0x70 ≤ op then .block else .address
    | _ => .a
  match op with
  | 0x4A => [.mask, .threshold]
  | 0x58 => [.target]
  | 0x5A => if bit0 then [.d, .a] else [.d, .target]
  | 0x5C => if bit0 then [.target, .b] else [.target]
  | 0x7A => if bit0 then [.register, .a] else [.d, .register]
  | 0x7C => has s.d .d ++ has s.a .a ++ has s.b .b ++ (match s.imm with | .number _ => [.register] | _ => [])
  | _ => has s.d .d ++ has s.a first ++ has s.b .b ++ has s.c .c ++ (match s.imm with | .number _ => [.number] | _ => [])

/-- An immediate on its way to IMM or a literal: its value, the width of its role, and whether it is source B. -/
structure Imm where
  val     : Int
  role    : Nat
  sourceB : Bool
  deriving DecidableEq, Repr

/-- A line's fields so far; `offset` is a target's. -/
structure Draft where
  x      : Fields
  imm    : Option Imm := none
  offset : Option Int := none
  /-- JMP to a literal (R306). -/
  jump   : Bool := false
  deriving DecidableEq, Repr

def setXop (x : Fields) (v : Nat) : Fields := { x with xop := x.xop ||| BitVec.ofNat 7 v }

/-- A register or pair in a field of a class (R188). LDV, STV and MOVQ name the first of their registers alone (R275, R300). -/
def regField (op : Nat) (recv : Bool) (o : Opd) (r : Reg) (pair : Bool) : Except AsmError (BitVec 8) :=
  let first := op == 0x44 || op == 0x45 || op == 0x79
  let v := r.kind == .v || r.kind == .hv
  let ok : Bool := match o with
    | .regs 2 => v && (pair || first) && !(pair && first)
    | .regs _ => v && !pair
    | .pred => r.kind == .p
    | .treg => r.kind == .g
    | .handle => r.kind == .h
    | .cvg => r.kind == .c
    | .queue => if recv then r.kind == .qi else r.kind == .qo
    | _ => false
  if ok then .ok r.field else .error .badOperand

/-- The bits of a signed decimal fraction in an IEEE type, rounded to nearest-even; under .b32 and .b64 as binary32 and
binary64 (R208). -/
def fractionBits (t : Ty) (neg : Bool) (num den : Nat) : Except AsmError Nat :=
  let f : Option Machine.Fmt := match t with
    | .f16 => some Machine.Fmt.binary16
    | .f32 | .b32 => some Machine.Fmt.binary32
    | .f64 | .b64 => some Machine.Fmt.binary64
    | _ => none
  match f with
  | some f => .ok (Machine.roundFrac f .nearestEven neg ⟨if neg then -(num : Int) else num, den⟩).bits
  | none => .error .badOperand

/-- The number that an immediate stands for; a label stands for its image offset in bytes (R450). -/
def valueOf (ls : Labels) (ty : Option Ty) : Value → Except AsmError Int
  | .int v => .ok v
  | .label n => (ls.find (.name n)).map Int.ofNat
  | .frac neg num den => match ty with
    | some t => (fractionBits t neg num den).map Int.ofNat
    | none => .error .badOperand

/-- The displacement of an address (R196, R280). -/
def dispWidth (s : OpSpec) : Nat := match s.imm with
  | .disp w => w
  | _ => 32

/-- The sign bits of an operand, A's or B's (R208). -/
def withSigns (op : Nat) (isB neg abs : Bool) (x : Fields) : Except AsmError Fields :=
  let m := boolNat neg * (if isB then 2 else 1) + boolNat abs * (if isB then 8 else 4)
  if m &&& signBits op = m then .ok (setXop x m) else .error .badOperand

/-- Fill one slot with one operand. `base` is the opcode's row, `addr` the instruction's image offset. -/
def fillSlot (ls : Labels) (op : Nat) (s : OpSpec) (addr : Nat) (w : Draft) (sl : Slot) (o : Operand) : Except AsmError Draft :=
  let recv := w.x.xop.getLsbD 0
  let address := fun (sp : Space) (r : Reg) (pair : Bool) (disp : Value) => do
    let wide := s.a == .regs 2
    let okSpace := match sp with
      | .global => wide
      | .const _ => op == 0x48
      | .peer => op == 0x42 || op == 0x43 || op == 0x47
      | _ => !wide && !(op == 0x42 || op == 0x43 || op == 0x47 || op == 0x48)
    if !okSpace then throw .badOperand
    let f ← regField 0 false s.a r pair
    let v ← valueOf ls none disp
    return { w with x := { w.x with a := f }, imm := if v = 0 then none else some ⟨v, dispWidth s, false⟩ }
  match sl, o with
  | .d, .reg r pair false false => return { w with x := { w.x with d := ← regField op recv s.d r pair } }
  | .a, .reg r pair neg abs => do
    let x ← withSigns op false neg abs w.x
    return { w with x := { x with a := ← regField op recv s.a r pair } }
  | .b, .reg r pair neg abs => do
    let x ← withSigns op true neg abs w.x
    return { w with x := { x with b := ← regField op recv s.b r pair } }
  | .c, .reg r pair false false => return { w with x := { w.x with c := ← regField op recv s.c r pair } }
  | .a, .value v =>
    if op = 0x59 then return { w with imm := some ⟨← valueOf ls none v, 64, true⟩, jump := true } else throw .badOperand
  | .b, .value v =>
    if s.iBit then return { w with imm := some ⟨← valueOf ls (some w.x.ty) v, s.b.roleBits, true⟩ } else throw .badOperand
  | .b, .window k off =>
    if 2 ^ 17 ≤ off then throw .outOfRange
    else return { w with x := { w.x with kw := true, low := BitVec.ofNat 20 (k * 2 ^ 17 + off) } }
  | .c, .cond n => match s.c, lookup conditions n with
    | .cond _, some v => return { w with x := { w.x with c := BitVec.ofNat 8 v } }
    | _, _ => throw .badOperand
  | .c, .value (.int v) => match s.c with
    | .num k => if 0 ≤ v ∧ v < k then return { w with x := { w.x with c := BitVec.ofNat 8 v.toNat } } else throw .outOfRange
    | _ => throw .badOperand
  | .address, .mem sp r pair disp => address sp r pair disp
  | .block, .mem sp r pair disp => address sp r pair disp
  | .block, .reg r pair false false => address .global r pair (.int 0)
  | .number, .value v => return { w with imm := some ⟨← valueOf ls none v, 32, false⟩ }
  | .target, .value (.label n) => do
    let t ← ls.find (.name n)
    let d := (t : Int) - addr
    if d % 4 = 0 then return { w with offset := some (d / 4) } else throw .outOfRange
  | .register, .value (.label n) => match lookup (if op = 0x7C then supervisorNames else specialNames) n with
    | some v => return { w with imm := some ⟨v, 32, false⟩ }
    | none => throw .badOperand
  | .register, .value (.int v) => return { w with imm := some ⟨v, 32, false⟩ }
  | .mask, .slots m => return { w with imm := some ⟨m, 32, false⟩ }
  | .threshold, .value (.int v) =>
    if 0 ≤ v ∧ v < 64 then return { w with imm := some ⟨v * 64 + (w.imm.map (·.val)).getD 0, 32, false⟩ } else throw .outOfRange
  | _, _ => throw .badOperand

/-- Fill the slots in order. -/
def fillSlots (ls : Labels) (op : Nat) (s : OpSpec) (addr : Nat) : List Slot → List Operand → Draft → Except AsmError Draft
  | [], [], w => .ok w
  | sl :: sls, o :: os, w => do fillSlots ls op s addr sls os (← fillSlot ls op s addr w sl o)
  | _, _, _ => .error .badOperand

/-! ### Modifiers and options -/

/-- Apply the modifiers: XOP fields, each field once, and the type suffixes in their order (R195, R197, R207). -/
def readMods (op : Nat) : List Text → (used xop : Nat) → (types : List Ty) → Except AsmError (Nat × List Ty)
  | [], _, xop, types => .ok (xop, types)
  | m :: ms, used, xop, types =>
    match lookup (modifiers op) m with
    | some f =>
      let bits := (2 ^ f.width - 1) * 2 ^ f.low
      if used &&& bits = 0 then readMods op ms (used ||| bits) (xop ||| f.value * 2 ^ f.low) types else .error .badModifier
    | none => match tyOf m with
      | some t =>
        if types.length < (if secondType op then 2 else 1) then readMods op ms used xop (types ++ [t]) else .error .badModifier
      | none => .error .badModifier

/-- The space of an address operand. -/
def Operand.space : Operand → Option Space
  | .mem sp _ _ _ => some sp
  | _ => none

/-- The space bits of XOP that the address syntax gives (R197, R208). -/
def spaceXop (op : Nat) (os : List Operand) : Nat :=
  match os.findSome? Operand.space with
  | some .plot => if op = 0x46 then 0x10 else if op = 0x64 ∨ op = 0x65 then 1 else if 0x40 ≤ op ∧ op ≤ 0x45 then 1 else 0
  | some .priv => if op = 0x40 ∨ op = 0x41 ∨ op = 0x44 ∨ op = 0x45 then 2 else 0
  | some (.const k) => if op = 0x48 then k else 0
  | _ => 0

/-- An address space that the opcode cannot name. -/
def spaceAllowed (op : Nat) (os : List Operand) : Bool :=
  os.all fun o => match o with
    | .mem .plot _ _ _ => op == 0x40 || op == 0x41 || op == 0x44 || op == 0x45 || op == 0x46 || op == 0x64 || op == 0x65
    | .mem .priv _ _ _ => op == 0x40 || op == 0x41 || op == 0x44 || op == 0x45
    | _ => true

/-- The instructions that read RND (R194, R209): those that round. -/
def readsRnd (op : Nat) (x : Fields) : Bool :=
  match op with
  | 0x20 | 0x21 | 0x22 | 0x23 | 0x27 | 0x28 | 0x29 | 0x2B | 0x2C | 0x2D | 0x2E | 0x30 | 0x31 | 0x32 | 0x33 | 0x36 | 0x37 | 0x3D | 0x69 => true
  | 0x38 => x.ty.isIeee || ((OpTable.srct x).map (·.isIeee)).getD false
  | 0x39 => !x.ty.isLi
  | 0x3A => x.ty.isGrit
  | 0x46 | 0x47 => OpTable.xf x 0 4 == 10
  | 0x53 | 0x54 => x.ty == .f32 && OpTable.xf x 0 3 == 0
  | _ => false

def rounding : List (String × Rnd) := [("rn", .nearestEven), ("rz", .towardZero), ("rp", .towardPositive), ("rm", .towardNegative)]
def scopes : List (String × Scope) :=
  [("thread", .thread), ("group", .group), ("team", .team), ("cluster", .cluster), ("die", .die), ("package", .package), ("system", .system)]

/-- A global load, which reads LEASE (R197, R209). -/
def readsLease (op : Nat) (x : Fields) : Bool := (op == 0x40 || op == 0x44) && OpTable.xf x 0 3 == 0

/-- One option (R209). -/
def applyOption (op : Nat) (s : OpSpec) (x : Fields) (o : Opt) : Except AsmError Fields :=
  let key := fun (k : String) => o.key == k.toList
  match o.vals with
  | [] => .error .badOption
  | v :: more =>
    if key "wait" then
      match (v :: more).foldl (fun m s => match m, slotOf s with
        | some m, some n => some (m ||| 2 ^ (n - 1))
        | _, _ => none) (some 0) with
      | some m => .ok { x with wait := BitVec.ofNat 6 m }
      | none => .error .badOption
    else if !more.isEmpty then .error .badOption
    else if key "la" then match plainNat v with
      | some n => if n < 16 then .ok { x with la := BitVec.ofNat 4 n } else .error .badOption
      | none => .error .badOption
    else if key "set" then match slotOf v with
      | some n => if s.set then .ok { x with set := BitVec.ofNat 3 n } else .error .badOption
      | none => .error .badOption
    else if key "rnd" then match lookup rounding v with
      | some r => if readsRnd op x then .ok { x with rnd := r } else .error .badOption
      | none => .error .badOption
    else if key "scope" then match lookup scopes v with
      | some r => if s.scope then .ok { x with scope := r } else .error .badOption
      | none => .error .badOption
    else if key "lease" then match plainNat v with
      | some n => if n < 4 ∧ readsLease op x then .ok (setXop x (n * 8)) else .error .badOption
      | none => .error .badOption
    else .error .badOption

def applyOptions (op : Nat) (s : OpSpec) : List Opt → Fields → Except AsmError Fields
  | [], x => .ok x
  | o :: os, x =>
    if os.any (fun p => p.key == o.key) then .error .badOption
    else do applyOptions op s os (← applyOption op s x o)

/-! ### The choice of form (R210) -/

/-- Every field that words 1 and 2 would hold is what R186 implies, but for source B. -/
def plainFields (s : OpSpec) (x : Fields) : Bool :=
  x.xop == 0 && x.guard == Guard.always && x.la == 0 && x.set == 0 && x.wait == 0 && x.rnd == .nearestEven && x.scope == .thread &&
  !x.kw && x.low == 0 && x.ty == s.defaultTy && x.c == (if s.c = .unused then 0 else x.d)

/-- What a line emits: a base BRA, a PAIR, or an opcode with its fields. -/
inductive Emitted where
  | branch (offset : BitVec 23)
  | pair (g0 g1 : Guard) (h0 h1 : Half)
  | fields (op : Nat) (x : Fields)
  deriving DecidableEq, Repr

def fitsSigned (bits : Nat) (v : Int) : Bool := decide (-(2 ^ (bits - 1) : Int) ≤ v ∧ v < 2 ^ (bits - 1))

/-- A number that a role of 32 or 64 bits can hold, signed or not. -/
def fitsRole (role : Nat) (v : Int) : Bool := decide (-(2 ^ (role - 1) : Int) ≤ v ∧ v < 2 ^ role)

/-- The fields of the form that R210 chooses. -/
def chooseForm (s : OpSpec) (w : Draft) : Except AsmError Fields :=
  let x := w.x
  match w.imm with
  | none =>
    if s.forms.contains .base && plainFields s x && decide (x.b.toNat < 128) then .ok { x with form := .base }
    else .ok x
  | some i =>
    let lit := BitVec.ofInt 64 i.val
    let bits := if i.sourceB then setXop x 0x40 else x
    if w.jump then
      (if plainFields s x && fitsRole i.role i.val then .ok { x with form := .lit, lit := lit } else .error .noForm)
    else if x.kw then .error .badOperand
    else if fitsSigned 20 i.val then .ok { bits with low := BitVec.ofInt 20 i.val }
    else if !fitsRole i.role i.val then .error .outOfRange
    else if i.sourceB && s.forms.contains .lit && plainFields s x then .ok { x with form := .lit, lit := lit }
    else if s.forms.contains .extLit then .ok { bits with form := .extLit, lit := lit }
    else .error .noForm

/-- The fields of an instruction before its operands: mnemonic, modifiers, type, guard, space and options. -/
def startFields (i : Insn) : Except AsmError (Nat × Fields × OpSpec) := do
  let some op := opOf i.name | throw .unknownMnemonic
  let (xop, types) ← readMods op i.mods 0 0 []
  if !spaceAllowed op i.args.operands then throw .badOperand
  let x := { Fields.ofBase op 0 0 0 with form := .ext, guard := i.guard, xop := BitVec.ofNat 7 (xop ||| spaceXop op i.args.operands) }
  if secondType op && types.length != 2 then throw .badModifier
  let x := setXop x ((types[1]?.map Ty.code).getD 0)
  let some s := opSpec op x | throw .unknownMnemonic
  let x := { x with ty := types.headD s.defaultTy }
  let some s := opSpec op x | throw .unknownMnemonic
  if s.types.isEmpty && !types.isEmpty then throw .badModifier
  let leased := i.args.options.any (fun o => o.key == "lease".toList)
  let x := if readsLease op x && !leased then setXop x 8 else x
  let x ← applyOptions op s i.args.options x
  return (op, x, s)

/-- WAIT's operands may be left out together or the threshold alone, and BAR's parties where they are not read. -/
def operandSlots (op : Nat) (x : Fields) (s : OpSpec) (count : Nat) : List Slot :=
  let all := slotsOf op x s
  if op = 0x4A then all.take count
  else if op = 0x78 ∧ count = 1 ∧ !x.xop.getLsbD 0 then [.c]
  else all

/-- The line leaves source C out, which a form without fields of its own takes from D (R186), as R217 writes ADDMIN v1, v2, v3. -/
def omitsC (op : Nat) (x : Fields) (s : OpSpec) (count : Nat) : Bool :=
  let all := slotsOf op x s
  s.c != .unused && s.d == s.c && (s.forms.contains .base || s.forms.contains .lit) && all.contains .c && count + 1 == all.length

/-- What the line emits is of a form, type, operand classes and fields that R196 gives the opcode (R210). A combination that
only the instruction's own rule forbids is left to decode. -/
def emittable (op : Nat) (y : Fields) : Bool :=
  match opSpec op y with
  | some s => s.forms.contains y.form && fieldsFit { s with own := true } y
  | none => false

/-- One instruction (R207 to R210). -/
def encodeInsn (ls : Labels) (addr : Nat) (i : Insn) : Except AsmError Emitted := do
  let (op, x, s) ← startFields i
  let count := i.args.operands.length
  let bare := omitsC op x s count
  let w ← fillSlots ls op s addr (if bare then (slotsOf op x s).filter (· != .c) else operandSlots op x s count) i.args.operands { x := x }
  let w := if bare then { w with x := { w.x with c := w.x.d } } else w
  match w.offset with
  | some off =>
    if op = 0x58 ∧ plainFields s w.x then
      (if fitsSigned 23 off then return .branch (BitVec.ofInt 23 off) else throw .outOfRange)
    else if fitsSigned 20 off then
      let y := { w.x with low := BitVec.ofInt 20 off }
      if emittable op y then return .fields op y else throw .noForm
    else throw .outOfRange
  | none =>
    let y ← chooseForm s w
    if bare && y.form != .base && y.form != .lit then throw .noForm
    if emittable op y then return .fields op y else throw .noForm

/-- A half of a PAIR is a base form with C = D, which is not written, and a B that may name any register (R200, R239). -/
def encodeHalf (ls : Labels) (addr : Nat) (i : Insn) : Except AsmError (Guard × Half) := do
  let (op, x, s) ← startFields { i with guard := Guard.always }
  if !i.args.options.isEmpty then throw .badOption
  let w ← fillSlots ls op s addr ((slotsOf op x s).filter (· != .c)) i.args.operands { x := x }
  let y := { w.x with c := if s.c = .unused then 0 else w.x.d }
  if w.imm.isSome || w.offset.isSome || !s.forms.contains .base || !plainFields s y then throw .noForm
  return (i.guard, ⟨BitVec.ofNat 7 op, w.x.d, w.x.a, w.x.b⟩)

/-- A PAIR; whether its halves may pair (R201) is left to decode. -/
def encodePair (ls : Labels) (addr : Nat) (i j : Insn) : Except AsmError Emitted := do
  let (g0, h0) ← encodeHalf ls addr i
  let (g1, h1) ← encodeHalf ls addr j
  if h0.fits && h1.fits then return .pair g0 g1 h0 h1 else throw .noForm

/-- The words emitted (R183 to R187, R200). -/
def Emitted.words : Emitted → List W32
  | .branch off => encode (.braBase off)
  | .pair g0 g1 h0 h1 => encode (.pair g0 g1 h0 h1)
  | .fields op x => fieldWords op x

def Emitted.bytes (e : Emitted) : List Byte := e.words.flatMap wordBytes

/-- A line that is one instruction or PAIR, at an image offset. -/
def encodeStmt (ls : Labels) (addr : Nat) : Stmt → Except AsmError Emitted
  | .insn i => encodeInsn ls addr i
  | .pair i j => encodePair ls addr i j
  | .directive _ _ => .error .wrongPlace

/-! ### Directives (R211) -/

inductive Section where
  | code | readOnly | writable
  deriving DecidableEq, Repr

/-- A value little-endian in n bytes. -/
def leBytes (n : Nat) (v : Nat) : List Byte := (List.range n).map fun k => BitVec.ofNat 8 (v >>> (8 * k))

/-- A kernel header's 32 bytes (R63). -/
def headerBytes (h : Machine.Header) : List Byte :=
  let wcode := if h.width = 64 then 2 else if h.width = 32 then 1 else 0
  leBytes 8 h.entry.toNat ++
  leBytes 4 (wcode * 2 ^ 30 + h.shape * 2 ^ 28 + h.place * 2 ^ 26 + (h.vregs / 8 - 1) * 2 ^ 21 + h.tsize) ++
  leBytes 4 (h.plot * 2 ^ 22 + h.tiles * 2 ^ 16 + h.privw) ++
  leBytes 4 (BitVec.ofInt 32 h.handler).toNat ++
  leBytes 12 (h.wins.zipIdx.foldl (fun n (e : Nat × Nat) => n + e.1 * 2 ^ (12 * e.2)) 0)

/-- The header directives read so far; `team` and `vregs` have defaults that depend on the rest. -/
structure Settings where
  width : Nat := 32
  vregs : Option Nat := none
  plot  : Nat := 0
  tiles : Nat := 0
  privw : Nat := 0
  shape : Nat := 0
  tsize : Option Nat := none
  place : Nat := 0
  wins  : List Nat := List.replicate 8 0xFFF
  deriving DecidableEq, Repr

def headerDirectives : List String := ["group", "vregs", "plot", "tiles", "private", "team", "window"]
def isHeaderDirective (name : Text) : Bool := headerDirectives.any fun d => d.toList == name

def natArg (o : Operand) (lo hi : Nat) : Except AsmError Nat :=
  match o with
  | .value (.int v) => if (lo : Int) ≤ v ∧ v ≤ hi then .ok v.toNat else .error .outOfRange
  | _ => .error .badOperand

def nameArg (o : Operand) : Except AsmError Text :=
  match o with
  | .value (.label n) => .ok n
  | _ => .error .badOperand

def wordArg {α : Type} (tbl : List (String × α)) (o : Operand) : Except AsmError α :=
  match o with
  | .value (.label n) => match lookup tbl n with
    | some v => .ok v
    | none => .error .badOperand
  | _ => .error .badOperand

/-- One header directive (R211). -/
def applyHeader (name : Text) (a : Args) (s : Settings) : Except AsmError Settings :=
  let is := fun (d : String) => name == d.toList
  if !a.options.isEmpty then .error .badOption
  else match a.operands with
  | [o] =>
    if is "group" then do
      let n ← natArg o 16 64
      if n = 16 ∨ n = 32 ∨ n = 64 then return { s with width := n } else throw .outOfRange
    else if is "vregs" then do
      let n ← natArg o 8 256
      if n % 8 = 0 then return { s with vregs := some n } else throw .outOfRange
    else if is "plot" then do return { s with plot := (← natArg o 0 (768 * 4096)) / 4096 + (if (← natArg o 0 (768 * 4096)) % 4096 = 0 then 0 else 1) }
    else if is "tiles" then do return { s with tiles := ← natArg o 0 32 }
    else if is "private" then do return { s with privw := ← natArg o 0 65535 }
    else .error .badOperand
  | [o, n] =>
    if is "team" then do
      return { s with shape := ← wordArg [("core", 0), ("pair", 1), ("bridge", 2)] o, tsize := some (← natArg n 1 8191), place := 0 }
    else if is "window" then do return { s with wins := s.wins.set (← natArg o 0 7) (← natArg n 0 0xFFF) }
    else .error .badOperand
  | [o, n, p] =>
    if is "team" then do
      return { s with shape := ← wordArg [("core", 0), ("pair", 1), ("bridge", 2)] o, tsize := some (← natArg n 1 8191)
                      place := ← wordArg [("any", 0), ("pack", 1), ("spread", 2)] p }
    else .error .badOperand
  | _ => .error .badOperand

/-- The highest v register that an operand names. -/
def Operand.topReg : Operand → Nat
  | .reg ⟨.v, n⟩ pair _ _ => n + boolNat pair + 1
  | .mem _ ⟨.v, n⟩ pair _ => n + boolNat pair + 1
  | _ => 0

/-- One above the highest v register that a statement names; 0 where it names none. -/
def Stmt.topReg : Stmt → Nat
  | .insn i => (i.args.operands.map (·.topReg)).foldl max 0
  | .pair i j => ((i.args.operands ++ j.args.operands).map (·.topReg)).foldl max 0
  | .directive _ _ => 0

/-- A line of the source with its number. -/
structure Item where
  line  : Nat
  label : Option Text
  stmt  : Option Stmt
  deriving DecidableEq, Repr

/-- The settings of the kernel whose lines these are, up to its .endk, and one above its highest v register. -/
def kernelSettings : List Item → Settings → Nat → Except AsmError (Settings × Nat)
  | [], s, top => .ok (s, top)
  | it :: rest, s, top =>
    match it.stmt with
    | some (.directive name a) =>
      if name = "endk".toList then .ok (s, top)
      else if isHeaderDirective name then do kernelSettings rest (← applyHeader name a s) top
      else kernelSettings rest s top
    | some st => kernelSettings rest s (max top st.topReg)
    | none => kernelSettings rest s top

/-- The header, with R211's defaults: W threads, and the least multiple of 8 above the highest v register named. -/
def Settings.header (s : Settings) (top : Nat) (entry : Nat) (handler : Int) : Machine.Header :=
  { entry := BitVec.ofNat 64 entry, width := s.width, shape := s.shape, place := s.place
    vregs := s.vregs.getD (max 8 ((top + 7) / 8 * 8)), tsize := s.tsize.getD s.width, plot := s.plot, tiles := s.tiles, privw := s.privw
    handler := handler, wins := s.wins }

/-- A decimal value of .g8 by R97 under RND 00; one that would set SAT is an error (R211). -/
def g8Value (neg : Bool) (num den : Nat) : Except AsmError Nat :=
  let r := Machine.gritRound 8 .nearestEven ⟨if neg then -(num : Int) else num, den⟩
  if r.flags &&& Machine.Flag.sat = 0 then .ok r.bits else .error .outOfRange

/-- A decimal value of .li32 by R107. -/
def li32Value (neg : Bool) (num den : Nat) : Nat :=
  let t := fun p => Machine.tOfLog p ⟨Machine.Real.lnBelow p num den, Machine.Real.lnAbove p num den⟩
  if num = 0 then 0
  else if num = den then Machine.Li.encode 27 (.val neg false 1 0)
  else (Machine.roundSpace 27 (Machine.decideT 27 neg t 4 128)).val.encode 27

/-- One value of a data directive. -/
def dataValue (name : Text) (o : Operand) : Except AsmError (List Byte) :=
  let is := fun (d : String) => name == d.toList
  match o with
  | .value (.int v) =>
    if is "word" then (if fitsRole 32 v then .ok (leBytes 4 (BitVec.ofInt 32 v).toNat) else .error .outOfRange)
    else if is "half" then (if fitsRole 16 v then .ok (leBytes 2 (BitVec.ofInt 16 v).toNat) else .error .outOfRange)
    else if is "g8" then (g8Value (decide (v < 0)) v.natAbs 1).map (leBytes 1)
    else if is "li32" then .ok (leBytes 4 (li32Value (decide (v < 0)) v.natAbs 1))
    else .error .unknownMnemonic
  | .value (.frac neg num den) =>
    if is "g8" then (g8Value neg num den).map (leBytes 1)
    else if is "li32" then .ok (leBytes 4 (li32Value neg num den))
    else .error .badOperand
  | _ => .error .badOperand

def dataBytes (name : Text) : List Operand → Except AsmError (List Byte)
  | [] => .ok []
  | o :: os => do return (← dataValue name o) ++ (← dataBytes name os)

def isDataDirective (name : Text) : Bool := ["word", "half", "g8", "li32"].any fun d => d.toList == name

/-! ### The image (R450) -/

def alignUp (n k : Nat) : Nat := (n + k - 1) / k * k

/-- What a line puts into a section: where, and its bytes or its error. -/
structure Chunk where
  line  : Nat
  place : Nat
  out   : Except AsmError (List Byte)

def Chunk.size (c : Chunk) : Nat := match c.out with
  | .ok bs => bs.length
  | .error _ => 0

/-- The walk over a source file's lines: the section selected, the place in the section walked, the kernel line that waits for its
first instruction, and what has been found, latest first. -/
structure Walk where
  sec    : Section := .code
  place  : Nat
  opened : Option Nat := none
  chunks : List Chunk := []
  labels : Labels := []

def Walk.add (w : Walk) (line : Nat) (out : Except AsmError (List Byte)) : Walk :=
  let c : Chunk := ⟨line, w.place, out⟩
  { w with place := w.place + c.size, chunks := c :: w.chunks }

def Walk.mark (w : Walk) (k : Key) : Walk := { w with labels := (k, w.place) :: w.labels }

/-- Zero bytes up to a boundary. -/
def Walk.pad (w : Walk) (line n : Nat) : Walk := w.add line (.ok (List.replicate (alignUp w.place n - w.place) 0))

/-- The header of a kernel whose entry and handler the labels give (R211): HANDLER is label − ENTRY. -/
def kernelHeader (ls : Labels) (base line : Nat) (a : Args) (rest : List Item) : Except AsmError (List Byte) := do
  let (s, top) ← kernelSettings rest {} 0
  let entry ← ls.find (.entry line)
  let handler : Int ← match a.options with
    | [] => pure 0
    | [o] => match o.vals with
      | [l] => if o.key == "handler".toList then (do pure ((← ls.find (.name l) : Nat) - (entry : Int))) else throw .badOption
      | _ => throw .badOption
    | _ => throw .badOption
  return headerBytes (s.header top (base + entry) handler)

/-- .align's boundary: a power of two. -/
def alignArg (a : Args) : Except AsmError Nat :=
  match a.operands with
  | [.value (.int v)] => if 0 < v ∧ v.toNat = 2 ^ Nat.log2 v.toNat ∧ a.options.isEmpty then .ok v.toNat else .error .outOfRange
  | _ => .error .badOperand

/-- The name that .kernel defines. -/
def kernelName (a : Args) : Except AsmError Text := match a.operands with
  | [o] => nameArg o
  | _ => .error .badOperand

/-- One line in the walk over section `want`. -/
def walkLine (want : Section) (ls : Labels) (base : Nat) (it : Item) (rest : List Item) (w : Walk) : Walk :=
  let is := fun (name : Text) (d : String) => name == d.toList
  let here := w.sec == want
  let w := match it.label with
    | some n => if here then w.mark (.name n) else w
    | none => w
  match it.stmt with
  | none => w
  | some (.directive name a) =>
    if is name "kernel" then
      let w := { w with sec := .code }
      if want == .code then
        let w := w.pad it.line 32
        let w := match kernelName a with
          | .ok n => w.mark (.name n)
          | .error _ => w
        { w.add it.line (kernelHeader ls base it.line a rest) with opened := some it.line }
      else w
    else if is name "rodata" then { w with sec := .readOnly }
    else if is name "data" then { w with sec := .writable }
    else if is name "align" then (if here then (match alignArg a with
      | .ok n => w.pad it.line n
      | .error e => w.add it.line (.error e)) else w)
    else if isDataDirective name then (if here then w.add it.line (dataBytes name a.operands) else w)
    else w
  | some st =>
    if here then
      let w := match w.opened with
        | some k => { w.mark (.entry k) with opened := none }
        | none => w
      w.add it.line ((encodeStmt ls w.place st).map (·.bytes))
    else w

def walkLines (want : Section) (ls : Labels) (base : Nat) : List Item → Walk → Walk
  | [], w => w
  | it :: rest, w => walkLines want ls base rest (walkLine want ls base it rest w)

/-- The three sections (R450): read-only data and writable data each begin at the next 64 KiB boundary. -/
def walkSections (ls : Labels) (base : Nat) (items : List Item) : Walk × Walk × Walk :=
  let c := walkLines .code ls base items { place := 0 }
  let r := walkLines .readOnly ls base items { place := alignUp c.place 65536 }
  (c, r, walkLines .writable ls base items { place := alignUp r.place 65536 })

def foundLabels (t : Walk × Walk × Walk) : Labels := t.2.2.labels ++ t.2.1.labels ++ t.1.labels

/-- Lengths depend on labels where a label is an immediate: repeat from every label at 0 until none moves. -/
def settle (base : Nat) (items : List Item) : Nat → Labels → Labels
  | 0, ls => ls
  | n + 1, ls =>
    let ls' := foundLabels (walkSections ls base items)
    if ls' == ls then ls else settle base items n ls'

/-! ### Where a line may stand (R211, R450) -/

/-- The section selected, and the kernel that is open: whether it has an instruction yet. -/
structure Context where
  sec    : Section := .code
  kernel : Option Bool := none
  deriving DecidableEq, Repr

/-- The context after a line, or its error. -/
def checkLine (it : Item) (c : Context) : Except AsmError Context :=
  let is := fun (name : Text) (d : String) => name == d.toList
  match it.stmt with
  | none => .ok c
  | some (.directive name a) =>
    if is name "kernel" then (if c.kernel.isSome then .error .wrongPlace else (kernelName a).map fun _ => ⟨.code, some false⟩)
    else if is name "endk" then (if c.kernel = some true then .ok { c with kernel := none } else .error .wrongPlace)
    else if isHeaderDirective name then (if c.kernel = some false then .ok c else .error .wrongPlace)
    else if is name "rodata" || is name "data" then
      (if c.kernel.isSome then .error .wrongSection else .ok { c with sec := if is name "data" then .writable else .readOnly })
    else if isDataDirective name then
      (if c.sec = .code then .error .wrongSection else if a.operands.isEmpty then .error .badOperand else if a.options.isEmpty then .ok c else .error .badOption)
    else if is name "align" then .ok c
    else .error .unknownMnemonic
  | some _ => if c.sec ≠ .code then .error .wrongSection else .ok { c with kernel := c.kernel.map fun _ => true }

def checkLines : List Item → Context → Except (Nat × AsmError) Unit
  | [], c => if c.kernel.isSome then .error (0, .wrongPlace) else .ok ()
  | it :: rest, c => match checkLine it c with
    | .ok c => checkLines rest c
    | .error e => .error (it.line, e)

/-- The labels a line defines. -/
def Item.defines (it : Item) : List Text :=
  it.label.toList ++ (match it.stmt with
    | some (.directive name a) => if name == "kernel".toList then (kernelName a).toOption.toList else []
    | _ => [])

/-! ### A source file -/

/-- An assembled image and its labels' offsets (R450). -/
structure Image where
  bytes  : List Byte
  labels : List (Text × Nat)
  deriving DecidableEq, Repr

def readItems : Nat → List Text → Except (Nat × AsmError) (List Item)
  | _, [] => .ok []
  | n, l :: ls => match readLine l with
    | .ok x => (readItems (n + 1) ls).map fun rest => ⟨n, x.label, x.stmt⟩ :: rest
    | .error e => .error (n, e)

/-- The bytes of chunks in order, or the first error. -/
def joinChunks : List Chunk → Except (Nat × AsmError) (List Byte)
  | [] => .ok []
  | c :: cs => match c.out with
    | .ok bs => (joinChunks cs).map (bs ++ ·)
    | .error e => .error (c.line, e)

def padTo (n : Nat) (bs : List Byte) : List Byte := bs ++ List.replicate (n - bs.length) 0

/-- Put a section at its place after the bytes before it; an empty one takes no space (R450). -/
def placeSection (start : Nat) (sec bs : List Byte) : List Byte := if sec.isEmpty then bs else padTo start bs ++ sec

/-- Assemble a source file, whose lines are counted from 1, for loading at `base` (R207 to R212, R450). -/
def assemble (base : Nat) (src : List Text) : Except (Nat × AsmError) Image := do
  let items ← readItems 1 src
  checkLines items {}
  let names := items.flatMap (·.defines)
  match items.find? (fun it => it.defines.any fun n => decide (1 < names.count n)) with
  | some it => throw (it.line, .duplicateLabel)
  | none => pure ()
  let zero : Labels := foundLabels (walkSections [] base items) |>.map fun e => (e.1, 0)
  let ls := settle base items (items.length + 2) zero
  let t := walkSections ls base items
  let code ← joinChunks t.1.chunks.reverse
  let ro ← joinChunks t.2.1.chunks.reverse
  let rw_ ← joinChunks t.2.2.chunks.reverse
  if foundLabels t ≠ ls then throw (0, .noForm)
  let roStart := alignUp t.1.place 65536
  let rwStart := alignUp t.2.1.place 65536
  return ⟨placeSection rwStart rw_ (placeSection roStart ro code),
    ls.reverse.filterMap fun e => match e.1 with
      | .name n => some (n, e.2)
      | .entry _ => none⟩

/-- Split a text at line ends. -/
def splitLines : Text → List Text
  | [] => [[]]
  | c :: cs => match splitLines cs with
    | [] => [[c]]
    | w :: ws => if c == '\n' then [] :: w :: ws else (c :: w) :: ws

def assembleText (base : Nat) (s : Text) : Except (Nat × AsmError) Image := assemble base (splitLines s)

/-- The words of an image that a text assembles to, for loading at 0. -/
def assembledWords (s : String) : Option (List W32) := (assembleText 0 s.toList).toOption.map fun im => wordsOfBytes im.bytes

end Sys2Proof.Dexas
end

