-- ==== Sys2Proof/Safety.lean ====
section
/-! DEFINITION. What counts as a safe run: no stop, and the invariants that claims take as premises. -/

namespace Sys2Proof.Safety

open Sys2Proof.Machine

/-- Module memory is in its canonical form (DESIGN CHOICE, assumption 2): equal memories are equal data. -/
def MemoryCanonical (s : State) : Prop := s.mem.mem.wf = true

/-- The device is not held in reset (R437). -/
def Released (s : State) : Prop := s.pkg.bootErr = false

/-- A step answers a next state: neither a fault nor a refusal. -/
def Steps (s : State) : Prop := ∃ t, Machine.step s = .next t

/-- n steps from a state answer a next state. -/
def RunsFor (n : Nat) (s : State) : Prop := ∃ t, Host.Core.run Sys2Proof.core n s = .next t

end Sys2Proof.Safety
end

