-- ==== Sys2Proof/Certificates/Slice0/Obligations.lean ====
section
/-! DEFINITION. The statements for the provers, each a proposition over the model. -/

namespace Sys2Proof.Claims

open Sys2Proof.Machine

/-! ### Vocabulary -/

/-- An instruction's own effect happens: a group issues, with these active threads; its team is live; no check of R203 fails; its constant
operand is read. -/
structure Issues (s : State) (op : Nat) (x : Fields) (tm : Team) (sp : OpSpec) (act : List Thread) (ws : List W32) : Prop where
  active : s.active = act
  team   : ∃ h rest, act = h :: rest ∧ s.team h.team = some tm ∧ issueCheck s tm h sp op x = none
  row    : opSpec op x = some sp
  const  : constOperand s tm sp x = .words ws

/-- As Issues, for an instruction that reads no constant operand by itself, with the first active thread named. -/
structure Goes (s : State) (op : Nat) (x : Fields) (tm : Team) (sp : OpSpec) (h : Thread) (rest : List Thread) : Prop where
  active : s.active = h :: rest
  team   : s.team h.team = some tm
  check  : issueCheck s tm h sp op x = none
  row    : opSpec op x = some sp

/-- The participating lanes: active threads with a true guard (R191, R241). -/
def partOf (x : Fields) (act : List Thread) : List Thread := act.filter fun t => t.guardTrue x.guard

/-- A thread after an instruction that writes `o` in it, or nothing: registers, predicates, FSTAT and PC as said; its slot counters, its
lookahead windows and the times of its results may change; all else is as before. -/
def ThreadWrote (x : Fields) (o : Option LaneOut) (h h' : Thread) : Prop :=
  let w : Thread := match o with
    | some o => h.applyOut x.d.toNat o
    | none => h
  h' = { h with regs := w.regs, hv := w.hv, preds := w.preds, fstat := w.fstat, pc := h.pc + BitVec.ofNat 64 x.form.length
                sb := h'.sb, windows := h'.windows, busy := h'.busy }

/-- What an instruction whose results are written at issue leaves of every thread: the active ones have gone on, those that `out` answers
for with its result; the others are as before. -/
def Wrote (s t : State) (x : Fields) (act : List Thread) (out : Thread → Option LaneOut) : Prop :=
  t.threads.length = s.threads.length ∧
  ∀ (k : Nat) (h : Thread), s.threads[k]? = some h → ∃ h', t.threads[k]? = some h' ∧
    (if (act.map (·.ref)).contains h.ref then ThreadWrote x (out h) h h' else h' = h)

/-- Nothing but threads, results in flight and the clock's timers and numbers has changed. -/
def OnlyThreads (s t : State) : Prop :=
  t.pkg = s.pkg ∧ t.ctxs = s.ctxs ∧ t.cores = s.cores ∧ t.groups = s.groups ∧ t.teams = s.teams ∧ t.runs = s.runs ∧ t.plots = s.plots ∧
  t.tile = s.tile ∧ t.render = s.render ∧ (∀ a, t.mem.mem.read a = s.mem.mem.read a) ∧
  t.mem = { s.mem with results := t.mem.results } ∧ t.clk = { s.clk with timers := t.clk.timers, nextId := t.clk.nextId }

/-- What an instruction whose results are written at issue does to the timing (R192, R193, R237): D can be read `lat` cycles later, and in the windows of
a lookahead form gives the old value or the new until then; a participating thread counts the instruction in the slot of SET; and one result, which
writes nothing, releases that slot after `lat` cycles. With SET = 0, or no participating thread, no slot is counted and no result is in flight. -/
def Timed (s t : State) (x : Fields) (act : List Thread) (lat : Nat) (out : Thread → Option LaneOut) : Prop :=
  (∀ (k : Nat) (h : Thread), s.threads[k]? = some h → (act.map (·.ref)).contains h.ref = true → ∃ h', t.threads[k]? = some h' ∧
    h'.sb = (if ((partOf x act).map (·.ref)).contains h.ref then (h.slotUp x.set.toNat).sb else h.sb) ∧
    (∀ o, out h = some o →
      let p := h.predChange x.d.toNat o.pred
      if o.vals = [] ∧ p = none then h'.busy = h.busy ∧ h'.windows = h.windows
      else h'.busy = h.busy ++ [⟨regKey h.handler x.d.toNat, o.vals.length, p.map (·.1), s.clk.cycle + lat⟩] ∧
        h'.windows = h.windows ++ if x.la = 0 then []
          else [⟨0, x.d.toNat, readRegs s h x.d.toNat o.vals.length, x.la.toNat + 1, s.clk.cycle + lat, p, h.handler⟩]) ∧
    (out h = none → h'.busy = h.busy ∧ h'.windows = h.windows)) ∧
  (x.set = 0 ∨ partOf x act = [] → t.mem.results = s.mem.results ∧ t.clk = s.clk) ∧
  (∀ p ps, x.set ≠ 0 → partOf x act = p :: ps → ∃ r, t.mem.results = s.mem.results ++ [r] ∧ r.id = s.clk.nextId ∧ r.set = x.set.toNat ∧
    r.handler = p.handler ∧ r.counted = (p :: ps).map (·.ref) ∧ r.lanes = [] ∧ r.holds = none ∧
    t.clk.timers = s.clk.timers ++ [(s.clk.cycle + lat, .longLatencyResult r.id)])

/-- Latency, and the cycles for which a pass holds its pipe, of an instruction whose results are written at issue: the tables of R237 and R268. -/
def shortTimes (op : Nat) (x : Fields) : Nat × Nat :=
  let wide := fun (n w : Nat) => if x.ty.wide then w else n
  if op = 0x0F then (6, 2)
  else if op = 0x03 ∨ op = 0x04 ∨ op = 0x05 then (wide 6 10, wide 1 4)
  else if op < 0x20 then (wide 4 6, wide 1 2)
  else if op = 0x2C then (wide 5 8, wide 1 4)
  else if op < 0x30 then (wide 4 8, wide 1 4)
  else if op = 0x38 ∨ op = 0x3A then (if x.ty.wide || (srcTy x).wide then 6 else 4, 1)
  else if op = 0x3E then (8, 1) else (4, 1)

/-- The cycles after which a group reads the result: one of width 64 adds the first pass's hold, which a pipe with one lane slice doubles (R25, R30, R237). -/
def shortLatency (s : State) (tm : Team) (op : Nat) (x : Fields) : Nat :=
  (shortTimes op x).1 + if tm.header.width = 64 then (if s.halvedIssue then 2 * (shortTimes op x).2 else (shortTimes op x).2) else 0

/-- The same for the cross-lane instructions that answer at issue, which count both passes (R268). -/
def crossLatency (op : Nat) (x : Fields) : Nat :=
  let wide := fun (n w : Nat) => if x.ty.wide then w else n
  if op = 0x52 then 4 else if op = 0x3B ∨ op = 0x3C then 6 else if op = 0x55 then wide 8 10 else wide 6 8

/-- What the lanes of an independent instruction write. -/
def perLane (s : State) (sp : OpSpec) (x : Fields) (ws : List W32) (f : Lane → LaneOut) (h : Thread) : Option LaneOut :=
  if h.guardTrue x.guard then some (f (laneOf s sp x ws h)) else none

/-! ### Lane rules of the independent instructions -/

/-- The exact operation of R217 and R218, with whether SAT (bit 0 of XOP) clamps it. -/
def integerRule : Instr → Option (Ty → Int → Int → Int → Int)
  | .iaddBase .. | .iaddExtended _ => some fun _ a b _ => a + b
  | .isubBase .. | .isubExtended _ => some fun _ a b _ => a - b
  | .imulBase .. | .imulExtended _ => some fun _ a b _ => a * b
  | .imulhBase .. | .imulhExtended _ => some fun t a b _ => a * b / (2 ^ t.bits : Int)
  | .imadBase .. | .imadExtended _ => some fun _ a b c => a * b + c
  | .iminBase .. | .iminExtended _ => some fun _ a b _ => min a b
  | .imaxBase .. | .imaxExtended _ => some fun _ a b _ => max a b
  | .addminBase .. | .addminExtended _ => some fun _ a b c => min (a + b) c
  | .iabsBase .. | .iabsExtended _ => some fun _ a _ _ => (a.natAbs : Int)
  | .inegBase .. | .inegExtended _ => some fun _ a _ _ => -a
  | _ => none

/-- The bits that the logic, shift and bit-field instructions write (R222 to R227), as a number. -/
def bitsRule (x : Fields) : Instr → Option (Lane → Nat)
  | .andBase .. | .andExtended _ => some fun l => (l.a &&& l.b).toNat
  | .orBase .. | .orExtended _ => some fun l => (l.a ||| l.b).toNat
  | .xorBase .. | .xorExtended _ => some fun l => (l.a ^^^ l.b).toNat
  | .andnBase .. | .andnExtended _ => some fun l => (l.a &&& ~~~l.b).toNat
  | .movBase .. | .movExtended _ => some fun l => l.b.toNat
  | .shlBase .. | .shlExtended _ => some fun l => if shiftCount l < x.ty.bits then typeBits x.ty l.a * 2 ^ shiftCount l % 2 ^ x.ty.bits else 0
  | .shrBase .. | .shrExtended _ => some fun l => if shiftCount l < x.ty.bits then typeBits x.ty l.a / 2 ^ shiftCount l else 0
  | .sraBase .. | .sraExtended _ => some (shiftArith x.ty)
  | .rotBase .. | .rotExtended _ => some (rotateLeft x.ty)
  | .bfxBase .. | .bfxExtended _ => some (extractField x.ty)
  | .bfiBase .. | .bfiExtended _ => some (insertField x.ty)
  | .brevBase .. | .brevExtended _ => some fun l => reverseBits x.ty.bits (typeBits x.ty l.a)
  | .bpermBase .. | .bpermExtended _ => some fun l => bytePermute l.a.toNat l.b.toNat
  | .bool3 _ => some fun l => truthTable x.ty.bits x.low.toNat l.a.toNat l.b.toNat l.c.toNat
  | _ => none

/-- POPC, CLZ, LEA, ICMP and ISEL (R219, R221, R225). -/
def otherRule (x : Fields) : Instr → Option (Lane → LaneOut)
  | .popcBase .. | .popcExtended _ => some fun l => .word (BitVec.ofNat 32 (popCount (typeBits x.ty l.a)))
  | .clzBase .. | .clzExtended _ => some fun l => .word (BitVec.ofNat 32 (leadingZeros x.ty.bits (typeBits x.ty l.a)))
  | .leaBase .. | .leaExtended _ => some fun l => .pair (l.a + (l.b.setWidth 32).signExtend 64 <<< natField x.xop.toNat 0 3)
  | .icmp _ => some fun l =>
    { pred := some (condHolds x.c.toNat (decide (intValue x.ty l.a < intValue x.ty l.b)) (decide (intValue x.ty l.a = intValue x.ty l.b))) }
  | .isel _ => some fun l => { vals := typeWords x.ty (if l.t.pred x.c.toNat then l.a else l.b).toNat }
  | _ => none

/-- Both of these. -/
def wordRule (x : Fields) (i : Instr) : Option (Lane → LaneOut) := match bitsRule x i with
  | some f => some fun l => { vals := typeWords x.ty (f l) }
  | none => otherRule x i

end Sys2Proof.Claims
namespace Sys2Proof.Claims

open Sys2Proof.Machine

/-- The lane rules of the IEEE instructions that use no divide unit (R228 to R235), and of the conversions and packings of one lane (R248,
R251, R252, R254). -/
def ieeeRule (x : Fields) : Instr → Option (Lane → LaneOut)
  | .faddBase .. | .faddExtended _ => some fun l => ieeeOut x (sumProducts (Fmt.ofTy x.ty) x.rnd [[fpA x l], [fpB x l]])
  | .fsubBase .. | .fsubExtended _ => some fun l => ieeeOut x (sumProducts (Fmt.ofTy x.ty) x.rnd [[fpA x l], [(fpB x l).flip]])
  | .fmulBase .. | .fmulExtended _ => some fun l => ieeeOut x (sumProducts (Fmt.ofTy x.ty) x.rnd [[fpA x l, fpB x l]])
  | .ffmaBase .. | .ffmaExtended _ => some fun l => ieeeOut x (sumProducts (Fmt.ofTy x.ty) x.rnd [[fpA x l, fpB x l], [fpC x l]])
  | .fdot2Base .. | .fdot2Extended _ => some fun l => ieeeOut x (sumProducts (Fmt.ofTy x.ty) x.rnd (dotTerms x l))
  | .flerpBase .. | .flerpExtended _ => some fun l =>
    ieeeOut x (sumProducts (Fmt.ofTy x.ty) x.rnd [[(fpC x l).oneMinus, fpA x l], [fpC x l, fpB x l]])
  | .frndBase .. | .frndExtended _ => some fun l => ieeeOut x (rintFp (Fmt.ofTy x.ty) x.rnd (fpA x l))
  | .ffracBase .. | .ffracExtended _ => some fun l => ieeeOut x (fracFp (Fmt.ofTy x.ty) x.rnd (fpA x l))
  | .fscaleBase .. | .fscaleExtended _ => some fun l => ieeeOut x (scaleFp (Fmt.ofTy x.ty) x.rnd (fpA x l) (l.b.setWidth 32).toInt)
  | .fminBase .. | .fminExtended _ => some fun l =>
    roundedOut x.ty (minMaxBits (Fmt.ofTy x.ty) false (x.xop.getLsbD 5) (ieeeA x l) (ieeeB x l))
  | .fmaxBase .. | .fmaxExtended _ => some fun l =>
    roundedOut x.ty (minMaxBits (Fmt.ofTy x.ty) true (x.xop.getLsbD 5) (ieeeA x l) (ieeeB x l))
  | .fclassBase .. | .fclassExtended _ => some fun l => .word (BitVec.ofNat 32 (classMask (Fmt.ofTy x.ty) (typeBits x.ty l.a)))
  | .fcmp _ => some fun l =>
    { pred := some (compareBits (Fmt.ofTy x.ty) x.c.toNat (ieeeA x l) (ieeeB x l)).1
      flags := (compareBits (Fmt.ofTy x.ty) x.c.toNat (ieeeA x l) (ieeeB x l)).2 }
  | .cvt _ => some (convertOut x)
  | .gcvt _ => some fun l => roundedOut x.ty (gritConvert x.ty (srcTy x) x.rnd (typeBits (srcTy x) l.a))
  | .pkhBase .. | .pkhExtended _ => some fun l =>
    let lo := convertFp .binary16 x.rnd (Fp.decode .binary32 (l.a.toNat % 2 ^ 32))
    let hi := convertFp .binary16 x.rnd (Fp.decode .binary32 (l.b.toNat % 2 ^ 32))
    { vals := [BitVec.ofNat 32 (lo.bits + hi.bits * 2 ^ 16)], flags := lo.flags ||| hi.flags }
  | .rand _ => some fun l => if x.xop.getLsbD 0 then .word (unitOfMix (mix l.a l.b)) else .pair (mix l.a l.b)
  | _ => none

/-- What the cross-lane instructions that answer at issue write (R253, R260 to R262, R266): a pair of thread and result for each
participating lane. -/
def groupRule (x : Fields) (tm : Team) : Instr → Option (List Lane → List (TRef × LaneOut))
  | .shfl _ => some fun ls => exchange x.ty ls (shuffleSource (natField x.xop.toNat 0 2))
  | .lshf _ => some fun ls => exchange x.ty ls (shiftSource (x.xop.getLsbD 0) (x.xop.getLsbD 1) tm.header.width)
  | .vote _ => some fun ls => ls.map fun l => (l.t.ref, voteOut x ls)
  | .matchLanes _ => some fun ls => ls.map fun l => (l.t.ref, .pair (laneMask (ls.filter fun k => typeBits x.ty k.a == typeBits x.ty l.a)))
  | .pack6 _ => some fun ls => ls.map fun l =>
    (l.t.ref, .word (if l.t.lane < 3 * tm.header.width / 16 then BitVec.ofNat 32 (natField (laneStream 6 ls tm.header.width) (32 * l.t.lane) 32) else 0))
  | .unpk6 _ => some fun ls => ls.map fun l =>
    (l.t.ref, .word (BitVec.ofNat 32 (natField (laneStream 32 ls (3 * tm.header.width / 16)) (6 * l.t.lane) 6)))
  | _ => none

/-- What the long-latency instructions of the divide unit, the level-index unit and the SFU, and the trees of REDUCE and SCAN, deliver, and
after how many cycles (R220, R228, R237, R243 to R247, R250, R255, R258, R263 to R265). -/
def laterRule (x : Fields) (tm : Team) : Instr → Option (List Lane → Nat × List (TRef × LaneOut))
  | .idiv _ => some fun ls =>
    (divideLatency tm x.ty, ls.map fun l => (l.t.ref, { vals := intWords x.ty false (divRem x.ty (intValue x.ty l.a) (intValue x.ty l.b)).1 }))
  | .irem _ => some fun ls =>
    (divideLatency tm x.ty, ls.map fun l => (l.t.ref, { vals := intWords x.ty false (divRem x.ty (intValue x.ty l.a) (intValue x.ty l.b)).2 }))
  | .fdiv _ => some fun ls => (rootLatency tm x.ty, ls.map fun l => (l.t.ref, ieeeOut x (divFp (Fmt.ofTy x.ty) x.rnd (fpA x l) (fpB x l))))
  | .fsqrt _ => some fun ls => (rootLatency tm x.ty, ls.map fun l => (l.t.ref, ieeeOut x (sqrtFp (Fmt.ofTy x.ty) x.rnd (fpA x l))))
  | .ladd _ => some (levels fun l => liArith .add (liFrac x.ty) (liA x l) (liB x l))
  | .lsub _ => some (levels fun l => liArith .sub (liFrac x.ty) (liA x l) (liB x l))
  | .lmul _ => some (levels fun l => liArith .mul (liFrac x.ty) (liA x l) (liB x l))
  | .ldiv _ => some (levels fun l => liArith .div (liFrac x.ty) (liA x l) (liB x l))
  | .lexp _ => some (levels fun l => liExp (liFrac x.ty) (liValue x.ty l.a))
  | .llog _ => some (levels fun l => liLog (liFrac x.ty) (liValue x.ty l.a))
  | .lcvt _ => some (levels (levelConvert x))
  | .lcmp _ => some fun ls => (liLatency tm [3], ls.map fun l =>
    (l.t.ref, { pred := some (liCompare (liFrac x.ty) x.c.toNat (liValue x.ty l.a) (liValue x.ty l.b)).1
                flags := (liCompare (liFrac x.ty) x.c.toNat (liValue x.ty l.a) (liValue x.ty l.b)).2 }))
  | .lmisc _ => some fun ls => (liLatency tm [3], ls.map fun l =>
    (l.t.ref, { vals := [BitVec.ofNat 32 (liMisc (liFrac x.ty) (natField x.xop.toNat 0 2) (liValue x.ty l.a)).1]
                flags := (liMisc (liFrac x.ty) (natField x.xop.toNat 0 2) (liValue x.ty l.a)).2 }))
  | .sfu _ => some fun ls =>
    (sfuLatency tm (natField x.xop.toNat 0 3), ls.map fun l =>
      (l.t.ref, roundedOut x.ty (Sfu.eval (Fmt.ofTy x.ty) (natField x.xop.toNat 0 3) (typeBits x.ty l.a))))
  | .reduce _ => some fun ls => ((treeEnds x.ty (natField x.xop.toNat 0 3) tm).getLastD 2, reduceOut x tm ls)
  | .scan _ => some fun ls => ((scanEnds x tm).getLastD 2, scanOut x ls)
  | _ => none
where
  /-- A level-index instruction: the longest latency of its lanes (R247). -/
  levels (f : Lane → LiResult) (ls : List Lane) : Nat × List (TRef × LaneOut) :=
    (liLatency tm ((ls.map fun l => (l, f l)).map fun p => p.2.latency), (ls.map fun l => (l, f l)).map fun p => (p.1.t.ref, liOut x.ty p.2))

/-- The active threads of an instruction have gone past it and its participating ones count it in its slot (R38, R193); their lookahead windows may
change; all else in every thread is as before. -/
def WentOn (s t : State) (x : Fields) (act : List Thread) : Prop :=
  t.threads.length = s.threads.length ∧
  ∀ (k : Nat) (h : Thread), s.threads[k]? = some h → ∃ h', t.threads[k]? = some h' ∧
    h' = { h with pc := if (act.map (·.ref)).contains h.ref then h.pc + BitVec.ofNat 64 x.form.length else h.pc
                  sb := if ((partOf x act).map (·.ref)).contains h.ref then (h.slotUp x.set.toNat).sb else h.sb, windows := h'.windows }

/-- A long-latency instruction has issued (R78, R193): its result is in flight with the lanes' values, due after `lat` cycles, and its threads have
gone on; a lookahead form opens a window over D, and over the predicate that the result will write, in each participating thread (R192). -/
def Sent (s t : State) (x : Fields) (act : List Thread) (lat : Nat) (outs : List (TRef × LaneOut)) : Prop :=
  (∃ r, t.mem.results = s.mem.results ++ [r] ∧ r.id = s.clk.nextId ∧ r.set = x.set.toNat ∧ r.counted = (partOf x act).map (·.ref) ∧
    r.sups = [] ∧ r.pages = [] ∧ r.held = none ∧
    r.lanes = outs.map (fun p => ⟨p.1, x.d.toNat, p.2.vals, p.2.pred.map fun b => (x.d.toNat, b), p.2.flags⟩) ∧
    t.clk.timers = s.clk.timers ++ [(s.clk.cycle + lat, .longLatencyResult r.id)]) ∧
  WentOn s t x act ∧
  ∀ (k : Nat) (h : Thread), s.threads[k]? = some h → ∃ h', t.threads[k]? = some h' ∧ h'.windows = h.windows ++
    if x.la ≠ 0 ∧ ((partOf x act).map (·.ref)).contains h.ref = true then
      [⟨s.clk.nextId, x.d.toNat, [], x.la.toNat + 1, 0,
        h.predChange x.d.toNat ((outs.find? fun p => p.1 == h.ref && p.2.pred.isSome).bind fun p => p.2.pred), h.handler⟩] else []

end Sys2Proof.Claims

open Sys2Proof Sys2Proof.Machine Sys2Proof.Claims

/-- R217, R218: IADD to INEG, base and extended, with the timing of R192, R193 and R237. -/
def Obligations.IntegerArithmetic : Prop :=
  ∀ (i : Instr) (op : Nat) (x : Fields) (own : Bool) (f : Ty → Int → Int → Int → Int) (s : State) (tm : Team) (sp : OpSpec) (act : List Thread)
    (ws : List W32), i.row? = some (op, x, own) → integerRule i = some f → Issues s op x tm sp act ws →
    let out := perLane s sp x ws fun l =>
      { vals := intWords x.ty (x.xop.getLsbD 0) (f x.ty (intValue x.ty l.a) (intValue x.ty l.b) (intValue x.ty l.c)) }
    ∃ t, exec i s = .next t ∧ OnlyThreads s t ∧ Wrote s t x act out ∧ Timed s t x act (shortLatency s tm op x) out

/-- R219, R221 to R227: the logic, shift and bit-field instructions, with POPC, CLZ, LEA, ICMP and ISEL, with the timing of R192, R193 and R237. -/
def Obligations.BitsAndCompares : Prop :=
  ∀ (i : Instr) (op : Nat) (x : Fields) (own : Bool) (f : Lane → LaneOut) (s : State) (tm : Team) (sp : OpSpec) (act : List Thread)
    (ws : List W32), i.row? = some (op, x, own) → wordRule x i = some f → Issues s op x tm sp act ws →
    ∃ t, exec i s = .next t ∧ OnlyThreads s t ∧ Wrote s t x act (perLane s sp x ws f) ∧ Timed s t x act (shortLatency s tm op x) (perLane s sp x ws f)

/-- R228 to R235, R248, R251, R252, R254, with the timing of R192, R193, R237 and R268. -/
def Obligations.IeeeAndConversions : Prop :=
  ∀ (i : Instr) (op : Nat) (x : Fields) (own : Bool) (f : Lane → LaneOut) (s : State) (tm : Team) (sp : OpSpec) (act : List Thread)
    (ws : List W32), i.row? = some (op, x, own) → ieeeRule x i = some f → Issues s op x tm sp act ws →
    ∃ t, exec i s = .next t ∧ OnlyThreads s t ∧ Wrote s t x act (perLane s sp x ws f) ∧ Timed s t x act (shortLatency s tm op x) (perLane s sp x ws f)

/-- R253, R260 to R262, R266, with the timing of R192, R193 and R268. -/
def Obligations.CrossLane : Prop :=
  ∀ (i : Instr) (op : Nat) (x : Fields) (own : Bool) (s : State) (tm : Team) (sp : OpSpec) (act : List Thread)
    (ws : List W32) (f : List Lane → List (TRef × LaneOut)), i.row? = some (op, x, own) → groupRule x tm i = some f → Issues s op x tm sp act ws →
    let out := fun (h : Thread) => ((f ((partOf x act).map (laneOf s sp x ws))).find? fun p => p.1 == h.ref).map (·.2)
    ∃ t, exec i s = .next t ∧ OnlyThreads s t ∧ Wrote s t x act out ∧ Timed s t x act (crossLatency op x) out

/-- R220, R228, R243 to R247, R250, R255, R263 to R265. -/
def Obligations.LongLatencyUnits : Prop :=
  ∀ (i : Instr) (op : Nat) (x : Fields) (own : Bool) (s : State) (tm : Team) (sp : OpSpec) (act : List Thread)
    (ws : List W32) (f : List Lane → Nat × List (TRef × LaneOut)), i.row? = some (op, x, own) → laterRule x tm i = some f →
    Issues s op x tm sp act ws → partOf x act ≠ [] →
    ∃ t, exec i s = .next t ∧ OnlyThreads s t ∧
      Sent s t x act (f ((partOf x act).map (laneOf s sp x ws))).1 (f ((partOf x act).map (laneOf s sp x ws))).2

namespace Sys2Proof.Claims

open Sys2Proof.Machine

/-! ### Loads, stores, packets -/

/-- Opcode, fields, bytes and registers of a load or store (R274, R275, R277). -/
def accessShape : Instr → Option (Nat × Fields × Nat × Nat)
  | .ld x => some (0x40, x, x.ty.bytes, regsOf x.ty)
  | .ldv x => some (0x44, x, 4 * OpTable.countOf x, OpTable.countOf x)
  | .st x => some (0x41, x, x.ty.bytes, regsOf x.ty)
  | .stv x => some (0x45, x, 4 * OpTable.countOf x, OpTable.countOf x)
  | _ => none

def isLoad : Instr → Bool
  | .ld _ | .ldv _ => true
  | _ => false

/-- The global, plot and private accesses among located ones. -/
def globals (found : List Located) : List (LaneAccess × (W64 × W64 × W64)) := found.filterMap fun f => match f with
  | .global a r => some (a, r)
  | _ => none
def plots (found : List Located) : List (TRef × Nat × List Byte) := found.filterMap fun f => match f with
  | .plot t o bs => some (t, o, bs)
  | _ => none
def privates (found : List Located) : List LaneAccess := found.flatMap fun f => match f with
  | .priv as => as
  | _ => []

/-- The state in which an instruction of the memory family has begun (R38, R192, R193). -/
def begun (s : State) (act part : List Thread) (x : Fields) (dst n : Nat) : State := (beginMem s act part x dst n).2

/-- BANKCFG's rule (R138, R287). -/
def bankRule (_ : Team) (l : Lane) (s : State) : Except Trap (Nat × State) :=
  let bank := natField l.a.toNat 0 32
  let mode := natField l.b.toNat 0 32
  if 48 ≤ bank ∨ 4 ≤ mode then .ok (6, s)
  else if bankStatus s l.t.ref.core bank mode ≠ 0 then .ok (bankStatus s l.t.ref.core bank mode, s)
  else .ok (0, (s.updCore l.t.ref.core fun k => { k with changes := k.changes ++ [⟨bank, mode, (s.core l.t.ref.core).modes.getD bank 0 != 0⟩] }).after
    (if (s.core l.t.ref.core).modes.getD bank 0 != 0 ∧ mode = 1 then 512 else 4)
    (.bankChangeComplete l.t.ref.core bank))

/-- PLOT and BANKCFG: fields, opcode, latency and rule (R285 to R287). -/
def onceShape : Instr → Option (Fields × Nat × Nat × (Team → Lane → State → Except Trap (Nat × State)))
  | .plotOpen x => some (x, 0x4B, 12, plotOpen)
  | .plotClose x => some (x, 0x4B, 12, plotClose)
  | .plotGive x => some (x, 0x4B, 12, plotGive)
  | .plotTake x => some (x, 0x4B, 12, plotTake)
  | .bankcfg x => some (x, 0x4E, 4, bankRule)
  | _ => none

end Sys2Proof.Claims

/-- R274, R275: LD and LDV. Each participating lane's access passes its checks, so the instruction has its effect: global lanes are served by
the L1 or send one request for each line they touch (assumption 100); plot lanes are answered with the plot's bytes after at least 12 cycles; private lanes are
served by the L1 or fill it. -/
def Obligations.LoadsBegin : Prop :=
  ∀ (i : Instr) (opc size n : Nat) (x : Fields) (s : State) (tm : Team) (sp : OpSpec) (h : Thread) (rest : List Thread) (p : Thread) (ps : List Thread)
    (found : List Located), accessShape i = some (opc, x, size, n) → isLoad i = true → Goes s opc x tm sp h rest → partOf x (h :: rest) = p :: ps →
    ((p :: ps).map fun t => locate s tm x false size x.d.toNat (laneOf s sp x [] t) []) = found.map .ok →
    (OpTable.xf x 0 3 = 0 → exec i s = .next (loadGlobal (begun s (h :: rest) (p :: ps) x x.d.toNat n) tm p x s.clk.nextId
      ((globals found).map fun a => (a.1, leaseClass (OpTable.xf x 3 2) a.2 a.1.ia)))) ∧
    (OpTable.xf x 0 3 = 1 → (∀ f ∈ plots found, poisonedPlot s tm.id p.ref.core f.2.1 size = false) →
      exec i s = .next ((begun s (h :: rest) (p :: ps) x x.d.toNat n).addAccess s.clk.nextId 12 x.set.toNat p.handler ((p :: ps).map (·.ref))
        ((plots found).map fun f => loadLane f.1 x.ty x.d.toNat (plotBytes s tm.id p.ref.core f.2.1 size)))) ∧
    (2 ≤ OpTable.xf x 0 3 → exec i s = .next (accessPrivate (begun s (h :: rest) (p :: ps) x x.d.toNat n) tm p x s.clk.nextId false (privates found)))

/-- R274, R275: ST and STV with data from registers or an immediate-free constant operand that has been read. -/
def Obligations.StoresBegin : Prop :=
  ∀ (i : Instr) (opc size n : Nat) (x : Fields) (s : State) (tm : Team) (sp : OpSpec) (h : Thread) (rest : List Thread) (p : Thread) (ps : List Thread)
    (ws : List W32) (found : List Located), accessShape i = some (opc, x, size, n) → isLoad i = false → Goes s opc x tm sp h rest →
    partOf x (h :: rest) = p :: ps → constOperand s tm { sp with b := .regs n } x = .words ws →
    ((p :: ps).map fun t => locate s tm x true size 0 (laneOf s sp x [] t)
      ((if x.kw then ws.flatMap fun w => leBytes 4 w.toNat else regBytes s t x.b.toNat n).take size)) = found.map .ok →
    (OpTable.xf x 0 3 = 0 → exec i s = .next (storeGlobal (begun s (h :: rest) (p :: ps) x 0 0) tm p x s.clk.nextId ((globals found).map (·.1)))) ∧
    (OpTable.xf x 0 3 = 1 → exec i s = .next ((coverPlot ((plots found).foldl (fun s f => writePlot s tm.id p.ref.core f.2.1 f.2.2)
      (begun s (h :: rest) (p :: ps) x 0 0)) tm.id p.ref.core ((plots found).map fun f => (f.2.1, f.2.2.length))).addAccess
        s.clk.nextId 12 x.set.toNat p.handler ((p :: ps).map (·.ref)) [])) ∧
    (2 ≤ OpTable.xf x 0 3 → exec i s = .next (accessPrivate (begun s (h :: rest) (p :: ps) x 0 0) tm p x s.clk.nextId true (privates found)))

/-- R281, R282: FENCE stalls each participating thread at its scope, and the group goes on; WAIT goes on when no slot of its mask is above the
threshold in an active thread, and otherwise changes nothing. -/
def Obligations.FenceAndWait : Prop :=
  (∀ (x : Fields) (s : State) (tm : Team) (sp : OpSpec) (h : Thread) (rest : List Thread), Goes s 0x49 x tm sp h rest →
    ∃ t, exec (.fence x) s = .next t ∧ t.mem = s.mem ∧ t.clk = s.clk ∧ t.cores = s.cores ∧
      ∀ (k : Nat) (u : Thread), s.threads[k]? = some u → t.threads[k]? = some
        { u with pc := if ((h :: rest).map (·.ref)).contains u.ref then u.pc + BitVec.ofNat 64 x.form.length else u.pc
                 fence := if ((partOf x (h :: rest)).map (·.ref)).contains u.ref then some x.scope else u.fence }) ∧
  (∀ (x : Fields) (s : State) (tm : Team) (sp : OpSpec) (h : Thread) (rest : List Thread), Goes s 0x4A x tm sp h rest →
    let met := (h :: rest).all fun t => (List.range 6).all fun k => !((natField x.low.toNat 0 6).testBit k) || decide (t.slot (k + 1) ≤ natField x.low.toNat 6 6)
    (met = true → exec (.wait x) s = .next (s.advance (h :: rest) x.form.length)) ∧ (met = false → exec (.wait x) s = .next s))

/-- R285, R286, R287: PLOT and BANKCFG act once, with the operands of the lowest participating lane, and deliver their status to every
participating lane. The 12 and 4 cycles are the model's (assumption 5), and so is the order of several statuses (assumption 16). -/
def Obligations.PlotAndBank : Prop :=
  ∀ (i : Instr) (x : Fields) (s : State) (tm : Team) (sp : OpSpec) (act : List Thread) (ws : List W32) (p : Thread) (ps : List Thread)
    (op lat st : Nat) (f : Team → Lane → State → Except Trap (Nat × State)) (s' : State),
    onceShape i = some (x, op, lat, f) → Issues s op x tm sp act ws → partOf x act = p :: ps →
    f tm (laneOf s sp x ws p) s = .ok (st, s') →
    exec i s = .next ((begun s' act (p :: ps) x x.d.toNat 1).addLater s'.clk.nextId lat x.set.toNat p.handler ((p :: ps).map (·.ref))
      ((p :: ps).map fun t => ⟨t.ref, x.d.toNat, [BitVec.ofNat 32 st], none, 0⟩) none [])

namespace Sys2Proof.Claims

open Sys2Proof.Machine

/-! ### Packets, atomics, constant loads, prefetches, cache control -/

/-- The lanes of the participating threads. -/
def lanesOf (s : State) (sp : OpSpec) (x : Fields) (ws : List W32) (ps : List Thread) : List Lane := ps.map (laneOf s sp x ws)

/-- The request of one lane's packet to a plot window (R142, R276): the window's home core, its number, the lane's byte offset. -/
def packetOf (tm : Team) (p : Thread) (x : Fields) (op : Nat) (kind : ReqKind) (dst : Nat) (data : Lane → List Byte)
    (f : Lane × CoreId × Nat × Nat) : Request :=
  { requestOf tm p x op kind with
    route := .packet f.2.1 f.2.2.1 f.2.2.2, va := f.1.a.toNat % 2 ^ 32, ia := 2 ^ 60 + (f.2.1.core * 32 + f.2.2.1) * 128
    parts := [⟨f.1.t.ref, f.2.2.2, x.ty.bytes, dst, data f.1, leBytes x.ty.bytes f.1.c.toNat, []⟩] }

/-- Opcode, fields, request, destination and registers of a packet instruction. -/
def packetShape : Instr → Option (Nat × Fields × ReqKind × Nat × Nat × Bool)
  | .ldp x => some (0x42, x, .load 0, x.d.toNat, regsOf x.ty, false)
  | .stp x => some (0x43, x, .store, 0, 0, true)
  | .atomp x => some (0x47, x, .atomic (OpTable.xf x 0 4) x.rnd, x.d.toNat, regsOf x.ty, true)
  | _ => none

/-- The accesses of an ATOM on module memory. -/
def atomAccesses (x : Fields) (found : List (Lane × Nat)) : List LaneAccess :=
  found.map fun p => ⟨p.1.t.ref, globalVa x p.1.a, p.2, x.ty.bytes, x.d.toNat, leBytes x.ty.bytes p.1.b.toNat, leBytes x.ty.bytes p.1.c.toNat⟩

/-- A dirty private line of the team's context. -/
def dirtyOf (tm : Team) (l : L1Line) : Bool := l.ctx == tm.ctx && l.isPrivate && l.dirty

/-- The lines that the participating lanes' addresses name, where a range matches (R284). -/
def namedLines (s : State) (tm : Team) (sp : OpSpec) (x : Fields) (ps : List Thread) : List Nat :=
  ((lanesOf s sp x [] ps).filterMap fun l => (translate (ctxOf s tm) (globalVa x l.a) 1).map fun r => lineOf r.1).eraseDups

/-! ### Control flow -/

/-- Every active thread takes a new PC, and its group may issue again after n cycles, one more at width 64 (R38, R326); nothing else changes. -/
def transferred (s : State) (tm : Team) (act : List Thread) (g : GRef) (n : Nat) (pcOf : Thread → W64) : State :=
  { s with threads := s.threads.map fun u => if (act.map (·.ref)).contains u.ref then { u with pc := pcOf u } else u
           groups := s.groups.map fun k =>
             if k.ref == g then { k with ready := max k.ready (s.clk.cycle + n + (if some tm.header.width = some 64 then 1 else 0)) } else k }

/-- The group that issues is listed, as one of the team. -/
def GroupOf (s : State) (tm : Team) (g : GRef) : Prop := (s.group g).bind (fun k => s.team k.team) = some tm

/-- A literal target, or the register pair at A (R304). -/
def targetOf (s : State) (x : Fields) (u : Thread) : W64 :=
  if x.form = .lit then x.lit else pairValue (readReg s u x.a.toNat) (readReg s u (x.a.toNat + 1))

/-- The address after the instruction. -/
def nextPc (x : Fields) (u : Thread) : W64 := u.pc + BitVec.ofNat 64 x.form.length

/-- JMP and RET: opcode, fields, and the cycles to the next issue for the targets (R306, R308, R326). -/
def jumpShape (s : State) : Instr → Option (Nat × Fields × (List W64 → Nat))
  | .jmp x => some (0x59, x, fun _ => 6)
  | .retBase a => some (0x5B, Fields.ofBase 0x5B 0 a 0, retRule)
  | .retExtended x => some (0x5B, x, retRule)
  | _ => none
where
  /-- RET: 2 cycles where each target is the address after the group's latest CALL. -/
  retRule (ts : List W64) : Nat := match s.clk.issue.bind fun g => (s.group g).bind (·.link) with
    | some l => if ts.all (· == l) then 2 else 6
    | none => 6

/-- CALL: fields, target and cycles (R307, R326). -/
def callShape (s : State) : Instr → Option (Fields × (Thread → W64) × Nat)
  | .call x => some (x, fun u => u.pc + BitVec.ofInt 64 (4 * x.low.toInt), 2)
  | .callReg x => some (x, fun u => pairValue (readReg s u x.a.toNat) (readReg s u (x.a.toNat + 1)), 6)
  | _ => none

/-- The participating threads of a list that others of it are not. -/
def idleOf (x : Fields) (act : List Thread) : List Thread := act.filter fun t => !(t.guardTrue x.guard)

/-- Team state after a thread list declares (R51), or joins and waits (R52), at convergence register n. -/
def declared (s : State) (tm : Team) (n : Nat) (ts : List TRef) : State :=
  s.updTeam tm.id fun k => { k with cvgs := modifyAt (fun c => c.declare ts) n k.cvgs }
def joined (s : State) (tm : Team) (n : Nat) (ts : List (TRef × Option Vote)) : State :=
  ((s.updTeam tm.id fun k => { k with cvgs := modifyAt (fun c => c.sign ts) n k.cvgs }).updThreads (ts.map (·.1)) fun h =>
    { h with status := .waiting (.cvg n) }).settle

/-- EXIT: base and extended. -/
def exitShape : Instr → Option Fields
  | .exitBase => some (Fields.ofBase 0x5E 0 0 0)
  | .exitExtended x => some x
  | _ => none

/-- YIELD without a cancellation point, and NOP. -/
def yieldShape : Instr → Option Fields
  | .yieldBase => some (Fields.ofBase 0x5F 0 0 0)
  | .yieldExtended x => some x
  | _ => none
def nopShape : Instr → Option Fields
  | .nopBase => some (Fields.ofBase 0x7D 0 0 0)
  | .nopExtended x => some x
  | _ => none

/-- An event of a group leaves for its team's holding core (R36): the active threads, each with whether it participates, and a word; it arrives after
the transit, and the group goes on only with the answer. -/
def sentToHold (s : State) (tm : Team) (op : Nat) (x : Fields) (h : Thread) (act : List Thread) (word : Thread → W32) : State :=
  { s with mem := { s.mem with arrivals := s.mem.arrivals ++
      [⟨s.clk.cycle + holdTransit tm h.ref.core, h.gref, tm.id, op, x, act.map fun t => (t.ref, t.guardTrue x.guard, word t), 0, false, h.handler⟩] } }

/-- An arrival has come, and what the holding core sends back: a misuse of the threads, reported at a lane, or that these threads go on (R36). -/
def taken (s : State) (a : Arrival) : State := { s with mem := { s.mem with arrivals := s.mem.arrivals.filter fun b => b != a } }
def answered (s : State) (tm : Team) (a : Arrival) (misuse lane : Nat) (ts : List TRef) : State :=
  { s with mem := { s.mem with arrivals := s.mem.arrivals ++
      [{ a with due := s.clk.cycle + holdTransit tm a.group.core, answer := true, result := misuse, threads := ts.map fun t => (t, false, BitVec.ofNat 32 lane) }] } }

/-- Threads of an event that have not ended since it left: all of them, and those that participate. -/
def live (s : State) (ts : List TRef) : List TRef := ts.filter fun t => (s.thread t).any fun h => !h.exited && h.dying.isNone
def liveAll (s : State) (a : Arrival) : List TRef := live s (a.threads.map (·.1))
def livePart (s : State) (a : Arrival) : List TRef := live s ((a.threads.filter fun p => p.2.1).map (·.1))

/-- The lane at which a misuse by threads is reported: that of the first. -/
def laneOfFirst (s : State) (ts : List TRef) : Nat := ((ts.head?.bind s.thread).map (·.lane)).getD 0

/-- The number of a register or ring that TRAPINFO of CONV_MISUSE gives (R329). -/
def eventNumber (a : Arrival) : Nat := if a.op = 0x5D then a.x.d.toNat % 16 else if a.op = 0x68 then a.x.c.toNat % 16 else a.x.c.toNat % 8

/-- A convergence register that a member has left (R51): E is one less, and S where the member had signed; without members it is IDLE. -/
def leftCvg (t : TRef) (c : Cvg) : Cvg :=
  if c.isOpen = false ∨ c.members.contains t = false then c
  else if c.e - 1 = 0 then ⟨false, 0, 0, [], []⟩
  else { c with e := c.e - 1, s := if c.signed.any fun p => p.1 == t then c.s - 1 else c.s
                members := c.members.filter (· != t), signed := c.signed.filter fun p => p.1 != t }

/-- A stage ring that a thread has left (R56, R57): the stages that it owns are released, each with its full bit turned; it waits in no acquire, and an
acquire without threads is withdrawn. -/
def leftRing (tm : Team) (t : TRef) (r : Ring) : Ring :=
  let drop := fun (as : List Acquire) => (as.map fun q => { q with threads := q.threads.filter (· != t) }).filter fun q => !q.threads.isEmpty
  { r with stages := r.stages.map fun g => if g.owner = some (State.ownerOf tm t) then ⟨!g.full, none⟩ else g, toProduce := drop r.toProduce, toConsume := drop r.toConsume }

/-- A barrier after a thread has departed, with its WMAX (R174, R299): a thread that had arrived departs at the completion. -/
def departed (h : Thread) (b : Barrier) : Barrier :=
  if b.teams.contains h.team = false then b
  else if b.waiters.contains h.ref then
    { b with bwmax := max b.bwmax h.wmax, gone := max b.gone h.wmax, waiters := b.waiters.filter (· != h.ref), late := b.late + 1 }
  else { b with bwmax := max b.bwmax h.wmax, gone := max b.gone h.wmax, dep := b.dep + 1 }

/-- The handles that a thread held, or was to receive, are EMPTY (R359). -/
def leftHandle (t : TRef) (k : Handle) : Handle := if k.state = .held t.core t.slot ∨ k.state = .given t.core t.slot then { k with state := .empty } else k

/-- Threads end, with what follows at once. -/
def ended (s : State) (ts : List TRef) (how : Ending) : State := ((ts.foldl (fun s t => s.exitThread t how) s).ceaseGroups).settle

end Sys2Proof.Claims

/-- R276, R277, R278: LDP, STP and ATOMP send one packet for each participating lane. -/
def Obligations.PacketsBegin : Prop :=
  ∀ (i : Instr) (opc dst n : Nat) (x : Fields) (kind : ReqKind) (takesB : Bool) (s : State) (tm : Team) (sp : OpSpec) (h : Thread) (rest : List Thread)
    (p : Thread) (ps : List Thread) (ws : List W32) (found : List (CoreId × Nat × Nat)),
    packetShape i = some (opc, x, kind, dst, n, takesB) → Goes s opc x tm sp h rest → partOf x (h :: rest) = p :: ps →
    (opc = 0x47 → x.scope = .thread ∨ fencesDone s tm (p :: ps) x.scope = true) →
    (if takesB then constOperand s tm sp x else .words []) = .words ws →
    (lanesOf s sp x ws (p :: ps)).map (fun l => windowCheck x l.t x.ty.bytes l.a) = found.map .ok →
    exec i s = .next ((begun s (h :: rest) (p :: ps) x dst n).sendAll
      (((lanesOf s sp x ws (p :: ps)).zip found).map
        (packetOf tm p x s.clk.nextId kind dst fun l => if takesB then leBytes x.ty.bytes l.b.toNat else [])))

/-- R278, R279: ATOM. On the issuing core's plot the lanes act in ascending order, each with its own old value; on module memory the L1
copies of its lines are removed and one request for each line is sent (assumption 100). -/
def Obligations.AtomicsBegin : Prop :=
  ∀ (x : Fields) (s : State) (tm : Team) (sp : OpSpec) (h : Thread) (rest : List Thread) (p : Thread) (ps : List Thread) (ws : List W32),
    Issues s 0x46 x tm sp (h :: rest) ws → partOf x (h :: rest) = p :: ps → (x.scope = .thread ∨ fencesDone s tm (p :: ps) x.scope = true) →
    (∀ found : List Nat, OpTable.xf x 4 2 = 1 →
      (lanesOf s sp x ws (p :: ps)).map (fun l => plotCheck s l.t tm true x.ty.bytes (natField l.a.toNat 0 32 + disp32 x)) = found.map .ok →
      (∀ o ∈ found, poisonedPlot s tm.id p.ref.core o x.ty.bytes = false) →
      let r := plotAtomics (begun s (h :: rest) (p :: ps) x x.d.toNat (regsOf x.ty)) tm p.ref.core x ((lanesOf s sp x ws (p :: ps)).zip found)
      exec (.atom x) s = .next (r.1.addAccess s.clk.nextId 12 x.set.toNat p.handler ((p :: ps).map (·.ref)) (r.2.map (·.1)) (OpTable.xf x 0 4 == 10)
        (r.2.map fun q => (q.1.t, q.2)))) ∧
    (∀ found : List (Nat × (W64 × W64 × W64)), OpTable.xf x 4 2 ≠ 1 →
      (lanesOf s sp x ws (p :: ps)).map (fun l => globalCheck (ctxOf s tm) .atomic x.ty.bytes x.ty.bytes (globalVa x l.a) l.t.lane) = found.map .ok →
      let as := atomAccesses x ((lanesOf s sp x ws (p :: ps)).zip (found.map (·.1)))
      let s' := (linesOf as).foldl (fun s ln => s.expelL1 p.ref.core tm.ctx ln) (begun s (h :: rest) (p :: ps) x x.d.toNat (regsOf x.ty))
      exec (.atom x) s = .next (s'.sendAll ((lineRequests (requestOf tm p x s.clk.nextId (.atomic (OpTable.xf x 0 4) x.rnd)) s' as).map fun r =>
        { r with parts := r.parts.map fun q => { q with own := [] } })))

/-- R280: LDK, where every lane's words are in the constant cache. -/
def Obligations.ConstantLoads : Prop :=
  ∀ (x : Fields) (s : State) (tm : Team) (sp : OpSpec) (h : Thread) (rest : List Thread) (p : Thread) (ps : List Thread) (found : List (List W32)),
    Goes s 0x48 x tm sp h rest → partOf x (h :: rest) = p :: ps →
    (p :: ps).map (fun t => ldkRead s tm x (laneOf s sp x [] t)) = found.map .words →
    exec (.ldk x) s = .next ((begun s (h :: rest) (p :: ps) x x.d.toNat (regsOf x.ty)).addAccess s.clk.nextId 8 x.set.toNat p.handler ((p :: ps).map (·.ref))
      (((p :: ps).zip found).map fun q => ⟨q.1.ref, x.d.toNat, q.2, none, 0⟩))

/-- R283, R284: PREF fills each line that a participating lane names and the group goes on. CCTL.wbpriv leaves every dirty private line of the context
in the core's L1 clean, each on its way to its home; after CCTL.invl1 the L1 holds no copy of a line that a participating lane's address names, and each
dirty private one is on its way to its home; CCTL.invk drops the context's constant-cache lines. No byte of memory changes at the issue of a CCTL, and no other core. -/
def Obligations.PrefetchAndCacheControl : Prop :=
  ∀ (x : Fields) (s : State) (tm : Team) (sp : OpSpec) (h : Thread) (rest : List Thread) (p : Thread) (ps : List Thread), partOf x (h :: rest) = p :: ps →
    (Goes s 0x4C x tm sp h rest →
      exec (.pref x) s = .next (((prefetchLines s tm x (lanesOf s sp x [] (p :: ps))).foldl (fun s q => prefetchLine s tm p x q.1 q.2.1 q.2.2) s).advance
        (h :: rest) x.form.length)) ∧
    (Goes s 0x4D x tm sp h rest → (privStorePending s p.ref.core tm.ctx fun _ => true) = false →
      ∃ t, exec (.cctlWbpriv x) s = .next t ∧ WentOn s t x (h :: rest) ∧ (∀ a, t.mem.mem.read a = s.mem.mem.read a) ∧ (∀ c ≠ p.ref.core, t.core c = s.core c) ∧
        t.core p.ref.core = { s.core p.ref.core with l1 := (s.core p.ref.core).l1.map fun l => if dirtyOf tm l then { l with dirty := false } else l } ∧
        ∀ l ∈ (s.core p.ref.core).l1, dirtyOf tm l = true → ∃ r ∈ t.mem.requests, r.kind = .writeBack ∧ r.ia = l.line ∧ r.frame = l.frame ∧ r.line = l.data) ∧
    (Goes s 0x4D x tm sp h rest → (privStorePending s p.ref.core tm.ctx fun ln => (namedLines s tm sp x (p :: ps)).contains ln) = false →
      ∃ t, exec (.cctlInvl1 x) s = .next t ∧ WentOn s t x (h :: rest) ∧ (∀ a, t.mem.mem.read a = s.mem.mem.read a) ∧ (∀ c ≠ p.ref.core, t.core c = s.core c) ∧
        t.core p.ref.core = { s.core p.ref.core with l1 := (s.core p.ref.core).l1.filter fun l => !(l.ctx == tm.ctx && (namedLines s tm sp x (p :: ps)).contains l.line) } ∧
        ∀ ln ∈ namedLines s tm sp x (p :: ps), ∀ l, s.l1Line p.ref.core tm.ctx ln = some l → l.isPrivate = true → l.dirty = true →
          ∃ r ∈ t.mem.requests, r.kind = .writeBack ∧ r.ia = l.line ∧ r.frame = l.frame ∧ r.line = l.data) ∧
    (Goes s 0x4D x tm sp h rest →
      ∃ t, exec (.cctlInvk x) s = .next t ∧ WentOn s t x (h :: rest) ∧ (∀ a, t.mem.mem.read a = s.mem.mem.read a) ∧ (∀ c ≠ p.ref.core, t.core c = s.core c) ∧
        t.core p.ref.core = { s.core p.ref.core with klines := (s.core p.ref.core).klines.filter fun l => l.ctx != tm.ctx })

/-- R305: BRA. In the base form every active thread takes the target; in the extended form the participating threads do and the others go on. Nothing
else changes. -/
def Obligations.Branches : Prop :=
  (∀ (off : BitVec 23) (s : State) (tm : Team) (h : Thread) (rest : List Thread), s.active = h :: rest → GroupOf s tm h.gref →
    exec (.braBase off) s = .next (transferred s tm (h :: rest) h.gref 2 fun u => u.pc + BitVec.ofInt 64 (4 * off.toInt))) ∧
  (∀ (x : Fields) (s : State) (tm : Team) (sp : OpSpec) (h : Thread) (rest : List Thread), Goes s 0x58 x tm sp h rest → GroupOf s tm h.gref →
    exec (.braExtended x) s = .next (transferred s tm (h :: rest) h.gref 2 fun u =>
      if u.guardTrue x.guard then u.pc + BitVec.ofInt 64 (4 * x.low.toInt) else nextPc x u))

/-- R304, R306, R308: JMP and RET to a literal or to the address in the pair A. Where a
target is no multiple of 4 the whole group traps with ALIGN, reported for the lowest-numbered failing participating lane (R331). -/
def Obligations.JumpsAndReturns : Prop :=
  ∀ (i : Instr) (op : Nat) (x : Fields) (n : List W64 → Nat) (s : State) (tm : Team) (sp : OpSpec) (h : Thread) (rest : List Thread),
    jumpShape s i = some (op, x, n) → Goes s op x tm sp h rest → GroupOf s tm h.gref →
    ((∀ u ∈ partOf x (h :: rest), (targetOf s x u).toNat % 4 = 0) →
      exec i s = .next (transferred s tm (h :: rest) h.gref (n ((partOf x (h :: rest)).map (targetOf s x))) fun u =>
        if u.guardTrue x.guard then targetOf s x u else nextPc x u)) ∧
    (∀ u ∈ partOf x (h :: rest), (targetOf s x u).toNat % 4 ≠ 0 → ∃ p ∈ partOf x (h :: rest), (targetOf s x p).toNat % 4 ≠ 0 ∧
      (∀ v ∈ partOf x (h :: rest), (targetOf s x v).toNat % 4 ≠ 0 → p.lane ≤ v.lane) ∧
      exec i s = .next (s.trapGroup { cause := Cause.align, info := (targetOf s x p).toNat, lane := p.lane }))

/-- R307: CALL and CALL.reg. Each participating thread's link pair takes the address after the CALL and its PC the target, which is read first; the others
go on; the group notes the address. Where a target is no multiple of 4 the whole group traps with ALIGN, reported for the lowest-numbered failing
participating lane (R331). -/
def Obligations.Calls : Prop :=
  ∀ (i : Instr) (x : Fields) (target : Thread → W64) (n : Nat) (s : State) (tm : Team) (sp : OpSpec) (h : Thread) (rest : List Thread),
    callShape s i = some (x, target, n) → Goes s 0x5A x tm sp h rest → GroupOf s tm h.gref →
    (∀ u ∈ partOf x (h :: rest), (target u).toNat % 4 ≠ 0 → ∃ p ∈ partOf x (h :: rest), (target p).toNat % 4 ≠ 0 ∧
      (∀ v ∈ partOf x (h :: rest), (target v).toNat % 4 ≠ 0 → p.lane ≤ v.lane) ∧
      exec i s = .next (s.trapGroup { cause := Cause.align, info := (target p).toNat, lane := p.lane })) ∧
    ((∀ u ∈ partOf x (h :: rest), (target u).toNat % 4 = 0) →
    ∃ t, exec i s = .next t ∧
      { t with threads := s.threads, groups := s.groups } = s ∧
      t.groups = s.groups.map (fun k => if k.ref == h.gref then
        { k with link := some (h.pc + 12), ready := max k.ready (s.clk.cycle + n + (if some tm.header.width = some 64 then 1 else 0)) } else k) ∧
      t.threads.length = s.threads.length ∧
      ∀ (k : Nat) (u : Thread), s.threads[k]? = some u → ∃ u', t.threads[k]? = some u' ∧
        u' = (if !(((h :: rest).map (·.ref)).contains u.ref) then u
              else if u.guardTrue x.guard then { u.setRegs x.d.toNat (pairWords (h.pc + 12)) with pc := target u, windows := u'.windows }
              else { u with pc := u.pc + 12 }))

/-- R42, R309: REFORM files each participating thread under its next PC with its sort key, 0 where the key operand is not used, and the others go on. A thread
that is filed is BINNED at its PC, and under no move; it enters the bin of its context, team, PC and key, or the lowest-numbered empty one, one cycle of the
bank's time later; where there is none it waits, and the bin of greatest age is to be drawn empty. Nothing else changes. -/
def Obligations.Reform : Prop :=
  (∀ (s : State) (t : TRef) (pc : W64) (key : Nat) (h : Thread), s.thread t = some h →
    let u := s.fileThread t pc key
    let old := s.core t.core
    let mine := old.bins.filter fun b => b.ctx == t.ctx
    let own := mine.find? fun b => b.team == h.team && b.pc == pc && b.key == key
    let free := (List.range Config.sieveBins).find? fun i => !(mine.any fun b => b.index == i)
    let done := s.bankTime t.core t.ctx + 1
    u.thread t = some { h with status := .binned, pc := pc, moving := false, group := if h.status = .parked then Config.bankGroups else h.group } ∧
    (∀ q, q ≠ t → u.thread q = s.thread q) ∧ (∀ c, c ≠ t.core → u.core c = s.core c) ∧
    u.clk = { s.clk with timers := s.clk.timers.filter fun q => q.2 != .threadMove t } ∧ ({ u with threads := s.threads, cores := s.cores, clk := s.clk } : State) = s ∧
    (∀ b, own = some b → u.core t.core = { old with bins := old.bins.map fun m => if m = b then { m with threads := m.threads ++ [(t.slot, done)] } else m }) ∧
    (∀ i, own = none → free = some i → u.core t.core = { old with bins := old.bins ++ [⟨t.ctx, i, h.team, pc, key, [(t.slot, done)]⟩] }) ∧
    (own = none → free = none → u.core t.core = { old with filings := old.filings ++ [⟨t.ctx, h.team, t.slot, pc, key⟩], forced := (u.core t.core).forced } ∧
      ((∃ p ∈ old.forced, p.1 = t.ctx) → (u.core t.core).forced = old.forced) ∧
      ((∀ p ∈ old.forced, p.1 ≠ t.ctx) → ∃ b ∈ mine, (u.core t.core).forced = old.forced ++ [(t.ctx, b.index)] ∧ ∀ m ∈ mine, State.Bin.age (s.bankTime t.core t.ctx) m ≤ State.Bin.age (s.bankTime t.core t.ctx) b))) ∧
  ∀ (x : Fields) (s : State) (tm : Team) (sp : OpSpec) (h : Thread) (rest : List Thread), Goes s 0x5C x tm sp h rest → GroupOf s tm h.gref →
    exec (.reform x) s = .next ((partOf x (h :: rest)).foldl
      (fun s' u => s'.fileThread u.ref (u.pc + BitVec.ofInt 64 (4 * x.low.toInt))
        (if x.xop.getLsbD 0 then natField (readOpd s u sp.b x.b).toNat 0 16 else 0))
      (transferred s tm (idleOf x (h :: rest)) h.gref 2 (nextPc x))).ceaseGroups

/-- R36, R51, R52, R310: CVG.decl and CVG.join on the team's holding core, where no thread misuses the register: the declaration is counted and the group goes
on; the joining threads wait, the others go on, and a register whose joins are complete releases. From another core the event goes to the holding core, takes effect when it
arrives there, for the threads that have not ended since, and its answer comes back after the transit: the threads named go on, or the misuse traps them. -/
def Obligations.Converge : Prop :=
  (∀ (i : Instr) (x : Fields) (s : State) (tm : Team) (sp : OpSpec) (h : Thread) (rest : List Thread) (p : Thread) (ps : List Thread),
    i = .cvgDecl x ∨ i = .cvgJoin x → Goes s 0x5D x tm sp h rest → partOf x (h :: rest) = p :: ps → holdTransit tm p.ref.core ≠ 0 → p.ref.core = h.ref.core →
    (x.xop.getLsbD 0 = true → State.observes tm p = false) → exec i s = .next (sentToHold s tm 0x5D x h (h :: rest) fun _ => 0)) ∧
  (∀ (s : State) (a : Arrival) (tm : Team) (c : Cvg), s.team a.team = some tm → a.answer = false → a.op = 0x5D → tm.cvgs[a.x.d.toNat % 16]? = some c →
    let s1 := taken s a
    let all := liveAll s1 a
    let part := livePart s1 a
    let bad := c.misused (a.x.xop.getLsbD 0) part
    (bad = [] → a.x.xop.getLsbD 0 = false → s.arrives a = answered (declared s1 tm (a.x.d.toNat % 16) part) tm a 0 0 all) ∧
    (bad = [] → a.x.xop.getLsbD 0 = true →
      s.arrives a = answered (joined s1 tm (a.x.d.toNat % 16) (part.map fun t => (t, none))) tm a 0 0 (all.filter fun t => !(part.contains t))) ∧
    (bad ≠ [] → s.arrives a = answered s1 tm a 1 (laneOfFirst s1 bad) all)) ∧
  (∀ (s : State) (a : Arrival), (s.team a.team).isSome = true → a.answer = true →
    let s1 := taken s a
    let ts := liveAll s1 a
    let gone := s1.updThreads ts fun h => { h with pc := h.pc + BitVec.ofNat 64 a.x.form.length }
    (a.result ≠ 1 → s.arrives a = if a.op = 0x5D ∧ a.x.xop.getLsbD 0 = false then gone.delayIssue a.group 4 else gone) ∧
    (a.result = 1 → s.arrives a = (s1.trapThreads (ts.filterMap fun t => (s1.thread t).map fun h => (t, h.pc))
      { cause := Cause.convMisuse, info := a.op * 2 ^ 16 + eventNumber a, lane := ((a.threads.head?).map fun p => p.2.2.toNat).getD 0 }).settle)) ∧
  ∀ (x : Fields) (s : State) (tm : Team) (sp : OpSpec) (h : Thread) (rest : List Thread) (p : Thread) (ps : List Thread) (c : Cvg),
    Goes s 0x5D x tm sp h rest → GroupOf s tm h.gref → partOf x (h :: rest) = p :: ps → holdTransit tm p.ref.core = 0 → tm.cvgs[x.d.toNat % 16]? = some c →
    c.misused (x.xop.getLsbD 0) ((p :: ps).map (·.ref)) = [] →
    (x.xop.getLsbD 0 = false → p.gref = h.gref → exec (.cvgDecl x) s = .next
      (transferred (declared s tm (x.d.toNat % 16) ((p :: ps).map (·.ref))) tm (h :: rest) h.gref 4 (nextPc x))) ∧
    (x.xop.getLsbD 0 = true → State.observes tm p = false → exec (.cvgJoin x) s = .next
      ((joined s tm (x.d.toNat % 16) ((p :: ps).map fun u => (u.ref, none))).advance (idleOf x (h :: rest)) x.form.length)) ∧
    (x.xop.getLsbD 0 = true → State.observes tm p = true → exec (.cvgJoin x) s = .next
      (ended (s.advance (idleOf x (h :: rest)) x.form.length) ((p :: ps).map (·.ref)) .cancelled))

/-- R51, R56 to R59, R299, R311, R312, R359: EXIT ends the participating threads, and the others go on when the accesses of these are done (assumption 36); a thread whose
accesses are done is EXITED, and has left its team's convergence registers, stages, barriers and handles, and its team ends with its last thread; one with accesses outstanding
first waits for them. YIELD gives up the group's position, whatever its guards (assumption 115); YIELD.chk ends the participating
threads where one of them observes the team's cancel flag, and is a YIELD otherwise. -/
def Obligations.ExitAndYield : Prop :=
  (∀ (s : State) (t : TRef) (how : Ending) (h : Thread) (tm : Team), s.thread t = some h → h.exited = false → s.team h.team = some tm →
    let u := s.exitThread t how
    (s.outstanding t = true → u.thread t = some { h with dying := some how, status := .eligible, handler := false } ∧ (∀ q, q ≠ t → u.thread q = s.thread q) ∧
      ({ u with threads := s.threads, teams := s.teams } : State) = s ∧ ∃ tm', u.team h.team = some tm' ∧ ({ tm' with rings := tm.rings } : Team) = tm ∧
        tm'.rings = tm.rings.map fun r => { leftRing tm t r with stages := r.stages }) ∧
    (s.outstanding t = false → (∃ k ∈ s.threads, k.team = h.team ∧ k.ref ≠ t ∧ k.exited = false) →
      u.thread t = some { h with status := .exited how, dying := none, fence := none, moving := false } ∧ (∀ q, q ≠ t → u.thread q = s.thread q) ∧
      u.ctxs = modifyAt (fun c => { c with barriers := c.barriers.map fun p => (p.1, departed h p.2) }) t.ctx s.ctxs ∧
      u.mem = s.mem ∧ u.clk = s.clk ∧ u.pkg = s.pkg ∧ u.plots = s.plots ∧ u.runs = s.runs ∧ ∃ tm', u.team h.team = some tm' ∧
        ({ tm' with cvgs := tm.cvgs, rings := tm.rings, handles := tm.handles, handles1 := tm.handles1 } : Team) = tm ∧
        tm'.cvgs = tm.cvgs.map (leftCvg t) ∧ tm'.rings = tm.rings.map (leftRing tm t) ∧
        (if tm.header.shape = 2 ∧ t.core.die = 1 then tm'.handles = tm.handles ∧ tm'.handles1 = tm.handles1.map (leftHandle t)
         else tm'.handles = tm.handles.map (leftHandle t) ∧ tm'.handles1 = tm.handles1)) ∧
    (s.outstanding t = false → (∀ k ∈ s.threads, k.team = h.team → k.ref ≠ t → k.exited = true) → u.team h.team = none ∧ ∀ k ∈ u.threads, k.team ≠ h.team)) ∧
  ∀ (i : Instr) (x : Fields) (s : State) (tm : Team) (sp : OpSpec) (h : Thread) (rest : List Thread),
    (exitShape i = some x → Goes s 0x5E x tm sp h rest →
      exec i s = .next (ended ((s.advance (idleOf x (h :: rest)) x.form.length).delayIssue h.gref 1) ((partOf x (h :: rest)).map (·.ref)) .normal)) ∧
    (yieldShape i = some x → Goes s 0x5F x tm sp h rest → GroupOf s tm h.gref →
      exec i s = .next ((transferred s tm (h :: rest) h.gref 2 (nextPc x)).yieldGroup h.gref)) ∧
    (i = .yieldChk x → Goes s 0x5F x tm sp h rest → GroupOf s tm h.gref → (partOf x (h :: rest)).any (State.observes tm) = true →
      exec i s = .next (ended (transferred s tm (idleOf x (h :: rest)) h.gref 2 (nextPc x)) ((partOf x (h :: rest)).map (·.ref)) .cancelled)) ∧
    (i = .yieldChk x → Goes s 0x5F x tm sp h rest → GroupOf s tm h.gref → (partOf x (h :: rest)).any (State.observes tm) = false →
      exec i s = .next ((transferred s tm (h :: rest) h.gref 2 (nextPc x)).yieldGroup h.gref))

/-- R315, R316, R335: TRAP and TRAP.break send the participating threads, with the address after the instruction, to the handler of their kernel; NOP only
goes on. -/
def Obligations.TrapAndNop : Prop :=
  ∀ (i : Instr) (x : Fields) (s : State) (tm : Team) (sp : OpSpec) (h : Thread) (rest : List Thread),
    (∀ cause, (i = .trapSoftware x ∧ cause = 0x30) ∨ (i = .trapBreak x ∧ cause = 0x31) → Goes s 0x7B x tm sp h rest →
      exec i s = .next (((s.advance (idleOf x (h :: rest)) x.form.length).trapThreads ((partOf x (h :: rest)).map fun u => (u.ref, nextPc x u))
        { cause := cause, info := natField x.low.toNat 0 16, kind := .after, lane := (((partOf x (h :: rest)).head?).map (·.lane)).getD 0 }).settle)) ∧
    (nopShape i = some x → Goes s 0x7D x tm sp h rest → GroupOf s tm h.gref → exec i s = .next (transferred s tm (h :: rest) h.gref 2 (nextPc x)))

/-- R36, R54, R267, R268: TMOV on the holding core. A read gives every participating thread the team register; a write leaves the value of the highest participating
lane in it, and its slot is counted until then (R193). From another core the access reaches the holding core after the transit; it is done there, with its result 4 cycles later, and the
group has gone on. -/
def Obligations.TeamRegisters : Prop :=
  (∀ (x : Fields) (s : State) (tm : Team) (sp : OpSpec) (h : Thread) (rest : List Thread) (p : Thread) (ps : List Thread), Goes s 0x56 x tm sp h rest →
    holdTransit tm h.ref.core ≠ 0 → partOf x (h :: rest) = p :: ps →
    let refs := (p :: ps).map (·.ref)
    let sent := fun (s : State) (word : Thread → W32) => ({ s with mem := { s.mem with arrivals := s.mem.arrivals ++ [⟨s.clk.cycle + holdTransit tm h.ref.core, h.gref, tm.id, 0x56, x,
      (p :: ps).map (fun u => (u.ref, true, word u)), s.clk.nextId, false, h.handler⟩] } } : State).count refs x.set.toNat
    (let s1 := sent s (fun _ => 0);
      exec (.tmovRead x) s = .next ((({ s1 with clk := { s1.clk with nextId := s1.clk.nextId + 1 } } : State).openWindows refs x.la.toNat s.clk.nextId x.d.toNat 1).advance
        (h :: rest) x.form.length)) ∧
    exec (.tmovWrite x) s = .next ((sent s fun u => (readOpd s u sp.a x.a).setWidth 32).advance (h :: rest) x.form.length)) ∧
  (∀ (s : State) (a : Arrival) (tm : Team), s.team a.team = some tm → a.answer = false → a.op = 0x56 →
    let ts := a.threads.map (·.1)
    let answers := fun (s : State) (lanes : List ResultLane) => s.addResult a.result (State.passLatency tm 4 1) a.x.set.toNat a.handler ts lanes none [] false
    (OpTable.xf a.x 0 1 = 0 → s.arrives a = answers (taken s a) (ts.map fun t => ⟨t, a.x.d.toNat, [tm.tregs.getD a.x.a.toNat 0], none, 0⟩)) ∧
    (∀ q, OpTable.xf a.x 0 1 ≠ 0 → a.threads.getLast? = some q →
      s.arrives a = answers ((taken s a).updTeam tm.id fun k => { k with tregs := k.tregs.set a.x.d.toNat q.2.2 }) [])) ∧
  ∀ (x : Fields) (s : State) (tm : Team) (sp : OpSpec) (h : Thread) (rest : List Thread), Goes s 0x56 x tm sp h rest → holdTransit tm h.ref.core = 0 →
    (OpTable.xf x 0 1 = 0 → x.kw = false →
      let out := perLane s sp x [] fun _ => .word (tm.tregs.getD x.a.toNat 0)
      ∃ t, exec (.tmovRead x) s = .next t ∧ OnlyThreads s t ∧ Wrote s t x (h :: rest) out ∧ Timed s t x (h :: rest) (shortLatency s tm 0x56 x) out) ∧
    (∀ (u : Thread), (partOf x (h :: rest)).getLast? = some u →
      exec (.tmovWrite x) s = .next (((s.updTeam tm.id fun k => { k with tregs := k.tregs.set x.d.toNat ((readOpd s u sp.a x.a).setWidth 32) }).slotFor
        x.set.toNat (State.passLatency tm 4 1) (partOf x (h :: rest))).advance (h :: rest) x.form.length))

namespace Sys2Proof.Claims

open Sys2Proof.Machine

/-! ### Tiles and matrix operations -/

/-- What a tile instruction with a participating lane acts on: its team, lanes, active threads, and the handle numbered n. -/
def tileCtx (s : State) (x : Fields) (tm : Team) (sp : OpSpec) (act : List Thread) (p : Thread) (ps : List Thread) (n : Nat) : TileCtx :=
  ⟨tm, laneOf s sp x [] p, lanesOf s sp x [] (p :: ps), act, n, (State.handlesOf tm p.ref.core).getD n ⟨.empty, 0⟩⟩

/-- The handle of a tile context takes a state. -/
def handleTo (s : State) (c : TileCtx) (st : HandleState) : State := s.updHandle c.tm.id c.core c.h fun k => { k with state := st }

/-- The operand B of the lowest participating lane, as a word. -/
def wordB (c : TileCtx) : W32 := c.low.b.setWidth 32

/-! ### Engine commands -/

/-- Opcode, fields, kind, block bytes and alignment of the engine commands (R288). -/
def engineShape (s : State) (tm : Team) (refs : List TRef) : Instr → Option (Nat × Fields × CmdKind × (Nat → Nat) × Nat)
  | .copy x => some (0x70, x, .copy none, s.descBytes tm refs, 32)
  | .trace x => some (0x71, x, .trace, fun _ => 64, 64)
  | .sxdraw x => some (0x72, x, .sxdraw, fun _ => 64, 64)
  | .silt x => some (0x74, x, .silt, fun _ => 32, 32)
  | _ => none

/-- The command that the participating lanes give, before it names a barrier (R288). -/
def cmdOf (s : State) (op : Nat) (x : Fields) (kind : CmdKind) (tm : Team) (p : Thread) (lanes : List Lane) (after : List Nat) : Cmd :=
  { id := s.clk.nextId, op := op, core := p.ref.core, ctx := tm.ctx, team := tm.id, wide := tm.header.shape != 0, set := x.set.toNat, handler := p.handler, kind := kind
    lanes := lanes.map fun l => ⟨l.t.ref, x.d.toNat, BitVec.ofNat 64 (State.blockVa x l), l.b.setWidth 32,
      if op = 0x71 then (s.die p.ref.core.die).map fun r => assocGet (0, 0, 0) (tm.ctx, natField l.b.toNat 0 4) r.hwins else none, false, 0, [], 0, false⟩
    acq := x.xop.getLsbD 0, rel := x.xop.getLsbD 1, scope := x.scope, barrier := none, counted := 0, ewmax := 0, acked := 0, remote := [], dues := [], parts := 0, realTime := tm.prio == 0
    begun := false, ended := false, blocked := none, after := after }

/-! ### Stages, barriers, queues -/

/-- STAGE: the value of STOP of each form (R297). -/
def stageShape : Instr → Option (Fields × Nat)
  | .stageInit x => some (x, 0)
  | .stageAcqp x => some (x, 1)
  | .stageAcqc x => some (x, 2)
  | .stageRelp x => some (x, 3)
  | .stageRelc x => some (x, 4)
  | _ => none

/-- The chronometer values that a replay supplies to threads in their order, and the state in which it has used them up (R447); where the log has no entry the
context is halted, and the thread reads its core's (assumption 48). -/
def suppliedTimes (ctx : Nat) : State → List Thread → List (TRef × W64) × State
  | s, [] => ([], s)
  | s, u :: us => match s.logTake ctx 2 (some (State.placeWord u.ref.core u.ref.slot)) with
    | some (p, s') => ((u.ref, BitVec.ofNat 64 (leNat (p.take 8))) :: (suppliedTimes ctx s' us).1, (suppliedTimes ctx s' us).2)
    | none =>
      let s' := s.replayDiffers ctx u.ref.core
      ((u.ref, BitVec.ofNat 64 (s.chrono u.ref.core)) :: (suppliedTimes ctx s' us).1, (suppliedTimes ctx s' us).2)

/-- SYS: the special value forms are rdsup (0) and wrsup (1). -/
def supShape : Instr → Option (Fields × Bool)
  | .sysRdsup x => some (x, false)
  | .sysWrsup x => some (x, true)
  | _ => none

end Sys2Proof.Claims

/-- R362 to R365, R376: TALLOC binds a free slot of the team's pool to an empty handle, which its lowest thread holds; TFREE empties the handle; TGIVE gives it
to the thread that B names; TTAKE takes a handle given to a participating thread, or waits; TSTAT reads the state word. -/
def Obligations.TileHandles : Prop :=
  ∀ (x : Fields) (s : State) (tm : Team) (sp : OpSpec) (h : Thread) (rest : List Thread) (p : Thread) (ps : List Thread), partOf x (h :: rest) = p :: ps →
    (∀ (t : Tile) (k : TileSlot), let c := tileCtx s x tm sp (h :: rest) p ps x.d.toNat
      Goes s 0x60 x tm sp h rest → c.hs.state = .empty → tileOfShape (wordB c) = some t → freePoolSlot s tm.id p.ref.core = some k →
      exec (.talloc x) s = .next ((((s.updTileSlot p.ref.core.die p.ref.core.site k.slot fun q => { q with bound := true, tile := t }).updHandle tm.id p.ref.core x.d.toNat
        fun _ => ⟨.held p.ref.core p.ref.slot, k.slot⟩).cleanTile p.ref.core.die p.ref.core.site k.slot [(0, 16384)]).tileDone c x 12 [])) ∧
    (let c := tileCtx s x tm sp (h :: rest) p ps x.a.toNat;
      (Goes s 0x61 x tm sp h rest → c.holds = true →
        exec (.tfree x) s = .next ((handleTo (s.drainSlot p.ref.core.die p.ref.core.site c.hs.slot) c .empty).tileDone c x 12 [])) ∧
      (∀ t : TRef, Goes s 0x62 x tm sp h rest → c.holds = true → receiver s tm p.ref.core (wordB c) = some t →
        exec (.tgive x) s = .next ((handleTo s c (.given t.core t.slot)).tileDone c x 12 [])) ∧
      (∀ t : TRef, Goes s 0x63 x tm sp h rest → natField (wordB c).toNat 1 31 = 0 → givenAmong c.hs.state ((p :: ps).map (·.ref)) = some t →
        exec (.ttake x) s = .next ((handleTo s c (.held t.core t.slot)).tileDone c x 12 [])) ∧
      (Goes s 0x6A x tm sp h rest → exec (.tstat x) s = .next (s.tileDone c x 8 ((p :: ps).map fun t => ⟨t.ref, x.d.toNat, [handleWord s tm p.ref.core c.hs], none, 0⟩))))

/-- R367, R368: TLD, TST, TLDV and TSTV. A held tile of the instruction's element type: the image moves between the tile and module memory in 16-byte units
(the core's private copies of its lines leave the L1 first, R148), or between the tile and the plot; the fragments move between the tile and the registers. Each takes its place in the order of the slot's uses. -/
def Obligations.TileTransfers : Prop :=
  ∀ (x : Fields) (s : State) (tm : Team) (sp : OpSpec) (h : Thread) (rest : List Thread) (p : Thread) (ps : List Thread) (t : Tile) (n : Nat),
    partOf x (h :: rest) = p :: ps →
    let c := tileCtx s x tm sp (h :: rest) p ps n
    s.tileOf c = some t → c.holds = true → x.ty = t.et →
    (∀ (store : Bool) (ia : Nat) (r : W64 × W64 × W64), n = x.d.toNat → x.xop.getLsbD 0 = false →
      globalCheck (ctxOf s tm) (if store then .write else .read) t.size 16 (globalVa x c.low.a) p.lane = .ok (ia, r) →
      let s1 := (List.range (ceilDiv (ia % 128 + t.size) 128)).foldl (fun s k => s.expelPrivate p.ref.core tm.ctx (lineOf ia + 128 * k)) s
      let u := s1.useTile c x (if store then .storeGlobal else .loadGlobal) (State.passLatency tm 0 1) (!store) 0
      Goes s (if store then 0x65 else 0x64) x tm sp h rest →
      exec (if store then .tst x else .tld x) s = .next ((u.2.sendAll (State.imageRequests c x s1.clk.nextId (if store then .tileStore u.1 else .tileLoad u.1)
        (globalVa x c.low.a) ia t.size)).beginUses)) ∧
    (∀ (store : Bool) (q : Plot) (o : Nat), n = x.d.toNat → x.xop.getLsbD 0 = true → natField c.low.a.toNat 0 32 + disp32 x = o → o % 16 = 0 → o < 2 ^ 32 →
      s.plotOf tm.id p.ref.core = some q → o + t.size ≤ q.size → (store = true → writerRefuses s q tm.id o t.size = false) →
      (store = false → poisonedPlot s tm.id p.ref.core o t.size = false) → Goes s (if store then 0x65 else 0x64) x tm sp h rest →
      exec (if store then .tst x else .tld x) s = .next ((s.useTile c x (if store then .storePlot o else .loadPlot (plotBytes s tm.id p.ref.core o t.size))
        (State.passLatency tm (12 + ceilDiv t.size 128) 1) (!store) 0).2.beginUses)) ∧
    ((∀ l ∈ c.part, (coordinate t (l.b.setWidth 32)).isSome = true) →
      (n = x.a.toNat → Goes s 0x66 x tm sp h rest → exec (.tldv x) s = .next ((s.useTile c x
        (.readFragments x.d.toNat (c.part.map fun l => (l.t.ref, l.b.setWidth 32))) (State.passLatency tm 16 1) false 1).2.beginUses)) ∧
      (n = x.d.toNat → Goes s 0x67 x tm sp h rest → exec (.tstv x) s = .next ((s.useTile c x
        (.writeFragments (c.part.map fun l => (l.t.ref, l.b.setWidth 32, l.a.setWidth 32))) (State.passLatency tm 16 1) true 0).2.beginUses)))

/-- R371, R374, R375: MMA, where the participating lanes' votes pass the checks of an attempt and an entry is free, takes it, and its group is
ready again 8 cycles later (assumption 102); MMA.sign signs, on the holding
core, and its threads wait, or from another core when its event arrives there, with each thread's format as it was at issue (R36); MACC reads each lane's element after the operations that cover it. -/
def Obligations.MatrixInstructions : Prop :=
  ∀ (x : Fields) (s : State) (tm : Team) (sp : OpSpec) (h : Thread) (rest : List Thread) (p : Thread) (ps : List Thread), partOf x (h :: rest) = p :: ps →
    (∀ r, Goes s 0x68 x tm sp h rest → s.mmaCheck tm ((p :: ps).map fun u => (u.ref, voteOf x s u)) = .ok r →
      (s.freeEntry p.ref.core.die p.ref.core.site tm.ctx).isSome = true →
      let s1 := s.count ((p :: ps).map (·.ref)) x.set.toNat
      let o := s1.newMma tm ((p :: ps).map fun u => (u.ref, voteOf x s1 u)) (some p.gref) none r
      exec (.mma x) s = .next (((o.1.acceptMma o.2).advance (h :: rest) x.form.length).delayIssue p.gref 8)) ∧
    (∀ c, Goes s 0x68 x tm sp h rest → State.observes tm p = false → holdTransit tm p.ref.core = 0 → tm.cvgs[x.c.toNat % 16]? = some c →
      c.misused true ((p :: ps).map (·.ref)) = [] →
      exec (.mmaSign x) s = .next ((joined (s.count ((p :: ps).map (·.ref)) x.set.toNat) tm (x.c.toNat % 16) ((p :: ps).map fun u => (u.ref, some (voteOf x s u)))).advance
        (idleOf x (h :: rest)) x.form.length)) ∧
    (Goes s 0x68 x tm sp h rest → State.observes tm p = false → holdTransit tm p.ref.core ≠ 0 → p.ref.core = h.ref.core →
      exec (.mmaSign x) s = .next (sentToHold s tm 0x68 x h (h :: rest) fun t => (voteOf x s t).format)) ∧
    (∀ (a : Arrival) (c : Cvg), s.team a.team = some tm → a.answer = false → a.op = 0x68 → tm.cvgs[a.x.c.toNat % 16]? = some c →
      let s1 := taken s a
      let votes := (a.threads.filter fun q => q.2.1 && (liveAll s1 a).contains q.1).filterMap fun q => (s1.thread q.1).map fun u => (q.1, some { voteOf a.x s1 u with format := q.2.2 })
      let part := votes.map (·.1)
      (c.misused true part = [] → s.arrives a = answered (joined (s1.count part a.x.set.toNat) tm (a.x.c.toNat % 16) votes) tm a 0 0 ((liveAll s1 a).filter fun t => !(part.contains t))) ∧
      (c.misused true part ≠ [] → s.arrives a = answered s1 tm a 1 (laneOfFirst s1 (c.misused true part)) (liveAll s1 a))) ∧
    (Goes s 0x69 x tm sp h rest → (∀ l ∈ lanesOf s sp x [] (p :: ps), natField l.a.toNat 12 20 = 0) →
      let m : MaccOp := ⟨s.clk.nextId, tm.ctx, p.ref.core.die, p.ref.core.site, x.d.toNat, OpTable.xf x 0 2, x.rnd, x.xop.getLsbD 2, x.set.toNat, p.handler,
        tm.header.width == 64, (lanesOf s sp x [] (p :: ps)).map fun l =>
          (l.t.ref, natField l.a.toNat 0 12, s.covering tm.ctx p.ref.core.die p.ref.core.site (natField l.a.toNat 0 12)), []⟩
      let s1 := begun s (h :: rest) (p :: ps) x x.d.toNat 1
      exec (.macc x) s = .next (({ s1 with tile := { s1.tile with maccs := s1.tile.maccs ++ [m] } } : State).maccRun m))

/-- R288: COPY, TRACE, SXDRAW and SILT without a barrier. Every lane's block passes its checks and the unit's queue has room: the command joins the queue, and every
command that can begin does. -/
def Obligations.EngineCommandsBegin : Prop :=
  ∀ (i : Instr) (op : Nat) (x : Fields) (kind : CmdKind) (size : Nat → Nat) (al : Nat) (s : State) (tm : Team) (sp : OpSpec) (h : Thread) (rest : List Thread)
    (ws : List W32) (p : Thread) (ps : List Thread) (found : List (Nat × (W64 × W64 × W64))),
    engineShape s tm ((p :: ps).map (·.ref)) i = some (op, x, kind, size, al) → Issues s op x tm sp (h :: rest) ws → partOf x (h :: rest) = p :: ps →
    (lanesOf s sp x ws (p :: ps)).map (fun l => globalCheck (ctxOf s tm) .read (size (State.blockVa x l)) al (State.blockVa x l) l.t.lane) = found.map .ok →
    (op = 0x70 ∨ op = 0x74 → x.xop.getLsbD 2 = false) →
    let cmd := cmdOf s op x kind tm p (lanesOf s sp x ws (p :: ps)) (s.waitsFor ((p :: ps).map (·.ref)) (x.xop.getLsbD 0)
      (((lanesOf s sp x ws (p :: ps)).zip found).map fun q => (q.2.1, size (State.blockVa x q.1))))
    s.queueFull cmd = false →
    let s1 := begun s (h :: rest) (p :: ps) x x.d.toNat 1
    exec i s = .next ({ s1 with mem := { s1.mem with cmds := s1.mem.cmds ++ [cmd] } } : State).beginCommands

/-- R173, R288: the same with a barrier, which can take the bytes that the command counts: they enter its PEND before the command begins. An absent page
of a descriptor whose bytes it counts is reported, and the command is held (assumption 41). -/
def Obligations.EngineCommandsCount : Prop :=
  ∀ (i : Instr) (op : Nat) (x : Fields) (kind : CmdKind) (size : Nat → Nat) (al : Nat) (s : State) (tm : Team) (sp : OpSpec) (h : Thread) (rest : List Thread)
    (ws : List W32) (p : Thread) (ps : List Thread) (found : List (Nat × (W64 × W64 × W64))) (ns : List Nat),
    engineShape s tm ((p :: ps).map (·.ref)) i = some (op, x, kind, size, al) → Issues s op x tm sp (h :: rest) ws → partOf x (h :: rest) = p :: ps →
    (lanesOf s sp x ws (p :: ps)).map (fun l => globalCheck (ctxOf s tm) .read (size (State.blockVa x l)) al (State.blockVa x l) l.t.lane) = found.map .ok →
    op = 0x70 ∨ op = 0x74 → x.xop.getLsbD 2 = true →
    let n := x.c.toNat % 64
    let lanes := lanesOf s sp x ws (p :: ps)
    let blocks := (lanes.zip found).map fun q => (q.2.1, size (State.blockVa x q.1))
    let refs := (p :: ps).map (·.ref)
    let total := (ns.filter fun k => decide (k < 2 ^ 32)).foldl (· + ·) 0
    let cmd := { cmdOf s op x kind tm p lanes (s.waitsFor refs (x.xop.getLsbD 0) blocks) with barrier := some n, counted := total }
    s.queueFull cmd = false → (op = 0x70 → s.waitsFor refs false blocks = []) →
    (∀ ia, s.countedBytes tm op refs (lanes.map (State.blockVa x)) = .error ia → exec i s = .next (s.reportPage tm.ctx ia)) ∧
    (s.countedBytes tm op refs (lanes.map (State.blockVa x)) = .ok ns → total < 2 ^ 32 → (s.barrier tm.ctx n).pend + total < 2 ^ 32 →
      let s1 := begun (s.updBarrier tm.ctx n fun k => { k with pend := k.pend + total }) (h :: rest) (p :: ps) x x.d.toNat 1
      exec i s = .next ({ s1 with mem := { s1.mem with cmds := s1.mem.cmds ++ [cmd] } } : State).beginCommands)

/-- R293, R295, R296: SXPRI sets the priorities of the draw whose policy record made the team; ENQ, its fence wait over and every record readable, posts the
records in lane order and D receives their codes; CANCEL cancels the named groups in lane order. The 140 cycles of ENQ are the model's
(assumption 5). -/
def Obligations.PrioritiesPostsCancels : Prop :=
  ∀ (x : Fields) (s : State) (tm : Team) (sp : OpSpec) (h : Thread) (rest : List Thread),
    (∀ (ws : List W32) (d draw : Nat) (r : Render) (b : Draw), Issues s 0x73 x tm sp (h :: rest) ws → tm.policy = some (d, draw) → s.die d = some r →
      r.blocks.find? (fun b => b.id == draw) = some b → (∀ l ∈ lanesOf s sp x ws (partOf x (h :: rest)), natField l.a.toNat 0 32 < b.prio.length) →
      exec (.sxpri x) s = .next ((s.updDie d fun r => { r with blocks := r.blocks.map fun b => if b.id == draw then
        { b with prio := (lanesOf s sp x ws (partOf x (h :: rest))).foldl (fun q l => q.set (natField l.a.toNat 0 32) (natField l.b.toNat 0 16)) b.prio } else b }).advance
          (h :: rest) x.form.length)) ∧
    (∀ (p : Thread) (ps : List Thread) (found : List (Nat × (W64 × W64 × W64))) (codes : List Nat), Goes s 0x75 x tm sp h rest → partOf x (h :: rest) = p :: ps →
      (lanesOf s sp x [] (p :: ps)).map (fun l => globalCheck (ctxOf s tm) .read 64 64 (State.blockVa x l) l.t.lane) = found.map .ok →
      fencesDone s tm (p :: ps) x.scope = true →
      let asks := ((lanesOf s sp x [] (p :: ps)).zip found).map fun q => (q.1, State.blockVa x q.1, q.2.1)
      let r := (begun s (h :: rest) (p :: ps) x x.d.toNat 1).postLanes tm asks
      r.2 = (asks.zip codes).map (fun q => (q.1.1, q.1.2.1, q.1.2.2, .inr q.2)) → codes.length = asks.length →
      exec (.enq x) s = .next (r.1.addLater s.clk.nextId 140 x.set.toNat p.handler ((p :: ps).map (·.ref))
        (((p :: ps).zip codes).map fun q => ⟨q.1.ref, x.d.toNat, [BitVec.ofNat 32 q.2], none, 0⟩) none [])) ∧
    (Goes s 0x76 x tm sp h rest → exec (.cancel x) s = .next
      (((lanesOf s sp x [] (partOf x (h :: rest))).foldl (fun s l => s.cancelGroup tm.ctx (natField l.a.toNat 0 6)) s).advance (h :: rest) x.form.length))

/-- R56, R297: STAGE on the holding core. An operation that is done delivers its value of D; an acquire that waits leaves its threads waiting and the others go
on; a misuse traps the group with CONV_MISUSE. From another core the operation is done when its event arrives at the holding core, whose answer comes back after the transit (R36); a
thread that observes the team's cancel flag exits at an acquire (R58). -/
def Obligations.Stages : Prop :=
  (∀ (i : Instr) (x : Fields) (stop : Nat) (s : State) (tm : Team) (sp : OpSpec) (h : Thread) (rest : List Thread) (ws : List W32) (p : Thread) (ps : List Thread),
    stageShape i = some (x, stop) → OpTable.xf x 0 3 = stop → Issues s 0x77 x tm sp (h :: rest) ws → partOf x (h :: rest) = p :: ps →
    (stop = 1 ∨ stop = 2 → State.observes tm p = true →
      exec i s = .next (ended (s.advance (idleOf x (h :: rest)) x.form.length) ((p :: ps).map (·.ref)) .cancelled)) ∧
    (holdTransit tm p.ref.core ≠ 0 → p.ref.core = h.ref.core → (stop = 1 ∨ stop = 2 → State.observes tm p = false) → (3 ≤ stop → fencesDone s tm (p :: ps) x.scope = true) →
      exec i s = .next (sentToHold s tm 0x77 x h (h :: rest) fun _ => (laneOf s sp x ws p).b.setWidth 32))) ∧
  (∀ (s : State) (a : Arrival) (tm : Team) (q : TRef × Bool × W32), s.team a.team = some tm → a.answer = false → a.op = 0x77 → a.threads.head? = some q →
    let s1 := taken s a
    let all := liveAll s1 a
    let part := livePart s1 a
    let handler := ((part.head?.bind s1.thread).map (·.handler)).getD false
    let o := s1.beginStage a.x part
    let met := o.2.stageEvent tm (OpTable.xf a.x 0 3) (a.x.c.toNat % 8) q.2.2.toNat ⟨o.1, part, a.x.d.toNat, handler, a.x.set.toNat⟩
    (∀ d s', met = .done d s' → s.arrives a = answered (s'.stageResult a.x o.1 (4 + holdTransit tm a.group.core) handler part d) tm a 0 0 all) ∧
    (∀ s', met = .waits s' → s.arrives a = answered s' tm a 0 0 (all.filter fun t => !(part.contains t))) ∧
    (met = .misuse → s.arrives a = answered s1 tm a 1 (laneOfFirst s1 part) all)) ∧
  ∀ (i : Instr) (x : Fields) (stop : Nat) (s : State) (tm : Team) (sp : OpSpec) (h : Thread) (rest : List Thread) (ws : List W32) (p : Thread) (ps : List Thread),
    stageShape i = some (x, stop) → OpTable.xf x 0 3 = stop → Issues s 0x77 x tm sp (h :: rest) ws → partOf x (h :: rest) = p :: ps → holdTransit tm p.ref.core = 0 →
    (stop = 1 ∨ stop = 2 → State.observes tm p = false) → (3 ≤ stop → fencesDone s tm (p :: ps) x.scope = true) →
    let refs := (p :: ps).map (·.ref)
    let o := s.beginStage x refs
    let met := o.2.stageEvent tm stop (x.c.toNat % 8) ((laneOf s sp x ws p).b.setWidth 32).toNat ⟨o.1, refs, x.d.toNat, p.handler, x.set.toNat⟩
    (∀ d s', met = .done d s' → exec i s = .next ((s'.stageResult x o.1 4 p.handler refs d).advance (h :: rest) x.form.length)) ∧
    (∀ s', met = .waits s' → exec i s = .next (s'.advance (idleOf x (h :: rest)) x.form.length)) ∧
    (met = .misuse → exec i s = .next (s.trapGroup (misuseTrap 0x77 (x.c.toNat % 8) p.lane)))

/-- R174, R298, R299: BAR.init sets the barrier up with P parties; an arrival of threads whose accesses are done, at a barrier that is not broken and has room for
them, is counted, and the threads wait. The one cycle after which the slot is
released is the model's (assumption 5), and so is what BAR.init leaves as it was (assumption 42). -/
def Obligations.Barriers : Prop :=
  ∀ (x : Fields) (s : State) (tm : Team) (sp : OpSpec) (h : Thread) (rest : List Thread) (p : Thread) (ps : List Thread), Goes s 0x78 x tm sp h rest →
    partOf x (h :: rest) = p :: ps →
    let n := x.c.toNat % 64
    let a := natField (laneOf s sp x [] p).a.toNat 0 32
    let refs := (p :: ps).map (·.ref)
    let b := s.barrier tm.ctx n
    let bound := fun (b : Barrier) => if b.teams.contains tm.id then b.teams else b.teams ++ [tm.id]
    (natField a 0 20 ≠ 0 → natField a 20 12 = 0 → b.arr = 0 → b.pend = 0 →
      exec (.barInit x) s = .next ((((s.updBarrier tm.ctx n fun b =>
        { b with p := natField a 0 20, scope := x.scope, arr := 0, dep := 0, sstep := 0, die := s.holdingDie tm x.scope p.ref.core.die
                 teams := bound b, waiters := [], late := 0, gone := 0, finished := false, broken := false
                 wide := b.wide || tm.header.shape != 0 }).count refs x.set.toNat).addLater
          s.clk.nextId 1 x.set.toNat p.handler refs [] none []).advance (h :: rest) x.form.length)) ∧
    (State.observes tm p = false → fencesDone s tm (p :: ps) .thread = true → b.broken = false → 0 < b.p → b.arr + b.dep + refs.length ≤ b.p →
      exec (.barArrive x) s = .next (((((s.updBarrier tm.ctx n fun b =>
        { b with arr := b.arr + refs.length, bwmax := (p :: ps).foldl (fun m t => max m t.wmax) (s.barrier tm.ctx n).bwmax, waiters := b.waiters ++ refs, teams := bound b
                 wide := b.wide || tm.header.shape != 0 }).count
          refs x.set.toNat).addLater s.clk.nextId 1 x.set.toNat p.handler refs [] none []).advance (idleOf x (h :: rest)) x.form.length).updThreads refs fun h =>
            { h with status := .waiting (.barrier n) }))

/-- R300: MOVQ sends one flit for each participating lane and core of the destination set; MOVQ.recv leaves its threads waiting for a flit each, and serves the queue. The
order of the flits of one instruction is the lanes', as R300 says. -/
def Obligations.MessageQueues : Prop :=
  ∀ (x : Fields) (s : State) (tm : Team) (sp : OpSpec) (h : Thread) (rest : List Thread) (p : Thread) (ps : List Thread), Goes s 0x79 x tm sp h rest →
    partOf x (h :: rest) = p :: ps →
    (∀ cores q, s.destinations tm.ctx p.ref.core (x.d.toNat % 4) = some (cores, q) →
      exec (.movqSend x) s = .next (((p :: ps).flatMap fun t => cores.map fun c =>
          (⟨0, s.clk.nextId, (readRegs (begun s (h :: rest) (p :: ps) x 0 0) t x.a.toNat 4).flatMap fun w => leBytes 4 w.toNat, t.ref.core, t.ref.slot, tm.ctx, c, q,
            some (t.ref, x.set.toNat, t.handler)⟩ : Flit)).foldl (fun s f => s.sendFlit f) (begun s (h :: rest) (p :: ps) x 0 0))) ∧
    (let refs := (p :: ps).map (·.ref)
      let q := x.a.toNat % 4
      let s1 := (((s.fresh.2.count refs x.set.toNat).openWindows refs x.la.toNat s.clk.nextId x.d.toNat 4).advance (idleOf x (h :: rest)) x.form.length).updThreads refs
        fun h => { h with status := .waiting (.queue q) }
      let s2 := s1.updCore p.ref.core fun k => { k with receives := k.receives ++ [⟨s.clk.nextId, tm.ctx, q, refs, [], x.d.toNat, p.handler, x.set.toNat⟩] }
      exec (.movqRecv x) s = .next (s2.serveReceives p.ref.core tm.ctx q (s2.receiveFuel p.ref.core)))

/-- R46, R206, R314, R446, R447: SREG. A read of a register gives every participating thread its value, with the timing of R326; a read of CHRONO gives the
core's chronometer, appends an entry for each lane in lane order while the context records, and is supplied by the log in a replay; a write of FSTAT or SIEVEAGE writes it, any other register
ignores it. -/
def Obligations.SpecialRegisters : Prop :=
  ∀ (x : Fields) (s : State) (tm : Team) (sp : OpSpec) (h : Thread) (rest : List Thread), Goes s 0x7A x tm sp h rest →
    let n := natField x.low.toNat 0 12
    (n = 0x00C → ∀ u ∈ partOf x (h :: rest), flagsPending s u.ref = false) →
    let gives := fun (s1 : State) (value : Thread → W64) =>
      let out := fun (v : Thread) => ((partOf x (h :: rest)).find? fun u => u.ref == v.ref).map fun u => if x.ty.wide then LaneOut.pair (value u) else .word ((value u).setWidth 32)
      ∃ t, exec (.sregRead x) s = .next t ∧ OnlyThreads s1 t ∧ Wrote s1 t x (h :: rest) out ∧ Timed s1 t x (h :: rest) (State.passLatency tm 4 1) out
    (n ≠ 0x00D → x.kw = false → gives s fun u => specialRead s tm u n) ∧
    (n = 0x00D → x.kw = false → s.replaying tm.ctx = false → gives ((partOf x (h :: rest)).foldl (fun s' u =>
      s'.logAppend tm.ctx 2 (s.chrono u.ref.core) u.ref.core u.ref.slot (leBytes 16 (s.chrono u.ref.core))) s) fun u => BitVec.ofNat 64 (s.chrono u.ref.core)) ∧
    (n = 0x00D → x.kw = false → s.replaying tm.ctx = true →
      let o := suppliedTimes tm.ctx s (partOf x (h :: rest))
      gives o.2 fun u => (o.1.find? fun p => p.1 == u.ref).elim 0 (·.2)) ∧
    (∀ u, (partOf x (h :: rest)).getLast? = some u → n = 0x00B → exec (.sregWrite x) s = .next
      ((s.updTeam tm.id fun k => { k with sieveAge := BitVec.ofNat 16 (max 64 (natField (readOpd s u sp.a x.a).toNat 0 16)) }).advance (h :: rest) x.form.length)) ∧
    (n = 0x00C → exec (.sregWrite x) s = .next (((partOf x (h :: rest)).foldl
      (fun t u => t.updThread u.ref fun k => { k with fstat := (readOpd s u sp.a x.a).setWidth 7 }) s).advance (h :: rest) x.form.length)) ∧
    (n ≠ 0x00B → n ≠ 0x00C → exec (.sregWrite x) s = .next (s.advance (h :: rest) x.form.length))

/-- R317, R318, R321: SYS.rdsup and SYS.wrsup send each participating lane's access, in lane order, and hold the group until the answer, which makes the accesses.
The 140 cycles are the model's (assumptions 5 and 60). -/
def Obligations.SupervisorAccess : Prop :=
  ∀ (i : Instr) (x : Fields) (write : Bool) (s : State) (tm : Team) (sp : OpSpec) (h : Thread) (rest : List Thread) (p : Thread) (ps : List Thread),
    supShape i = some (x, write) → Goes s 0x7C x tm sp h rest → partOf x (h :: rest) = p :: ps →
    (∀ l ∈ lanesOf s sp x [] (p :: ps), badSocket (natField x.low.toNat 0 12) l.a = false) → (∀ r ∈ s.mem.results, r.id ≠ s.clk.nextId + 1) →
    ∃ t r, exec i s = .next t ∧ WentOn s t x (h :: rest) ∧ t.mem = { s.mem with results := s.mem.results ++ [r] } ∧ t.cores = s.cores ∧ t.ctxs = s.ctxs ∧ t.pkg = s.pkg ∧
      r.holds = some p.gref ∧ r.counted = (p :: ps).map (·.ref) ∧ r.lanes = [] ∧ r.set = x.set.toNat ∧
      r.sups = (lanesOf s sp x [] (p :: ps)).map (fun l => ⟨l.t.ref, natField l.a.toNat 0 5, natField l.a.toNat 8 4 - 2, natField x.low.toNat 0 12,
        if write then some l.b else none, x.d.toNat⟩) ∧
      ∃ due, t.clk.timers = s.clk.timers ++ [(due, .longLatencyResult r.id)] ∧ s.clk.cycle + 140 ≤ due

/-- R323, R324, R325: SYS.swap delivers its status, and an accepted swap begins; SYS.shoot takes each accepted lane's page out of every unit; SYS.tret sends the
participating threads out of their handler, each to the PC of its operand, or ends it. The order of the statuses of a swap (assumption 17), and that a shoot-down takes its pages and lines
away everywhere when it issues (assumption 47), are the model's. -/
def Obligations.SupervisorCalls : Prop :=
  ∀ (x : Fields) (s : State) (tm : Team) (sp : OpSpec) (h : Thread) (rest : List Thread) (ws : List W32) (p : Thread) (ps : List Thread),
    Issues s 0x7C x tm sp (h :: rest) ws → partOf x (h :: rest) = p :: ps →
    (let l := laneOf s sp x ws p
      let a := natField l.a.toNat 0 32
      let b := natField l.b.toNat 0 32
      let c : CoreId := ⟨natField a 8 1, natField a 2 6, natField a 0 2⟩
      let st := swapStatus s a b c
      let s1 := (begun s (h :: rest) (p :: ps) x x.d.toNat 1).addResult s.clk.nextId (State.passLatency tm (8 + 2 * transit p.ref.core c) 1) x.set.toNat p.handler ((p :: ps).map (·.ref))
        ((p :: ps).map fun u => ⟨u.ref, x.d.toNat, [BitVec.ofNat 32 st], none, 0⟩) (some p.gref) [] false
      (st ≠ 0 → exec (.sysSwap x) s = .next s1) ∧
      (st = 0 → exec (.sysSwap x) s = .next ((s1.updCore c fun k => { k with swap := some ⟨b % 32, (s1.core c).shadow != some (b % 32), none⟩ }).afterExactly 1
        (if (s1.core c).shadow != some (b % 32) then .swapSpillFill c else .swapExchange c)))) ∧
    ((∀ r ∈ s.mem.results, r.id ≠ s.clk.nextId + 1) → ∃ t r, exec (.sysShoot x) s = .next t ∧ t.mem.results = s.mem.results ++ [r] ∧ r.holds = some p.gref ∧
      r.lanes = (lanesOf s sp x ws (p :: ps)).map (fun l => ⟨l.t.ref, x.d.toNat, [BitVec.ofNat 32 (shootStatus l.a.toNat (natField l.b.toNat 0 32))], none, 0⟩) ∧
      r.pages = ((lanesOf s sp x ws (p :: ps)).filter fun l => shootStatus l.a.toNat (natField l.b.toNat 0 32) == 0).map
        (fun l => (l.a.toNat, pageSize (natField l.b.toNat 0 32 % 4))) ∧
      ∀ q ∈ r.pages, ∀ k ∈ t.cores, (∀ e ∈ k.pages, ¬ (e.page < q.1 + q.2 ∧ q.1 < e.page + e.size)) ∧ ∀ l ∈ k.l1, ¬ (q.1 ≤ l.line ∧ l.line < q.1 + q.2)) ∧
    ((∀ u ∈ p :: ps, ∀ n ∈ u.sb, n = 0) → (∀ l ∈ lanesOf s sp x ws (p :: ps), l.a.toNat % 4 = 0) → GroupOf s tm h.gref → p.gref = h.gref →
      exec (.sysTret x) s = .next (((lanesOf s sp x ws (p :: ps)).foldl returnThread
        (transferred s tm (idleOf x (h :: rest)) h.gref 6 (nextPc x))).ceaseGroups.settle))

namespace Sys2Proof.Claims

open Sys2Proof.Machine

/-- What a half of a PAIR computes in a lane: the rule of its opcode's base form (R186, R200), with C = d. -/
def halfRule (g : Guard) (h : Half) : Option (Lane → LaneOut) :=
  let x := halfFields g h
  match decode [BitVec.ofNat 32 (h.op.toNat * 2 ^ 23)] with
  | .error _ => none
  | .ok i => match integerRule i with
    | some f => some fun l => { vals := intWords x.ty false (f x.ty (intValue x.ty l.a) (intValue x.ty l.b) (intValue x.ty l.c)) }
    | none => (wordRule x i).or (ieeeRule x i)

/-- A thread after a half has written what the rule gives for the thread `h`, which holds the operands. -/
def afterHalf (s : State) (g : Guard) (k : Half) (sp : OpSpec) (f : Lane → LaneOut) (h w : Thread) : Thread :=
  match perLane s sp (halfFields g k) [] f h with
  | some o => w.applyOut k.d.toNat o
  | none => w

end Sys2Proof.Claims

/-- R186, R200 to R203: a PAIR that R201 does not refuse. Where a half names a register above the limits the group traps with REG_BOUNDS, before either half executes; else both
halves read what the registers hold before either writes, each writes under its own guard, their flags are ORed, and nothing else changes but the PC and the times of the results. -/
def Obligations.Pairs : Prop :=
  ∀ (g0 g1 : Guard) (h0 h1 : Half) (s : State) (t : Thread) (ts : List Thread) (tm : Team) (sp0 sp1 : OpSpec), s.active = t :: ts → s.team t.team = some tm →
    halvesLegal h0 h1 = true → opSpec h0.op.toNat (halfFields g0 h0) = some sp0 → opSpec h1.op.toNat (halfFields g1 h1) = some sp1 →
    (boundsOk sp0 (halfFields g0 h0) t.handler tm = false ∨ boundsOk sp1 (halfFields g1 h1) t.handler tm = false →
      exec (.pair g0 g1 h0 h1) s = .next (s.trapGroup { cause := 0x04, info := ((encode (.pair g0 g1 h0 h1)).headD 0).toNat })) ∧
    (boundsOk sp0 (halfFields g0 h0) t.handler tm = true → boundsOk sp1 (halfFields g1 h1) t.handler tm = true →
      (∀ v ∈ s.threads, ((t :: ts).map (·.ref)).contains v.ref = true → v ∈ t :: ts) → ∃ f0 f1 u, halfRule g0 h0 = some f0 ∧ halfRule g1 h1 = some f1 ∧
      exec (.pair g0 g1 h0 h1) s = .next u ∧ { u with threads := s.threads } = s ∧ u.threads.length = s.threads.length ∧
      ∀ (k : Nat) (h : Thread), s.threads[k]? = some h → ∃ h', u.threads[k]? = some h' ∧
        (if ((t :: ts).map (·.ref)).contains h.ref then
          h' = { afterHalf s g1 h1 sp1 f1 h (afterHalf s g0 h0 sp0 f0 h h) with pc := h.pc + 12, busy := h'.busy } else h' = h))

namespace Sys2Proof.Claims

open Sys2Proof.Machine

/-- A request that is under way to its home in module memory, for a context that does not drain, on a line that no move copies now and without an
uncorrectable error. -/
structure AtHome (s : State) (r : Request) (reads : Bool) : Prop where
  there   : s.request r.id = some r
  way     : r.stage = .travelling
  home    : r.route = .home
  drains  : s.ctxDrain r.ctx = false
  moves   : s.beingCopied r = false
  errors  : s.uncorrected r.frame r.ia reads = false

/-- The parts of a store written one after another, in lane order (R273): each part's bytes go to its place in one write; W is the largest of theirs. -/
def storesInOrder (s : State) (r : Request) : State × Nat :=
  (r.parts.filter fun p => p.size != 0).foldl (fun (acc : State × Nat) p =>
    let o := acc.1.performWrite (r.frame + p.off) (r.ia + p.off) p.data (some (r.perms, r.ctx))
    (o.1, max acc.2 o.2)) (s, 0)

/-- The lanes of an atomic one after another, in lane order (R162, R273, R279): each reads its bytes once, which a replay may supply with their W (R447), and writes the
new value once; the old values with their Ws, and the largest W. -/
def atomicsInOrder (s : State) (r : Request) (aop : Nat) (rnd : Rnd) : State × List (List Byte) × Nat :=
  r.parts.foldl (fun (acc : State × List (List Byte) × Nat) p =>
    let pa := r.frame + p.off
    let ia := r.ia + p.off
    let v := acc.1.recordedAtomic r.ctx p.t (leNat (acc.1.readMem (acc.1.redirect pa ia) p.size)) (acc.1.writeTime (acc.1.homeOf pa ia) ia)
    let new := (atomicNew r.ty aop rnd v.1.1 (leNat p.data) (leNat p.cmp)).bits
    ((v.2.performWrite pa ia (leBytes p.size new) (some (r.perms, r.ctx))).1, acc.2.1 ++ [leBytes 8 v.1.1 ++ leBytes 8 v.1.2], max acc.2.2 v.1.2)) (s, [], 0)

/-- A packet that its home core's unit takes: the sender's window is open on a plot that lives, and its kind is allowed. -/
structure AtPlot (s : State) (r : Request) (home : CoreId) (win off : Nat) (p : LanePart) (ps : List LanePart) (w : PlotWindow) (k : Plot) : Prop where
  there  : s.request r.id = some r
  way    : r.stage = .travelling
  route  : r.route = .packet home win off
  parts  : r.parts = p :: ps
  drains : s.ctxDrain r.ctx = false
  window : ((s.core home).windows.find? fun v => v.index == win && ((s.plot v.plot).map (·.ctx)) == some r.ctx) = some w
  plot   : s.plot w.plot = some k
  writer : ∀ t, w.writer = some t → (∃ l, r.kind = .load l) ∨ (s.thread p.t).map (·.team) = some t
  poison : r.kind ≠ .store → s.plotPoisoned k (w.offset + p.off) p.size = false

/-- Cycles of a packet's answer (R301, R418). -/
def packetBack (r : Request) (home : CoreId) : Nat := if home = r.core then 12 else 20

/-- A happening that writes one register of a context. -/
def ctlShape (s : State) : Instr → Option (Nat × W64)
  | .contextEnable c => some (c, ctlWith s c 0)
  | .contextHalt c => some (c, ctlWith s c 3)
  | .logEnable c => some (c, ctlWith s c 5)
  | .deadClear c => some (c, ctlWith s c 6)
  | _ => none

/-- The context after a write of CTXCTL (R320, R322, R348, R446): EN, SUP, RT, HALT and LOG take the written bits, DEAD is cleared by a 1 unless it drains,
DRAIN stays, a rise of EN forgets what a swap saved, and a rise of LOG begins a new log. -/
def contextWritten (c : Context) (v : W64) : Context :=
  let rises := fun (n : Nat) => v.getLsbD n && !(c.ctl.getLsbD n)
  { c with ctl := (v.setWidth 8 &&& 0x2F#8) ||| (c.ctl &&& 0x80#8) |||
             (if c.ctl.getLsbD 6 && !(v.getLsbD 6 && !(c.ctl.getLsbD 7)) then 0x40#8 else 0)
           coreImages := if rises 0 then [] else c.coreImages, accImages := if rises 0 then [] else c.accImages
           logHead := if rises 5 then 0 else c.logHead, replayed := if rises 5 then [] else c.replayed, msgs := if rises 5 then 0 else c.msgs
           stalled := c.stalled && v.getLsbD 5 }

/-- Nothing has changed but a context, which is now c. -/
def OnlyContext (s t : State) (n : Nat) (c : Context) : Prop := t.ctx n = some c ∧ (∀ m ≠ n, t.ctx m = s.ctx m) ∧ { t with ctxs := s.ctxs } = s

/-- A lane of a TRACE ends with a status, which its thread receives at once unless the command completes with a wait for leases (R170, R451); with the
last lane the command's work is done. -/
def laneEnds (s : State) (id k : Nat) (st : W32) : State :=
  let s1 := s.updCmd id fun q => { q with lanes := modifyAt (fun l => { l with done := true, status := st }) k q.lanes }
  match s1.cmd id with
  | none => s1
  | some c =>
    let s2 := if s1.cmdTimed c then s1 else s1.writeLanes c.id c.handler (((c.lanes[k]?).toList.filter fun l => !l.gone).map fun l => ⟨l.t, l.reg, [l.status], none, 0⟩)
    if c.lanes.all (·.done) then (s2.updCmd c.id fun q => { q with ended := true }).lookAgain c 0 c.ewmax c.acked else s2

/-- Resets: the value of LASTRST that each leaves (R435). -/
def resetCause : Instr → Option Nat
  | .powerOnReset => some 0
  | .resetGo => some 1
  | .tshut d => if d < 2 then some 2 else none
  | _ => none

end Sys2Proof.Claims

/-- R155, R156, R158, R160, R162, R273, R279, R348: HOME_LOAD, HOME_STORE and HOME_ATOMIC perform a request on module memory: a load takes its line as it stands, with its lease;
a store writes its parts in lane order, and a private line that goes back whole, where no earlier write of their threads to the line is outstanding (R156);
an atomic reads and writes once for each lane, in lane order. That all the bytes of a request are read or written at one moment is the model's choice (assumption 100), where R155 leaves its 16-byte
units unordered. For a context that drains, wherever they are performed, loads and atomics read zeros, stores write nothing, and a packet is dropped; memory stays as it is. -/
def Obligations.HomesPerform : Prop :=
  ∀ (s : State) (r : Request),
    (AtHome s r true →
      let o := s.readHome r
      exec (.homeLoad r.id) s = .next (o.1.answerAfter o.2 (o.1.wayBack o.2) (.loadReturn r.id)) ∧
      o.2 = { r with line := s.readMem (lineOf (s.redirect r.frame r.ia)) 128, leaseEnd := if State.leaseOfKind r.kind = 0 then 0
        else s.chrono (State.sliceUnit (homeDie (s.redirect r.frame r.ia)) (homeSlice r.ia)) + Config.leaseTicks (State.leaseOfKind r.kind) }) ∧
    (AtHome s r false → s.earlierWrite r = false → r.kind ≠ .writeBack →
      let w := storesInOrder s r
      let o := (w.1.clearCovered (r.parts.map fun p => (w.1.redirect (r.frame + p.off) (r.ia + p.off), p.size)), w.2)
      exec (.homeStore r.id) s = .next (o.1.answerAfter { r with w := o.2 } (o.1.wayBack { r with w := o.2 }) (.storeAck r.id))) ∧
    (AtHome s r false → s.earlierWrite r = false → r.kind = .writeBack →
      let o := s.performWrite r.frame r.ia r.line (some (r.perms, r.ctx))
      let s' := if r.poison then o.1.setPoison (s.redirect r.frame r.ia) else o.1
      exec (.homeStore r.id) s = .next (s'.answerAfter { r with w := o.2 } (s'.wayBack { r with w := o.2 }) (.storeAck r.id))) ∧
    (∀ aop rnd, AtHome s r true → s.earlierWrite r = false → r.kind = .atomic aop rnd →
      let o := atomicsInOrder s r aop rnd
      exec (.homeAtomic r.id) s = .next (o.1.answerAfter { r with old := o.2.1, w := o.2.2 } (o.1.wayBack r + 8) (.loadReturn r.id))) ∧
    (s.request r.id = some r → r.stage = .travelling → s.ctxDrain r.ctx = true →
      exec (.homeLoad r.id) s = .next (s.answerAfter { r with line := List.replicate 128 0, leaseEnd := 0 } (s.wayBack r) (.loadReturn r.id)) ∧
      exec (.homeStore r.id) s = .next (s.answerAfter r (s.wayBack r) (.storeAck r.id)) ∧
      (∀ aop rnd, r.kind = .atomic aop rnd →
        exec (.homeAtomic r.id) s = .next (s.answerAfter { r with old := r.parts.map fun _ => List.replicate 16 0 } (s.wayBack r + 8) (.loadReturn r.id))) ∧
      (∀ home win off, r.route = .packet home win off → r.parts ≠ [] →
        exec (.operationPacket r.id) s = .next { s with mem := { s.mem with requests := s.mem.requests.filter fun q => q.id != r.id } }))

/-- R142, R159 to R161, R272, R277, R279: OPERATION_PACKET performs a packet on the plot and answers it; LOAD_RETURN writes a load's lanes, each after its own store
queue, and releases the slot; STORE_ACK raises the threads' WMAX, updates the core's own copy, and releases the slot. The model's choices: a packet atomic's
old value comes with a W of zero (assumption 48), and the cycles of R301 are those to the plot unit and back in two equal parts (assumption 117). -/
def Obligations.PacketsAndReturns : Prop :=
  ∀ (s : State) (r : Request),
    (∀ home win off p ps w k, AtPlot s r home win off p ps w k →
      (r.kind = .store → exec (.operationPacket r.id) s = .next ((s.writePlotBytes k (w.offset + p.off) p.data).answerAfter r (packetBack r home) (.storeAck r.id))) ∧
      (∀ l, r.kind = .load l → exec (.operationPacket r.id) s = .next
        (s.answerAfter { r with line := List.replicate p.off 0 ++ k.read (w.offset + p.off) p.size } (packetBack r home) (.loadReturn r.id))) ∧
      (∀ aop rnd, r.kind = .atomic aop rnd → s.replaying r.ctx = false →
        let old := leNat (k.read (w.offset + p.off) p.size)
        exec (.operationPacket r.id) s = .next ((s.writePlotBytes k (w.offset + p.off) (leBytes p.size (atomicNew r.ty aop rnd old (leNat p.data) (leNat p.cmp)).bits)).answerAfter
          { r with old := [leBytes 8 old ++ leBytes 8 0] } (packetBack r home) (.loadReturn r.id)))) ∧
    (∀ l, s.request r.id = some r → r.stage = .performed → r.kind = .load l →
      exec (.loadReturn r.id) s = .next (((s.keepLoaded r).writeLanes r.op r.handler (State.loadedLanes r)).endRequest r)) ∧
    (s.request r.id = some r → r.stage = .performed → r.kind = .store → r.route = .home →
      exec (.storeAck r.id) s = .next (((s.updThreads (r.parts.map (·.t)).eraseDups fun h => { h with wmax := max h.wmax r.w }).updateOwn r).endRequest r))

/-- R127, R131, R165, R332, R333: PAGE_WALK_ANSWER: a pass fills the page presence cache of the core, and the requests that waited are checked; a failure of a fetch parks the threads that asked for it. Where the walk
of an access fails with PAGE or PERM, a malformed entry is reported (R127), prefetches are dropped (R283), and the threads of an instruction whose checks are all answered then park at it, each with the page at which it failed, in one sub-group. FENCE_COMPLETE: a thread whose wait is over goes on. -/
def Obligations.WalksAndFences : Prop :=
  ∀ (s : State),
    (∀ (w : Walk) (e : PageEntry) (op : Nat), (s.mem.walks.find? fun v => v.id == w.id) = some w → s.walkVerdict w = .ok e → w.stale = false → w.who = .requests →
      s.walkOp w.id = some op →
      let s1 := ({ s with mem := { s.mem with walks := s.mem.walks.filter fun k => k.id != w.id } } : State).fillPage w.core e
      exec (.pageWalkAnswer w.id) s = .next (({ s1 with mem := { s1.mem with requests := s1.mem.requests.map fun r => if r.stage == .walking w.id then
        { r with stage := .checked, frame := e.frame + (r.ia - e.page), perms := e.perms } else r } } : State).settleOp op)) ∧
    (∀ (w : Walk) (g : GRef) (pc : W64) (ts : List TRef) (cause : Nat), (s.mem.walks.find? fun v => v.id == w.id) = some w → s.walkVerdict w = .error (cause, false) → w.who = .fetch g pc ts →
      exec (.pageWalkAnswer w.id) s = .next (({ s with mem := { s.mem with walks := s.mem.walks.filter fun k => k.id != w.id } } : State).fetchFails w pc ts cause)) ∧
    (∀ (w : Walk) (cause : Nat) (bad : Bool) (op : Nat), (s.mem.walks.find? fun v => v.id == w.id) = some w → s.walkVerdict w = .error (cause, bad) → w.who = .requests →
      s.walkOp w.id = some op →
      let s0 : State := { s with mem := { s.mem with walks := s.mem.walks.filter fun k => k.id != w.id } }
      let s1 := if bad = true then s0.emit (.report w.ctx w.ia) else s0
      let prefetch := fun (r : Request) => r.kind == .sliceFill || (match r.kind with | .fill _ => true | _ => false)
      let rs := (s.mem.requests.filter fun r => !(r.stage == .walking w.id && prefetch r)).map fun r =>
        if r.stage = .walking w.id then { r with stage := .failed cause (s1.faultPage w.ia cause) } else r
      exec (.pageWalkAnswer w.id) s = .next (({ s1 with mem := { s1.mem with requests := rs } } : State).settleOp op) ∧
      (∀ r, (s.mem.requests.filter fun q => q.op == op) = [r] → r.stage = .walking w.id → r.route = .home → (r.kind = .store ∨ (∃ l, r.kind = .load l) ∨ ∃ aop rnd, r.kind = .atomic aop rnd) →
        r.parts ≠ [] → (r.parts.map (·.t)).Nodup →
        (∀ p ∈ r.parts, s.ctxDead p.t.ctx = false ∧ ∃ h, s.thread p.t = some h ∧ h.retry ≠ some (cause, (r.ia + p.off) / 2 ^ 16, r.pc)) →
        ∃ (u : State) (k : Parked), exec (.pageWalkAnswer w.id) s = .next u.settle ∧ (∀ q ∈ u.mem.requests, q.op ≠ op) ∧
          (∀ p ∈ r.parts, ∀ h, s.thread p.t = some h → u.thread p.t =
            some { h.slotDown r.handler r.set with status := .parked, pc := r.pc, retry := some (cause, (r.ia + p.off) / 2 ^ 16, r.pc) }) ∧
          (∀ q, q ∉ r.parts.map (·.t) → u.thread q = s.thread q) ∧
          u.mem.parked = s.mem.parked ++ [k] ∧ k.threads.Perm (r.parts.map (·.t)) ∧ k.cause = cause ∧ k.fetch = false ∧
          ∃ p ∈ r.parts, k.threads.head? = some p.t ∧ k.ctx = p.t.ctx ∧ k.va = r.va + p.off ∧ k.ia = r.ia + p.off)) ∧
    (∀ (t : TRef) (h : Thread) (scope : Scope) (tm : Team), s.thread t = some h → h.fence = some scope → s.team h.team = some tm → fenceDone s tm h scope = true →
      exec (.fenceComplete t) s = .next (s.updThread t fun h => { h with fence := none }))

/-- R93, R193, R247, R337, R446: LONG_LATENCY_RESULT of a result that no stage and no shoot-down holds: every lane of a thread that has not ended takes its registers, its predicate and
its flags, ORed into FSTAT, in the registers of the code that named them, and the threads counted release their slot. Atomics of a plot then append their entries to the log, in lane order, with the old value and a W of zero (assumption 48). -/
def Obligations.LongLatencyResults : Prop :=
  ∀ (s : State) (r : Result), (s.mem.results.find? fun q => q.id == r.id) = some r → r.held = none → r.waits = [] → r.pages = [] → r.sups = [] →
    let s1 := r.logs.foldl (fun s l => s.logAppend l.1.ctx 4 (s.chrono l.1.core) l.1.core l.1.slot (leBytes 8 l.2 ++ leBytes 8 0))
      { s with mem := { s.mem with results := s.mem.results.filter fun q => q.id != r.id } }
    ∃ t, exec (.longLatencyResult r.id) s = .next t ∧ t.mem = s1.mem ∧ t.clk = s1.clk ∧ t.cores = s.cores ∧ t.ctxs = s1.ctxs ∧
      t.threads.length = s.threads.length ∧
      ∀ (k : Nat) (h : Thread), s.threads[k]? = some h → ∃ h', t.threads[k]? = some h' ∧
        (∀ l, (r.lanes.filter fun l => l.t == h.ref) = [l] → h.exited = false → h.dying = none →
          let w := (h.setRegsOf r.handler l.reg l.vals).orFlags l.flags
          let w' := match l.pred with | some (n, v) => w.setPred n v | none => w
          h' = { (if r.counted.contains h.ref then w'.slotDown r.handler r.set else w') with windows := h'.windows }) ∧
        ((r.lanes.filter fun l => l.t == h.ref) = [] → h' = if r.counted.contains h.ref then h.slotDown r.handler r.set else h)

/-- R56, R174, R299, R365, R417, R423: STAGE_ACQUIRE_GRANT, BARRIER_COMPLETE, TTAKE_GRANT and MESSAGE_ARRIVAL, each where its condition holds. That the answer of a TTAKE
that has waited comes at once as a long-latency result is the model's reading (assumption 52), and so is which flits a replay lets pass (assumption 46). -/
def Obligations.Grants : Prop :=
  ∀ (s : State),
    (∀ team ring consume tm g a t, s.grantable team ring consume = some (tm, g, a, t) →
      let o := g.take consume (State.ownerOf tm t)
      exec (.stageAcquireGrant team ring consume) s = .next (((s.updRing team ring fun _ => o.2.dequeue consume).wake a.threads).addLater a.op (4 + 2 * holdTransit tm t.core) a.set
        a.handler a.threads (a.threads.map fun t => ⟨t, a.reg, [BitVec.ofNat 32 o.1], none, 0⟩) none [])) ∧
    (∀ ctx n, s.barrierDone (s.barrier ctx n) = true → exec (.barrierComplete ctx n) s = .next ((s.updBarrier ctx n fun b =>
      { b with sstep := (b.sstep + 1) % 2 ^ 32, bwmax := 0, arr := 0, dep := b.dep + b.late, late := 0, waiters := [], finished := b.arr == 0 }).wake (s.barrier ctx n).waiters)) ∧
    (∀ t team n res, takeable s t = some (team, n, res) → exec (.ttakeGrant t) s = .next
      (((s.updHandle team t.core n fun k => { k with state := .held t.core t.slot }).wake ((s.threads.filter fun h => h.status == .waiting (.handle n res)).map (·.ref))).afterExactly 0
        (.longLatencyResult res))) ∧
    (∀ (f : Flit) (s1 s2 : State), (s.mem.flits.find? fun g => g.id == f.id) = some f →
      (∀ g ∈ s.mem.flits.takeWhile fun g => g.id != f.id, ¬ (g.sender = f.sender ∧ g.ctx = f.ctx ∧ g.dest = f.dest) ∧ (s.flitPath g = s.flitPath f → s.replaying g.ctx = true)) →
      (s.enterQueue f).isSome = true → s.logFlit f = .now s1 → s1.enterQueue f = some s2 →
      exec (.messageArrival f.id) s = .next ((s2.flitDelivered f).serveReceives f.dest f.ctx f.queue (s2.receiveFuel f.dest)))

/-- R80 to R82, R357, R371, R372: TILE_SLOT_DRAIN gives a released slot without a use back to its team's pool; MMA_ACCEPT gives a waiting operation an entry; TILE_PASS_GRANT asks a
permit for the pass whose turn it is; TILE_PASS_COMPLETE adds the pass's products and frees the engine. Which free entry is taken is the model's choice (assumption 109). -/
def Obligations.MatrixEngine : Prop :=
  ∀ (s : State) (d k : Nat),
    (∀ slot t team, s.tileSlot d k slot = some t → t.drains = true → t.uses = [] → t.owner = .pool team → (s.team team).isSome = true →
      exec (.tileSlotDrain d k slot) s = .next (s.updTileSlot d k slot fun q => { q with drains := false, bound := false })) ∧
    (∀ (o : MmaOp) (n : Nat), (s.tile.ops.find? fun q => q.id == o.id) = some o → o.entry = none → o.voted + 8 ≤ s.clk.cycle → s.freeEntry o.die o.site o.ctx = some n →
      let s1 : State := { s with tile := { s.tile with ops := s.tile.ops.map fun q => if q.id == o.id then { q with entry := some n } else q } }
      exec (.mmaAccept o.id) s = .next (match o.cvg with | some c => s1.releaseCvg o.team c | none => s1)) ∧
    (∀ o p, (s.engineOf d k).granted = none → s.nextPass d k = some (o, p) →
      exec (.tilePassGrant d k) s = .next ((((s.updEngine d k fun g => { g with granted := some (o.id, false), last := p, grants := g.grants + 1 }).ageEntries o
        ((s.updEngine d k fun g => { g with granted := some (o.id, false), last := p, grants := g.grants + 1 }).engineOf d k).grants)).askPermit d (.pass d k) 16 k o.realTime)) ∧
    (∀ id, (s.engineOf d k).granted = some (id, true) → (s.tile.ops.find? fun o => o.id == id) = none →
      exec (.tilePassComplete d k) s = .next (s.updEngine d k fun g => { g with granted := none })) ∧
    (∀ (o : MmaOp) (a b : TileSlot), (s.engineOf d k).granted = some (o.id, true) → (s.tile.ops.find? fun q => q.id == o.id) = some o → s.tileSlot d k o.slotA = some a →
      s.tileSlot d k o.slotB = some b → o.pass + 1 < State.passesOf o →
      ∃ t, exec (.tilePassComplete d k) s = .next t ∧ (t.engineOf d k).granted = none ∧ t.mem.mem = s.mem.mem ∧ t.threads = s.threads ∧
        t.tile.banks = ((s.updEngine d k fun g => { g with granted := none }).addPass o a.tile b.tile).tile.banks ∧
        t.tile.ops = s.tile.ops.map fun q => if q.id == o.id then { q with pass := q.pass + 1 } else q)

/-- R84, R85, R435, R437, R444, R448: PERMIT_REFILL, PERMIT_GRANT, THROTTLE_LEVEL_CHANGE, and the resets POWER_ON_RESET, RESET_GO and TSHUT, which leave every register and SRAM and module memory
as a boot leaves them, with the cause in LASTRST; TSHUT keeps the entries of the logs (R448), and
so does a temperature that reaches it (assumption 68). A boot that fails once at one of the steps 4 to 8 runs again, with LASTRST = 3 and the step in FAILSTEP; one that fails there twice ends with BOOTERR (R437). -/
def Obligations.PowerAndResets : Prop :=
  ∀ (s : State) (d : Nat),
    (∀ w, s.steward d = some w → ∃ t w', exec (.permitRefill d) s = .next t ∧ t.steward d = some w' ∧ w' = { w with main := w'.main, reserve := w'.reserve } ∧
      w'.reserve = min (1024 * 1024) (w.reserve + s.pkg.record.rtShare * s.pkg.record.heavyW * 4) ∧
      w'.main = min (4096 * 1024) (w.main + (256 - s.pkg.record.rtShare) * s.pkg.record.heavyW * 4 / (if w.level = 0 then 1 else if w.level = 1 then 2 else 4)) ∧
      t.mem = s.mem ∧ t.threads = s.threads ∧ t.clk = s.clk) ∧
    (∀ w q w', s.steward d = some w → w.grant = some (q, w') → exec (.permitGrant d) s = .next ((s.updSteward d fun _ => w').permitted q)) ∧
    (∀ w temp, s.steward d = some w → d < 2 → temp < s.pkg.record.tShut → ∃ t, exec (.throttleLevelChange d temp) s = .next t ∧
      t.steward d = some { w with temp := temp, level := if temp < s.pkg.record.tThrot then 0 else if temp < s.pkg.record.tThrot + 5 then 1 else 2 } ∧ t.mem = s.mem ∧ t.threads = s.threads) ∧
    (∀ temp, d < 2 → s.pkg.record.tShut ≤ temp → exec (.throttleLevelChange d temp) s = exec (.tshut d) s) ∧
    (∀ i n k rest, resetCause i = some n → s.pkg.bootFaults = k :: rest → 4 ≤ k → k ≤ 8 → s.pkg.flashA.failsAt = 0 ∨ s.pkg.flashB.failsAt = 0 → ∃ t, exec i s = .next t ∧
      { t.mem with mem := ⟨[]⟩ } = MemSide.reset ∧ t.tile = TileSide.reset ∧ t.ctxs = List.replicate 32 Context.reset ∧ t.cores = [] ∧ t.threads = [] ∧ t.groups = [] ∧ t.teams = [] ∧
      t.runs = [] ∧ t.plots = [] ∧ t.render = [Render.reset, Render.reset] ∧ t.clk.cycle = 0 ∧ t.pkg.lastRst = 3 ∧ t.pkg.copyB = (s.pkg.flashA.failsAt != 0) ∧
      (rest = [] → t.pkg.done = true ∧ t.pkg.bootErr = false ∧ t.pkg.failStep = (if s.pkg.flashA.failsAt = 0 then k else s.pkg.flashA.failsAt) ∧
        let f := if s.pkg.flashA.failsAt = 0 then s.pkg.flashA else s.pkg.flashB
        t.pkg.record = f.record ∧ t.pkg.mr = measuredBy f) ∧
      (∀ k2 more, rest = k2 :: more → 4 ≤ k2 → k2 ≤ 8 → t.pkg.done = false ∧ t.pkg.bootErr = true ∧ t.pkg.failStep = k2)) ∧
    (∀ i n, resetCause i = some n → s.pkg.bootFaults = [] → ∃ t, exec i s = .next t ∧ t.pkg.lastRst = n ∧
      { t.mem with mem := ⟨[]⟩ } = MemSide.reset ∧ t.mem.mem = (if n = 2 then s.logCells else []).foldl (fun m p => m.writeBytes p.1 p.2) ⟨[]⟩ ∧ t.tile = TileSide.reset ∧ t.ctxs = List.replicate 32 Context.reset ∧ t.cores = [] ∧ t.threads = [] ∧ t.groups = [] ∧ t.teams = [] ∧ t.runs = [] ∧ t.plots = [] ∧
      t.render = [Render.reset, Render.reset] ∧ t.clk.cycle = 0 ∧
      (s.pkg.flashA.failsAt = 0 ∨ s.pkg.flashB.failsAt = 0 → t.pkg.done = true ∧ t.pkg.bootErr = false ∧
        let f := if s.pkg.flashA.failsAt = 0 then s.pkg.flashA else s.pkg.flashB
        t.pkg.record = f.record ∧ t.pkg.mr = measuredBy f) ∧
      (s.pkg.flashA.failsAt ≠ 0 → s.pkg.flashB.failsAt ≠ 0 → t.pkg.done = false ∧ t.pkg.bootErr = true ∧ t.pkg.mr = List.replicate 8 (List.replicate 32 0)))

/-- R170, R173, R288, R290, R404, R451: COPY_PART_COMPLETE reads a part's source and then writes it, and after a lane's last part ends the lane with the number of its parts as status; the next
descriptor is read, or the command's work is done. TRACE_LANE_COMPLETE writes a lane's outputs and ends it, with the command's last one that too; an output that cannot be written gives its code. That the bytes of a part
move at one moment is the model's choice (assumption 100), and so are when the statuses of the lanes are written (assumption 40) and the code of a destination in another team's single-writer window (assumption 114). ENGINE_COMMAND_COMPLETE takes the bytes of parts
whose writes are over out of PEND and, where the command's work is done and its last write over, writes the statuses that its lanes have not had, releases the slot, and lets the next command begin. -/
def Obligations.CommandsGoOn : Prop :=
  ∀ (s : State) (c : Cmd), s.cmd c.id = some c → s.ctxDead c.ctx = false →
    (∀ d k l bytes targets s1 s2 w acked, c.kind = .copy (some d) → State.cmdLane c = some (k, l) → s.copyGather c d (d.part c.parts) = .ok (bytes, s1) →
      s1.copyTargets c d (d.part c.parts) = .ok targets → s1.copyScatter c 0 0 (targets.zip bytes) = (s2, w, acked) → c.parts + 1 < d.parts →
      exec (.copyPartComplete c.id) s = .next (((((s2.copyCleans c (targets.zip bytes)).partWritten c ((d.part c.parts).length * d.esize) w acked).restartWatchdog c.ctx).updCmd c.id fun q =>
        { q with ewmax := max q.ewmax w, acked := max q.acked acked, parts := q.parts + 1 }).askPermit c.core.die (.command c.id) 12 c.core.site c.realTime)) ∧
    (∀ d k l bytes targets s1 s2 w acked, c.kind = .copy (some d) → State.cmdLane c = some (k, l) → s.copyGather c d (d.part c.parts) = .ok (bytes, s1) →
      s1.copyTargets c d (d.part c.parts) = .ok targets → s1.copyScatter c 0 0 (targets.zip bytes) = (s2, w, acked) → d.parts ≤ c.parts + 1 →
      let s3 := ((s2.copyCleans c (targets.zip bytes)).partWritten c ((d.part c.parts).length * d.esize) w acked).restartWatchdog c.ctx
      let s4 := s3.updCmd c.id fun q => { q with ewmax := max q.ewmax w, acked := max q.acked acked, parts := q.parts + 1, kind := .copy none
                                                 lanes := modifyAt (fun l => { l with done := true, status := BitVec.ofNat 32 (min (c.parts + 1) (2 ^ 24 - 1) * 256) }) k q.lanes }
      exec (.copyPartComplete c.id) s = .next (s4.copyNext c.id (c.lanes.length + 1)) ∧
      (∀ c', s4.cmd c.id = some c' → (∀ q ∈ c'.lanes, q.done = true) → exec (.copyPartComplete c.id) s = .next
        ((s4.updCmd c.id fun q => { q with ended := true }).lookAgain c' 1 c'.ewmax c'.acked))) ∧
    (∀ k l, c.lanes[k]? = some l → l.done = false → l.out ≠ [] →
      (∀ ia, s.engineWritable c.ctx (l.addr.toNat + l.outAt) l.out.length = .ok ia →
        let o := s.engineWrite c.ctx ia l.out
        let q := o.1.ackedFrom ia
        exec (.traceLaneComplete c.id k) s = .next (laneEnds ((q.2.noteRemote c.id ia q.1).updCmd c.id fun q' => { q' with ewmax := max q'.ewmax o.2, acked := max q'.acked q.1 }) c.id k l.status)) ∧
      (∀ e, s.engineWritable c.ctx (l.addr.toNat + l.outAt) l.out.length = .cause e →
        exec (.traceLaneComplete c.id k) s = .next (laneEnds s c.id k (BitVec.ofNat 32 (traceCause e))))) ∧
    (∀ k l, c.lanes[k]? = some l → l.done = false → l.out = [] → exec (.traceLaneComplete c.id k) s = .next (laneEnds s c.id k l.status)) ∧
    (∀ k l, c.lanes[k]? = some l → l.done = false → l.gone = false → l.out = [] → s.cmdTimed c = false → (∃ m, m ≠ k ∧ (c.lanes[m]?).map (·.done) = some false) →
      let s1 := s.laneStatus c k l.status
      exec (.traceLaneComplete c.id k) s = .next (s1.writeLanes c.id c.handler [⟨l.t, l.reg, [l.status], none, 0⟩])) ∧
    (c.ended = false → exec (.engineCommandComplete c.id) s = .next (s.settleParts c)) ∧
    (c.ended = true → (s.settleParts c).writesOver c c.ewmax c.acked = true →
      let s1 := (s.settleParts c).pendDone c c.counted c.ewmax
      let live := c.lanes.filter fun l => !l.gone
      let s2 := if c.kind = .trace ∧ s1.cmdTimed c = false then s1 else s1.writeLanes c.id c.handler (live.map fun l => ⟨l.t, l.reg, [l.status], none, 0⟩)
      exec (.engineCommandComplete c.id) s = .next ((((s2.release (live.map (·.t)) c.handler c.set).dropCommand c.id).restartWatchdog c.ctx).beginCommands))

/-- R43 to R47, R59: SIEVE_DRAW, BIN_AGE_LIMIT, THREAD_MOVE, AUTOMATIC_REFORM and WAITING_CANCEL_EXIT, each where its condition holds. -/
def Obligations.SieveAndGroups : Prop :=
  ∀ (s : State),
    (∀ core b cls n, s.nextDraw core = some (b, cls, n) → cls ≠ 4 → exec (.sieveDraw core) s = .next (s.drawBin core b n)) ∧
    (∀ core b n, s.nextDraw core = some (b, 4, n) → exec (.binAgeLimit core b.ctx b.index) s = .next (s.drawBin core b n)) ∧
    (∀ t, exec (.threadMove t) s = .next { s with threads := s.threads.map fun h => if h.ref == t then { h with moving := false } else h }) ∧
    (∀ g k, s.group g = some k → 4096 ≤ k.counter →
      let went := (s.activeOf g).filter fun t => !(k.waits.contains t.ref)
      exec (.automaticReform g) s = .next ((((s.waiters g went).foldl (fun s t => match s.thread t with | some h => s.fileThread t h.pc 0 | none => s) s).updGroup g fun k =>
        { k with counter := 0, waits := [] }).ceaseGroups)) ∧
    (∀ t h, s.thread t = some h → cancelledWaiter s h = true → exec (.waitingCancelExit t) s = .next (ended s [t] .cancelled))

/-- R78, R79, R137, R138, R343, R345: ACTIVE_SET_DISPLACE, THROTTLE_WINDOW_END, BANK_CHANGE_COMPLETE, which writes the bank's dirty private lines back and drops its lines and, for a change to PLOT, zeroes the
bank before the new code takes effect, SWAP_SPILL_FILL and SWAP_EXCHANGE on a core. The model's choices: among equally old positions the lowest leaves (assumption 96), the cycle that refills the permit count does so
with the old limit (assumption 95), and a change to another code than PLOT takes effect at this event, 4 cycles after its issue (assumption 98). -/
def Obligations.CoreHappenings : Prop :=
  ∀ (s : State) (c : CoreId),
    (∀ p, displaces s (s.core c) = true → oldestPosition (s.core c) = some p → exec (.activeSetDisplace c) s = .next (s.updCore c fun k => exchangePosition k s.clk.cycle p)) ∧
    (∃ t, exec (.throttleWindowEnd c) s = .next t ∧ (∀ d ≠ c, t.core d = s.core d) ∧
      let k := s.core c
      t.core c = { k with miss := 0, vhit := 0, permit := (k.permit + k.limit) % 64
                          limit := if 64 ≤ k.miss ∧ k.miss ≤ 8 * k.vhit then max 2 (k.limit / 2) else if 32 * k.vhit < k.miss then min 64 (2 * k.limit) else k.limit }) ∧
    (∀ ch, ((s.core c).changes.find? fun b => b.bank == ch.bank) = some ch →
      let back := (((s.core c).l1.filter fun l => l.bank == ch.bank).foldl (fun s l => s.writeBackLine c l) s).updCore c fun k => { k with l1 := k.l1.filter fun l => l.bank != ch.bank }
      let changed := fun (s : State) => s.updCore c fun k =>
        { k with changes := k.changes.filter fun b => b.bank != ch.bank, modes := modifyAt (fun _ => BitVec.ofNat 2 ch.mode) ch.bank k.modes }
      (ch.cleared = false → ch.mode = 1 → exec (.bankChangeComplete c ch.bank) s = .next ((back.updCore c fun k =>
        { k with changes := mapIf (fun b => b.bank == ch.bank) (fun b => { b with cleared := true }) k.changes }).afterExactly 512 (.bankChangeComplete c ch.bank))) ∧
      (ch.cleared = false → ch.mode ≠ 1 → exec (.bankChangeComplete c ch.bank) s = .next (changed back)) ∧
      (ch.cleared = true → exec (.bankChangeComplete c ch.bank) s = .next (changed s))) ∧
    (∀ ctx, (s.core c).swap = some ⟨ctx, true, none⟩ → s.spillWaits c ctx = false → exec (.swapSpillFill c) s = .next
      ((s.updCore c fun k => { k with swap := some ⟨ctx, true, some (s.clk.cycle + s.spillCycles c ctx)⟩ }).afterExactly (s.spillCycles c ctx) (.swapSpillFill c))) ∧
    (∀ ctx n, (s.core c).swap = some ⟨ctx, true, some n⟩ → n ≤ s.clk.cycle → s.spillWaits c ctx = false → exec (.swapSpillFill c) s = .next
      (((s.spillBank c).fillBank c ctx).afterExactly 0 (.swapExchange c))) ∧
    (∀ ctx, (s.core c).swap = some ⟨ctx, false, none⟩ → exec (.swapExchange c) s = .next
      (((s.exchangeBanks c).updCore c fun k => { k with swap := some ⟨ctx, false, some (s.clk.cycle + 96)⟩ }).afterExactly 96 (.swapExchange c))) ∧
    (∀ ctx n, (s.core c).swap = some ⟨ctx, false, some n⟩ → n ≤ s.clk.cycle → exec (.swapExchange c) s = .next (s.updCore c fun k => { k with swap := none }))

/-- R66, R70, R71, R320, R334, R346 to R348, R413, R446: the happenings of a context, each where its condition holds. A write of CTXCTL; a watchdog that has run out makes the context dead;
a drain ends; a fault record that waited is written at FRWRITE; a held retirement waits until the credit table has room, and lowers DEP of the earliest-posted record of its TAG, or becomes a credit; LOGLIMIT takes bits 31:4, and a larger
one lets a held context go; FRREAD takes a value not ahead of FRWRITE and at most 256 behind it; CANCELSET marks the queued records of each named group and sets the flags of its runs and teams. That the watchdog's record names die 0, cluster 0, core 0, group 0 and PC 0 (assumption 71), and that a write of FRREAD takes the low 32 bits (assumption 89), are the model's choices; what a held retirement does when an entry frees is its reading (assumption 23). -/
def Obligations.ContextHappenings : Prop :=
  ∀ (s : State) (n : Nat) (c : Context), s.ctx n = some c →
    (∀ i v, ctlShape s i = some (n, v) → ∃ t, exec i s = .next t ∧ OnlyContext
      (if v.getLsbD 5 = true ∧ c.ctl.getLsbD 5 = false then { s with runs := s.runs.map fun r => if r.ctx = n then { r with entry := none } else r } else s) t n (contextWritten c v)) ∧
    (watchdogTicks s ≤ c.watchdog → watchdogRests s n = false → s.ctxDead n = false → ∃ t, exec (.watchdogExpiry n) s = .next t ∧ t = s.killContext n Cause.watchdog 0 ⟨0, 0, 0⟩ ∧
      t.ctxDead n = true ∧ t.ctxDrain n = true ∧ t.ctxEn n = false ∧ (∀ tm ∈ t.teams, tm.ctx ≠ n) ∧ (∀ r ∈ t.runs, r.ctx ≠ n) ∧ ∀ k, t.ctx n = some k → k.queue = [] ∧ k.barriers = []) ∧
    (s.ctxDrain n = true → tagged s n = false → ∃ t, exec (.drainComplete n) s = .next t ∧ OnlyContext s t n { c with ctl := c.ctl &&& 0x7F#8 }) ∧
    (∀ bs rest, c.frWait = bs :: rest → State.ringFull c = false → ∃ t, exec (.deferredFaultRecord n) s = .next t ∧
      OnlyContext s t n { c with frWait := rest, ring := assocSet (c.frWrite.toNat % 256) bs c.ring, frWrite := c.frWrite + 1 }) ∧
    (∀ tag ts, c.retiring = tag :: ts →
      (256 ≤ c.credits.length → exec (.creditRetire n) s = .next s) ∧
      (∀ r, leastBy (·.seq) (c.queue.filter fun r => r.tag == tag && decide (0 < r.dep)) = some r → c.credits.length < 256 → ∃ t, exec (.creditRetire n) s = .next t ∧
        OnlyContext s t n { c with retiring := ts, queue := c.queue.map fun q => if q.seq == r.seq then { q with dep := q.dep - 1 } else q }) ∧
      ((∀ r ∈ c.queue, r.tag = tag → r.dep = 0) → c.credits.length < 256 → ∃ t, exec (.creditRetire n) s = .next t ∧
        OnlyContext s t n { c with retiring := ts, credits := c.credits ++ [tag] })) ∧
    (∀ v : W64, ∃ t, exec (.loglimitWrite n v) s = .next t ∧
      OnlyContext s t n { c with logLimit := v &&& 0xFFFFFFF0#64, stalled := c.stalled && !(decide (c.logLimit.toNat < (v &&& 0xFFFFFFF0#64).toNat)) }) ∧
    (∀ v : W64, ∃ t, exec (.frreadWrite n v) s = .next t ∧ OnlyContext s t n { c with frRead := if (c.frWrite - v.setWidth 32).toNat ≤ 256 then v.setWidth 32 else c.frRead }) ∧
    (∀ v : W64, ∃ t, exec (.cancelset n v) s = .next t ∧
      t.ctx n = some { c with queue := c.queue.map fun r => if v.getLsbD r.cgroup then { r with marked := true } else r } ∧ (∀ m ≠ n, t.ctx m = s.ctx m) ∧
      t.runs = s.runs.map (fun r => if r.ctx == n && v.getLsbD r.record.cgroup then { r with cancel := true } else r) ∧
      t.teams = s.teams.map (fun tm => if s.runs.any fun r => r.ctx == n && v.getLsbD r.record.cgroup && r.id == tm.run then { tm with cancel := true } else tm) ∧
      { t with ctxs := s.ctxs, runs := s.runs, teams := s.teams } = s)

namespace Sys2Proof.Claims

open Sys2Proof.Machine

/-- The buffer of a hart's post sequence to a context's window (R65). -/
def sequenceOf (s : State) (hart n : Nat) : Option PostBuffer := s.pkg.posts.find? fun b => b.hart == hart && b.ctx == n

/-- The same with this buffer, or none, for that sequence. -/
def withSequence (s : State) (hart n : Nat) (b : List PostBuffer) : State :=
  { s with pkg := { s.pkg with posts := b ++ s.pkg.posts.filter fun b => !(b.hart == hart && b.ctx == n) } }

/-- A rejection counts (R66, R67). -/
def rejected (s : State) (n code : Nat) : State := s.updCtx n fun c => { c with rejects := (c.rejects + 1) % 2 ^ 16, lastCode := code }

/-- A broken sequence's buffer is discarded, and counts as a rejection SPLIT (R65). -/
def broken (s : State) (n : Nat) (b : PostBuffer) : State := rejected { s with pkg := { s.pkg with posts := s.pkg.posts.filter fun k => k != b } } n 7

/-- The eight doublewords of a sequence in ascending order, as 64 bytes. -/
def sequenceBytes (words : List (Nat × W64)) : List Byte := (List.range 8).flatMap fun k => leBytes 8 (assocGet 0 k words).toNat

/-- A record as it is queued (R68, R70): with a number of its own, class 0 only under CTXCTL.RT, and DEP less the credits that it uses. -/
def queuedAs (s : State) (n : Nat) (c : Context) (r : Record) : Record :=
  { r with seq := s.clk.nextId, prio := if r.prio = 0 ∧ s.ctxRt n = false then 1 else r.prio, dep := r.dep - min (creditsFor c r) r.dep }
where
  /-- Credits held for a TAG; none for TAG 0. -/
  creditsFor (c : Context) (r : Record) : Nat := if r.tag = 0 then 0 else (c.credits.filter (· == r.tag)).length

/-- The credits left after a post: those of the record's TAG that it used are removed (R70). -/
def creditsLeft (c : Context) (r : Record) : List Nat :=
  let held := if r.tag = 0 then 0 else (c.credits.filter (· == r.tag)).length
  let used := min held r.dep
  if used = 0 then c.credits else c.credits.filter (· != r.tag) ++ List.replicate (held - used) r.tag

/-- The threads of a team as they start (R28, R31, R33 to R35): ELIGIBLE at ENTRY with zero registers, in ascending slots and lanes, part by part. -/
def startingThreads (tm : Team) : Nat → List Part → List Thread
  | _, [] => []
  | b, p :: ps => (List.range p.count).map (fun i =>
      { ref := ⟨p.core, tm.ctx, p.slot0 + i⟩, team := tm.id, tidx := b + i, status := .eligible, group := p.groups.getD (i / tm.header.width) 0
        lane := i % tm.header.width, moving := false, pc := tm.header.entry, regs := List.replicate tm.header.vregs 0, preds := 1, fstat := 0
        sb := List.replicate 6 0, wmax := 0, handler := false, hv := List.replicate 16 0, aside := List.replicate 6 0, savedAt := 0, trapPc := 0
        trapCause := 0, trapInfo := 0, fence := none, dying := none, retry := none, windows := [], busy := [] }) ++ startingThreads tm (b + p.count) ps

end Sys2Proof.Claims

/-- R64, R65, R72 to R74: a record is posted whole, or as the eight stores of a sequence, which another store of its hart breaks (where two stores of one doubleword, or a store of another size, leave the
sequence follows assumption 27). The Pilot of a die that has not failed takes the first record that it can: it leaves the queue and becomes a run, or is dropped and retires where it is marked; or
places the first team that it can: the team with its threads and groups runs. That a team placed after its group was cancelled starts with its flag set is the model's choice (assumption 26). -/
def Obligations.PostsAndPlacement : Prop :=
  (∀ (s : State) (n o : Nat) (bs : List Byte), n < 32 → bs.length = 64 → o % 64 = 0 → o < 0xF00 → s.ctxEn n = true →
    (sequenceOf s 0 n = none → exec (.recordPost n o bs) s = .next ((s.post n bs .program).2.answer 0 [] false)) ∧
    (∀ b, sequenceOf s 0 n = some b → exec (.recordPost n o bs) s = .next (((broken s n b).post n bs .program).2.answer 0 [] false))) ∧
  (∀ (s : State) (hart n o : Nat) (v : W64), n < 32 → o % 8 = 0 → o < 0xF00 → s.ctxEn n = true →
    let new : PostBuffer := ⟨hart, n, o / 64 * 64, [(o % 64 / 8, v)]⟩
    (sequenceOf s hart n = none → exec (.postSequenceStore hart n o v) s = .next ((withSequence s hart n [new]).answer hart [] false)) ∧
    (∀ b, sequenceOf s hart n = some b →
      (b.offset ≠ new.offset ∨ (∃ w ∈ b.words, w.1 = o % 64 / 8) →
        exec (.postSequenceStore hart n o v) s = .next ((rejected (withSequence s hart n [new]) n 7).answer hart [] false)) ∧
      (b.offset = new.offset → (∀ w ∈ b.words, w.1 ≠ o % 64 / 8) →
        (b.words.length < 7 → exec (.postSequenceStore hart n o v) s = .next
          ((withSequence s hart n [{ b with words := b.words ++ new.words }]).answer hart [] false)) ∧
        (7 ≤ b.words.length → exec (.postSequenceStore hart n o v) s = .next
          (((withSequence s hart n []).post n (sequenceBytes (b.words ++ new.words)) .program).2.answer hart [] false))))) ∧
  (∀ (s : State) (hart ia n o : Nat) (bs : List Byte), hart < 16 → bs ≠ [] → inAperture ia = true → State.blockOf ia = some (.queue n o) → n < 32 → o < 0xF00 →
    (bs.length = 8 → o % 8 = 0 → exec (.hostStore hart ia bs) s = exec (.postSequenceStore hart n o (BitVec.ofNat 64 (leNat bs))) s) ∧
    (bs.length = 64 → o % 64 = 0 → s.ctxEn n = true → sequenceOf s hart n = none → exec (.hostStore hart ia bs) s = .next ((s.post n bs .program).2.answer hart [] false)) ∧
    (∀ b, sequenceOf s hart n = some b → b.offset ≠ o / 64 * 64 →
      (bs.length = 64 → o % 64 = 0 → s.ctxEn n = true → exec (.hostStore hart ia bs) s = .next (((broken s n b).post n bs .program).2.answer hart [] false)) ∧
      (bs.length ≠ 8 → bs.length ≠ 64 → exec (.hostStore hart ia bs) s = .next ((broken s n b).answer hart [] true)))) ∧
  (∀ (s : State) (n : Nat) (c : Context) (bs : List Byte) (p : Poster), s.ctx n = some c →
    (∀ code, s.validate n bs p = .error code → code ≠ 3 → s.post n bs p = (code, rejected s n code)) ∧
    (∀ r s1, s.validate n bs p = .ok (r, s1) → ∃ t, s.post n bs p = (0, t) ∧ (∀ m ≠ n, t.ctx m = s1.ctx m) ∧ t.runs = s1.runs ∧ t.teams = s1.teams ∧ t.threads = s1.threads ∧ t.mem = s1.mem ∧
      ∀ k, s1.ctx n = some k → t.ctx n = some { k with queue := k.queue ++ [queuedAs s1 n k r], credits := creditsLeft k r })) ∧
  (∀ (s : State) (d n : Nat) (r : Record) (c : Context), s.dieOk d = true → s.headOrder.find? (headDiffers s) = none →
    (s.headOrder.find? fun h => dropsHead s h || (s.goesTo h d).isSome) = some (.queued n r) → s.ctx n = some c →
    ∃ t k, exec (.pilotDequeue d) s = .next t ∧ t.teams = s.teams ∧ t.threads = s.threads ∧ (∀ m ≠ n, t.ctx m = s.ctx m) ∧
      k.queue = c.queue.filter (fun q => q.seq != r.seq) ∧ k.credits = c.credits ∧ k.retiring = c.retiring ∧
      k.late = (if r.deadline ≠ 0 ∧ r.deadline.toNat < s.chrono (State.dieUnit d) then (c.late + 1) % 2 ^ 16 else c.late) ∧
      (r.marked = false → t.ctx n = some k ∧ ∃ id e, t.runs = s.runs ++ [⟨id, n, r, 0, 0, .normal, false, none, e⟩]) ∧
      (r.marked = true → t.runs = s.runs ∧ t.ctx n = some (if r.succ = 0 then k else State.creditTag k r.succ))) ∧
  (∀ (s : State) (d : Nat) (r : Run) (ps : List Part), s.dieOk d = true →
    (s.headOrder.findSome? fun h => match h with | .running r => (s.goesTo h d).map fun ps => (r, ps) | .queued _ _ => none) = some (r, ps) →
    ∃ t tm, exec (.teamPlace d) s = .next t ∧ t.teams = s.teams ++ [tm] ∧ tm.run = r.id ∧ tm.ctx = r.ctx ∧ tm.number = r.record.tbase + r.placed ∧ tm.prio = r.record.prio ∧
      tm.payload = r.record.payload ∧ tm.header = r.record.header ∧ tm.parts = ps ∧ tm.cancel = r.cancel ∧ tm.sieveAge = 0x0800 ∧ tm.tregs = List.replicate 64 0 ∧ tm.ended = none ∧
      t.threads = s.threads ++ startingThreads tm 0 ps ∧ (∀ p ∈ ps, ∀ g ∈ p.groups, ∃ k ∈ t.groups, k.ref = ⟨p.core, r.ctx, g⟩ ∧ k.team = tm.id) ∧ t.pkg.served = r.ctx ∧
      t.runs.map (fun q => (q.id, q.placed)) = s.runs.map fun q => (q.id, if q.id = r.id then q.placed + 1 else q.placed))

namespace Sys2Proof.Claims

open Sys2Proof.Machine

/-- The entries of a move are written (R128, R133, R134): the page is shot down, and the move ends when the accesses that passed their check under the old entries, which are noted, have been performed. -/
def closes (s : State) (k page size : Nat) : State :=
  ((s.updMemDie k fun d => { d with move := d.move.map fun m => { m with closing := true, waits := s.underOld page size } }).shootPage page size).afterExactly 1 (.migrationLineCopy (k + 2))

/-- MIGCTL.START ends at once with a status. -/
def migEnds (s : State) (k status : Nat) : State := s.updMemDie k fun d => { d with status := status }

/-- What a region needs for its promotion to a held frame (R134), the move engine being idle. -/
structure Promotes (s : State) (k region f perms : Nat) (d : MemDie) : Prop where
  die      : s.memDie k = some d
  enabled  : d.promEn = true
  idle     : d.move = none
  there    : inModule (region * 2 ^ 21) = true
  mine     : walkingDie (region * 2 ^ 21) = k
  entries  : ∀ j, j < 32 → ∃ e, s.smallEntry (region * 2 ^ 21 + j * 2 ^ 16) = some e ∧ e.2.testBit 63 = true ∧ natField e.2 55 2 = 0 ∧ natField e.2 57 4 = perms ∧
    State.channelOf (natField e.2 16 22 * 2 ^ 16) = State.channelOf f
  frame    : (d.frames.find? fun g => State.channelOf g == State.channelOf f) = some f

/-- The address in SECBUF, and the state with another SECSTAT. -/
def secAt (s : State) : Nat := natField s.pkg.secBuf.toNat 6 46 * 2 ^ 6
def secState (s : State) (st : Nat) : State := { s with pkg := { s.pkg with secStat := st } }

/-- A refused command of the security block: SECSTAT reads refused, and no register has changed. -/
def SecRefuses (s : State) (i : Instr) : Prop :=
  ∃ t, exec i s = .next t ∧ t.pkg.secStat = 3 ∧ t.pkg.mr = s.pkg.mr ∧ t.pkg.secNonce = s.pkg.secNonce ∧ t.mem = s.mem ∧ t.clk = s.clk ∧ t.ctxs = s.ctxs ∧ t.threads = s.threads

end Sys2Proof.Claims

/-- R132 to R134, R440 to R443: the moves of a memory die and the security block. START ends with a status or begins a migration; PROMCTL takes EN and a frame; a line's copy takes with it the lease that
its home granted; the last line of a migration writes the entry; a region that qualifies begins its promotion; an abandoned one gives its pages entries of their own; SECCMD extends a register by SHA-256,
or reads the nonce and writes the report. The order of the statuses, when a promotion begins, a line copy's one cycle and the refusal of an unreadable buffer are the model's (assumptions 5, 28, 57 and 73), and so is which unit's CHRONO the report holds
(assumption 116). -/
def Obligations.MovesAndSecurity : Prop :=
  (∀ (s : State) (k : Nat) (d : MemDie), k < 4 → s.memDie k = some d →
    let page := natField d.migPage.toNat 16 36 * 2 ^ 16
    let frame := natField d.migFrame.toNat 16 22 * 2 ^ 16
    (walkingDie page ≠ k → exec (.migctlStart (k + 2)) s = .next (migEnds s k 4)) ∧
    (walkingDie page = k → d.move.isSome = true → exec (.migctlStart (k + 2)) s = .next (migEnds s k 3)) ∧
    (walkingDie page = k → d.move = none → (inModule page = false ∨ s.smallEntry page = none) → exec (.migctlStart (k + 2)) s = .next (migEnds s k 1)) ∧
    (∀ at' v, walkingDie page = k → d.move = none → inModule page = true → s.smallEntry page = some (at', v) →
      (s.channelOn (State.channelOf frame) = false → exec (.migctlStart (k + 2)) s = .next (migEnds s k 2)) ∧
      (s.channelOn (State.channelOf frame) = true → exec (.migctlStart (k + 2)) s = .next
        (((s.writeMem at' (leBytes 8 (v ||| 2 ^ 55))).updMemDie k fun d => { d with status := 0, busy := true, bound := 0, move := some ⟨page, frame, natField v 16 22 * 2 ^ 16, none, 0, [], false, false, []⟩ }).after 1 (.migrationLineCopy (k + 2))))) ∧
    (∀ v, let f := natField v.toNat 21 17 * 2 ^ 21
      ∃ t, exec (.promctlPush (k + 2) v) s = .next t ∧ (∀ j ≠ k, t.memDie j = s.memDie j) ∧ { t with mem := { t.mem with dies := s.mem.dies } } = s ∧
        t.memDie k = some { d with promEn := v.getLsbD 0
                                   frames := if f ≠ 0 ∧ d.frames.length < 15 ∧ f / 2 ^ 36 = k ∧ s.channelOn (State.channelOf f) = true then d.frames ++ [f] else d.frames }) ∧
    (∀ m, d.move = some m → m.closing = false → d.bound < 512 →
      let ia := m.page + 128 * d.bound
      let s1 := (s.copyLine ia (m.oldFrame + 128 * d.bound) (m.frame + 128 * d.bound)).updMemDie k fun d => { d with bound := d.bound + 1 }
      (Safety.MemoryCanonical s → ∀ a, s1.mem.mem.read a = if m.frame + 128 * d.bound ≤ a ∧ a < m.frame + 128 * d.bound + 128
        then s.mem.mem.read (m.oldFrame + 128 * d.bound + (a - (m.frame + 128 * d.bound))) else s.mem.mem.read a) ∧
      ((homeDie (m.oldFrame + 128 * d.bound) = homeDie (m.frame + 128 * d.bound) ∨ s.sliceLine (homeDie (m.frame + 128 * d.bound)) ia = none) →
        s.leaseOf (homeDie (m.oldFrame + 128 * d.bound)) ia ≤ s1.leaseOf (homeDie (m.frame + 128 * d.bound)) ia) ∧
      (d.bound < 511 → exec (.migrationLineCopy (k + 2)) s = .next (s1.after 1 (.migrationLineCopy (k + 2)))) ∧
      (d.bound = 511 → m.promotion = none → exec (.migrationLineCopy (k + 2)) s = .next (closes (s1.changeEntry m.page fun e => entryWith e m.frame 0 0) k m.page (2 ^ 16)))) ∧
    (∀ m, d.move = some m → m.promotion.isSome = true → m.abandon = true → m.closing = false → d.bound = 512 →
      let base := m.page / 2 ^ 21 * 2 ^ 21
      let moved := m.done.zipIdx.foldl (fun s p => s.changeEntry p.1.1 fun e => entryWith e (m.target + p.2 * 2 ^ 16) 0 0) s
      let others := (((List.range 32).map fun j => base + j * 2 ^ 16).drop m.done.length).foldl (fun s p => s.changeEntry p fun e => entryWith e (entryFrame e) (natField e 61 2) 0) moved
      exec (.promotionAbandon (k + 2)) s = .next (closes others k base (2 ^ 21)))) ∧
  (∀ (s : State) (k region f perms : Nat) (d : MemDie) (at' v : Nat), k < 4 → Promotes s k region f perms d → s.smallEntry (region * 2 ^ 21) = some (at', v) →
    exec (.promotionStart (k + 2) region) s = .next ((((s.updMemDie k fun d => { d with busy := true }).writeMem at' (leBytes 8 (v + 2 ^ 55))).updMemDie k fun d =>
      { d with bound := 0, move := some ⟨region * 2 ^ 21, f, natField v 16 22 * 2 ^ 16, some region, f, [], false, false, []⟩ }).after 1 (.migrationLineCopy (k + 2)))) ∧
  (∀ (s : State),
    (s.pkg.secStat = 1 → (∀ n, exec (.secExtend n) s = .next s) ∧ exec .secAttest s = .next s) ∧
    (s.pkg.secStat ≠ 1 →
      (∀ n, 2 ^ 51 < secAt s + 32 ∨ n < 2 ∨ 8 ≤ n → exec (.secExtend n) s = .next (secState s 3)) ∧
      (2 ^ 51 < secAt s + 704 → exec .secAttest s = .next (secState s 3)) ∧
      (∀ n c, secAt s + 32 ≤ 2 ^ 51 → 2 ≤ n → n < 8 → s.homeBytes .read (State.unitSpans (secAt s) 32) = .error c → SecRefuses s (.secExtend n)) ∧
      (∀ c, secAt s + 704 ≤ 2 ^ 51 → s.homeBytes .read (State.unitSpans (secAt s) 32) = .error c → SecRefuses s .secAttest) ∧
      (∀ n bs s1, secAt s + 32 ≤ 2 ^ 51 → 2 ≤ n → n < 8 → s.homeBytes .read (State.unitSpans (secAt s) 32) = .ok (bs, s1) →
        exec (.secExtend n) s = .next { s1 with pkg := { s1.pkg with mr := modifyAt (fun m => Sha256.digest (m ++ bs)) n s1.pkg.mr, secStat := 2 } }) ∧
      (∀ bs s1, secAt s + 704 ≤ 2 ^ 51 → s.homeBytes .read (State.unitSpans (secAt s) 32) = .ok (bs, s1) →
        exec .secAttest s = .next (({ s1 with pkg := { s1.pkg with secNonce := bs, secStat := 1 } } : State).after 1 .attestReportDone))) ∧
    (s.pkg.secStat = 1 →
      (2 ^ 51 < secAt s + 704 → exec .attestReportDone s = .next (secState s 3)) ∧
      (∀ c, secAt s + 704 ≤ 2 ^ 51 → s.homeWritable .write (State.unitSpans (secAt s) 704) = some c → SecRefuses s .attestReportDone) ∧
      (secAt s + 704 ≤ 2 ^ 51 → s.homeWritable .write (State.unitSpans (secAt s) 704) = none →
        let body := s.pkg.secNonce ++ s.pkg.mr.flatten ++ leBytes 8 (s.chrono (State.dieUnit 0)) ++ List.replicate 24 0
        exec .attestReportDone s = .next (secState (s.homeWrite (secAt s) (body ++ (List.range 384).map fun k => Config.identitySignature body k)).1 2))))

namespace Sys2Proof.Claims

open Sys2Proof.Machine

/-- A happening leads to a state with this render block of a die, of which the last clause holds. -/
def Renders (s : State) (i : Instr) (d : Nat) (p : State → Render → Prop) : Prop := ∃ t r', exec i s = .next t ∧ t.die d = some r' ∧ p t r'

/-- The first cycle of a tick at which a happening that is due at the tick comes. -/
def DueAtTick (s t : State) (k : Nat) (i : Instr) : Prop := (max s.clk.cycle (State.cycleOfTick k), i) ∈ t.clk.timers

/-- KMISS after a miss of band b with a cause (R411). -/
def missWord (r : Render) (b cause : Nat) : W64 := BitVec.ofNat 64 (cause * 2 ^ 48 + b % 2 ^ 16 * 2 ^ 32 + (natField r.miss.toNat 0 32 + 1) % 2 ^ 32)

/-- The 64 bytes of the descriptor of a gathered band (R409). -/
def descriptor (r : Render) (g : Gather) : List Byte :=
  let width := State.viewWidth r
  let q := r.sweep.toNat % 2
  let halo := fun (e q : Nat) => r.khalo.toNat + (2 * e + q) * 64 * width
  let copy := if r.front.contains g.band then 0 else 1
  leBytes 4 g.band ++ leBytes 4 r.sweep.toNat ++ leBytes 8 g.tb ++ leBytes 8 (r.kfb.toNat + copy * (width * State.viewHeight r * 4) + 64 * width * g.band) ++ leBytes 8 (halo g.band q) ++
  leBytes 8 (if g.band = 0 then 0 else halo (g.band - 1) (1 - q)) ++ leBytes 8 (if g.band + 1 = State.viewBands r then 0 else halo (g.band + 1) (1 - q)) ++
  leBytes 4 (ceilDiv width 128) ++ leBytes 4 g.used ++ leBytes 8 0

/-- The 64 bytes of a record of one team that a unit posts (R62): NODE, PAYLOAD, DEADLINE, PRIO and CGROUP, TBASE, HINT with its die and cluster. -/
def unitPosts (node payload deadline prio cgroup tbase hint d site : Nat) : List Byte :=
  leBytes 8 node ++ leBytes 8 payload ++ leBytes 8 deadline ++ leBytes 4 (prio * 2 ^ 30 + cgroup * 2 ^ 24) ++ leBytes 4 0 ++ leBytes 4 (2 ^ 16 + tbase) ++
  leBytes 4 (hint * 2 ^ 30 + d * 2 ^ 29 + site * 2 ^ 23) ++ leBytes 24 0

/-- A draw that waits for no page now. -/
def awake (s : State) (d id : Nat) : State := s.updDraw d id fun k => { k with blocked := none }

/-- A draw ends: its block is gone. -/
def DrawOver (s : State) (i : Instr) (d id : Nat) : Prop := Renders s i d fun _ r' => r'.blocks.all (fun k => k.id != id) = true

/-- A wave's block goes to its address, once all its samples are resolved (R389). -/
def waveOut (s : State) (d : Nat) (b : Draw) (w : Wave) (ia : Nat) : State :=
  let found := fun (p : Sample) => p.found.getD (0, 0)
  let bytes := leBytes 4 (boolNat b.probes * 2 ^ 8 + w.samples.length) ++ leBytes 4 b.t0 ++ leBytes 8 b.block.toNat ++
    w.samples.flatMap fun p => leBytes 2 p.x ++ leBytes 2 p.y ++ leBytes 4 p.time ++ leBytes 4 (found p).1 ++ leBytes 4 (found p).2
  (s.drawWrites b ia bytes).updDraw d b.id fun k => { k with waves := mapIf (fun v => v.k == w.k) (fun v => { v with written := true }) k.waves }

/-- Where a wave's block can be written. -/
def waveAt (s : State) (b : Draw) (w : Wave) : State.Met Nat := s.engineWritable b.ctx (b.waveBuf + w.k * (16 + 16 * b.waveSize)) (16 + 16 * w.samples.length)

/-- The wave being filled is complete. -/
def waveFull (s : State) (d id : Nat) (w : Wave) : State := s.updDraw d id fun k => { k with entries := [], waveNo := k.waveNo + 1, waves := k.waves ++ [w] }

end Sys2Proof.Claims

/-- R381 to R411, R414: the happenings of the display, the Kiln and the Sextant of a die, each with what it leaves. A boundary counts the sweep, cancels by CGSWEEP, applies the waiting writes and begins the
next sweep; DMODE is taken at once or waits; SNAP.GO begins a binning, which ends with a STATUS; a lit band flips its copy or is missed with its cause; a gather opens with WCOUNT as it stands, fills tiles of
free slots, and its band's descriptor is written and its record posted; a draw reads its block, writes its priorities and posts its policy record; each position updates its cell by an atomic and enters a wave; a
sample is resolved; a complete wave is written and posted in order. The moments and the failing cases that the spec leaves open follow assumptions 49 and 74 to 78. -/
def Obligations.RenderHappenings : Prop :=
  ∀ (s : State) (d : Nat),
    (s.scanning = true → s.pkg.dstart.toNat + (if s.pkg.sweeping = true then natField s.pkg.dmode.toNat 32 13 * natField s.pkg.dmode.toNat 0 20 else 0) ≤ s.tick →
      ∃ t, exec .sweepBoundary s = .next t ∧ t.pkg.dmode = s.pkg.dmodeWait.getD s.pkg.dmode ∧ t.pkg.dmodeWait = none ∧
        t.runs = s.runs.map (fun r => if decide (r.ctx < 32) && (((s.ctx r.ctx).map Context.cgsweep).getD 0).getLsbD r.record.cgroup then { r with cancel := true } else r) ∧
        t.pkg.sweeping = t.scanning ∧ (t.scanning = true → t.pkg.dstart = BitVec.ofNat 64 s.tick ∧ DueAtTick s t (t.pkg.dstart.toNat + natField t.pkg.dmode.toNat 32 13 * natField t.pkg.dmode.toNat 0 20) .sweepBoundary) ∧
        ∀ r, s.die d = some r → ∃ r', t.die d = some r' ∧ r'.sweep = r.sweep + 1 ∧ (t.scanning = true → r'.nextLit = 0) ∧
          (d < 2 → r'.waits = [] ∧ (t.scanning = false → ∀ g ∈ r'.gathers, g.done = true) ∧
            r'.ovl = assocGet r.ovl 0x10 r.waits ∧ r'.kctl = assocGet r.kctl 0x18 r.waits ∧ r'.knode = assocGet r.knode 0x20 r.waits ∧ r'.kdesc = assocGet r.kdesc 0x28 r.waits ∧
            r'.kfb = assocGet r.kfb 0x30 r.waits ∧ r'.khalo = assocGet r.khalo 0x38 r.waits ∧ r'.kclus = assocGet r.kclus 0x48 r.waits ∧
            (let view := assocGet r.view 0x00 r.waits
             let krec := assocGet r.krec 0x40 r.waits
             let fits : Prop := ceilDiv (natField view.toNat 0 13) 128 + natField krec.toNat 8 4 ≤ 32
             (fits → r'.view = view ∧ r'.krec = krec) ∧ (¬ fits → r'.view = r.view ∧ r'.krec = r.krec)))) ∧
    (∀ v, let w := v &&& (maskBits 63 58 ||| maskBits 44 32 ||| maskBits 19 0)
      let bad : Prop := natField w.toNat 0 20 < 100 ∨ natField w.toNat 32 13 = 0 ∨ (∃ r ∈ s.render, natField w.toNat 32 13 < State.viewHeight r) ∨
        (w.getLsbD 62 = false ∧ natField w.toNat 58 2 = natField w.toNat 60 2)
      (bad → exec (.dmodeWrite v) s = .next s) ∧
      (¬ bad → s.scanning = true → exec (.dmodeWrite v) s = .next { s with pkg := { s.pkg with dmodeWait := some w } }) ∧
      (¬ bad → s.scanning = false → w.getLsbD 63 = false → exec (.dmodeWrite v) s = .next { s with pkg := { s.pkg with dmode := w } }) ∧
      (¬ bad → s.scanning = false → w.getLsbD 63 = true → ∃ t, exec (.dmodeWrite v) s = .next t ∧
        t.pkg = { s.pkg with dmode := w, dstart := BitVec.ofNat 64 (s.tick + 1), sweeping := false } ∧ DueAtTick s t (s.tick + 1) .sweepBoundary)) ∧
    (∀ r n time addr count st, s.die d = some r → r.snaps[n]? = some (time, addr, count, st) → exec (.snapshotGo d n) s = .next ((s.updDie d fun r =>
      { r with snaps := modifyAt (fun k => (k.1, k.2.1, k.2.2.1, 0)) n r.snaps, binning := (n, addr, count) :: r.binning.filter fun b => b.1 != n }).after 1 (.snapshotBinned d n))) ∧
    (∀ r b, s.die d = some r → r.nextLit = b → s.scanning = true → s.pkg.sweeping = true → s.dieOk d = true → State.viewWidth r ≠ 0 → b < State.viewBands r → s.bandTick 0 b ≤ s.tick →
      let this := fun (k : Band) => k.sweep == r.sweep && k.band == b
      let gone := r.bands.filter fun k => !(this k)
      let found := (r.bands.find? this).map fun (k : Band) => k.state
      let begun := r.gathers.any fun g => g.sweep == r.sweep && g.band == b && g.done
      Renders s (.bandLight d) d fun t r' => r'.nextLit = b + 1 ∧ (b + 1 < State.viewBands r → DueAtTick s t (s.bandTick 0 (b + 1)) (.bandLight d)) ∧ (found ≠ some .retired → r'.front = r.front) ∧
        (found = some .retired → r'.bands = gone ∧ r'.front = (if r.front.contains b then r.front.filter (· != b) else b :: r.front) ∧
          r'.miss = if s.kilnReaches (State.kilnCtx r) (State.copyRow r (if r.front.contains b then 0 else 1) b) (64 * State.viewWidth r) = true then r.miss else missWord r b 4) ∧
        (found = some .posted → r'.bands = mapIf this (fun k => { k with state := .missed 0 }) r.bands ∧ r'.miss = missWord r b 0) ∧
        (found = some .failed → r'.bands = gone ∧ r'.miss = missWord r b 1) ∧ (∀ c, found = some (.missed c) → r'.bands = gone ∧ r'.miss = missWord r b c) ∧
        (found = none → r'.bands = r.bands ∧ r'.miss = missWord r b (if begun then 0 else 2) ∧
          r'.gathers = if begun then r.gathers else r.gathers.filter fun g => g.done || !(g.sweep == r.sweep && g.band == b))) ∧
    (∀ r p, s.opens d = some (r, p) →
      let tb := s.bandTick p.1 p.2
      let lead := natField r.kctl.toNat 0 32
      tb ≤ s.tick + lead ∧ s.tick < tb ∧ p.2 < State.viewBands r ∧ Renders s (.kilnGather d) d fun _ r' =>
        r' = { r with gathers := r.gathers ++ [⟨r.sweep + BitVec.ofNat 32 p.1, p.2, tb - lead, tb, assocGet 0 p.2 r.wcount, false, false,
                 natField r.kclus.toNat (6 * (p.2 % (natField r.krec.toNat 16 3 + 1))) 6, [], 0⟩]
                      nextGather := if p.2 + 1 < State.viewBands r then (p.1, p.2 + 1) else (p.1 + 1, 0) }) ∧
    (∀ r k g, s.opens d = none → s.gatherDue d = some (r, k, g) →
      let terms := (s.binRecords d r g).filterMap (State.gatherTerms r g)
      let free := s.freeTiles d g.site
      let tiles := ceilDiv (State.viewWidth r) 128
      g.permit = true ∧ s.tick < g.tb ∧ tiles ≤ free.length ∧ Renders s (.kilnGather d) d fun t r' =>
        (∃ g', r'.gathers[k]? = some g' ∧ { g' with slots := g.slots } = { g with done := true, used := terms.length } ∧ g'.slots.take tiles = free.take tiles ∧
          g'.slots.length = tiles + natField r.krec.toNat 8 4) ∧
        (∀ j x, j < tiles → free[j]? = some x → ⟨d, g.site, x, .gather, false, false, [], State.gatherTile (State.viewWidth r) (terms.foldl State.accumulate []) j⟩ ∈ t.tile.slots) ∧
        ∃ c, s.clk.cycle + 1 ≤ c ∧ (c, .kilnBandPost d) ∈ t.clk.timers) ∧
    (∀ r g, s.die d = some r → (r.gathers.find? fun g => g.done) = some g →
      let ctx := natField r.knode.toNat 0 5
      let node := r.knode.toNat / 32 * 32
      let at' := r.kdesc.toNat + 64 * g.band
      let s0 := s.updDie d fun k => { k with gathers := k.gathers.filter fun x => x != g }
      let none' := fun (s : State) (cause : Nat) => if g.tb ≤ s.tick then s.freeGathered d g.site g.slots
        else (s.freeGathered d g.site g.slots).updDie d fun r => { r with bands := r.bands ++ [⟨g.sweep, g.band, .missed cause, g.site, [], true⟩] }
      (s.scanning = false ∨ State.viewBands r ≤ g.band → exec (.kilnBandPost d) s = .next (s0.freeGathered d g.site g.slots)) ∧
      (s.scanning = true → g.band < State.viewBands r →
        (∀ c, s0.engineWritable ctx at' 64 = .cause c → exec (.kilnBandPost d) s = .next (none' (s0.kilnReport ctx at' 64) 4)) ∧
        (∀ ia, s0.engineWritable ctx at' 64 = .absent ia → exec (.kilnBandPost d) s = .next (none' (s0.kilnReport ctx at' 64) 4)) ∧
        (∀ ia, s0.engineWritable ctx at' 64 = .ok ia →
          (s0.kilnReaches ctx at' 64 = false → exec (.kilnBandPost d) s = .next (none' (s0.kilnReport ctx at' 64) 4)) ∧
          (s0.kilnReaches ctx at' 64 = true →
            let s1 := (s0.engineWrite ctx ia (descriptor r g)).1
            (∀ n, s1.headerTiles ctx node = some n → n < ceilDiv (State.viewWidth r) 128 + natField r.krec.toNat 8 4 → exec (.kilnBandPost d) s = .next (none' s1 3)) ∧
            ((∀ n, s1.headerTiles ctx node = some n → ceilDiv (State.viewWidth r) 128 + natField r.krec.toNat 8 4 ≤ n) →
              let o := s1.devicePost ctx (unitPosts node at' g.tb 0 (natField r.krec.toNat 0 6) g.band 3 d g.site) (.band d g.sweep.toNat g.band)
              (o.1 ≠ 0 → exec (.kilnBandPost d) s = .next (none' o.2 1)) ∧
              (o.1 = 0 → exec (.kilnBandPost d) s = .next (o.2.updDie d fun k =>
                { k with bands := k.bands ++ [⟨g.sweep, g.band, if g.tb ≤ o.2.tick then .missed 0 else .posted, g.site, g.slots, false⟩] }))))))) ∧
    (∀ r n addr count bs s1, s.die d = some r → (r.binning.find? fun b => b.1 == n) = some (n, addr, count) → State.snapshotUsed r n = false →
      s.engineRead (natField r.knode.toNat 0 5) addr.toNat (48 * count) = .ok (bs, s1) →
      let tris := (List.range count).map fun k => (bs.drop (48 * k)).take 48
      let bad : Prop := count = 0 ∨ (∃ raw ∈ tris, fieldAt raw 40 8 ≠ 0 ∨ triangleOf raw = none)
      let entries := fun (ts : List (List Byte)) => sumBy (tilesOf r) (ts.filterMap triangleOf)
      let all := sumBy (fun (p : Nat × List (List Byte)) => if p.1 = n then 0 else entries p.2) r.binned + entries tris
      let st := fun (k : Nat) (kept : List (Nat × List (List Byte))) => exec (.snapshotBinned d n) s = .next (s1.updDie d fun r =>
        { r with snaps := modifyAt (fun q => (q.1, q.2.1, q.2.2.1, k)) n r.snaps, binning := r.binning.filter fun b => b.1 != n, binned := kept })
      (bad → st 3 (r.binned.filter fun b => b.1 != n)) ∧ (¬ bad → 2 ^ 20 < all → st 2 (r.binned.filter fun b => b.1 != n)) ∧ (¬ bad → all ≤ 2 ^ 20 → st 1 (assocSet n tris r.binned))) ∧
    (∀ r b, s.drawOf d = some (r, b) →
      (∀ bytes s1, b.phase = .waiting → s.unblocked b = true → (awake s d b.id).engineRead b.ctx b.block.toNat 64 = .ok (bytes, s1) →
        let b1 := { b with bytes := bytes, blocked := none }
        (b1.malformed r = true → r.blocks = [b] → DrawOver s (.sextantDrawStart d) d b.id) ∧
        (∀ es s2, b1.malformed r = false → s1.readCells b.ctx ((List.range (b1.cw * b1.ch)).map fun c => b1.maps + 4 * State.viewWidth r * (b1.cy0 + c / b1.cw) + 8 * (b1.cx0 + c % b1.cw)) = .ok (es, s2) →
          let prio := es.map (b1.priority (s2.chrono (State.dieUnit d)))
          let goes := fun (p : DrawPhase) => s2.updDraw d b.id fun k => { k with bytes := bytes, prio := prio, phase := p }
          (b1.policyNode = 0 → exec (.sextantDrawStart d) s = .next (goes .ready)) ∧
          (∀ ia, b1.policyNode ≠ 0 → (goes .priorities).engineWritable b.ctx b1.prioBuf (2 * prio.length) = .ok ia →
            let b2 := { b1 with prio := prio, phase := .priorities }
            let s3 := ((goes .priorities).drawWrites b2 ia (prio.flatMap fun p => leBytes 2 p)).updDraw d b.id fun k => { k with phase := .policy }
            let o := s3.devicePost b.ctx (unitPosts b1.policyNode b.block.toNat 0 b1.prioClass b1.cgroup 0 1 d 0) (.policy d b.id)
            (o.1 = 0 → exec (.sextantDrawStart d) s = .next (o.2.updDraw d b.id fun k => { k with phase := .policyRuns })) ∧ (o.1 = Code.full → exec (.sextantDrawStart d) s = .next o.2)))) ∧
      (s.unblocked b = true →
        (∀ ia, b.phase = .priorities → (awake s d b.id).engineWritable b.ctx b.prioBuf (2 * b.prio.length) = .ok ia → exec (.policyRecordRepost d) s = .next
          (((awake s d b.id).drawWrites { b with blocked := none } ia (b.prio.flatMap fun p => leBytes 2 p)).updDraw d b.id fun k => { k with phase := .policy })) ∧
        (b.phase = .policy →
          let o := (awake s d b.id).devicePost b.ctx (unitPosts b.policyNode b.block.toNat 0 b.prioClass b.cgroup 0 1 d 0) (.policy d b.id)
          (o.1 = 0 → exec (.policyRecordRepost d) s = .next (o.2.updDraw d b.id fun k => { k with phase := .policyRuns })) ∧
          (o.1 = Code.full → exec (.policyRecordRepost d) s = .next o.2) ∧ (o.1 ≠ 0 → o.1 ≠ Code.full → DrawOver s (.policyRecordRepost d) d b.id))) ∧
      (b.phase = .ready → exec (.selectionStart d) s = .next (s.updDraw d b.id fun k => { k with phase := .selecting, t0 := s.chrono (State.dieUnit d), n := 0 })) ∧
      (s.unblocked b = true →
        (b.waves = [] → b.phase = .posting → DrawOver s (.wavePost d) d b.id) ∧
        (∀ w ws, b.waves = w :: ws →
          (∀ ia, w.written = false → (∀ p ∈ w.samples, p.found.isSome = true) → waveAt (awake s d b.id) b w = .ok ia → exec (.wavePost d) s = .next (waveOut (awake s d b.id) d { b with blocked := none } w ia)) ∧
          (w.written = true → s.drawAcked b = false → exec (.wavePost d) s = .next (awake s d b.id)) ∧
          (w.written = true → s.drawAcked b = true →
            let o := (awake s d b.id).devicePost b.ctx (unitPosts b.shader (b.waveBuf + w.k * (16 + 16 * b.waveSize)) (if b.dlrel = 0 then 0 else b.t0 + b.dlrel) b.prioClass b.cgroup w.k 1 d 0) (.wave d b.id w.k)
            (o.1 = 0 → exec (.wavePost d) s = .next (o.2.updDraw d b.id fun k => { k with waves := k.waves.filter fun v => v.k != w.k })) ∧
            (o.1 = Code.full → exec (.wavePost d) s = .next o.2) ∧ (o.1 ≠ 0 → o.1 ≠ Code.full → DrawOver s (.wavePost d) d b.id)))) ∧
      (∀ p ps, (((b.waves.flatMap (·.samples)) ++ b.entries).filter fun p => p.found.isNone) = p :: ps →
        let hit := frontMost (match p.snap with | some n => assocGet [] n r.binned | none => []) p.x p.y
        let set := mapIf (fun (q : Sample) => q == p) (fun q => { q with found := some hit })
        let b1 := { b with entries := set b.entries, waves := b.waves.map fun w => { w with samples := set w.samples } }
        let s1 := s.updDraw d b.id fun k => { k with entries := set k.entries, waves := k.waves.map fun w => { w with samples := set w.samples } }
        ((∀ w ∈ b1.waves, w.written = true ∨ ∃ q ∈ w.samples, q.found = none) → exec (.probeResolve d) s = .next s1) ∧
        (∀ w ia, b1.waves = [w] → w.written = false → (∀ q ∈ w.samples, q.found.isSome = true) → waveAt s1 b1 w = .ok ia → exec (.probeResolve d) s = .next (waveOut s1 d b1 w ia))) ∧
      (b.phase = .selecting → s.unblocked b = true → b.t0 + b.n + 1 ≤ s.chrono (State.dieUnit d) →
        (b.npos ≤ b.n ∨ b.choose = none → b.entries = [] → exec (.positionDraw d) s = .next (s.updDraw d b.id fun k => { k with phase := .posting })) ∧
        (b.npos ≤ b.n ∨ b.choose = none → b.entries ≠ [] →
          let s1 := waveFull (s.updDraw d b.id fun k => { k with phase := .posting }) d b.id ⟨b.waveNo, b.entries, false⟩
          ((∃ q ∈ b.entries, q.found = none) → exec (.positionDraw d) s = .next s1) ∧
          (∀ ia, (∀ q ∈ b.entries, q.found.isSome = true) → waveAt s1 b ⟨b.waveNo, b.entries, false⟩ = .ok ia → exec (.positionDraw d) s = .next (waveOut s1 d b ⟨b.waveNo, b.entries, false⟩ ia))) ∧
        (∀ c, b.choose = some c →
          let hash := fun (c : Nat) => (mix (BitVec.ofNat 64 b.key) (BitVec.ofNat 64 (c * 2 ^ 32 + b.t0 % 2 ^ 32))).toNat / 2 ^ 48
          ∃ p, b.prio[c]? = some p ∧ 0 < p ∧ ∀ k q, b.prio[k]? = some q → q ≤ p ∧ (q = p → hash k < hash c ∨ (hash k = hash c ∧ c ≤ k))) ∧
        (∀ c ia e s1, b.n < b.npos → b.choose = some c →
          s.engineAtomic b.ctx (b.maps + 4 * State.viewWidth r * (b.cy0 + c / b.cw) + 8 * (b.cx0 + c % b.cw)) = .ok (ia, e, s1) →
          let q := natField e 24 8
          let stamp := b.t0 + b.n + 1
          let snap := if b.probes then snapshotFor r stamp else none
          let p : Sample := ⟨32 * (b.cx0 + c % b.cw) + reverseBits 5 (q % 32), 32 * (b.cy0 + c / b.cw) + reverseBits 5 ((q ^^^ (q / 2)) % 32), stamp % 2 ^ 32, snap,
            if b.probes then (if snap.isNone then some (0xFFFFFFFF, 0x7F800000) else none) else some (0, 0)⟩
          let b1 := { b with prio := modifyAt (· / 2) c b.prio, n := b.n + 1, entries := b.entries ++ [p], blocked := none }
          let s2 := (s1.drawWrites b ia (leBytes 3 e ++ leBytes 1 (q + 1) ++ leBytes 4 stamp)).updDraw d b.id fun k => { k with prio := b1.prio, n := b1.n, entries := b1.entries, blocked := none }
          let w : Wave := ⟨b.waveNo, b1.entries, false⟩
          (b1.entries.length ≠ b.waveSize → exec (.positionDraw d) s = .next s2) ∧
          (b1.entries.length = b.waveSize → (∃ q ∈ b1.entries, q.found = none) → exec (.positionDraw d) s = .next (waveFull s2 d b.id w)) ∧
          (∀ ia', b1.entries.length = b.waveSize → (∀ q ∈ b1.entries, q.found.isSome = true) → waveAt (waveFull s2 d b.id w) b1 w = .ok ia' →
            exec (.positionDraw d) s = .next (waveOut (waveFull s2 d b.id w) d b1 w ia')))))

namespace Sys2Proof.Claims

open Sys2Proof.Machine

/-- A unit of module memory that an access from outside meets: n bytes in one 16-byte unit, whose page is mapped to a frame by this entry, permits the access, and holds no uncorrected error. -/
structure UnitAt (s : State) (ia n : Nat) (need : Need) (e : PageEntry) (entry : Option Nat) : Prop where
  there   : inModule ia = true
  bytes   : 0 < n ∧ ia % 16 + n ≤ 16
  mapped  : s.walk ia = .mapped e entry
  permits : pagePermits e.perms need = true
  clean   : s.uncorrected (e.frame + (ia - e.page)) ia (need != .write) = false

/-- The bytes at the home of a unit now. -/
def homeValue (s : State) (ia n : Nat) (e : PageEntry) : List Byte := s.readMem (s.redirect (e.frame + (ia - e.page)) ia) n

/-- A hart's caches hold the 128-byte lines of an access (R425). -/
def cached (s : State) (hart ia n : Nat) : State := (State.hostLines ia n).foldl (fun s l => s.enterDirectory hart l) s

/-- A hart's own copies of the lines that it stored to stay in its caches, those of the others go (R175), and it is acknowledged when the home's CHRONO has reached W + 8. -/
def acked (s s1 : State) (hart ia n w : Nat) : State := (State.keepOwnCopy s.pkg.directory hart (State.hostLines ia n) s1).emit (.ack hart (w + 8))

/-- A hart's reservation of a line. -/
def reserves (s : State) (hart line : Nat) : State := { s with pkg := { s.pkg with reserved := (hart, line) :: s.pkg.reserved.filter fun r => r.1 != hart } }

/-- An atomic of a device thread of another module at a landing address (R430): by the rule of R279, with the old value, the state and W. -/
def deviceAtomic (s : State) (ia : Nat) (t : Ty) (aop : Nat) (rnd : Rnd) (b c : W64) : Option (Nat × State × Nat) :=
  s.outsideAtomic ia t.bytes (fun old => (atomicNew t aop rnd old (typeBits t b) (typeBits t c)).bits) (aop, t) (typeBits t b) (typeBits t c)

/-- An access outstanding over an Ewerlink port: on its way, or with its answer on the way back (R434). -/
def overPort (p : Nat) (r : Request) : Prop := r.route = .remote ∧ State.portOf r.ia = p ∧ (r.stage = .travelling ∨ r.stage = .performed ∨ ∃ l, r.stage = .refused l)

/-- A command with a write over an Ewerlink port whose acknowledgement has not come (R434). -/
def awaitsPort (s : State) (p : Nat) (c : Cmd) : Prop := ∃ q ∈ c.remote, q.1 = p ∧ s.clk.cycle < q.2

/-- The teams with a part on a die, and the records of its failure to their contexts (R350). -/
def teamsOn (s : State) (d : Nat) : List Team := s.teams.filter fun t => t.parts.any fun p => p.core.die == d
def dieRecords (s : State) (d : Nat) : State :=
  (((teamsOn s d).map (·.ctx)).eraseDups).foldl (fun s c => s.faultRecord .dieFail c (s.faultBytes .dieFail Cause.uncorrected c 0 0 ⟨d, 0, 0⟩ 0 0 0)) s

/-- The barriers of package or system scope with parties on a die (R351). -/
def barriersOn (s : State) (d : Nat) : List (Nat × Nat × Barrier) :=
  (List.range 32).flatMap fun c => (((s.ctx c).map Context.barriers).getD []).filterMap fun p =>
    if (p.2.scope == .package || p.2.scope == .system) && decide (0 < p.2.p) && !p.2.broken && (p.2.teams.any fun t => ((teamsOn s d).map (·.id)).contains t) then some (c, p.1, p.2) else none

/-- A barrier is broken: ARR, PEND and BWMAX are 0, SSTEP stays, the surviving die holds it, and the threads that wait take BARRIER_BROKEN, group by group (R351). -/
def breaks (s : State) (c n : Nat) (b : Barrier) (survivor : Nat) : State :=
  let s1 := s.updBarrier c n fun k => { k with broken := true, arr := 0, pend := 0, bwmax := 0, waiters := [], die := survivor }
  let s2 := s1.faultRecord .broken c (s1.faultBytes .broken Cause.barrierBroken c 0 0 ⟨survivor, 0, 0⟩ 0 0 0)
  (s2.byGroup b.waiters).foldl (fun s hs => s.trapThreads (hs.map fun h => (h.ref, h.pc)) { cause := Cause.barrierBroken, info := b.sstep * 2 ^ 32 + n, kind := .waiting, lane := ((hs.head?.map Thread.lane).getD 0) }) s2

/-- Up to the end of its teams, FAULTED, and of all that was on the die (R350, R351). -/
def dieGone (s : State) (d : Nat) : State :=
  let s1 := dieRecords s d
  let done := (barriersOn s1 d).filter fun w => s1.barrierDone w.2.2
  let s2 := done.foldl (fun s w => (s.updBarrier w.1 w.2.1 State.Barrier.complete).wake w.2.2.waiters) s1
  let s3 := ((s2.threads.filter fun h => ((teamsOn s d).map (·.id)).contains h.team && !h.exited).foldl (fun s h => s.departBarriers h) s2).uncountCommands d
  let lost := (s3.threads.filter fun h => ((teamsOn s d).map (·.id)).contains h.team).map (·.ref)
  (((teamsOn s d).foldl (fun s t => s.endTeam t .faulted true) s3).clearDie d).disown fun t => lost.contains t

end Sys2Proof.Claims

/-- R175, R176, R413, R425, R426, R430, R431, R434: accesses of the application cores, of DMA and of another module, and the Ewerlink ports. A host load reads the home's value and a store is performed at the
home, with its line's other copies gone and its acknowledgement held; an AMO reads and writes as one; LR reserves, and SC stores only under the reservation; DMA and Ewerlink accesses land by their windows and
are performed in the same way; a register write acts on its register. R349 to R351: a soft error is reported, ends its context, poisons a line, or fails a die. Where the spec leaves a side of these open the
model's choices are those of assumptions 43 (the surviving die holds a broken barrier), 58, 71, 79, 80 (an acknowledgement over Ewerlink is held until W + 8), 81 and 82. -/
def Obligations.OutsideWorld : Prop :=
  (∀ (s : State) (hart ia : Nat), hart < 16 → inModule ia = true →
    (∀ n bs s1, n ≠ 0 → s.hostRead ia n = some (bs, s1) → exec (.hostLoad hart ia n) s = .next ((cached s1 hart ia n).answer hart bs false)) ∧
    (∀ n e entry, UnitAt s ia n .read e entry → exec (.hostLoad hart ia n) s = .next ((cached (s.markEntry entry false) hart ia n).answer hart (homeValue s ia n e) false) ∧
      ∃ p ∈ (cached (s.markEntry entry false) hart ia n).pkg.directory, p.1 = lineOf ia ∧ p.2.getLsbD hart = true) ∧
    (∀ bs s1 w, bs ≠ [] → s.hostWrite ia bs = some (s1, w) → exec (.hostStore hart ia bs) s = .next (acked s s1 hart ia bs.length w)) ∧
    (∀ bs e entry, UnitAt s ia bs.length .write e entry → ∃ s1, s1.mem.mem = (s.performWrite (e.frame + (ia - e.page)) ia bs none).1.mem.mem ∧
      exec (.hostStore hart ia bs) s = .next (acked s s1 hart ia bs.length (s.performWrite (e.frame + (ia - e.page)) ia bs none).2)) ∧
    (∀ n op v old s1 w, n = 4 ∨ n = 8 → ia % n = 0 → s.outsideAmo ia n op v.toNat = some (old, s1, w) →
      exec (.hostAmo hart ia n op v) s = .next ((s1.answer hart (leBytes n old) false).emit (.ack hart (w + 8)))) ∧
    (∀ n op v e entry, n = 4 ∨ n = 8 → ia % n = 0 → UnitAt s ia n .atomic e entry →
      let old := leNat (homeValue s ia n e)
      let o := (s.markEntry entry false).homeWrite ia (leBytes n (State.amoNew op n old (v.toNat % 2 ^ (8 * n))))
      exec (.hostAmo hart ia n op v) s = .next ((o.1.answer hart (leBytes n old) false).emit (.ack hart (o.2 + 8)))) ∧
    (∀ n bs s1, n = 4 ∨ n = 8 → ia % n = 0 → s.hostRead ia n = some (bs, s1) →
      exec (.hostLr hart ia n) s = .next ((reserves (cached s1 hart ia n) hart (lineOf ia)).answer hart bs false)) ∧
    (∀ n e entry, n = 4 ∨ n = 8 → ia % n = 0 → UnitAt s ia n .read e entry →
      exec (.hostLr hart ia n) s = .next ((reserves (cached (s.markEntry entry false) hart ia n) hart (lineOf ia)).answer hart (homeValue s ia n e) false)) ∧
    (∀ bs, bs.length = 4 ∨ bs.length = 8 → ia % bs.length = 0 → s.pkg.reserved.contains (hart, lineOf ia) = false → exec (.hostSc hart ia bs) s = .next (s.answer hart [1] false)) ∧
    (∀ bs s1 w, bs.length = 4 ∨ bs.length = 8 → ia % bs.length = 0 → s.pkg.reserved.contains (hart, lineOf ia) = true → s.hostWrite ia bs = some (s1, w) →
      exec (.hostSc hart ia bs) s = .next ((acked s s1 hart ia bs.length w).answer hart [0] false) ∧ s1.pkg.reserved.contains (hart, lineOf ia) = false)) ∧
  (∀ (s : State) (at' n landed : Nat),
    (landing s.dmaWindows at' n .read = some landed → ∀ bs s1, s.deviceRead landed n = .ok (bs, s1) → exec (.dmaInbound at' (.read n)) s = .next (s1.emit (.dma bs false))) ∧
    (∀ bs, bs.length = n → landing s.dmaWindows at' n .write = some landed → s.replayedWrite landed n = false → ∀ s1 w, s.deviceWrite landed bs = .ok (s1, w) →
      exec (.dmaInbound at' (.write bs)) s = .next ((s1.logInbound landed bs).emit (.dma [] false))) ∧
    (∀ op v, landing s.dmaWindows at' n .atomic = some landed → ∀ old s1 w, s.outsideAmo landed n op v.toNat = some (old, s1, w) →
      exec (.dmaInbound at' (.atomic n op v)) s = .next (s1.emit (.dma (leBytes n old) false))) ∧
    (∀ t aop rnd b c, landing s.dmaWindows at' (Ty.bytes t) .atomic = some landed → ∀ old s1 w, deviceAtomic s landed t aop rnd b c = some (old, s1, w) →
      exec (.dmaInbound at' (.device t aop rnd b c)) s = .next (s1.emit (.dma (leBytes t.bytes old) false))) ∧
    (∀ a, landing s.dmaWindows at' (inboundSize a) (inboundNeed a) = none → exec (.dmaInbound at' a) s = .next (s.emit (.dma [] true))) ∧
    (∀ p, s.pkg.ewUp.getD p false = true →
      let ack := fun (s : State) (w : Nat) => s.emit (.ewerlinkAck p (if inModule landed then w + 8 else w))
      (landing (s.portWindows p) at' n .read = some landed → n ≠ 0 → ∀ bs s1, s.deviceRead landed n = .ok (bs, s1) → bs ≠ [] → exec (.ewerlinkInbound p at' (.read n)) s = .next (s1.emit (.ewerlink p bs false))) ∧
      (∀ bs, bs.length = n → landing (s.portWindows p) at' n .write = some landed → s.replayedWrite landed n = false → ∀ s1 w, s.deviceWrite landed bs = .ok (s1, w) →
        exec (.ewerlinkInbound p at' (.write bs)) s = .next (ack (s1.logInbound landed bs) w)) ∧
      (∀ op v, n ≠ 0 → landing (s.portWindows p) at' n .atomic = some landed → ∀ old s1 w, s.outsideAmo landed n op v.toNat = some (old, s1, w) →
        exec (.ewerlinkInbound p at' (.atomic n op v)) s = .next (ack (s1.emit (.ewerlink p (leBytes n old) false)) w)) ∧
      (∀ t aop rnd b c, landing (s.portWindows p) at' (Ty.bytes t) .atomic = some landed →
        (∀ old s1 w, deviceAtomic s landed t aop rnd b c = some (old, s1, w) →
          exec (.ewerlinkInbound p at' (.device t aop rnd b c)) s = .next (ack (s1.emit (.ewerlink p (leBytes t.bytes old) false)) w)) ∧
        (∀ e entry, UnitAt s landed t.bytes .atomic e entry →
          let old := leNat (homeValue s landed t.bytes e)
          let o := (s.markEntry entry false).homeWrite landed (leBytes t.bytes (atomicNew t aop rnd old (typeBits t b) (typeBits t c)).bits)
          exec (.ewerlinkInbound p at' (.device t aop rnd b c)) s = .next ((o.1.emit (.ewerlink p (leBytes t.bytes old) false)).emit (.ewerlinkAck p (o.2 + 8))))) ∧
      (∀ a, landing (s.portWindows p) at' (inboundSize a) (inboundNeed a) = none → exec (.ewerlinkInbound p at' a) s = .next (s.emit (.ewerlink p [] true))))) ∧
  (∀ (s : State) (p : Nat), p < 2 →
    exec (.ewerlinkLinkUp p) s = .next { s with pkg := { s.pkg with ewUp := s.pkg.ewUp.set p true } } ∧
    ((∀ r ∈ s.mem.requests, ¬ overPort p r) → (∀ c ∈ s.mem.cmds, ¬ awaitsPort s p c) → exec (.ewerlinkDown p) s = .next { s with pkg := { s.pkg with ewUp := s.pkg.ewUp.set p false } }) ∧
    (∃ t, exec (.ewerlinkDown p) s = .next t ∧ t.pkg.ewUp.getD p false = false ∧ (∀ r ∈ t.mem.requests, ¬ overPort p r) ∧
      (∀ r ∈ s.mem.requests, overPort p r → (s.ctx r.ctx).isSome = true → t.ctxDead r.ctx = true) ∧
      ∀ c ∈ s.mem.cmds, awaitsPort s p c → (s.ctx c.ctx).isSome = true → t.ctxDead c.ctx = true)) ∧
  (∀ (s : State) (at' : Nat) (v : W64),
    (∀ s1, s.apertureWrite false at' (leBytes 8 v.toNat) = .ok s1 → exec (.registerWrite at' v) s = .next (s1.answer 0 [] false)) ∧
    (∀ c, State.blockOf at' = some (.queue c 0xF08) → at' % 8 = 0 → exec (.registerWrite at' v) s = .next ((s.updCtx c fun c => { c with cgsweep := v }).answer 0 [] false)) ∧
    (∀ c o, State.blockOf at' = some (.messages c o) → at' % 8 = 0 → exec (.registerWrite at' v) s = .next
      ((s.updCtx c fun c => { c with mqdest := modifyAt (fun _ => v &&& (maskBits 63 62 ||| maskBits 16 16 ||| maskBits 13 8 ||| maskBits 5 0)) (o / 8) c.mqdest }).answer 0 [] false)) ∧
    (State.blockOf at' = none → exec (.registerWrite at' v) s = .next (s.answer 0 [] true))) ∧
  (∀ (s : State) (d : Nat),
    (s.dieOk d = false → exec (.dieFail d) s = .next s) ∧
    (s.dieOk d = true →
      let s1 := dieRecords s d
      let lost := (barriersOn s1 d).filter fun w => !(s1.barrierDone w.2.2)
      let s2 := dieGone s d
      let s3 : State := { s2 with cores := s2.cores.map fun k => { k with receives := k.receives.filter fun r => r.threads.any fun t => (s2.thread t).isSome } }
      exec (.dieFail d) s = .next ((lost.foldl (fun s w => breaks s w.1 w.2.1 w.2.2 (1 - d)) s3).ceaseGroups.settle) ∧
      exec (.softError (.die d)) s = exec (.dieFail d) s ∧
      s2.dieOk d = false ∧ (∀ t ∈ s2.teams, ∀ p ∈ t.parts, p.core.die ≠ d) ∧ (∀ r ∈ s2.mem.requests, r.core.die ≠ d) ∧ (∀ q ∈ s2.tile.slots, q.die ≠ d))) ∧
  (∀ (s : State),
    (∀ c, exec (.softError (.corrected c)) s = .next (s.faultRecord .corrected c (s.faultBytes .corrected 0 c 0 0 ⟨0, 0, 0⟩ 0 0 0))) ∧
    (∀ c, s.ctxDead c = false → exec (.softError (.bank c)) s = .next (s.endContext c (s.faultBytes .fatal Cause.uncorrected c 0 0 ⟨0, 0, 0⟩ 0 0 0))) ∧
    (∀ a, exec (.softError (.line a)) s = .next { s with mem := { s.mem with poisoned := lineOf a :: s.mem.poisoned.filter (· != lineOf a) } }) ∧
    (∀ c ctx line, exec (.softError (.l1Line c ctx line)) s = .next (s.updCore c fun k =>
      { k with l1 := mapIf (fun l => l.ctx == ctx && l.line == lineOf line) (fun l => { l with poison := true }) k.l1 })) ∧
    (∀ p q line, s.plot p = some q → 128 * line < q.size → exec (.softError (.plotLine p line)) s = .next
      { s with mem := { s.mem with plotPoison := (p, line) :: s.mem.plotPoison.filter (· != (p, line)) } }) ∧
    (∀ d site slot line, (s.tileSlot d site slot).isSome = true → line < 128 → exec (.softError (.tileLine d site slot line)) s = .next
      { s with mem := { s.mem with tilePoison := (d, site, slot, line) :: s.mem.tilePoison.filter (· != (d, site, slot, line)) } }) ∧
    (∀ r, s.request r.id = some r → r.stage = .travelling → r.route = .home → s.ctxDrain r.ctx = false → s.beingCopied r = false → s.isPoisoned (s.redirect r.frame r.ia) = true →
      exec (.homeLoad r.id) s = .next ((s.dropRequest r.id).endContext r.ctx ((s.dropRequest r.id).faultBytes .fatal Cause.uncorrected r.ctx (s.redirect r.frame r.ia) 0 r.core 0 0 0))) ∧
    (∀ pa ia bs tag, bs.length = 128 → s.redirect pa ia % 128 = 0 → (s.performWrite pa ia bs tag).1.isPoisoned (s.redirect pa ia) = false))

/-- R183 to R202: the decoder reads back every well-formed instruction that has words, with every operand. -/
def Obligations.EncodeDecode : Prop := ∀ i : Instr, i.wf = true → i.hasWords = true → decode (encode i) = .ok i

/-- R199, R212: the worked encodings, as dexas writes them and as decode reads them, and the opcodes that are not instructions under any LEN. -/
def Obligations.DecodeWords : Prop :=
  Dexas.assembledWords "IADD v4, v5, v6" = some [0x00820286#32] ∧
  Dexas.assembledWords "?!p3 FFMA v10, −v11, v12, v13 la=2 set=sb1 wait=sb2 rnd=rz" = some [0x51850581#32, 0x0C0DB22B#32, 0x09000000#32] ∧
  Dexas.assembledWords "MOV v7, −4096" = some [0x4F838040#32, 0#32, 0x000FF000#32] ∧
  Dexas.assembledWords "MOV v7, 0x1234_5678" = some [0x8F838000#32, 0x12345678#32, 0#32] ∧
  Dexas.assembledWords "back: NOP\nNOP\nNOP\nBRA back" = some [0x3E800000#32, 0x3E800000#32, 0x3E800000#32, 0x2C7FFFFD#32] ∧
  decode [0x00820286#32] = .ok (.iaddBase 4 5 6) ∧
  decode [0x51850581#32, 0x0C0DB22B#32, 0x09000000#32] = .ok (.ffmaExtended { form := .ext, d := 10, a := 11, b := 12, c := 13, xop := 1, guard := ⟨true, 3⟩, la := 2, set := 1
                                                                              ty := .f32, wait := 2, rnd := .towardZero, scope := .thread, kw := false, low := 0, lit := 0 }) ∧
  decode [0x4F838040#32, 0#32, 0x000FF000#32] = .ok (.movExtended { form := .ext, d := 7, a := 0, b := 0, c := 0, xop := 0x40, guard := ⟨false, 0⟩, la := 0, set := 0
                                                                    ty := .b32, wait := 0, rnd := .nearestEven, scope := .thread, kw := false, low := 0xFF000, lit := 0 }) ∧
  decode [0x8F838000#32, 0x12345678#32, 0#32] = .ok (.movExtended { form := .lit, d := 7, a := 0, b := 0, c := 0, xop := 0, guard := ⟨false, 0⟩, la := 0, set := 0
                                                                    ty := .b32, wait := 0, rnd := .nearestEven, scope := .thread, kw := false, low := 0, lit := 0x12345678 }) ∧
  decode [0x2C7FFFFD#32] = .ok (.braBase (BitVec.ofInt 23 (-3))) ∧
  decode [0x8F838000#32, 0x12345678#32, 1#32] = .error .illegalField ∧
  ∀ ws : List W32, wordOp (ws.getD 0 0) ∈ [0x00, 0x2F, 0x4F, 0x57, 0x6B, 0x6C, 0x6D, 0x6E, 0x6F, 0x7F] → decode ws = .error .illegalOp

/-- Assumption 2's canonical form of module memory: every step keeps it. -/
def Obligations.MemoryCanonicalKept : Prop := ∀ s t : State, Safety.MemoryCanonical s → Machine.step s = .next t → Safety.MemoryCanonical t

/-- It holds after reset. -/
def Obligations.MemoryCanonicalReset : Prop := Safety.MemoryCanonical State.reset

/-- R37, R77, R183, R203 to R205: where a group has been chosen that can issue, and no arrival at a holding core comes before it in the order of its cycle nor anything
that its kind must see first, a step runs the instruction that decode reads from the words at the group's minimum PC, and does what an issue leaves behind; and what a fetch reads. -/
def Obligations.StepRunsDecoded : Prop :=
  (∀ (s t : State) (g : GRef) (rest : List GRef) (gr : Group) (act : List Thread) (i : Instr), s.pkg.bootErr = false → s.clk.chosen = some (g :: rest) →
    bankIssues s (s.core g.core) = true → (s.core g.core).active = some g.ctx → s.group g = some gr → canLook s gr = some act → fetchAt s gr.ref act = .instr i →
    heldBySlots act (issueUses i).1 (issueUses i).2.1 = false → (∀ h ∈ act, waitsRegister s true h (issueUses i).2.2 = false) →
    waitsShort s.clk.cycle act (issueUses i).2.2 = false → waitsFlags s act (issueUses i).1 (issueUses i).2.1 = false → slotFull act (issueUses i).2.1 = false →
    (throttled (issueUses i).1 (issueUses i).2.1 = true → permitted (s.core g.core) gr.ref.group = true) → unitRefuses s act (issueUses i).1 (issueUses i).2.1 = false →
    (∀ a, s.nextArrival = some a → issueKey s gr (.instr i) ≤ s.arrivalKey a) →
    issueKey s gr (.instr i) < 2 ^ 23 ∨ (agendaTurn s).isNone = true ∧ (closingTurn s).isNone = true ∧ (timerTurn s false).isNone = true →
    let b := beginIssue s g rest act (encode i).length
    exec i b = .next t → Machine.step s = .next (settleIssue gr act b t)) ∧
  (∀ (s : State) (g : GRef) (h : Thread) (hs : List Thread) (w : W32) (ws : List W32) (i : Instr), fetchWord s g h.pc.toNat h.pc.toNat h.lane = .word w →
    fetchWords s g h.pc.toNat h.lane ((wordForm w).words - 1) (h.pc.toNat + 4) = .ok ws → decode (w :: ws) = .ok i → fetchAt s g (h :: hs) = .instr i) ∧
  (∀ (s : State) (g : GRef) (pc va lane ia pa : Nat) (c : Context) (r : W64 × W64 × W64) (perms : BitVec 4), s.ctx g.ctx = some c →
    rangeCheck c va 4 .fetch = .ok (ia, r) → inModule ia = true → s.pageHeld g.core g.ctx ia .fetch = some (pa, perms) → s.uncorrected pa ia true = false →
    fetchWord s g pc va lane = .word (BitVec.ofNat 32 (leNat (s.readMem (s.redirect pa ia) 4))))

/-- R437: the one stop is a device held in reset, which goes on only at a power-on reset; every instruction and every happening executes. -/
def Obligations.StepStops : Prop :=
  (∀ (i : Instr) (s : State), ∃ t, exec i s = .next t) ∧
  (∀ s : State, s.pkg.bootErr = true → s.clk.agenda.head? ≠ some .powerOnReset → Machine.step s = .fault .heldInReset) ∧
  (∀ s : State, s.pkg.bootErr = false ∨ s.clk.agenda.head? = some .powerOnReset → ∃ t, Machine.step s = .next t)

/-- R189, R191: hv0 to hv15 stand for v240 to v255 in handler mode alone; p0 reads true and a write of it writes nothing; the guards. -/
def Obligations.RegisterFile : Prop :=
  (∀ (t : Thread) (n : Nat) (v : W32), t.handler = true → 0xF0 ≤ n → n - 0xF0 < t.hv.length →
    (t.setReg n v).reg n = v ∧ (∀ m, m ≠ n → (t.setReg n v).reg m = t.reg m) ∧ { t.setReg n v with hv := t.hv } = t) ∧
  (∀ (t : Thread) (n : Nat) (v : W32), t.handler = false ∨ n < 0xF0 → n < t.regs.length →
    (t.setReg n v).reg n = v ∧ (∀ m, m ≠ n → (t.setReg n v).reg m = t.reg m) ∧ { t.setReg n v with regs := t.regs } = t) ∧
  (∀ n k vregs : Nat, 0xF0 ≤ n → n + k ≤ 0x100 → regInBounds true vregs k n = true) ∧
  (∀ (t : Thread) (v : Bool), t.setPred 0 v = t ∧ t.pred 0 = true) ∧
  (∀ (t : Thread) (n : Nat) (v : Bool), 0 < n → n < 8 → (t.setPred n v).pred n = v ∧ (∀ m, m < 8 → m ≠ n → (t.setPred n v).pred m = t.pred m)) ∧
  (∀ (t : Thread) (g : Guard), t.guardTrue g = (t.pred g.pred.toNat != g.invert)) ∧ (∀ t : Thread, t.guardTrue (Guard.ofCode 0) = true ∧ t.guardTrue (Guard.ofCode 8) = false)

namespace Sys2Proof.Claims

open Sys2Proof.Machine

/-- The thread of an event's that a trap reports, with its PC: the one that the trap names, or the only one of them at the reported lane (R331). -/
def Reports (s : State) (ts : List (TRef × W64)) (t : Trap) (q : TRef × W64) : Prop :=
  q ∈ ts ∧ (ts.map (·.1)).Nodup ∧ (t.thread = some q.1 ∨ (t.thread = none ∧ ∀ p ∈ ts, (s.thread p.1).map (·.lane) = some t.lane ↔ p = q))

/-- The record of such an event (R334): the reported thread's PC, group and slot, the threads concerned, and the virtual address for PAGE and PERM. -/
def trapRecordOf (s : State) (kind : RecordKind) (ts : List (TRef × W64)) (t : Trap) (q : TRef × W64) (k : Thread) : List Byte :=
  leBytes 8 (s.chrono q.1.core) ++ leBytes 8 (if t.cause = 0x10 ∨ t.cause = 0x11 then t.addr else 0) ++ leBytes 8 q.2.toNat ++
  leBytes 4 (t.cause * 2 ^ 24 + kind.code * 2 ^ 21 + q.1.ctx * 2 ^ 16 + q.1.core.die * 2 ^ 15 + q.1.core.site * 2 ^ 9 + q.1.core.core * 2 ^ 7 + k.group) ++ leBytes 4 (min ts.length 64 * 2 ^ 16 + q.1.slot)

end Sys2Proof.Claims

/-- R335, R336, R340, R341: taking a trap. With a handler, each trapped thread has its trap registers written, its slot counters set aside, hv0 to hv15 cleared, and stands at
ENTRY + HANDLER, and its group issues after 8 cycles; without one, a record UNHANDLED of the reported thread is written and the threads exit FAULTED; in handler mode the context becomes dead, with a
record FATAL. A record's NLANES ends at 64 (assumption 105). -/
def Obligations.TrapEntry : Prop :=
  ∀ (s : State) (r : TRef) (pc : W64) (rest : List (TRef × W64)) (t : Trap) (h : Thread) (tm : Team),
    let ts := (r, pc) :: rest
    s.thread r = some h → s.team h.team = some tm →
    ((ts.map (·.1)).Nodup → tm.header.handler ≠ 0 → (∀ p ∈ ts, ∃ k, s.thread p.1 = some k ∧ k.handler = false) →
      let u := s.trapThreads ts t
      ({ u with threads := s.threads, groups := s.groups } : State) = s ∧
      (∀ p ∈ ts, ∀ k, s.thread p.1 = some k → ∃ sv : BitVec 6, (∀ n, n < 6 → sv.getLsbD n = (k.sb.getD n 0 != 0)) ∧ u.thread p.1 = some
        { k with status := .eligible, trapPc := p.2, trapInfo := BitVec.ofNat 64 t.info, aside := k.sb, savedAt := sv, sb := [0, 0, 0, 0, 0, 0], hv := List.replicate 16 0
                 trapCause := BitVec.ofNat 32 (t.kind.code * 2 ^ 16 + boolNat t.fetch * 2 ^ 15 + boolNat t.retry * 2 ^ 14 + t.lane % 64 * 2 ^ 8 + t.cause)
                 handler := true, pc := tm.header.entry + BitVec.ofInt 64 tm.header.handler }) ∧
      (∀ q, q ∉ ts.map (·.1) → u.thread q = s.thread q) ∧
      u.groups = s.groups.map fun k => if ts.any (fun p => (s.thread p.1).map (·.gref) == some k.ref) then { k with ready := max k.ready (s.clk.cycle + 8) } else k) ∧
    (∀ q k, Reports s ts t q → s.thread q.1 = some k →
      (tm.header.handler = 0 → (∀ p ∈ ts, ∀ k, s.thread p.1 = some k → k.handler = false) →
        s.trapThreads ts t = ts.foldl (fun s p => s.exitThread p.1 .faulted) (s.faultRecord .unhandled r.ctx (trapRecordOf s .unhandled ts t q k))) ∧
      ((∃ p ∈ ts, (s.thread p.1).map (·.handler) = some true) → s.trapThreads ts t = s.endContext r.ctx (trapRecordOf s .fatal ts t q k)))

/-- What reset leaves (R435 to R437, R440, R441): a boot from copy A that has succeeded, every CTXCTL 0, no thread, group, team, launch, plot or request, each chronometer at 0, MR2 to MR7
zero, and every SRAM clear. The values of MR0 and MR1 follow assumption 1, what module memory holds assumption 2, that the chronometers read 0 assumption 111. -/
def Obligations.ResetState : Prop :=
  let s := State.reset
  (s.pkg.lastRst = 0 ∧ s.pkg.failStep = 0 ∧ s.pkg.copyB = false ∧ s.pkg.done = true ∧ s.pkg.bootErr = false) ∧
  (s.ctxs.length = 32 ∧ ∀ n c, s.ctx n = some c → c.ctl = 0 ∧ c.queue = [] ∧ c.credits = [] ∧ c.frWrite = 0 ∧ c.frRead = 0) ∧
  (s.threads = [] ∧ s.groups = [] ∧ s.teams = [] ∧ s.runs = [] ∧ s.plots = [] ∧ s.mem.requests = [] ∧ s.mem.slices = [] ∧ s.mem.cmds = [] ∧ s.tile.slots = [] ∧ s.tile.banks = []) ∧
  (∀ u, s.chrono u = 0) ∧ (s.pkg.mr.drop 2 = List.replicate 6 (List.replicate 32 0)) ∧ (∀ k d, s.memDie k = some d → d.systab = 0 ∧ d.move = none) ∧
  ∀ c, (s.core c).l1 = [] ∧ (s.core c).klines = [] ∧ (s.core c).pages = [] ∧ (s.core c).bins = [] ∧ (s.core c).limit = 64

/-- R203, R314, R317, R325, R338: a register above the limits, then the lack of the privilege that an instruction asks for, traps every active thread of the group with REG_BOUNDS or PRIV, and
the instruction does nothing else. REFORM, CVG and EXIT are refused in handler mode; SREG's reads of the trap registers and SYS.tret outside it; the other SYS operations without CTXCTL.SUP;
SXPRI outside a policy record. -/
def Obligations.Privilege : Prop :=
  (∀ (i : Instr) (op : Nat) (x : Fields) (own : Bool) (s : State) (tm : Team) (sp : OpSpec) (h : Thread) (rest : List Thread) (t : Trap), i.row? = some (op, x, own) → i.wf = true →
    s.active = h :: rest → s.team h.team = some tm → opSpec op x = some sp → issueCheck s tm h sp op x = some t → exec i s = .next (s.trapGroup t)) ∧
  (∀ (op : Nat) (x : Fields) (s : State) (tm : Team) (sp : OpSpec) (h : Thread),
    let bad := fun (cause : Nat) => (some { cause := cause, info := ((fieldWords op x).headD 0).toNat } : Option Trap)
    (boundsOk sp x h.handler tm = false → issueCheck s tm h sp op x = bad 0x04) ∧
    (boundsOk sp x h.handler tm = true →
      (op = 0x5C ∨ op = 0x5D ∨ op = 0x5E → issueCheck s tm h sp op x = if h.handler then bad 0x05 else none) ∧
      (op = 0x7A → issueCheck s tm h sp op x = if h.handler = false ∧ x.xop.getLsbD 0 = false ∧ 0x020 ≤ x.low.toNat ∧ x.low.toNat ≤ 0x023 then bad 0x05 else none) ∧
      (op = 0x7C → OpTable.xf x 0 4 = 4 → issueCheck s tm h sp op x = if h.handler then none else bad 0x05) ∧
      (op = 0x7C → OpTable.xf x 0 4 ≠ 4 → issueCheck s tm h sp op x = if s.ctxSup tm.ctx then none else bad 0x05) ∧
      (op = 0x73 → issueCheck s tm h sp op x = if tm.policy.isSome then none else bad 0x05) ∧
      (op ∉ [0x5C, 0x5D, 0x5E, 0x7A, 0x7C, 0x73] → issueCheck s tm h sp op x = none)))

namespace Sys2Proof.Claims

open Sys2Proof.Machine

/-- The first byte of the system-table entry in which a write marks D and A (R127), once the written bytes stand. -/
def markedEntry (s : State) (pa ia : Nat) (bs : List Byte) : Option Nat :=
  match (s.writeMem (s.redirect pa ia) bs).walk ia with
  | .mapped e (some a) => if e.frame + (ia - e.page) = pa then some a else none
  | _ => none

/-- No line of a core's L1 is dirty or poisoned, and none of its banks leaves CACHE mode. -/
def Clean (k : Core) : Prop := k.changes = [] ∧ ∀ l ∈ k.l1, l.dirty = false ∧ l.poison = false

end Sys2Proof.Claims

/-- The frames of memory. A write performed at its home leaves its bytes at their addresses and marks A and D in the entry that maps the page; every other byte of module memory reads as before. A
store or load to or from a core with no dirty line changes no byte of module memory when it issues, and of the plots only the bytes of its participating lanes. -/
def Obligations.StoreFrames : Prop :=
  (∀ (s : State) (pa ia : Nat) (bs : List Byte) (tag : Option (BitVec 4 × Nat)), Safety.MemoryCanonical s →
    let t := (s.performWrite pa ia bs tag).1
    let at' := s.redirect pa ia
    (∀ a, markedEntry s pa ia bs ≠ some a → t.mem.mem.read a = if at' ≤ a ∧ a < at' + bs.length then bs.getD (a - at') 0 else s.mem.mem.read a) ∧
    (∀ a, markedEntry s pa ia bs = some a → t.mem.mem.read a = (if at' ≤ a ∧ a < at' + bs.length then bs.getD (a - at') 0 else s.mem.mem.read a) ||| 3) ∧
    t.threads = s.threads ∧ t.cores = s.cores ∧ t.plots = s.plots ∧ t.teams = s.teams ∧ t.ctxs = s.ctxs ∧ t.tile = s.tile) ∧
  (∀ (i : Instr) (opc size n : Nat) (x : Fields) (s : State) (tm : Team) (sp : OpSpec) (h : Thread) (rest : List Thread) (p : Thread) (ps : List Thread) (ws : List W32)
    (found : List Located), accessShape i = some (opc, x, size, n) → Goes s opc x tm sp h rest → partOf x (h :: rest) = p :: ps → Clean (s.core p.ref.core) →
    (isLoad i = true → ((p :: ps).map fun t => locate s tm x false size x.d.toNat (laneOf s sp x [] t) []) = found.map .ok) →
    (isLoad i = true → ∀ f ∈ plots found, poisonedPlot s tm.id p.ref.core f.2.1 size = false) →
    (isLoad i = false → constOperand s tm { sp with b := .regs n } x = .words ws ∧ ((p :: ps).map fun t => locate s tm x true size 0 (laneOf s sp x [] t)
      ((if x.kw then ws.flatMap fun w => leBytes 4 w.toNat else regBytes s t x.b.toNat n).take size)) = found.map .ok) →
    ∃ t, exec i s = .next t ∧ WentOn s t x (h :: rest) ∧ (∀ a, t.mem.mem.read a = s.mem.mem.read a) ∧ t.teams = s.teams ∧ t.ctxs = s.ctxs ∧ t.tile = s.tile ∧ t.groups = s.groups ∧
      t.plots.length = s.plots.length ∧ ∀ (k : Nat) (q : Plot), s.plots[k]? = some q → ∃ q' : Plot, t.plots[k]? = some q' ∧ { q' with bytes := q.bytes } = q ∧
        ∀ o, ¬ (isLoad i = false ∧ (s.plotOf tm.id p.ref.core).map (·.id) = some q.id ∧ ∃ f ∈ plots found, f.2.1 ≤ o ∧ o < f.2.1 + f.2.2.length) → assocGet 0 o q'.bytes = assocGet 0 o q.bytes)
end

