-- ==== Sys2Proof/Laws/Memory.lean ====
section
/-! SUPPORT. Module memory: a read after a write, and that every memory operation keeps the canonical form. -/

namespace Sys2Proof.Machine.Memory

theorem find_below {lo : Nat} {l : List Host.Cell} (h : sortedFrom lo l = true) {a : Nat} (ha : a < lo) : find a l = 0 := by
  cases l with
  | nil => rfl
  | cons c r =>
    simp only [sortedFrom, Bool.and_eq_true, decide_eq_true_eq] at h
    have h1 : ¬ c.1 = a := by omega
    have h2 : a < c.1 := by omega
    simp [find, h1, h2]

theorem sortedFrom_mono {lo lo' : Nat} {l : List Host.Cell} (h : sortedFrom lo l = true) (hl : lo' ≤ lo) : sortedFrom lo' l = true := by
  cases l with
  | nil => rfl
  | cons c r =>
    simp only [sortedFrom, Bool.and_eq_true, decide_eq_true_eq] at h ⊢
    exact ⟨⟨by omega, h.1.2⟩, h.2⟩

/-- A write keeps the canonical form. -/
theorem sortedFrom_put {a : Nat} {b : Byte} : ∀ {lo : Nat} {l : List Host.Cell}, sortedFrom lo l = true → lo ≤ a → sortedFrom lo (put a b l) = true
  | lo, [], _, ha => by
    by_cases hb : b = 0#8 <;> simp [put, hb, sortedFrom, ha]
  | lo, (k, v) :: r, h, ha => by
    simp only [sortedFrom, Bool.and_eq_true, decide_eq_true_eq, bne_iff_ne, ne_eq, BitVec.ofNat_eq_ofNat] at h
    obtain ⟨⟨h1, h2⟩, h3⟩ := h
    unfold put
    simp only [BitVec.ofNat_eq_ofNat]
    split
    · subst k
      split
      · exact sortedFrom_mono h3 (by omega)
      · simp [sortedFrom, *]
    · split
      · split
        · simp [sortedFrom, *]
        · rename_i _ hk _
          have : a + 1 ≤ k := by omega
          simp [sortedFrom, *]
      · have := sortedFrom_put (b := b) h3 (a := a) (by omega)
        simp [sortedFrom, *]

/-- A read of the byte just written. -/
theorem find_put_same {a : Nat} {b : Byte} : ∀ {lo : Nat} {l : List Host.Cell}, sortedFrom lo l = true → find a (put a b l) = b
  | _, [], _ => by by_cases hb : b = 0#8 <;> simp [put, find, hb]
  | lo, (k, v) :: r, h => by
    simp only [sortedFrom, Bool.and_eq_true, decide_eq_true_eq] at h
    obtain ⟨⟨h1, h2⟩, h3⟩ := h
    unfold put
    simp only [BitVec.ofNat_eq_ofNat]
    split
    · subst k
      split
      · subst b; exact find_below h3 (by omega)
      · simp [find]
    · split
      · split
        · subst b; simp [find, *]
        · simp [find]
      · have := find_put_same (b := b) h3 (a := a)
        simp [find, *]

/-- A write of one byte leaves every other byte as it was. -/
theorem find_put_other {a c : Nat} {b : Byte} (hc : c ≠ a) : ∀ {lo : Nat} {l : List Host.Cell}, sortedFrom lo l = true → find c (put a b l) = find c l
  | _, [], _ => by
    by_cases hb : b = 0#8
    · simp [put, hb]
    · simp [put, hb, find, Ne.symm hc]
  | lo, (k, v) :: r, h => by
    simp only [sortedFrom, Bool.and_eq_true, decide_eq_true_eq] at h
    obtain ⟨⟨h1, h2⟩, h3⟩ := h
    unfold put
    simp only [BitVec.ofNat_eq_ofNat]
    split
    · subst k
      split
      · by_cases h : c < a
        · rw [find_below h3 (by omega)]; simp [find, Ne.symm hc, h]
        · simp [find, Ne.symm hc, h]
      · simp [find, Ne.symm hc]
    · split
      · split
        · rfl
        · by_cases h : c < a
          · have : c < k := by omega
            simp [find, h, this, Ne.symm hc]; omega
          · simp [find, h, Ne.symm hc]
      · have := find_put_other (b := b) hc h3
        simp [find, this]

/-- Writing the byte that an address reads leaves the memory as it is: equal memories are equal data. -/
theorem put_same {a : Nat} : ∀ {lo : Nat} {l : List Host.Cell}, sortedFrom lo l = true → put a (find a l) l = l
  | _, [], _ => by simp [find, put]
  | lo, (k, v) :: r, h => by
    simp only [sortedFrom, Bool.and_eq_true, decide_eq_true_eq, bne_iff_ne, ne_eq, BitVec.ofNat_eq_ofNat] at h
    obtain ⟨⟨h1, h2⟩, h3⟩ := h
    unfold put find
    by_cases hk : k = a
    · subst hk; simp [h2]
    · by_cases ha : a < k
      · simp [hk, ha]
      · simp [hk, ha, put_same h3]

theorem write_wf {m : Memory} (h : m.wf = true) (a : Nat) (b : Byte) : (m.write a b).wf = true := sortedFrom_put h (Nat.zero_le a)

theorem writeBytes_wf {m : Memory} (h : m.wf = true) : ∀ (a : Nat) (bs : List Byte), (m.writeBytes a bs).wf = true := by
  intro a bs
  induction bs generalizing m a with
  | nil => exact h
  | cons b bs ih => exact ih (write_wf h a b) (a + 1)

theorem read_write_same {m : Memory} (h : m.wf = true) (a : Nat) (b : Byte) : (m.write a b).read a = b := find_put_same h

theorem read_write_other {m : Memory} (h : m.wf = true) {a c : Nat} (b : Byte) (hc : c ≠ a) : (m.write a b).read c = m.read c :=
  find_put_other hc h

/-- What a write of bytes leaves at every address. -/
theorem read_writeBytes {m : Memory} (h : m.wf = true) (a : Nat) (bs : List Byte) (c : Nat) :
    (m.writeBytes a bs).read c = if a ≤ c then bs.getD (c - a) (m.read c) else m.read c := by
  induction bs generalizing m a with
  | nil => simp [writeBytes]
  | cons b bs ih =>
    rw [writeBytes, ih (write_wf h a b)]
    by_cases hc : c = a
    · subst hc; simp [read_write_same h, show ¬ c + 1 ≤ c from by omega]
    · rw [read_write_other h b hc]
      by_cases h1 : a + 1 ≤ c
      · have h2 : c - a = (c - (a + 1)) + 1 := by omega
        simp [h1, show a ≤ c from by omega, h2]
      · simp [h1, show ¬ a ≤ c from by omega]

/-- Bytes outside a write read as before. -/
theorem read_writeBytes_outside {m : Memory} (h : m.wf = true) {a c : Nat} (bs : List Byte) (hc : c < a ∨ a + bs.length ≤ c) :
    (m.writeBytes a bs).read c = m.read c := by
  rw [read_writeBytes h]
  split
  · have : bs.length ≤ c - a := by omega
    simp [List.getD, List.getElem?_eq_none this]
  · rfl

end Sys2Proof.Machine.Memory
end

