-- ==== Sys2Proof/Laws/CanonicalState.lean ====
section
/-! SUPPORT. Every operation keeps module memory in its canonical form (assumption 2): the state updates and the instructions of a core up to Control. `f_keeps` says it of the state
that f answers, `f_of` of the state in an answer that may be an error. -/

namespace Sys2Proof.Machine

open Sys2Proof.Safety

/-! ### Base -/

theorem foldl_keeps {α : Type} {f : State → α → State} {l : List α} {s : State}
    (hf : ∀ s x, MemoryCanonical s → MemoryCanonical (f s x)) (h : MemoryCanonical s) : MemoryCanonical (l.foldl f s) := by
  induction l generalizing s with
  | nil => exact h
  | cons x l ih => exact ih (hf s x h)

theorem foldl_fst_keeps {α β : Type} {f : State × β → α → State × β} {l : List α} {s : State × β}
    (hf : ∀ s x, MemoryCanonical s.1 → MemoryCanonical (f s x).1) (h : MemoryCanonical s.1) : MemoryCanonical (l.foldl f s).1 := by
  induction l generalizing s with
  | nil => exact h
  | cons x l ih => exact ih (hf s x h)

theorem foldl_snd_keeps {α β : Type} {f : β × State → α → β × State} {l : List α} {s : β × State}
    (hf : ∀ s x, MemoryCanonical s.2 → MemoryCanonical (f s x).2) (h : MemoryCanonical s.2) : MemoryCanonical (l.foldl f s).2 := by
  induction l generalizing s with
  | nil => exact h
  | cons x l ih => exact ih (hf s x h)

theorem if_keeps {p : Prop} [Decidable p] {a b : State} (ha : MemoryCanonical a) (hb : MemoryCanonical b) : MemoryCanonical (if p then a else b) := by
  split <;> assumption

theorem except_ok {ε α : Type} {a b : α} {p : Prop} (h : a = b → p) : (Except.ok a : Except ε α) = .ok b → p := fun e => h (Except.ok.inj e)
theorem except_error {ε α : Type} {x : ε} {b : α} {p : Prop} : (Except.error x : Except ε α) = .ok b → p := nofun
theorem some_some {α : Type} {a b : α} {p : Prop} (h : a = b → p) : some a = some b → p := fun e => h (Option.some.inj e)
theorem none_some {α : Type} {b : α} {p : Prop} : none = some b → p := nofun
theorem met_ok {α : Type} {a b : α} {p : Prop} (h : a = b → p) : State.Met.ok a = .ok b → p := fun e => h (State.Met.ok.inj e)
theorem met_cause {α : Type} {c : Nat} {b : α} {p : Prop} : State.Met.cause c = .ok b → p := nofun
theorem met_absent {α : Type} {c : Nat} {b : α} {p : Prop} : State.Met.absent c = .ok b → p := nofun
theorem met_uncorrected {α : Type} {c : Nat} {b : α} {p : Prop} : State.Met.uncorrected c = .ok b → p := nofun
theorem next_next {a b : State} {p : Prop} (h : a = b → p) : (Host.Outcome.next a : Host.Outcome State Fault Refusal) = .next b → p :=
  fun e => h (Host.Outcome.next.inj e)
theorem pair_eq {α β : Type} {a c : α} {b d : β} {p : Prop} (h : a = c → b = d → p) : (a, b) = (c, d) → p := fun e => h (congrArg Prod.fst e) (congrArg Prod.snd e)

/-- The form of a memory. -/
def MemCanonical (m : Memory) : Prop := m.wf = true

theorem canonical_mk {a b c d e f g h i k l} {m : MemSide} : MemoryCanonical ⟨a, b, c, d, e, f, g, h, i, m, k, l⟩ = MemCanonical m.mem := rfl
theorem memory_of {s : State} (h : MemoryCanonical s) : MemCanonical s.mem.mem := h


theorem State.updThread_keeps {s : State} {t : TRef} {f : Thread → Thread} (h0 : MemoryCanonical s) : MemoryCanonical (State.updThread s t f) := by
  unfold State.updThread
  repeat' first
    | with_reducible assumption
    | simp only [canonical_mk]
    | with_reducible refine memory_of ?_

theorem State.updThreads_keeps {s : State} {ts : List TRef} {f : Thread → Thread} (h0 : MemoryCanonical s) : MemoryCanonical (State.updThreads s ts f) := by
  unfold State.updThreads
  repeat' first
    | with_reducible assumption
    | simp only [canonical_mk]
    | with_reducible refine memory_of ?_

theorem State.updGroup_keeps {s : State} {g : GRef} {f : Group → Group} (h0 : MemoryCanonical s) : MemoryCanonical (State.updGroup s g f) := by
  unfold State.updGroup
  repeat' first
    | with_reducible assumption
    | simp only [canonical_mk]
    | with_reducible refine memory_of ?_

theorem State.updTeam_keeps {s : State} {id : Nat} {f : Team → Team} (h0 : MemoryCanonical s) : MemoryCanonical (State.updTeam s id f) := by
  unfold State.updTeam
  repeat' first
    | with_reducible assumption
    | simp only [canonical_mk]
    | with_reducible refine memory_of ?_

theorem State.updRun_keeps {s : State} {id : Nat} {f : Run → Run} (h0 : MemoryCanonical s) : MemoryCanonical (State.updRun s id f) := by
  unfold State.updRun
  repeat' first
    | with_reducible assumption
    | simp only [canonical_mk]
    | with_reducible refine memory_of ?_

theorem State.updCtx_keeps {s : State} {n : Nat} {f : Context → Context} (h0 : MemoryCanonical s) : MemoryCanonical (State.updCtx s n f) := by
  unfold State.updCtx
  repeat' first
    | with_reducible assumption
    | simp only [canonical_mk]
    | with_reducible refine memory_of ?_

theorem State.updPlot_keeps {s : State} {id : Nat} {f : Plot → Plot} (h0 : MemoryCanonical s) : MemoryCanonical (State.updPlot s id f) := by
  unfold State.updPlot
  repeat' first
    | with_reducible assumption
    | simp only [canonical_mk]
    | with_reducible refine memory_of ?_

theorem State.updDie_keeps {s : State} {d : Nat} {f : Render → Render} (h0 : MemoryCanonical s) : MemoryCanonical (State.updDie s d f) := by
  unfold State.updDie
  repeat' first
    | with_reducible assumption
    | simp only [canonical_mk]
    | with_reducible refine memory_of ?_

theorem State.updSteward_keeps {s : State} {d : Nat} {f : Steward → Steward} (h0 : MemoryCanonical s) : MemoryCanonical (State.updSteward s d f) := by
  unfold State.updSteward
  repeat' first
    | with_reducible assumption
    | simp only [canonical_mk]
    | with_reducible refine memory_of ?_

theorem State.updRequest_keeps {s : State} {id : Nat} {f : Request → Request} (h0 : MemoryCanonical s) : MemoryCanonical (State.updRequest s id f) := by
  unfold State.updRequest
  repeat' first
    | with_reducible assumption
    | simp only [canonical_mk]
    | with_reducible refine memory_of ?_

theorem State.dropRequest_keeps {s : State} {id : Nat} (h0 : MemoryCanonical s) : MemoryCanonical (State.dropRequest s id) := by
  unfold State.dropRequest
  repeat' first
    | with_reducible assumption
    | simp only [canonical_mk]
    | with_reducible refine memory_of ?_

theorem State.updCmd_keeps {s : State} {id : Nat} {f : Cmd → Cmd} (h0 : MemoryCanonical s) : MemoryCanonical (State.updCmd s id f) := by
  unfold State.updCmd
  repeat' first
    | with_reducible assumption
    | simp only [canonical_mk]
    | with_reducible refine memory_of ?_

theorem State.setMem_canonical {s : State} {m : MemSide} : MemoryCanonical (s.setMem m) = MemCanonical m.mem := rfl

theorem State.setTile_keeps {s : State} {t : TileSide} (h0 : MemoryCanonical s) : MemoryCanonical (State.setTile s t) := by
  unfold State.setTile
  repeat' first
    | with_reducible assumption
    | simp only [canonical_mk]
    | with_reducible refine memory_of ?_

theorem State.setPkg_keeps {s : State} {p : Package} (h0 : MemoryCanonical s) : MemoryCanonical (State.setPkg s p) := by
  unfold State.setPkg
  repeat' first
    | with_reducible assumption
    | simp only [canonical_mk]
    | with_reducible refine memory_of ?_

theorem State.setClk_keeps {s : State} {c : Clock} (h0 : MemoryCanonical s) : MemoryCanonical (State.setClk s c) := by
  unfold State.setClk
  repeat' first
    | with_reducible assumption
    | simp only [canonical_mk]
    | with_reducible refine memory_of ?_

theorem State.fresh_of {s : State} {a1} {out} (h0 : MemoryCanonical s) (e : State.fresh s = (a1, out)) : MemoryCanonical out := by
  unfold State.fresh at e
  revert e
  repeat' first
    | with_reducible assumption
    | simp only [canonical_mk]
    | with_reducible refine memory_of ?_
    | with_reducible refine pair_eq ?_
    | (intro e; subst e)

theorem State.fresh_keeps {s : State} (h0 : MemoryCanonical s) : MemoryCanonical (State.fresh s).2 := State.fresh_of h0 rfl

theorem State.emit_keeps {s : State} {o : Out} (h0 : MemoryCanonical s) : MemoryCanonical (State.emit s o) := by
  unfold State.emit
  repeat' first
    | with_reducible assumption
    | simp only [canonical_mk]
    | with_reducible refine memory_of ?_

theorem State.after_keeps {s : State} {d : Nat} {i : Instr} (h0 : MemoryCanonical s) : MemoryCanonical (State.after s d i) := by
  unfold State.after
  repeat' first
    | with_reducible assumption
    | simp only [canonical_mk]
    | with_reducible refine memory_of ?_

theorem State.afterExactly_keeps {s : State} {d : Nat} {i : Instr} (h0 : MemoryCanonical s) : MemoryCanonical (State.afterExactly s d i) := by
  unfold State.afterExactly
  repeat' first
    | with_reducible assumption
    | simp only [canonical_mk]
    | with_reducible refine memory_of ?_

theorem State.atTick_keeps {s : State} {t : Nat} {i : Instr} (h0 : MemoryCanonical s) : MemoryCanonical (State.atTick s t i) := by
  unfold State.atTick
  repeat' first
    | with_reducible assumption
    | simp only [canonical_mk]
    | with_reducible refine memory_of ?_

theorem State.updCore_keeps {s : State} {c : CoreId} {f : Core → Core} (h0 : MemoryCanonical s) : MemoryCanonical (State.updCore s c f) := by
  unfold State.updCore
  repeat' first
    | with_reducible assumption
    | simp only [canonical_mk]
    | with_reducible refine memory_of ?_
    | split

theorem State.setCtl_keeps {s : State} {n : Nat} {bit : Nat} {v : Bool} (h0 : MemoryCanonical s) : MemoryCanonical (State.setCtl s n bit v) := by
  unfold State.setCtl
  repeat' first
    | with_reducible assumption
    | with_reducible refine State.updCtx_keeps ?_

/-! ### Mem -/

theorem State.writeMem_keeps {s : State} {a : Nat} {bs : List Byte} (h : MemoryCanonical s) : MemoryCanonical (s.writeMem a bs) :=
  Memory.writeBytes_wf h a bs

theorem State.booted_keeps {p : Package} : MemoryCanonical (State.booted p) := rfl

theorem State.updMemDie_keeps {s : State} {k : Nat} {f : MemDie → MemDie} (h0 : MemoryCanonical s) : MemoryCanonical (State.updMemDie s k f) := by
  unfold State.updMemDie
  repeat' first
    | with_reducible assumption
    | simp only [canonical_mk]
    | with_reducible refine memory_of ?_

theorem State.markEntry_keeps {s : State} {entry : Option Nat} {write : Bool} (h0 : MemoryCanonical s) : MemoryCanonical (State.markEntry s entry write) := by
  unfold State.markEntry
  repeat' first
    | with_reducible assumption
    | with_reducible refine State.writeMem_keeps ?_
    | dsimp only
    | split

theorem State.keepSlice_keeps {s : State} {l : SliceLine} (h0 : MemoryCanonical s) : MemoryCanonical (State.keepSlice s l) := by
  unfold State.keepSlice
  repeat' first
    | with_reducible assumption
    | simp only [canonical_mk]
    | with_reducible refine memory_of ?_
    | split

theorem State.touchSlice_keeps {s : State} {d : Nat} {ia : Nat} {pa : Nat} {perms : BitVec 4} {ctx : Nat} {lease : Nat} (h0 : MemoryCanonical s) : MemoryCanonical (State.touchSlice s d ia pa perms ctx lease) := by
  unfold State.touchSlice
  repeat' first
    | with_reducible assumption
    | with_reducible refine State.keepSlice_keeps ?_

theorem State.fillPage_keeps {s : State} {c : CoreId} {e : PageEntry} (h0 : MemoryCanonical s) : MemoryCanonical (State.fillPage s c e) := by
  unfold State.fillPage
  repeat' first
    | with_reducible assumption
    | with_reducible refine State.updCore_keeps ?_

theorem State.usePage_keeps {s : State} {c : CoreId} {ia : Nat} (h0 : MemoryCanonical s) : MemoryCanonical (State.usePage s c ia) := by
  unfold State.usePage
  repeat' first
    | with_reducible assumption
    | with_reducible refine State.updCore_keeps ?_

theorem State.setPoison_keeps {s : State} {pa : Nat} (h0 : MemoryCanonical s) : MemoryCanonical (State.setPoison s pa) := by
  unfold State.setPoison
  repeat' first
    | with_reducible assumption
    | simp only [canonical_mk]
    | with_reducible refine memory_of ?_

theorem State.clearCovered_keeps {s : State} {spans : List (Nat × Nat)} (h0 : MemoryCanonical s) : MemoryCanonical (State.clearCovered s spans) := by
  unfold State.clearCovered
  repeat' first
    | with_reducible assumption
    | simp only [canonical_mk]
    | with_reducible refine memory_of ?_

theorem State.performWrite_of {s : State} {pa : Nat} {ia : Nat} {bs : List Byte} {tag : Option (BitVec 4 × Nat)} {out} {a1} (h0 : MemoryCanonical s) (e : State.performWrite s pa ia bs tag = (out, a1)) : MemoryCanonical out := by
  unfold State.performWrite at e
  revert e
  repeat' first
    | with_reducible assumption
    | with_reducible refine State.writeMem_keeps ?_
    | with_reducible refine State.markEntry_keeps ?_
    | with_reducible refine State.touchSlice_keeps ?_
    | with_reducible refine State.clearCovered_keeps ?_
    | simp only [canonical_mk]
    | with_reducible refine memory_of ?_
    | with_reducible refine pair_eq ?_
    | split
    | (intro e; subst e)

theorem State.performWrite_keeps {s : State} {pa : Nat} {ia : Nat} {bs : List Byte} {tag : Option (BitVec 4 × Nat)} (h0 : MemoryCanonical s) : MemoryCanonical (State.performWrite s pa ia bs tag).1 := State.performWrite_of h0 rfl

theorem State.dropL1_keeps {s : State} {c : CoreId} {ctx : Nat} {ia : Nat} (h0 : MemoryCanonical s) : MemoryCanonical (State.dropL1 s c ctx ia) := by
  unfold State.dropL1
  repeat' first
    | with_reducible assumption
    | with_reducible refine State.updCore_keeps ?_

theorem State.writeBackLine_keeps {s : State} {c : CoreId} {l : L1Line} (h0 : MemoryCanonical s) : MemoryCanonical (State.writeBackLine s c l) := by
  unfold State.writeBackLine
  repeat' first
    | with_reducible assumption
    | with_reducible refine State.setPoison_keeps ?_
    | with_reducible refine State.performWrite_keeps ?_
    | simp only [canonical_mk]
    | with_reducible refine memory_of ?_
    | split

theorem State.expelL1_keeps {s : State} {c : CoreId} {ctx : Nat} {ia : Nat} (h0 : MemoryCanonical s) : MemoryCanonical (State.expelL1 s c ctx ia) := by
  unfold State.expelL1
  repeat' first
    | with_reducible assumption
    | with_reducible refine State.dropL1_keeps ?_
    | with_reducible refine State.writeBackLine_keeps ?_
    | split

theorem State.expelPrivate_keeps {s : State} {c : CoreId} {ctx : Nat} {ia : Nat} (h0 : MemoryCanonical s) : MemoryCanonical (State.expelPrivate s c ctx ia) := by
  unfold State.expelPrivate
  repeat' first
    | with_reducible assumption
    | with_reducible refine State.expelL1_keeps ?_
    | split

theorem State.fillL1_keeps {s : State} {c : CoreId} {l : L1Line} (h0 : MemoryCanonical s) : MemoryCanonical (State.fillL1 s c l) := by
  unfold State.fillL1
  repeat' first
    | with_reducible assumption
    | with_reducible refine State.updCore_keeps ?_
    | with_reducible refine State.writeBackLine_keeps ?_
    | with_reducible refine State.expelL1_keeps ?_
    | dsimp only
    | split

theorem State.updL1_keeps {s : State} {c : CoreId} {ctx : Nat} {ia : Nat} {f : L1Line → L1Line} (h0 : MemoryCanonical s) : MemoryCanonical (State.updL1 s c ctx ia f) := by
  unfold State.updL1
  repeat' first
    | with_reducible assumption
    | with_reducible refine State.updCore_keeps ?_

theorem State.writePlotBytes_keeps {s : State} {p : Plot} {o : Nat} {bs : List Byte} (h0 : MemoryCanonical s) : MemoryCanonical (State.writePlotBytes s p o bs) := by
  unfold State.writePlotBytes
  repeat' first
    | with_reducible assumption
    | simp only [canonical_mk]
    | with_reducible refine memory_of ?_

theorem State.clearPlotCovered_keeps {s : State} {p : Plot} {spans : List (Nat × Nat)} (h0 : MemoryCanonical s) : MemoryCanonical (State.clearPlotCovered s p spans) := by
  unfold State.clearPlotCovered
  repeat' first
    | with_reducible assumption
    | simp only [canonical_mk]
    | with_reducible refine memory_of ?_

/-! ### Sync -/

theorem State.faultRecord_keeps {s : State} {kind : RecordKind} {ctx : Nat} {bs : List Byte} (h0 : MemoryCanonical s) : MemoryCanonical (State.faultRecord s kind ctx bs) := by
  unfold State.faultRecord
  repeat' first
    | with_reducible assumption
    | with_reducible refine State.updCtx_keeps ?_

theorem State.ceaseGroups_keeps {s : State} (h0 : MemoryCanonical s) : MemoryCanonical (State.ceaseGroups s) := by
  unfold State.ceaseGroups
  repeat' first
    | with_reducible assumption
    | simp only [canonical_mk]
    | with_reducible refine memory_of ?_
    | split

theorem State.formGroup_keeps {s : State} {g : GRef} {team : Nat} (h0 : MemoryCanonical s) : MemoryCanonical (State.formGroup s g team) := by
  unfold State.formGroup
  repeat' first
    | with_reducible assumption
    | with_reducible refine State.updCore_keeps ?_
    | simp only [canonical_mk]
    | with_reducible refine memory_of ?_

theorem State.placeDrawn_keeps {s : State} {c : CoreId} {ctx : Nat} {team : Nat} {vregs : Nat} {places : List (Nat × Nat)} {y6 : List Nat} {y7 : Nat} (h0 : MemoryCanonical s) : MemoryCanonical (State.placeDrawn s c ctx team vregs places y6 y7) := by
  induction y6 generalizing s c ctx team vregs places y7 h0 with
  | nil =>
    unfold State.placeDrawn
    repeat' first
      | with_reducible assumption
  | cons _ _ ih =>
    unfold State.placeDrawn
    repeat' first
      | with_reducible assumption
      | with_reducible refine ih ?_
      | with_reducible refine State.updThread_keeps ?_
      | simp only [canonical_mk]
      | with_reducible refine memory_of ?_
      | split

theorem State.placeFiling_of {s : State} {c : CoreId} {f : Filing} {out} (h0 : MemoryCanonical s) (e : State.placeFiling s c f = some out) : MemoryCanonical out := by
  unfold State.placeFiling at e
  revert e
  repeat' first
    | with_reducible assumption
    | with_reducible refine State.updCore_keeps ?_
    | dsimp only
    | with_reducible exact none_some
    | with_reducible refine some_some ?_
    | split
    | simp only [Option.map]
    | (intro e; subst e)

theorem State.awaitBin_keeps {s : State} {c : CoreId} {f : Filing} (h0 : MemoryCanonical s) : MemoryCanonical (State.awaitBin s c f) := by
  unfold State.awaitBin
  repeat' first
    | with_reducible assumption
    | with_reducible refine State.updCore_keeps ?_

theorem State.enterBin_keeps {s : State} {c : CoreId} {f : Filing} (h0 : MemoryCanonical s) : MemoryCanonical (State.enterBin s c f) := by
  unfold State.enterBin
  repeat' first
    | with_reducible assumption
    | with_reducible refine State.placeFiling_of ?_ (by with_reducible assumption)
    | with_reducible refine State.awaitBin_keeps ?_
    | split
    | simp only [Option.getD]

theorem State.settleFilings_keeps {s : State} {c : CoreId} {ctx : Nat} (h0 : MemoryCanonical s) : MemoryCanonical (State.settleFilings s c ctx) := by
  unfold State.settleFilings
  repeat' first
    | with_reducible assumption
    | with_reducible refine State.updCore_keeps ?_
    | with_reducible refine State.enterBin_keeps ?_
    | dsimp only
    | with_reducible refine foldl_keeps (fun _ _ _ => ?_) ?_

theorem State.drawBin_keeps {s : State} {c : CoreId} {b : Bin} {n : Nat} (h0 : MemoryCanonical s) : MemoryCanonical (State.drawBin s c b n) := by
  unfold State.drawBin
  repeat' first
    | with_reducible assumption
    | with_reducible refine State.updCore_keeps ?_
    | with_reducible refine State.formGroup_keeps ?_
    | with_reducible refine State.placeDrawn_keeps ?_
    | with_reducible refine State.settleFilings_keeps ?_
    | dsimp only
    | split

theorem State.fileThread_keeps {s : State} {t : TRef} {pc : W64} {key : Nat} (h0 : MemoryCanonical s) : MemoryCanonical (State.fileThread s t pc key) := by
  unfold State.fileThread
  repeat' first
    | with_reducible assumption
    | with_reducible refine State.updThread_keeps ?_
    | with_reducible refine State.enterBin_keeps ?_
    | simp only [canonical_mk]
    | with_reducible refine memory_of ?_
    | split

theorem State.leaveCvgs_keeps {s : State} {t : TRef} {team : Nat} (h0 : MemoryCanonical s) : MemoryCanonical (State.leaveCvgs s t team) := by
  unfold State.leaveCvgs
  repeat' first
    | with_reducible assumption
    | with_reducible refine State.updTeam_keeps ?_
    | simp only [canonical_mk]
    | with_reducible refine memory_of ?_
    | split

theorem State.wake_keeps {s : State} {ts : List TRef} (h0 : MemoryCanonical s) : MemoryCanonical (State.wake s ts) := by
  unfold State.wake
  repeat' first
    | with_reducible assumption
    | with_reducible refine State.updThreads_keeps ?_

theorem State.releaseCvg_keeps {s : State} {team : Nat} {n : Nat} (h0 : MemoryCanonical s) : MemoryCanonical (State.releaseCvg s team n) := by
  unfold State.releaseCvg
  repeat' first
    | with_reducible assumption
    | with_reducible refine State.updTeam_keeps ?_
    | with_reducible refine State.wake_keeps ?_
    | split

theorem State.leaveAcquires_keeps {s : State} {t : TRef} {team : Nat} (h0 : MemoryCanonical s) : MemoryCanonical (State.leaveAcquires s t team) := by
  unfold State.leaveAcquires
  repeat' first
    | with_reducible assumption
    | with_reducible refine State.updTeam_keeps ?_

theorem State.exitRings_keeps {s : State} {t : TRef} {team : Nat} (h0 : MemoryCanonical s) : MemoryCanonical (State.exitRings s t team) := by
  unfold State.exitRings
  repeat' first
    | with_reducible assumption
    | with_reducible refine State.updTeam_keeps ?_
    | with_reducible refine State.leaveAcquires_keeps ?_

theorem State.departBarriers_keeps {s : State} {h : Thread} (h0 : MemoryCanonical s) : MemoryCanonical (State.departBarriers s h) := by
  unfold State.departBarriers
  repeat' first
    | with_reducible assumption
    | with_reducible refine State.updCtx_keeps ?_

theorem State.drainSlot_keeps {s : State} {die : Nat} {site : Nat} {slot : Nat} (h0 : MemoryCanonical s) : MemoryCanonical (State.drainSlot s die site slot) := by
  unfold State.drainSlot
  repeat' first
    | with_reducible assumption
    | simp only [canonical_mk]
    | with_reducible refine memory_of ?_

theorem State.exitHandles_keeps {s : State} {t : TRef} {team : Nat} (h0 : MemoryCanonical s) : MemoryCanonical (State.exitHandles s t team) := by
  unfold State.exitHandles
  repeat' first
    | with_reducible assumption
    | with_reducible refine State.updTeam_keeps ?_
    | with_reducible refine State.drainSlot_keeps ?_
    | dsimp only
    | with_reducible refine foldl_keeps (fun _ _ _ => ?_) ?_
    | split

theorem State.freeGathered_keeps {s : State} {die : Nat} {site : Nat} {slots : List Nat} (h0 : MemoryCanonical s) : MemoryCanonical (State.freeGathered s die site slots) := by
  unfold State.freeGathered
  repeat' first
    | with_reducible assumption
    | simp only [canonical_mk]
    | with_reducible refine memory_of ?_

theorem State.tellPoster_keeps {s : State} {p : Poster} {ok : Bool} (h0 : MemoryCanonical s) : MemoryCanonical (State.tellPoster s p ok) := by
  unfold State.tellPoster
  repeat' first
    | with_reducible assumption
    | with_reducible refine State.updDie_keeps ?_
    | with_reducible refine State.freeGathered_keeps ?_
    | dsimp only
    | with_reducible refine foldl_keeps (fun _ _ _ => ?_) ?_
    | split

theorem State.retire_keeps {s : State} {ctx : Nat} {r : Record} {ok : Bool} (h0 : MemoryCanonical s) : MemoryCanonical (State.retire s ctx r ok) := by
  unfold State.retire
  repeat' first
    | with_reducible assumption
    | with_reducible refine State.updCtx_keeps ?_
    | with_reducible refine State.tellPoster_keeps ?_
    | dsimp only
    | split

theorem State.forget_keeps {s : State} {gone : TRef → Bool} (h0 : MemoryCanonical s) : MemoryCanonical (State.forget s gone) := by
  unfold State.forget
  repeat' first
    | with_reducible assumption
    | simp only [canonical_mk]
    | with_reducible refine memory_of ?_

theorem State.endTeam_keeps {s : State} {tm : Team} {how : Ending} {retires : Bool} (h0 : MemoryCanonical s) : MemoryCanonical (State.endTeam s tm how retires) := by
  unfold State.endTeam
  repeat' first
    | with_reducible assumption
    | with_reducible refine State.updRun_keeps ?_
    | with_reducible refine State.ceaseGroups_keeps ?_
    | with_reducible refine State.settleFilings_keeps ?_
    | with_reducible refine State.retire_keeps ?_
    | with_reducible refine State.forget_keeps ?_
    | simp only [canonical_mk]
    | with_reducible refine memory_of ?_
    | with_reducible refine foldl_keeps (fun _ _ _ => ?_) ?_
    | split

theorem State.exitNow_keeps {s : State} {t : TRef} {how : Ending} (h0 : MemoryCanonical s) : MemoryCanonical (State.exitNow s t how) := by
  unfold State.exitNow
  repeat' first
    | with_reducible assumption
    | with_reducible refine State.updThread_keeps ?_
    | with_reducible refine State.ceaseGroups_keeps ?_
    | with_reducible refine State.leaveCvgs_keeps ?_
    | with_reducible refine State.exitRings_keeps ?_
    | with_reducible refine State.departBarriers_keeps ?_
    | with_reducible refine State.exitHandles_keeps ?_
    | with_reducible refine State.endTeam_keeps ?_
    | dsimp only
    | split

theorem State.exitThread_keeps {s : State} {t : TRef} {how : Ending} (h0 : MemoryCanonical s) : MemoryCanonical (State.exitThread s t how) := by
  unfold State.exitThread
  repeat' first
    | with_reducible assumption
    | with_reducible refine State.updThread_keeps ?_
    | with_reducible refine State.leaveAcquires_keeps ?_
    | with_reducible refine State.exitNow_keeps ?_
    | dsimp only
    | split

theorem State.endContext_keeps {s : State} {ctx : Nat} {bs : List Byte} (h0 : MemoryCanonical s) : MemoryCanonical (State.endContext s ctx bs) := by
  unfold State.endContext
  repeat' first
    | with_reducible assumption
    | with_reducible refine State.updCtx_keeps ?_
    | with_reducible refine State.setCtl_keeps ?_
    | with_reducible refine State.faultRecord_keeps ?_
    | with_reducible refine State.tellPoster_keeps ?_
    | with_reducible refine State.endTeam_keeps ?_
    | simp only [canonical_mk]
    | with_reducible refine memory_of ?_
    | with_reducible refine foldl_keeps (fun _ _ _ => ?_) ?_

theorem State.killContext_keeps {s : State} {ctx : Nat} {cause : Nat} {addr : Nat} {c : CoreId} (h0 : MemoryCanonical s) : MemoryCanonical (State.killContext s ctx cause addr c) := by
  unfold State.killContext
  repeat' first
    | with_reducible assumption
    | with_reducible refine State.endContext_keeps ?_

/-! ### Ops -/

theorem State.delayIssue_keeps {s : State} {g : GRef} {n : Nat} (h0 : MemoryCanonical s) : MemoryCanonical (State.delayIssue s g n) := by
  unfold State.delayIssue
  repeat' first
    | with_reducible assumption
    | with_reducible refine State.updGroup_keeps ?_

theorem State.trapThreads_keeps {s : State} {ts : List (TRef × W64)} {t : Trap} (h0 : MemoryCanonical s) : MemoryCanonical (State.trapThreads s ts t) := by
  unfold State.trapThreads
  repeat' first
    | with_reducible assumption
    | with_reducible refine State.updThread_keeps ?_
    | with_reducible refine State.faultRecord_keeps ?_
    | with_reducible refine State.exitThread_keeps ?_
    | with_reducible refine State.endContext_keeps ?_
    | simp only [canonical_mk]
    | with_reducible refine memory_of ?_
    | with_reducible refine foldl_keeps (fun _ _ _ => ?_) ?_
    | split

theorem State.parkThreads_keeps {s : State} {ts : List TRef} {pc : W64} {set : Nat} {handler : Bool} {at' : TRef → Nat × Nat} {cause : Nat} {fetch : Bool} (h0 : MemoryCanonical s) : MemoryCanonical (State.parkThreads s ts pc set handler at' cause fetch) := by
  unfold State.parkThreads
  repeat' first
    | with_reducible assumption
    | with_reducible refine State.updThreads_keeps ?_
    | with_reducible refine State.faultRecord_keeps ?_
    | with_reducible refine State.ceaseGroups_keeps ?_
    | with_reducible refine State.trapThreads_keeps ?_
    | simp only [canonical_mk]
    | with_reducible refine memory_of ?_
    | split

theorem State.resumeParked_keeps {s : State} {page : Nat} {size : Nat} (h0 : MemoryCanonical s) : MemoryCanonical (State.resumeParked s page size) := by
  unfold State.resumeParked
  repeat' first
    | with_reducible assumption
    | with_reducible refine State.updThread_keeps ?_
    | with_reducible refine State.fileThread_keeps ?_
    | simp only [canonical_mk]
    | with_reducible refine memory_of ?_
    | with_reducible refine foldl_keeps (fun _ _ _ => ?_) ?_
    | split

theorem State.updHandle_keeps {s : State} {team : Nat} {c : CoreId} {h : Nat} {f : Handle → Handle} (h0 : MemoryCanonical s) : MemoryCanonical (State.updHandle s team c h f) := by
  unfold State.updHandle
  repeat' first
    | with_reducible assumption
    | with_reducible refine State.updTeam_keeps ?_

theorem State.updTileSlot_keeps {s : State} {die : Nat} {site : Nat} {slot : Nat} {f : TileSlot → TileSlot} (h0 : MemoryCanonical s) : MemoryCanonical (State.updTileSlot s die site slot f) := by
  unfold State.updTileSlot
  repeat' first
    | with_reducible assumption
    | simp only [canonical_mk]
    | with_reducible refine memory_of ?_

theorem State.updEngine_keeps {s : State} {die : Nat} {site : Nat} {f : Engine → Engine} (h0 : MemoryCanonical s) : MemoryCanonical (State.updEngine s die site f) := by
  unfold State.updEngine
  repeat' first
    | with_reducible assumption
    | simp only [canonical_mk]
    | with_reducible refine memory_of ?_
    | split

theorem State.newMma_of {s : State} {tm : Team} {voters : List (TRef × Vote)} {g : Option GRef} {cvg : Option Nat} {ok : TRef × Vote × TileSlot × TileSlot} {out} {a1} (h0 : MemoryCanonical s) (e : State.newMma s tm voters g cvg ok = (out, a1)) : MemoryCanonical out := by
  unfold State.newMma at e
  revert e
  repeat' first
    | with_reducible assumption
    | with_reducible refine State.fresh_keeps ?_
    | with_reducible refine State.updTileSlot_keeps ?_
    | simp only [canonical_mk]
    | with_reducible refine memory_of ?_
    | with_reducible refine pair_eq ?_
    | (intro e; subst e)

theorem State.newMma_keeps {s : State} {tm : Team} {voters : List (TRef × Vote)} {g : Option GRef} {cvg : Option Nat} {ok : TRef × Vote × TileSlot × TileSlot} (h0 : MemoryCanonical s) : MemoryCanonical (State.newMma s tm voters g cvg ok).1 := State.newMma_of h0 rfl

theorem State.acceptMma_keeps {s : State} {id : Nat} (h0 : MemoryCanonical s) : MemoryCanonical (State.acceptMma s id) := by
  unfold State.acceptMma
  repeat' first
    | with_reducible assumption
    | with_reducible refine State.releaseCvg_keeps ?_
    | simp only [canonical_mk]
    | with_reducible refine memory_of ?_
    | split

theorem State.attemptSigned_keeps {s : State} {tm : Team} {n : Nat} {c : Cvg} (h0 : MemoryCanonical s) : MemoryCanonical (State.attemptSigned s tm n c) := by
  unfold State.attemptSigned
  repeat' first
    | with_reducible assumption
    | with_reducible refine State.updThread_keeps ?_
    | with_reducible refine State.updThreads_keeps ?_
    | with_reducible refine State.updTeam_keeps ?_
    | with_reducible refine State.wake_keeps ?_
    | with_reducible refine State.trapThreads_keeps ?_
    | with_reducible refine State.newMma_keeps ?_
    | dsimp only
    | with_reducible refine foldl_keeps (fun _ _ _ => ?_) ?_
    | split

theorem State.settleFor_keeps {s : State} {y1 : Nat} (h0 : MemoryCanonical s) : MemoryCanonical (State.settleFor s y1) := by
  induction y1 generalizing s h0 with
  | zero =>
    unfold State.settleFor
    repeat' first
      | with_reducible assumption
  | succ _ ih =>
    unfold State.settleFor
    repeat' first
      | with_reducible assumption
      | with_reducible refine ih ?_
      | with_reducible refine State.releaseCvg_keeps ?_
      | with_reducible refine State.attemptSigned_keeps ?_
      | split

theorem State.settle_keeps {s : State} (h0 : MemoryCanonical s) : MemoryCanonical (State.settle s) := by
  unfold State.settle
  repeat' first
    | with_reducible assumption
    | with_reducible refine State.settleFor_keeps ?_

theorem State.trapGroup_keeps {s : State} {t : Trap} (h0 : MemoryCanonical s) : MemoryCanonical (State.trapGroup s t) := by
  unfold State.trapGroup
  repeat' first
    | with_reducible assumption
    | with_reducible refine State.trapThreads_keeps ?_
    | with_reducible refine State.settle_keeps ?_

theorem State.advance_keeps {s : State} {ts : List Thread} {n : Nat} (h0 : MemoryCanonical s) : MemoryCanonical (State.advance s ts n) := by
  unfold State.advance
  repeat' first
    | with_reducible assumption
    | with_reducible refine State.updThreads_keeps ?_

/-! ### Access -/

theorem State.sendArrival_keeps {s : State} {a : Arrival} (h0 : MemoryCanonical s) : MemoryCanonical (State.sendArrival s a) := by
  unfold State.sendArrival
  repeat' first
    | with_reducible assumption
    | simp only [canonical_mk]
    | with_reducible refine memory_of ?_

theorem State.afterFrom_keeps {s : State} {d : Nat} {lo : Nat} {i : Instr} (h0 : MemoryCanonical s) : MemoryCanonical (State.afterFrom s d lo i) := by
  unfold State.afterFrom
  repeat' first
    | with_reducible assumption
    | simp only [canonical_mk]
    | with_reducible refine memory_of ?_

theorem State.travel_keeps {s : State} {r : Request} (h0 : MemoryCanonical s) : MemoryCanonical (State.travel s r) := by
  unfold State.travel
  repeat' first
    | with_reducible assumption
    | with_reducible refine State.afterFrom_keeps ?_
    | simp only [canonical_mk]
    | with_reducible refine memory_of ?_
    | split

theorem State.beginWalk_keeps {s : State} {r : Request} (h0 : MemoryCanonical s) : MemoryCanonical (State.beginWalk s r) := by
  unfold State.beginWalk
  repeat' first
    | with_reducible assumption
    | with_reducible refine State.fresh_keeps ?_
    | with_reducible refine State.after_keeps ?_
    | simp only [canonical_mk]
    | with_reducible refine memory_of ?_
    | split

theorem State.numberAll_of {s : State} {y1 : List Request} {a1} {out} (h0 : MemoryCanonical s) (e : State.numberAll s y1 = (a1, out)) : MemoryCanonical out := by
  induction y1 generalizing s h0 a1 out with
  | nil =>
    unfold State.numberAll at e
    revert e
    repeat' first
      | with_reducible assumption
      | with_reducible refine pair_eq ?_
      | (intro e; subst e)
  | cons _ _ ih =>
    unfold State.numberAll at e
    revert e
    repeat' first
      | with_reducible assumption
      | with_reducible refine ih ?_ rfl
      | with_reducible refine State.fresh_keeps ?_
      | dsimp only
      | with_reducible refine pair_eq ?_
      | (intro e; subst e)

theorem State.numberAll_keeps {s : State} {y1 : List Request} (h0 : MemoryCanonical s) : MemoryCanonical (State.numberAll s y1).2 := State.numberAll_of h0 rfl

theorem State.usePageFor_keeps {s : State} {r : Request} (h0 : MemoryCanonical s) : MemoryCanonical (State.usePageFor s r) := by
  unfold State.usePageFor
  repeat' first
    | with_reducible assumption
    | with_reducible refine State.usePage_keeps ?_
    | split

theorem State.sendAll_keeps {s : State} {rs : List Request} (h0 : MemoryCanonical s) : MemoryCanonical (State.sendAll s rs) := by
  unfold State.sendAll
  repeat' first
    | with_reducible assumption
    | with_reducible refine State.travel_keeps ?_
    | with_reducible refine State.beginWalk_keeps ?_
    | with_reducible refine State.numberAll_keeps ?_
    | with_reducible refine State.usePageFor_keeps ?_
    | simp only [canonical_mk]
    | with_reducible refine memory_of ?_
    | with_reducible refine foldl_keeps (fun _ _ _ => ?_) ?_
    | split

theorem State.sendNew_keeps {s : State} {r : Request} (h0 : MemoryCanonical s) : MemoryCanonical (State.sendNew s r) := by
  unfold State.sendNew
  repeat' first
    | with_reducible assumption
    | with_reducible refine State.sendAll_keeps ?_

/-! ### Operands -/

theorem fillConst_keeps {s : State} {tm : Team} {va : Nat} {ia : Nat} {ts : List Thread} (h0 : MemoryCanonical s) : MemoryCanonical (fillConst s tm va ia ts) := by
  unfold fillConst
  repeat' first
    | with_reducible assumption
    | with_reducible refine State.expelPrivate_keeps ?_
    | with_reducible refine State.sendNew_keeps ?_
    | dsimp only
    | split

theorem State.issueThen_keeps {s : State} {op : Nat} {x : Fields} {k : Team → OpSpec → List Thread → State}
    (hk : ∀ tm sp act, MemoryCanonical (k tm sp act)) (h : MemoryCanonical s) : MemoryCanonical (s.issueThen op x k) := by
  unfold State.issueThen
  repeat' first
    | with_reducible assumption
    | exact hk _ _ _
    | with_reducible refine State.trapGroup_keeps ?_
    | split

theorem State.issueConst_keeps {s : State} {op : Nat} {x : Fields} {k : Team → OpSpec → List Thread → List W32 → State}
    (hk : ∀ tm sp act ws, MemoryCanonical (k tm sp act ws)) (h : MemoryCanonical s) : MemoryCanonical (s.issueConst op x k) := by
  unfold State.issueConst
  refine State.issueThen_keeps (fun _ _ _ => ?_) h
  repeat' first
    | with_reducible assumption
    | exact hk _ _ _ _
    | with_reducible refine State.trapGroup_keeps ?_
    | with_reducible refine fillConst_keeps ?_
    | split

theorem State.count_keeps {s : State} {ts : List TRef} {set : Nat} (h0 : MemoryCanonical s) : MemoryCanonical (State.count s ts set) := by
  unfold State.count
  repeat' first
    | with_reducible assumption
    | with_reducible refine State.updThreads_keeps ?_

theorem State.newResult_of {s : State} {op : Nat} {set : Nat} {handler : Bool} {counted : List TRef} {lanes : List ResultLane} {holds : Option GRef} {stages : List Nat} {long : Bool} {raises : Bool} {a1} {out} (h0 : MemoryCanonical s) (e : State.newResult s op set handler counted lanes holds stages long raises = (a1, out)) : MemoryCanonical out := by
  unfold State.newResult at e
  revert e
  repeat' first
    | with_reducible assumption
    | with_reducible refine State.fresh_keeps ?_
    | simp only [canonical_mk]
    | with_reducible refine memory_of ?_
    | with_reducible refine pair_eq ?_
    | (intro e; subst e)

theorem State.newResult_keeps {s : State} {op : Nat} {set : Nat} {handler : Bool} {counted : List TRef} {lanes : List ResultLane} {holds : Option GRef} {stages : List Nat} {long : Bool} {raises : Bool} (h0 : MemoryCanonical s) : MemoryCanonical (State.newResult s op set handler counted lanes holds stages long raises).2 := State.newResult_of h0 rfl

theorem State.addResult_keeps {s : State} {op : Nat} {lat : Nat} {set : Nat} {handler : Bool} {counted : List TRef} {lanes : List ResultLane} {holds : Option GRef} {stages : List Nat} {long : Bool} {raises : Bool} (h0 : MemoryCanonical s) : MemoryCanonical (State.addResult s op lat set handler counted lanes holds stages long raises) := by
  unfold State.addResult
  repeat' first
    | with_reducible assumption
    | with_reducible refine State.afterExactly_keeps ?_
    | with_reducible refine State.newResult_keeps ?_

theorem State.slotFor_keeps {s : State} {set : Nat} {lat : Nat} {part : List Thread} (h0 : MemoryCanonical s) : MemoryCanonical (State.slotFor s set lat part) := by
  unfold State.slotFor
  repeat' first
    | with_reducible assumption
    | with_reducible refine State.count_keeps ?_
    | with_reducible refine State.addResult_keeps ?_
    | split

theorem State.writeAtIssue_keeps {s : State} {x : Fields} {due : Nat} {refs : List TRef} {f : Thread → Option LaneOut} (h0 : MemoryCanonical s) : MemoryCanonical (State.writeAtIssue s x due refs f) := by
  unfold State.writeAtIssue
  repeat' first
    | with_reducible assumption
    | simp only [canonical_mk]
    | with_reducible refine memory_of ?_

theorem State.lanewise_keeps {s : State} {op : Nat} {x : Fields} {lat : Nat} {hold : Nat} {f : Lane → LaneOut} (h0 : MemoryCanonical s) : MemoryCanonical (State.lanewise s op x lat hold f) := by
  unfold State.lanewise
  repeat' first
    | with_reducible assumption
    | with_reducible refine State.issueConst_keeps (fun _ _ _ _ => ?_) ?_
    | with_reducible refine State.slotFor_keeps ?_
    | with_reducible refine State.writeAtIssue_keeps ?_

theorem State.groupwise_keeps {s : State} {op : Nat} {x : Fields} {lat : Nat} {f : Team →   List Thread → List Lane → List (TRef × LaneOut)} (h0 : MemoryCanonical s) : MemoryCanonical (State.groupwise s op x lat f) := by
  unfold State.groupwise
  repeat' first
    | with_reducible assumption
    | with_reducible refine State.issueConst_keeps (fun _ _ _ _ => ?_) ?_
    | with_reducible refine State.slotFor_keeps ?_
    | with_reducible refine State.writeAtIssue_keeps ?_

theorem State.addLater_keeps {s : State} {op : Nat} {lat : Nat} {set : Nat} {handler : Bool} {counted : List TRef} {lanes : List ResultLane} {holds : Option GRef} {stages : List Nat} {raises : Bool} (h0 : MemoryCanonical s) : MemoryCanonical (State.addLater s op lat set handler counted lanes holds stages raises) := by
  unfold State.addLater
  repeat' first
    | with_reducible assumption
    | with_reducible refine State.after_keeps ?_
    | with_reducible refine State.newResult_keeps ?_

theorem State.addAccess_keeps {s : State} {op : Nat} {lat : Nat} {set : Nat} {handler : Bool} {counted : List TRef} {lanes : List ResultLane} {raises : Bool} {logs : List (TRef × Nat)} (h0 : MemoryCanonical s) : MemoryCanonical (State.addAccess s op lat set handler counted lanes raises logs) := by
  unfold State.addAccess
  repeat' first
    | with_reducible assumption
    | with_reducible refine State.after_keeps ?_
    | with_reducible refine State.newResult_keeps ?_
    | simp only [canonical_mk]
    | with_reducible refine memory_of ?_

theorem State.deliver_keeps {s : State} {lat : Nat} {set : Nat} {handler : Bool} {counted : List TRef} {lanes : List ResultLane} {holds : Option GRef} {stages : List Nat} {long : Bool} {raises : Bool} (h0 : MemoryCanonical s) : MemoryCanonical (State.deliver s lat set handler counted lanes holds stages long raises) := by
  unfold State.deliver
  repeat' first
    | with_reducible assumption
    | with_reducible refine State.count_keeps ?_
    | with_reducible refine State.addResult_keeps ?_

theorem State.openWindows_keeps {s : State} {ts : List TRef} {la : Nat} {op : Nat} {d : Nat} {n : Nat} {preds : List (TRef × Bool)} (h0 : MemoryCanonical s) : MemoryCanonical (State.openWindows s ts la op d n preds) := by
  unfold State.openWindows
  repeat' first
    | with_reducible assumption
    | with_reducible refine State.updThreads_keeps ?_
    | split

theorem State.groupLater_keeps {s : State} {op : Nat} {x : Fields} {f : Team →   List Thread → List Lane → Nat × List (TRef × LaneOut)} {stages : Team → List Nat} (h0 : MemoryCanonical s) : MemoryCanonical (State.groupLater s op x f stages) := by
  unfold State.groupLater
  repeat' first
    | with_reducible assumption
    | with_reducible refine State.advance_keeps ?_
    | with_reducible refine State.issueConst_keeps (fun _ _ _ _ => ?_) ?_
    | with_reducible refine State.deliver_keeps ?_
    | with_reducible refine State.openWindows_keeps ?_
    | split

theorem State.lanewiseLater_keeps {s : State} {op : Nat} {x : Fields} {lat : List Lane → Nat} {f : Lane → LaneOut} (h0 : MemoryCanonical s) : MemoryCanonical (State.lanewiseLater s op x lat f) := by
  unfold State.lanewiseLater
  repeat' first
    | with_reducible assumption
    | with_reducible refine State.groupLater_keeps ?_

/-! ### Arith -/

theorem State.integerOp_keeps {s : State} {op : Nat} {x : Fields} {lat : Nat} {latWide : Nat} {hold : Nat} {fn : Int → Int → Int → Int} (h0 : MemoryCanonical s) : MemoryCanonical (State.integerOp s op x lat latWide hold fn) := by
  unfold State.integerOp
  repeat' first
    | with_reducible assumption
    | with_reducible refine State.lanewise_keeps ?_

theorem State.bitsOp_keeps {s : State} {op : Nat} {x : Fields} {fn : Lane → Nat} (h0 : MemoryCanonical s) : MemoryCanonical (State.bitsOp s op x fn) := by
  unfold State.bitsOp
  repeat' first
    | with_reducible assumption
    | with_reducible refine State.lanewise_keeps ?_

theorem State.countOp_keeps {s : State} {op : Nat} {x : Fields} {fn : Nat → Nat} (h0 : MemoryCanonical s) : MemoryCanonical (State.countOp s op x fn) := by
  unfold State.countOp
  repeat' first
    | with_reducible assumption
    | with_reducible refine State.lanewise_keeps ?_

theorem iaddOp_keeps {x : Fields} {s : State} (h0 : MemoryCanonical s) : MemoryCanonical (iaddOp x s) := by
  unfold iaddOp
  repeat' first
    | with_reducible assumption
    | with_reducible refine State.integerOp_keeps ?_

theorem execIaddBase_keeps {d : BitVec 8} {a : BitVec 8} {b : BitVec 7} {s : State} {out} (h0 : MemoryCanonical s) (e : execIaddBase d a b s = .next out) : MemoryCanonical out := by
  unfold execIaddBase at e
  revert e
  repeat' first
    | with_reducible assumption
    | with_reducible refine iaddOp_keeps ?_
    | with_reducible refine next_next ?_
    | (intro e; subst e)

theorem execIaddExtended_keeps {x : Fields} {s : State} {out} (h0 : MemoryCanonical s) (e : execIaddExtended x s = .next out) : MemoryCanonical out := by
  unfold execIaddExtended at e
  revert e
  repeat' first
    | with_reducible assumption
    | with_reducible refine iaddOp_keeps ?_
    | with_reducible refine next_next ?_
    | (intro e; subst e)

theorem isubOp_keeps {x : Fields} {s : State} (h0 : MemoryCanonical s) : MemoryCanonical (isubOp x s) := by
  unfold isubOp
  repeat' first
    | with_reducible assumption
    | with_reducible refine State.integerOp_keeps ?_

theorem execIsubBase_keeps {d : BitVec 8} {a : BitVec 8} {b : BitVec 7} {s : State} {out} (h0 : MemoryCanonical s) (e : execIsubBase d a b s = .next out) : MemoryCanonical out := by
  unfold execIsubBase at e
  revert e
  repeat' first
    | with_reducible assumption
    | with_reducible refine isubOp_keeps ?_
    | with_reducible refine next_next ?_
    | (intro e; subst e)

theorem execIsubExtended_keeps {x : Fields} {s : State} {out} (h0 : MemoryCanonical s) (e : execIsubExtended x s = .next out) : MemoryCanonical out := by
  unfold execIsubExtended at e
  revert e
  repeat' first
    | with_reducible assumption
    | with_reducible refine isubOp_keeps ?_
    | with_reducible refine next_next ?_
    | (intro e; subst e)

theorem imulOp_keeps {x : Fields} {s : State} (h0 : MemoryCanonical s) : MemoryCanonical (imulOp x s) := by
  unfold imulOp
  repeat' first
    | with_reducible assumption
    | with_reducible refine State.integerOp_keeps ?_

theorem execImulBase_keeps {d : BitVec 8} {a : BitVec 8} {b : BitVec 7} {s : State} {out} (h0 : MemoryCanonical s) (e : execImulBase d a b s = .next out) : MemoryCanonical out := by
  unfold execImulBase at e
  revert e
  repeat' first
    | with_reducible assumption
    | with_reducible refine imulOp_keeps ?_
    | with_reducible refine next_next ?_
    | (intro e; subst e)

theorem execImulExtended_keeps {x : Fields} {s : State} {out} (h0 : MemoryCanonical s) (e : execImulExtended x s = .next out) : MemoryCanonical out := by
  unfold execImulExtended at e
  revert e
  repeat' first
    | with_reducible assumption
    | with_reducible refine imulOp_keeps ?_
    | with_reducible refine next_next ?_
    | (intro e; subst e)

theorem imulhOp_keeps {x : Fields} {s : State} (h0 : MemoryCanonical s) : MemoryCanonical (imulhOp x s) := by
  unfold imulhOp
  repeat' first
    | with_reducible assumption
    | with_reducible refine State.integerOp_keeps ?_

theorem execImulhBase_keeps {d : BitVec 8} {a : BitVec 8} {b : BitVec 7} {s : State} {out} (h0 : MemoryCanonical s) (e : execImulhBase d a b s = .next out) : MemoryCanonical out := by
  unfold execImulhBase at e
  revert e
  repeat' first
    | with_reducible assumption
    | with_reducible refine imulhOp_keeps ?_
    | with_reducible refine next_next ?_
    | (intro e; subst e)

theorem execImulhExtended_keeps {x : Fields} {s : State} {out} (h0 : MemoryCanonical s) (e : execImulhExtended x s = .next out) : MemoryCanonical out := by
  unfold execImulhExtended at e
  revert e
  repeat' first
    | with_reducible assumption
    | with_reducible refine imulhOp_keeps ?_
    | with_reducible refine next_next ?_
    | (intro e; subst e)

theorem imadOp_keeps {x : Fields} {s : State} (h0 : MemoryCanonical s) : MemoryCanonical (imadOp x s) := by
  unfold imadOp
  repeat' first
    | with_reducible assumption
    | with_reducible refine State.integerOp_keeps ?_

theorem execImadBase_keeps {d : BitVec 8} {a : BitVec 8} {b : BitVec 7} {s : State} {out} (h0 : MemoryCanonical s) (e : execImadBase d a b s = .next out) : MemoryCanonical out := by
  unfold execImadBase at e
  revert e
  repeat' first
    | with_reducible assumption
    | with_reducible refine imadOp_keeps ?_
    | with_reducible refine next_next ?_
    | (intro e; subst e)

theorem execImadExtended_keeps {x : Fields} {s : State} {out} (h0 : MemoryCanonical s) (e : execImadExtended x s = .next out) : MemoryCanonical out := by
  unfold execImadExtended at e
  revert e
  repeat' first
    | with_reducible assumption
    | with_reducible refine imadOp_keeps ?_
    | with_reducible refine next_next ?_
    | (intro e; subst e)

theorem idivOp_keeps {x : Fields} {s : State} (h0 : MemoryCanonical s) : MemoryCanonical (idivOp x s) := by
  unfold idivOp
  repeat' first
    | with_reducible assumption
    | with_reducible refine State.groupLater_keeps ?_

theorem execIdiv_keeps {x : Fields} {s : State} {out} (h0 : MemoryCanonical s) (e : execIdiv x s = .next out) : MemoryCanonical out := by
  unfold execIdiv at e
  revert e
  repeat' first
    | with_reducible assumption
    | with_reducible refine idivOp_keeps ?_
    | with_reducible refine next_next ?_
    | (intro e; subst e)

theorem iremOp_keeps {x : Fields} {s : State} (h0 : MemoryCanonical s) : MemoryCanonical (iremOp x s) := by
  unfold iremOp
  repeat' first
    | with_reducible assumption
    | with_reducible refine State.groupLater_keeps ?_

theorem execIrem_keeps {x : Fields} {s : State} {out} (h0 : MemoryCanonical s) (e : execIrem x s = .next out) : MemoryCanonical out := by
  unfold execIrem at e
  revert e
  repeat' first
    | with_reducible assumption
    | with_reducible refine iremOp_keeps ?_
    | with_reducible refine next_next ?_
    | (intro e; subst e)

theorem iminOp_keeps {x : Fields} {s : State} (h0 : MemoryCanonical s) : MemoryCanonical (iminOp x s) := by
  unfold iminOp
  repeat' first
    | with_reducible assumption
    | with_reducible refine State.integerOp_keeps ?_

theorem execIminBase_keeps {d : BitVec 8} {a : BitVec 8} {b : BitVec 7} {s : State} {out} (h0 : MemoryCanonical s) (e : execIminBase d a b s = .next out) : MemoryCanonical out := by
  unfold execIminBase at e
  revert e
  repeat' first
    | with_reducible assumption
    | with_reducible refine iminOp_keeps ?_
    | with_reducible refine next_next ?_
    | (intro e; subst e)

theorem execIminExtended_keeps {x : Fields} {s : State} {out} (h0 : MemoryCanonical s) (e : execIminExtended x s = .next out) : MemoryCanonical out := by
  unfold execIminExtended at e
  revert e
  repeat' first
    | with_reducible assumption
    | with_reducible refine iminOp_keeps ?_
    | with_reducible refine next_next ?_
    | (intro e; subst e)

theorem imaxOp_keeps {x : Fields} {s : State} (h0 : MemoryCanonical s) : MemoryCanonical (imaxOp x s) := by
  unfold imaxOp
  repeat' first
    | with_reducible assumption
    | with_reducible refine State.integerOp_keeps ?_

theorem execImaxBase_keeps {d : BitVec 8} {a : BitVec 8} {b : BitVec 7} {s : State} {out} (h0 : MemoryCanonical s) (e : execImaxBase d a b s = .next out) : MemoryCanonical out := by
  unfold execImaxBase at e
  revert e
  repeat' first
    | with_reducible assumption
    | with_reducible refine imaxOp_keeps ?_
    | with_reducible refine next_next ?_
    | (intro e; subst e)

theorem execImaxExtended_keeps {x : Fields} {s : State} {out} (h0 : MemoryCanonical s) (e : execImaxExtended x s = .next out) : MemoryCanonical out := by
  unfold execImaxExtended at e
  revert e
  repeat' first
    | with_reducible assumption
    | with_reducible refine imaxOp_keeps ?_
    | with_reducible refine next_next ?_
    | (intro e; subst e)

theorem iabsOp_keeps {x : Fields} {s : State} (h0 : MemoryCanonical s) : MemoryCanonical (iabsOp x s) := by
  unfold iabsOp
  repeat' first
    | with_reducible assumption
    | with_reducible refine State.integerOp_keeps ?_

theorem execIabsBase_keeps {d : BitVec 8} {a : BitVec 8} {s : State} {out} (h0 : MemoryCanonical s) (e : execIabsBase d a s = .next out) : MemoryCanonical out := by
  unfold execIabsBase at e
  revert e
  repeat' first
    | with_reducible assumption
    | with_reducible refine iabsOp_keeps ?_
    | with_reducible refine next_next ?_
    | (intro e; subst e)

theorem execIabsExtended_keeps {x : Fields} {s : State} {out} (h0 : MemoryCanonical s) (e : execIabsExtended x s = .next out) : MemoryCanonical out := by
  unfold execIabsExtended at e
  revert e
  repeat' first
    | with_reducible assumption
    | with_reducible refine iabsOp_keeps ?_
    | with_reducible refine next_next ?_
    | (intro e; subst e)

theorem inegOp_keeps {x : Fields} {s : State} (h0 : MemoryCanonical s) : MemoryCanonical (inegOp x s) := by
  unfold inegOp
  repeat' first
    | with_reducible assumption
    | with_reducible refine State.integerOp_keeps ?_

theorem execInegBase_keeps {d : BitVec 8} {a : BitVec 8} {s : State} {out} (h0 : MemoryCanonical s) (e : execInegBase d a s = .next out) : MemoryCanonical out := by
  unfold execInegBase at e
  revert e
  repeat' first
    | with_reducible assumption
    | with_reducible refine inegOp_keeps ?_
    | with_reducible refine next_next ?_
    | (intro e; subst e)

theorem execInegExtended_keeps {x : Fields} {s : State} {out} (h0 : MemoryCanonical s) (e : execInegExtended x s = .next out) : MemoryCanonical out := by
  unfold execInegExtended at e
  revert e
  repeat' first
    | with_reducible assumption
    | with_reducible refine inegOp_keeps ?_
    | with_reducible refine next_next ?_
    | (intro e; subst e)

theorem icmpOp_keeps {x : Fields} {s : State} (h0 : MemoryCanonical s) : MemoryCanonical (icmpOp x s) := by
  unfold icmpOp
  repeat' first
    | with_reducible assumption
    | with_reducible refine State.lanewise_keeps ?_

theorem execIcmp_keeps {x : Fields} {s : State} {out} (h0 : MemoryCanonical s) (e : execIcmp x s = .next out) : MemoryCanonical out := by
  unfold execIcmp at e
  revert e
  repeat' first
    | with_reducible assumption
    | with_reducible refine icmpOp_keeps ?_
    | with_reducible refine next_next ?_
    | (intro e; subst e)

theorem iselOp_keeps {x : Fields} {s : State} (h0 : MemoryCanonical s) : MemoryCanonical (iselOp x s) := by
  unfold iselOp
  repeat' first
    | with_reducible assumption
    | with_reducible refine State.lanewise_keeps ?_

theorem execIsel_keeps {x : Fields} {s : State} {out} (h0 : MemoryCanonical s) (e : execIsel x s = .next out) : MemoryCanonical out := by
  unfold execIsel at e
  revert e
  repeat' first
    | with_reducible assumption
    | with_reducible refine iselOp_keeps ?_
    | with_reducible refine next_next ?_
    | (intro e; subst e)

theorem addminOp_keeps {x : Fields} {s : State} (h0 : MemoryCanonical s) : MemoryCanonical (addminOp x s) := by
  unfold addminOp
  repeat' first
    | with_reducible assumption
    | with_reducible refine State.integerOp_keeps ?_

theorem execAddminBase_keeps {d : BitVec 8} {a : BitVec 8} {b : BitVec 7} {s : State} {out} (h0 : MemoryCanonical s) (e : execAddminBase d a b s = .next out) : MemoryCanonical out := by
  unfold execAddminBase at e
  revert e
  repeat' first
    | with_reducible assumption
    | with_reducible refine addminOp_keeps ?_
    | with_reducible refine next_next ?_
    | (intro e; subst e)

theorem execAddminExtended_keeps {x : Fields} {s : State} {out} (h0 : MemoryCanonical s) (e : execAddminExtended x s = .next out) : MemoryCanonical out := by
  unfold execAddminExtended at e
  revert e
  repeat' first
    | with_reducible assumption
    | with_reducible refine addminOp_keeps ?_
    | with_reducible refine next_next ?_
    | (intro e; subst e)

theorem leaOp_keeps {x : Fields} {s : State} (h0 : MemoryCanonical s) : MemoryCanonical (leaOp x s) := by
  unfold leaOp
  repeat' first
    | with_reducible assumption
    | with_reducible refine State.lanewise_keeps ?_

theorem execLeaBase_keeps {d : BitVec 8} {a : BitVec 8} {b : BitVec 7} {s : State} {out} (h0 : MemoryCanonical s) (e : execLeaBase d a b s = .next out) : MemoryCanonical out := by
  unfold execLeaBase at e
  revert e
  repeat' first
    | with_reducible assumption
    | with_reducible refine leaOp_keeps ?_
    | with_reducible refine next_next ?_
    | (intro e; subst e)

theorem execLeaExtended_keeps {x : Fields} {s : State} {out} (h0 : MemoryCanonical s) (e : execLeaExtended x s = .next out) : MemoryCanonical out := by
  unfold execLeaExtended at e
  revert e
  repeat' first
    | with_reducible assumption
    | with_reducible refine leaOp_keeps ?_
    | with_reducible refine next_next ?_
    | (intro e; subst e)

theorem andOp_keeps {x : Fields} {s : State} (h0 : MemoryCanonical s) : MemoryCanonical (andOp x s) := by
  unfold andOp
  repeat' first
    | with_reducible assumption
    | with_reducible refine State.bitsOp_keeps ?_

theorem execAndBase_keeps {d : BitVec 8} {a : BitVec 8} {b : BitVec 7} {s : State} {out} (h0 : MemoryCanonical s) (e : execAndBase d a b s = .next out) : MemoryCanonical out := by
  unfold execAndBase at e
  revert e
  repeat' first
    | with_reducible assumption
    | with_reducible refine andOp_keeps ?_
    | with_reducible refine next_next ?_
    | (intro e; subst e)

theorem execAndExtended_keeps {x : Fields} {s : State} {out} (h0 : MemoryCanonical s) (e : execAndExtended x s = .next out) : MemoryCanonical out := by
  unfold execAndExtended at e
  revert e
  repeat' first
    | with_reducible assumption
    | with_reducible refine andOp_keeps ?_
    | with_reducible refine next_next ?_
    | (intro e; subst e)

theorem orOp_keeps {x : Fields} {s : State} (h0 : MemoryCanonical s) : MemoryCanonical (orOp x s) := by
  unfold orOp
  repeat' first
    | with_reducible assumption
    | with_reducible refine State.bitsOp_keeps ?_

theorem execOrBase_keeps {d : BitVec 8} {a : BitVec 8} {b : BitVec 7} {s : State} {out} (h0 : MemoryCanonical s) (e : execOrBase d a b s = .next out) : MemoryCanonical out := by
  unfold execOrBase at e
  revert e
  repeat' first
    | with_reducible assumption
    | with_reducible refine orOp_keeps ?_
    | with_reducible refine next_next ?_
    | (intro e; subst e)

theorem execOrExtended_keeps {x : Fields} {s : State} {out} (h0 : MemoryCanonical s) (e : execOrExtended x s = .next out) : MemoryCanonical out := by
  unfold execOrExtended at e
  revert e
  repeat' first
    | with_reducible assumption
    | with_reducible refine orOp_keeps ?_
    | with_reducible refine next_next ?_
    | (intro e; subst e)

theorem xorOp_keeps {x : Fields} {s : State} (h0 : MemoryCanonical s) : MemoryCanonical (xorOp x s) := by
  unfold xorOp
  repeat' first
    | with_reducible assumption
    | with_reducible refine State.bitsOp_keeps ?_

theorem execXorBase_keeps {d : BitVec 8} {a : BitVec 8} {b : BitVec 7} {s : State} {out} (h0 : MemoryCanonical s) (e : execXorBase d a b s = .next out) : MemoryCanonical out := by
  unfold execXorBase at e
  revert e
  repeat' first
    | with_reducible assumption
    | with_reducible refine xorOp_keeps ?_
    | with_reducible refine next_next ?_
    | (intro e; subst e)

theorem execXorExtended_keeps {x : Fields} {s : State} {out} (h0 : MemoryCanonical s) (e : execXorExtended x s = .next out) : MemoryCanonical out := by
  unfold execXorExtended at e
  revert e
  repeat' first
    | with_reducible assumption
    | with_reducible refine xorOp_keeps ?_
    | with_reducible refine next_next ?_
    | (intro e; subst e)

theorem andnOp_keeps {x : Fields} {s : State} (h0 : MemoryCanonical s) : MemoryCanonical (andnOp x s) := by
  unfold andnOp
  repeat' first
    | with_reducible assumption
    | with_reducible refine State.bitsOp_keeps ?_

theorem execAndnBase_keeps {d : BitVec 8} {a : BitVec 8} {b : BitVec 7} {s : State} {out} (h0 : MemoryCanonical s) (e : execAndnBase d a b s = .next out) : MemoryCanonical out := by
  unfold execAndnBase at e
  revert e
  repeat' first
    | with_reducible assumption
    | with_reducible refine andnOp_keeps ?_
    | with_reducible refine next_next ?_
    | (intro e; subst e)

theorem execAndnExtended_keeps {x : Fields} {s : State} {out} (h0 : MemoryCanonical s) (e : execAndnExtended x s = .next out) : MemoryCanonical out := by
  unfold execAndnExtended at e
  revert e
  repeat' first
    | with_reducible assumption
    | with_reducible refine andnOp_keeps ?_
    | with_reducible refine next_next ?_
    | (intro e; subst e)

theorem shlOp_keeps {x : Fields} {s : State} (h0 : MemoryCanonical s) : MemoryCanonical (shlOp x s) := by
  unfold shlOp
  repeat' first
    | with_reducible assumption
    | with_reducible refine State.bitsOp_keeps ?_

theorem execShlBase_keeps {d : BitVec 8} {a : BitVec 8} {b : BitVec 7} {s : State} {out} (h0 : MemoryCanonical s) (e : execShlBase d a b s = .next out) : MemoryCanonical out := by
  unfold execShlBase at e
  revert e
  repeat' first
    | with_reducible assumption
    | with_reducible refine shlOp_keeps ?_
    | with_reducible refine next_next ?_
    | (intro e; subst e)

theorem execShlExtended_keeps {x : Fields} {s : State} {out} (h0 : MemoryCanonical s) (e : execShlExtended x s = .next out) : MemoryCanonical out := by
  unfold execShlExtended at e
  revert e
  repeat' first
    | with_reducible assumption
    | with_reducible refine shlOp_keeps ?_
    | with_reducible refine next_next ?_
    | (intro e; subst e)

theorem shrOp_keeps {x : Fields} {s : State} (h0 : MemoryCanonical s) : MemoryCanonical (shrOp x s) := by
  unfold shrOp
  repeat' first
    | with_reducible assumption
    | with_reducible refine State.bitsOp_keeps ?_

theorem execShrBase_keeps {d : BitVec 8} {a : BitVec 8} {b : BitVec 7} {s : State} {out} (h0 : MemoryCanonical s) (e : execShrBase d a b s = .next out) : MemoryCanonical out := by
  unfold execShrBase at e
  revert e
  repeat' first
    | with_reducible assumption
    | with_reducible refine shrOp_keeps ?_
    | with_reducible refine next_next ?_
    | (intro e; subst e)

theorem execShrExtended_keeps {x : Fields} {s : State} {out} (h0 : MemoryCanonical s) (e : execShrExtended x s = .next out) : MemoryCanonical out := by
  unfold execShrExtended at e
  revert e
  repeat' first
    | with_reducible assumption
    | with_reducible refine shrOp_keeps ?_
    | with_reducible refine next_next ?_
    | (intro e; subst e)

theorem sraOp_keeps {x : Fields} {s : State} (h0 : MemoryCanonical s) : MemoryCanonical (sraOp x s) := by
  unfold sraOp
  repeat' first
    | with_reducible assumption
    | with_reducible refine State.bitsOp_keeps ?_

theorem execSraBase_keeps {d : BitVec 8} {a : BitVec 8} {b : BitVec 7} {s : State} {out} (h0 : MemoryCanonical s) (e : execSraBase d a b s = .next out) : MemoryCanonical out := by
  unfold execSraBase at e
  revert e
  repeat' first
    | with_reducible assumption
    | with_reducible refine sraOp_keeps ?_
    | with_reducible refine next_next ?_
    | (intro e; subst e)

theorem execSraExtended_keeps {x : Fields} {s : State} {out} (h0 : MemoryCanonical s) (e : execSraExtended x s = .next out) : MemoryCanonical out := by
  unfold execSraExtended at e
  revert e
  repeat' first
    | with_reducible assumption
    | with_reducible refine sraOp_keeps ?_
    | with_reducible refine next_next ?_
    | (intro e; subst e)

theorem rotOp_keeps {x : Fields} {s : State} (h0 : MemoryCanonical s) : MemoryCanonical (rotOp x s) := by
  unfold rotOp
  repeat' first
    | with_reducible assumption
    | with_reducible refine State.bitsOp_keeps ?_

theorem execRotBase_keeps {d : BitVec 8} {a : BitVec 8} {b : BitVec 7} {s : State} {out} (h0 : MemoryCanonical s) (e : execRotBase d a b s = .next out) : MemoryCanonical out := by
  unfold execRotBase at e
  revert e
  repeat' first
    | with_reducible assumption
    | with_reducible refine rotOp_keeps ?_
    | with_reducible refine next_next ?_
    | (intro e; subst e)

theorem execRotExtended_keeps {x : Fields} {s : State} {out} (h0 : MemoryCanonical s) (e : execRotExtended x s = .next out) : MemoryCanonical out := by
  unfold execRotExtended at e
  revert e
  repeat' first
    | with_reducible assumption
    | with_reducible refine rotOp_keeps ?_
    | with_reducible refine next_next ?_
    | (intro e; subst e)

theorem bfxOp_keeps {x : Fields} {s : State} (h0 : MemoryCanonical s) : MemoryCanonical (bfxOp x s) := by
  unfold bfxOp
  repeat' first
    | with_reducible assumption
    | with_reducible refine State.bitsOp_keeps ?_

theorem execBfxBase_keeps {d : BitVec 8} {a : BitVec 8} {b : BitVec 7} {s : State} {out} (h0 : MemoryCanonical s) (e : execBfxBase d a b s = .next out) : MemoryCanonical out := by
  unfold execBfxBase at e
  revert e
  repeat' first
    | with_reducible assumption
    | with_reducible refine bfxOp_keeps ?_
    | with_reducible refine next_next ?_
    | (intro e; subst e)

theorem execBfxExtended_keeps {x : Fields} {s : State} {out} (h0 : MemoryCanonical s) (e : execBfxExtended x s = .next out) : MemoryCanonical out := by
  unfold execBfxExtended at e
  revert e
  repeat' first
    | with_reducible assumption
    | with_reducible refine bfxOp_keeps ?_
    | with_reducible refine next_next ?_
    | (intro e; subst e)

theorem bfiOp_keeps {x : Fields} {s : State} (h0 : MemoryCanonical s) : MemoryCanonical (bfiOp x s) := by
  unfold bfiOp
  repeat' first
    | with_reducible assumption
    | with_reducible refine State.bitsOp_keeps ?_

theorem execBfiBase_keeps {d : BitVec 8} {a : BitVec 8} {b : BitVec 7} {s : State} {out} (h0 : MemoryCanonical s) (e : execBfiBase d a b s = .next out) : MemoryCanonical out := by
  unfold execBfiBase at e
  revert e
  repeat' first
    | with_reducible assumption
    | with_reducible refine bfiOp_keeps ?_
    | with_reducible refine next_next ?_
    | (intro e; subst e)

theorem execBfiExtended_keeps {x : Fields} {s : State} {out} (h0 : MemoryCanonical s) (e : execBfiExtended x s = .next out) : MemoryCanonical out := by
  unfold execBfiExtended at e
  revert e
  repeat' first
    | with_reducible assumption
    | with_reducible refine bfiOp_keeps ?_
    | with_reducible refine next_next ?_
    | (intro e; subst e)

theorem popcOp_keeps {x : Fields} {s : State} (h0 : MemoryCanonical s) : MemoryCanonical (popcOp x s) := by
  unfold popcOp
  repeat' first
    | with_reducible assumption
    | with_reducible refine State.countOp_keeps ?_

theorem execPopcBase_keeps {d : BitVec 8} {a : BitVec 8} {s : State} {out} (h0 : MemoryCanonical s) (e : execPopcBase d a s = .next out) : MemoryCanonical out := by
  unfold execPopcBase at e
  revert e
  repeat' first
    | with_reducible assumption
    | with_reducible refine popcOp_keeps ?_
    | with_reducible refine next_next ?_
    | (intro e; subst e)

theorem execPopcExtended_keeps {x : Fields} {s : State} {out} (h0 : MemoryCanonical s) (e : execPopcExtended x s = .next out) : MemoryCanonical out := by
  unfold execPopcExtended at e
  revert e
  repeat' first
    | with_reducible assumption
    | with_reducible refine popcOp_keeps ?_
    | with_reducible refine next_next ?_
    | (intro e; subst e)

theorem clzOp_keeps {x : Fields} {s : State} (h0 : MemoryCanonical s) : MemoryCanonical (clzOp x s) := by
  unfold clzOp
  repeat' first
    | with_reducible assumption
    | with_reducible refine State.countOp_keeps ?_

theorem execClzBase_keeps {d : BitVec 8} {a : BitVec 8} {s : State} {out} (h0 : MemoryCanonical s) (e : execClzBase d a s = .next out) : MemoryCanonical out := by
  unfold execClzBase at e
  revert e
  repeat' first
    | with_reducible assumption
    | with_reducible refine clzOp_keeps ?_
    | with_reducible refine next_next ?_
    | (intro e; subst e)

theorem execClzExtended_keeps {x : Fields} {s : State} {out} (h0 : MemoryCanonical s) (e : execClzExtended x s = .next out) : MemoryCanonical out := by
  unfold execClzExtended at e
  revert e
  repeat' first
    | with_reducible assumption
    | with_reducible refine clzOp_keeps ?_
    | with_reducible refine next_next ?_
    | (intro e; subst e)

theorem brevOp_keeps {x : Fields} {s : State} (h0 : MemoryCanonical s) : MemoryCanonical (brevOp x s) := by
  unfold brevOp
  repeat' first
    | with_reducible assumption
    | with_reducible refine State.bitsOp_keeps ?_

theorem execBrevBase_keeps {d : BitVec 8} {a : BitVec 8} {s : State} {out} (h0 : MemoryCanonical s) (e : execBrevBase d a s = .next out) : MemoryCanonical out := by
  unfold execBrevBase at e
  revert e
  repeat' first
    | with_reducible assumption
    | with_reducible refine brevOp_keeps ?_
    | with_reducible refine next_next ?_
    | (intro e; subst e)

theorem execBrevExtended_keeps {x : Fields} {s : State} {out} (h0 : MemoryCanonical s) (e : execBrevExtended x s = .next out) : MemoryCanonical out := by
  unfold execBrevExtended at e
  revert e
  repeat' first
    | with_reducible assumption
    | with_reducible refine brevOp_keeps ?_
    | with_reducible refine next_next ?_
    | (intro e; subst e)

theorem bpermOp_keeps {x : Fields} {s : State} (h0 : MemoryCanonical s) : MemoryCanonical (bpermOp x s) := by
  unfold bpermOp
  repeat' first
    | with_reducible assumption
    | with_reducible refine State.bitsOp_keeps ?_

theorem execBpermBase_keeps {d : BitVec 8} {a : BitVec 8} {b : BitVec 7} {s : State} {out} (h0 : MemoryCanonical s) (e : execBpermBase d a b s = .next out) : MemoryCanonical out := by
  unfold execBpermBase at e
  revert e
  repeat' first
    | with_reducible assumption
    | with_reducible refine bpermOp_keeps ?_
    | with_reducible refine next_next ?_
    | (intro e; subst e)

theorem execBpermExtended_keeps {x : Fields} {s : State} {out} (h0 : MemoryCanonical s) (e : execBpermExtended x s = .next out) : MemoryCanonical out := by
  unfold execBpermExtended at e
  revert e
  repeat' first
    | with_reducible assumption
    | with_reducible refine bpermOp_keeps ?_
    | with_reducible refine next_next ?_
    | (intro e; subst e)

theorem bool3Op_keeps {x : Fields} {s : State} (h0 : MemoryCanonical s) : MemoryCanonical (bool3Op x s) := by
  unfold bool3Op
  repeat' first
    | with_reducible assumption
    | with_reducible refine State.bitsOp_keeps ?_

theorem execBool3_keeps {x : Fields} {s : State} {out} (h0 : MemoryCanonical s) (e : execBool3 x s = .next out) : MemoryCanonical out := by
  unfold execBool3 at e
  revert e
  repeat' first
    | with_reducible assumption
    | with_reducible refine bool3Op_keeps ?_
    | with_reducible refine next_next ?_
    | (intro e; subst e)

theorem movOp_keeps {x : Fields} {s : State} (h0 : MemoryCanonical s) : MemoryCanonical (movOp x s) := by
  unfold movOp
  repeat' first
    | with_reducible assumption
    | with_reducible refine State.bitsOp_keeps ?_

theorem execMovBase_keeps {d : BitVec 8} {b : BitVec 7} {s : State} {out} (h0 : MemoryCanonical s) (e : execMovBase d b s = .next out) : MemoryCanonical out := by
  unfold execMovBase at e
  revert e
  repeat' first
    | with_reducible assumption
    | with_reducible refine movOp_keeps ?_
    | with_reducible refine next_next ?_
    | (intro e; subst e)

theorem execMovExtended_keeps {x : Fields} {s : State} {out} (h0 : MemoryCanonical s) (e : execMovExtended x s = .next out) : MemoryCanonical out := by
  unfold execMovExtended at e
  revert e
  repeat' first
    | with_reducible assumption
    | with_reducible refine movOp_keeps ?_
    | with_reducible refine next_next ?_
    | (intro e; subst e)

/-! ### Ieee -/

theorem State.ieeeOp_keeps {s : State} {op : Nat} {x : Fields} {lat : Nat} {fn : Fmt → Lane → Rounded} (h0 : MemoryCanonical s) : MemoryCanonical (State.ieeeOp s op x lat fn) := by
  unfold State.ieeeOp
  repeat' first
    | with_reducible assumption
    | with_reducible refine State.lanewise_keeps ?_

theorem State.divideOp_keeps {s : State} {op : Nat} {x : Fields} {fn : Fmt → Lane → Rounded} (h0 : MemoryCanonical s) : MemoryCanonical (State.divideOp s op x fn) := by
  unfold State.divideOp
  repeat' first
    | with_reducible assumption
    | with_reducible refine State.groupLater_keeps ?_

theorem faddOp_keeps {x : Fields} {s : State} (h0 : MemoryCanonical s) : MemoryCanonical (faddOp x s) := by
  unfold faddOp
  repeat' first
    | with_reducible assumption
    | with_reducible refine State.ieeeOp_keeps ?_

theorem execFaddBase_keeps {d : BitVec 8} {a : BitVec 8} {b : BitVec 7} {s : State} {out} (h0 : MemoryCanonical s) (e : execFaddBase d a b s = .next out) : MemoryCanonical out := by
  unfold execFaddBase at e
  revert e
  repeat' first
    | with_reducible assumption
    | with_reducible refine faddOp_keeps ?_
    | with_reducible refine next_next ?_
    | (intro e; subst e)

theorem execFaddExtended_keeps {x : Fields} {s : State} {out} (h0 : MemoryCanonical s) (e : execFaddExtended x s = .next out) : MemoryCanonical out := by
  unfold execFaddExtended at e
  revert e
  repeat' first
    | with_reducible assumption
    | with_reducible refine faddOp_keeps ?_
    | with_reducible refine next_next ?_
    | (intro e; subst e)

theorem fsubOp_keeps {x : Fields} {s : State} (h0 : MemoryCanonical s) : MemoryCanonical (fsubOp x s) := by
  unfold fsubOp
  repeat' first
    | with_reducible assumption
    | with_reducible refine State.ieeeOp_keeps ?_

theorem execFsubBase_keeps {d : BitVec 8} {a : BitVec 8} {b : BitVec 7} {s : State} {out} (h0 : MemoryCanonical s) (e : execFsubBase d a b s = .next out) : MemoryCanonical out := by
  unfold execFsubBase at e
  revert e
  repeat' first
    | with_reducible assumption
    | with_reducible refine fsubOp_keeps ?_
    | with_reducible refine next_next ?_
    | (intro e; subst e)

theorem execFsubExtended_keeps {x : Fields} {s : State} {out} (h0 : MemoryCanonical s) (e : execFsubExtended x s = .next out) : MemoryCanonical out := by
  unfold execFsubExtended at e
  revert e
  repeat' first
    | with_reducible assumption
    | with_reducible refine fsubOp_keeps ?_
    | with_reducible refine next_next ?_
    | (intro e; subst e)

theorem fmulOp_keeps {x : Fields} {s : State} (h0 : MemoryCanonical s) : MemoryCanonical (fmulOp x s) := by
  unfold fmulOp
  repeat' first
    | with_reducible assumption
    | with_reducible refine State.ieeeOp_keeps ?_

theorem execFmulBase_keeps {d : BitVec 8} {a : BitVec 8} {b : BitVec 7} {s : State} {out} (h0 : MemoryCanonical s) (e : execFmulBase d a b s = .next out) : MemoryCanonical out := by
  unfold execFmulBase at e
  revert e
  repeat' first
    | with_reducible assumption
    | with_reducible refine fmulOp_keeps ?_
    | with_reducible refine next_next ?_
    | (intro e; subst e)

theorem execFmulExtended_keeps {x : Fields} {s : State} {out} (h0 : MemoryCanonical s) (e : execFmulExtended x s = .next out) : MemoryCanonical out := by
  unfold execFmulExtended at e
  revert e
  repeat' first
    | with_reducible assumption
    | with_reducible refine fmulOp_keeps ?_
    | with_reducible refine next_next ?_
    | (intro e; subst e)

theorem ffmaOp_keeps {x : Fields} {s : State} (h0 : MemoryCanonical s) : MemoryCanonical (ffmaOp x s) := by
  unfold ffmaOp
  repeat' first
    | with_reducible assumption
    | with_reducible refine State.ieeeOp_keeps ?_

theorem execFfmaBase_keeps {d : BitVec 8} {a : BitVec 8} {b : BitVec 7} {s : State} {out} (h0 : MemoryCanonical s) (e : execFfmaBase d a b s = .next out) : MemoryCanonical out := by
  unfold execFfmaBase at e
  revert e
  repeat' first
    | with_reducible assumption
    | with_reducible refine ffmaOp_keeps ?_
    | with_reducible refine next_next ?_
    | (intro e; subst e)

theorem execFfmaExtended_keeps {x : Fields} {s : State} {out} (h0 : MemoryCanonical s) (e : execFfmaExtended x s = .next out) : MemoryCanonical out := by
  unfold execFfmaExtended at e
  revert e
  repeat' first
    | with_reducible assumption
    | with_reducible refine ffmaOp_keeps ?_
    | with_reducible refine next_next ?_
    | (intro e; subst e)

theorem fminOp_keeps {x : Fields} {s : State} (h0 : MemoryCanonical s) : MemoryCanonical (fminOp x s) := by
  unfold fminOp
  repeat' first
    | with_reducible assumption
    | with_reducible refine State.lanewise_keeps ?_

theorem execFminBase_keeps {d : BitVec 8} {a : BitVec 8} {b : BitVec 7} {s : State} {out} (h0 : MemoryCanonical s) (e : execFminBase d a b s = .next out) : MemoryCanonical out := by
  unfold execFminBase at e
  revert e
  repeat' first
    | with_reducible assumption
    | with_reducible refine fminOp_keeps ?_
    | with_reducible refine next_next ?_
    | (intro e; subst e)

theorem execFminExtended_keeps {x : Fields} {s : State} {out} (h0 : MemoryCanonical s) (e : execFminExtended x s = .next out) : MemoryCanonical out := by
  unfold execFminExtended at e
  revert e
  repeat' first
    | with_reducible assumption
    | with_reducible refine fminOp_keeps ?_
    | with_reducible refine next_next ?_
    | (intro e; subst e)

theorem fmaxOp_keeps {x : Fields} {s : State} (h0 : MemoryCanonical s) : MemoryCanonical (fmaxOp x s) := by
  unfold fmaxOp
  repeat' first
    | with_reducible assumption
    | with_reducible refine State.lanewise_keeps ?_

theorem execFmaxBase_keeps {d : BitVec 8} {a : BitVec 8} {b : BitVec 7} {s : State} {out} (h0 : MemoryCanonical s) (e : execFmaxBase d a b s = .next out) : MemoryCanonical out := by
  unfold execFmaxBase at e
  revert e
  repeat' first
    | with_reducible assumption
    | with_reducible refine fmaxOp_keeps ?_
    | with_reducible refine next_next ?_
    | (intro e; subst e)

theorem execFmaxExtended_keeps {x : Fields} {s : State} {out} (h0 : MemoryCanonical s) (e : execFmaxExtended x s = .next out) : MemoryCanonical out := by
  unfold execFmaxExtended at e
  revert e
  repeat' first
    | with_reducible assumption
    | with_reducible refine fmaxOp_keeps ?_
    | with_reducible refine next_next ?_
    | (intro e; subst e)

theorem fcmpOp_keeps {x : Fields} {s : State} (h0 : MemoryCanonical s) : MemoryCanonical (fcmpOp x s) := by
  unfold fcmpOp
  repeat' first
    | with_reducible assumption
    | with_reducible refine State.lanewise_keeps ?_

theorem execFcmp_keeps {x : Fields} {s : State} {out} (h0 : MemoryCanonical s) (e : execFcmp x s = .next out) : MemoryCanonical out := by
  unfold execFcmp at e
  revert e
  repeat' first
    | with_reducible assumption
    | with_reducible refine fcmpOp_keeps ?_
    | with_reducible refine next_next ?_
    | (intro e; subst e)

theorem fdivOp_keeps {x : Fields} {s : State} (h0 : MemoryCanonical s) : MemoryCanonical (fdivOp x s) := by
  unfold fdivOp
  repeat' first
    | with_reducible assumption
    | with_reducible refine State.divideOp_keeps ?_

theorem execFdiv_keeps {x : Fields} {s : State} {out} (h0 : MemoryCanonical s) (e : execFdiv x s = .next out) : MemoryCanonical out := by
  unfold execFdiv at e
  revert e
  repeat' first
    | with_reducible assumption
    | with_reducible refine fdivOp_keeps ?_
    | with_reducible refine next_next ?_
    | (intro e; subst e)

theorem fsqrtOp_keeps {x : Fields} {s : State} (h0 : MemoryCanonical s) : MemoryCanonical (fsqrtOp x s) := by
  unfold fsqrtOp
  repeat' first
    | with_reducible assumption
    | with_reducible refine State.divideOp_keeps ?_

theorem execFsqrt_keeps {x : Fields} {s : State} {out} (h0 : MemoryCanonical s) (e : execFsqrt x s = .next out) : MemoryCanonical out := by
  unfold execFsqrt at e
  revert e
  repeat' first
    | with_reducible assumption
    | with_reducible refine fsqrtOp_keeps ?_
    | with_reducible refine next_next ?_
    | (intro e; subst e)

theorem frndOp_keeps {x : Fields} {s : State} (h0 : MemoryCanonical s) : MemoryCanonical (frndOp x s) := by
  unfold frndOp
  repeat' first
    | with_reducible assumption
    | with_reducible refine State.ieeeOp_keeps ?_

theorem execFrndBase_keeps {d : BitVec 8} {a : BitVec 8} {s : State} {out} (h0 : MemoryCanonical s) (e : execFrndBase d a s = .next out) : MemoryCanonical out := by
  unfold execFrndBase at e
  revert e
  repeat' first
    | with_reducible assumption
    | with_reducible refine frndOp_keeps ?_
    | with_reducible refine next_next ?_
    | (intro e; subst e)

theorem execFrndExtended_keeps {x : Fields} {s : State} {out} (h0 : MemoryCanonical s) (e : execFrndExtended x s = .next out) : MemoryCanonical out := by
  unfold execFrndExtended at e
  revert e
  repeat' first
    | with_reducible assumption
    | with_reducible refine frndOp_keeps ?_
    | with_reducible refine next_next ?_
    | (intro e; subst e)

theorem fclassOp_keeps {x : Fields} {s : State} (h0 : MemoryCanonical s) : MemoryCanonical (fclassOp x s) := by
  unfold fclassOp
  repeat' first
    | with_reducible assumption
    | with_reducible refine State.lanewise_keeps ?_

theorem execFclassBase_keeps {d : BitVec 8} {a : BitVec 8} {s : State} {out} (h0 : MemoryCanonical s) (e : execFclassBase d a s = .next out) : MemoryCanonical out := by
  unfold execFclassBase at e
  revert e
  repeat' first
    | with_reducible assumption
    | with_reducible refine fclassOp_keeps ?_
    | with_reducible refine next_next ?_
    | (intro e; subst e)

theorem execFclassExtended_keeps {x : Fields} {s : State} {out} (h0 : MemoryCanonical s) (e : execFclassExtended x s = .next out) : MemoryCanonical out := by
  unfold execFclassExtended at e
  revert e
  repeat' first
    | with_reducible assumption
    | with_reducible refine fclassOp_keeps ?_
    | with_reducible refine next_next ?_
    | (intro e; subst e)

theorem fscaleOp_keeps {x : Fields} {s : State} (h0 : MemoryCanonical s) : MemoryCanonical (fscaleOp x s) := by
  unfold fscaleOp
  repeat' first
    | with_reducible assumption
    | with_reducible refine State.ieeeOp_keeps ?_

theorem execFscaleBase_keeps {d : BitVec 8} {a : BitVec 8} {b : BitVec 7} {s : State} {out} (h0 : MemoryCanonical s) (e : execFscaleBase d a b s = .next out) : MemoryCanonical out := by
  unfold execFscaleBase at e
  revert e
  repeat' first
    | with_reducible assumption
    | with_reducible refine fscaleOp_keeps ?_
    | with_reducible refine next_next ?_
    | (intro e; subst e)

theorem execFscaleExtended_keeps {x : Fields} {s : State} {out} (h0 : MemoryCanonical s) (e : execFscaleExtended x s = .next out) : MemoryCanonical out := by
  unfold execFscaleExtended at e
  revert e
  repeat' first
    | with_reducible assumption
    | with_reducible refine fscaleOp_keeps ?_
    | with_reducible refine next_next ?_
    | (intro e; subst e)

theorem fdot2Op_keeps {x : Fields} {s : State} (h0 : MemoryCanonical s) : MemoryCanonical (fdot2Op x s) := by
  unfold fdot2Op
  repeat' first
    | with_reducible assumption
    | with_reducible refine State.ieeeOp_keeps ?_

theorem execFdot2Base_keeps {d : BitVec 8} {a : BitVec 8} {b : BitVec 7} {s : State} {out} (h0 : MemoryCanonical s) (e : execFdot2Base d a b s = .next out) : MemoryCanonical out := by
  unfold execFdot2Base at e
  revert e
  repeat' first
    | with_reducible assumption
    | with_reducible refine fdot2Op_keeps ?_
    | with_reducible refine next_next ?_
    | (intro e; subst e)

theorem execFdot2Extended_keeps {x : Fields} {s : State} {out} (h0 : MemoryCanonical s) (e : execFdot2Extended x s = .next out) : MemoryCanonical out := by
  unfold execFdot2Extended at e
  revert e
  repeat' first
    | with_reducible assumption
    | with_reducible refine fdot2Op_keeps ?_
    | with_reducible refine next_next ?_
    | (intro e; subst e)

theorem flerpOp_keeps {x : Fields} {s : State} (h0 : MemoryCanonical s) : MemoryCanonical (flerpOp x s) := by
  unfold flerpOp
  repeat' first
    | with_reducible assumption
    | with_reducible refine State.ieeeOp_keeps ?_

theorem execFlerpBase_keeps {d : BitVec 8} {a : BitVec 8} {b : BitVec 7} {s : State} {out} (h0 : MemoryCanonical s) (e : execFlerpBase d a b s = .next out) : MemoryCanonical out := by
  unfold execFlerpBase at e
  revert e
  repeat' first
    | with_reducible assumption
    | with_reducible refine flerpOp_keeps ?_
    | with_reducible refine next_next ?_
    | (intro e; subst e)

theorem execFlerpExtended_keeps {x : Fields} {s : State} {out} (h0 : MemoryCanonical s) (e : execFlerpExtended x s = .next out) : MemoryCanonical out := by
  unfold execFlerpExtended at e
  revert e
  repeat' first
    | with_reducible assumption
    | with_reducible refine flerpOp_keeps ?_
    | with_reducible refine next_next ?_
    | (intro e; subst e)

theorem ffracOp_keeps {x : Fields} {s : State} (h0 : MemoryCanonical s) : MemoryCanonical (ffracOp x s) := by
  unfold ffracOp
  repeat' first
    | with_reducible assumption
    | with_reducible refine State.ieeeOp_keeps ?_

theorem execFfracBase_keeps {d : BitVec 8} {a : BitVec 8} {s : State} {out} (h0 : MemoryCanonical s) (e : execFfracBase d a s = .next out) : MemoryCanonical out := by
  unfold execFfracBase at e
  revert e
  repeat' first
    | with_reducible assumption
    | with_reducible refine ffracOp_keeps ?_
    | with_reducible refine next_next ?_
    | (intro e; subst e)

theorem execFfracExtended_keeps {x : Fields} {s : State} {out} (h0 : MemoryCanonical s) (e : execFfracExtended x s = .next out) : MemoryCanonical out := by
  unfold execFfracExtended at e
  revert e
  repeat' first
    | with_reducible assumption
    | with_reducible refine ffracOp_keeps ?_
    | with_reducible refine next_next ?_
    | (intro e; subst e)

/-! ### Convert -/

theorem State.liLater_keeps {s : State} {op : Nat} {x : Fields} {f : Lane → LiResult} (h0 : MemoryCanonical s) : MemoryCanonical (State.liLater s op x f) := by
  unfold State.liLater
  repeat' first
    | with_reducible assumption
    | with_reducible refine State.groupLater_keeps ?_

theorem State.liArithOp_keeps {s : State} {op : Nat} {o : LiOp} {x : Fields} (h0 : MemoryCanonical s) : MemoryCanonical (State.liArithOp s op o x) := by
  unfold State.liArithOp
  repeat' first
    | with_reducible assumption
    | with_reducible refine State.liLater_keeps ?_

theorem execLadd_keeps {x : Fields} {s : State} {out} (h0 : MemoryCanonical s) (e : execLadd x s = .next out) : MemoryCanonical out := by
  unfold execLadd at e
  revert e
  repeat' first
    | with_reducible assumption
    | with_reducible refine State.liArithOp_keeps ?_
    | with_reducible refine next_next ?_
    | (intro e; subst e)

theorem execLsub_keeps {x : Fields} {s : State} {out} (h0 : MemoryCanonical s) (e : execLsub x s = .next out) : MemoryCanonical out := by
  unfold execLsub at e
  revert e
  repeat' first
    | with_reducible assumption
    | with_reducible refine State.liArithOp_keeps ?_
    | with_reducible refine next_next ?_
    | (intro e; subst e)

theorem execLmul_keeps {x : Fields} {s : State} {out} (h0 : MemoryCanonical s) (e : execLmul x s = .next out) : MemoryCanonical out := by
  unfold execLmul at e
  revert e
  repeat' first
    | with_reducible assumption
    | with_reducible refine State.liArithOp_keeps ?_
    | with_reducible refine next_next ?_
    | (intro e; subst e)

theorem execLdiv_keeps {x : Fields} {s : State} {out} (h0 : MemoryCanonical s) (e : execLdiv x s = .next out) : MemoryCanonical out := by
  unfold execLdiv at e
  revert e
  repeat' first
    | with_reducible assumption
    | with_reducible refine State.liArithOp_keeps ?_
    | with_reducible refine next_next ?_
    | (intro e; subst e)

theorem execLcmp_keeps {x : Fields} {s : State} {out} (h0 : MemoryCanonical s) (e : execLcmp x s = .next out) : MemoryCanonical out := by
  unfold execLcmp at e
  revert e
  repeat' first
    | with_reducible assumption
    | with_reducible refine State.groupLater_keeps ?_
    | dsimp only
    | with_reducible refine next_next ?_
    | (intro e; subst e)

theorem execLmisc_keeps {x : Fields} {s : State} {out} (h0 : MemoryCanonical s) (e : execLmisc x s = .next out) : MemoryCanonical out := by
  unfold execLmisc at e
  revert e
  repeat' first
    | with_reducible assumption
    | with_reducible refine State.groupLater_keeps ?_
    | dsimp only
    | with_reducible refine next_next ?_
    | (intro e; subst e)

theorem execLexp_keeps {x : Fields} {s : State} {out} (h0 : MemoryCanonical s) (e : execLexp x s = .next out) : MemoryCanonical out := by
  unfold execLexp at e
  revert e
  repeat' first
    | with_reducible assumption
    | with_reducible refine State.liLater_keeps ?_
    | with_reducible refine next_next ?_
    | (intro e; subst e)

theorem execLlog_keeps {x : Fields} {s : State} {out} (h0 : MemoryCanonical s) (e : execLlog x s = .next out) : MemoryCanonical out := by
  unfold execLlog at e
  revert e
  repeat' first
    | with_reducible assumption
    | with_reducible refine State.liLater_keeps ?_
    | with_reducible refine next_next ?_
    | (intro e; subst e)

theorem execCvt_keeps {x : Fields} {s : State} {out} (h0 : MemoryCanonical s) (e : execCvt x s = .next out) : MemoryCanonical out := by
  unfold execCvt at e
  revert e
  repeat' first
    | with_reducible assumption
    | with_reducible refine State.lanewise_keeps ?_
    | with_reducible refine next_next ?_
    | (intro e; subst e)

theorem execLcvt_keeps {x : Fields} {s : State} {out} (h0 : MemoryCanonical s) (e : execLcvt x s = .next out) : MemoryCanonical out := by
  unfold execLcvt at e
  revert e
  repeat' first
    | with_reducible assumption
    | with_reducible refine State.liLater_keeps ?_
    | with_reducible refine next_next ?_
    | (intro e; subst e)

theorem execGcvt_keeps {x : Fields} {s : State} {out} (h0 : MemoryCanonical s) (e : execGcvt x s = .next out) : MemoryCanonical out := by
  unfold execGcvt at e
  revert e
  repeat' first
    | with_reducible assumption
    | with_reducible refine State.lanewise_keeps ?_
    | with_reducible refine next_next ?_
    | (intro e; subst e)

theorem execPack6_keeps {x : Fields} {s : State} {out} (h0 : MemoryCanonical s) (e : execPack6 x s = .next out) : MemoryCanonical out := by
  unfold execPack6 at e
  revert e
  repeat' first
    | with_reducible assumption
    | with_reducible refine State.groupwise_keeps ?_
    | dsimp only
    | with_reducible refine next_next ?_
    | (intro e; subst e)

theorem execUnpk6_keeps {x : Fields} {s : State} {out} (h0 : MemoryCanonical s) (e : execUnpk6 x s = .next out) : MemoryCanonical out := by
  unfold execUnpk6 at e
  revert e
  repeat' first
    | with_reducible assumption
    | with_reducible refine State.groupwise_keeps ?_
    | dsimp only
    | with_reducible refine next_next ?_
    | (intro e; subst e)

theorem pkhOp_keeps {x : Fields} {s : State} (h0 : MemoryCanonical s) : MemoryCanonical (pkhOp x s) := by
  unfold pkhOp
  repeat' first
    | with_reducible assumption
    | with_reducible refine State.lanewise_keeps ?_

theorem execPkhBase_keeps {d : BitVec 8} {a : BitVec 8} {b : BitVec 7} {s : State} {out} (h0 : MemoryCanonical s) (e : execPkhBase d a b s = .next out) : MemoryCanonical out := by
  unfold execPkhBase at e
  revert e
  repeat' first
    | with_reducible assumption
    | with_reducible refine pkhOp_keeps ?_
    | with_reducible refine next_next ?_
    | (intro e; subst e)

theorem execPkhExtended_keeps {x : Fields} {s : State} {out} (h0 : MemoryCanonical s) (e : execPkhExtended x s = .next out) : MemoryCanonical out := by
  unfold execPkhExtended at e
  revert e
  repeat' first
    | with_reducible assumption
    | with_reducible refine pkhOp_keeps ?_
    | with_reducible refine next_next ?_
    | (intro e; subst e)

theorem execRand_keeps {x : Fields} {s : State} {out} (h0 : MemoryCanonical s) (e : execRand x s = .next out) : MemoryCanonical out := by
  unfold execRand at e
  revert e
  repeat' first
    | with_reducible assumption
    | with_reducible refine State.lanewise_keeps ?_
    | with_reducible refine next_next ?_
    | split
    | (intro e; subst e)

theorem execSfu_keeps {x : Fields} {s : State} {out} (h0 : MemoryCanonical s) (e : execSfu x s = .next out) : MemoryCanonical out := by
  unfold execSfu at e
  revert e
  repeat' first
    | with_reducible assumption
    | with_reducible refine State.groupLater_keeps ?_
    | dsimp only
    | with_reducible refine next_next ?_
    | simp only [Option.map, Option.getD]
    | (intro e; subst e)

/-! ### Lanes -/

theorem execShfl_keeps {x : Fields} {s : State} {out} (h0 : MemoryCanonical s) (e : execShfl x s = .next out) : MemoryCanonical out := by
  unfold execShfl at e
  revert e
  repeat' first
    | with_reducible assumption
    | with_reducible refine State.groupwise_keeps ?_
    | with_reducible refine next_next ?_
    | (intro e; subst e)

theorem execLshf_keeps {x : Fields} {s : State} {out} (h0 : MemoryCanonical s) (e : execLshf x s = .next out) : MemoryCanonical out := by
  unfold execLshf at e
  revert e
  repeat' first
    | with_reducible assumption
    | with_reducible refine State.groupwise_keeps ?_
    | with_reducible refine next_next ?_
    | (intro e; subst e)

theorem execVote_keeps {x : Fields} {s : State} {out} (h0 : MemoryCanonical s) (e : execVote x s = .next out) : MemoryCanonical out := by
  unfold execVote at e
  revert e
  repeat' first
    | with_reducible assumption
    | with_reducible refine State.groupwise_keeps ?_
    | with_reducible refine next_next ?_
    | (intro e; subst e)

theorem execReduce_keeps {x : Fields} {s : State} {out} (h0 : MemoryCanonical s) (e : execReduce x s = .next out) : MemoryCanonical out := by
  unfold execReduce at e
  revert e
  repeat' first
    | with_reducible assumption
    | with_reducible refine State.groupLater_keeps ?_
    | with_reducible refine next_next ?_
    | (intro e; subst e)

theorem execScan_keeps {x : Fields} {s : State} {out} (h0 : MemoryCanonical s) (e : execScan x s = .next out) : MemoryCanonical out := by
  unfold execScan at e
  revert e
  repeat' first
    | with_reducible assumption
    | with_reducible refine State.groupLater_keeps ?_
    | with_reducible refine next_next ?_
    | (intro e; subst e)

theorem execMatchLanes_keeps {x : Fields} {s : State} {out} (h0 : MemoryCanonical s) (e : execMatchLanes x s = .next out) : MemoryCanonical out := by
  unfold execMatchLanes at e
  revert e
  repeat' first
    | with_reducible assumption
    | with_reducible refine State.groupwise_keeps ?_
    | with_reducible refine next_next ?_
    | (intro e; subst e)

theorem tmovWriteNow_keeps {s : State} {team : Nat} {g : Nat} {vals : List W32} (h0 : MemoryCanonical s) : MemoryCanonical (tmovWriteNow s team g vals) := by
  unfold tmovWriteNow
  repeat' first
    | with_reducible assumption
    | with_reducible refine State.updTeam_keeps ?_
    | split

theorem execTmovRead_keeps {x : Fields} {s : State} {out} (h0 : MemoryCanonical s) (e : execTmovRead x s = .next out) : MemoryCanonical out := by
  unfold execTmovRead at e
  revert e
  repeat' first
    | with_reducible assumption
    | with_reducible refine State.fresh_keeps ?_
    | with_reducible refine State.advance_keeps ?_
    | with_reducible refine State.sendArrival_keeps ?_
    | with_reducible refine State.issueThen_keeps (fun _ _ _ => ?_) ?_
    | with_reducible refine State.count_keeps ?_
    | with_reducible refine State.lanewise_keeps ?_
    | with_reducible refine State.openWindows_keeps ?_
    | dsimp only
    | with_reducible refine next_next ?_
    | split
    | (intro e; subst e)

theorem execTmovWrite_keeps {x : Fields} {s : State} {out} (h0 : MemoryCanonical s) (e : execTmovWrite x s = .next out) : MemoryCanonical out := by
  unfold execTmovWrite at e
  revert e
  repeat' first
    | with_reducible assumption
    | with_reducible refine State.advance_keeps ?_
    | with_reducible refine State.sendArrival_keeps ?_
    | with_reducible refine State.issueThen_keeps (fun _ _ _ => ?_) ?_
    | with_reducible refine State.count_keeps ?_
    | with_reducible refine State.slotFor_keeps ?_
    | with_reducible refine tmovWriteNow_keeps ?_
    | dsimp only
    | with_reducible refine next_next ?_
    | split
    | (intro e; subst e)

/-! ### LoadStore -/

theorem touchL1_keeps {s : State} {c : CoreId} {ctx : Nat} {ia : Nat} (h0 : MemoryCanonical s) : MemoryCanonical (touchL1 s c ctx ia) := by
  unfold touchL1
  repeat' first
    | with_reducible assumption
    | with_reducible refine State.updL1_keeps ?_

theorem beginMem_of {s : State} {act : List Thread} {part : List Thread} {x : Fields} {dst : Nat} {n : Nat} {a1} {out} (h0 : MemoryCanonical s) (e : beginMem s act part x dst n = (a1, out)) : MemoryCanonical out := by
  unfold beginMem at e
  revert e
  repeat' first
    | with_reducible assumption
    | with_reducible refine State.fresh_keeps ?_
    | with_reducible refine State.advance_keeps ?_
    | with_reducible refine State.count_keeps ?_
    | with_reducible refine State.openWindows_keeps ?_
    | dsimp only
    | with_reducible refine pair_eq ?_
    | (intro e; subst e)

theorem beginMem_keeps {s : State} {act : List Thread} {part : List Thread} {x : Fields} {dst : Nat} {n : Nat} (h0 : MemoryCanonical s) : MemoryCanonical (beginMem s act part x dst n).2 := beginMem_of h0 rfl

theorem countMiss_keeps {s : State} {c : CoreId} {ctx : Nat} {line : Nat} (h0 : MemoryCanonical s) : MemoryCanonical (countMiss s c ctx line) := by
  unfold countMiss
  repeat' first
    | with_reducible assumption
    | with_reducible refine State.updCore_keeps ?_

theorem loadGlobal_keeps {s : State} {tm : Team} {h : Thread} {x : Fields} {op : Nat} {as : List (LaneAccess × Nat)} (h0 : MemoryCanonical s) : MemoryCanonical (loadGlobal s tm h x op as) := by
  unfold loadGlobal
  repeat' first
    | with_reducible assumption
    | with_reducible refine State.usePage_keeps ?_
    | with_reducible refine State.dropL1_keeps ?_
    | with_reducible refine State.expelPrivate_keeps ?_
    | with_reducible refine State.killContext_keeps ?_
    | with_reducible refine State.sendAll_keeps ?_
    | with_reducible refine State.addAccess_keeps ?_
    | with_reducible refine touchL1_keeps ?_
    | with_reducible refine countMiss_keeps ?_
    | dsimp only
    | with_reducible refine foldl_keeps (fun _ _ _ => ?_) ?_
    | split

theorem storeGlobal_keeps {s : State} {tm : Team} {h : Thread} {x : Fields} {op : Nat} {as : List LaneAccess} (h0 : MemoryCanonical s) : MemoryCanonical (storeGlobal s tm h x op as) := by
  unfold storeGlobal
  repeat' first
    | with_reducible assumption
    | with_reducible refine State.expelPrivate_keeps ?_
    | with_reducible refine State.sendAll_keeps ?_
    | dsimp only
    | with_reducible refine foldl_keeps (fun _ _ _ => ?_) ?_
    | split

theorem writePrivate_keeps {s : State} {c : CoreId} {ctx : Nat} {ia : Nat} {bs : List Byte} (h0 : MemoryCanonical s) : MemoryCanonical (writePrivate s c ctx ia bs) := by
  unfold writePrivate
  repeat' first
    | with_reducible assumption
    | with_reducible refine State.performWrite_keeps ?_
    | with_reducible refine State.updL1_keeps ?_
    | dsimp only
    | split

theorem cleanCovered_keeps {s : State} {c : CoreId} {ctx : Nat} {as : List LaneAccess} (h0 : MemoryCanonical s) : MemoryCanonical (cleanCovered s c ctx as) := by
  unfold cleanCovered
  repeat' first
    | with_reducible assumption
    | with_reducible refine State.updL1_keeps ?_
    | dsimp only
    | with_reducible refine foldl_keeps (fun _ _ _ => ?_) ?_
    | split

theorem accessPrivate_keeps {s : State} {tm : Team} {h : Thread} {x : Fields} {op : Nat} {store : Bool} {as : List LaneAccess} (h0 : MemoryCanonical s) : MemoryCanonical (accessPrivate s tm h x op store as) := by
  unfold accessPrivate
  repeat' first
    | with_reducible assumption
    | with_reducible refine State.usePage_keeps ?_
    | with_reducible refine State.dropL1_keeps ?_
    | with_reducible refine State.killContext_keeps ?_
    | with_reducible refine State.sendAll_keeps ?_
    | with_reducible refine State.addAccess_keeps ?_
    | with_reducible refine touchL1_keeps ?_
    | with_reducible refine writePrivate_keeps ?_
    | with_reducible refine cleanCovered_keeps ?_
    | dsimp only
    | with_reducible refine foldl_keeps (fun _ _ _ => ?_) ?_
    | split

theorem writePlot_keeps {s : State} {team : Nat} {c : CoreId} {o : Nat} {bs : List Byte} (h0 : MemoryCanonical s) : MemoryCanonical (writePlot s team c o bs) := by
  unfold writePlot
  repeat' first
    | with_reducible assumption
    | with_reducible refine State.writePlotBytes_keeps ?_
    | split

theorem coverPlot_keeps {s : State} {team : Nat} {c : CoreId} {spans : List (Nat × Nat)} (h0 : MemoryCanonical s) : MemoryCanonical (coverPlot s team c spans) := by
  unfold coverPlot
  repeat' first
    | with_reducible assumption
    | with_reducible refine State.clearPlotCovered_keeps ?_
    | split

theorem loadOp_keeps {s : State} {opc : Nat} {x : Fields} {size : Nat} {n : Nat} (h0 : MemoryCanonical s) : MemoryCanonical (loadOp s opc x size n) := by
  unfold loadOp
  repeat' first
    | with_reducible assumption
    | with_reducible refine State.killContext_keeps ?_
    | with_reducible refine State.trapGroup_keeps ?_
    | with_reducible refine State.advance_keeps ?_
    | with_reducible refine State.issueThen_keeps (fun _ _ _ => ?_) ?_
    | with_reducible refine State.addAccess_keeps ?_
    | with_reducible refine beginMem_keeps ?_
    | with_reducible refine loadGlobal_keeps ?_
    | with_reducible refine accessPrivate_keeps ?_
    | dsimp only
    | split

theorem storeOp_keeps {s : State} {opc : Nat} {x : Fields} {size : Nat} {n : Nat} (h0 : MemoryCanonical s) : MemoryCanonical (storeOp s opc x size n) := by
  unfold storeOp
  repeat' first
    | with_reducible assumption
    | with_reducible refine State.trapGroup_keeps ?_
    | with_reducible refine State.advance_keeps ?_
    | with_reducible refine fillConst_keeps ?_
    | with_reducible refine State.issueThen_keeps (fun _ _ _ => ?_) ?_
    | with_reducible refine State.addAccess_keeps ?_
    | with_reducible refine beginMem_keeps ?_
    | with_reducible refine storeGlobal_keeps ?_
    | with_reducible refine accessPrivate_keeps ?_
    | with_reducible refine writePlot_keeps ?_
    | with_reducible refine coverPlot_keeps ?_
    | dsimp only
    | with_reducible refine foldl_keeps (fun _ _ _ => ?_) ?_
    | split

theorem execLd_keeps {x : Fields} {s : State} {out} (h0 : MemoryCanonical s) (e : execLd x s = .next out) : MemoryCanonical out := by
  unfold execLd at e
  revert e
  repeat' first
    | with_reducible assumption
    | with_reducible refine loadOp_keeps ?_
    | with_reducible refine next_next ?_
    | (intro e; subst e)

theorem execSt_keeps {x : Fields} {s : State} {out} (h0 : MemoryCanonical s) (e : execSt x s = .next out) : MemoryCanonical out := by
  unfold execSt at e
  revert e
  repeat' first
    | with_reducible assumption
    | with_reducible refine storeOp_keeps ?_
    | with_reducible refine next_next ?_
    | (intro e; subst e)

theorem execLdv_keeps {x : Fields} {s : State} {out} (h0 : MemoryCanonical s) (e : execLdv x s = .next out) : MemoryCanonical out := by
  unfold execLdv at e
  revert e
  repeat' first
    | with_reducible assumption
    | with_reducible refine loadOp_keeps ?_
    | with_reducible refine next_next ?_
    | (intro e; subst e)

theorem execStv_keeps {x : Fields} {s : State} {out} (h0 : MemoryCanonical s) (e : execStv x s = .next out) : MemoryCanonical out := by
  unfold execStv at e
  revert e
  repeat' first
    | with_reducible assumption
    | with_reducible refine storeOp_keeps ?_
    | with_reducible refine next_next ?_
    | (intro e; subst e)

theorem packetOp_keeps {s : State} {opc : Nat} {x : Fields} {kind : ReqKind} {dst : Nat} {takesB : Bool} (h0 : MemoryCanonical s) : MemoryCanonical (packetOp s opc x kind dst takesB) := by
  unfold packetOp
  repeat' first
    | with_reducible assumption
    | with_reducible refine State.trapGroup_keeps ?_
    | with_reducible refine State.advance_keeps ?_
    | with_reducible refine State.sendAll_keeps ?_
    | with_reducible refine fillConst_keeps ?_
    | with_reducible refine State.issueThen_keeps (fun _ _ _ => ?_) ?_
    | with_reducible refine beginMem_keeps ?_
    | dsimp only
    | split

theorem execLdp_keeps {x : Fields} {s : State} {out} (h0 : MemoryCanonical s) (e : execLdp x s = .next out) : MemoryCanonical out := by
  unfold execLdp at e
  revert e
  repeat' first
    | with_reducible assumption
    | with_reducible refine packetOp_keeps ?_
    | with_reducible refine next_next ?_
    | (intro e; subst e)

theorem execStp_keeps {x : Fields} {s : State} {out} (h0 : MemoryCanonical s) (e : execStp x s = .next out) : MemoryCanonical out := by
  unfold execStp at e
  revert e
  repeat' first
    | with_reducible assumption
    | with_reducible refine packetOp_keeps ?_
    | with_reducible refine next_next ?_
    | (intro e; subst e)

theorem execAtomp_keeps {x : Fields} {s : State} {out} (h0 : MemoryCanonical s) (e : execAtomp x s = .next out) : MemoryCanonical out := by
  unfold execAtomp at e
  revert e
  repeat' first
    | with_reducible assumption
    | with_reducible refine State.issueThen_keeps (fun _ _ _ => ?_) ?_
    | with_reducible refine packetOp_keeps ?_
    | dsimp only
    | with_reducible refine next_next ?_
    | split
    | (intro e; subst e)

theorem execLdk_keeps {x : Fields} {s : State} {out} (h0 : MemoryCanonical s) (e : execLdk x s = .next out) : MemoryCanonical out := by
  unfold execLdk at e
  revert e
  repeat' first
    | with_reducible assumption
    | with_reducible refine State.expelPrivate_keeps ?_
    | with_reducible refine State.trapGroup_keeps ?_
    | with_reducible refine State.advance_keeps ?_
    | with_reducible refine State.sendAll_keeps ?_
    | with_reducible refine State.issueThen_keeps (fun _ _ _ => ?_) ?_
    | with_reducible refine State.addAccess_keeps ?_
    | with_reducible refine beginMem_keeps ?_
    | dsimp only
    | with_reducible refine foldl_keeps (fun _ _ _ => ?_) ?_
    | with_reducible refine next_next ?_
    | split
    | (intro e; subst e)

/-! ### MemControl -/

theorem execFence_keeps {x : Fields} {s : State} {out} (h0 : MemoryCanonical s) (e : execFence x s = .next out) : MemoryCanonical out := by
  unfold execFence at e
  revert e
  repeat' first
    | with_reducible assumption
    | with_reducible refine State.updThreads_keeps ?_
    | with_reducible refine State.advance_keeps ?_
    | with_reducible refine State.issueThen_keeps (fun _ _ _ => ?_) ?_
    | dsimp only
    | with_reducible refine next_next ?_
    | (intro e; subst e)

theorem execWait_keeps {x : Fields} {s : State} {out} (h0 : MemoryCanonical s) (e : execWait x s = .next out) : MemoryCanonical out := by
  unfold execWait at e
  revert e
  repeat' first
    | with_reducible assumption
    | with_reducible refine State.advance_keeps ?_
    | with_reducible refine State.issueThen_keeps (fun _ _ _ => ?_) ?_
    | with_reducible refine next_next ?_
    | split
    | (intro e; subst e)

theorem State.onceStatus_keeps {s : State} {op : Nat} {x : Fields} {lat : Nat} {f : Team → Lane → State → Except Trap (Nat × State)}
    (hf : ∀ tm l s a t, MemoryCanonical s → f tm l s = .ok (a, t) → MemoryCanonical t) (h : MemoryCanonical s) :
    MemoryCanonical (s.onceStatus op x lat f) := by
  unfold State.onceStatus
  refine State.issueConst_keeps (fun _ _ _ _ => ?_) h
  repeat' first
    | with_reducible assumption
    | with_reducible refine State.advance_keeps ?_
    | with_reducible refine State.trapGroup_keeps ?_
    | with_reducible refine State.addLater_keeps ?_
    | with_reducible refine beginMem_keeps ?_
    | (with_reducible refine hf _ _ _ _ _ ?_ (by with_reducible assumption))
    | split
    | dsimp only

theorem closeWindows_keeps {s : State} {c : CoreId} {ctx : Nat} {p : PlotWindow → Bool} (h0 : MemoryCanonical s) : MemoryCanonical (closeWindows s c ctx p) := by
  unfold closeWindows
  repeat' first
    | with_reducible assumption
    | with_reducible refine State.updCore_keeps ?_

theorem plotOpen_of {tm : Team} {l : Lane} {s : State} {a1} {out} (h0 : MemoryCanonical s) (e : plotOpen tm l s = .ok (a1, out)) : MemoryCanonical out := by
  unfold plotOpen at e
  revert e
  repeat' first
    | with_reducible assumption
    | with_reducible refine State.updCore_keeps ?_
    | dsimp only
    | with_reducible exact except_error
    | with_reducible refine except_ok ?_
    | with_reducible refine pair_eq ?_
    | split
    | simp only [Option.map]
    | (intro e; subst e)

theorem plotClose_of {tm : Team} {l : Lane} {s : State} {a1} {out} (h0 : MemoryCanonical s) (e : plotClose tm l s = .ok (a1, out)) : MemoryCanonical out := by
  unfold plotClose at e
  revert e
  repeat' first
    | with_reducible assumption
    | with_reducible refine closeWindows_keeps ?_
    | dsimp only
    | with_reducible exact except_error
    | with_reducible refine except_ok ?_
    | with_reducible refine pair_eq ?_
    | split
    | (intro e; subst e)

theorem plotGive_of {tm : Team} {l : Lane} {s : State} {a1} {out} (h0 : MemoryCanonical s) (e : plotGive tm l s = .ok (a1, out)) : MemoryCanonical out := by
  unfold plotGive at e
  revert e
  repeat' first
    | with_reducible assumption
    | with_reducible refine State.updPlot_keeps ?_
    | with_reducible refine closeWindows_keeps ?_
    | dsimp only
    | with_reducible exact except_error
    | with_reducible refine except_ok ?_
    | with_reducible refine pair_eq ?_
    | split
    | (intro e; subst e)

theorem plotTake_of {tm : Team} {l : Lane} {s : State} {a1} {out} (h0 : MemoryCanonical s) (e : plotTake tm l s = .ok (a1, out)) : MemoryCanonical out := by
  unfold plotTake at e
  revert e
  repeat' first
    | with_reducible assumption
    | with_reducible refine State.updPlot_keeps ?_
    | dsimp only
    | with_reducible exact except_error
    | with_reducible refine except_ok ?_
    | with_reducible refine pair_eq ?_
    | split
    | (intro e; subst e)

theorem execPlotOpen_keeps {x : Fields} {s : State} {out} (h0 : MemoryCanonical s) (e : execPlotOpen x s = .next out) : MemoryCanonical out := by
  unfold execPlotOpen at e
  revert e
  repeat' first
    | with_reducible assumption
    | with_reducible refine State.onceStatus_keeps (fun _ _ _ _ _ _ => ?_) ?_
    | (intro e; with_reducible refine plotOpen_of ?_ e)
    | with_reducible refine next_next ?_
    | (intro e; subst e)

theorem execPlotClose_keeps {x : Fields} {s : State} {out} (h0 : MemoryCanonical s) (e : execPlotClose x s = .next out) : MemoryCanonical out := by
  unfold execPlotClose at e
  revert e
  repeat' first
    | with_reducible assumption
    | with_reducible refine State.onceStatus_keeps (fun _ _ _ _ _ _ => ?_) ?_
    | (intro e; with_reducible refine plotClose_of ?_ e)
    | with_reducible refine next_next ?_
    | (intro e; subst e)

theorem execPlotGive_keeps {x : Fields} {s : State} {out} (h0 : MemoryCanonical s) (e : execPlotGive x s = .next out) : MemoryCanonical out := by
  unfold execPlotGive at e
  revert e
  repeat' first
    | with_reducible assumption
    | with_reducible refine State.onceStatus_keeps (fun _ _ _ _ _ _ => ?_) ?_
    | (intro e; with_reducible refine plotGive_of ?_ e)
    | with_reducible refine next_next ?_
    | (intro e; subst e)

theorem execPlotTake_keeps {x : Fields} {s : State} {out} (h0 : MemoryCanonical s) (e : execPlotTake x s = .next out) : MemoryCanonical out := by
  unfold execPlotTake at e
  revert e
  repeat' first
    | with_reducible assumption
    | with_reducible refine State.onceStatus_keeps (fun _ _ _ _ _ _ => ?_) ?_
    | (intro e; with_reducible refine plotTake_of ?_ e)
    | with_reducible refine next_next ?_
    | (intro e; subst e)

theorem prefetchLine_keeps {s : State} {tm : Team} {h : Thread} {x : Fields} {ln : Nat} {va : Nat} {lease : Nat} (h0 : MemoryCanonical s) : MemoryCanonical (prefetchLine s tm h x ln va lease) := by
  unfold prefetchLine
  repeat' first
    | with_reducible assumption
    | with_reducible refine State.fresh_keeps ?_
    | with_reducible refine State.expelPrivate_keeps ?_
    | with_reducible refine State.sendNew_keeps ?_
    | dsimp only
    | split

theorem execPref_keeps {x : Fields} {s : State} {out} (h0 : MemoryCanonical s) (e : execPref x s = .next out) : MemoryCanonical out := by
  unfold execPref at e
  revert e
  repeat' first
    | with_reducible assumption
    | with_reducible refine State.advance_keeps ?_
    | with_reducible refine State.issueThen_keeps (fun _ _ _ => ?_) ?_
    | with_reducible refine prefetchLine_keeps ?_
    | dsimp only
    | with_reducible refine foldl_keeps (fun _ _ _ => ?_) ?_
    | with_reducible refine next_next ?_
    | split
    | (intro e; subst e)

theorem sendWriteBack_keeps {s : State} {tm : Team} {h : Thread} {x : Fields} {op : Nat} {l : L1Line} {ts : List TRef} (h0 : MemoryCanonical s) : MemoryCanonical (sendWriteBack s tm h x op l ts) := by
  unfold sendWriteBack
  repeat' first
    | with_reducible assumption
    | with_reducible refine State.fresh_keeps ?_
    | with_reducible refine State.travel_keeps ?_

theorem execCctlWbpriv_keeps {x : Fields} {s : State} {out} (h0 : MemoryCanonical s) (e : execCctlWbpriv x s = .next out) : MemoryCanonical out := by
  unfold execCctlWbpriv at e
  revert e
  repeat' first
    | with_reducible assumption
    | with_reducible refine State.updCore_keeps ?_
    | with_reducible refine State.advance_keeps ?_
    | with_reducible refine State.issueThen_keeps (fun _ _ _ => ?_) ?_
    | with_reducible refine State.addLater_keeps ?_
    | with_reducible refine beginMem_keeps ?_
    | with_reducible refine sendWriteBack_keeps ?_
    | dsimp only
    | with_reducible refine foldl_keeps (fun _ _ _ => ?_) ?_
    | with_reducible refine next_next ?_
    | split
    | (intro e; subst e)

theorem execCctlInvl1_keeps {x : Fields} {s : State} {out} (h0 : MemoryCanonical s) (e : execCctlInvl1 x s = .next out) : MemoryCanonical out := by
  unfold execCctlInvl1 at e
  revert e
  repeat' first
    | with_reducible assumption
    | with_reducible refine State.dropL1_keeps ?_
    | with_reducible refine State.advance_keeps ?_
    | with_reducible refine State.issueThen_keeps (fun _ _ _ => ?_) ?_
    | with_reducible refine State.addLater_keeps ?_
    | with_reducible refine beginMem_keeps ?_
    | with_reducible refine sendWriteBack_keeps ?_
    | dsimp only
    | with_reducible refine foldl_keeps (fun _ _ _ => ?_) ?_
    | with_reducible refine next_next ?_
    | split
    | simp only [Option.map, Option.getD]
    | (intro e; subst e)

theorem execCctlInvk_keeps {x : Fields} {s : State} {out} (h0 : MemoryCanonical s) (e : execCctlInvk x s = .next out) : MemoryCanonical out := by
  unfold execCctlInvk at e
  revert e
  repeat' first
    | with_reducible assumption
    | with_reducible refine State.updCore_keeps ?_
    | with_reducible refine State.advance_keeps ?_
    | with_reducible refine State.issueThen_keeps (fun _ _ _ => ?_) ?_
    | with_reducible refine State.addLater_keeps ?_
    | with_reducible refine beginMem_keeps ?_
    | dsimp only
    | with_reducible refine next_next ?_
    | split
    | (intro e; subst e)

theorem execBankcfg_keeps {x : Fields} {s : State} {out} (h0 : MemoryCanonical s) (e : execBankcfg x s = .next out) : MemoryCanonical out := by
  unfold execBankcfg at e
  revert e
  repeat' first
    | with_reducible assumption
    | with_reducible refine State.after_keeps ?_
    | with_reducible refine State.updCore_keeps ?_
    | with_reducible refine State.onceStatus_keeps (fun _ _ _ _ _ _ => ?_) ?_
    | dsimp only
    | with_reducible refine except_ok ?_
    | with_reducible refine next_next ?_
    | with_reducible refine pair_eq ?_
    | split
    | (intro e; subst e)

/-! ### Control -/

theorem State.takeTargets_keeps {s : State} {act : List Thread} {len : Nat} {target : Thread → Option W64} (h0 : MemoryCanonical s) : MemoryCanonical (State.takeTargets s act len target) := by
  unfold State.takeTargets
  repeat' first
    | with_reducible assumption
    | simp only [canonical_mk]
    | with_reducible refine memory_of ?_

theorem State.branch_keeps {s : State} {act : List Thread} {len : Nat} {g : Guard} {off : Int} (h0 : MemoryCanonical s) : MemoryCanonical (State.branch s act len g off) := by
  unfold State.branch
  repeat' first
    | with_reducible assumption
    | with_reducible refine State.delayIssue_keeps ?_
    | with_reducible refine State.takeTargets_keeps ?_
    | split

theorem State.absolute_keeps {s : State} {op : Nat} {x : Fields} {delay : List W64 → Nat} (h0 : MemoryCanonical s) : MemoryCanonical (State.absolute s op x delay) := by
  unfold State.absolute
  repeat' first
    | with_reducible assumption
    | with_reducible refine State.delayIssue_keeps ?_
    | with_reducible refine State.trapGroup_keeps ?_
    | with_reducible refine State.issueThen_keeps (fun _ _ _ => ?_) ?_
    | with_reducible refine State.takeTargets_keeps ?_
    | dsimp only
    | split

theorem execBraBase_keeps {off : BitVec 23} {s : State} {out} (h0 : MemoryCanonical s) (e : execBraBase off s = .next out) : MemoryCanonical out := by
  unfold execBraBase at e
  revert e
  repeat' first
    | with_reducible assumption
    | with_reducible refine State.branch_keeps ?_
    | with_reducible refine next_next ?_
    | (intro e; subst e)

theorem execBraExtended_keeps {x : Fields} {s : State} {out} (h0 : MemoryCanonical s) (e : execBraExtended x s = .next out) : MemoryCanonical out := by
  unfold execBraExtended at e
  revert e
  repeat' first
    | with_reducible assumption
    | with_reducible refine State.issueThen_keeps (fun _ _ _ => ?_) ?_
    | with_reducible refine State.branch_keeps ?_
    | with_reducible refine next_next ?_
    | (intro e; subst e)

theorem execJmp_keeps {x : Fields} {s : State} {out} (h0 : MemoryCanonical s) (e : execJmp x s = .next out) : MemoryCanonical out := by
  unfold execJmp at e
  revert e
  repeat' first
    | with_reducible assumption
    | with_reducible refine State.absolute_keeps ?_
    | with_reducible refine next_next ?_
    | (intro e; subst e)

theorem State.callOp_keeps {s : State} {x : Fields} {delay : Nat} {target : Thread → W64} (h0 : MemoryCanonical s) : MemoryCanonical (State.callOp s x delay target) := by
  unfold State.callOp
  repeat' first
    | with_reducible assumption
    | with_reducible refine State.updGroup_keeps ?_
    | with_reducible refine State.delayIssue_keeps ?_
    | with_reducible refine State.trapGroup_keeps ?_
    | with_reducible refine State.issueThen_keeps (fun _ _ _ => ?_) ?_
    | simp only [canonical_mk]
    | with_reducible refine memory_of ?_
    | split

theorem execCall_keeps {x : Fields} {s : State} {out} (h0 : MemoryCanonical s) (e : execCall x s = .next out) : MemoryCanonical out := by
  unfold execCall at e
  revert e
  repeat' first
    | with_reducible assumption
    | with_reducible refine State.callOp_keeps ?_
    | with_reducible refine next_next ?_
    | (intro e; subst e)

theorem execCallReg_keeps {x : Fields} {s : State} {out} (h0 : MemoryCanonical s) (e : execCallReg x s = .next out) : MemoryCanonical out := by
  unfold execCallReg at e
  revert e
  repeat' first
    | with_reducible assumption
    | with_reducible refine State.callOp_keeps ?_
    | with_reducible refine next_next ?_
    | (intro e; subst e)

theorem execRetBase_keeps {a : BitVec 8} {s : State} {out} (h0 : MemoryCanonical s) (e : execRetBase a s = .next out) : MemoryCanonical out := by
  unfold execRetBase at e
  revert e
  repeat' first
    | with_reducible assumption
    | with_reducible refine State.absolute_keeps ?_
    | with_reducible refine next_next ?_
    | (intro e; subst e)

theorem execRetExtended_keeps {x : Fields} {s : State} {out} (h0 : MemoryCanonical s) (e : execRetExtended x s = .next out) : MemoryCanonical out := by
  unfold execRetExtended at e
  revert e
  repeat' first
    | with_reducible assumption
    | with_reducible refine State.absolute_keeps ?_
    | with_reducible refine next_next ?_
    | (intro e; subst e)

theorem execReform_keeps {x : Fields} {s : State} {out} (h0 : MemoryCanonical s) (e : execReform x s = .next out) : MemoryCanonical out := by
  unfold execReform at e
  revert e
  repeat' first
    | with_reducible assumption
    | with_reducible refine State.ceaseGroups_keeps ?_
    | with_reducible refine State.fileThread_keeps ?_
    | with_reducible refine State.delayIssue_keeps ?_
    | with_reducible refine State.advance_keeps ?_
    | with_reducible refine State.issueThen_keeps (fun _ _ _ => ?_) ?_
    | dsimp only
    | with_reducible refine foldl_keeps (fun _ _ _ => ?_) ?_
    | with_reducible refine next_next ?_
    | split
    | (intro e; subst e)

theorem State.convergeEvent_of {s : State} {tm : Team} {n : Nat} {join : Bool} {ts : List (TRef × Option Vote)} {out} (h0 : MemoryCanonical s) (e : State.convergeEvent s tm n join ts = .ok out) : MemoryCanonical out := by
  unfold State.convergeEvent at e
  revert e
  repeat' first
    | with_reducible assumption
    | with_reducible refine State.updThreads_keeps ?_
    | with_reducible refine State.updTeam_keeps ?_
    | with_reducible refine State.settle_keeps ?_
    | dsimp only
    | with_reducible exact except_error
    | with_reducible refine except_ok ?_
    | split
    | (intro e; subst e)

theorem State.cancelExit_keeps {s : State} {ts : List TRef} (h0 : MemoryCanonical s) : MemoryCanonical (State.cancelExit s ts) := by
  unfold State.cancelExit
  repeat' first
    | with_reducible assumption
    | with_reducible refine State.ceaseGroups_keeps ?_
    | with_reducible refine State.exitThread_keeps ?_
    | with_reducible refine State.settle_keeps ?_
    | with_reducible refine foldl_keeps (fun _ _ _ => ?_) ?_

theorem State.sendEvent_keeps {s : State} {tm : Team} {op : Nat} {x : Fields} {act : List Thread} {word : Thread → W32} (h0 : MemoryCanonical s) : MemoryCanonical (State.sendEvent s tm op x act word) := by
  unfold State.sendEvent
  repeat' first
    | with_reducible assumption
    | with_reducible refine State.sendArrival_keeps ?_
    | split

theorem State.answerEvent_keeps {s : State} {tm : Team} {a : Arrival} {misuse : Nat} {lane : Nat} {ts : List TRef} (h0 : MemoryCanonical s) : MemoryCanonical (State.answerEvent s tm a misuse lane ts) := by
  unfold State.answerEvent
  repeat' first
    | with_reducible assumption
    | with_reducible refine State.sendArrival_keeps ?_

theorem State.eventAnswered_keeps {s : State} {a : Arrival} {n : Nat} (h0 : MemoryCanonical s) : MemoryCanonical (State.eventAnswered s a n) := by
  unfold State.eventAnswered
  repeat' first
    | with_reducible assumption
    | with_reducible refine State.updThreads_keeps ?_
    | with_reducible refine State.delayIssue_keeps ?_
    | with_reducible refine State.trapThreads_keeps ?_
    | with_reducible refine State.settle_keeps ?_
    | dsimp only
    | split

theorem State.cvgArrives_keeps {s : State} {tm : Team} {a : Arrival} (h0 : MemoryCanonical s) : MemoryCanonical (State.cvgArrives s tm a) := by
  unfold State.cvgArrives
  repeat' first
    | with_reducible assumption
    | with_reducible refine State.convergeEvent_of ?_ (by with_reducible assumption)
    | with_reducible refine State.answerEvent_keeps ?_
    | dsimp only
    | split

theorem State.cvgOp_keeps {s : State} {x : Fields} (h0 : MemoryCanonical s) : MemoryCanonical (State.cvgOp s x) := by
  unfold State.cvgOp
  repeat' first
    | with_reducible assumption
    | with_reducible refine State.delayIssue_keeps ?_
    | with_reducible refine State.trapGroup_keeps ?_
    | with_reducible refine State.advance_keeps ?_
    | with_reducible refine State.issueThen_keeps (fun _ _ _ => ?_) ?_
    | with_reducible refine State.convergeEvent_of ?_ (by with_reducible assumption)
    | with_reducible refine State.cancelExit_keeps ?_
    | with_reducible refine State.sendEvent_keeps ?_
    | dsimp only
    | split

theorem execCvgDecl_keeps {x : Fields} {s : State} {out} (h0 : MemoryCanonical s) (e : execCvgDecl x s = .next out) : MemoryCanonical out := by
  unfold execCvgDecl at e
  revert e
  repeat' first
    | with_reducible assumption
    | with_reducible refine State.cvgOp_keeps ?_
    | with_reducible refine next_next ?_
    | (intro e; subst e)

theorem execCvgJoin_keeps {x : Fields} {s : State} {out} (h0 : MemoryCanonical s) (e : execCvgJoin x s = .next out) : MemoryCanonical out := by
  unfold execCvgJoin at e
  revert e
  repeat' first
    | with_reducible assumption
    | with_reducible refine State.cvgOp_keeps ?_
    | with_reducible refine next_next ?_
    | (intro e; subst e)

theorem State.exitOp_keeps {s : State} {x : Fields} (h0 : MemoryCanonical s) : MemoryCanonical (State.exitOp s x) := by
  unfold State.exitOp
  repeat' first
    | with_reducible assumption
    | with_reducible refine State.ceaseGroups_keeps ?_
    | with_reducible refine State.exitThread_keeps ?_
    | with_reducible refine State.settle_keeps ?_
    | with_reducible refine State.advance_keeps ?_
    | with_reducible refine State.delayIssue_keeps ?_
    | with_reducible refine State.issueThen_keeps (fun _ _ _ => ?_) ?_
    | with_reducible refine foldl_keeps (fun _ _ _ => ?_) ?_
    | dsimp only
    | split

theorem State.yieldGroup_keeps {s : State} {g : GRef} (h0 : MemoryCanonical s) : MemoryCanonical (State.yieldGroup s g) := by
  unfold State.yieldGroup
  repeat' first
    | with_reducible assumption
    | with_reducible refine State.updGroup_keeps ?_

theorem State.yieldOp_keeps {s : State} {x : Fields} (h0 : MemoryCanonical s) : MemoryCanonical (State.yieldOp s x) := by
  unfold State.yieldOp
  repeat' first
    | with_reducible assumption
    | with_reducible refine State.delayIssue_keeps ?_
    | with_reducible refine State.advance_keeps ?_
    | with_reducible refine State.issueThen_keeps (fun _ _ _ => ?_) ?_
    | with_reducible refine State.yieldGroup_keeps ?_
    | split

theorem execExitBase_keeps {s : State} {out} (h0 : MemoryCanonical s) (e : execExitBase s = .next out) : MemoryCanonical out := by
  unfold execExitBase at e
  revert e
  repeat' first
    | with_reducible assumption
    | with_reducible refine State.exitOp_keeps ?_
    | with_reducible refine next_next ?_
    | (intro e; subst e)

theorem execExitExtended_keeps {x : Fields} {s : State} {out} (h0 : MemoryCanonical s) (e : execExitExtended x s = .next out) : MemoryCanonical out := by
  unfold execExitExtended at e
  revert e
  repeat' first
    | with_reducible assumption
    | with_reducible refine State.exitOp_keeps ?_
    | with_reducible refine next_next ?_
    | (intro e; subst e)

theorem execYieldBase_keeps {s : State} {out} (h0 : MemoryCanonical s) (e : execYieldBase s = .next out) : MemoryCanonical out := by
  unfold execYieldBase at e
  revert e
  repeat' first
    | with_reducible assumption
    | with_reducible refine State.yieldOp_keeps ?_
    | with_reducible refine next_next ?_
    | (intro e; subst e)

theorem execYieldExtended_keeps {x : Fields} {s : State} {out} (h0 : MemoryCanonical s) (e : execYieldExtended x s = .next out) : MemoryCanonical out := by
  unfold execYieldExtended at e
  revert e
  repeat' first
    | with_reducible assumption
    | with_reducible refine State.yieldOp_keeps ?_
    | with_reducible refine next_next ?_
    | (intro e; subst e)

theorem execYieldChk_keeps {x : Fields} {s : State} {out} (h0 : MemoryCanonical s) (e : execYieldChk x s = .next out) : MemoryCanonical out := by
  unfold execYieldChk at e
  revert e
  repeat' first
    | with_reducible assumption
    | with_reducible refine State.delayIssue_keeps ?_
    | with_reducible refine State.advance_keeps ?_
    | with_reducible refine State.issueThen_keeps (fun _ _ _ => ?_) ?_
    | with_reducible refine State.cancelExit_keeps ?_
    | with_reducible refine State.yieldOp_keeps ?_
    | dsimp only
    | with_reducible refine next_next ?_
    | split
    | (intro e; subst e)

end Sys2Proof.Machine
end

