-- ==== Sys2Proof/Laws/CanonicalUnits.lean ====
section
/-! SUPPORT. Every operation keeps module memory in its canonical form (assumption 2): tiles, the matrix engine, boot, the aperture, the Logline, records, registers. `f_keeps` says it of the state
that f answers, `f_of` of the state in an answer that may be an error. -/

namespace Sys2Proof.Machine

open Sys2Proof.Safety

/-! ### Tile -/

theorem State.writeLane_keeps {s : State} {op : Nat} {handler : Bool} {l : ResultLane} (h0 : MemoryCanonical s) : MemoryCanonical (State.writeLane s op handler l) := by
  unfold State.writeLane
  repeat' first
    | with_reducible assumption
    | with_reducible refine State.updThread_keeps ?_

theorem State.writeLanes_keeps {s : State} {op : Nat} {handler : Bool} {ls : List ResultLane} (h0 : MemoryCanonical s) : MemoryCanonical (State.writeLanes s op handler ls) := by
  unfold State.writeLanes
  repeat' first
    | with_reducible assumption
    | with_reducible refine State.writeLane_keeps ?_
    | with_reducible refine foldl_keeps (fun _ _ _ => ?_) ?_

theorem State.release_keeps {s : State} {ts : List TRef} {handler : Bool} {set : Nat} (h0 : MemoryCanonical s) : MemoryCanonical (State.release s ts handler set) := by
  unfold State.release
  repeat' first
    | with_reducible assumption
    | with_reducible refine State.updThreads_keeps ?_

theorem State.cleanTile_keeps {s : State} {die : Nat} {site : Nat} {slot : Nat} {spans : List (Nat × Nat)} (h0 : MemoryCanonical s) : MemoryCanonical (State.cleanTile s die site slot spans) := by
  unfold State.cleanTile
  repeat' first
    | with_reducible assumption
    | simp only [canonical_mk]
    | with_reducible refine memory_of ?_

theorem State.beginUse_keeps {s : State} {u : TileUse} (h0 : MemoryCanonical s) : MemoryCanonical (State.beginUse s u) := by
  unfold State.beginUse
  repeat' first
    | with_reducible assumption
    | with_reducible refine State.after_keeps ?_
    | with_reducible refine State.killContext_keeps ?_
    | with_reducible refine State.travel_keeps ?_
    | with_reducible refine writePlot_keeps ?_
    | simp only [canonical_mk]
    | with_reducible refine memory_of ?_
    | with_reducible refine foldl_keeps (fun _ _ _ => ?_) ?_
    | split

theorem State.beginUses_keeps {s : State} (h0 : MemoryCanonical s) : MemoryCanonical (State.beginUses s) := by
  unfold State.beginUses
  repeat' first
    | with_reducible assumption
    | with_reducible refine State.beginUse_keeps ?_
    | dsimp only
    | with_reducible refine foldl_keeps (fun _ _ _ => ?_) ?_
    | split

theorem State.addUse_keeps {s : State} {u : TileUse} {writes : Bool} (h0 : MemoryCanonical s) : MemoryCanonical (State.addUse s u writes) := by
  unfold State.addUse
  repeat' first
    | with_reducible assumption
    | with_reducible refine State.updTileSlot_keeps ?_
    | simp only [canonical_mk]
    | with_reducible refine memory_of ?_

theorem State.dropUse_keeps {s : State} {u : TileUse} (h0 : MemoryCanonical s) : MemoryCanonical (State.dropUse s u) := by
  unfold State.dropUse
  repeat' first
    | with_reducible assumption
    | with_reducible refine State.updTileSlot_keeps ?_
    | with_reducible refine State.beginUses_keeps ?_
    | simp only [canonical_mk]
    | with_reducible refine memory_of ?_

theorem State.finishUse_keeps {s : State} {u : TileUse} (h0 : MemoryCanonical s) : MemoryCanonical (State.finishUse s u) := by
  unfold State.finishUse
  repeat' first
    | with_reducible assumption
    | with_reducible refine State.updTileSlot_keeps ?_
    | with_reducible refine State.writeLanes_keeps ?_
    | with_reducible refine State.release_keeps ?_
    | with_reducible refine State.cleanTile_keeps ?_
    | with_reducible refine State.dropUse_keeps ?_
    | dsimp only
    | split

theorem State.unitDone_keeps {s : State} {use : Nat} (h0 : MemoryCanonical s) : MemoryCanonical (State.unitDone s use) := by
  unfold State.unitDone
  repeat' first
    | with_reducible assumption
    | with_reducible refine State.finishUse_keeps ?_
    | split

theorem State.tileOp_keeps {s : State} {op : Nat} {x : Fields} {n : Nat} {f : TileCtx → State}
    (hf : ∀ c, MemoryCanonical (f c)) (h : MemoryCanonical s) : MemoryCanonical (s.tileOp op x n f) := by
  unfold State.tileOp
  refine State.issueThen_keeps (fun _ _ _ => ?_) h
  split
  · exact State.advance_keeps h
  · exact hf _

theorem State.tileDone_keeps {s : State} {c : TileCtx} {x : Fields} {lat : Nat} {lanes : List ResultLane} (h0 : MemoryCanonical s) : MemoryCanonical (State.tileDone s c x lat lanes) := by
  unfold State.tileDone
  repeat' first
    | with_reducible assumption
    | with_reducible refine State.advance_keeps ?_
    | with_reducible refine State.count_keeps ?_
    | with_reducible refine State.addLater_keeps ?_
    | with_reducible refine State.openWindows_keeps ?_

theorem State.useTile_of {s : State} {c : TileCtx} {x : Fields} {kind : UseKind} {cycles : Nat} {writes : Bool} {dst : Nat} {a1} {out} (h0 : MemoryCanonical s) (e : State.useTile s c x kind cycles writes dst = (a1, out)) : MemoryCanonical out := by
  unfold State.useTile at e
  revert e
  repeat' first
    | with_reducible assumption
    | with_reducible refine State.fresh_keeps ?_
    | with_reducible refine State.advance_keeps ?_
    | with_reducible refine State.count_keeps ?_
    | with_reducible refine State.openWindows_keeps ?_
    | with_reducible refine State.addUse_keeps ?_
    | dsimp only
    | with_reducible refine pair_eq ?_
    | (intro e; subst e)

theorem State.useTile_keeps {s : State} {c : TileCtx} {x : Fields} {kind : UseKind} {cycles : Nat} {writes : Bool} {dst : Nat} (h0 : MemoryCanonical s) : MemoryCanonical (State.useTile s c x kind cycles writes dst).2 := State.useTile_of h0 rfl

theorem execTalloc_keeps {x : Fields} {s : State} {out} (h0 : MemoryCanonical s) (e : execTalloc x s = .next out) : MemoryCanonical out := by
  unfold execTalloc at e
  revert e
  repeat' first
    | with_reducible assumption
    | with_reducible refine State.updHandle_keeps ?_
    | with_reducible refine State.updTileSlot_keeps ?_
    | with_reducible refine State.trapGroup_keeps ?_
    | with_reducible refine State.cleanTile_keeps ?_
    | with_reducible refine State.tileOp_keeps (fun _ => ?_) ?_
    | with_reducible refine State.tileDone_keeps ?_
    | dsimp only
    | with_reducible refine next_next ?_
    | split
    | (intro e; subst e)

theorem execTfree_keeps {x : Fields} {s : State} {out} (h0 : MemoryCanonical s) (e : execTfree x s = .next out) : MemoryCanonical out := by
  unfold execTfree at e
  revert e
  repeat' first
    | with_reducible assumption
    | with_reducible refine State.drainSlot_keeps ?_
    | with_reducible refine State.updHandle_keeps ?_
    | with_reducible refine State.trapGroup_keeps ?_
    | with_reducible refine State.tileOp_keeps (fun _ => ?_) ?_
    | with_reducible refine State.tileDone_keeps ?_
    | with_reducible refine next_next ?_
    | split
    | (intro e; subst e)

theorem execTgive_keeps {x : Fields} {s : State} {out} (h0 : MemoryCanonical s) (e : execTgive x s = .next out) : MemoryCanonical out := by
  unfold execTgive at e
  revert e
  repeat' first
    | with_reducible assumption
    | with_reducible refine State.updHandle_keeps ?_
    | with_reducible refine State.trapGroup_keeps ?_
    | with_reducible refine State.tileOp_keeps (fun _ => ?_) ?_
    | with_reducible refine State.tileDone_keeps ?_
    | dsimp only
    | with_reducible refine next_next ?_
    | split
    | (intro e; subst e)

theorem execTtake_keeps {x : Fields} {s : State} {out} (h0 : MemoryCanonical s) (e : execTtake x s = .next out) : MemoryCanonical out := by
  unfold execTtake at e
  revert e
  repeat' first
    | with_reducible assumption
    | with_reducible refine State.updThreads_keeps ?_
    | with_reducible refine State.updHandle_keeps ?_
    | with_reducible refine State.trapGroup_keeps ?_
    | with_reducible refine State.advance_keeps ?_
    | with_reducible refine State.count_keeps ?_
    | with_reducible refine State.newResult_keeps ?_
    | with_reducible refine State.tileOp_keeps (fun _ => ?_) ?_
    | with_reducible refine State.tileDone_keeps ?_
    | dsimp only
    | with_reducible refine next_next ?_
    | split
    | (intro e; subst e)

theorem execTtakeGrant_keeps {t : TRef} {s : State} {out} (h0 : MemoryCanonical s) (e : execTtakeGrant t s = .next out) : MemoryCanonical out := by
  unfold execTtakeGrant at e
  revert e
  repeat' first
    | with_reducible assumption
    | with_reducible refine State.afterExactly_keeps ?_
    | with_reducible refine State.wake_keeps ?_
    | with_reducible refine State.updHandle_keeps ?_
    | dsimp only
    | with_reducible refine next_next ?_
    | split
    | (intro e; subst e)

theorem execTileSlotDrain_keeps {die : Nat} {site : Nat} {slot : Nat} {s : State} {out} (h0 : MemoryCanonical s) (e : execTileSlotDrain die site slot s = .next out) : MemoryCanonical out := by
  unfold execTileSlotDrain at e
  revert e
  repeat' first
    | with_reducible assumption
    | with_reducible refine State.updTileSlot_keeps ?_
    | simp only [canonical_mk]
    | with_reducible refine memory_of ?_
    | with_reducible refine next_next ?_
    | split
    | (intro e; subst e)

theorem State.imageOp_keeps {s : State} {op : Nat} {x : Fields} {store : Bool} (h0 : MemoryCanonical s) : MemoryCanonical (State.imageOp s op x store) := by
  unfold State.imageOp
  repeat' first
    | with_reducible assumption
    | with_reducible refine State.expelPrivate_keeps ?_
    | with_reducible refine State.killContext_keeps ?_
    | with_reducible refine State.trapGroup_keeps ?_
    | with_reducible refine State.sendAll_keeps ?_
    | with_reducible refine State.beginUses_keeps ?_
    | with_reducible refine State.tileOp_keeps (fun _ => ?_) ?_
    | with_reducible refine State.useTile_keeps ?_
    | dsimp only
    | with_reducible refine foldl_keeps (fun _ _ _ => ?_) ?_
    | split

theorem execTld_keeps {x : Fields} {s : State} {out} (h0 : MemoryCanonical s) (e : execTld x s = .next out) : MemoryCanonical out := by
  unfold execTld at e
  revert e
  repeat' first
    | with_reducible assumption
    | with_reducible refine State.imageOp_keeps ?_
    | with_reducible refine next_next ?_
    | (intro e; subst e)

theorem execTst_keeps {x : Fields} {s : State} {out} (h0 : MemoryCanonical s) (e : execTst x s = .next out) : MemoryCanonical out := by
  unfold execTst at e
  revert e
  repeat' first
    | with_reducible assumption
    | with_reducible refine State.imageOp_keeps ?_
    | with_reducible refine next_next ?_
    | (intro e; subst e)

theorem State.fragmentOp_keeps {s : State} {op : Nat} {x : Fields} {h : Nat} {writes : Bool} {kind : List Lane → UseKind} (h0 : MemoryCanonical s) : MemoryCanonical (State.fragmentOp s op x h writes kind) := by
  unfold State.fragmentOp
  repeat' first
    | with_reducible assumption
    | with_reducible refine State.trapGroup_keeps ?_
    | with_reducible refine State.beginUses_keeps ?_
    | with_reducible refine State.tileOp_keeps (fun _ => ?_) ?_
    | with_reducible refine State.useTile_keeps ?_
    | split

theorem execTldv_keeps {x : Fields} {s : State} {out} (h0 : MemoryCanonical s) (e : execTldv x s = .next out) : MemoryCanonical out := by
  unfold execTldv at e
  revert e
  repeat' first
    | with_reducible assumption
    | with_reducible refine State.fragmentOp_keeps ?_
    | with_reducible refine next_next ?_
    | (intro e; subst e)

theorem execTstv_keeps {x : Fields} {s : State} {out} (h0 : MemoryCanonical s) (e : execTstv x s = .next out) : MemoryCanonical out := by
  unfold execTstv at e
  revert e
  repeat' first
    | with_reducible assumption
    | with_reducible refine State.fragmentOp_keeps ?_
    | with_reducible refine next_next ?_
    | (intro e; subst e)

theorem execTstat_keeps {x : Fields} {s : State} {out} (h0 : MemoryCanonical s) (e : execTstat x s = .next out) : MemoryCanonical out := by
  unfold execTstat at e
  revert e
  repeat' first
    | with_reducible assumption
    | with_reducible refine State.tileOp_keeps (fun _ => ?_) ?_
    | with_reducible refine State.tileDone_keeps ?_
    | with_reducible refine next_next ?_
    | (intro e; subst e)

/-! ### Matrix -/

theorem State.setAccElement_keeps {s : State} {ctx : Nat} {die : Nat} {site : Nat} {e : Nat} {a : Acc} (h0 : MemoryCanonical s) : MemoryCanonical (State.setAccElement s ctx die site e a) := by
  unfold State.setAccElement
  repeat' first
    | with_reducible assumption
    | simp only [canonical_mk]
    | with_reducible refine memory_of ?_
    | split

theorem State.askPermit_keeps {s : State} {die : Nat} {who : Asker} {cost : Nat} {site : Nat} {realTime : Bool} (h0 : MemoryCanonical s) : MemoryCanonical (State.askPermit s die who cost site realTime) := by
  unfold State.askPermit
  repeat' first
    | with_reducible assumption
    | with_reducible refine State.updSteward_keeps ?_

theorem State.maccLanes_of {s : State} {m : MaccOp} {y2 : List (TRef × Nat × List Nat)} {out} {a1} (h0 : MemoryCanonical s) (e : State.maccLanes s m y2 = (out, a1)) : MemoryCanonical out := by
  induction y2 generalizing s m h0 out a1 with
  | nil =>
    unfold State.maccLanes at e
    revert e
    repeat' first
      | with_reducible assumption
      | with_reducible refine pair_eq ?_
      | (intro e; subst e)
  | cons _ _ ih =>
    unfold State.maccLanes at e
    revert e
    repeat' first
      | with_reducible assumption
      | with_reducible refine ih ?_ rfl
      | with_reducible refine State.setAccElement_keeps ?_
      | dsimp only
      | with_reducible refine pair_eq ?_
      | split
      | (intro e; subst e)

theorem State.maccLanes_keeps {s : State} {m : MaccOp} {y2 : List (TRef × Nat × List Nat)} (h0 : MemoryCanonical s) : MemoryCanonical (State.maccLanes s m y2).1 := State.maccLanes_of h0 rfl

theorem State.maccRun_keeps {s : State} {m : MaccOp} (h0 : MemoryCanonical s) : MemoryCanonical (State.maccRun s m) := by
  unfold State.maccRun
  repeat' first
    | with_reducible assumption
    | with_reducible refine State.addLater_keeps ?_
    | with_reducible refine State.maccLanes_keeps ?_
    | simp only [canonical_mk]
    | with_reducible refine memory_of ?_
    | split

theorem State.maccsRun_keeps {s : State} (h0 : MemoryCanonical s) : MemoryCanonical (State.maccsRun s) := by
  unfold State.maccsRun
  repeat' first
    | with_reducible assumption
    | with_reducible refine State.maccRun_keeps ?_
    | with_reducible refine foldl_keeps (fun _ _ _ => ?_) ?_

theorem State.ageEntries_keeps {s : State} {o : MmaOp} {grant : Nat} (h0 : MemoryCanonical s) : MemoryCanonical (State.ageEntries s o grant) := by
  unfold State.ageEntries
  repeat' first
    | with_reducible assumption
    | simp only [canonical_mk]
    | with_reducible refine memory_of ?_

theorem State.addPass_keeps {s : State} {o : MmaOp} {a : Tile} {b : Tile} (h0 : MemoryCanonical s) : MemoryCanonical (State.addPass s o a b) := by
  unfold State.addPass
  repeat' first
    | with_reducible assumption
    | with_reducible refine State.setAccElement_keeps ?_
    | dsimp only
    | with_reducible refine foldl_keeps (fun _ _ _ => ?_) ?_

theorem State.beginPass_keeps {s : State} {die : Nat} {site : Nat} (h0 : MemoryCanonical s) : MemoryCanonical (State.beginPass s die site) := by
  unfold State.beginPass
  repeat' first
    | with_reducible assumption
    | with_reducible refine State.afterExactly_keeps ?_
    | with_reducible refine State.killContext_keeps ?_
    | with_reducible refine State.updEngine_keeps ?_
    | dsimp only
    | split

theorem State.finishMma_keeps {s : State} {o : MmaOp} (h0 : MemoryCanonical s) : MemoryCanonical (State.finishMma s o) := by
  unfold State.finishMma
  repeat' first
    | with_reducible assumption
    | with_reducible refine State.updTileSlot_keeps ?_
    | with_reducible refine State.release_keeps ?_
    | with_reducible refine State.beginUses_keeps ?_
    | with_reducible refine State.maccsRun_keeps ?_
    | simp only [canonical_mk]
    | with_reducible refine memory_of ?_
    | with_reducible refine foldl_keeps (fun _ _ _ => ?_) ?_

theorem execTilePassGrant_keeps {die : Nat} {site : Nat} {s : State} {out} (h0 : MemoryCanonical s) (e : execTilePassGrant die site s = .next out) : MemoryCanonical out := by
  unfold execTilePassGrant at e
  revert e
  repeat' first
    | with_reducible assumption
    | with_reducible refine State.updEngine_keeps ?_
    | with_reducible refine State.askPermit_keeps ?_
    | with_reducible refine State.ageEntries_keeps ?_
    | dsimp only
    | with_reducible refine next_next ?_
    | split
    | (intro e; subst e)

theorem execTilePassComplete_keeps {die : Nat} {site : Nat} {s : State} {out} (h0 : MemoryCanonical s) (e : execTilePassComplete die site s = .next out) : MemoryCanonical out := by
  unfold execTilePassComplete at e
  revert e
  repeat' first
    | with_reducible assumption
    | with_reducible refine State.afterExactly_keeps ?_
    | with_reducible refine State.updEngine_keeps ?_
    | with_reducible refine State.addPass_keeps ?_
    | simp only [canonical_mk]
    | with_reducible refine memory_of ?_
    | with_reducible refine next_next ?_
    | split
    | (intro e; subst e)

theorem execMmaAccept_keeps {op : Nat} {s : State} {out} (h0 : MemoryCanonical s) (e : execMmaAccept op s = .next out) : MemoryCanonical out := by
  unfold execMmaAccept at e
  revert e
  repeat' first
    | with_reducible assumption
    | with_reducible refine State.acceptMma_keeps ?_
    | with_reducible refine next_next ?_
    | split
    | (intro e; subst e)

theorem execMma_keeps {x : Fields} {s : State} {out} (h0 : MemoryCanonical s) (e : execMma x s = .next out) : MemoryCanonical out := by
  unfold execMma at e
  revert e
  repeat' first
    | with_reducible assumption
    | with_reducible refine State.delayIssue_keeps ?_
    | with_reducible refine State.newMma_keeps ?_
    | with_reducible refine State.acceptMma_keeps ?_
    | with_reducible refine State.trapGroup_keeps ?_
    | with_reducible refine State.advance_keeps ?_
    | with_reducible refine State.issueThen_keeps (fun _ _ _ => ?_) ?_
    | with_reducible refine State.count_keeps ?_
    | dsimp only
    | with_reducible refine next_next ?_
    | split
    | (intro e; subst e)

theorem State.mmaSignArrives_keeps {s : State} {tm : Team} {a : Arrival} (h0 : MemoryCanonical s) : MemoryCanonical (State.mmaSignArrives s tm a) := by
  unfold State.mmaSignArrives
  repeat' first
    | with_reducible assumption
    | with_reducible refine State.count_keeps ?_
    | with_reducible refine State.convergeEvent_of ?_ (by with_reducible assumption)
    | with_reducible refine State.answerEvent_keeps ?_
    | dsimp only
    | split

theorem execMmaSign_keeps {x : Fields} {s : State} {out} (h0 : MemoryCanonical s) (e : execMmaSign x s = .next out) : MemoryCanonical out := by
  unfold execMmaSign at e
  revert e
  repeat' first
    | with_reducible assumption
    | with_reducible refine State.trapGroup_keeps ?_
    | with_reducible refine State.advance_keeps ?_
    | with_reducible refine State.issueThen_keeps (fun _ _ _ => ?_) ?_
    | with_reducible refine State.count_keeps ?_
    | with_reducible refine State.convergeEvent_of ?_ (by with_reducible assumption)
    | with_reducible refine State.cancelExit_keeps ?_
    | with_reducible refine State.sendEvent_keeps ?_
    | dsimp only
    | with_reducible refine next_next ?_
    | split
    | (intro e; subst e)

theorem execMacc_keeps {x : Fields} {s : State} {out} (h0 : MemoryCanonical s) (e : execMacc x s = .next out) : MemoryCanonical out := by
  unfold execMacc at e
  revert e
  repeat' first
    | with_reducible assumption
    | with_reducible refine State.fresh_keeps ?_
    | with_reducible refine State.trapGroup_keeps ?_
    | with_reducible refine State.advance_keeps ?_
    | with_reducible refine State.issueThen_keeps (fun _ _ _ => ?_) ?_
    | with_reducible refine State.count_keeps ?_
    | with_reducible refine State.openWindows_keeps ?_
    | with_reducible refine State.maccRun_keeps ?_
    | simp only [canonical_mk]
    | with_reducible refine memory_of ?_
    | with_reducible refine next_next ?_
    | split
    | (intro e; subst e)

/-! ### Boot -/

theorem State.reboot_keeps {s : State} {lastRst : Nat} (_ : MemoryCanonical s) : MemoryCanonical (State.reboot s lastRst) := by
  unfold State.reboot
  repeat' first
    | with_reducible assumption
    | with_reducible exact State.booted_keeps
    | with_reducible refine State.writeMem_keeps ?_
    | simp only [canonical_mk]
    | with_reducible refine memory_of ?_
    | with_reducible refine foldl_keeps (fun _ _ _ => ?_) ?_
    | split

theorem execPowerOnReset_keeps {s : State} {out} (h0 : MemoryCanonical s) (e : execPowerOnReset s = .next out) : MemoryCanonical out := by
  unfold execPowerOnReset at e
  revert e
  repeat' first
    | with_reducible assumption
    | with_reducible refine State.reboot_keeps ?_
    | with_reducible refine next_next ?_
    | (intro e; subst e)

theorem execResetGo_keeps {s : State} {out} (h0 : MemoryCanonical s) (e : execResetGo s = .next out) : MemoryCanonical out := by
  unfold execResetGo at e
  revert e
  repeat' first
    | with_reducible assumption
    | with_reducible refine State.reboot_keeps ?_
    | with_reducible refine next_next ?_
    | (intro e; subst e)

theorem execTshut_keeps {die : Nat} {s : State} {out} (h0 : MemoryCanonical s) (e : execTshut die s = .next out) : MemoryCanonical out := by
  unfold execTshut at e
  revert e
  repeat' first
    | with_reducible assumption
    | with_reducible refine State.reboot_keeps ?_
    | with_reducible refine next_next ?_
    | split
    | (intro e; subst e)

/-! ### Aperture -/

theorem State.reportMalformed_keeps {s : State} {ctx : Nat} {ia : Nat} {n : Nat} (h0 : MemoryCanonical s) : MemoryCanonical (State.reportMalformed s ctx ia n) := by
  unfold State.reportMalformed
  repeat' first
    | with_reducible assumption
    | with_reducible refine State.emit_keeps ?_
    | dsimp only
    | split

theorem State.homeBytes_of {s : State} {n : Need} {y2 : List (Nat × Nat)} {a1} {out} (h0 : MemoryCanonical s) (e : State.homeBytes s n y2 = .ok (a1, out)) : MemoryCanonical out := by
  induction y2 generalizing s n h0 a1 out with
  | nil =>
    unfold State.homeBytes at e
    revert e
    repeat' first
      | with_reducible assumption
      | with_reducible refine except_ok ?_
      | with_reducible refine pair_eq ?_
      | (intro e; subst e)
  | cons _ _ ih =>
    unfold State.homeBytes at e
    revert e
    repeat' first
      | with_reducible assumption
      | with_reducible refine ih ?_ (by assumption)
      | with_reducible refine State.markEntry_keeps ?_
      | dsimp only
      | with_reducible exact except_error
      | with_reducible refine except_ok ?_
      | with_reducible refine pair_eq ?_
      | split
      | (intro e; subst e)

theorem State.homePut_of {s : State} {ctx : Nat} {bs : List Byte} {w : Nat} {y3 : List (Nat × Nat)} {out} {a1} (h0 : MemoryCanonical s) (e : State.homePut s ctx bs w y3 = (out, a1)) : MemoryCanonical out := by
  induction y3 generalizing s bs w h0 out a1 with
  | nil =>
    unfold State.homePut at e
    revert e
    repeat' first
      | with_reducible assumption
      | with_reducible refine pair_eq ?_
      | (intro e; subst e)
  | cons _ _ ih =>
    unfold State.homePut at e
    revert e
    repeat' first
      | with_reducible assumption
      | with_reducible refine ih ?_ rfl
      | with_reducible refine State.performWrite_keeps ?_
      | dsimp only
      | with_reducible refine pair_eq ?_
      | split
      | (intro e; subst e)

theorem State.homePut_keeps {s : State} {ctx : Nat} {bs : List Byte} {w : Nat} {y3 : List (Nat × Nat)} (h0 : MemoryCanonical s) : MemoryCanonical (State.homePut s ctx bs w y3).1 := State.homePut_of h0 rfl

theorem State.homeWrite_of {s : State} {ia : Nat} {bs : List Byte} {ctx : Nat} {out} {a1} (h0 : MemoryCanonical s) (e : State.homeWrite s ia bs ctx = (out, a1)) : MemoryCanonical out := by
  unfold State.homeWrite at e
  revert e
  repeat' first
    | with_reducible assumption
    | with_reducible refine State.clearCovered_keeps ?_
    | with_reducible refine State.homePut_keeps ?_
    | dsimp only
    | with_reducible refine pair_eq ?_
    | simp only [Option.map]
    | (intro e; subst e)

theorem State.homeWrite_keeps {s : State} {ia : Nat} {bs : List Byte} {ctx : Nat} (h0 : MemoryCanonical s) : MemoryCanonical (State.homeWrite s ia bs ctx).1 := State.homeWrite_of h0 rfl

theorem State.deviceRead_of {s : State} {ia : Nat} {n : Nat} {a1} {out} (h0 : MemoryCanonical s) (e : State.deviceRead s ia n = .ok (a1, out)) : MemoryCanonical out := by
  unfold State.deviceRead at e
  revert e
  split
  · intro e; exact State.homeBytes_of h0 e
  split
  · cases State.apertureRead s true ia n with
    | ok v => exact except_ok (pair_eq fun _ e => e ▸ h0)
    | error v => exact except_error
  split
  · exact except_error
  split
  · exact except_error
  · exact except_ok (pair_eq fun _ e => e ▸ h0)

theorem State.reportRead_keeps {s : State} {ctx : Nat} {va : Nat} {n : Nat} (h0 : MemoryCanonical s) : MemoryCanonical (State.reportRead s ctx va n) := by
  unfold State.reportRead
  repeat' first
    | with_reducible assumption
    | with_reducible refine State.reportMalformed_keeps ?_
    | split

theorem State.contextRead_of {s : State} {ctx : Nat} {va : Nat} {n : Nat} {a1} {out} (h0 : MemoryCanonical s) (e : State.contextRead s ctx va n = .ok (a1, out)) : MemoryCanonical out := by
  unfold State.contextRead at e
  revert e
  repeat' first
    | with_reducible assumption
    | (intro e; with_reducible refine State.deviceRead_of ?_ e)
    | with_reducible exact except_error
    | split

/-! ### Logline -/

theorem State.logStore_keeps {s : State} {ctx : Nat} {ia : Nat} {bs : List Byte} (h0 : MemoryCanonical s) : MemoryCanonical (State.logStore s ctx ia bs) := by
  unfold State.logStore
  repeat' first
    | with_reducible assumption
    | with_reducible refine State.emit_keeps ?_
    | with_reducible refine State.writeMem_keeps ?_
    | with_reducible refine State.homeWrite_keeps ?_
    | split

theorem State.logAppend_keeps {s : State} {ctx : Nat} {kind : Nat} {time : Nat} {place : CoreId} {slot : Nat} {payload : List Byte} (h0 : MemoryCanonical s) : MemoryCanonical (State.logAppend s ctx kind time place slot payload) := by
  unfold State.logAppend
  repeat' first
    | with_reducible assumption
    | with_reducible refine State.updCtx_keeps ?_
    | with_reducible refine State.logStore_keeps ?_
    | dsimp only
    | split

theorem State.logUse_keeps {s : State} {ctx : Nat} {unit : Nat} (h0 : MemoryCanonical s) : MemoryCanonical (State.logUse s ctx unit) := by
  unfold State.logUse
  repeat' first
    | with_reducible assumption
    | with_reducible refine State.updCtx_keeps ?_

theorem State.logTake_of {s : State} {ctx : Nat} {kind : Nat} {place : Option Nat} {a1} {out} (h0 : MemoryCanonical s) (e : State.logTake s ctx kind place = some (a1, out)) : MemoryCanonical out := by
  unfold State.logTake at e
  revert e
  repeat' first
    | with_reducible assumption
    | with_reducible refine State.logUse_keeps ?_
    | with_reducible exact none_some
    | with_reducible refine some_some ?_
    | with_reducible refine pair_eq ?_
    | split
    | simp only [Option.map]
    | (intro e; subst e)

theorem State.replayDiffers_keeps {s : State} {ctx : Nat} {c : CoreId} (h0 : MemoryCanonical s) : MemoryCanonical (State.replayDiffers s ctx c) := by
  unfold State.replayDiffers
  repeat' first
    | with_reducible assumption
    | with_reducible refine State.setCtl_keeps ?_
    | with_reducible refine State.faultRecord_keeps ?_

/-! ### Records -/

theorem State.validate_of {s : State} {ctx : Nat} {bs : List Byte} {poster : Poster} {a1} {out} (h0 : MemoryCanonical s) (e : State.validate s ctx bs poster = .ok (a1, out)) : MemoryCanonical out := by
  unfold State.validate at e
  revert e
  repeat' first
    | with_reducible assumption
    | with_reducible refine State.contextRead_of ?_ (by with_reducible assumption)
    | dsimp only
    | with_reducible exact except_error
    | with_reducible refine except_ok ?_
    | with_reducible refine pair_eq ?_
    | split
    | (intro e; subst e)

theorem State.reject_keeps {s : State} {ctx : Nat} {code : Nat} (h0 : MemoryCanonical s) : MemoryCanonical (State.reject s ctx code) := by
  unfold State.reject
  repeat' first
    | with_reducible assumption
    | with_reducible refine State.updCtx_keeps ?_

theorem State.post_of {s : State} {ctx : Nat} {bs : List Byte} {poster : Poster} {a1} {out} (h0 : MemoryCanonical s) (e : State.post s ctx bs poster = (a1, out)) : MemoryCanonical out := by
  unfold State.post at e
  revert e
  repeat' first
    | with_reducible assumption
    | with_reducible refine State.updCtx_keeps ?_
    | with_reducible refine State.fresh_keeps ?_
    | with_reducible refine State.reportRead_keeps ?_
    | with_reducible refine State.validate_of ?_ (by with_reducible assumption)
    | with_reducible refine State.reject_keeps ?_
    | dsimp only
    | with_reducible refine pair_eq ?_
    | split
    | (intro e; subst e)

theorem State.post_keeps {s : State} {ctx : Nat} {bs : List Byte} {poster : Poster} (h0 : MemoryCanonical s) : MemoryCanonical (State.post s ctx bs poster).2 := State.post_of h0 rfl

theorem State.devicePost_of {s : State} {ctx : Nat} {bs : List Byte} {poster : Poster} {a1} {out} (h0 : MemoryCanonical s) (e : State.devicePost s ctx bs poster = (a1, out)) : MemoryCanonical out := by
  unfold State.devicePost at e
  revert e
  repeat' first
    | with_reducible assumption
    | with_reducible refine State.reject_keeps ?_
    | with_reducible refine State.post_keeps ?_
    | dsimp only
    | with_reducible refine pair_eq ?_
    | split
    | (intro e; subst e)

theorem State.devicePost_keeps {s : State} {ctx : Nat} {bs : List Byte} {poster : Poster} (h0 : MemoryCanonical s) : MemoryCanonical (State.devicePost s ctx bs poster).2 := State.devicePost_of h0 rfl

theorem State.cancelGroup_keeps {s : State} {ctx : Nat} {g : Nat} (h0 : MemoryCanonical s) : MemoryCanonical (State.cancelGroup s ctx g) := by
  unfold State.cancelGroup
  repeat' first
    | with_reducible assumption
    | with_reducible refine State.updCtx_keeps ?_
    | simp only [canonical_mk]
    | with_reducible refine memory_of ?_

theorem State.cancelGroups_keeps {s : State} {ctx : Nat} {mask : W64} (h0 : MemoryCanonical s) : MemoryCanonical (State.cancelGroups s ctx mask) := by
  unfold State.cancelGroups
  repeat' first
    | with_reducible assumption
    | with_reducible refine State.cancelGroup_keeps ?_
    | with_reducible refine foldl_keeps (fun _ _ _ => ?_) ?_
    | split

theorem State.bindWindows_of {s : State} {ctx : Nat} {y2 : List Nat} {a1} {out} (h0 : MemoryCanonical s) (e : State.bindWindows s ctx y2 = (a1, out)) : MemoryCanonical out := by
  induction y2 generalizing s ctx h0 a1 out with
  | nil =>
    unfold State.bindWindows at e
    revert e
    repeat' first
      | with_reducible assumption
      | with_reducible refine pair_eq ?_
      | (intro e; subst e)
  | cons _ _ ih =>
    unfold State.bindWindows at e
    revert e
    repeat' first
      | with_reducible assumption
      | with_reducible refine ih ?_ rfl
      | with_reducible refine State.contextRead_of ?_ (by with_reducible assumption)
      | dsimp only
      | with_reducible refine pair_eq ?_
      | split
      | (intro e; subst e)

theorem State.bindWindows_keeps {s : State} {ctx : Nat} {y2 : List Nat} (h0 : MemoryCanonical s) : MemoryCanonical (State.bindWindows s ctx y2).2 := State.bindWindows_of h0 rfl

theorem State.launchPart_keeps {s : State} {tm : Team} {base : Nat} {p : Part} (h0 : MemoryCanonical s) : MemoryCanonical (State.launchPart s tm base p) := by
  unfold State.launchPart
  repeat' first
    | with_reducible assumption
    | with_reducible refine State.fresh_keeps ?_
    | with_reducible refine State.formGroup_keeps ?_
    | simp only [canonical_mk]
    | with_reducible refine memory_of ?_
    | with_reducible refine foldl_keeps (fun _ _ _ => ?_) ?_
    | split

theorem State.reservePool_keeps {s : State} {tm : Team} {die : Nat} {site : Nat} (h0 : MemoryCanonical s) : MemoryCanonical (State.reservePool s tm die site) := by
  unfold State.reservePool
  repeat' first
    | with_reducible assumption
    | simp only [canonical_mk]
    | with_reducible refine memory_of ?_
    | split

theorem State.beginEntry_of {s : State} {h : State.Head} {out} {a1} (h0 : MemoryCanonical s) (e : State.beginEntry s h = (out, a1)) : MemoryCanonical out := by
  unfold State.beginEntry at e
  revert e
  repeat' first
    | with_reducible assumption
    | with_reducible refine State.logAppend_keeps ?_
    | with_reducible refine State.logUse_keeps ?_
    | dsimp only
    | with_reducible refine pair_eq ?_
    | split
    | simp only [Option.map, Option.getD]
    | (intro e; subst e)

theorem State.beginEntry_keeps {s : State} {h : State.Head} (h0 : MemoryCanonical s) : MemoryCanonical (State.beginEntry s h).1 := State.beginEntry_of h0 rfl

theorem State.logPlace_keeps {s : State} {r : Run} {word : Nat} (h0 : MemoryCanonical s) : MemoryCanonical (State.logPlace s r word) := by
  unfold State.logPlace
  repeat' first
    | with_reducible assumption
    | with_reducible refine State.updRun_keeps ?_
    | with_reducible refine State.logStore_keeps ?_
    | with_reducible refine State.beginEntry_keeps ?_
    | dsimp only
    | split

theorem State.launch_keeps {s : State} {r : Run} {parts : List Part} (h0 : MemoryCanonical s) : MemoryCanonical (State.launch s r parts) := by
  unfold State.launch
  repeat' first
    | with_reducible assumption
    | with_reducible refine State.updRun_keeps ?_
    | with_reducible refine State.updDie_keeps ?_
    | with_reducible refine State.fresh_keeps ?_
    | with_reducible refine State.bindWindows_keeps ?_
    | with_reducible refine State.launchPart_keeps ?_
    | with_reducible refine State.reservePool_keeps ?_
    | with_reducible refine State.logPlace_keeps ?_
    | simp only [canonical_mk]
    | with_reducible refine memory_of ?_
    | with_reducible refine foldl_keeps (fun _ _ _ => ?_) ?_
    | with_reducible refine foldl_snd_keeps (fun _ _ _ => ?_) ?_
    | split

theorem State.dequeue_keeps {s : State} {ctx : Nat} {r : Record} {die : Nat} (h0 : MemoryCanonical s) : MemoryCanonical (State.dequeue s ctx r die) := by
  unfold State.dequeue
  repeat' first
    | with_reducible assumption
    | with_reducible refine State.updCtx_keeps ?_
    | with_reducible refine State.fresh_keeps ?_
    | with_reducible refine State.retire_keeps ?_
    | with_reducible refine State.beginEntry_keeps ?_
    | simp only [canonical_mk]
    | with_reducible refine memory_of ?_
    | split

theorem execPilotDequeue_keeps {die : Nat} {s : State} {out} (h0 : MemoryCanonical s) (e : execPilotDequeue die s = .next out) : MemoryCanonical out := by
  unfold execPilotDequeue at e
  revert e
  repeat' first
    | with_reducible assumption
    | with_reducible refine State.replayDiffers_keeps ?_
    | with_reducible refine State.dequeue_keeps ?_
    | with_reducible refine next_next ?_
    | split
    | (intro e; subst e)

theorem execTeamPlace_keeps {die : Nat} {s : State} {out} (h0 : MemoryCanonical s) (e : execTeamPlace die s = .next out) : MemoryCanonical out := by
  unfold execTeamPlace at e
  revert e
  repeat' first
    | with_reducible assumption
    | with_reducible refine State.launch_keeps ?_
    | with_reducible refine next_next ?_
    | split
    | (intro e; subst e)

theorem execCreditRetire_keeps {ctx : Nat} {s : State} {out} (h0 : MemoryCanonical s) (e : execCreditRetire ctx s = .next out) : MemoryCanonical out := by
  unfold execCreditRetire at e
  revert e
  repeat' first
    | with_reducible assumption
    | with_reducible refine State.updCtx_keeps ?_
    | with_reducible refine next_next ?_
    | (intro e; subst e)

theorem State.answer_keeps {s : State} {hart : Nat} {data : List Byte} {error : Bool} (h0 : MemoryCanonical s) : MemoryCanonical (State.answer s hart data error) := by
  unfold State.answer
  repeat' first
    | with_reducible assumption
    | with_reducible refine State.emit_keeps ?_

theorem State.hostPost_keeps {s : State} {hart : Nat} {ctx : Nat} {bs : List Byte} (h0 : MemoryCanonical s) : MemoryCanonical (State.hostPost s hart ctx bs) := by
  unfold State.hostPost
  repeat' first
    | with_reducible assumption
    | with_reducible refine State.post_keeps ?_
    | with_reducible refine State.answer_keeps ?_
    | split

theorem breakSequence_keeps {s : State} {hart : Nat} {ctx : Nat} {offset : Nat} {n : Nat} (h0 : MemoryCanonical s) : MemoryCanonical (breakSequence s hart ctx offset n) := by
  unfold breakSequence
  repeat' first
    | with_reducible assumption
    | with_reducible refine State.reject_keeps ?_
    | simp only [canonical_mk]
    | with_reducible refine memory_of ?_
    | split

theorem execRecordPost_keeps {ctx : Nat} {offset : Nat} {bytes : List Byte} {s : State} {out} (h0 : MemoryCanonical s) (e : execRecordPost ctx offset bytes s = .next out) : MemoryCanonical out := by
  unfold execRecordPost at e
  revert e
  repeat' first
    | with_reducible assumption
    | with_reducible refine State.answer_keeps ?_
    | with_reducible refine State.hostPost_keeps ?_
    | with_reducible refine breakSequence_keeps ?_
    | with_reducible refine next_next ?_
    | split
    | (intro e; subst e)

theorem execPostSequenceStore_keeps {hart : Nat} {ctx : Nat} {offset : Nat} {value : W64} {s : State} {out} (h0 : MemoryCanonical s) (e : execPostSequenceStore hart ctx offset value s = .next out) : MemoryCanonical out := by
  unfold execPostSequenceStore at e
  revert e
  repeat' first
    | with_reducible assumption
    | with_reducible refine State.reject_keeps ?_
    | with_reducible refine State.answer_keeps ?_
    | with_reducible refine State.hostPost_keeps ?_
    | simp only [canonical_mk]
    | with_reducible refine memory_of ?_
    | with_reducible refine next_next ?_
    | split
    | (intro e; subst e)

theorem execCancelset_keeps {ctx : Nat} {groups : W64} {s : State} {out} (h0 : MemoryCanonical s) (e : execCancelset ctx groups s = .next out) : MemoryCanonical out := by
  unfold execCancelset at e
  revert e
  repeat' first
    | with_reducible assumption
    | with_reducible refine State.cancelGroups_keeps ?_
    | with_reducible refine next_next ?_
    | (intro e; subst e)

/-! ### Registers -/

theorem State.writeCtl_keeps {s : State} {ctx : Nat} {v : W64} (h0 : MemoryCanonical s) : MemoryCanonical (State.writeCtl s ctx v) := by
  unfold State.writeCtl
  repeat' first
    | with_reducible assumption
    | with_reducible refine State.updCtx_keeps ?_
    | simp only [canonical_mk]
    | with_reducible refine memory_of ?_
    | dsimp only

theorem State.supWrite_keeps {s : State} {ctx : Nat} {n : Nat} {v : W64} (h0 : MemoryCanonical s) : MemoryCanonical (State.supWrite s ctx n v) := by
  unfold State.supWrite
  repeat' first
    | with_reducible assumption
    | with_reducible refine State.updCtx_keeps ?_
    | with_reducible refine State.writeCtl_keeps ?_
    | simp only [canonical_mk]
    | with_reducible refine memory_of ?_
    | split

theorem State.setEntry_keeps {s : State} {pa : Nat} {v : Nat} (h0 : MemoryCanonical s) : MemoryCanonical (State.setEntry s pa v) := by
  unfold State.setEntry
  repeat' first
    | with_reducible assumption
    | with_reducible refine State.writeMem_keeps ?_

theorem State.migStart_keeps {s : State} {k : Nat} (h0 : MemoryCanonical s) : MemoryCanonical (State.migStart s k) := by
  unfold State.migStart
  repeat' first
    | with_reducible assumption
    | with_reducible refine State.after_keeps ?_
    | with_reducible refine State.updMemDie_keeps ?_
    | with_reducible refine State.setEntry_keeps ?_
    | dsimp only
    | split

theorem State.promPush_keeps {s : State} {k : Nat} {v : W64} (h0 : MemoryCanonical s) : MemoryCanonical (State.promPush s k v) := by
  unfold State.promPush
  repeat' first
    | with_reducible assumption
    | with_reducible refine State.updMemDie_keeps ?_

theorem State.memDieWrite_keeps {s : State} {k : Nat} {n : Nat} {v : W64} (h0 : MemoryCanonical s) : MemoryCanonical (State.memDieWrite s k n v) := by
  unfold State.memDieWrite
  repeat' first
    | with_reducible assumption
    | with_reducible refine State.updMemDie_keeps ?_
    | with_reducible refine State.migStart_keeps ?_
    | with_reducible refine State.promPush_keeps ?_
    | split

theorem State.zeroHidden_keeps {s : State} {d : Nat} (h0 : MemoryCanonical s) : MemoryCanonical (State.zeroHidden s d) := by
  unfold State.zeroHidden
  repeat' first
    | with_reducible assumption
    | simp only [canonical_mk]
    | with_reducible refine memory_of ?_

theorem State.applyRender_keeps {s : State} {d : Nat} {ws : List (Nat × W64)} (h0 : MemoryCanonical s) : MemoryCanonical (State.applyRender s d ws) := by
  unfold State.applyRender
  repeat' first
    | with_reducible assumption
    | with_reducible refine State.updDie_keeps ?_
    | with_reducible refine State.zeroHidden_keeps ?_
    | dsimp only
    | split

theorem State.snapGo_keeps {s : State} {d : Nat} {n : Nat} (h0 : MemoryCanonical s) : MemoryCanonical (State.snapGo s d n) := by
  unfold State.snapGo
  repeat' first
    | with_reducible assumption
    | with_reducible refine State.updDie_keeps ?_
    | with_reducible refine State.after_keeps ?_
    | dsimp only
    | split

theorem State.renderWrite_keeps {s : State} {d : Nat} {o : Nat} {v : W64} (h0 : MemoryCanonical s) : MemoryCanonical (State.renderWrite s d o v) := by
  unfold State.renderWrite
  repeat' first
    | with_reducible assumption
    | with_reducible refine State.updDie_keeps ?_
    | with_reducible refine State.applyRender_keeps ?_
    | with_reducible refine State.snapGo_keeps ?_
    | dsimp only
    | split

theorem State.dmodeWrite_keeps {s : State} {v : W64} (h0 : MemoryCanonical s) : MemoryCanonical (State.dmodeWrite s v) := by
  unfold State.dmodeWrite
  repeat' first
    | with_reducible assumption
    | with_reducible refine State.atTick_keeps ?_
    | simp only [canonical_mk]
    | with_reducible refine memory_of ?_
    | split

theorem State.setSec_keeps {s : State} {st : Nat} (h0 : MemoryCanonical s) : MemoryCanonical (State.setSec s st) := by
  unfold State.setSec
  repeat' first
    | with_reducible assumption
    | simp only [canonical_mk]
    | with_reducible refine memory_of ?_

theorem State.secExtend_keeps {s : State} {mr : Nat} (h0 : MemoryCanonical s) : MemoryCanonical (State.secExtend s mr) := by
  unfold State.secExtend
  repeat' first
    | with_reducible assumption
    | with_reducible refine State.reportMalformed_keeps ?_
    | with_reducible refine State.homeBytes_of ?_ (by with_reducible assumption)
    | with_reducible refine State.setSec_keeps ?_
    | simp only [canonical_mk]
    | with_reducible refine memory_of ?_
    | split

theorem State.secAttest_keeps {s : State} (h0 : MemoryCanonical s) : MemoryCanonical (State.secAttest s) := by
  unfold State.secAttest
  repeat' first
    | with_reducible assumption
    | with_reducible refine State.after_keeps ?_
    | with_reducible refine State.reportMalformed_keeps ?_
    | with_reducible refine State.homeBytes_of ?_ (by with_reducible assumption)
    | with_reducible refine State.setSec_keeps ?_
    | simp only [canonical_mk]
    | with_reducible refine memory_of ?_
    | split

theorem State.secCommand_keeps {s : State} {v : W64} (h0 : MemoryCanonical s) : MemoryCanonical (State.secCommand s v) := by
  unfold State.secCommand
  repeat' first
    | with_reducible assumption
    | with_reducible refine State.secExtend_keeps ?_
    | with_reducible refine State.secAttest_keeps ?_
    | split

theorem State.logLimitWrite_keeps {s : State} {ctx : Nat} {v : W64} (h0 : MemoryCanonical s) : MemoryCanonical (State.logLimitWrite s ctx v) := by
  unfold State.logLimitWrite
  repeat' first
    | with_reducible assumption
    | with_reducible refine State.updCtx_keeps ?_

theorem State.logCtlWrite_keeps {s : State} {ctx : Nat} {v : W64} (h0 : MemoryCanonical s) : MemoryCanonical (State.logCtlWrite s ctx v) := by
  unfold State.logCtlWrite
  repeat' first
    | with_reducible assumption
    | with_reducible refine State.updCtx_keeps ?_

theorem State.packageWrite_keeps {s : State} {o : Nat} {v : W64} (h0 : MemoryCanonical s) : MemoryCanonical (State.packageWrite s o v) := by
  unfold State.packageWrite
  repeat' first
    | with_reducible assumption
    | with_reducible refine State.updCtx_keeps ?_
    | with_reducible refine State.reboot_keeps ?_
    | with_reducible refine State.secCommand_keeps ?_
    | with_reducible refine State.logLimitWrite_keeps ?_
    | with_reducible refine State.logCtlWrite_keeps ?_
    | simp only [canonical_mk]
    | with_reducible refine memory_of ?_
    | split

theorem State.frReadWrite_keeps {s : State} {ctx : Nat} {v : W64} (h0 : MemoryCanonical s) : MemoryCanonical (State.frReadWrite s ctx v) := by
  unfold State.frReadWrite
  repeat' first
    | with_reducible assumption
    | with_reducible refine State.updCtx_keeps ?_

theorem State.blockWrite_of {s : State} {b : State.Block} {v : W64} {out} (h0 : MemoryCanonical s) (e : State.blockWrite s b v = some out) : MemoryCanonical out := by
  unfold State.blockWrite at e
  revert e
  repeat' first
    | with_reducible assumption
    | with_reducible refine State.updCtx_keeps ?_
    | with_reducible refine State.cancelGroups_keeps ?_
    | with_reducible refine State.supWrite_keeps ?_
    | with_reducible refine State.memDieWrite_keeps ?_
    | with_reducible refine State.renderWrite_keeps ?_
    | with_reducible refine State.dmodeWrite_keeps ?_
    | with_reducible refine State.packageWrite_keeps ?_
    | with_reducible refine State.frReadWrite_keeps ?_
    | with_reducible exact none_some
    | with_reducible refine some_some ?_
    | split
    | (intro e; subst e)

theorem State.siltStore_keeps {s : State} {d : Nat} {o : Nat} {bs : List Byte} (h0 : MemoryCanonical s) : MemoryCanonical (State.siltStore s d o bs) := by
  unfold State.siltStore
  repeat' first
    | with_reducible assumption
    | with_reducible refine State.writeMem_keeps ?_
    | with_reducible refine foldl_keeps (fun _ _ _ => ?_) ?_
    | split

theorem State.storeBlock_of {s : State} {b : State.Block} {v : W64} {out : State} (h0 : MemoryCanonical s)
    (e : (match s.blockWrite b v with | some s => Except.ok s | none => .error Cause.page) = Except.ok out) : MemoryCanonical out := by
  generalize hw : s.blockWrite b v = w at e
  cases w with
  | none => exact absurd e nofun
  | some t => exact Except.ok.inj e ▸ State.blockWrite_of h0 hw

theorem State.blockStore_of {s : State} {device : Bool} {ia : Nat} {bs : List Byte} {k : Option State.Block} {out} (h0 : MemoryCanonical s) (e : State.blockStore s device ia bs k = .ok out) : MemoryCanonical out := by
  unfold State.blockStore at e
  revert e
  split
  · exact except_error
  · exact except_ok fun e => e ▸ State.siltStore_keeps h0
  · rename_i b _
    cases device && !b.device with
    | true => exact except_error
    | false =>
      by_cases hc : bs.length ≠ 8 ∨ ia % 8 ≠ 0
      · rw [if_pos hc]; exact except_error
      · rw [if_neg hc]; exact fun e => State.storeBlock_of h0 e

theorem State.apertureWrite_of {s : State} {device : Bool} {ia : Nat} {bs : List Byte} {out} (h0 : MemoryCanonical s) (e : State.apertureWrite s device ia bs = .ok out) : MemoryCanonical out := by
  exact State.blockStore_of h0 e

theorem State.deviceWrite_of {s : State} {ia : Nat} {bs : List Byte} {ctx : Nat} {out} {a1} (h0 : MemoryCanonical s) (e : State.deviceWrite s ia bs ctx = .ok (out, a1)) : MemoryCanonical out := by
  unfold State.deviceWrite at e
  revert e
  split
  · split
    · exact except_error
    · exact except_ok fun e => State.homeWrite_of h0 e
  split
  · cases hw : State.apertureWrite s true ia bs with
    | ok v => exact except_ok (pair_eq fun e _ => e ▸ State.apertureWrite_of h0 hw)
    | error v => exact except_error
  split
  · exact except_error
  split
  · exact except_error
  · exact except_ok (pair_eq fun e _ => e ▸ State.emit_keeps h0)

theorem State.metError_ok {s : State} {ia n : Nat} {need : Need} {c : Nat} {α : Type} {b : α} {p : Prop} : (s.metError ia n need c : State.Met α) = .ok b → p := by
  unfold State.metError
  repeat' split
  all_goals nofun

theorem State.engineRead_of {s : State} {ctx : Nat} {va : Nat} {n : Nat} {a1} {out} (h0 : MemoryCanonical s) (e : State.engineRead s ctx va n = .ok (a1, out)) : MemoryCanonical out := by
  unfold State.engineRead at e
  revert e
  repeat' first
    | with_reducible assumption
    | with_reducible refine State.deviceRead_of ?_ (by with_reducible assumption)
    | with_reducible exact met_cause
    | with_reducible refine met_ok ?_
    | with_reducible refine pair_eq ?_
    | with_reducible exact State.metError_ok
    | split
    | (intro e; subst e)

theorem State.engineWrite_of {s : State} {ctx : Nat} {ia : Nat} {bs : List Byte} {out} {a1} (h0 : MemoryCanonical s) (e : State.engineWrite s ctx ia bs = (out, a1)) : MemoryCanonical out := by
  unfold State.engineWrite at e
  revert e
  repeat' first
    | with_reducible assumption
    | with_reducible refine State.deviceWrite_of ?_ (by with_reducible assumption)
    | dsimp only
    | with_reducible refine pair_eq ?_
    | split
    | (intro e; subst e)

theorem State.engineWrite_keeps {s : State} {ctx : Nat} {ia : Nat} {bs : List Byte} (h0 : MemoryCanonical s) : MemoryCanonical (State.engineWrite s ctx ia bs).1 := State.engineWrite_of h0 rfl

theorem State.ackedFrom_of {s : State} {ia : Nat} {a1} {out} (h0 : MemoryCanonical s) (e : State.ackedFrom s ia = (a1, out)) : MemoryCanonical out := by
  unfold State.ackedFrom at e
  revert e
  repeat' first
    | with_reducible assumption
    | simp only [canonical_mk]
    | with_reducible refine memory_of ?_
    | with_reducible refine pair_eq ?_
    | split
    | (intro e; subst e)

theorem State.ackedFrom_keeps {s : State} {ia : Nat} (h0 : MemoryCanonical s) : MemoryCanonical (State.ackedFrom s ia).2 := State.ackedFrom_of h0 rfl

theorem execRegisterWrite_keeps {ia : Nat} {value : W64} {s : State} {out} (h0 : MemoryCanonical s) (e : execRegisterWrite ia value s = .next out) : MemoryCanonical out := by
  unfold execRegisterWrite at e
  revert e
  repeat' first
    | with_reducible assumption
    | with_reducible refine State.answer_keeps ?_
    | with_reducible refine State.apertureWrite_of ?_ (by with_reducible assumption)
    | with_reducible refine next_next ?_
    | split
    | (intro e; subst e)

theorem execFrreadWrite_keeps {ctx : Nat} {value : W64} {s : State} {out} (h0 : MemoryCanonical s) (e : execFrreadWrite ctx value s = .next out) : MemoryCanonical out := by
  unfold execFrreadWrite at e
  revert e
  repeat' first
    | with_reducible assumption
    | with_reducible refine State.frReadWrite_keeps ?_
    | with_reducible refine next_next ?_
    | (intro e; subst e)

theorem execDmodeWrite_keeps {value : W64} {s : State} {out} (h0 : MemoryCanonical s) (e : execDmodeWrite value s = .next out) : MemoryCanonical out := by
  unfold execDmodeWrite at e
  revert e
  repeat' first
    | with_reducible assumption
    | with_reducible refine State.dmodeWrite_keeps ?_
    | with_reducible refine next_next ?_
    | (intro e; subst e)

theorem execSnapshotGo_keeps {die : Nat} {n : Nat} {s : State} {out} (h0 : MemoryCanonical s) (e : execSnapshotGo die n s = .next out) : MemoryCanonical out := by
  unfold execSnapshotGo at e
  revert e
  repeat' first
    | with_reducible assumption
    | with_reducible refine State.snapGo_keeps ?_
    | with_reducible refine next_next ?_
    | (intro e; subst e)

theorem execMigctlStart_keeps {socket : Nat} {s : State} {out} (h0 : MemoryCanonical s) (e : execMigctlStart socket s = .next out) : MemoryCanonical out := by
  unfold execMigctlStart at e
  revert e
  repeat' first
    | with_reducible assumption
    | with_reducible refine State.migStart_keeps ?_
    | with_reducible refine next_next ?_
    | split
    | (intro e; subst e)

theorem execPromctlPush_keeps {socket : Nat} {value : W64} {s : State} {out} (h0 : MemoryCanonical s) (e : execPromctlPush socket value s = .next out) : MemoryCanonical out := by
  unfold execPromctlPush at e
  revert e
  repeat' first
    | with_reducible assumption
    | with_reducible refine State.memDieWrite_keeps ?_
    | with_reducible refine next_next ?_
    | split
    | (intro e; subst e)

theorem execContextEnable_keeps {ctx : Nat} {s : State} {out} (h0 : MemoryCanonical s) (e : execContextEnable ctx s = .next out) : MemoryCanonical out := by
  unfold execContextEnable at e
  revert e
  repeat' first
    | with_reducible assumption
    | with_reducible refine State.writeCtl_keeps ?_
    | with_reducible refine next_next ?_
    | (intro e; subst e)

theorem execContextHalt_keeps {ctx : Nat} {s : State} {out} (h0 : MemoryCanonical s) (e : execContextHalt ctx s = .next out) : MemoryCanonical out := by
  unfold execContextHalt at e
  revert e
  repeat' first
    | with_reducible assumption
    | with_reducible refine State.writeCtl_keeps ?_
    | with_reducible refine next_next ?_
    | (intro e; subst e)

theorem execDeadClear_keeps {ctx : Nat} {s : State} {out} (h0 : MemoryCanonical s) (e : execDeadClear ctx s = .next out) : MemoryCanonical out := by
  unfold execDeadClear at e
  revert e
  repeat' first
    | with_reducible assumption
    | with_reducible refine State.writeCtl_keeps ?_
    | with_reducible refine next_next ?_
    | (intro e; subst e)

theorem execLogEnable_keeps {ctx : Nat} {s : State} {out} (h0 : MemoryCanonical s) (e : execLogEnable ctx s = .next out) : MemoryCanonical out := by
  unfold execLogEnable at e
  revert e
  repeat' first
    | with_reducible assumption
    | with_reducible refine State.writeCtl_keeps ?_
    | with_reducible refine next_next ?_
    | (intro e; subst e)

theorem execLoglimitWrite_keeps {ctx : Nat} {value : W64} {s : State} {out} (h0 : MemoryCanonical s) (e : execLoglimitWrite ctx value s = .next out) : MemoryCanonical out := by
  unfold execLoglimitWrite at e
  revert e
  repeat' first
    | with_reducible assumption
    | with_reducible refine State.logLimitWrite_keeps ?_
    | with_reducible refine next_next ?_
    | (intro e; subst e)

theorem execSecExtend_keeps {mr : Nat} {s : State} {out} (h0 : MemoryCanonical s) (e : execSecExtend mr s = .next out) : MemoryCanonical out := by
  unfold execSecExtend at e
  revert e
  repeat' first
    | with_reducible assumption
    | with_reducible refine State.secExtend_keeps ?_
    | with_reducible refine next_next ?_
    | (intro e; subst e)

theorem execSecAttest_keeps {s : State} {out} (h0 : MemoryCanonical s) (e : execSecAttest s = .next out) : MemoryCanonical out := by
  unfold execSecAttest at e
  revert e
  repeat' first
    | with_reducible assumption
    | with_reducible refine State.secAttest_keeps ?_
    | with_reducible refine next_next ?_
    | (intro e; subst e)

theorem execAttestReportDone_keeps {s : State} {out} (h0 : MemoryCanonical s) (e : execAttestReportDone s = .next out) : MemoryCanonical out := by
  unfold execAttestReportDone at e
  revert e
  repeat' first
    | with_reducible assumption
    | with_reducible refine State.reportMalformed_keeps ?_
    | with_reducible refine State.homeWrite_keeps ?_
    | with_reducible refine State.setSec_keeps ?_
    | dsimp only
    | with_reducible refine next_next ?_
    | split
    | (intro e; subst e)

end Sys2Proof.Machine
end

