-- ==== Sys2Proof/Laws/CanonicalCommands.lean ====
section
/-! SUPPORT. Every operation keeps module memory in its canonical form (assumption 2): engine commands, stages, barriers, messages, atomics, the system instructions. `f_keeps` says it of the state
that f answers, `f_of` of the state in an answer that may be an error. -/

namespace Sys2Proof.Machine

open Sys2Proof.Safety

/-! ### Traverse -/

theorem traverseFor_of {a : TraceArgs} {fuel : Nat} {y2 : State} {y3 : Walker} {a1} {out} (h0 : MemoryCanonical y2) (e : traverseFor a fuel y2 y3 = .ok (a1, out)) : MemoryCanonical out := by
  induction fuel generalizing a y2 y3 h0 a1 out with
  | zero =>
    unfold traverseFor at e
    revert e
    repeat' first
      | with_reducible assumption
      | with_reducible refine met_ok ?_
      | with_reducible refine pair_eq ?_
      | (intro e; subst e)
  | succ _ ih =>
    unfold traverseFor at e
    revert e
    repeat' first
      | with_reducible assumption
      | (intro e; with_reducible refine ih ?_ e)
      | with_reducible refine State.engineRead_of ?_ (by with_reducible assumption)
      | dsimp only
      | with_reducible exact met_cause
      | with_reducible exact met_absent
      | with_reducible exact met_uncorrected
      | with_reducible refine met_ok ?_
      | with_reducible refine pair_eq ?_
      | split
      | (intro e; subst e)

theorem traverse_of {a : TraceArgs} {tmax : Lim} {s : State} {a1} {out} (h0 : MemoryCanonical s) (e : traverse a tmax s = .ok (a1, out)) : MemoryCanonical out := by
  unfold traverse at e
  revert e
  repeat' first
    | with_reducible assumption
    | (intro e; with_reducible refine traverseFor_of ?_ e)
    | with_reducible refine met_ok ?_
    | with_reducible refine pair_eq ?_
    | split
    | (intro e; subst e)

theorem payload_of {s : State} {p : Prop} [Decidable p] {ctx va n : Nat} {l : List Byte} {out : State} (h0 : MemoryCanonical s)
    (e : (if p then State.Met.ok ([], s) else s.engineRead ctx va n) = .ok (l, out)) : MemoryCanonical out := by
  revert e
  split
  · exact met_ok (pair_eq fun _ e => e ▸ h0)
  · exact fun e => State.engineRead_of h0 e

theorem reportOption_keeps {s : State} {ctx : Nat} {a : Option Nat} {n : Nat} (h0 : MemoryCanonical s) :
    MemoryCanonical ((a.map fun a => s.reportMalformed ctx a n).getD s) := by
  cases a with
  | none => exact h0
  | some a => exact State.reportMalformed_keeps h0

theorem traceChecked_of {s : State} {ctx : Nat} {die : Nat} {va : Nat} {b : Nat} {hwin : W64 × W64 × W64} {a1} {out} (h0 : MemoryCanonical s) (e : traceChecked s ctx die va b hwin = .ok (a1, out)) : MemoryCanonical out := by
  unfold traceChecked at e
  revert e
  repeat' first
    | with_reducible assumption
    | with_reducible refine reportOption_keeps ?_
    | with_reducible refine State.engineRead_of ?_ (by with_reducible assumption)
    | with_reducible refine traverse_of ?_ (by with_reducible assumption)
    | dsimp only
    | with_reducible refine payload_of ?_ (by with_reducible assumption)
    | with_reducible exact met_absent
    | with_reducible exact met_uncorrected
    | with_reducible refine met_ok ?_
    | with_reducible refine pair_eq ?_
    | split
    | (intro e; subst e)

theorem traceLane_of {s : State} {ctx : Nat} {die : Nat} {va : Nat} {b : Nat} {hwin : W64 × W64 × W64} {a1} {out} (h0 : MemoryCanonical s) (e : traceLane s ctx die va b hwin = .ok (a1, out)) : MemoryCanonical out := by
  unfold traceLane at e
  revert e
  repeat' first
    | with_reducible assumption
    | (intro e; with_reducible refine traceChecked_of ?_ e)
    | with_reducible refine traceChecked_of ?_ (by with_reducible assumption)
    | dsimp only
    | with_reducible refine met_ok ?_
    | with_reducible refine pair_eq ?_
    | split
    | (intro e; subst e)

/-! ### Engine -/

theorem State.updBarrier_keeps {s : State} {ctx : Nat} {b : Nat} {f : Barrier → Barrier} (h0 : MemoryCanonical s) : MemoryCanonical (State.updBarrier s ctx b f) := by
  unfold State.updBarrier
  repeat' first
    | with_reducible assumption
    | with_reducible refine State.updCtx_keeps ?_

theorem State.pendDone_keeps {s : State} {c : Cmd} {n : Nat} {ew : Nat} (h0 : MemoryCanonical s) : MemoryCanonical (State.pendDone s c n ew) := by
  unfold State.pendDone
  repeat' first
    | with_reducible assumption
    | with_reducible refine State.updCmd_keeps ?_
    | with_reducible refine State.updBarrier_keeps ?_
    | dsimp only
    | split

theorem State.lookAgain_keeps {s : State} {c : Cmd} {d : Nat} {w : Nat} {acked : Nat} (h0 : MemoryCanonical s) : MemoryCanonical (State.lookAgain s c d w acked) := by
  unfold State.lookAgain
  repeat' first
    | with_reducible assumption
    | with_reducible refine State.after_keeps ?_
    | with_reducible refine State.afterFrom_keeps ?_
    | dsimp only
    | split

theorem State.partWritten_keeps {s : State} {c : Cmd} {n : Nat} {w : Nat} {acked : Nat} (h0 : MemoryCanonical s) : MemoryCanonical (State.partWritten s c n w acked) := by
  unfold State.partWritten
  repeat' first
    | with_reducible assumption
    | with_reducible refine State.updCmd_keeps ?_
    | with_reducible refine State.lookAgain_keeps ?_
    | split

theorem State.settleParts_keeps {s : State} {c : Cmd} (h0 : MemoryCanonical s) : MemoryCanonical (State.settleParts s c) := by
  unfold State.settleParts
  repeat' first
    | with_reducible assumption
    | with_reducible refine State.updCmd_keeps ?_
    | with_reducible refine State.pendDone_keeps ?_
    | dsimp only
    | with_reducible refine foldl_keeps (fun _ _ _ => ?_) ?_

theorem State.endCommand_keeps {s : State} {c : Cmd} {lat : Nat} (h0 : MemoryCanonical s) : MemoryCanonical (State.endCommand s c lat) := by
  unfold State.endCommand
  repeat' first
    | with_reducible assumption
    | with_reducible refine State.updCmd_keeps ?_
    | with_reducible refine State.lookAgain_keeps ?_
    | split

theorem State.reportPage_keeps {s : State} {ctx : Nat} {ia : Nat} (h0 : MemoryCanonical s) : MemoryCanonical (State.reportPage s ctx ia) := by
  unfold State.reportPage
  repeat' first
    | with_reducible assumption
    | with_reducible refine State.emit_keeps ?_
    | split

theorem State.blockCommand_keeps {s : State} {c : Cmd} {ia : Nat} (h0 : MemoryCanonical s) : MemoryCanonical (State.blockCommand s c ia) := by
  unfold State.blockCommand
  repeat' first
    | with_reducible assumption
    | with_reducible refine State.reportPage_keeps ?_
    | with_reducible refine State.updCmd_keeps ?_
    | with_reducible refine State.emit_keeps ?_
    | split

theorem State.laneStatus_keeps {s : State} {c : Cmd} {k : Nat} {st : W32} (h0 : MemoryCanonical s) : MemoryCanonical (State.laneStatus s c k st) := by
  unfold State.laneStatus
  repeat' first
    | with_reducible assumption
    | with_reducible refine State.updCmd_keeps ?_

theorem State.dropCommand_keeps {s : State} {id : Nat} (h0 : MemoryCanonical s) : MemoryCanonical (State.dropCommand s id) := by
  unfold State.dropCommand
  repeat' first
    | with_reducible assumption
    | simp only [canonical_mk]
    | with_reducible refine memory_of ?_

theorem State.stopCommand_keeps {s : State} {c : Cmd} {pa : Nat} (h0 : MemoryCanonical s) : MemoryCanonical (State.stopCommand s c pa) := by
  unfold State.stopCommand
  repeat' first
    | with_reducible assumption
    | with_reducible refine State.dropCommand_keeps ?_
    | with_reducible refine State.killContext_keeps ?_

theorem State.noteRemote_keeps {s : State} {id : Nat} {ia : Nat} {acked : Nat} (h0 : MemoryCanonical s) : MemoryCanonical (State.noteRemote s id ia acked) := by
  unfold State.noteRemote
  repeat' first
    | with_reducible assumption
    | with_reducible refine State.updCmd_keeps ?_
    | split

theorem State.copyNext_keeps {s : State} {id : Nat} {fuel : Nat} (h0 : MemoryCanonical s) : MemoryCanonical (State.copyNext s id fuel) := by
  induction fuel generalizing s id h0 with
  | zero =>
    unfold State.copyNext
    repeat' first
      | with_reducible assumption
      | with_reducible refine State.stopCommand_keeps ?_
  | succ _ ih =>
    unfold State.copyNext
    repeat' first
      | with_reducible assumption
      | with_reducible refine State.stopCommand_keeps ?_
      | with_reducible refine ih ?_
      | with_reducible refine State.updCmd_keeps ?_
      | with_reducible refine State.killContext_keeps ?_
      | with_reducible refine State.askPermit_keeps ?_
      | with_reducible refine State.engineRead_of ?_ (by with_reducible assumption)
      | with_reducible refine State.endCommand_keeps ?_
      | with_reducible refine State.blockCommand_keeps ?_
      | with_reducible refine State.laneStatus_keeps ?_
      | dsimp only
      | split

theorem State.copyRead_of {s : State} {c : Cmd} {d : CopyDesc} {e : Nat} {a1} {out} (h0 : MemoryCanonical s) (e : State.copyRead s c d e = .ok (a1, out)) : MemoryCanonical out := by
  unfold State.copyRead at e
  revert e
  repeat' first
    | with_reducible assumption
    | (intro e; with_reducible refine State.engineRead_of ?_ e)
    | dsimp only
    | with_reducible exact met_cause
    | with_reducible exact met_uncorrected
    | with_reducible refine met_ok ?_
    | with_reducible refine pair_eq ?_
    | split
    | (intro e; subst e)

theorem State.copyGather_of {s : State} {c : Cmd} {d : CopyDesc} {y3 : List Nat} {a1} {out} (h0 : MemoryCanonical s) (e : State.copyGather s c d y3 = .ok (a1, out)) : MemoryCanonical out := by
  induction y3 generalizing s c d h0 a1 out with
  | nil =>
    unfold State.copyGather at e
    revert e
    repeat' first
      | with_reducible assumption
      | with_reducible refine met_ok ?_
      | with_reducible refine pair_eq ?_
      | (intro e; subst e)
  | cons _ _ ih =>
    unfold State.copyGather at e
    revert e
    repeat' first
      | with_reducible assumption
      | (intro e; with_reducible refine ih ?_ e)
      | with_reducible refine ih ?_ (by assumption)
      | with_reducible refine State.copyRead_of ?_ (by with_reducible assumption)
      | with_reducible exact met_cause
      | with_reducible exact met_absent
      | with_reducible exact met_uncorrected
      | with_reducible refine met_ok ?_
      | with_reducible refine pair_eq ?_
      | split
      | (intro e; subst e)

theorem State.copyScatter_of {s : State} {c : Cmd} {w : Nat} {acked : Nat} {y4 : List ((Nat × Bool) × List Byte)} {out} {a1} {a2} (h0 : MemoryCanonical s) (e : State.copyScatter s c w acked y4 = (out, a1, a2)) : MemoryCanonical out := by
  induction y4 generalizing s c w acked h0 out a1 a2 with
  | nil =>
    unfold State.copyScatter at e
    revert e
    repeat' first
      | with_reducible assumption
      | with_reducible refine State.noteRemote_keeps ?_
      | with_reducible refine pair_eq ?_
      | (intro e; subst e)
  | cons _ _ ih =>
    unfold State.copyScatter at e
    revert e
    repeat' first
      | with_reducible assumption
      | with_reducible refine State.noteRemote_keeps ?_
      | with_reducible refine ih ?_ rfl
      | with_reducible refine writePlot_keeps ?_
      | with_reducible refine State.engineWrite_keeps ?_
      | with_reducible refine State.ackedFrom_keeps ?_
      | dsimp only
      | with_reducible refine pair_eq ?_
      | split
      | (intro e; subst e)

theorem State.copyScatter_keeps {s : State} {c : Cmd} {w : Nat} {acked : Nat} {y4 : List ((Nat × Bool) × List Byte)} (h0 : MemoryCanonical s) : MemoryCanonical (State.copyScatter s c w acked y4).1 := State.copyScatter_of h0 rfl

theorem State.copyCleans_keeps {s : State} {c : Cmd} {targets : List ((Nat × Bool) × List Byte)} (h0 : MemoryCanonical s) : MemoryCanonical (State.copyCleans s c targets) := by
  unfold State.copyCleans
  repeat' first
    | with_reducible assumption
    | with_reducible refine State.clearCovered_keeps ?_
    | with_reducible refine State.clearPlotCovered_keeps ?_
    | dsimp only
    | split

theorem State.restartWatchdog_keeps {s : State} {ctx : Nat} (h0 : MemoryCanonical s) : MemoryCanonical (State.restartWatchdog s ctx) := by
  unfold State.restartWatchdog
  repeat' first
    | with_reducible assumption
    | with_reducible refine State.updCtx_keeps ?_

theorem State.copyPart_keeps {s : State} {c : Cmd} {d : CopyDesc} {k : Nat} (h0 : MemoryCanonical s) : MemoryCanonical (State.copyPart s c d k) := by
  unfold State.copyPart
  repeat' first
    | with_reducible assumption
    | with_reducible refine State.stopCommand_keeps ?_
    | with_reducible refine State.updCmd_keeps ?_
    | with_reducible refine State.killContext_keeps ?_
    | with_reducible refine State.askPermit_keeps ?_
    | with_reducible refine State.pendDone_keeps ?_
    | with_reducible refine State.partWritten_keeps ?_
    | with_reducible refine State.blockCommand_keeps ?_
    | with_reducible refine State.laneStatus_keeps ?_
    | with_reducible refine State.copyNext_keeps ?_
    | with_reducible refine State.copyGather_of ?_ (by with_reducible assumption)
    | with_reducible refine State.copyScatter_keeps ?_
    | with_reducible refine State.copyCleans_keeps ?_
    | with_reducible refine State.restartWatchdog_keeps ?_
    | dsimp only
    | split

theorem State.traceLanes_of {s : State} {c : Cmd} {y2 : List CmdLane} {a1} {out} (h0 : MemoryCanonical s) (e : State.traceLanes s c y2 = .ok (a1, out)) : MemoryCanonical out := by
  induction y2 generalizing s c h0 a1 out with
  | nil =>
    unfold State.traceLanes at e
    revert e
    repeat' first
      | with_reducible assumption
      | with_reducible refine met_ok ?_
      | with_reducible refine pair_eq ?_
      | (intro e; subst e)
  | cons _ _ ih =>
    unfold State.traceLanes at e
    revert e
    repeat' first
      | with_reducible assumption
      | (intro e; with_reducible refine ih ?_ e)
      | with_reducible refine ih ?_ (by assumption)
      | with_reducible refine traceLane_of ?_ (by with_reducible assumption)
      | with_reducible exact met_cause
      | with_reducible exact met_absent
      | with_reducible exact met_uncorrected
      | with_reducible refine met_ok ?_
      | with_reducible refine pair_eq ?_
      | split
      | (intro e; subst e)

theorem State.traceBegin_keeps {s : State} {c : Cmd} (h0 : MemoryCanonical s) : MemoryCanonical (State.traceBegin s c) := by
  unfold State.traceBegin
  repeat' first
    | with_reducible assumption
    | with_reducible refine State.stopCommand_keeps ?_
    | with_reducible refine State.updCmd_keeps ?_
    | with_reducible refine State.after_keeps ?_
    | with_reducible refine State.killContext_keeps ?_
    | with_reducible refine State.blockCommand_keeps ?_
    | with_reducible refine State.traceLanes_of ?_ (by with_reducible assumption)
    | dsimp only
    | with_reducible refine foldl_keeps (fun _ _ _ => ?_) ?_
    | split

theorem State.siltPut_keeps {s : State} {d : Nat} {bs : List Byte} (h0 : MemoryCanonical s) : MemoryCanonical (State.siltPut s d bs) := by
  unfold State.siltPut
  repeat' first
    | with_reducible assumption
    | with_reducible refine State.updDie_keeps ?_
    | with_reducible refine State.writeMem_keeps ?_
    | dsimp only
    | split

theorem State.siltAppend_keeps {s : State} {d : Nat} {bs : List Byte} (h0 : MemoryCanonical s) : MemoryCanonical (State.siltAppend s d bs) := by
  unfold State.siltAppend
  repeat' first
    | with_reducible assumption
    | with_reducible refine State.siltPut_keeps ?_
    | dsimp only
    | split

theorem State.siltRecords_of {s : State} {c : Cmd} {y2 : List CmdLane} {a1} {out} (h0 : MemoryCanonical s) (e : State.siltRecords s c y2 = .ok (a1, out)) : MemoryCanonical out := by
  induction y2 generalizing s c h0 a1 out with
  | nil =>
    unfold State.siltRecords at e
    revert e
    repeat' first
      | with_reducible assumption
      | with_reducible refine met_ok ?_
      | with_reducible refine pair_eq ?_
      | (intro e; subst e)
  | cons _ _ ih =>
    unfold State.siltRecords at e
    revert e
    repeat' first
      | with_reducible assumption
      | (intro e; with_reducible refine ih ?_ e)
      | with_reducible refine ih ?_ (by assumption)
      | with_reducible refine State.engineRead_of ?_ (by with_reducible assumption)
      | dsimp only
      | with_reducible exact met_absent
      | with_reducible exact met_uncorrected
      | with_reducible refine met_ok ?_
      | with_reducible refine pair_eq ?_
      | split
      | (intro e; subst e)

theorem State.siltRun_keeps {s : State} {c : Cmd} (h0 : MemoryCanonical s) : MemoryCanonical (State.siltRun s c) := by
  unfold State.siltRun
  repeat' first
    | with_reducible assumption
    | with_reducible refine State.stopCommand_keeps ?_
    | with_reducible refine State.noteRemote_keeps ?_
    | with_reducible refine State.updCmd_keeps ?_
    | with_reducible refine State.killContext_keeps ?_
    | with_reducible refine State.partWritten_keeps ?_
    | with_reducible refine State.endCommand_keeps ?_
    | with_reducible refine State.blockCommand_keeps ?_
    | with_reducible refine State.siltAppend_keeps ?_
    | with_reducible refine State.siltRecords_of ?_ (by with_reducible assumption)
    | dsimp only
    | with_reducible refine foldl_keeps (fun _ _ _ => ?_) ?_
    | split

theorem State.sextantTakes_keeps {s : State} {c : Cmd} (h0 : MemoryCanonical s) : MemoryCanonical (State.sextantTakes s c) := by
  unfold State.sextantTakes
  repeat' first
    | with_reducible assumption
    | with_reducible refine State.updDie_keeps ?_
    | with_reducible refine State.fresh_keeps ?_
    | dsimp only
    | with_reducible refine foldl_keeps (fun _ _ _ => ?_) ?_

theorem State.beginCommand_keeps {s : State} {c : Cmd} (h0 : MemoryCanonical s) : MemoryCanonical (State.beginCommand s c) := by
  unfold State.beginCommand
  repeat' first
    | with_reducible assumption
    | with_reducible refine State.updCmd_keeps ?_
    | with_reducible refine State.askPermit_keeps ?_
    | with_reducible refine State.copyNext_keeps ?_
    | with_reducible refine State.siltRun_keeps ?_
    | with_reducible refine State.sextantTakes_keeps ?_
    | dsimp only
    | split

theorem State.unblockCommand_keeps {s : State} {c : Cmd} (h0 : MemoryCanonical s) : MemoryCanonical (State.unblockCommand s c) := by
  unfold State.unblockCommand
  repeat' first
    | with_reducible assumption
    | with_reducible refine State.updCmd_keeps ?_
    | with_reducible refine State.after_keeps ?_
    | with_reducible refine State.copyNext_keeps ?_
    | with_reducible refine State.traceBegin_keeps ?_
    | with_reducible refine State.siltRun_keeps ?_
    | dsimp only
    | with_reducible refine foldl_keeps (fun _ _ _ => ?_) ?_
    | split

theorem State.beginCommands_keeps {s : State} (h0 : MemoryCanonical s) : MemoryCanonical (State.beginCommands s) := by
  unfold State.beginCommands
  repeat' first
    | with_reducible assumption
    | with_reducible refine State.beginCommand_keeps ?_
    | with_reducible refine State.unblockCommand_keeps ?_
    | with_reducible refine foldl_keeps (fun _ _ _ => ?_) ?_
    | split

theorem State.commandPermit_keeps {s : State} {id : Nat} (h0 : MemoryCanonical s) : MemoryCanonical (State.commandPermit s id) := by
  unfold State.commandPermit
  repeat' first
    | with_reducible assumption
    | with_reducible refine State.after_keeps ?_
    | with_reducible refine State.traceBegin_keeps ?_
    | split

theorem State.engineOp_keeps {s : State} {op : Nat} {x : Fields} {kind : CmdKind} {size : State → Team → List TRef → Nat → Nat} {align : Nat}
    (h : MemoryCanonical s) : MemoryCanonical (s.engineOp op x kind size align) := by
  unfold State.engineOp
  refine State.issueThen_keeps (fun _ _ _ => ?_) h
  repeat' first
    | with_reducible assumption
    | with_reducible refine fillConst_keeps ?_
    | with_reducible refine State.reportPage_keeps ?_
    | with_reducible refine State.advance_keeps ?_
    | with_reducible refine State.trapGroup_keeps ?_
    | with_reducible refine State.beginCommands_keeps ?_
    | with_reducible refine State.updBarrier_keeps ?_
    | with_reducible refine beginMem_keeps ?_
    | simp only [canonical_mk]
    | with_reducible refine memory_of ?_
    | split

theorem State.writeStatus_keeps {s : State} {c : Cmd} {ls : List CmdLane} (h0 : MemoryCanonical s) : MemoryCanonical (State.writeStatus s c ls) := by
  unfold State.writeStatus
  repeat' first
    | with_reducible assumption
    | with_reducible refine State.writeLanes_keeps ?_

theorem State.finishCommand_keeps {s : State} {c : Cmd} (h0 : MemoryCanonical s) : MemoryCanonical (State.finishCommand s c) := by
  unfold State.finishCommand
  repeat' first
    | with_reducible assumption
    | with_reducible refine State.release_keeps ?_
    | with_reducible refine State.pendDone_keeps ?_
    | with_reducible refine State.dropCommand_keeps ?_
    | with_reducible refine State.restartWatchdog_keeps ?_
    | with_reducible refine State.beginCommands_keeps ?_
    | with_reducible refine State.writeStatus_keeps ?_
    | split

theorem execCopy_keeps {x : Fields} {s : State} {out} (h0 : MemoryCanonical s) (e : execCopy x s = .next out) : MemoryCanonical out := by
  unfold execCopy at e
  revert e
  repeat' first
    | with_reducible assumption
    | with_reducible refine State.engineOp_keeps ?_
    | with_reducible refine next_next ?_
    | (intro e; subst e)

theorem execTrace_keeps {x : Fields} {s : State} {out} (h0 : MemoryCanonical s) (e : execTrace x s = .next out) : MemoryCanonical out := by
  unfold execTrace at e
  revert e
  repeat' first
    | with_reducible assumption
    | with_reducible refine State.engineOp_keeps ?_
    | with_reducible refine next_next ?_
    | (intro e; subst e)

theorem execSxdraw_keeps {x : Fields} {s : State} {out} (h0 : MemoryCanonical s) (e : execSxdraw x s = .next out) : MemoryCanonical out := by
  unfold execSxdraw at e
  revert e
  repeat' first
    | with_reducible assumption
    | with_reducible refine State.engineOp_keeps ?_
    | with_reducible refine next_next ?_
    | (intro e; subst e)

theorem execSilt_keeps {x : Fields} {s : State} {out} (h0 : MemoryCanonical s) (e : execSilt x s = .next out) : MemoryCanonical out := by
  unfold execSilt at e
  revert e
  repeat' first
    | with_reducible assumption
    | with_reducible refine State.engineOp_keeps ?_
    | with_reducible refine next_next ?_
    | (intro e; subst e)

theorem execSxpri_keeps {x : Fields} {s : State} {out} (h0 : MemoryCanonical s) (e : execSxpri x s = .next out) : MemoryCanonical out := by
  unfold execSxpri at e
  revert e
  repeat' first
    | with_reducible assumption
    | with_reducible refine State.updDie_keeps ?_
    | with_reducible refine State.trapGroup_keeps ?_
    | with_reducible refine State.advance_keeps ?_
    | with_reducible refine State.issueConst_keeps (fun _ _ _ _ => ?_) ?_
    | dsimp only
    | with_reducible refine next_next ?_
    | split
    | simp only [Option.map, Option.bind, Option.getD]
    | (intro e; subst e)

theorem State.postLanes_of {s : State} {tm : Team} {y2 : List (Lane × Nat × Nat)} {out} {a1} (h0 : MemoryCanonical s) (e : State.postLanes s tm y2 = (out, a1)) : MemoryCanonical out := by
  induction y2 generalizing s tm h0 out a1 with
  | nil =>
    unfold State.postLanes at e
    revert e
    repeat' first
      | with_reducible assumption
      | with_reducible refine pair_eq ?_
      | (intro e; subst e)
  | cons _ _ ih =>
    unfold State.postLanes at e
    revert e
    repeat' first
      | with_reducible assumption
      | with_reducible refine ih ?_ rfl
      | with_reducible refine State.reportRead_keeps ?_
      | with_reducible refine State.contextRead_of ?_ (by with_reducible assumption)
      | with_reducible refine State.devicePost_keeps ?_
      | dsimp only
      | with_reducible refine pair_eq ?_
      | split
      | (intro e; subst e)

theorem State.postLanes_keeps {s : State} {tm : Team} {y2 : List (Lane × Nat × Nat)} (h0 : MemoryCanonical s) : MemoryCanonical (State.postLanes s tm y2).1 := State.postLanes_of h0 rfl

theorem execEnq_keeps {x : Fields} {s : State} {out} (h0 : MemoryCanonical s) (e : execEnq x s = .next out) : MemoryCanonical out := by
  unfold execEnq at e
  revert e
  refine next_next fun e => e ▸ ?_
  refine State.issueThen_keeps (fun tm sp act => ?_) h0
  dsimp only
  split
  · exact State.advance_keeps h0
  split
  · exact State.trapGroup_keeps h0
  split
  · exact h0
  have hp : ∀ ls, MemoryCanonical (State.postLanes (beginMem s act (act.filter fun t => t.guardTrue x.guard) x x.d.toNat 1).2 tm ls).1 :=
    fun _ => State.postLanes_keeps (beginMem_keeps h0)
  have hq := hp (passed ((List.map (laneOf s sp x []) (act.filter fun t => t.guardTrue x.guard)).map fun l =>
    (globalCheck (ctxOf s tm) .read 64 64 (State.blockVa x l) l.t.lane).map fun r => (l, State.blockVa x l, r.1)))
  revert hq
  generalize State.postLanes _ _ _ = r
  intro hq
  split
  · exact State.killContext_keeps hq
  · refine foldl_keeps (fun _ _ h => ?_) ?_
    · split
      · exact State.parkThreads_keeps h
      · exact h
    · split
      · exact hq
      · exact State.addLater_keeps hq

theorem execCancel_keeps {x : Fields} {s : State} {out} (h0 : MemoryCanonical s) (e : execCancel x s = .next out) : MemoryCanonical out := by
  unfold execCancel at e
  revert e
  repeat' first
    | with_reducible assumption
    | with_reducible refine State.advance_keeps ?_
    | with_reducible refine State.issueThen_keeps (fun _ _ _ => ?_) ?_
    | with_reducible refine State.cancelGroup_keeps ?_
    | dsimp only
    | with_reducible refine foldl_keeps (fun _ _ _ => ?_) ?_
    | with_reducible refine next_next ?_
    | (intro e; subst e)

theorem execCopyPartComplete_keeps {cmd : Nat} {s : State} {out} (h0 : MemoryCanonical s) (e : execCopyPartComplete cmd s = .next out) : MemoryCanonical out := by
  unfold execCopyPartComplete at e
  revert e
  repeat' first
    | with_reducible assumption
    | with_reducible refine State.dropCommand_keeps ?_
    | with_reducible refine State.copyPart_keeps ?_
    | with_reducible refine next_next ?_
    | split
    | (intro e; subst e)

theorem execTraceLaneComplete_keeps {cmd : Nat} {lane : Nat} {s : State} {out} (h0 : MemoryCanonical s) (e : execTraceLaneComplete cmd lane s = .next out) : MemoryCanonical out := by
  unfold execTraceLaneComplete at e
  revert e
  repeat' first
    | with_reducible assumption
    | with_reducible refine State.stopCommand_keeps ?_
    | with_reducible refine State.noteRemote_keeps ?_
    | with_reducible refine State.updCmd_keeps ?_
    | with_reducible refine State.killContext_keeps ?_
    | with_reducible refine State.engineWrite_keeps ?_
    | with_reducible refine State.ackedFrom_keeps ?_
    | with_reducible refine State.endCommand_keeps ?_
    | with_reducible refine State.blockCommand_keeps ?_
    | with_reducible refine State.laneStatus_keeps ?_
    | with_reducible refine State.dropCommand_keeps ?_
    | with_reducible refine State.writeStatus_keeps ?_
    | dsimp only
    | with_reducible refine next_next ?_
    | split
    | (intro e; subst e)

theorem execEngineCommandComplete_keeps {cmd : Nat} {s : State} {out} (h0 : MemoryCanonical s) (e : execEngineCommandComplete cmd s = .next out) : MemoryCanonical out := by
  unfold execEngineCommandComplete at e
  revert e
  repeat' first
    | with_reducible assumption
    | with_reducible refine State.lookAgain_keeps ?_
    | with_reducible refine State.settleParts_keeps ?_
    | with_reducible refine State.finishCommand_keeps ?_
    | dsimp only
    | with_reducible refine next_next ?_
    | split
    | (intro e; subst e)

/-! ### Stages -/

theorem State.updRing_keeps {s : State} {team : Nat} {ring : Nat} {f : Ring → Ring} (h0 : MemoryCanonical s) : MemoryCanonical (State.updRing s team ring f) := by
  unfold State.updRing
  repeat' first
    | with_reducible assumption
    | with_reducible refine State.updTeam_keeps ?_

theorem State.beginStage_of {s : State} {x : Fields} {ts : List TRef} {a1} {out} (h0 : MemoryCanonical s) (e : State.beginStage s x ts = (a1, out)) : MemoryCanonical out := by
  unfold State.beginStage at e
  revert e
  repeat' first
    | with_reducible assumption
    | with_reducible refine State.fresh_keeps ?_
    | with_reducible refine State.count_keeps ?_
    | with_reducible refine State.openWindows_keeps ?_
    | dsimp only
    | with_reducible refine pair_eq ?_
    | split
    | (intro e; subst e)

theorem State.beginStage_keeps {s : State} {x : Fields} {ts : List TRef} (h0 : MemoryCanonical s) : MemoryCanonical (State.beginStage s x ts).2 := State.beginStage_of h0 rfl

theorem State.stageResult_keeps {s : State} {x : Fields} {op : Nat} {lat : Nat} {handler : Bool} {ts : List TRef} {d : Option Nat} (h0 : MemoryCanonical s) : MemoryCanonical (State.stageResult s x op lat handler ts d) := by
  unfold State.stageResult
  repeat' first
    | with_reducible assumption
    | with_reducible refine State.addLater_keeps ?_

/-- The state that a stage operation leaves is canonical. -/
def StageMet.Canonical : StageMet → Prop
  | .done _ s | .waits s => MemoryCanonical s
  | .misuse => True

theorem State.stageInit_keeps {s : State} {tm : Team} {k r n : Nat} {g : Ring} (h : MemoryCanonical s) : (s.stageInit tm k r n g).Canonical := by
  unfold State.stageInit
  split
  · trivial
  dsimp only
  split
  · split
    · exact h
    · exact State.updRing_keeps (State.updCore_keeps h)
  · exact State.updRing_keeps h

theorem State.stageEvent_keeps {s : State} {tm : Team} {stop r word : Nat} {a : Acquire} (h : MemoryCanonical s) :
    (s.stageEvent tm stop r word a).Canonical := by
  unfold State.stageEvent
  repeat' first
    | trivial
    | with_reducible exact State.stageInit_keeps h
    | split
    | dsimp only

theorem StageMet.waits_of {m : StageMet} {s : State} (h : m.Canonical) (e : m = .waits s) : MemoryCanonical s := by rw [e] at h; exact h
theorem StageMet.done_of {m : StageMet} {d : Option Nat} {s : State} (h : m.Canonical) (e : m = .done d s) : MemoryCanonical s := by rw [e] at h; exact h

theorem State.stageOp_keeps {s : State} {x : Fields} (h0 : MemoryCanonical s) : MemoryCanonical (State.stageOp s x) := by
  unfold State.stageOp
  repeat' first
    | with_reducible assumption
    | with_reducible refine State.trapGroup_keeps ?_
    | with_reducible refine State.advance_keeps ?_
    | with_reducible refine State.issueConst_keeps (fun _ _ _ _ => ?_) ?_
    | with_reducible refine State.cancelExit_keeps ?_
    | with_reducible refine State.sendEvent_keeps ?_
    | with_reducible refine State.beginStage_keeps ?_
    | with_reducible refine State.stageResult_keeps ?_
    | dsimp only
    | with_reducible refine StageMet.waits_of (State.stageEvent_keeps ?_) (by with_reducible assumption)
    | with_reducible refine StageMet.done_of (State.stageEvent_keeps ?_) (by with_reducible assumption)
    | split

theorem State.stageArrives_keeps {s : State} {tm : Team} {a : Arrival} (h0 : MemoryCanonical s) : MemoryCanonical (State.stageArrives s tm a) := by
  unfold State.stageArrives
  repeat' first
    | with_reducible assumption
    | with_reducible refine State.answerEvent_keeps ?_
    | with_reducible refine State.beginStage_keeps ?_
    | with_reducible refine State.stageResult_keeps ?_
    | dsimp only
    | with_reducible refine StageMet.waits_of (State.stageEvent_keeps ?_) (by with_reducible assumption)
    | with_reducible refine StageMet.done_of (State.stageEvent_keeps ?_) (by with_reducible assumption)
    | split

theorem execStageInit_keeps {x : Fields} {s : State} {out} (h0 : MemoryCanonical s) (e : execStageInit x s = .next out) : MemoryCanonical out := by
  unfold execStageInit at e
  revert e
  repeat' first
    | with_reducible assumption
    | with_reducible refine State.stageOp_keeps ?_
    | with_reducible refine next_next ?_
    | (intro e; subst e)

theorem execStageAcqp_keeps {x : Fields} {s : State} {out} (h0 : MemoryCanonical s) (e : execStageAcqp x s = .next out) : MemoryCanonical out := by
  unfold execStageAcqp at e
  revert e
  repeat' first
    | with_reducible assumption
    | with_reducible refine State.stageOp_keeps ?_
    | with_reducible refine next_next ?_
    | (intro e; subst e)

theorem execStageAcqc_keeps {x : Fields} {s : State} {out} (h0 : MemoryCanonical s) (e : execStageAcqc x s = .next out) : MemoryCanonical out := by
  unfold execStageAcqc at e
  revert e
  repeat' first
    | with_reducible assumption
    | with_reducible refine State.stageOp_keeps ?_
    | with_reducible refine next_next ?_
    | (intro e; subst e)

theorem execStageRelp_keeps {x : Fields} {s : State} {out} (h0 : MemoryCanonical s) (e : execStageRelp x s = .next out) : MemoryCanonical out := by
  unfold execStageRelp at e
  revert e
  repeat' first
    | with_reducible assumption
    | with_reducible refine State.stageOp_keeps ?_
    | with_reducible refine next_next ?_
    | (intro e; subst e)

theorem execStageRelc_keeps {x : Fields} {s : State} {out} (h0 : MemoryCanonical s) (e : execStageRelc x s = .next out) : MemoryCanonical out := by
  unfold execStageRelc at e
  revert e
  repeat' first
    | with_reducible assumption
    | with_reducible refine State.stageOp_keeps ?_
    | with_reducible refine next_next ?_
    | (intro e; subst e)

theorem execStageAcquireGrant_keeps {team : Nat} {ring : Nat} {consume : Bool} {s : State} {out} (h0 : MemoryCanonical s) (e : execStageAcquireGrant team ring consume s = .next out) : MemoryCanonical out := by
  unfold execStageAcquireGrant at e
  revert e
  repeat' first
    | with_reducible assumption
    | with_reducible refine State.wake_keeps ?_
    | with_reducible refine State.addLater_keeps ?_
    | with_reducible refine State.updRing_keeps ?_
    | dsimp only
    | with_reducible refine next_next ?_
    | split
    | (intro e; subst e)

/-! ### Barriers -/

theorem execBarInit_keeps {x : Fields} {s : State} {out} (h0 : MemoryCanonical s) (e : execBarInit x s = .next out) : MemoryCanonical out := by
  unfold execBarInit at e
  revert e
  repeat' first
    | with_reducible assumption
    | with_reducible refine State.trapGroup_keeps ?_
    | with_reducible refine State.advance_keeps ?_
    | with_reducible refine State.issueThen_keeps (fun _ _ _ => ?_) ?_
    | with_reducible refine State.count_keeps ?_
    | with_reducible refine State.addLater_keeps ?_
    | with_reducible refine State.updBarrier_keeps ?_
    | dsimp only
    | with_reducible refine next_next ?_
    | split
    | (intro e; subst e)

theorem execBarArrive_keeps {x : Fields} {s : State} {out} (h0 : MemoryCanonical s) (e : execBarArrive x s = .next out) : MemoryCanonical out := by
  unfold execBarArrive at e
  revert e
  repeat' first
    | with_reducible assumption
    | with_reducible refine State.updThreads_keeps ?_
    | with_reducible refine State.trapThreads_keeps ?_
    | with_reducible refine State.settle_keeps ?_
    | with_reducible refine State.trapGroup_keeps ?_
    | with_reducible refine State.advance_keeps ?_
    | with_reducible refine State.issueThen_keeps (fun _ _ _ => ?_) ?_
    | with_reducible refine State.count_keeps ?_
    | with_reducible refine State.addLater_keeps ?_
    | with_reducible refine State.cancelExit_keeps ?_
    | with_reducible refine State.updBarrier_keeps ?_
    | dsimp only
    | with_reducible refine next_next ?_
    | split
    | (intro e; subst e)

theorem execBarrierComplete_keeps {ctx : Nat} {bar : Nat} {s : State} {out} (h0 : MemoryCanonical s) (e : execBarrierComplete ctx bar s = .next out) : MemoryCanonical out := by
  unfold execBarrierComplete at e
  revert e
  repeat' first
    | with_reducible assumption
    | with_reducible refine State.wake_keeps ?_
    | with_reducible refine State.updBarrier_keeps ?_
    | dsimp only
    | with_reducible refine next_next ?_
    | split
    | (intro e; subst e)

/-! ### Messages -/

theorem State.sendFlit_keeps {s : State} {f : Flit} (h0 : MemoryCanonical s) : MemoryCanonical (State.sendFlit s f) := by
  unfold State.sendFlit
  repeat' first
    | with_reducible assumption
    | with_reducible refine State.fresh_keeps ?_
    | with_reducible refine State.afterFrom_keeps ?_
    | simp only [canonical_mk]
    | with_reducible refine memory_of ?_

theorem State.serveReceives_keeps {s : State} {c : CoreId} {ctx : Nat} {queue : Nat} {fuel : Nat} (h0 : MemoryCanonical s) : MemoryCanonical (State.serveReceives s c ctx queue fuel) := by
  induction fuel generalizing s c ctx queue h0 with
  | zero =>
    unfold State.serveReceives
    repeat' first
      | with_reducible assumption
  | succ _ ih =>
    unfold State.serveReceives
    repeat' first
      | with_reducible assumption
      | with_reducible refine ih ?_
      | with_reducible refine State.updCore_keeps ?_
      | with_reducible refine State.wake_keeps ?_
      | with_reducible refine State.writeLane_keeps ?_
      | with_reducible refine State.release_keeps ?_
      | dsimp only
      | split

theorem State.enterQueue_of {s : State} {f : Flit} {out} (h0 : MemoryCanonical s) (e : State.enterQueue s f = some out) : MemoryCanonical out := by
  unfold State.enterQueue at e
  revert e
  repeat' first
    | with_reducible assumption
    | with_reducible refine State.updCore_keeps ?_
    | dsimp only
    | with_reducible exact none_some
    | with_reducible refine some_some ?_
    | split
    | simp only [Option.map]
    | (intro e; subst e)

theorem State.flitDelivered_keeps {s : State} {f : Flit} (h0 : MemoryCanonical s) : MemoryCanonical (State.flitDelivered s f) := by
  unfold State.flitDelivered
  repeat' first
    | with_reducible assumption
    | with_reducible refine State.release_keeps ?_
    | simp only [canonical_mk]
    | with_reducible refine memory_of ?_
    | split

theorem execMovqSend_keeps {x : Fields} {s : State} {out} (h0 : MemoryCanonical s) (e : execMovqSend x s = .next out) : MemoryCanonical out := by
  unfold execMovqSend at e
  revert e
  repeat' first
    | with_reducible assumption
    | with_reducible refine State.trapGroup_keeps ?_
    | with_reducible refine State.advance_keeps ?_
    | with_reducible refine State.issueThen_keeps (fun _ _ _ => ?_) ?_
    | with_reducible refine beginMem_keeps ?_
    | with_reducible refine State.sendFlit_keeps ?_
    | dsimp only
    | with_reducible refine foldl_keeps (fun _ _ _ => ?_) ?_
    | with_reducible refine next_next ?_
    | split
    | (intro e; subst e)

theorem execMovqRecv_keeps {x : Fields} {s : State} {out} (h0 : MemoryCanonical s) (e : execMovqRecv x s = .next out) : MemoryCanonical out := by
  unfold execMovqRecv at e
  revert e
  repeat' first
    | with_reducible assumption
    | with_reducible refine State.updThreads_keeps ?_
    | with_reducible refine State.fresh_keeps ?_
    | with_reducible refine State.updCore_keeps ?_
    | with_reducible refine State.advance_keeps ?_
    | with_reducible refine State.issueThen_keeps (fun _ _ _ => ?_) ?_
    | with_reducible refine State.count_keeps ?_
    | with_reducible refine State.openWindows_keeps ?_
    | with_reducible refine State.serveReceives_keeps ?_
    | dsimp only
    | with_reducible refine next_next ?_
    | split
    | (intro e; subst e)

theorem State.logFlit_now {s t : State} {f : Flit} (h : MemoryCanonical s) (e : s.logFlit f = .now t) : MemoryCanonical t := by
  unfold State.logFlit at e
  revert e
  split
  · split
    · exact nofun
    · rename_i ht
      split
      · exact nofun
      · split
        · exact nofun
        · exact fun e => State.Replayed.now.inj e ▸ State.logTake_of h ht
  · exact fun e => State.Replayed.now.inj e ▸ State.updCtx_keeps (State.logAppend_keeps h)

theorem execMessageArrival_keeps {flit : Nat} {s : State} {out} (h0 : MemoryCanonical s) (e : execMessageArrival flit s = .next out) : MemoryCanonical out := by
  unfold execMessageArrival at e
  revert e
  repeat' first
    | with_reducible assumption
    | with_reducible refine State.afterExactly_keeps ?_
    | with_reducible refine State.replayDiffers_keeps ?_
    | with_reducible refine State.serveReceives_keeps ?_
    | with_reducible refine State.enterQueue_of ?_ (by with_reducible assumption)
    | with_reducible refine State.flitDelivered_keeps ?_
    | dsimp only
    | with_reducible refine State.logFlit_now ?_ (by with_reducible assumption)
    | with_reducible refine next_next ?_
    | split
    | (intro e; subst e)

/-! ### Atomics -/

theorem State.logAtomic_keeps {s : State} {ctx : Nat} {t : TRef} {old : Nat} {w : Nat} (h0 : MemoryCanonical s) : MemoryCanonical (State.logAtomic s ctx t old w) := by
  unfold State.logAtomic
  repeat' first
    | with_reducible assumption
    | with_reducible refine State.logAppend_keeps ?_

theorem State.recordedAtomic_of {s : State} {ctx : Nat} {t : TRef} {old : Nat} {w : Nat} {a1} {a2} {out} (h0 : MemoryCanonical s) (e : State.recordedAtomic s ctx t old w = ((a1, a2), out)) : MemoryCanonical out := by
  unfold State.recordedAtomic at e
  revert e
  repeat' first
    | with_reducible assumption
    | with_reducible refine State.logTake_of ?_ (by with_reducible assumption)
    | with_reducible refine State.replayDiffers_keeps ?_
    | dsimp only
    | with_reducible refine pair_eq ?_
    | split
    | (intro e; subst e)

theorem State.recordedAtomic_keeps {s : State} {ctx : Nat} {t : TRef} {old : Nat} {w : Nat} (h0 : MemoryCanonical s) : MemoryCanonical (State.recordedAtomic s ctx t old w).2 := State.recordedAtomic_of h0 rfl

theorem plotAtomics_of {s : State} {tm : Team} {c : CoreId} {x : Fields} {y4 : List (Lane × Nat)} {out} {a1} (h0 : MemoryCanonical s) (e : plotAtomics s tm c x y4 = (out, a1)) : MemoryCanonical out := by
  induction y4 generalizing s tm c x h0 out a1 with
  | nil =>
    unfold plotAtomics at e
    revert e
    repeat' first
      | with_reducible assumption
      | with_reducible refine pair_eq ?_
      | (intro e; subst e)
  | cons _ _ ih =>
    unfold plotAtomics at e
    revert e
    repeat' first
      | with_reducible assumption
      | with_reducible refine ih ?_ rfl
      | with_reducible refine writePlot_keeps ?_
      | with_reducible refine State.logAtomic_keeps ?_
      | with_reducible refine State.recordedAtomic_keeps ?_
      | dsimp only
      | with_reducible refine pair_eq ?_
      | (intro e; subst e)

theorem plotAtomics_keeps {s : State} {tm : Team} {c : CoreId} {x : Fields} {y4 : List (Lane × Nat)} (h0 : MemoryCanonical s) : MemoryCanonical (plotAtomics s tm c x y4).1 := plotAtomics_of h0 rfl

theorem execAtom_keeps {x : Fields} {s : State} {out} (h0 : MemoryCanonical s) (e : execAtom x s = .next out) : MemoryCanonical out := by
  unfold execAtom at e
  revert e
  repeat' first
    | with_reducible assumption
    | with_reducible refine State.expelL1_keeps ?_
    | with_reducible refine State.killContext_keeps ?_
    | with_reducible refine State.trapGroup_keeps ?_
    | with_reducible refine State.advance_keeps ?_
    | with_reducible refine State.sendAll_keeps ?_
    | with_reducible refine fillConst_keeps ?_
    | with_reducible refine State.issueThen_keeps (fun _ _ _ => ?_) ?_
    | with_reducible refine State.addAccess_keeps ?_
    | with_reducible refine beginMem_keeps ?_
    | with_reducible refine plotAtomics_keeps ?_
    | dsimp only
    | with_reducible refine foldl_keeps (fun _ _ _ => ?_) ?_
    | with_reducible refine next_next ?_
    | refine if_keeps ?_ ?_
    | split
    | simp only [Except.map]
    | (intro e; subst e)

/-! ### System -/

theorem chronoReads_of {s : State} {ctx : Nat} {y2 : List Thread} {a1} {out} (h0 : MemoryCanonical s) (e : chronoReads s ctx y2 = (a1, out)) : MemoryCanonical out := by
  induction y2 generalizing s ctx h0 a1 out with
  | nil =>
    unfold chronoReads at e
    revert e
    repeat' first
      | with_reducible assumption
      | with_reducible refine pair_eq ?_
      | (intro e; subst e)
  | cons _ _ ih =>
    unfold chronoReads at e
    revert e
    repeat' first
      | with_reducible assumption
      | with_reducible refine ih ?_ rfl
      | with_reducible refine State.logAppend_keeps ?_
      | with_reducible refine State.logTake_of ?_ (by with_reducible assumption)
      | with_reducible refine State.replayDiffers_keeps ?_
      | dsimp only
      | with_reducible refine pair_eq ?_
      | split
      | (intro e; subst e)

theorem chronoReads_keeps {s : State} {ctx : Nat} {y2 : List Thread} (h0 : MemoryCanonical s) : MemoryCanonical (chronoReads s ctx y2).2 := chronoReads_of h0 rfl

theorem execSregRead_keeps {x : Fields} {s : State} {out} (h0 : MemoryCanonical s) (e : execSregRead x s = .next out) : MemoryCanonical out := by
  unfold execSregRead at e
  revert e
  repeat' first
    | with_reducible assumption
    | with_reducible refine State.issueThen_keeps (fun _ _ _ => ?_) ?_
    | with_reducible refine State.groupwise_keeps ?_
    | with_reducible refine chronoReads_keeps ?_
    | dsimp only
    | with_reducible refine next_next ?_
    | split
    | (intro e; subst e)

theorem execSregWrite_keeps {x : Fields} {s : State} {out} (h0 : MemoryCanonical s) (e : execSregWrite x s = .next out) : MemoryCanonical out := by
  unfold execSregWrite at e
  revert e
  repeat' first
    | with_reducible assumption
    | with_reducible refine State.updThread_keeps ?_
    | with_reducible refine State.updTeam_keeps ?_
    | with_reducible refine State.advance_keeps ?_
    | with_reducible refine State.issueThen_keeps (fun _ _ _ => ?_) ?_
    | dsimp only
    | with_reducible refine foldl_keeps (fun _ _ _ => ?_) ?_
    | with_reducible refine next_next ?_
    | split
    | (intro e; subst e)

theorem trapOp_keeps {s : State} {x : Fields} {cause : Nat} (h0 : MemoryCanonical s) : MemoryCanonical (trapOp s x cause) := by
  unfold trapOp
  repeat' first
    | with_reducible assumption
    | with_reducible refine State.trapThreads_keeps ?_
    | with_reducible refine State.settle_keeps ?_
    | with_reducible refine State.advance_keeps ?_
    | with_reducible refine State.issueThen_keeps (fun _ _ _ => ?_) ?_

theorem execTrapSoftware_keeps {x : Fields} {s : State} {out} (h0 : MemoryCanonical s) (e : execTrapSoftware x s = .next out) : MemoryCanonical out := by
  unfold execTrapSoftware at e
  revert e
  repeat' first
    | with_reducible assumption
    | with_reducible refine trapOp_keeps ?_
    | with_reducible refine next_next ?_
    | (intro e; subst e)

theorem execTrapBreak_keeps {x : Fields} {s : State} {out} (h0 : MemoryCanonical s) (e : execTrapBreak x s = .next out) : MemoryCanonical out := by
  unfold execTrapBreak at e
  revert e
  repeat' first
    | with_reducible assumption
    | with_reducible refine trapOp_keeps ?_
    | with_reducible refine next_next ?_
    | (intro e; subst e)

theorem nopOp_keeps {s : State} {x : Fields} (h0 : MemoryCanonical s) : MemoryCanonical (nopOp s x) := by
  unfold nopOp
  repeat' first
    | with_reducible assumption
    | with_reducible refine State.delayIssue_keeps ?_
    | with_reducible refine State.advance_keeps ?_
    | with_reducible refine State.issueThen_keeps (fun _ _ _ => ?_) ?_
    | split

theorem execNopBase_keeps {s : State} {out} (h0 : MemoryCanonical s) (e : execNopBase s = .next out) : MemoryCanonical out := by
  unfold execNopBase at e
  revert e
  repeat' first
    | with_reducible assumption
    | with_reducible refine nopOp_keeps ?_
    | with_reducible refine next_next ?_
    | (intro e; subst e)

theorem execNopExtended_keeps {x : Fields} {s : State} {out} (h0 : MemoryCanonical s) (e : execNopExtended x s = .next out) : MemoryCanonical out := by
  unfold execNopExtended at e
  revert e
  repeat' first
    | with_reducible assumption
    | with_reducible refine nopOp_keeps ?_
    | with_reducible refine next_next ?_
    | (intro e; subst e)

theorem supervisorOp_keeps {s : State} {x : Fields} {write : Bool} (h0 : MemoryCanonical s) : MemoryCanonical (supervisorOp s x write) := by
  unfold supervisorOp
  repeat' first
    | with_reducible assumption
    | with_reducible refine State.after_keeps ?_
    | with_reducible refine State.trapGroup_keeps ?_
    | with_reducible refine State.advance_keeps ?_
    | with_reducible refine State.issueThen_keeps (fun _ _ _ => ?_) ?_
    | with_reducible refine State.newResult_keeps ?_
    | with_reducible refine beginMem_keeps ?_
    | simp only [canonical_mk]
    | with_reducible refine memory_of ?_
    | split

theorem execSysRdsup_keeps {x : Fields} {s : State} {out} (h0 : MemoryCanonical s) (e : execSysRdsup x s = .next out) : MemoryCanonical out := by
  unfold execSysRdsup at e
  revert e
  repeat' first
    | with_reducible assumption
    | with_reducible refine supervisorOp_keeps ?_
    | with_reducible refine next_next ?_
    | (intro e; subst e)

theorem execSysWrsup_keeps {x : Fields} {s : State} {out} (h0 : MemoryCanonical s) (e : execSysWrsup x s = .next out) : MemoryCanonical out := by
  unfold execSysWrsup at e
  revert e
  repeat' first
    | with_reducible assumption
    | with_reducible refine supervisorOp_keeps ?_
    | with_reducible refine next_next ?_
    | (intro e; subst e)

theorem supAccess_of {s : State} {a : SupAccess} {out} {a1} (h0 : MemoryCanonical s) (e : supAccess s a = (out, a1)) : MemoryCanonical out := by
  unfold supAccess at e
  revert e
  repeat' first
    | with_reducible assumption
    | with_reducible refine State.supWrite_keeps ?_
    | with_reducible refine State.memDieWrite_keeps ?_
    | dsimp only
    | with_reducible refine pair_eq ?_
    | split
    | simp only [Option.getD]
    | (intro e; subst e)

theorem supAccess_keeps {s : State} {a : SupAccess} (h0 : MemoryCanonical s) : MemoryCanonical (supAccess s a).1 := supAccess_of h0 rfl

theorem execSysSwap_keeps {x : Fields} {s : State} {out} (h0 : MemoryCanonical s) (e : execSysSwap x s = .next out) : MemoryCanonical out := by
  unfold execSysSwap at e
  revert e
  repeat' first
    | with_reducible assumption
    | with_reducible refine State.addResult_keeps ?_
    | with_reducible refine State.afterExactly_keeps ?_
    | with_reducible refine State.updCore_keeps ?_
    | with_reducible refine State.advance_keeps ?_
    | with_reducible refine State.issueConst_keeps (fun _ _ _ _ => ?_) ?_
    | with_reducible refine State.addLater_keeps ?_
    | with_reducible refine beginMem_keeps ?_
    | dsimp only
    | with_reducible refine next_next ?_
    | split
    | (intro e; subst e)

theorem State.shootPage_keeps {s : State} {page : Nat} {size : Nat} (h0 : MemoryCanonical s) : MemoryCanonical (State.shootPage s page size) := by
  unfold State.shootPage
  repeat' first
    | with_reducible assumption
    | with_reducible refine State.writeBackLine_keeps ?_
    | simp only [canonical_mk]
    | with_reducible refine memory_of ?_
    | with_reducible refine foldl_keeps (fun _ _ _ => ?_) ?_

theorem execSysShoot_keeps {x : Fields} {s : State} {out} (h0 : MemoryCanonical s) (e : execSysShoot x s = .next out) : MemoryCanonical out := by
  unfold execSysShoot at e
  revert e
  repeat' first
    | with_reducible assumption
    | with_reducible refine State.after_keeps ?_
    | with_reducible refine State.advance_keeps ?_
    | with_reducible refine State.issueConst_keeps (fun _ _ _ _ => ?_) ?_
    | with_reducible refine State.newResult_keeps ?_
    | with_reducible refine beginMem_keeps ?_
    | with_reducible refine State.shootPage_keeps ?_
    | simp only [canonical_mk]
    | with_reducible refine memory_of ?_
    | with_reducible refine foldl_keeps (fun _ _ _ => ?_) ?_
    | with_reducible refine next_next ?_
    | split
    | (intro e; subst e)

theorem returnThread_keeps {s : State} {l : Lane} (h0 : MemoryCanonical s) : MemoryCanonical (returnThread s l) := by
  unfold returnThread
  repeat' first
    | with_reducible assumption
    | with_reducible refine State.updThread_keeps ?_
    | with_reducible refine State.leaveCvgs_keeps ?_
    | with_reducible refine State.exitThread_keeps ?_
    | dsimp only
    | split

theorem execSysTret_keeps {x : Fields} {s : State} {out} (h0 : MemoryCanonical s) (e : execSysTret x s = .next out) : MemoryCanonical out := by
  unfold execSysTret at e
  revert e
  repeat' first
    | with_reducible assumption
    | with_reducible refine State.ceaseGroups_keeps ?_
    | with_reducible refine State.delayIssue_keeps ?_
    | with_reducible refine State.settle_keeps ?_
    | with_reducible refine State.trapGroup_keeps ?_
    | with_reducible refine State.advance_keeps ?_
    | with_reducible refine State.issueConst_keeps (fun _ _ _ _ => ?_) ?_
    | with_reducible refine returnThread_keeps ?_
    | dsimp only
    | with_reducible refine foldl_keeps (fun _ _ _ => ?_) ?_
    | with_reducible refine next_next ?_
    | split
    | (intro e; subst e)

theorem halfOp_keeps {n : Nat} {f : Fields → State → State} {x : Fields} {s : State} (h : MemoryCanonical s) (e : halfOp n = some f) :
    MemoryCanonical (f x s) := by
  unfold halfOp at e
  split at e <;> cases e
  all_goals first
    | with_reducible exact iaddOp_keeps h
    | with_reducible exact isubOp_keeps h
    | with_reducible exact imulOp_keeps h
    | with_reducible exact imulhOp_keeps h
    | with_reducible exact imadOp_keeps h
    | with_reducible exact iminOp_keeps h
    | with_reducible exact imaxOp_keeps h
    | with_reducible exact iabsOp_keeps h
    | with_reducible exact inegOp_keeps h
    | with_reducible exact addminOp_keeps h
    | with_reducible exact andOp_keeps h
    | with_reducible exact orOp_keeps h
    | with_reducible exact xorOp_keeps h
    | with_reducible exact andnOp_keeps h
    | with_reducible exact shlOp_keeps h
    | with_reducible exact shrOp_keeps h
    | with_reducible exact sraOp_keeps h
    | with_reducible exact rotOp_keeps h
    | with_reducible exact bfxOp_keeps h
    | with_reducible exact bfiOp_keeps h
    | with_reducible exact popcOp_keeps h
    | with_reducible exact clzOp_keeps h
    | with_reducible exact brevOp_keeps h
    | with_reducible exact bpermOp_keeps h
    | with_reducible exact movOp_keeps h
    | with_reducible exact faddOp_keeps h
    | with_reducible exact fsubOp_keeps h
    | with_reducible exact fmulOp_keeps h
    | with_reducible exact ffmaOp_keeps h
    | with_reducible exact fminOp_keeps h
    | with_reducible exact fmaxOp_keeps h
    | with_reducible exact frndOp_keeps h
    | with_reducible exact fclassOp_keeps h
    | with_reducible exact fscaleOp_keeps h
    | with_reducible exact fdot2Op_keeps h
    | with_reducible exact flerpOp_keeps h
    | with_reducible exact ffracOp_keeps h

theorem onPipe_keeps {s : State} {g : GRef} {p : Nat} (h0 : MemoryCanonical s) : MemoryCanonical (onPipe s g p) := by
  unfold onPipe
  repeat' first
    | with_reducible assumption
    | simp only [canonical_mk]
    | with_reducible refine memory_of ?_

theorem execPair_keeps {g0 : Guard} {g1 : Guard} {zh0 : Half} {zh1 : Half} {s : State} {out} (h0 : MemoryCanonical s) (e : execPair g0 g1 zh0 zh1 s = .next out) : MemoryCanonical out := by
  unfold execPair at e
  revert e
  repeat' first
    | with_reducible assumption
    | with_reducible refine onPipe_keeps ?_
    | simp only [canonical_mk]
    | with_reducible refine memory_of ?_
    | with_reducible refine State.updThreads_keeps ?_
    | with_reducible refine State.trapGroup_keeps ?_
    | dsimp only
    | with_reducible refine halfOp_keeps ?_ (by with_reducible assumption)
    | with_reducible refine next_next ?_
    | split
    | (intro e; subst e)

end Sys2Proof.Machine
end

