-- ==== Sys2Proof/Laws/CanonicalWorld.lean ====
section
/-! SUPPORT. Every operation keeps module memory in its canonical form (assumption 2): the homes, issue, power, moves, rendering, the outside world and the clockwork. `f_keeps` says it of the state
that f answers, `f_of` of the state in an answer that may be an error. -/

namespace Sys2Proof.Machine

open Sys2Proof.Safety

/-! ### Homes -/

theorem State.endRequest_keeps {s : State} {r : Request} (h0 : MemoryCanonical s) : MemoryCanonical (State.endRequest s r) := by
  unfold State.endRequest
  repeat' first
    | with_reducible assumption
    | with_reducible refine State.dropRequest_keeps ?_
    | with_reducible refine State.release_keeps ?_

theorem State.answerAfter_keeps {s : State} {r : Request} {d : Nat} {i : Instr} (h0 : MemoryCanonical s) : MemoryCanonical (State.answerAfter s r d i) := by
  unfold State.answerAfter
  repeat' first
    | with_reducible assumption
    | with_reducible refine State.updRequest_keeps ?_
    | with_reducible refine State.afterFrom_keeps ?_

theorem State.again_keeps {s : State} {i : Instr} (h0 : MemoryCanonical s) : MemoryCanonical (State.again s i) := by
  unfold State.again
  repeat' first
    | with_reducible assumption
    | with_reducible refine State.afterExactly_keeps ?_

theorem State.withdraw_keeps {s : State} {op : Nat} {ts : List TRef} (h0 : MemoryCanonical s) : MemoryCanonical (State.withdraw s op ts) := by
  unfold State.withdraw
  repeat' first
    | with_reducible assumption
    | simp only [canonical_mk]
    | with_reducible refine memory_of ?_

theorem State.dropImage_keeps {s : State} {op : Nat} {use : Nat} (h0 : MemoryCanonical s) : MemoryCanonical (State.dropImage s op use) := by
  unfold State.dropImage
  repeat' first
    | with_reducible assumption
    | with_reducible refine State.dropUse_keeps ?_
    | simp only [canonical_mk]
    | with_reducible refine memory_of ?_
    | split

theorem State.failThreads_keeps {s : State} {r : Request} {rs : List Request} {cause : Nat} {ts : List TRef} (h0 : MemoryCanonical s) : MemoryCanonical (State.failThreads s r rs cause ts) := by
  unfold State.failThreads
  repeat' first
    | with_reducible assumption
    | with_reducible refine State.updThreads_keeps ?_
    | with_reducible refine State.trapThreads_keeps ?_
    | with_reducible refine State.parkThreads_keeps ?_
    | with_reducible refine State.release_keeps ?_
    | dsimp only
    | split

theorem State.settleOp_keeps {s : State} {op : Nat} (h0 : MemoryCanonical s) : MemoryCanonical (State.settleOp s op) := by
  unfold State.settleOp
  repeat' first
    | with_reducible assumption
    | with_reducible refine State.settle_keeps ?_
    | with_reducible refine State.travel_keeps ?_
    | with_reducible refine State.withdraw_keeps ?_
    | with_reducible refine State.dropImage_keeps ?_
    | with_reducible refine State.failThreads_keeps ?_
    | simp only [canonical_mk]
    | with_reducible refine memory_of ?_
    | with_reducible refine foldl_keeps (fun _ _ _ => ?_) ?_
    | split

theorem State.refuse_keeps {s : State} {r : Request} {cause : Nat} (h0 : MemoryCanonical s) : MemoryCanonical (State.refuse s r cause) := by
  unfold State.refuse
  repeat' first
    | with_reducible assumption
    | with_reducible refine State.updRequest_keeps ?_
    | with_reducible refine State.dropRequest_keeps ?_
    | with_reducible refine State.settleOp_keeps ?_
    | split

theorem State.splitRefused_keeps {s : State} {r : Request} {bad : List (LanePart × Nat)} (h0 : MemoryCanonical s) : MemoryCanonical (State.splitRefused s r bad) := by
  unfold State.splitRefused
  repeat' first
    | with_reducible assumption
    | with_reducible refine State.fresh_keeps ?_
    | simp only [canonical_mk]
    | with_reducible refine memory_of ?_
    | with_reducible refine foldl_keeps (fun _ _ _ => ?_) ?_

theorem State.spoiltRequest_keeps {s : State} {r : Request} (h0 : MemoryCanonical s) : MemoryCanonical (State.spoiltRequest s r) := by
  unfold State.spoiltRequest
  repeat' first
    | with_reducible assumption
    | with_reducible refine State.dropRequest_keeps ?_
    | with_reducible refine State.killContext_keeps ?_

theorem State.markAccess_keeps {s : State} {r : Request} (h0 : MemoryCanonical s) : MemoryCanonical (State.markAccess s r) := by
  unfold State.markAccess
  repeat' first
    | with_reducible assumption
    | with_reducible refine State.markEntry_keeps ?_
    | split

theorem State.readHome_of {s : State} {r : Request} {out} {a1} (h0 : MemoryCanonical s) (e : State.readHome s r = (out, a1)) : MemoryCanonical out := by
  unfold State.readHome at e
  revert e
  repeat' first
    | with_reducible assumption
    | with_reducible refine State.touchSlice_keeps ?_
    | with_reducible refine State.markAccess_keeps ?_
    | dsimp only
    | with_reducible refine pair_eq ?_
    | split
    | (intro e; subst e)

theorem State.readHome_keeps {s : State} {r : Request} (h0 : MemoryCanonical s) : MemoryCanonical (State.readHome s r).1 := State.readHome_of h0 rfl

theorem State.readParts_of {s : State} {r : Request} {line : List Byte} {bad : List (LanePart × Nat)} {y4 : List LanePart} {out} {a1} {a2} (h0 : MemoryCanonical s) (e : State.readParts s r line bad y4 = (out, a1, a2)) : MemoryCanonical out := by
  induction y4 generalizing s r line bad h0 out a1 a2 with
  | nil =>
    unfold State.readParts at e
    revert e
    repeat' first
      | with_reducible assumption
      | with_reducible refine pair_eq ?_
      | (intro e; subst e)
  | cons _ _ ih =>
    unfold State.readParts at e
    revert e
    repeat' first
      | with_reducible assumption
      | with_reducible refine ih ?_ rfl
      | with_reducible refine State.deviceRead_of ?_ (by with_reducible assumption)
      | with_reducible refine pair_eq ?_
      | split
      | (intro e; subst e)

theorem State.readParts_keeps {s : State} {r : Request} {line : List Byte} {bad : List (LanePart × Nat)} {y4 : List LanePart} (h0 : MemoryCanonical s) : MemoryCanonical (State.readParts s r line bad y4).1 := State.readParts_of h0 rfl

theorem State.writeParts_of {s : State} {r : Request} {w : Nat} {bad : List (LanePart × Nat)} {y4 : List LanePart} {out} {a1} {a2} (h0 : MemoryCanonical s) (e : State.writeParts s r w bad y4 = (out, a1, a2)) : MemoryCanonical out := by
  induction y4 generalizing s r w bad h0 out a1 a2 with
  | nil =>
    unfold State.writeParts at e
    revert e
    repeat' first
      | with_reducible assumption
      | with_reducible refine pair_eq ?_
      | (intro e; subst e)
  | cons _ _ ih =>
    unfold State.writeParts at e
    revert e
    repeat' first
      | with_reducible assumption
      | with_reducible refine ih ?_ rfl
      | with_reducible refine State.performWrite_keeps ?_
      | with_reducible refine State.deviceWrite_of ?_ (by with_reducible assumption)
      | dsimp only
      | with_reducible refine pair_eq ?_
      | split
      | (intro e; subst e)

theorem State.writeParts_keeps {s : State} {r : Request} {w : Nat} {bad : List (LanePart × Nat)} {y4 : List LanePart} (h0 : MemoryCanonical s) : MemoryCanonical (State.writeParts s r w bad y4).1 := State.writeParts_of h0 rfl

theorem State.writeHome_of {s : State} {r : Request} {out} {a1} (h0 : MemoryCanonical s) (e : State.writeHome s r = (out, a1)) : MemoryCanonical out := by
  unfold State.writeHome at e
  revert e
  repeat' first
    | with_reducible assumption
    | with_reducible refine State.clearCovered_keeps ?_
    | with_reducible refine State.writeParts_keeps ?_
    | dsimp only
    | with_reducible refine pair_eq ?_
    | (intro e; subst e)

theorem State.writeHome_keeps {s : State} {r : Request} (h0 : MemoryCanonical s) : MemoryCanonical (State.writeHome s r).1 := State.writeHome_of h0 rfl

theorem State.answerParts_keeps {s : State} {r : Request} {bad : List (LanePart × Nat)} {answer : State → Request → State}
    (ha : ∀ s r, MemoryCanonical s → MemoryCanonical (answer s r)) (h : MemoryCanonical s) : MemoryCanonical (s.answerParts r bad answer) := by
  unfold State.answerParts
  have h1 := State.splitRefused_keeps (r := r) (bad := bad) h
  split
  · exact State.settleOp_keeps (ha _ _ h)
  · dsimp only
    split
    · exact State.settleOp_keeps (State.dropRequest_keeps h1)
    · exact State.settleOp_keeps (ha _ _ h1)

theorem State.atomicPart_of {s : State} {r : Request} {aop : Nat} {rnd : Rnd} {p : LanePart} {out} {a1} {a2} (h0 : MemoryCanonical s) (e : State.atomicPart s r aop rnd p = (out, a1, a2)) : MemoryCanonical out := by
  unfold State.atomicPart at e
  revert e
  repeat' first
    | with_reducible assumption
    | with_reducible refine State.performWrite_keeps ?_
    | with_reducible refine State.recordedAtomic_keeps ?_
    | dsimp only
    | with_reducible refine pair_eq ?_
    | (intro e; subst e)

theorem State.atomicPart_keeps {s : State} {r : Request} {aop : Nat} {rnd : Rnd} {p : LanePart} (h0 : MemoryCanonical s) : MemoryCanonical (State.atomicPart s r aop rnd p).1 := State.atomicPart_of h0 rfl

theorem State.atomicParts_of {s : State} {r : Request} {aop : Nat} {rnd : Rnd} {out} {a1} {a2} (h0 : MemoryCanonical s) (e : State.atomicParts s r aop rnd = (out, a1, a2)) : MemoryCanonical out := by
  unfold State.atomicParts at e
  revert e
  repeat' first
    | with_reducible assumption
    | with_reducible refine State.atomicPart_keeps ?_
    | dsimp only
    | with_reducible refine foldl_fst_keeps (fun _ _ _ => ?_) ?_
    | with_reducible refine pair_eq ?_
    | (intro e; subst e)

theorem State.atomicParts_keeps {s : State} {r : Request} {aop : Nat} {rnd : Rnd} (h0 : MemoryCanonical s) : MemoryCanonical (State.atomicParts s r aop rnd).1 := State.atomicParts_of h0 rfl

theorem State.sendAtomic_of {s : State} {ia : Nat} {aop : Nat} {ty : Ty} {operand : List Byte} {compare : List Byte} {a1} {out} (h0 : MemoryCanonical s) (e : State.sendAtomic s ia aop ty operand compare = .ok (a1, out)) : MemoryCanonical out := by
  unfold State.sendAtomic at e
  revert e
  repeat' first
    | with_reducible assumption
    | with_reducible refine State.emit_keeps ?_
    | with_reducible refine State.deviceRead_of ?_ (by with_reducible assumption)
    | with_reducible exact except_error
    | with_reducible refine except_ok ?_
    | with_reducible refine pair_eq ?_
    | split
    | simp only [Except.map]
    | (intro e; subst e)

theorem State.foreignParts_of {s : State} {r : Request} {aop : Nat} {y3 : List LanePart} {out} {a1} {a2} (h0 : MemoryCanonical s) (e : State.foreignParts s r aop y3 = (out, a1, a2)) : MemoryCanonical out := by
  induction y3 generalizing s r aop h0 out a1 a2 with
  | nil =>
    unfold State.foreignParts at e
    revert e
    repeat' first
      | with_reducible assumption
      | with_reducible refine State.recordedAtomic_keeps ?_
      | with_reducible refine State.logAtomic_keeps ?_
      | with_reducible refine pair_eq ?_
      | (intro e; subst e)
  | cons _ _ ih =>
    unfold State.foreignParts at e
    revert e
    repeat' first
      | with_reducible assumption
      | with_reducible refine State.recordedAtomic_keeps ?_
      | with_reducible refine State.logAtomic_keeps ?_
      | with_reducible refine ih ?_ rfl
      | with_reducible refine State.sendAtomic_of ?_ (by with_reducible assumption)
      | dsimp only
      | with_reducible refine pair_eq ?_
      | split
      | (intro e; subst e)

theorem State.foreignParts_keeps {s : State} {r : Request} {aop : Nat} {y3 : List LanePart} (h0 : MemoryCanonical s) : MemoryCanonical (State.foreignParts s r aop y3).1 := State.foreignParts_of h0 rfl

theorem State.foreignAtomic_keeps {s : State} {r : Request} {aop : Nat} (h0 : MemoryCanonical s) : MemoryCanonical (State.foreignAtomic s r aop) := by
  unfold State.foreignAtomic
  repeat' first
    | with_reducible assumption
    | with_reducible refine State.answerAfter_keeps ?_
    | with_reducible refine State.answerParts_keeps (fun _ _ _ => ?_) ?_
    | with_reducible refine State.foreignParts_keeps ?_

theorem State.performBack_of {s : State} {r : Request} {out} {a1} (h0 : MemoryCanonical s) (e : State.performBack s r = (out, a1)) : MemoryCanonical out := by
  unfold State.performBack at e
  revert e
  repeat' first
    | with_reducible assumption
    | with_reducible refine State.setPoison_keeps ?_
    | with_reducible refine State.performWrite_keeps ?_
    | dsimp only
    | with_reducible refine pair_eq ?_
    | split
    | (intro e; subst e)

theorem State.performBack_keeps {s : State} {r : Request} (h0 : MemoryCanonical s) : MemoryCanonical (State.performBack s r).1 := State.performBack_of h0 rfl

theorem execHomeLoad_keeps {req : Nat} {s : State} {out} (h0 : MemoryCanonical s) (e : execHomeLoad req s = .next out) : MemoryCanonical out := by
  unfold execHomeLoad at e
  revert e
  repeat' first
    | with_reducible assumption
    | with_reducible refine State.deviceRead_of ?_ (by with_reducible assumption)
    | with_reducible refine State.answerAfter_keeps ?_
    | with_reducible refine State.again_keeps ?_
    | with_reducible refine State.settleOp_keeps ?_
    | with_reducible refine State.refuse_keeps ?_
    | with_reducible refine State.spoiltRequest_keeps ?_
    | with_reducible refine State.readHome_keeps ?_
    | with_reducible refine State.readParts_keeps ?_
    | with_reducible refine State.writeParts_keeps ?_
    | with_reducible refine State.answerParts_keeps (fun _ _ _ => ?_) ?_
    | dsimp only
    | with_reducible refine next_next ?_
    | split
    | (intro e; subst e)

theorem execHomeStore_keeps {req : Nat} {s : State} {out} (h0 : MemoryCanonical s) (e : execHomeStore req s = .next out) : MemoryCanonical out := by
  unfold execHomeStore at e
  revert e
  repeat' first
    | with_reducible assumption
    | with_reducible refine State.answerAfter_keeps ?_
    | with_reducible refine State.again_keeps ?_
    | with_reducible refine State.spoiltRequest_keeps ?_
    | with_reducible refine State.writeParts_keeps ?_
    | with_reducible refine State.writeHome_keeps ?_
    | with_reducible refine State.answerParts_keeps (fun _ _ _ => ?_) ?_
    | with_reducible refine State.performBack_keeps ?_
    | dsimp only
    | with_reducible refine next_next ?_
    | split
    | (intro e; subst e)

theorem execHomeAtomic_keeps {req : Nat} {s : State} {out} (h0 : MemoryCanonical s) (e : execHomeAtomic req s = .next out) : MemoryCanonical out := by
  unfold execHomeAtomic at e
  revert e
  repeat' first
    | with_reducible assumption
    | with_reducible refine State.answerAfter_keeps ?_
    | with_reducible refine State.again_keeps ?_
    | with_reducible refine State.refuse_keeps ?_
    | with_reducible refine State.spoiltRequest_keeps ?_
    | with_reducible refine State.atomicParts_keeps ?_
    | with_reducible refine State.foreignAtomic_keeps ?_
    | dsimp only
    | with_reducible refine next_next ?_
    | split
    | (intro e; subst e)

theorem execOperationPacket_keeps {packet : Nat} {s : State} {out} (h0 : MemoryCanonical s) (e : execOperationPacket packet s = .next out) : MemoryCanonical out := by
  unfold execOperationPacket at e
  revert e
  repeat' first
    | with_reducible assumption
    | with_reducible refine State.dropRequest_keeps ?_
    | with_reducible refine State.writePlotBytes_keeps ?_
    | with_reducible refine State.killContext_keeps ?_
    | with_reducible refine State.recordedAtomic_keeps ?_
    | with_reducible refine State.answerAfter_keeps ?_
    | with_reducible refine State.refuse_keeps ?_
    | dsimp only
    | with_reducible refine next_next ?_
    | split
    | (intro e; subst e)

theorem State.keepLoaded_keeps {s : State} {r : Request} (h0 : MemoryCanonical s) : MemoryCanonical (State.keepLoaded s r) := by
  unfold State.keepLoaded
  repeat' first
    | with_reducible assumption
    | with_reducible refine State.fillL1_keeps ?_
    | dsimp only
    | split

theorem State.atomicReturned_keeps {s : State} {r : Request} {aop : Nat} {rnd : Rnd} (h0 : MemoryCanonical s) : MemoryCanonical (State.atomicReturned s r aop rnd) := by
  unfold State.atomicReturned
  repeat' first
    | with_reducible assumption
    | with_reducible refine State.updThread_keeps ?_
    | with_reducible refine State.expelL1_keeps ?_
    | with_reducible refine State.writeLanes_keeps ?_
    | with_reducible refine State.logAtomic_keeps ?_
    | with_reducible refine foldl_keeps (fun _ _ _ => ?_) ?_
    | split

theorem State.raiseWmax_keeps {s : State} {ts : List TRef} {w : Nat} (h0 : MemoryCanonical s) : MemoryCanonical (State.raiseWmax s ts w) := by
  unfold State.raiseWmax
  repeat' first
    | with_reducible assumption
    | with_reducible refine State.updThreads_keeps ?_

theorem State.privateLine_keeps {s : State} {r : Request} (h0 : MemoryCanonical s) : MemoryCanonical (State.privateLine s r).1 := by
  unfold State.privateLine
  repeat' first
    | with_reducible assumption
    | with_reducible refine State.fillL1_keeps ?_
    | with_reducible refine State.updL1_keeps ?_
    | with_reducible refine State.raiseWmax_keeps ?_
    | with_reducible refine State.updRequest_keeps ?_
    | with_reducible refine State.withdraw_keeps ?_
    | with_reducible refine State.release_keeps ?_
    | with_reducible refine writePrivate_keeps ?_
    | with_reducible refine State.writeLanes_keeps ?_
    | dsimp only
    | with_reducible refine foldl_keeps (fun _ _ _ => ?_) ?_
    | split

theorem State.privateStored_keeps {s : State} {r : Request} (h0 : MemoryCanonical s) : MemoryCanonical (State.privateStored s r) := by
  unfold State.privateStored
  repeat' first
    | with_reducible assumption
    | with_reducible refine State.fillL1_keeps ?_
    | with_reducible refine State.updL1_keeps ?_
    | with_reducible refine State.raiseWmax_keeps ?_
    | with_reducible refine State.updRequest_keeps ?_
    | with_reducible refine State.withdraw_keeps ?_
    | with_reducible refine State.release_keeps ?_
    | with_reducible refine writePrivate_keeps ?_
    | with_reducible refine State.writeLanes_keeps ?_
    | with_reducible refine State.privateLine_keeps ?_
    | dsimp only
    | with_reducible refine foldl_keeps (fun _ _ _ => ?_) ?_
    | split

theorem State.privateLoaded_keeps {s : State} {r : Request} {line : List Byte} (h0 : MemoryCanonical s) : MemoryCanonical (State.privateLoaded s r line) := by
  unfold State.privateLoaded
  repeat' first
    | with_reducible assumption
    | with_reducible refine State.fillL1_keeps ?_
    | with_reducible refine State.updL1_keeps ?_
    | with_reducible refine State.raiseWmax_keeps ?_
    | with_reducible refine State.updRequest_keeps ?_
    | with_reducible refine State.withdraw_keeps ?_
    | with_reducible refine State.release_keeps ?_
    | with_reducible refine writePrivate_keeps ?_
    | with_reducible refine State.writeLanes_keeps ?_
    | dsimp only
    | with_reducible refine foldl_keeps (fun _ _ _ => ?_) ?_
    | split

theorem State.privateReturned_keeps {s : State} {r : Request} {store : Bool} (h0 : MemoryCanonical s) : MemoryCanonical (State.privateReturned s r store) := by
  unfold State.privateReturned
  repeat' first
    | with_reducible assumption
    | with_reducible refine State.endRequest_keeps ?_
    | with_reducible refine State.dropRequest_keeps ?_
    | with_reducible refine State.killContext_keeps ?_
    | with_reducible refine State.privateStored_keeps ?_
    | with_reducible refine State.privateLoaded_keeps ?_
    | with_reducible refine State.privateLine_keeps ?_
    | with_reducible refine State.fillL1_keeps ?_
    | with_reducible refine writePrivate_keeps ?_
    | with_reducible refine State.writeLanes_keeps ?_
    | dsimp only
    | with_reducible refine foldl_keeps (fun _ _ _ => ?_) ?_
    | split

theorem State.constReturned_keeps {s : State} {r : Request} {run : Nat} (h0 : MemoryCanonical s) : MemoryCanonical (State.constReturned s r run) := by
  unfold State.constReturned
  repeat' first
    | with_reducible assumption
    | with_reducible refine State.updCore_keeps ?_
    | with_reducible refine State.writeLanes_keeps ?_
    | split

theorem State.unitLoaded_keeps {s : State} {r : Request} {use : Nat} (h0 : MemoryCanonical s) : MemoryCanonical (State.unitLoaded s r use) := by
  unfold State.unitLoaded
  repeat' first
    | with_reducible assumption
    | with_reducible refine State.dropRequest_keeps ?_
    | with_reducible refine State.updTileSlot_keeps ?_
    | with_reducible refine State.unitDone_keeps ?_
    | dsimp only
    | split

theorem execLoadReturn_keeps {req : Nat} {s : State} {out} (h0 : MemoryCanonical s) (e : execLoadReturn req s = .next out) : MemoryCanonical out := by
  unfold execLoadReturn at e
  revert e
  repeat' first
    | with_reducible assumption
    | with_reducible refine State.dropRequest_keeps ?_
    | with_reducible refine State.writeLanes_keeps ?_
    | with_reducible refine State.endRequest_keeps ?_
    | with_reducible refine State.again_keeps ?_
    | with_reducible refine State.keepLoaded_keeps ?_
    | with_reducible refine State.atomicReturned_keeps ?_
    | with_reducible refine State.privateReturned_keeps ?_
    | with_reducible refine State.constReturned_keeps ?_
    | with_reducible refine State.unitLoaded_keeps ?_
    | with_reducible refine next_next ?_
    | split
    | (intro e; subst e)

theorem State.updateOwn_keeps {s : State} {r : Request} (h0 : MemoryCanonical s) : MemoryCanonical (State.updateOwn s r) := by
  unfold State.updateOwn
  repeat' first
    | with_reducible assumption
    | with_reducible refine State.updCore_keeps ?_
    | simp only [canonical_mk]
    | with_reducible refine memory_of ?_

theorem execStoreAck_keeps {req : Nat} {s : State} {out} (h0 : MemoryCanonical s) (e : execStoreAck req s = .next out) : MemoryCanonical out := by
  unfold execStoreAck at e
  revert e
  repeat' first
    | with_reducible assumption
    | with_reducible refine State.dropRequest_keeps ?_
    | with_reducible refine State.unitDone_keeps ?_
    | with_reducible refine State.endRequest_keeps ?_
    | with_reducible refine State.updateOwn_keeps ?_
    | with_reducible refine State.raiseWmax_keeps ?_
    | dsimp only
    | with_reducible refine next_next ?_
    | split
    | (intro e; subst e)

theorem State.fetchFails_keeps {s : State} {w : Walk} {pc : W64} {ts : List TRef} {cause : Nat} (h0 : MemoryCanonical s) : MemoryCanonical (State.fetchFails s w pc ts cause) := by
  unfold State.fetchFails
  repeat' first
    | with_reducible assumption
    | with_reducible refine State.parkThreads_keeps ?_
    | with_reducible refine State.settle_keeps ?_
    | dsimp only
    | split

theorem execPageWalkAnswer_keeps {walk : Nat} {s : State} {out} (h0 : MemoryCanonical s) (e : execPageWalkAnswer walk s = .next out) : MemoryCanonical out := by
  unfold execPageWalkAnswer at e
  revert e
  repeat' first
    | with_reducible assumption
    | with_reducible refine State.emit_keeps ?_
    | with_reducible refine State.fillPage_keeps ?_
    | with_reducible refine State.settleOp_keeps ?_
    | with_reducible refine State.fetchFails_keeps ?_
    | simp only [canonical_mk]
    | with_reducible refine memory_of ?_
    | with_reducible refine next_next ?_
    | split
    | (intro e; subst e)

theorem execFenceComplete_keeps {t : TRef} {s : State} {out} (h0 : MemoryCanonical s) (e : execFenceComplete t s = .next out) : MemoryCanonical out := by
  unfold execFenceComplete at e
  revert e
  repeat' first
    | with_reducible assumption
    | with_reducible refine State.updThread_keeps ?_
    | with_reducible refine next_next ?_
    | split
    | (intro e; subst e)

theorem State.runSups_of {s : State} {as : List SupAccess} {out} {a1} (h0 : MemoryCanonical s) (e : State.runSups s as = (out, a1)) : MemoryCanonical out := by
  unfold State.runSups at e
  revert e
  repeat' first
    | with_reducible assumption
    | with_reducible refine supAccess_keeps ?_
    | dsimp only
    | with_reducible refine foldl_fst_keeps (fun _ _ _ => ?_) ?_
    | with_reducible refine pair_eq ?_
    | (intro e; subst e)

theorem State.runSups_keeps {s : State} {as : List SupAccess} (h0 : MemoryCanonical s) : MemoryCanonical (State.runSups s as).1 := State.runSups_of h0 rfl

theorem State.giveResult_keeps {s : State} {r : Result} (h0 : MemoryCanonical s) : MemoryCanonical (State.giveResult s r) := by
  unfold State.giveResult
  repeat' first
    | with_reducible assumption
    | with_reducible refine State.logAtomic_keeps ?_
    | with_reducible refine foldl_keeps (fun _ _ _ => ?_) ?_
    | with_reducible refine State.writeLanes_keeps ?_
    | with_reducible refine State.release_keeps ?_
    | with_reducible refine State.runSups_keeps ?_
    | simp only [canonical_mk]
    | with_reducible refine memory_of ?_

theorem State.endShoot_keeps {s : State} {r : Result} (h0 : MemoryCanonical s) : MemoryCanonical (State.endShoot s r) := by
  unfold State.endShoot
  repeat' first
    | with_reducible assumption
    | with_reducible refine State.resumeParked_keeps ?_
    | with_reducible refine State.shootPage_keeps ?_
    | with_reducible refine foldl_keeps (fun _ _ _ => ?_) ?_

theorem execLongLatencyResult_keeps {result : Nat} {s : State} {out} (h0 : MemoryCanonical s) (e : execLongLatencyResult result s = .next out) : MemoryCanonical out := by
  unfold execLongLatencyResult at e
  revert e
  repeat' first
    | with_reducible assumption
    | with_reducible refine State.finishUse_keeps ?_
    | with_reducible refine State.finishMma_keeps ?_
    | with_reducible refine State.again_keeps ?_
    | with_reducible refine State.giveResult_keeps ?_
    | with_reducible refine State.endShoot_keeps ?_
    | with_reducible refine next_next ?_
    | split
    | (intro e; subst e)

/-! ### Issue -/

theorem State.noteFetchWord_keeps {s : State} {g : GRef} {va : Nat} (h0 : MemoryCanonical s) : MemoryCanonical (State.noteFetchWord s g va) := by
  unfold State.noteFetchWord
  repeat' first
    | with_reducible assumption
    | with_reducible refine State.markEntry_keeps ?_
    | with_reducible refine State.usePage_keeps ?_
    | dsimp only
    | split

theorem State.noteFetch_keeps {s : State} {g : GRef} {pc : Nat} {n : Nat} (h0 : MemoryCanonical s) : MemoryCanonical (State.noteFetch s g pc n) := by
  unfold State.noteFetch
  repeat' first
    | with_reducible assumption
    | with_reducible refine State.noteFetchWord_keeps ?_

theorem State.walkFetch_keeps {s : State} {g : GRef} {pc : Nat} {ia : Nat} {ts : List TRef} (h0 : MemoryCanonical s) : MemoryCanonical (State.walkFetch s g pc ia ts) := by
  unfold State.walkFetch
  repeat' first
    | with_reducible assumption
    | with_reducible refine State.fresh_keeps ?_
    | with_reducible refine State.after_keeps ?_
    | simp only [canonical_mk]
    | with_reducible refine memory_of ?_

theorem State.choose_keeps {s : State} (h0 : MemoryCanonical s) : MemoryCanonical (State.choose s) := by
  unfold State.choose
  repeat' first
    | with_reducible assumption
    | simp only [canonical_mk]
    | with_reducible refine memory_of ?_

theorem State.afterIssue_keeps {s : State} {g : Group} {act : List Thread} {waits : List TRef} (h0 : MemoryCanonical s) : MemoryCanonical (State.afterIssue s g act waits) := by
  unfold State.afterIssue
  repeat' first
    | with_reducible assumption
    | with_reducible refine State.updThreads_keeps ?_
    | with_reducible refine State.updGroup_keeps ?_
    | with_reducible refine State.restartWatchdog_keeps ?_
    | simp only [canonical_mk]
    | with_reducible refine memory_of ?_

theorem execActiveSetDisplace_keeps {core : CoreId} {s : State} {out} (h0 : MemoryCanonical s) (e : execActiveSetDisplace core s = .next out) : MemoryCanonical out := by
  unfold execActiveSetDisplace at e
  revert e
  repeat' first
    | with_reducible assumption
    | with_reducible refine State.updCore_keeps ?_
    | dsimp only
    | with_reducible refine next_next ?_
    | split
    | (intro e; subst e)

theorem execThrottleWindowEnd_keeps {core : CoreId} {s : State} {out} (h0 : MemoryCanonical s) (e : execThrottleWindowEnd core s = .next out) : MemoryCanonical out := by
  unfold execThrottleWindowEnd at e
  revert e
  repeat' first
    | with_reducible assumption
    | with_reducible refine State.updCore_keeps ?_
    | dsimp only
    | with_reducible refine next_next ?_
    | (intro e; subst e)

theorem State.tmovArrives_keeps {s : State} {tm : Team} {a : Arrival} (h0 : MemoryCanonical s) : MemoryCanonical (State.tmovArrives s tm a) := by
  unfold State.tmovArrives
  repeat' first
    | with_reducible assumption
    | with_reducible refine State.addResult_keeps ?_
    | with_reducible refine tmovWriteNow_keeps ?_
    | dsimp only
    | split

theorem State.arrives_keeps {s : State} {a : Arrival} (h0 : MemoryCanonical s) : MemoryCanonical (State.arrives s a) := by
  unfold State.arrives
  repeat' first
    | with_reducible assumption
    | with_reducible refine State.eventAnswered_keeps ?_
    | with_reducible refine State.cvgArrives_keeps ?_
    | with_reducible refine State.mmaSignArrives_keeps ?_
    | with_reducible refine State.stageArrives_keeps ?_
    | with_reducible refine State.tmovArrives_keeps ?_
    | simp only [canonical_mk]
    | with_reducible refine memory_of ?_
    | split

/-! ### Sched -/

theorem execSieveDraw_keeps {core : CoreId} {s : State} {out} (h0 : MemoryCanonical s) (e : execSieveDraw core s = .next out) : MemoryCanonical out := by
  unfold execSieveDraw at e
  revert e
  repeat' first
    | with_reducible assumption
    | with_reducible refine State.drawBin_keeps ?_
    | with_reducible refine next_next ?_
    | split
    | (intro e; subst e)

theorem execBinAgeLimit_keeps {core : CoreId} {ctx : Nat} {bin : Nat} {s : State} {out} (h0 : MemoryCanonical s) (e : execBinAgeLimit core ctx bin s = .next out) : MemoryCanonical out := by
  unfold execBinAgeLimit at e
  revert e
  repeat' first
    | with_reducible assumption
    | with_reducible refine State.drawBin_keeps ?_
    | with_reducible refine next_next ?_
    | split
    | (intro e; subst e)

theorem execThreadMove_keeps {t : TRef} {s : State} {out} (h0 : MemoryCanonical s) (e : execThreadMove t s = .next out) : MemoryCanonical out := by
  unfold execThreadMove at e
  revert e
  repeat' first
    | with_reducible assumption
    | with_reducible refine State.updThread_keeps ?_
    | with_reducible refine next_next ?_
    | (intro e; subst e)

theorem execAutomaticReform_keeps {g : GRef} {s : State} {out} (h0 : MemoryCanonical s) (e : execAutomaticReform g s = .next out) : MemoryCanonical out := by
  unfold execAutomaticReform at e
  revert e
  repeat' first
    | with_reducible assumption
    | with_reducible refine State.updGroup_keeps ?_
    | with_reducible refine State.ceaseGroups_keeps ?_
    | with_reducible refine State.fileThread_keeps ?_
    | dsimp only
    | with_reducible refine foldl_keeps (fun _ _ _ => ?_) ?_
    | with_reducible refine next_next ?_
    | split
    | (intro e; subst e)

theorem execWaitingCancelExit_keeps {t : TRef} {s : State} {out} (h0 : MemoryCanonical s) (e : execWaitingCancelExit t s = .next out) : MemoryCanonical out := by
  unfold execWaitingCancelExit at e
  revert e
  repeat' first
    | with_reducible assumption
    | with_reducible refine State.cancelExit_keeps ?_
    | with_reducible refine next_next ?_
    | split
    | (intro e; subst e)

/-! ### Power -/

theorem State.permitted_keeps {s : State} {q : PermitReq} (h0 : MemoryCanonical s) : MemoryCanonical (State.permitted s q) := by
  unfold State.permitted
  repeat' first
    | with_reducible assumption
    | with_reducible refine State.updDie_keeps ?_
    | with_reducible refine State.beginPass_keeps ?_
    | with_reducible refine State.commandPermit_keeps ?_
    | split

theorem execPermitRefill_keeps {die : Nat} {s : State} {out} (h0 : MemoryCanonical s) (e : execPermitRefill die s = .next out) : MemoryCanonical out := by
  unfold execPermitRefill at e
  revert e
  repeat' first
    | with_reducible assumption
    | with_reducible refine State.updSteward_keeps ?_
    | with_reducible refine next_next ?_
    | (intro e; subst e)

theorem execPermitGrant_keeps {die : Nat} {s : State} {out} (h0 : MemoryCanonical s) (e : execPermitGrant die s = .next out) : MemoryCanonical out := by
  unfold execPermitGrant at e
  revert e
  repeat' first
    | with_reducible assumption
    | with_reducible refine State.updSteward_keeps ?_
    | with_reducible refine State.permitted_keeps ?_
    | with_reducible refine next_next ?_
    | split
    | (intro e; subst e)

theorem execThrottleLevelChange_keeps {die : Nat} {temp : Nat} {s : State} {out} (h0 : MemoryCanonical s) (e : execThrottleLevelChange die temp s = .next out) : MemoryCanonical out := by
  unfold execThrottleLevelChange at e
  revert e
  repeat' first
    | with_reducible assumption
    | with_reducible refine State.updSteward_keeps ?_
    | with_reducible refine State.reboot_keeps ?_
    | with_reducible refine next_next ?_
    | split
    | (intro e; subst e)

/-! ### Swap -/

theorem State.writeImage_keeps {s : State} {ia : Nat} {bs : List Byte} (h0 : MemoryCanonical s) : MemoryCanonical (State.writeImage s ia bs) := by
  unfold State.writeImage
  repeat' first
    | with_reducible assumption
    | with_reducible refine State.homeWrite_keeps ?_
    | split

theorem State.readImage_of {s : State} {ia : Nat} {n : Nat} {a1} {out} (h0 : MemoryCanonical s) (e : State.readImage s ia n = some (a1, out)) : MemoryCanonical out := by
  unfold State.readImage at e
  revert e
  repeat' first
    | with_reducible assumption
    | with_reducible refine State.homeBytes_of ?_ (by with_reducible assumption)
    | with_reducible exact none_some
    | with_reducible refine some_some ?_
    | with_reducible refine pair_eq ?_
    | split
    | (intro e; subst e)

theorem State.loadThreads_keeps {s : State} {c : CoreId} {ctx : Nat} (h0 : MemoryCanonical s) : MemoryCanonical (State.loadThreads s c ctx) := by
  unfold State.loadThreads
  repeat' first
    | with_reducible assumption
    | with_reducible refine State.readImage_of ?_ (by with_reducible assumption)
    | simp only [canonical_mk]
    | with_reducible refine memory_of ?_
    | split

theorem State.loadAccs_keeps {s : State} {c : CoreId} {ctx : Nat} (h0 : MemoryCanonical s) : MemoryCanonical (State.loadAccs s c ctx) := by
  unfold State.loadAccs
  repeat' first
    | with_reducible assumption
    | with_reducible refine State.readImage_of ?_ (by with_reducible assumption)
    | simp only [canonical_mk]
    | with_reducible refine memory_of ?_
    | split

theorem State.spillBank_keeps {s : State} {c : CoreId} (h0 : MemoryCanonical s) : MemoryCanonical (State.spillBank s c) := by
  unfold State.spillBank
  repeat' first
    | with_reducible assumption
    | with_reducible refine State.updCtx_keeps ?_
    | with_reducible refine State.updCore_keeps ?_
    | with_reducible refine State.updEngine_keeps ?_
    | with_reducible refine State.writeImage_keeps ?_
    | dsimp only
    | split

theorem State.takePlace_keeps {s : State} {c : CoreId} {ctx : Nat} (h0 : MemoryCanonical s) : MemoryCanonical (State.takePlace s c ctx) := by
  unfold State.takePlace
  repeat' first
    | with_reducible assumption
    | with_reducible refine State.updEngine_keeps ?_
    | with_reducible refine State.loadAccs_keeps ?_
    | simp only [canonical_mk]
    | with_reducible refine memory_of ?_
    | split

theorem State.fillBank_keeps {s : State} {c : CoreId} {ctx : Nat} (h0 : MemoryCanonical s) : MemoryCanonical (State.fillBank s c ctx) := by
  unfold State.fillBank
  repeat' first
    | with_reducible assumption
    | with_reducible refine State.updCore_keeps ?_
    | with_reducible refine State.loadThreads_keeps ?_
    | with_reducible refine State.takePlace_keeps ?_
    | simp only [canonical_mk]
    | with_reducible refine memory_of ?_
    | split

theorem State.holdScans_keeps {s : State} {c : CoreId} {ctx : Nat} (h0 : MemoryCanonical s) : MemoryCanonical (State.holdScans s c ctx) := by
  unfold State.holdScans
  repeat' first
    | with_reducible assumption
    | simp only [canonical_mk]
    | with_reducible refine memory_of ?_

theorem State.resumeScans_keeps {s : State} {c : CoreId} {ctx : Nat} (h0 : MemoryCanonical s) : MemoryCanonical (State.resumeScans s c ctx) := by
  unfold State.resumeScans
  repeat' first
    | with_reducible assumption
    | with_reducible refine State.afterExactly_keeps ?_
    | simp only [canonical_mk]
    | with_reducible refine memory_of ?_
    | with_reducible refine foldl_keeps (fun _ _ _ => ?_) ?_

theorem State.exchangeBanks_keeps {s : State} {c : CoreId} (h0 : MemoryCanonical s) : MemoryCanonical (State.exchangeBanks s c) := by
  unfold State.exchangeBanks
  repeat' first
    | with_reducible assumption
    | with_reducible refine State.updCore_keeps ?_
    | with_reducible refine State.holdScans_keeps ?_
    | with_reducible refine State.resumeScans_keeps ?_
    | dsimp only
    | with_reducible refine foldl_keeps (fun _ _ _ => ?_) ?_

theorem execSwapSpillFill_keeps {core : CoreId} {s : State} {out} (h0 : MemoryCanonical s) (e : execSwapSpillFill core s = .next out) : MemoryCanonical out := by
  unfold execSwapSpillFill at e
  revert e
  repeat' first
    | with_reducible assumption
    | with_reducible refine State.afterExactly_keeps ?_
    | with_reducible refine State.updCore_keeps ?_
    | with_reducible refine State.again_keeps ?_
    | with_reducible refine State.spillBank_keeps ?_
    | with_reducible refine State.fillBank_keeps ?_
    | dsimp only
    | with_reducible refine next_next ?_
    | split
    | (intro e; subst e)

theorem execSwapExchange_keeps {core : CoreId} {s : State} {out} (h0 : MemoryCanonical s) (e : execSwapExchange core s = .next out) : MemoryCanonical out := by
  unfold execSwapExchange at e
  revert e
  repeat' first
    | with_reducible assumption
    | with_reducible refine State.afterExactly_keeps ?_
    | with_reducible refine State.updCore_keeps ?_
    | with_reducible refine State.exchangeBanks_keeps ?_
    | with_reducible refine next_next ?_
    | split
    | (intro e; subst e)

theorem execWatchdogExpiry_keeps {ctx : Nat} {s : State} {out} (h0 : MemoryCanonical s) (e : execWatchdogExpiry ctx s = .next out) : MemoryCanonical out := by
  unfold execWatchdogExpiry at e
  revert e
  repeat' first
    | with_reducible assumption
    | with_reducible refine State.killContext_keeps ?_
    | with_reducible refine next_next ?_
    | split
    | (intro e; subst e)

theorem execDrainComplete_keeps {ctx : Nat} {s : State} {out} (h0 : MemoryCanonical s) (e : execDrainComplete ctx s = .next out) : MemoryCanonical out := by
  unfold execDrainComplete at e
  revert e
  repeat' first
    | with_reducible assumption
    | with_reducible refine State.setCtl_keeps ?_
    | with_reducible refine next_next ?_
    | split
    | (intro e; subst e)

theorem execDeferredFaultRecord_keeps {ctx : Nat} {s : State} {out} (h0 : MemoryCanonical s) (e : execDeferredFaultRecord ctx s = .next out) : MemoryCanonical out := by
  unfold execDeferredFaultRecord at e
  revert e
  repeat' first
    | with_reducible assumption
    | with_reducible refine State.updCtx_keeps ?_
    | with_reducible refine next_next ?_
    | (intro e; subst e)

theorem State.clearBank_keeps {s : State} {core : CoreId} {bank : Nat} (h0 : MemoryCanonical s) : MemoryCanonical (State.clearBank s core bank) := by
  unfold State.clearBank
  repeat' first
    | with_reducible assumption
    | with_reducible refine State.updCore_keeps ?_
    | with_reducible refine State.writeBackLine_keeps ?_
    | with_reducible refine foldl_keeps (fun _ _ _ => ?_) ?_

theorem execBankChangeComplete_keeps {core : CoreId} {bank : Nat} {s : State} {out} (h0 : MemoryCanonical s) (e : execBankChangeComplete core bank s = .next out) : MemoryCanonical out := by
  unfold execBankChangeComplete at e
  revert e
  repeat' first
    | with_reducible assumption
    | with_reducible refine State.afterExactly_keeps ?_
    | with_reducible refine State.updCore_keeps ?_
    | with_reducible refine State.clearBank_keeps ?_
    | with_reducible refine next_next ?_
    | split
    | (intro e; subst e)

/-! ### Migrate -/

theorem State.changeEntry_keeps {s : State} {page : Nat} {f : Nat → Nat} (h0 : MemoryCanonical s) : MemoryCanonical (State.changeEntry s page f) := by
  unfold State.changeEntry
  repeat' first
    | with_reducible assumption
    | with_reducible refine State.setEntry_keeps ?_
    | split

theorem State.raiseEvmax_keeps {s : State} {d : Nat} {slice : Nat} {lease : Nat} (h0 : MemoryCanonical s) : MemoryCanonical (State.raiseEvmax s d slice lease) := by
  unfold State.raiseEvmax
  repeat' first
    | with_reducible assumption
    | simp only [canonical_mk]
    | with_reducible refine memory_of ?_

theorem State.moveSlice_keeps {s : State} {ia : Nat} {old : Nat} {new : Nat} (h0 : MemoryCanonical s) : MemoryCanonical (State.moveSlice s ia old new) := by
  unfold State.moveSlice
  repeat' first
    | with_reducible assumption
    | with_reducible refine State.keepSlice_keeps ?_
    | with_reducible refine State.raiseEvmax_keeps ?_
    | simp only [canonical_mk]
    | with_reducible refine memory_of ?_
    | split

theorem State.copyLine_keeps {s : State} {ia : Nat} {old : Nat} {new : Nat} (h0 : MemoryCanonical s) : MemoryCanonical (State.copyLine s ia old new) := by
  unfold State.copyLine
  repeat' first
    | with_reducible assumption
    | with_reducible refine State.writeMem_keeps ?_
    | with_reducible refine State.clearCovered_keeps ?_
    | with_reducible refine State.moveSlice_keeps ?_
    | simp only [canonical_mk]
    | with_reducible refine memory_of ?_
    | split

theorem State.closeMove_keeps {s : State} {k : Nat} {page : Nat} {size : Nat} (h0 : MemoryCanonical s) : MemoryCanonical (State.closeMove s k page size) := by
  unfold State.closeMove
  repeat' first
    | with_reducible assumption
    | with_reducible refine State.updMemDie_keeps ?_
    | with_reducible refine State.shootPage_keeps ?_
    | with_reducible refine State.again_keeps ?_

theorem State.logFrame_keeps {s : State} {k : Nat} {frame : Nat} (h0 : MemoryCanonical s) : MemoryCanonical (State.logFrame s k frame) := by
  unfold State.logFrame
  repeat' first
    | with_reducible assumption
    | with_reducible refine State.writeMem_keeps ?_
    | with_reducible refine State.updMemDie_keeps ?_
    | split

theorem State.endMove_keeps {s : State} {k : Nat} {m : Move} (h0 : MemoryCanonical s) : MemoryCanonical (State.endMove s k m) := by
  unfold State.endMove
  repeat' first
    | with_reducible assumption
    | with_reducible refine State.updMemDie_keeps ?_
    | with_reducible refine State.resumeParked_keeps ?_
    | with_reducible refine State.shootPage_keeps ?_
    | with_reducible refine State.logFrame_keeps ?_
    | with_reducible refine foldl_keeps (fun _ _ _ => ?_) ?_

theorem State.finishPromotion_keeps {s : State} {k : Nat} {m : Move} (h0 : MemoryCanonical s) : MemoryCanonical (State.finishPromotion s k m) := by
  unfold State.finishPromotion
  repeat' first
    | with_reducible assumption
    | with_reducible refine State.changeEntry_keeps ?_
    | with_reducible refine State.closeMove_keeps ?_
    | with_reducible refine foldl_keeps (fun _ _ _ => ?_) ?_

theorem State.abandon_keeps {s : State} {k : Nat} {m : Move} (h0 : MemoryCanonical s) : MemoryCanonical (State.abandon s k m) := by
  unfold State.abandon
  repeat' first
    | with_reducible assumption
    | with_reducible refine State.changeEntry_keeps ?_
    | with_reducible refine State.closeMove_keeps ?_
    | with_reducible refine foldl_keeps (fun _ _ _ => ?_) ?_

theorem State.promotePage_keeps {s : State} {k : Nat} {m : Move} (h0 : MemoryCanonical s) : MemoryCanonical (State.promotePage s k m) := by
  unfold State.promotePage
  repeat' first
    | with_reducible assumption
    | with_reducible refine State.after_keeps ?_
    | with_reducible refine State.updMemDie_keeps ?_
    | with_reducible refine State.setEntry_keeps ?_
    | with_reducible refine State.abandon_keeps ?_
    | dsimp only
    | split

theorem State.pageCopied_keeps {s : State} {k : Nat} {m : Move} (h0 : MemoryCanonical s) : MemoryCanonical (State.pageCopied s k m) := by
  unfold State.pageCopied
  repeat' first
    | with_reducible assumption
    | with_reducible refine State.updMemDie_keeps ?_
    | with_reducible refine State.again_keeps ?_
    | with_reducible refine State.changeEntry_keeps ?_
    | with_reducible refine State.closeMove_keeps ?_
    | with_reducible refine State.finishPromotion_keeps ?_
    | with_reducible refine State.promotePage_keeps ?_
    | dsimp only
    | split

theorem execMigrationLineCopy_keeps {socket : Nat} {s : State} {out} (h0 : MemoryCanonical s) (e : execMigrationLineCopy socket s = .next out) : MemoryCanonical out := by
  unfold execMigrationLineCopy at e
  revert e
  repeat' first
    | with_reducible assumption
    | with_reducible refine State.after_keeps ?_
    | with_reducible refine State.updMemDie_keeps ?_
    | with_reducible refine State.again_keeps ?_
    | with_reducible refine State.copyLine_keeps ?_
    | with_reducible refine State.endMove_keeps ?_
    | with_reducible refine State.pageCopied_keeps ?_
    | dsimp only
    | with_reducible refine next_next ?_
    | split
    | (intro e; subst e)

theorem execPromotionAbandon_keeps {socket : Nat} {s : State} {out} (h0 : MemoryCanonical s) (e : execPromotionAbandon socket s = .next out) : MemoryCanonical out := by
  unfold execPromotionAbandon at e
  revert e
  repeat' first
    | with_reducible assumption
    | with_reducible refine State.abandon_keeps ?_
    | dsimp only
    | with_reducible refine next_next ?_
    | split
    | (intro e; subst e)

theorem execPromotionStart_keeps {socket : Nat} {region : Nat} {s : State} {out} (h0 : MemoryCanonical s) (e : execPromotionStart socket region s = .next out) : MemoryCanonical out := by
  unfold execPromotionStart at e
  revert e
  repeat' first
    | with_reducible assumption
    | with_reducible refine State.updMemDie_keeps ?_
    | with_reducible refine State.promotePage_keeps ?_
    | dsimp only
    | with_reducible refine next_next ?_
    | split
    | (intro e; subst e)

/-! ### Display -/

theorem State.askKiln_keeps {s : State} {d : Nat} (h0 : MemoryCanonical s) : MemoryCanonical (State.askKiln s d) := by
  unfold State.askKiln
  repeat' first
    | with_reducible assumption
    | with_reducible refine State.askPermit_keeps ?_
    | dsimp only
    | split

theorem State.dropGathers_keeps {s : State} {d : Nat} {p : Gather → Bool} (h0 : MemoryCanonical s) : MemoryCanonical (State.dropGathers s d p) := by
  unfold State.dropGathers
  repeat' first
    | with_reducible assumption
    | with_reducible refine State.updDie_keeps ?_
    | with_reducible refine State.updSteward_keeps ?_
    | with_reducible refine State.askKiln_keeps ?_
    | split

theorem State.turnView_keeps {s : State} {d : Nat} {old : W64} (h0 : MemoryCanonical s) : MemoryCanonical (State.turnView s d old) := by
  unfold State.turnView
  repeat' first
    | with_reducible assumption
    | with_reducible refine State.updDie_keeps ?_
    | with_reducible refine State.dropGathers_keeps ?_
    | split

theorem State.applyWaits_keeps {s : State} {d : Nat} (h0 : MemoryCanonical s) : MemoryCanonical (State.applyWaits s d) := by
  unfold State.applyWaits
  repeat' first
    | with_reducible assumption
    | with_reducible refine State.updDie_keeps ?_
    | with_reducible refine State.applyRender_keeps ?_
    | with_reducible refine State.turnView_keeps ?_
    | split

theorem State.passBoundary_keeps {s : State} (h0 : MemoryCanonical s) : MemoryCanonical (State.passBoundary s) := by
  unfold State.passBoundary
  repeat' first
    | with_reducible assumption
    | with_reducible refine State.afterExactly_keeps ?_
    | with_reducible refine State.atTick_keeps ?_
    | with_reducible refine State.cancelGroups_keeps ?_
    | with_reducible refine State.dropGathers_keeps ?_
    | with_reducible refine State.applyWaits_keeps ?_
    | simp only [canonical_mk]
    | with_reducible refine memory_of ?_
    | with_reducible refine foldl_keeps (fun _ _ _ => ?_) ?_
    | split

theorem State.missBand_keeps {s : State} {d : Nat} {b : Nat} {cause : Nat} (h0 : MemoryCanonical s) : MemoryCanonical (State.missBand s d b cause) := by
  unfold State.missBand
  repeat' first
    | with_reducible assumption
    | with_reducible refine State.updDie_keeps ?_

theorem State.dropGather_keeps {s : State} {d : Nat} {sweep : W32} {b : Nat} (h0 : MemoryCanonical s) : MemoryCanonical (State.dropGather s d sweep b) := by
  unfold State.dropGather
  repeat' first
    | with_reducible assumption
    | with_reducible refine State.dropGathers_keeps ?_

theorem State.kilnReport_keeps {s : State} {ctx : Nat} {va : Nat} {n : Nat} (h0 : MemoryCanonical s) : MemoryCanonical (State.kilnReport s ctx va n) := by
  unfold State.kilnReport
  repeat' first
    | with_reducible assumption
    | with_reducible refine State.reportMalformed_keeps ?_
    | split

theorem State.kilnReads_keeps {s : State} {ctx : Nat} {va : Nat} {n : Nat} (h0 : MemoryCanonical s) : MemoryCanonical (State.kilnReads s ctx va n) := by
  unfold State.kilnReads
  repeat' first
    | with_reducible assumption
    | with_reducible refine State.markEntry_keeps ?_
    | with_reducible refine foldl_keeps (fun _ _ _ => ?_) ?_
    | split

theorem State.showBand_keeps {s : State} {d : Nat} {b : Nat} (h0 : MemoryCanonical s) : MemoryCanonical (State.showBand s d b) := by
  unfold State.showBand
  repeat' first
    | with_reducible assumption
    | with_reducible refine State.kilnReads_keeps ?_
    | with_reducible refine State.kilnReport_keeps ?_
    | dsimp only
    | split

theorem State.lightBand_keeps {s : State} {d : Nat} {b : Nat} (h0 : MemoryCanonical s) : MemoryCanonical (State.lightBand s d b) := by
  unfold State.lightBand
  repeat' first
    | with_reducible assumption
    | with_reducible refine State.showBand_keeps ?_
    | with_reducible refine State.kilnReads_keeps ?_
    | with_reducible refine State.kilnReport_keeps ?_
    | with_reducible refine State.updDie_keeps ?_
    | with_reducible refine State.missBand_keeps ?_
    | with_reducible refine State.dropGather_keeps ?_
    | dsimp only
    | split

theorem State.openGather_keeps {s : State} {d : Nat} {r : Render} {p : Nat × Nat} (h0 : MemoryCanonical s) : MemoryCanonical (State.openGather s d r p) := by
  unfold State.openGather
  repeat' first
    | with_reducible assumption
    | with_reducible refine State.updDie_keeps ?_
    | with_reducible refine State.askKiln_keeps ?_

theorem State.bringHidden_of {s : State} {d : Nat} {g : Gather} {j : Nat} {out} {a1} (h0 : MemoryCanonical s) (e : State.bringHidden s d g j = (out, a1)) : MemoryCanonical out := by
  unfold State.bringHidden at e
  revert e
  repeat' first
    | with_reducible assumption
    | simp only [canonical_mk]
    | with_reducible refine memory_of ?_
    | with_reducible refine pair_eq ?_
    | split
    | (intro e; subst e)

theorem State.bringHidden_keeps {s : State} {d : Nat} {g : Gather} {j : Nat} (h0 : MemoryCanonical s) : MemoryCanonical (State.bringHidden s d g j).1 := State.bringHidden_of h0 rfl

theorem State.runGather_keeps {s : State} {d : Nat} {r : Render} {k : Nat} {g : Gather} (h0 : MemoryCanonical s) : MemoryCanonical (State.runGather s d r k g) := by
  unfold State.runGather
  repeat' first
    | with_reducible assumption
    | with_reducible refine State.updDie_keeps ?_
    | with_reducible refine State.after_keeps ?_
    | with_reducible refine State.askKiln_keeps ?_
    | with_reducible refine State.bringHidden_keeps ?_
    | simp only [canonical_mk]
    | with_reducible refine memory_of ?_
    | with_reducible refine foldl_fst_keeps (fun _ _ _ => ?_) ?_

theorem State.noRecord_keeps {s : State} {d : Nat} {g : Gather} {cause : Nat} (h0 : MemoryCanonical s) : MemoryCanonical (State.noRecord s d g cause) := by
  unfold State.noRecord
  repeat' first
    | with_reducible assumption
    | with_reducible refine State.updDie_keeps ?_
    | with_reducible refine State.freeGathered_keeps ?_
    | dsimp only
    | split

theorem State.postBand_keeps {s : State} {d : Nat} {r : Render} {g : Gather} (h0 : MemoryCanonical s) : MemoryCanonical (State.postBand s d r g) := by
  unfold State.postBand
  repeat' first
    | with_reducible assumption
    | with_reducible refine State.kilnReport_keeps ?_
    | with_reducible refine State.updDie_keeps ?_
    | with_reducible refine State.freeGathered_keeps ?_
    | with_reducible refine State.killContext_keeps ?_
    | with_reducible refine State.devicePost_keeps ?_
    | with_reducible refine State.engineWrite_keeps ?_
    | with_reducible refine State.noRecord_keeps ?_
    | dsimp only
    | split

theorem execSweepBoundary_keeps {s : State} {out} (h0 : MemoryCanonical s) (e : execSweepBoundary s = .next out) : MemoryCanonical out := by
  unfold execSweepBoundary at e
  revert e
  repeat' first
    | with_reducible assumption
    | with_reducible refine State.passBoundary_keeps ?_
    | with_reducible refine next_next ?_
    | split
    | (intro e; subst e)

theorem execBandLight_keeps {die : Nat} {s : State} {out} (h0 : MemoryCanonical s) (e : execBandLight die s = .next out) : MemoryCanonical out := by
  unfold execBandLight at e
  revert e
  repeat' first
    | with_reducible assumption
    | with_reducible refine State.updDie_keeps ?_
    | with_reducible refine State.atTick_keeps ?_
    | with_reducible refine State.lightBand_keeps ?_
    | dsimp only
    | with_reducible refine next_next ?_
    | split
    | (intro e; subst e)

theorem execKilnGather_keeps {die : Nat} {s : State} {out} (h0 : MemoryCanonical s) (e : execKilnGather die s = .next out) : MemoryCanonical out := by
  unfold execKilnGather at e
  revert e
  repeat' first
    | with_reducible assumption
    | with_reducible refine State.openGather_keeps ?_
    | with_reducible refine State.runGather_keeps ?_
    | with_reducible refine next_next ?_
    | split
    | (intro e; subst e)

theorem execKilnBandPost_keeps {die : Nat} {s : State} {out} (h0 : MemoryCanonical s) (e : execKilnBandPost die s = .next out) : MemoryCanonical out := by
  unfold execKilnBandPost at e
  revert e
  repeat' first
    | with_reducible assumption
    | with_reducible refine State.updDie_keeps ?_
    | with_reducible refine State.postBand_keeps ?_
    | with_reducible refine next_next ?_
    | split
    | (intro e; subst e)

/-! ### Sextant -/

theorem State.updDraw_keeps {s : State} {d : Nat} {id : Nat} {f : Draw → Draw} (h0 : MemoryCanonical s) : MemoryCanonical (State.updDraw s d id f) := by
  unfold State.updDraw
  repeat' first
    | with_reducible assumption
    | with_reducible refine State.updDie_keeps ?_

theorem State.endDraw_keeps {s : State} {d : Nat} {b : Draw} {status : Nat} (h0 : MemoryCanonical s) : MemoryCanonical (State.endDraw s d b status) := by
  unfold State.endDraw
  repeat' first
    | with_reducible assumption
    | with_reducible refine State.updDie_keeps ?_
    | with_reducible refine State.endCommand_keeps ?_
    | with_reducible refine State.laneStatus_keeps ?_
    | dsimp only
    | split

theorem State.drawFails_keeps {α : Type} {s : State} {d : Nat} {b : Draw} {m : State.Met α} (h : MemoryCanonical s) :
    MemoryCanonical (s.drawFails d b m) := by
  unfold State.drawFails
  repeat' first
    | with_reducible assumption
    | with_reducible refine State.endDraw_keeps ?_
    | with_reducible refine State.killContext_keeps ?_
    | with_reducible refine State.emit_keeps ?_
    | with_reducible refine State.updDraw_keeps ?_
    | split

theorem State.engineAtomic_of {s : State} {ctx : Nat} {va : Nat} {a1} {a2} {out} (h0 : MemoryCanonical s) (e : State.engineAtomic s ctx va = .ok (a1, a2, out)) : MemoryCanonical out := by
  unfold State.engineAtomic at e
  revert e
  repeat' first
    | with_reducible assumption
    | with_reducible refine State.homeBytes_of ?_ (by with_reducible assumption)
    | with_reducible refine State.deviceRead_of ?_ (by with_reducible assumption)
    | with_reducible exact met_cause
    | with_reducible refine met_ok ?_
    | with_reducible refine pair_eq ?_
    | with_reducible exact State.metError_ok
    | split
    | (intro e; subst e)

theorem State.drawWrites_keeps {s : State} {b : Draw} {ia : Nat} {bs : List Byte} (h0 : MemoryCanonical s) : MemoryCanonical (State.drawWrites s b ia bs) := by
  unfold State.drawWrites
  repeat' first
    | with_reducible assumption
    | with_reducible refine State.noteRemote_keeps ?_
    | with_reducible refine State.updCmd_keeps ?_
    | with_reducible refine State.engineWrite_keeps ?_
    | with_reducible refine State.ackedFrom_keeps ?_

theorem State.readCells_of {s : State} {ctx : Nat} {y2 : List Nat} {a1} {out} (h0 : MemoryCanonical s) (e : State.readCells s ctx y2 = .ok (a1, out)) : MemoryCanonical out := by
  induction y2 generalizing s ctx h0 a1 out with
  | nil =>
    unfold State.readCells at e
    revert e
    repeat' first
      | with_reducible assumption
      | with_reducible refine met_ok ?_
      | with_reducible refine pair_eq ?_
      | (intro e; subst e)
  | cons _ _ ih =>
    unfold State.readCells at e
    revert e
    repeat' first
      | with_reducible assumption
      | (intro e; with_reducible refine ih ?_ e)
      | with_reducible refine ih ?_ (by assumption)
      | with_reducible refine State.engineRead_of ?_ (by with_reducible assumption)
      | with_reducible exact met_cause
      | with_reducible exact met_absent
      | with_reducible exact met_uncorrected
      | with_reducible refine met_ok ?_
      | with_reducible refine pair_eq ?_
      | split
      | (intro e; subst e)

theorem State.startDraw_keeps {s : State} {d : Nat} {r : Render} {b : Draw} (h0 : MemoryCanonical s) : MemoryCanonical (State.startDraw s d r b) := by
  unfold State.startDraw
  repeat' first
    | with_reducible assumption
    | with_reducible refine State.engineRead_of ?_ (by with_reducible assumption)
    | with_reducible refine State.updDraw_keeps ?_
    | with_reducible refine State.endDraw_keeps ?_
    | with_reducible refine State.drawFails_keeps ?_
    | with_reducible refine State.readCells_of ?_ (by with_reducible assumption)
    | dsimp only
    | split

theorem State.writePriorities_keeps {s : State} {d : Nat} {b : Draw} (h0 : MemoryCanonical s) : MemoryCanonical (State.writePriorities s d b) := by
  unfold State.writePriorities
  repeat' first
    | with_reducible assumption
    | with_reducible refine State.updDraw_keeps ?_
    | with_reducible refine State.drawFails_keeps ?_
    | with_reducible refine State.drawWrites_keeps ?_
    | split

theorem State.postPolicy_keeps {s : State} {d : Nat} {b : Draw} (h0 : MemoryCanonical s) : MemoryCanonical (State.postPolicy s d b) := by
  unfold State.postPolicy
  repeat' first
    | with_reducible assumption
    | with_reducible refine State.devicePost_keeps ?_
    | with_reducible refine State.updDraw_keeps ?_
    | with_reducible refine State.endDraw_keeps ?_
    | dsimp only
    | split

theorem State.policyStep_keeps {s : State} {d : Nat} (h0 : MemoryCanonical s) : MemoryCanonical (State.policyStep s d) := by
  unfold State.policyStep
  repeat' first
    | with_reducible assumption
    | with_reducible refine State.writePriorities_keeps ?_
    | with_reducible refine State.postPolicy_keeps ?_
    | split

theorem State.writeWave_keeps {s : State} {d : Nat} {b : Draw} {w : Wave} (h0 : MemoryCanonical s) : MemoryCanonical (State.writeWave s d b w) := by
  unfold State.writeWave
  repeat' first
    | with_reducible assumption
    | with_reducible refine State.updDraw_keeps ?_
    | with_reducible refine State.drawFails_keeps ?_
    | with_reducible refine State.drawWrites_keeps ?_
    | split

theorem State.closeWave_keeps {s : State} {d : Nat} {b : Draw} (h0 : MemoryCanonical s) : MemoryCanonical (State.closeWave s d b) := by
  unfold State.closeWave
  repeat' first
    | with_reducible assumption
    | with_reducible refine State.updDraw_keeps ?_
    | with_reducible refine State.writeWave_keeps ?_
    | dsimp only
    | split

theorem State.finishSelection_keeps {s : State} {d : Nat} {b : Draw} (h0 : MemoryCanonical s) : MemoryCanonical (State.finishSelection s d b) := by
  unfold State.finishSelection
  repeat' first
    | with_reducible assumption
    | with_reducible refine State.updDraw_keeps ?_
    | with_reducible refine State.closeWave_keeps ?_

theorem State.drawPosition_keeps {s : State} {d : Nat} {r : Render} {b : Draw} (h0 : MemoryCanonical s) : MemoryCanonical (State.drawPosition s d r b) := by
  unfold State.drawPosition
  repeat' first
    | with_reducible assumption
    | with_reducible refine State.updDraw_keeps ?_
    | with_reducible refine State.drawFails_keeps ?_
    | with_reducible refine State.engineAtomic_of ?_ (by with_reducible assumption)
    | with_reducible refine State.drawWrites_keeps ?_
    | with_reducible refine State.closeWave_keeps ?_
    | with_reducible refine State.finishSelection_keeps ?_
    | dsimp only
    | split

theorem State.postWave_keeps {s : State} {d : Nat} {b : Draw} {w : Wave} (h0 : MemoryCanonical s) : MemoryCanonical (State.postWave s d b w) := by
  unfold State.postWave
  repeat' first
    | with_reducible assumption
    | with_reducible refine State.devicePost_keeps ?_
    | with_reducible refine State.updDraw_keeps ?_
    | with_reducible refine State.endDraw_keeps ?_
    | dsimp only
    | split

theorem State.resolveSample_keeps {s : State} {d : Nat} {r : Render} {b : Draw} {p : Sample} (h0 : MemoryCanonical s) : MemoryCanonical (State.resolveSample s d r b p) := by
  unfold State.resolveSample
  repeat' first
    | with_reducible assumption
    | with_reducible refine State.updDraw_keeps ?_
    | with_reducible refine State.writeWave_keeps ?_
    | dsimp only
    | with_reducible refine foldl_keeps (fun _ _ _ => ?_) ?_
    | split

theorem State.setBinned_keeps {s : State} {d : Nat} {n : Nat} {st : Nat} {tris : List (List Byte)} (h0 : MemoryCanonical s) : MemoryCanonical (State.setBinned s d n st tris) := by
  unfold State.setBinned
  repeat' first
    | with_reducible assumption
    | with_reducible refine State.updDie_keeps ?_

theorem execSextantDrawStart_keeps {die : Nat} {s : State} {out} (h0 : MemoryCanonical s) (e : execSextantDrawStart die s = .next out) : MemoryCanonical out := by
  unfold execSextantDrawStart at e
  revert e
  repeat' first
    | with_reducible assumption
    | with_reducible refine State.updDraw_keeps ?_
    | with_reducible refine State.startDraw_keeps ?_
    | with_reducible refine State.policyStep_keeps ?_
    | dsimp only
    | with_reducible refine next_next ?_
    | split
    | (intro e; subst e)

theorem execPolicyRecordRepost_keeps {die : Nat} {s : State} {out} (h0 : MemoryCanonical s) (e : execPolicyRecordRepost die s = .next out) : MemoryCanonical out := by
  unfold execPolicyRecordRepost at e
  revert e
  repeat' first
    | with_reducible assumption
    | with_reducible refine State.updDraw_keeps ?_
    | with_reducible refine State.policyStep_keeps ?_
    | with_reducible refine next_next ?_
    | split
    | (intro e; subst e)

theorem execSelectionStart_keeps {die : Nat} {s : State} {out} (h0 : MemoryCanonical s) (e : execSelectionStart die s = .next out) : MemoryCanonical out := by
  unfold execSelectionStart at e
  revert e
  repeat' first
    | with_reducible assumption
    | with_reducible refine State.updDraw_keeps ?_
    | with_reducible refine next_next ?_
    | split
    | (intro e; subst e)

theorem execPositionDraw_keeps {die : Nat} {s : State} {out} (h0 : MemoryCanonical s) (e : execPositionDraw die s = .next out) : MemoryCanonical out := by
  unfold execPositionDraw at e
  revert e
  repeat' first
    | with_reducible assumption
    | with_reducible refine State.drawPosition_keeps ?_
    | with_reducible refine next_next ?_
    | split
    | (intro e; subst e)

theorem execWavePost_keeps {die : Nat} {s : State} {out} (h0 : MemoryCanonical s) (e : execWavePost die s = .next out) : MemoryCanonical out := by
  unfold execWavePost at e
  revert e
  repeat' first
    | with_reducible assumption
    | with_reducible refine State.updDraw_keeps ?_
    | with_reducible refine State.endDraw_keeps ?_
    | with_reducible refine State.writeWave_keeps ?_
    | with_reducible refine State.postWave_keeps ?_
    | dsimp only
    | with_reducible refine next_next ?_
    | split
    | (intro e; subst e)

theorem execProbeResolve_keeps {die : Nat} {s : State} {out} (h0 : MemoryCanonical s) (e : execProbeResolve die s = .next out) : MemoryCanonical out := by
  unfold execProbeResolve at e
  revert e
  repeat' first
    | with_reducible assumption
    | with_reducible refine State.resolveSample_keeps ?_
    | with_reducible refine next_next ?_
    | split
    | (intro e; subst e)

theorem execSnapshotBinned_keeps {die : Nat} {n : Nat} {s : State} {out} (h0 : MemoryCanonical s) (e : execSnapshotBinned die n s = .next out) : MemoryCanonical out := by
  unfold execSnapshotBinned at e
  revert e
  repeat' first
    | with_reducible assumption
    | with_reducible refine State.emit_keeps ?_
    | with_reducible refine State.killContext_keeps ?_
    | with_reducible refine State.engineRead_of ?_ (by with_reducible assumption)
    | with_reducible refine State.again_keeps ?_
    | with_reducible refine State.setBinned_keeps ?_
    | dsimp only
    | with_reducible refine next_next ?_
    | split
    | (intro e; subst e)

/-! ### Outside -/

theorem State.leaveDirectory_keeps {s : State} {line : Nat} (h0 : MemoryCanonical s) : MemoryCanonical (State.leaveDirectory s line) := by
  unfold State.leaveDirectory
  repeat' first
    | with_reducible assumption
    | simp only [canonical_mk]
    | with_reducible refine memory_of ?_

theorem State.enterDirectory_keeps {s : State} {hart : Nat} {line : Nat} (h0 : MemoryCanonical s) : MemoryCanonical (State.enterDirectory s hart line) := by
  unfold State.enterDirectory
  repeat' first
    | with_reducible assumption
    | with_reducible refine State.leaveDirectory_keeps ?_
    | simp only [canonical_mk]
    | with_reducible refine memory_of ?_
    | split

theorem State.enterLines_keeps {s : State} {hart : Nat} {ia : Nat} {n : Nat} (h0 : MemoryCanonical s) : MemoryCanonical (State.enterLines s hart ia n) := by
  unfold State.enterLines
  repeat' first
    | with_reducible assumption
    | with_reducible refine State.enterDirectory_keeps ?_
    | with_reducible refine foldl_keeps (fun _ _ _ => ?_) ?_
    | split

theorem State.hostRead_of {s : State} {ia : Nat} {n : Nat} {a1} {out} (h0 : MemoryCanonical s) (e : State.hostRead s ia n = some (a1, out)) : MemoryCanonical out := by
  unfold State.hostRead at e
  revert e
  repeat' first
    | with_reducible assumption
    | with_reducible refine State.deviceRead_of ?_ (by with_reducible assumption)
    | with_reducible exact none_some
    | with_reducible refine some_some ?_
    | with_reducible refine pair_eq ?_
    | split
    | (intro e; subst e)

theorem State.hostWrite_of {s : State} {ia : Nat} {bs : List Byte} {out} {a1} (h0 : MemoryCanonical s) (e : State.hostWrite s ia bs = some (out, a1)) : MemoryCanonical out := by
  unfold State.hostWrite at e
  revert e
  repeat' first
    | with_reducible assumption
    | with_reducible refine State.apertureWrite_of ?_ (by with_reducible assumption)
    | with_reducible refine State.deviceWrite_of ?_ (by with_reducible assumption)
    | with_reducible exact none_some
    | with_reducible refine some_some ?_
    | with_reducible refine pair_eq ?_
    | split
    | (intro e; subst e)

theorem State.keepOwnCopy_keeps {before : List (Nat × BitVec 16)} {hart : Nat} {lines : List Nat} {s : State} (h0 : MemoryCanonical s) : MemoryCanonical (State.keepOwnCopy before hart lines s) := by
  unfold State.keepOwnCopy
  repeat' first
    | with_reducible assumption
    | simp only [canonical_mk]
    | with_reducible refine memory_of ?_

theorem State.outsideAtomic_of {s : State} {ia : Nat} {n : Nat} {new : Nat → Nat} {code : Nat × Ty} {operand : Nat} {compare : Nat} {a1} {out} {a2} (h0 : MemoryCanonical s) (e : State.outsideAtomic s ia n new code operand compare = some (a1, out, a2)) : MemoryCanonical out := by
  unfold State.outsideAtomic at e
  revert e
  repeat' first
    | with_reducible assumption
    | with_reducible refine State.homeBytes_of ?_ (by with_reducible assumption)
    | (intro e; with_reducible refine State.homeWrite_of ?_ e)
    | with_reducible refine State.sendAtomic_of ?_ (by with_reducible assumption)
    | dsimp only
    | with_reducible exact none_some
    | with_reducible refine some_some ?_
    | with_reducible refine pair_eq ?_
    | split
    | (intro e; subst e)

theorem State.outsideAmo_of {s : State} {ia : Nat} {n : Nat} {op : AmoOp} {v : Nat} {a1} {out} {a2} (h0 : MemoryCanonical s) (e : State.outsideAmo s ia n op v = some (a1, out, a2)) : MemoryCanonical out := by
  unfold State.outsideAmo at e
  revert e
  repeat' first
    | with_reducible assumption
    | (intro e; with_reducible refine State.outsideAtomic_of ?_ e)

theorem State.refuseHost_keeps {s : State} {hart : Nat} {ia : Nat} {n : Nat} (h0 : MemoryCanonical s) : MemoryCanonical (State.refuseHost s hart ia n) := by
  unfold State.refuseHost
  repeat' first
    | with_reducible assumption
    | with_reducible refine State.reportMalformed_keeps ?_
    | with_reducible refine State.answer_keeps ?_

theorem State.hostStored_keeps {s : State} {s' : State} {hart : Nat} {ia : Nat} {n : Nat} {w : Nat} (_ : MemoryCanonical s) (h1 : MemoryCanonical s') : MemoryCanonical (State.hostStored s s' hart ia n w) := by
  unfold State.hostStored
  repeat' first
    | with_reducible assumption
    | with_reducible refine State.emit_keeps ?_
    | with_reducible refine State.keepOwnCopy_keeps ?_
    | split

theorem execHostLoad_keeps {hart : Nat} {ia : Nat} {size : Nat} {s : State} {out} (h0 : MemoryCanonical s) (e : execHostLoad hart ia size s = .next out) : MemoryCanonical out := by
  unfold execHostLoad at e
  revert e
  repeat' first
    | with_reducible assumption
    | with_reducible refine State.answer_keeps ?_
    | with_reducible refine State.enterLines_keeps ?_
    | with_reducible refine State.hostRead_of ?_ (by with_reducible assumption)
    | with_reducible refine State.refuseHost_keeps ?_
    | with_reducible refine next_next ?_
    | split
    | (intro e; subst e)

theorem execHostStore_keeps {hart : Nat} {ia : Nat} {bytes : List Byte} {s : State} {out} (h0 : MemoryCanonical s) (e : execHostStore hart ia bytes s = .next out) : MemoryCanonical out := by
  unfold execHostStore at e
  revert e
  repeat' first
    | with_reducible assumption
    | with_reducible refine State.emit_keeps ?_
    | with_reducible refine State.answer_keeps ?_
    | with_reducible refine State.hostPost_keeps ?_
    | with_reducible refine breakSequence_keeps ?_
    | with_reducible refine State.hostWrite_of ?_ (by with_reducible assumption)
    | with_reducible refine State.refuseHost_keeps ?_
    | with_reducible refine State.hostStored_keeps ?_ ?_
    | with_reducible exact execPostSequenceStore_keeps h0
    | with_reducible refine next_next ?_
    | split
    | (intro e; subst e)

theorem execHostAmo_keeps {hart : Nat} {ia : Nat} {size : Nat} {op : AmoOp} {value : W64} {s : State} {out} (h0 : MemoryCanonical s) (e : execHostAmo hart ia size op value s = .next out) : MemoryCanonical out := by
  unfold execHostAmo at e
  revert e
  repeat' first
    | with_reducible assumption
    | with_reducible refine State.emit_keeps ?_
    | with_reducible refine State.answer_keeps ?_
    | with_reducible refine State.outsideAmo_of ?_ (by with_reducible assumption)
    | with_reducible refine State.refuseHost_keeps ?_
    | dsimp only
    | with_reducible refine next_next ?_
    | split
    | (intro e; subst e)

theorem execHostLr_keeps {hart : Nat} {ia : Nat} {size : Nat} {s : State} {out} (h0 : MemoryCanonical s) (e : execHostLr hart ia size s = .next out) : MemoryCanonical out := by
  unfold execHostLr at e
  revert e
  repeat' first
    | with_reducible assumption
    | with_reducible refine State.answer_keeps ?_
    | with_reducible refine State.enterLines_keeps ?_
    | with_reducible refine State.hostRead_of ?_ (by with_reducible assumption)
    | with_reducible refine State.refuseHost_keeps ?_
    | simp only [canonical_mk]
    | with_reducible refine memory_of ?_
    | with_reducible refine next_next ?_
    | split
    | (intro e; subst e)

theorem execHostSc_keeps {hart : Nat} {ia : Nat} {bytes : List Byte} {s : State} {out} (h0 : MemoryCanonical s) (e : execHostSc hart ia bytes s = .next out) : MemoryCanonical out := by
  unfold execHostSc at e
  revert e
  repeat' first
    | with_reducible assumption
    | with_reducible refine State.answer_keeps ?_
    | with_reducible refine State.hostWrite_of ?_ (by with_reducible assumption)
    | with_reducible refine State.refuseHost_keeps ?_
    | with_reducible refine State.hostStored_keeps ?_ ?_
    | with_reducible refine next_next ?_
    | split
    | (intro e; subst e)

theorem State.logInbound_keeps {s : State} {ia : Nat} {bs : List Byte} (h0 : MemoryCanonical s) : MemoryCanonical (State.logInbound s ia bs) := by
  unfold State.logInbound
  repeat' first
    | with_reducible assumption
    | with_reducible refine State.logAppend_keeps ?_
    | with_reducible refine foldl_keeps (fun _ _ _ => ?_) ?_
    | split

theorem State.replayInbound_keeps {s : State} {ctx : Nat} (h0 : MemoryCanonical s) : MemoryCanonical (State.replayInbound s ctx) := by
  unfold State.replayInbound
  repeat' first
    | with_reducible assumption
    | with_reducible refine State.updCtx_keeps ?_
    | with_reducible refine State.hostWrite_of ?_ (by with_reducible assumption)
    | dsimp only
    | split

theorem State.inbound_of {s : State} {ia : Nat} {a : Inbound} {a1} {out} {a2} (h0 : MemoryCanonical s) (e : State.inbound s ia a = some (a1, out, a2)) : MemoryCanonical out := by
  unfold State.inbound at e
  revert e
  repeat' first
    | with_reducible assumption
    | with_reducible refine State.deviceRead_of ?_ (by with_reducible assumption)
    | with_reducible refine State.deviceWrite_of ?_ (by with_reducible assumption)
    | with_reducible refine State.outsideAtomic_of ?_ (by with_reducible assumption)
    | with_reducible refine State.outsideAmo_of ?_ (by with_reducible assumption)
    | with_reducible refine State.logInbound_keeps ?_
    | with_reducible exact none_some
    | with_reducible refine some_some ?_
    | with_reducible refine pair_eq ?_
    | split
    | simp only [Option.map]
    | (intro e; subst e)

theorem refuseInbound_keeps {s : State} {ia : Nat} {a : Inbound} (h0 : MemoryCanonical s) : MemoryCanonical (refuseInbound s ia a) := by
  unfold refuseInbound
  repeat' first
    | with_reducible assumption
    | with_reducible refine State.reportMalformed_keeps ?_

theorem execDmaInbound_keeps {bus : Nat} {access : Inbound} {s : State} {out} (h0 : MemoryCanonical s) (e : execDmaInbound bus access s = .next out) : MemoryCanonical out := by
  unfold execDmaInbound at e
  revert e
  repeat' first
    | with_reducible assumption
    | with_reducible refine State.emit_keeps ?_
    | with_reducible refine State.inbound_of ?_ (by with_reducible assumption)
    | with_reducible refine refuseInbound_keeps ?_
    | with_reducible refine next_next ?_
    | split
    | (intro e; subst e)

theorem execEwerlinkInbound_keeps {port : Nat} {offset : Nat} {access : Inbound} {s : State} {out} (h0 : MemoryCanonical s) (e : execEwerlinkInbound port offset access s = .next out) : MemoryCanonical out := by
  unfold execEwerlinkInbound at e
  revert e
  repeat' first
    | with_reducible assumption
    | with_reducible refine State.emit_keeps ?_
    | with_reducible refine State.inbound_of ?_ (by with_reducible assumption)
    | with_reducible refine refuseInbound_keeps ?_
    | dsimp only
    | with_reducible refine next_next ?_
    | split
    | (intro e; subst e)

theorem execEwerlinkDown_keeps {port : Nat} {s : State} {out} (h0 : MemoryCanonical s) (e : execEwerlinkDown port s = .next out) : MemoryCanonical out := by
  unfold execEwerlinkDown at e
  revert e
  repeat' first
    | with_reducible assumption
    | with_reducible refine State.killContext_keeps ?_
    | simp only [canonical_mk]
    | with_reducible refine memory_of ?_
    | with_reducible refine foldl_keeps (fun _ _ _ => ?_) ?_
    | with_reducible refine next_next ?_
    | split
    | (intro e; subst e)

theorem execEwerlinkLinkUp_keeps {port : Nat} {s : State} {out} (h0 : MemoryCanonical s) (e : execEwerlinkLinkUp port s = .next out) : MemoryCanonical out := by
  unfold execEwerlinkLinkUp at e
  revert e
  repeat' first
    | with_reducible assumption
    | simp only [canonical_mk]
    | with_reducible refine memory_of ?_
    | with_reducible refine next_next ?_
    | (intro e; subst e)

/-! ### Failures -/

theorem State.breakBarrier_keeps {s : State} {ctx : Nat} {n : Nat} {b : Barrier} {survivor : Nat} (h0 : MemoryCanonical s) : MemoryCanonical (State.breakBarrier s ctx n b survivor) := by
  unfold State.breakBarrier
  repeat' first
    | with_reducible assumption
    | with_reducible refine State.faultRecord_keeps ?_
    | with_reducible refine State.trapThreads_keeps ?_
    | with_reducible refine State.updBarrier_keeps ?_
    | dsimp only
    | with_reducible refine foldl_keeps (fun _ _ _ => ?_) ?_

theorem State.uncountCommands_keeps {s : State} {d : Nat} (h0 : MemoryCanonical s) : MemoryCanonical (State.uncountCommands s d) := by
  unfold State.uncountCommands
  repeat' first
    | with_reducible assumption
    | with_reducible refine State.pendDone_keeps ?_
    | with_reducible refine foldl_keeps (fun _ _ _ => ?_) ?_

theorem State.clearDie_keeps {s : State} {d : Nat} (h0 : MemoryCanonical s) : MemoryCanonical (State.clearDie s d) := by
  unfold State.clearDie
  repeat' first
    | with_reducible assumption
    | simp only [canonical_mk]
    | with_reducible refine memory_of ?_

theorem State.disown_keeps {s : State} {gone : TRef → Bool} (h0 : MemoryCanonical s) : MemoryCanonical (State.disown s gone) := by
  unfold State.disown
  repeat' first
    | with_reducible assumption
    | simp only [canonical_mk]
    | with_reducible refine memory_of ?_

theorem State.failDie_keeps {s : State} {d : Nat} (h0 : MemoryCanonical s) : MemoryCanonical (State.failDie s d) := by
  unfold State.failDie
  repeat' first
    | with_reducible assumption
    | with_reducible refine State.disown_keeps ?_
    | with_reducible refine State.faultRecord_keeps ?_
    | with_reducible refine State.ceaseGroups_keeps ?_
    | with_reducible refine State.wake_keeps ?_
    | with_reducible refine State.departBarriers_keeps ?_
    | with_reducible refine State.endTeam_keeps ?_
    | with_reducible refine State.settle_keeps ?_
    | with_reducible refine State.updBarrier_keeps ?_
    | with_reducible refine State.breakBarrier_keeps ?_
    | with_reducible refine State.uncountCommands_keeps ?_
    | with_reducible refine State.clearDie_keeps ?_
    | simp only [canonical_mk]
    | with_reducible refine memory_of ?_
    | with_reducible refine foldl_keeps (fun _ _ _ => ?_) ?_
    | split

theorem execDieFail_keeps {die : Nat} {s : State} {out} (h0 : MemoryCanonical s) (e : execDieFail die s = .next out) : MemoryCanonical out := by
  unfold execDieFail at e
  revert e
  repeat' first
    | with_reducible assumption
    | with_reducible refine State.failDie_keeps ?_
    | with_reducible refine next_next ?_
    | (intro e; subst e)

theorem poisonLine_keeps {s : State} {a : Nat} (h0 : MemoryCanonical s) : MemoryCanonical (poisonLine s a) := by
  unfold poisonLine
  repeat' first
    | with_reducible assumption
    | simp only [canonical_mk]
    | with_reducible refine memory_of ?_

theorem execSoftError_keeps {e : SoftError} {s : State} {out} (h0 : MemoryCanonical s) (e : execSoftError e s = .next out) : MemoryCanonical out := by
  unfold execSoftError at e
  revert e
  repeat' first
    | with_reducible assumption
    | with_reducible refine State.updCore_keeps ?_
    | with_reducible refine State.faultRecord_keeps ?_
    | with_reducible refine State.killContext_keeps ?_
    | with_reducible refine State.failDie_keeps ?_
    | with_reducible refine poisonLine_keeps ?_
    | simp only [canonical_mk]
    | with_reducible refine memory_of ?_
    | with_reducible refine next_next ?_
    | split
    | (intro e; subst e)

/-! ### Clockwork -/

theorem dropTimer_keeps {s : State} {k : Nat} (h0 : MemoryCanonical s) : MemoryCanonical (dropTimer s k) := by
  unfold dropTimer
  repeat' first
    | with_reducible assumption
    | simp only [canonical_mk]
    | with_reducible refine memory_of ?_

theorem housekeeping_of {s : State} {out} (h0 : MemoryCanonical s) (e : housekeeping s = some out) : MemoryCanonical out := by
  unfold housekeeping at e
  revert e
  repeat' first
    | with_reducible assumption
    | with_reducible refine State.delayIssue_keeps ?_
    | with_reducible refine State.exitNow_keeps ?_
    | with_reducible refine State.settle_keeps ?_
    | with_reducible refine State.beginCommands_keeps ?_
    | with_reducible refine State.walkFetch_keeps ?_
    | with_reducible refine State.replayInbound_keeps ?_
    | with_reducible exact none_some
    | with_reducible refine some_some ?_
    | split
    | simp only [Option.map]
    | (intro e; subst e)

theorem endIssue_keeps {s : State} (h0 : MemoryCanonical s) : MemoryCanonical (endIssue s) := by
  unfold endIssue
  repeat' first
    | with_reducible assumption
    | simp only [canonical_mk]
    | with_reducible refine memory_of ?_

theorem settleIssue_keeps {g : Group} {act : List Thread} {before : State} {after : State} (_ : MemoryCanonical before) (h1 : MemoryCanonical after) : MemoryCanonical (settleIssue g act before after) := by
  unfold settleIssue
  repeat' first
    | with_reducible assumption
    | with_reducible refine State.afterIssue_keeps ?_
    | with_reducible refine endIssue_keeps ?_
    | split

theorem trapIssue_keeps {s : State} {t : Trap} (h0 : MemoryCanonical s) : MemoryCanonical (trapIssue s t) := by
  unfold trapIssue
  repeat' first
    | with_reducible assumption
    | with_reducible refine State.ceaseGroups_keeps ?_
    | with_reducible refine State.settle_keeps ?_
    | with_reducible refine State.trapGroup_keeps ?_
    | with_reducible refine endIssue_keeps ?_

theorem beginIssue_keeps {s : State} {g : GRef} {rest : List GRef} {act : List Thread} {n : Nat} (h0 : MemoryCanonical s) : MemoryCanonical (beginIssue s g rest act n) := by
  unfold beginIssue
  repeat' first
    | with_reducible assumption
    | with_reducible refine State.updThreads_keeps ?_
    | with_reducible refine State.noteFetch_keeps ?_
    | simp only [canonical_mk]
    | with_reducible refine memory_of ?_
    | split

theorem failIssue_keeps {s : State} {g : GRef} {rest : List GRef} (h0 : MemoryCanonical s) : MemoryCanonical (failIssue s g rest) := by
  unfold failIssue
  repeat' first
    | with_reducible assumption
    | with_reducible refine State.killContext_keeps ?_
    | with_reducible refine State.parkThreads_keeps ?_
    | with_reducible refine State.settle_keeps ?_
    | with_reducible refine endIssue_keeps ?_
    | with_reducible refine trapIssue_keeps ?_
    | with_reducible refine beginIssue_keeps ?_
    | dsimp only
    | split

theorem pushAt_keeps {s : State} {cycle : Nat} {is : List Instr} (h0 : MemoryCanonical s) : MemoryCanonical (pushAt s cycle is) := by
  unfold pushAt
  repeat' first
    | with_reducible assumption
    | simp only [canonical_mk]
    | with_reducible refine memory_of ?_

theorem turnSets_keeps {s : State} (h0 : MemoryCanonical s) : MemoryCanonical (turnSets s) := by
  unfold turnSets
  repeat' first
    | with_reducible assumption
    | with_reducible refine pushAt_keeps ?_
    | simp only [canonical_mk]
    | with_reducible refine memory_of ?_

theorem countWatchdogs_keeps {s : State} (h0 : MemoryCanonical s) : MemoryCanonical (countWatchdogs s) := by
  unfold countWatchdogs
  repeat' first
    | with_reducible assumption
    | simp only [canonical_mk]
    | with_reducible refine memory_of ?_

theorem beginTick_keeps {s : State} (h0 : MemoryCanonical s) : MemoryCanonical (beginTick s) := by
  unfold beginTick
  repeat' first
    | with_reducible assumption
    | with_reducible refine pushAt_keeps ?_
    | with_reducible refine countWatchdogs_keeps ?_

theorem beginCycle_keeps {s : State} (h0 : MemoryCanonical s) : MemoryCanonical (beginCycle s) := by
  unfold beginCycle
  repeat' first
    | with_reducible assumption
    | with_reducible refine State.ceaseGroups_keeps ?_
    | with_reducible refine pushAt_keeps ?_
    | with_reducible refine beginTick_keeps ?_
    | simp only [canonical_mk]
    | with_reducible refine memory_of ?_
    | split
    | dsimp only

theorem closeTick_keeps {s : State} (h0 : MemoryCanonical s) : MemoryCanonical (closeTick s) := by
  unfold closeTick
  repeat' first
    | with_reducible assumption
    | with_reducible refine pushAt_keeps ?_
    | simp only [canonical_mk]
    | with_reducible refine memory_of ?_

theorem launchFirst_keeps {s : State} {code : List Byte} (h0 : MemoryCanonical s) : MemoryCanonical (launchFirst s code) := by
  unfold launchFirst
  repeat' first
    | with_reducible assumption
    | with_reducible refine State.updCore_keeps ?_
    | with_reducible refine State.writeMem_keeps ?_
    | simp only [canonical_mk]
    | with_reducible refine memory_of ?_

/-! ### What comes next -/

/-- The state in a turn is canonical; a group issues from the state as it is. -/
def TurnCanonical : Turn → Prop
  | .run _ t => MemoryCanonical t
  | .go t => MemoryCanonical t
  | .issue _ _ => True

/-- The same of a turn that there may be. -/
def TurnsCanonical (o : Option Turn) : Prop := ∀ t, o = some t → TurnCanonical t

theorem turns_none : TurnsCanonical none := fun _ => none_some

theorem turns_some {t : Turn} (h : TurnCanonical t) : TurnsCanonical (some t) := fun _ e => Option.some.inj e ▸ h

theorem timerTurn_canonical {s : State} {early : Bool} (h : MemoryCanonical s) : TurnsCanonical (timerTurn s early) := by
  unfold timerTurn
  cases dueTimer s early with
  | none => exact turns_none
  | some p => exact turns_some (dropTimer_keeps h)

theorem ruleTurn_canonical {s : State} (h : MemoryCanonical s) : TurnsCanonical (ruleTurn s) := by
  unfold ruleTurn
  split
  · rename_i hk; exact turns_some (housekeeping_of h hk)
  · cases ruleDue s with
    | none => exact turns_none
    | some i => exact turns_some h

theorem agendaTurn_canonical {s : State} (h : MemoryCanonical s) : TurnsCanonical (agendaTurn s) := by
  unfold agendaTurn
  split
  · exact turns_some h
  · exact turns_none

theorem closingTurn_canonical {s : State} (h : MemoryCanonical s) : TurnsCanonical (closingTurn s) := by
  unfold closingTurn
  split
  · exact turns_some (closeTick_keeps h)
  · exact turns_none

theorem beforeIssue_canonical {s : State} {g : GRef} (h : MemoryCanonical s) : TurnsCanonical (beforeIssue s g) := by
  unfold beforeIssue
  have late : TurnsCanonical (match agendaTurn s with | some t => some t | none => match closingTurn s with | some t => some t | none => timerTurn s false) := by
    split
    · rename_i e; exact turns_some (agendaTurn_canonical h _ e)
    · split
      · rename_i e; exact turns_some (closingTurn_canonical h _ e)
      · exact timerTurn_canonical h
  dsimp only
  split
  · exact turns_none
  · split
    · exact turns_some (State.arrives_keeps h)
    · split
      · exact late
      · exact turns_none

theorem nextTurn_canonical {s : State} (h : MemoryCanonical s) : TurnCanonical (nextTurn s) := by
  unfold nextTurn beforeChoice afterIssues
  repeat' split
  all_goals first
    | trivial
    | exact State.choose_keeps h
    | exact State.arrives_keeps h
    | exact beginCycle_keeps (turnSets_keeps h)
    | exact h
    | (rename_i e; exact timerTurn_canonical h _ e)
    | (rename_i e; exact ruleTurn_canonical h _ e)
    | (rename_i e; exact agendaTurn_canonical h _ e)
    | (rename_i e; exact closingTurn_canonical h _ e)
    | (rename_i e; exact beforeIssue_canonical h _ e)

end Sys2Proof.Machine
end

