-- ==== Sys2Proof/Laws/Dexas.lean ====
section
/-! SUPPORT. What the dexas assembler can emit. -/

namespace Sys2Proof.Dexas

theorem leBytes_length (n v : Nat) : (leBytes n v).length = n := by simp [leBytes]

/-- A kernel header is 32 bytes (R63). -/
theorem headerBytes_length (h : Machine.Header) : (headerBytes h).length = 32 := by simp [headerBytes, leBytes_length]

theorem alignUp_dvd (n k : Nat) : k ∣ alignUp n k := ⟨_, Nat.mul_comm _ _⟩

theorem le_alignUp (n k : Nat) (hk : 0 < k) : n ≤ alignUp n k := by
  unfold alignUp
  have h := Nat.div_add_mod (n + k - 1) k
  have hm := Nat.mod_lt (n + k - 1) hk
  rw [Nat.mul_comm] at h
  omega

theorem leBytes_succ (n v : Nat) : leBytes (n + 1) v = BitVec.ofNat 8 v :: leBytes n (v >>> 8) := by
  simp [leBytes, List.range_succ_eq_map, Function.comp_def, ← Nat.shiftRight_add, Nat.mul_add, Nat.add_comm]

/-- An instruction that dexas emits with its fields has a form, type, operand classes and fields of its opcode (R210). -/
theorem encodeInsn_emittable {ls : Labels} {at_ : Nat} {i : Insn} {op : Nat} {x : Fields}
    (h : encodeInsn ls at_ i = .ok (.fields op x)) : emittable op x = true := by
  simp only [encodeInsn, bind, Except.bind, pure, Except.pure, throw, throwThe, MonadExceptOf.throw] at h
  repeat' split at h
  all_goals first
    | (injection h with h; injection h with h1 h2; subst h1; subst h2; assumption)
    | (injection h with h; cases h)
    | cases h

/-- An empty section takes no space (R450). -/
theorem placeSection_nil (start : Nat) (bs : List Byte) : placeSection start [] bs = bs := rfl

end Sys2Proof.Dexas
end

