-- ==== Sys2Proof/Laws/State.lean ====
section
/-! SUPPORT. What each plain update of the state does to each of its parts: one lemma for each part and update. -/

namespace Sys2Proof.Machine.State

@[simp] theorem updThread_clk (s : State) (t : TRef) (f : Thread → Thread) : (s.updThread t f).clk = s.clk := rfl
@[simp] theorem updThread_pkg (s : State) (t : TRef) (f : Thread → Thread) : (s.updThread t f).pkg = s.pkg := rfl
@[simp] theorem updThread_ctxs (s : State) (t : TRef) (f : Thread → Thread) : (s.updThread t f).ctxs = s.ctxs := rfl
@[simp] theorem updThread_cores (s : State) (t : TRef) (f : Thread → Thread) : (s.updThread t f).cores = s.cores := rfl
@[simp] theorem updThread_threads (s : State) (t : TRef) (f : Thread → Thread) : (s.updThread t f).threads = mapIf (fun h => h.ref == t) f s.threads := rfl
@[simp] theorem updThread_groups (s : State) (t : TRef) (f : Thread → Thread) : (s.updThread t f).groups = s.groups := rfl
@[simp] theorem updThread_teams (s : State) (t : TRef) (f : Thread → Thread) : (s.updThread t f).teams = s.teams := rfl
@[simp] theorem updThread_runs (s : State) (t : TRef) (f : Thread → Thread) : (s.updThread t f).runs = s.runs := rfl
@[simp] theorem updThread_plots (s : State) (t : TRef) (f : Thread → Thread) : (s.updThread t f).plots = s.plots := rfl
@[simp] theorem updThread_mem (s : State) (t : TRef) (f : Thread → Thread) : (s.updThread t f).mem = s.mem := rfl
@[simp] theorem updThread_tile (s : State) (t : TRef) (f : Thread → Thread) : (s.updThread t f).tile = s.tile := rfl
@[simp] theorem updThread_render (s : State) (t : TRef) (f : Thread → Thread) : (s.updThread t f).render = s.render := rfl

@[simp] theorem updThreads_clk (s : State) (ts : List TRef) (f : Thread → Thread) : (s.updThreads ts f).clk = s.clk := rfl
@[simp] theorem updThreads_pkg (s : State) (ts : List TRef) (f : Thread → Thread) : (s.updThreads ts f).pkg = s.pkg := rfl
@[simp] theorem updThreads_ctxs (s : State) (ts : List TRef) (f : Thread → Thread) : (s.updThreads ts f).ctxs = s.ctxs := rfl
@[simp] theorem updThreads_cores (s : State) (ts : List TRef) (f : Thread → Thread) : (s.updThreads ts f).cores = s.cores := rfl
@[simp] theorem updThreads_threads (s : State) (ts : List TRef) (f : Thread → Thread) : (s.updThreads ts f).threads = mapIf (fun h => ts.contains h.ref) f s.threads := rfl
@[simp] theorem updThreads_groups (s : State) (ts : List TRef) (f : Thread → Thread) : (s.updThreads ts f).groups = s.groups := rfl
@[simp] theorem updThreads_teams (s : State) (ts : List TRef) (f : Thread → Thread) : (s.updThreads ts f).teams = s.teams := rfl
@[simp] theorem updThreads_runs (s : State) (ts : List TRef) (f : Thread → Thread) : (s.updThreads ts f).runs = s.runs := rfl
@[simp] theorem updThreads_plots (s : State) (ts : List TRef) (f : Thread → Thread) : (s.updThreads ts f).plots = s.plots := rfl
@[simp] theorem updThreads_mem (s : State) (ts : List TRef) (f : Thread → Thread) : (s.updThreads ts f).mem = s.mem := rfl
@[simp] theorem updThreads_tile (s : State) (ts : List TRef) (f : Thread → Thread) : (s.updThreads ts f).tile = s.tile := rfl
@[simp] theorem updThreads_render (s : State) (ts : List TRef) (f : Thread → Thread) : (s.updThreads ts f).render = s.render := rfl

@[simp] theorem updGroup_clk (s : State) (g : GRef) (f : Group → Group) : (s.updGroup g f).clk = s.clk := rfl
@[simp] theorem updGroup_pkg (s : State) (g : GRef) (f : Group → Group) : (s.updGroup g f).pkg = s.pkg := rfl
@[simp] theorem updGroup_ctxs (s : State) (g : GRef) (f : Group → Group) : (s.updGroup g f).ctxs = s.ctxs := rfl
@[simp] theorem updGroup_cores (s : State) (g : GRef) (f : Group → Group) : (s.updGroup g f).cores = s.cores := rfl
@[simp] theorem updGroup_threads (s : State) (g : GRef) (f : Group → Group) : (s.updGroup g f).threads = s.threads := rfl
@[simp] theorem updGroup_groups (s : State) (g : GRef) (f : Group → Group) : (s.updGroup g f).groups = mapIf (fun k => k.ref == g) f s.groups := rfl
@[simp] theorem updGroup_teams (s : State) (g : GRef) (f : Group → Group) : (s.updGroup g f).teams = s.teams := rfl
@[simp] theorem updGroup_runs (s : State) (g : GRef) (f : Group → Group) : (s.updGroup g f).runs = s.runs := rfl
@[simp] theorem updGroup_plots (s : State) (g : GRef) (f : Group → Group) : (s.updGroup g f).plots = s.plots := rfl
@[simp] theorem updGroup_mem (s : State) (g : GRef) (f : Group → Group) : (s.updGroup g f).mem = s.mem := rfl
@[simp] theorem updGroup_tile (s : State) (g : GRef) (f : Group → Group) : (s.updGroup g f).tile = s.tile := rfl
@[simp] theorem updGroup_render (s : State) (g : GRef) (f : Group → Group) : (s.updGroup g f).render = s.render := rfl

@[simp] theorem updTeam_clk (s : State) (id : Nat) (f : Team → Team) : (s.updTeam id f).clk = s.clk := rfl
@[simp] theorem updTeam_pkg (s : State) (id : Nat) (f : Team → Team) : (s.updTeam id f).pkg = s.pkg := rfl
@[simp] theorem updTeam_ctxs (s : State) (id : Nat) (f : Team → Team) : (s.updTeam id f).ctxs = s.ctxs := rfl
@[simp] theorem updTeam_cores (s : State) (id : Nat) (f : Team → Team) : (s.updTeam id f).cores = s.cores := rfl
@[simp] theorem updTeam_threads (s : State) (id : Nat) (f : Team → Team) : (s.updTeam id f).threads = s.threads := rfl
@[simp] theorem updTeam_groups (s : State) (id : Nat) (f : Team → Team) : (s.updTeam id f).groups = s.groups := rfl
@[simp] theorem updTeam_teams (s : State) (id : Nat) (f : Team → Team) : (s.updTeam id f).teams = mapIf (fun k => k.id == id) f s.teams := rfl
@[simp] theorem updTeam_runs (s : State) (id : Nat) (f : Team → Team) : (s.updTeam id f).runs = s.runs := rfl
@[simp] theorem updTeam_plots (s : State) (id : Nat) (f : Team → Team) : (s.updTeam id f).plots = s.plots := rfl
@[simp] theorem updTeam_mem (s : State) (id : Nat) (f : Team → Team) : (s.updTeam id f).mem = s.mem := rfl
@[simp] theorem updTeam_tile (s : State) (id : Nat) (f : Team → Team) : (s.updTeam id f).tile = s.tile := rfl
@[simp] theorem updTeam_render (s : State) (id : Nat) (f : Team → Team) : (s.updTeam id f).render = s.render := rfl

@[simp] theorem updRun_clk (s : State) (id : Nat) (f : Run → Run) : (s.updRun id f).clk = s.clk := rfl
@[simp] theorem updRun_pkg (s : State) (id : Nat) (f : Run → Run) : (s.updRun id f).pkg = s.pkg := rfl
@[simp] theorem updRun_ctxs (s : State) (id : Nat) (f : Run → Run) : (s.updRun id f).ctxs = s.ctxs := rfl
@[simp] theorem updRun_cores (s : State) (id : Nat) (f : Run → Run) : (s.updRun id f).cores = s.cores := rfl
@[simp] theorem updRun_threads (s : State) (id : Nat) (f : Run → Run) : (s.updRun id f).threads = s.threads := rfl
@[simp] theorem updRun_groups (s : State) (id : Nat) (f : Run → Run) : (s.updRun id f).groups = s.groups := rfl
@[simp] theorem updRun_teams (s : State) (id : Nat) (f : Run → Run) : (s.updRun id f).teams = s.teams := rfl
@[simp] theorem updRun_runs (s : State) (id : Nat) (f : Run → Run) : (s.updRun id f).runs = mapIf (fun k => k.id == id) f s.runs := rfl
@[simp] theorem updRun_plots (s : State) (id : Nat) (f : Run → Run) : (s.updRun id f).plots = s.plots := rfl
@[simp] theorem updRun_mem (s : State) (id : Nat) (f : Run → Run) : (s.updRun id f).mem = s.mem := rfl
@[simp] theorem updRun_tile (s : State) (id : Nat) (f : Run → Run) : (s.updRun id f).tile = s.tile := rfl
@[simp] theorem updRun_render (s : State) (id : Nat) (f : Run → Run) : (s.updRun id f).render = s.render := rfl

@[simp] theorem updCtx_clk (s : State) (n : Nat) (f : Context → Context) : (s.updCtx n f).clk = s.clk := rfl
@[simp] theorem updCtx_pkg (s : State) (n : Nat) (f : Context → Context) : (s.updCtx n f).pkg = s.pkg := rfl
@[simp] theorem updCtx_ctxs (s : State) (n : Nat) (f : Context → Context) : (s.updCtx n f).ctxs = modifyAt f n s.ctxs := rfl
@[simp] theorem updCtx_cores (s : State) (n : Nat) (f : Context → Context) : (s.updCtx n f).cores = s.cores := rfl
@[simp] theorem updCtx_threads (s : State) (n : Nat) (f : Context → Context) : (s.updCtx n f).threads = s.threads := rfl
@[simp] theorem updCtx_groups (s : State) (n : Nat) (f : Context → Context) : (s.updCtx n f).groups = s.groups := rfl
@[simp] theorem updCtx_teams (s : State) (n : Nat) (f : Context → Context) : (s.updCtx n f).teams = s.teams := rfl
@[simp] theorem updCtx_runs (s : State) (n : Nat) (f : Context → Context) : (s.updCtx n f).runs = s.runs := rfl
@[simp] theorem updCtx_plots (s : State) (n : Nat) (f : Context → Context) : (s.updCtx n f).plots = s.plots := rfl
@[simp] theorem updCtx_mem (s : State) (n : Nat) (f : Context → Context) : (s.updCtx n f).mem = s.mem := rfl
@[simp] theorem updCtx_tile (s : State) (n : Nat) (f : Context → Context) : (s.updCtx n f).tile = s.tile := rfl
@[simp] theorem updCtx_render (s : State) (n : Nat) (f : Context → Context) : (s.updCtx n f).render = s.render := rfl

@[simp] theorem updPlot_clk (s : State) (id : Nat) (f : Plot → Plot) : (s.updPlot id f).clk = s.clk := rfl
@[simp] theorem updPlot_pkg (s : State) (id : Nat) (f : Plot → Plot) : (s.updPlot id f).pkg = s.pkg := rfl
@[simp] theorem updPlot_ctxs (s : State) (id : Nat) (f : Plot → Plot) : (s.updPlot id f).ctxs = s.ctxs := rfl
@[simp] theorem updPlot_cores (s : State) (id : Nat) (f : Plot → Plot) : (s.updPlot id f).cores = s.cores := rfl
@[simp] theorem updPlot_threads (s : State) (id : Nat) (f : Plot → Plot) : (s.updPlot id f).threads = s.threads := rfl
@[simp] theorem updPlot_groups (s : State) (id : Nat) (f : Plot → Plot) : (s.updPlot id f).groups = s.groups := rfl
@[simp] theorem updPlot_teams (s : State) (id : Nat) (f : Plot → Plot) : (s.updPlot id f).teams = s.teams := rfl
@[simp] theorem updPlot_runs (s : State) (id : Nat) (f : Plot → Plot) : (s.updPlot id f).runs = s.runs := rfl
@[simp] theorem updPlot_plots (s : State) (id : Nat) (f : Plot → Plot) : (s.updPlot id f).plots = mapIf (fun k => k.id == id) f s.plots := rfl
@[simp] theorem updPlot_mem (s : State) (id : Nat) (f : Plot → Plot) : (s.updPlot id f).mem = s.mem := rfl
@[simp] theorem updPlot_tile (s : State) (id : Nat) (f : Plot → Plot) : (s.updPlot id f).tile = s.tile := rfl
@[simp] theorem updPlot_render (s : State) (id : Nat) (f : Plot → Plot) : (s.updPlot id f).render = s.render := rfl

@[simp] theorem updDie_clk (s : State) (d : Nat) (f : Render → Render) : (s.updDie d f).clk = s.clk := rfl
@[simp] theorem updDie_pkg (s : State) (d : Nat) (f : Render → Render) : (s.updDie d f).pkg = s.pkg := rfl
@[simp] theorem updDie_ctxs (s : State) (d : Nat) (f : Render → Render) : (s.updDie d f).ctxs = s.ctxs := rfl
@[simp] theorem updDie_cores (s : State) (d : Nat) (f : Render → Render) : (s.updDie d f).cores = s.cores := rfl
@[simp] theorem updDie_threads (s : State) (d : Nat) (f : Render → Render) : (s.updDie d f).threads = s.threads := rfl
@[simp] theorem updDie_groups (s : State) (d : Nat) (f : Render → Render) : (s.updDie d f).groups = s.groups := rfl
@[simp] theorem updDie_teams (s : State) (d : Nat) (f : Render → Render) : (s.updDie d f).teams = s.teams := rfl
@[simp] theorem updDie_runs (s : State) (d : Nat) (f : Render → Render) : (s.updDie d f).runs = s.runs := rfl
@[simp] theorem updDie_plots (s : State) (d : Nat) (f : Render → Render) : (s.updDie d f).plots = s.plots := rfl
@[simp] theorem updDie_mem (s : State) (d : Nat) (f : Render → Render) : (s.updDie d f).mem = s.mem := rfl
@[simp] theorem updDie_tile (s : State) (d : Nat) (f : Render → Render) : (s.updDie d f).tile = s.tile := rfl
@[simp] theorem updDie_render (s : State) (d : Nat) (f : Render → Render) : (s.updDie d f).render = modifyAt f d s.render := rfl

@[simp] theorem updSteward_clk (s : State) (d : Nat) (f : Steward → Steward) : (s.updSteward d f).clk = s.clk := rfl
@[simp] theorem updSteward_pkg (s : State) (d : Nat) (f : Steward → Steward) : (s.updSteward d f).pkg = { s.pkg with stewards := modifyAt f d s.pkg.stewards } := rfl
@[simp] theorem updSteward_ctxs (s : State) (d : Nat) (f : Steward → Steward) : (s.updSteward d f).ctxs = s.ctxs := rfl
@[simp] theorem updSteward_cores (s : State) (d : Nat) (f : Steward → Steward) : (s.updSteward d f).cores = s.cores := rfl
@[simp] theorem updSteward_threads (s : State) (d : Nat) (f : Steward → Steward) : (s.updSteward d f).threads = s.threads := rfl
@[simp] theorem updSteward_groups (s : State) (d : Nat) (f : Steward → Steward) : (s.updSteward d f).groups = s.groups := rfl
@[simp] theorem updSteward_teams (s : State) (d : Nat) (f : Steward → Steward) : (s.updSteward d f).teams = s.teams := rfl
@[simp] theorem updSteward_runs (s : State) (d : Nat) (f : Steward → Steward) : (s.updSteward d f).runs = s.runs := rfl
@[simp] theorem updSteward_plots (s : State) (d : Nat) (f : Steward → Steward) : (s.updSteward d f).plots = s.plots := rfl
@[simp] theorem updSteward_mem (s : State) (d : Nat) (f : Steward → Steward) : (s.updSteward d f).mem = s.mem := rfl
@[simp] theorem updSteward_tile (s : State) (d : Nat) (f : Steward → Steward) : (s.updSteward d f).tile = s.tile := rfl
@[simp] theorem updSteward_render (s : State) (d : Nat) (f : Steward → Steward) : (s.updSteward d f).render = s.render := rfl

@[simp] theorem updRequest_clk (s : State) (id : Nat) (f : Request → Request) : (s.updRequest id f).clk = s.clk := rfl
@[simp] theorem updRequest_pkg (s : State) (id : Nat) (f : Request → Request) : (s.updRequest id f).pkg = s.pkg := rfl
@[simp] theorem updRequest_ctxs (s : State) (id : Nat) (f : Request → Request) : (s.updRequest id f).ctxs = s.ctxs := rfl
@[simp] theorem updRequest_cores (s : State) (id : Nat) (f : Request → Request) : (s.updRequest id f).cores = s.cores := rfl
@[simp] theorem updRequest_threads (s : State) (id : Nat) (f : Request → Request) : (s.updRequest id f).threads = s.threads := rfl
@[simp] theorem updRequest_groups (s : State) (id : Nat) (f : Request → Request) : (s.updRequest id f).groups = s.groups := rfl
@[simp] theorem updRequest_teams (s : State) (id : Nat) (f : Request → Request) : (s.updRequest id f).teams = s.teams := rfl
@[simp] theorem updRequest_runs (s : State) (id : Nat) (f : Request → Request) : (s.updRequest id f).runs = s.runs := rfl
@[simp] theorem updRequest_plots (s : State) (id : Nat) (f : Request → Request) : (s.updRequest id f).plots = s.plots := rfl
@[simp] theorem updRequest_mem (s : State) (id : Nat) (f : Request → Request) : (s.updRequest id f).mem = { s.mem with requests := mapIf (fun r => r.id == id) f s.mem.requests } := rfl
@[simp] theorem updRequest_tile (s : State) (id : Nat) (f : Request → Request) : (s.updRequest id f).tile = s.tile := rfl
@[simp] theorem updRequest_render (s : State) (id : Nat) (f : Request → Request) : (s.updRequest id f).render = s.render := rfl

@[simp] theorem dropRequest_clk (s : State) (id : Nat) : (s.dropRequest id).clk = s.clk := rfl
@[simp] theorem dropRequest_pkg (s : State) (id : Nat) : (s.dropRequest id).pkg = s.pkg := rfl
@[simp] theorem dropRequest_ctxs (s : State) (id : Nat) : (s.dropRequest id).ctxs = s.ctxs := rfl
@[simp] theorem dropRequest_cores (s : State) (id : Nat) : (s.dropRequest id).cores = s.cores := rfl
@[simp] theorem dropRequest_threads (s : State) (id : Nat) : (s.dropRequest id).threads = s.threads := rfl
@[simp] theorem dropRequest_groups (s : State) (id : Nat) : (s.dropRequest id).groups = s.groups := rfl
@[simp] theorem dropRequest_teams (s : State) (id : Nat) : (s.dropRequest id).teams = s.teams := rfl
@[simp] theorem dropRequest_runs (s : State) (id : Nat) : (s.dropRequest id).runs = s.runs := rfl
@[simp] theorem dropRequest_plots (s : State) (id : Nat) : (s.dropRequest id).plots = s.plots := rfl
@[simp] theorem dropRequest_mem (s : State) (id : Nat) : (s.dropRequest id).mem = { s.mem with requests := s.mem.requests.filter fun r => r.id != id } := rfl
@[simp] theorem dropRequest_tile (s : State) (id : Nat) : (s.dropRequest id).tile = s.tile := rfl
@[simp] theorem dropRequest_render (s : State) (id : Nat) : (s.dropRequest id).render = s.render := rfl

@[simp] theorem updCmd_clk (s : State) (id : Nat) (f : Cmd → Cmd) : (s.updCmd id f).clk = s.clk := rfl
@[simp] theorem updCmd_pkg (s : State) (id : Nat) (f : Cmd → Cmd) : (s.updCmd id f).pkg = s.pkg := rfl
@[simp] theorem updCmd_ctxs (s : State) (id : Nat) (f : Cmd → Cmd) : (s.updCmd id f).ctxs = s.ctxs := rfl
@[simp] theorem updCmd_cores (s : State) (id : Nat) (f : Cmd → Cmd) : (s.updCmd id f).cores = s.cores := rfl
@[simp] theorem updCmd_threads (s : State) (id : Nat) (f : Cmd → Cmd) : (s.updCmd id f).threads = s.threads := rfl
@[simp] theorem updCmd_groups (s : State) (id : Nat) (f : Cmd → Cmd) : (s.updCmd id f).groups = s.groups := rfl
@[simp] theorem updCmd_teams (s : State) (id : Nat) (f : Cmd → Cmd) : (s.updCmd id f).teams = s.teams := rfl
@[simp] theorem updCmd_runs (s : State) (id : Nat) (f : Cmd → Cmd) : (s.updCmd id f).runs = s.runs := rfl
@[simp] theorem updCmd_plots (s : State) (id : Nat) (f : Cmd → Cmd) : (s.updCmd id f).plots = s.plots := rfl
@[simp] theorem updCmd_mem (s : State) (id : Nat) (f : Cmd → Cmd) : (s.updCmd id f).mem = { s.mem with cmds := mapIf (fun r => r.id == id) f s.mem.cmds } := rfl
@[simp] theorem updCmd_tile (s : State) (id : Nat) (f : Cmd → Cmd) : (s.updCmd id f).tile = s.tile := rfl
@[simp] theorem updCmd_render (s : State) (id : Nat) (f : Cmd → Cmd) : (s.updCmd id f).render = s.render := rfl

@[simp] theorem updMemDie_clk (s : State) (k : Nat) (f : MemDie → MemDie) : (s.updMemDie k f).clk = s.clk := rfl
@[simp] theorem updMemDie_pkg (s : State) (k : Nat) (f : MemDie → MemDie) : (s.updMemDie k f).pkg = s.pkg := rfl
@[simp] theorem updMemDie_ctxs (s : State) (k : Nat) (f : MemDie → MemDie) : (s.updMemDie k f).ctxs = s.ctxs := rfl
@[simp] theorem updMemDie_cores (s : State) (k : Nat) (f : MemDie → MemDie) : (s.updMemDie k f).cores = s.cores := rfl
@[simp] theorem updMemDie_threads (s : State) (k : Nat) (f : MemDie → MemDie) : (s.updMemDie k f).threads = s.threads := rfl
@[simp] theorem updMemDie_groups (s : State) (k : Nat) (f : MemDie → MemDie) : (s.updMemDie k f).groups = s.groups := rfl
@[simp] theorem updMemDie_teams (s : State) (k : Nat) (f : MemDie → MemDie) : (s.updMemDie k f).teams = s.teams := rfl
@[simp] theorem updMemDie_runs (s : State) (k : Nat) (f : MemDie → MemDie) : (s.updMemDie k f).runs = s.runs := rfl
@[simp] theorem updMemDie_plots (s : State) (k : Nat) (f : MemDie → MemDie) : (s.updMemDie k f).plots = s.plots := rfl
@[simp] theorem updMemDie_mem (s : State) (k : Nat) (f : MemDie → MemDie) : (s.updMemDie k f).mem = { s.mem with dies := modifyAt f k s.mem.dies } := rfl
@[simp] theorem updMemDie_tile (s : State) (k : Nat) (f : MemDie → MemDie) : (s.updMemDie k f).tile = s.tile := rfl
@[simp] theorem updMemDie_render (s : State) (k : Nat) (f : MemDie → MemDie) : (s.updMemDie k f).render = s.render := rfl

@[simp] theorem writeMem_clk (s : State) (a : Nat) (bs : List Byte) : (s.writeMem a bs).clk = s.clk := rfl
@[simp] theorem writeMem_pkg (s : State) (a : Nat) (bs : List Byte) : (s.writeMem a bs).pkg = s.pkg := rfl
@[simp] theorem writeMem_ctxs (s : State) (a : Nat) (bs : List Byte) : (s.writeMem a bs).ctxs = s.ctxs := rfl
@[simp] theorem writeMem_cores (s : State) (a : Nat) (bs : List Byte) : (s.writeMem a bs).cores = s.cores := rfl
@[simp] theorem writeMem_threads (s : State) (a : Nat) (bs : List Byte) : (s.writeMem a bs).threads = s.threads := rfl
@[simp] theorem writeMem_groups (s : State) (a : Nat) (bs : List Byte) : (s.writeMem a bs).groups = s.groups := rfl
@[simp] theorem writeMem_teams (s : State) (a : Nat) (bs : List Byte) : (s.writeMem a bs).teams = s.teams := rfl
@[simp] theorem writeMem_runs (s : State) (a : Nat) (bs : List Byte) : (s.writeMem a bs).runs = s.runs := rfl
@[simp] theorem writeMem_plots (s : State) (a : Nat) (bs : List Byte) : (s.writeMem a bs).plots = s.plots := rfl
@[simp] theorem writeMem_mem (s : State) (a : Nat) (bs : List Byte) : (s.writeMem a bs).mem = { s.mem with mem := s.mem.mem.writeBytes a bs } := rfl
@[simp] theorem writeMem_tile (s : State) (a : Nat) (bs : List Byte) : (s.writeMem a bs).tile = s.tile := rfl
@[simp] theorem writeMem_render (s : State) (a : Nat) (bs : List Byte) : (s.writeMem a bs).render = s.render := rfl

@[simp] theorem setMem_clk (s : State) (m : MemSide) : (s.setMem m).clk = s.clk := rfl
@[simp] theorem setMem_pkg (s : State) (m : MemSide) : (s.setMem m).pkg = s.pkg := rfl
@[simp] theorem setMem_ctxs (s : State) (m : MemSide) : (s.setMem m).ctxs = s.ctxs := rfl
@[simp] theorem setMem_cores (s : State) (m : MemSide) : (s.setMem m).cores = s.cores := rfl
@[simp] theorem setMem_threads (s : State) (m : MemSide) : (s.setMem m).threads = s.threads := rfl
@[simp] theorem setMem_groups (s : State) (m : MemSide) : (s.setMem m).groups = s.groups := rfl
@[simp] theorem setMem_teams (s : State) (m : MemSide) : (s.setMem m).teams = s.teams := rfl
@[simp] theorem setMem_runs (s : State) (m : MemSide) : (s.setMem m).runs = s.runs := rfl
@[simp] theorem setMem_plots (s : State) (m : MemSide) : (s.setMem m).plots = s.plots := rfl
@[simp] theorem setMem_mem (s : State) (m : MemSide) : (s.setMem m).mem = m := rfl
@[simp] theorem setMem_tile (s : State) (m : MemSide) : (s.setMem m).tile = s.tile := rfl
@[simp] theorem setMem_render (s : State) (m : MemSide) : (s.setMem m).render = s.render := rfl

@[simp] theorem setTile_clk (s : State) (t : TileSide) : (s.setTile t).clk = s.clk := rfl
@[simp] theorem setTile_pkg (s : State) (t : TileSide) : (s.setTile t).pkg = s.pkg := rfl
@[simp] theorem setTile_ctxs (s : State) (t : TileSide) : (s.setTile t).ctxs = s.ctxs := rfl
@[simp] theorem setTile_cores (s : State) (t : TileSide) : (s.setTile t).cores = s.cores := rfl
@[simp] theorem setTile_threads (s : State) (t : TileSide) : (s.setTile t).threads = s.threads := rfl
@[simp] theorem setTile_groups (s : State) (t : TileSide) : (s.setTile t).groups = s.groups := rfl
@[simp] theorem setTile_teams (s : State) (t : TileSide) : (s.setTile t).teams = s.teams := rfl
@[simp] theorem setTile_runs (s : State) (t : TileSide) : (s.setTile t).runs = s.runs := rfl
@[simp] theorem setTile_plots (s : State) (t : TileSide) : (s.setTile t).plots = s.plots := rfl
@[simp] theorem setTile_mem (s : State) (t : TileSide) : (s.setTile t).mem = s.mem := rfl
@[simp] theorem setTile_tile (s : State) (t : TileSide) : (s.setTile t).tile = t := rfl
@[simp] theorem setTile_render (s : State) (t : TileSide) : (s.setTile t).render = s.render := rfl

@[simp] theorem setPkg_clk (s : State) (p : Package) : (s.setPkg p).clk = s.clk := rfl
@[simp] theorem setPkg_pkg (s : State) (p : Package) : (s.setPkg p).pkg = p := rfl
@[simp] theorem setPkg_ctxs (s : State) (p : Package) : (s.setPkg p).ctxs = s.ctxs := rfl
@[simp] theorem setPkg_cores (s : State) (p : Package) : (s.setPkg p).cores = s.cores := rfl
@[simp] theorem setPkg_threads (s : State) (p : Package) : (s.setPkg p).threads = s.threads := rfl
@[simp] theorem setPkg_groups (s : State) (p : Package) : (s.setPkg p).groups = s.groups := rfl
@[simp] theorem setPkg_teams (s : State) (p : Package) : (s.setPkg p).teams = s.teams := rfl
@[simp] theorem setPkg_runs (s : State) (p : Package) : (s.setPkg p).runs = s.runs := rfl
@[simp] theorem setPkg_plots (s : State) (p : Package) : (s.setPkg p).plots = s.plots := rfl
@[simp] theorem setPkg_mem (s : State) (p : Package) : (s.setPkg p).mem = s.mem := rfl
@[simp] theorem setPkg_tile (s : State) (p : Package) : (s.setPkg p).tile = s.tile := rfl
@[simp] theorem setPkg_render (s : State) (p : Package) : (s.setPkg p).render = s.render := rfl

@[simp] theorem setClk_clk (s : State) (c : Clock) : (s.setClk c).clk = c := rfl
@[simp] theorem setClk_pkg (s : State) (c : Clock) : (s.setClk c).pkg = s.pkg := rfl
@[simp] theorem setClk_ctxs (s : State) (c : Clock) : (s.setClk c).ctxs = s.ctxs := rfl
@[simp] theorem setClk_cores (s : State) (c : Clock) : (s.setClk c).cores = s.cores := rfl
@[simp] theorem setClk_threads (s : State) (c : Clock) : (s.setClk c).threads = s.threads := rfl
@[simp] theorem setClk_groups (s : State) (c : Clock) : (s.setClk c).groups = s.groups := rfl
@[simp] theorem setClk_teams (s : State) (c : Clock) : (s.setClk c).teams = s.teams := rfl
@[simp] theorem setClk_runs (s : State) (c : Clock) : (s.setClk c).runs = s.runs := rfl
@[simp] theorem setClk_plots (s : State) (c : Clock) : (s.setClk c).plots = s.plots := rfl
@[simp] theorem setClk_mem (s : State) (c : Clock) : (s.setClk c).mem = s.mem := rfl
@[simp] theorem setClk_tile (s : State) (c : Clock) : (s.setClk c).tile = s.tile := rfl
@[simp] theorem setClk_render (s : State) (c : Clock) : (s.setClk c).render = s.render := rfl

@[simp] theorem emit_clk (s : State) (o : Out) : (s.emit o).clk = s.clk := rfl
@[simp] theorem emit_pkg (s : State) (o : Out) : (s.emit o).pkg = { s.pkg with out := s.pkg.out ++ [o] } := rfl
@[simp] theorem emit_ctxs (s : State) (o : Out) : (s.emit o).ctxs = s.ctxs := rfl
@[simp] theorem emit_cores (s : State) (o : Out) : (s.emit o).cores = s.cores := rfl
@[simp] theorem emit_threads (s : State) (o : Out) : (s.emit o).threads = s.threads := rfl
@[simp] theorem emit_groups (s : State) (o : Out) : (s.emit o).groups = s.groups := rfl
@[simp] theorem emit_teams (s : State) (o : Out) : (s.emit o).teams = s.teams := rfl
@[simp] theorem emit_runs (s : State) (o : Out) : (s.emit o).runs = s.runs := rfl
@[simp] theorem emit_plots (s : State) (o : Out) : (s.emit o).plots = s.plots := rfl
@[simp] theorem emit_mem (s : State) (o : Out) : (s.emit o).mem = s.mem := rfl
@[simp] theorem emit_tile (s : State) (o : Out) : (s.emit o).tile = s.tile := rfl
@[simp] theorem emit_render (s : State) (o : Out) : (s.emit o).render = s.render := rfl

@[simp] theorem after_clk (s : State) (d : Nat) (i : Instr) : (s.after d i).clk = { s.clk with timers := s.clk.timers ++ [(s.clk.cycle + d + Config.extraDelay s.clk.free, i)], free := s.clk.free + 1 } := rfl
@[simp] theorem after_pkg (s : State) (d : Nat) (i : Instr) : (s.after d i).pkg = s.pkg := rfl
@[simp] theorem after_ctxs (s : State) (d : Nat) (i : Instr) : (s.after d i).ctxs = s.ctxs := rfl
@[simp] theorem after_cores (s : State) (d : Nat) (i : Instr) : (s.after d i).cores = s.cores := rfl
@[simp] theorem after_threads (s : State) (d : Nat) (i : Instr) : (s.after d i).threads = s.threads := rfl
@[simp] theorem after_groups (s : State) (d : Nat) (i : Instr) : (s.after d i).groups = s.groups := rfl
@[simp] theorem after_teams (s : State) (d : Nat) (i : Instr) : (s.after d i).teams = s.teams := rfl
@[simp] theorem after_runs (s : State) (d : Nat) (i : Instr) : (s.after d i).runs = s.runs := rfl
@[simp] theorem after_plots (s : State) (d : Nat) (i : Instr) : (s.after d i).plots = s.plots := rfl
@[simp] theorem after_mem (s : State) (d : Nat) (i : Instr) : (s.after d i).mem = s.mem := rfl
@[simp] theorem after_tile (s : State) (d : Nat) (i : Instr) : (s.after d i).tile = s.tile := rfl
@[simp] theorem after_render (s : State) (d : Nat) (i : Instr) : (s.after d i).render = s.render := rfl

@[simp] theorem afterExactly_clk (s : State) (d : Nat) (i : Instr) : (s.afterExactly d i).clk = { s.clk with timers := s.clk.timers ++ [(s.clk.cycle + d, i)] } := rfl
@[simp] theorem afterExactly_pkg (s : State) (d : Nat) (i : Instr) : (s.afterExactly d i).pkg = s.pkg := rfl
@[simp] theorem afterExactly_ctxs (s : State) (d : Nat) (i : Instr) : (s.afterExactly d i).ctxs = s.ctxs := rfl
@[simp] theorem afterExactly_cores (s : State) (d : Nat) (i : Instr) : (s.afterExactly d i).cores = s.cores := rfl
@[simp] theorem afterExactly_threads (s : State) (d : Nat) (i : Instr) : (s.afterExactly d i).threads = s.threads := rfl
@[simp] theorem afterExactly_groups (s : State) (d : Nat) (i : Instr) : (s.afterExactly d i).groups = s.groups := rfl
@[simp] theorem afterExactly_teams (s : State) (d : Nat) (i : Instr) : (s.afterExactly d i).teams = s.teams := rfl
@[simp] theorem afterExactly_runs (s : State) (d : Nat) (i : Instr) : (s.afterExactly d i).runs = s.runs := rfl
@[simp] theorem afterExactly_plots (s : State) (d : Nat) (i : Instr) : (s.afterExactly d i).plots = s.plots := rfl
@[simp] theorem afterExactly_mem (s : State) (d : Nat) (i : Instr) : (s.afterExactly d i).mem = s.mem := rfl
@[simp] theorem afterExactly_tile (s : State) (d : Nat) (i : Instr) : (s.afterExactly d i).tile = s.tile := rfl
@[simp] theorem afterExactly_render (s : State) (d : Nat) (i : Instr) : (s.afterExactly d i).render = s.render := rfl

@[simp] theorem atTick_clk (s : State) (t : Nat) (i : Instr) : (s.atTick t i).clk = { s.clk with timers := s.clk.timers ++ [(max s.clk.cycle (cycleOfTick t), i)] } := rfl
@[simp] theorem atTick_pkg (s : State) (t : Nat) (i : Instr) : (s.atTick t i).pkg = s.pkg := rfl
@[simp] theorem atTick_ctxs (s : State) (t : Nat) (i : Instr) : (s.atTick t i).ctxs = s.ctxs := rfl
@[simp] theorem atTick_cores (s : State) (t : Nat) (i : Instr) : (s.atTick t i).cores = s.cores := rfl
@[simp] theorem atTick_threads (s : State) (t : Nat) (i : Instr) : (s.atTick t i).threads = s.threads := rfl
@[simp] theorem atTick_groups (s : State) (t : Nat) (i : Instr) : (s.atTick t i).groups = s.groups := rfl
@[simp] theorem atTick_teams (s : State) (t : Nat) (i : Instr) : (s.atTick t i).teams = s.teams := rfl
@[simp] theorem atTick_runs (s : State) (t : Nat) (i : Instr) : (s.atTick t i).runs = s.runs := rfl
@[simp] theorem atTick_plots (s : State) (t : Nat) (i : Instr) : (s.atTick t i).plots = s.plots := rfl
@[simp] theorem atTick_mem (s : State) (t : Nat) (i : Instr) : (s.atTick t i).mem = s.mem := rfl
@[simp] theorem atTick_tile (s : State) (t : Nat) (i : Instr) : (s.atTick t i).tile = s.tile := rfl
@[simp] theorem atTick_render (s : State) (t : Nat) (i : Instr) : (s.atTick t i).render = s.render := rfl

@[simp] theorem setCtl_clk (s : State) (n bit : Nat) (v : Bool) : (s.setCtl n bit v).clk = s.clk := rfl
@[simp] theorem setCtl_pkg (s : State) (n bit : Nat) (v : Bool) : (s.setCtl n bit v).pkg = s.pkg := rfl
@[simp] theorem setCtl_ctxs (s : State) (n bit : Nat) (v : Bool) : (s.setCtl n bit v).ctxs = modifyAt (fun c => { c with ctl := if v then c.ctl ||| (1#8 <<< bit) else c.ctl &&& ~~~(1#8 <<< bit) }) n s.ctxs := rfl
@[simp] theorem setCtl_cores (s : State) (n bit : Nat) (v : Bool) : (s.setCtl n bit v).cores = s.cores := rfl
@[simp] theorem setCtl_threads (s : State) (n bit : Nat) (v : Bool) : (s.setCtl n bit v).threads = s.threads := rfl
@[simp] theorem setCtl_groups (s : State) (n bit : Nat) (v : Bool) : (s.setCtl n bit v).groups = s.groups := rfl
@[simp] theorem setCtl_teams (s : State) (n bit : Nat) (v : Bool) : (s.setCtl n bit v).teams = s.teams := rfl
@[simp] theorem setCtl_runs (s : State) (n bit : Nat) (v : Bool) : (s.setCtl n bit v).runs = s.runs := rfl
@[simp] theorem setCtl_plots (s : State) (n bit : Nat) (v : Bool) : (s.setCtl n bit v).plots = s.plots := rfl
@[simp] theorem setCtl_mem (s : State) (n bit : Nat) (v : Bool) : (s.setCtl n bit v).mem = s.mem := rfl
@[simp] theorem setCtl_tile (s : State) (n bit : Nat) (v : Bool) : (s.setCtl n bit v).tile = s.tile := rfl
@[simp] theorem setCtl_render (s : State) (n bit : Nat) (v : Bool) : (s.setCtl n bit v).render = s.render := rfl

@[simp] theorem fresh_pkg (s : State) : s.fresh.2.pkg = s.pkg := rfl
@[simp] theorem fresh_ctxs (s : State) : s.fresh.2.ctxs = s.ctxs := rfl
@[simp] theorem fresh_cores (s : State) : s.fresh.2.cores = s.cores := rfl
@[simp] theorem fresh_threads (s : State) : s.fresh.2.threads = s.threads := rfl
@[simp] theorem fresh_groups (s : State) : s.fresh.2.groups = s.groups := rfl
@[simp] theorem fresh_teams (s : State) : s.fresh.2.teams = s.teams := rfl
@[simp] theorem fresh_runs (s : State) : s.fresh.2.runs = s.runs := rfl
@[simp] theorem fresh_plots (s : State) : s.fresh.2.plots = s.plots := rfl
@[simp] theorem fresh_mem (s : State) : s.fresh.2.mem = s.mem := rfl
@[simp] theorem fresh_tile (s : State) : s.fresh.2.tile = s.tile := rfl
@[simp] theorem fresh_render (s : State) : s.fresh.2.render = s.render := rfl
@[simp] theorem fresh_clk (s : State) : s.fresh.2.clk = { s.clk with nextId := s.clk.nextId + 1 } := rfl
@[simp] theorem fresh_id (s : State) : s.fresh.1 = s.clk.nextId := rfl

@[simp] theorem setPoison_clk (s : State) (pa : Nat) : (s.setPoison pa).clk = s.clk := rfl
@[simp] theorem setPoison_pkg (s : State) (pa : Nat) : (s.setPoison pa).pkg = s.pkg := rfl
@[simp] theorem setPoison_ctxs (s : State) (pa : Nat) : (s.setPoison pa).ctxs = s.ctxs := rfl
@[simp] theorem setPoison_cores (s : State) (pa : Nat) : (s.setPoison pa).cores = s.cores := rfl
@[simp] theorem setPoison_threads (s : State) (pa : Nat) : (s.setPoison pa).threads = s.threads := rfl
@[simp] theorem setPoison_groups (s : State) (pa : Nat) : (s.setPoison pa).groups = s.groups := rfl
@[simp] theorem setPoison_teams (s : State) (pa : Nat) : (s.setPoison pa).teams = s.teams := rfl
@[simp] theorem setPoison_runs (s : State) (pa : Nat) : (s.setPoison pa).runs = s.runs := rfl
@[simp] theorem setPoison_plots (s : State) (pa : Nat) : (s.setPoison pa).plots = s.plots := rfl
@[simp] theorem setPoison_tile (s : State) (pa : Nat) : (s.setPoison pa).tile = s.tile := rfl
@[simp] theorem setPoison_render (s : State) (pa : Nat) : (s.setPoison pa).render = s.render := rfl
@[simp] theorem setPoison_bytes (s : State) (pa : Nat) : (s.setPoison pa).mem.mem = s.mem.mem := rfl

@[simp] theorem clearCovered_clk (s : State) (spans : List (Nat × Nat)) : (s.clearCovered spans).clk = s.clk := rfl
@[simp] theorem clearCovered_pkg (s : State) (spans : List (Nat × Nat)) : (s.clearCovered spans).pkg = s.pkg := rfl
@[simp] theorem clearCovered_ctxs (s : State) (spans : List (Nat × Nat)) : (s.clearCovered spans).ctxs = s.ctxs := rfl
@[simp] theorem clearCovered_cores (s : State) (spans : List (Nat × Nat)) : (s.clearCovered spans).cores = s.cores := rfl
@[simp] theorem clearCovered_threads (s : State) (spans : List (Nat × Nat)) : (s.clearCovered spans).threads = s.threads := rfl
@[simp] theorem clearCovered_groups (s : State) (spans : List (Nat × Nat)) : (s.clearCovered spans).groups = s.groups := rfl
@[simp] theorem clearCovered_teams (s : State) (spans : List (Nat × Nat)) : (s.clearCovered spans).teams = s.teams := rfl
@[simp] theorem clearCovered_runs (s : State) (spans : List (Nat × Nat)) : (s.clearCovered spans).runs = s.runs := rfl
@[simp] theorem clearCovered_plots (s : State) (spans : List (Nat × Nat)) : (s.clearCovered spans).plots = s.plots := rfl
@[simp] theorem clearCovered_tile (s : State) (spans : List (Nat × Nat)) : (s.clearCovered spans).tile = s.tile := rfl
@[simp] theorem clearCovered_render (s : State) (spans : List (Nat × Nat)) : (s.clearCovered spans).render = s.render := rfl
@[simp] theorem clearCovered_bytes (s : State) (spans : List (Nat × Nat)) : (s.clearCovered spans).mem.mem = s.mem.mem := rfl

@[simp] theorem updCore_clk (s : State) (c : CoreId) (f : Core → Core) : (s.updCore c f).clk = s.clk := by
  unfold updCore; split <;> rfl
@[simp] theorem updCore_pkg (s : State) (c : CoreId) (f : Core → Core) : (s.updCore c f).pkg = s.pkg := by
  unfold updCore; split <;> rfl
@[simp] theorem updCore_ctxs (s : State) (c : CoreId) (f : Core → Core) : (s.updCore c f).ctxs = s.ctxs := by
  unfold updCore; split <;> rfl
@[simp] theorem updCore_threads (s : State) (c : CoreId) (f : Core → Core) : (s.updCore c f).threads = s.threads := by
  unfold updCore; split <;> rfl
@[simp] theorem updCore_groups (s : State) (c : CoreId) (f : Core → Core) : (s.updCore c f).groups = s.groups := by
  unfold updCore; split <;> rfl
@[simp] theorem updCore_teams (s : State) (c : CoreId) (f : Core → Core) : (s.updCore c f).teams = s.teams := by
  unfold updCore; split <;> rfl
@[simp] theorem updCore_runs (s : State) (c : CoreId) (f : Core → Core) : (s.updCore c f).runs = s.runs := by
  unfold updCore; split <;> rfl
@[simp] theorem updCore_plots (s : State) (c : CoreId) (f : Core → Core) : (s.updCore c f).plots = s.plots := by
  unfold updCore; split <;> rfl
@[simp] theorem updCore_mem (s : State) (c : CoreId) (f : Core → Core) : (s.updCore c f).mem = s.mem := by
  unfold updCore; split <;> rfl
@[simp] theorem updCore_tile (s : State) (c : CoreId) (f : Core → Core) : (s.updCore c f).tile = s.tile := by
  unfold updCore; split <;> rfl
@[simp] theorem updCore_render (s : State) (c : CoreId) (f : Core → Core) : (s.updCore c f).render = s.render := by
  unfold updCore; split <;> rfl

end Sys2Proof.Machine.State
end

