-- ==== Sys2Proof/Laws/Issue.lean ====
section
/-! SUPPORT. The issue operations that the meanings share: what each does once its checks pass. -/

namespace Sys2Proof.Machine

theorem getElem?_mapIf {α : Type} (p : α → Bool) (f : α → α) (l : List α) (k : Nat) :
    (mapIf p f l)[k]? = (l[k]?).map fun x => if p x then f x else x := by simp [mapIf]

@[simp] theorem length_mapIf {α : Type} (p : α → Bool) (f : α → α) (l : List α) : (mapIf p f l).length = l.length := by simp [mapIf]

/-! ### Registers -/

theorem Thread.setReg_frame (t : Thread) (n : Nat) (v : W32) : t.setReg n v = { t with regs := (t.setReg n v).regs, hv := (t.setReg n v).hv } := by
  unfold Thread.setReg; split <;> rfl

theorem Thread.setRegs_frame (t : Thread) (n : Nat) (vs : List W32) :
    t.setRegs n vs = { t with regs := (t.setRegs n vs).regs, hv := (t.setRegs n vs).hv } := by
  induction vs generalizing t n with
  | nil => rfl
  | cons v vs ih => rw [Thread.setRegs, ih, Thread.setReg_frame]

theorem Thread.setPred_frame (t : Thread) (n : Nat) (v : Bool) : t.setPred n v = { t with preds := (t.setPred n v).preds } := by
  unfold Thread.setPred; split <;> rfl

/-- A result writes registers, predicates and FSTAT, and nothing else. -/
theorem Thread.applyOut_frame (t : Thread) (d : Nat) (o : LaneOut) :
    t.applyOut d o = { t with regs := (t.applyOut d o).regs, hv := (t.applyOut d o).hv, preds := (t.applyOut d o).preds, fstat := (t.applyOut d o).fstat } := by
  unfold Thread.applyOut
  cases h : o.pred with
  | none => dsimp only [Thread.orFlags]; rw [Thread.setRegs_frame]
  | some p => dsimp only [Thread.orFlags]; rw [Thread.setPred_frame, Thread.setRegs_frame]

theorem Thread.openWindow_frame (t : Thread) (la op d : Nat) (old : List W32) (due : Nat) (pred : Option (Nat × Bool × Bool)) :
    t.openWindow la op d old due pred = { t with windows := (t.openWindow la op d old due pred).windows } := by
  unfold Thread.openWindow; split <;> rfl

theorem Thread.markBusy_frame (t : Thread) (d : Nat) (o : LaneOut) (due : Nat) :
    t.markBusy d o due = { t with busy := (t.markBusy d o due).busy } := by
  unfold Thread.markBusy; dsimp only; split <;> rfl

theorem Thread.slotUp_frame (t : Thread) (n : Nat) : t.slotUp n = { t with sb := (t.slotUp n).sb } := by
  unfold Thread.slotUp; split <;> rfl

namespace State

/-- What a participating lane writes at issue is its result; its windows and the times of its results follow. -/
theorem resultAtIssue_frame (s : State) (x : Fields) (due : Nat) (h : Thread) (o : LaneOut) :
    s.resultAtIssue x due h o = { h.applyOut x.d.toNat o with windows := (s.resultAtIssue x due h o).windows, busy := (s.resultAtIssue x due h o).busy } := by
  unfold resultAtIssue
  rw [Thread.markBusy_frame, Thread.openWindow_frame]

/-- With its team, its row and no check that fails, the issue of an instruction is its continuation. -/
theorem issueThen_next {s : State} {op : Nat} {x : Fields} {k : Team → OpSpec → List Thread → State} {h : Thread} {rest : List Thread}
    {tm : Team} {sp : OpSpec} (ha : s.active = h :: rest) (ht : s.team h.team = some tm) (hr : opSpec op x = some sp)
    (hc : issueCheck s tm h sp op x = none) : s.issueThen op x k = k tm sp (h :: rest) := by
  simp [issueThen, ha, ht, hr, hc]

/-- As issueThen_next, with the constant operand read. -/
theorem issueConst_next {s : State} {op : Nat} {x : Fields} {k : Team → OpSpec → List Thread → List W32 → State} {h : Thread} {rest : List Thread}
    {tm : Team} {sp : OpSpec} {ws : List W32} (ha : s.active = h :: rest) (ht : s.team h.team = some tm) (hr : opSpec op x = some sp)
    (hc : issueCheck s tm h sp op x = none) (hw : constOperand s tm sp x = .words ws) : s.issueConst op x k = k tm sp (h :: rest) ws := by
  simp [issueConst, issueThen_next ha ht hr hc, hw]

/-- A failing check traps the group, and nothing else happens. -/
theorem issueThen_trap {s : State} {op : Nat} {x : Fields} {k : Team → OpSpec → List Thread → State} {h : Thread} {rest : List Thread}
    {tm : Team} {sp : OpSpec} {t : Trap} (ha : s.active = h :: rest) (ht : s.team h.team = some tm) (hr : opSpec op x = some sp)
    (hc : issueCheck s tm h sp op x = some t) : s.issueThen op x k = s.trapGroup t := by
  simp [issueThen, ha, ht, hr, hc]

/-! ### Results written at issue -/

@[simp] theorem writeAtIssue_mem (s : State) (x : Fields) (due : Nat) (refs : List TRef) (f : Thread → Option LaneOut) :
    (s.writeAtIssue x due refs f).mem = s.mem := rfl
@[simp] theorem writeAtIssue_clk (s : State) (x : Fields) (due : Nat) (refs : List TRef) (f : Thread → Option LaneOut) :
    (s.writeAtIssue x due refs f).clk = s.clk := rfl

theorem writeAtIssue_thread (s : State) (x : Fields) (due : Nat) (refs : List TRef) (f : Thread → Option LaneOut) (k : Nat) :
    (s.writeAtIssue x due refs f).threads[k]? = (s.threads[k]?).map fun h => if refs.contains h.ref then
      (let w : Thread := (f h).elim h (s.resultAtIssue x due h)
       { w with pc := w.pc + BitVec.ofNat 64 x.form.length }) else h := by
  simp only [writeAtIssue, getElem?_mapIf]

/-- The slot of a short-latency instruction: threads count it, its release is due, and nothing else changes. -/
theorem slotFor_parts (s : State) (set lat : Nat) (part : List Thread) :
    (s.slotFor set lat part).pkg = s.pkg ∧ (s.slotFor set lat part).ctxs = s.ctxs ∧ (s.slotFor set lat part).cores = s.cores ∧
    (s.slotFor set lat part).groups = s.groups ∧ (s.slotFor set lat part).teams = s.teams ∧ (s.slotFor set lat part).runs = s.runs ∧
    (s.slotFor set lat part).plots = s.plots ∧ (s.slotFor set lat part).tile = s.tile ∧ (s.slotFor set lat part).render = s.render ∧
    (s.slotFor set lat part).mem = { s.mem with results := (s.slotFor set lat part).mem.results } ∧
    (s.slotFor set lat part).clk = { s.clk with timers := (s.slotFor set lat part).clk.timers, nextId := (s.slotFor set lat part).clk.nextId } := by
  unfold slotFor
  cases part with
  | nil => simp
  | cons h r =>
    dsimp only
    split
    · simp
    · simp [count, addResult, newResult, fresh, afterExactly, updThreads]

theorem slotFor_thread (s : State) (set lat : Nat) (part : List Thread) (k : Nat) :
    (s.slotFor set lat part).threads[k]? = (s.threads[k]?).map fun h => if (part.map (·.ref)).contains h.ref then h.slotUp set else h := by
  unfold slotFor
  cases part with
  | nil => simp
  | cons h r =>
    dsimp only
    split
    · rename_i h0
      have : ∀ h : Thread, h.slotUp set = h := fun h => by simp [Thread.slotUp, h0]
      simp [this]
    · simp [count, addResult, newResult, fresh, afterExactly, updThreads, getElem?_mapIf]

end State

end Sys2Proof.Machine
end

