-- ==== Sys2Proof/Laws/PerInstr.lean ====
section
/-! SUPPORT. One lemma for each constructor of Instr: an instruction with words has as many as LEN of its first word says (R183). -/

namespace Sys2Proof.Laws.EncodedLength

open Sys2Proof

/-- The words that encode writes are as many as LEN says (R183); a happening has none. -/
def Statement (i : Instr) : Prop := if i.hasWords then (encode i).length = (wordForm ((encode i).getD 0 0)).words else encode i = []

theorem wordForm_word0 (f : Form) (op : Nat) (d a : BitVec 8) (low : BitVec 7) : wordForm (word0 f op d a low) = f := by
  have h1 := d.isLt
  have h2 := a.isLt
  have h3 := low.isLt
  have h : natField (word0 f op d a low).toNat 30 2 = f.code % 4 := by
    simp only [word0, BitVec.toNat_append, BitVec.toNat_ofNat, natField, Nat.shiftLeft_eq, Nat.shiftRight_eq_div_pow]
    rw [← Nat.shiftLeft_eq, ← Nat.shiftLeft_add_eq_or_of_lt h3, ← Nat.shiftLeft_eq _ 8, ← Nat.shiftLeft_add_eq_or_of_lt h2, ← Nat.shiftLeft_eq _ 8, ← Nat.shiftLeft_add_eq_or_of_lt h1,
      ← Nat.shiftLeft_eq _ 7, ← Nat.shiftLeft_add_eq_or_of_lt (Nat.mod_lt _ (by decide))]
    simp only [Nat.shiftLeft_eq]
    have := Nat.mod_lt op (show 0 < 2 ^ 7 by decide)
    omega
  simp only [wordForm, h]
  cases f <;> rfl

theorem length_fieldWords (op : Nat) (x : Fields) : (fieldWords op x).length = (wordForm ((fieldWords op x).getD 0 0)).words := by
  unfold fieldWords
  cases x.form <;> simp [wordForm_word0, Form.words]

theorem of_row {i : Instr} {op : Nat} {x : Fields} {own : Bool} (hw : i.hasWords = true) (_ : i.row? = some (op, x, own)) (he : encode i = fieldWords op x) : Statement i := by
  rw [Statement, if_pos hw, he]
  exact length_fieldWords op x

theorem pair (g0 g1 : Guard) (h0 h1 : Half) : Statement (.pair g0 g1 h0 h1) := by
  have h : ∀ (g0 g1 : BitVec 4), wordForm (BitVec.ofNat 2 Form.ext.code ++ BitVec.ofNat 7 0x7E ++ g0 ++ g1 ++ (0 : BitVec 15)) = .ext := by
    intro g0 g1
    have e : (BitVec.ofNat 2 Form.ext.code ++ BitVec.ofNat 7 0x7E ++ g0 ++ g1 ++ (0 : BitVec 15)) = word0 .ext 0x7E (g0 ++ g1) 0 0 := by
      unfold word0
      ext k hk
      simp only [BitVec.getElem_append]
      grind
    exact (congrArg wordForm e).trans (wordForm_word0 _ _ _ _ _)
  exact congrArg Form.words (h (BitVec.ofNat 4 g0.code) (BitVec.ofNat 4 g1.code)).symm

theorem braBase (off : BitVec 23) : Statement (.braBase off) := by
  have h := off.isLt
  have h1 : natField (BitVec.ofNat 2 Form.base.code ++ BitVec.ofNat 7 0x58 ++ off).toNat 30 2 = 0 := by
    simp only [BitVec.toNat_append, BitVec.toNat_ofNat, natField, Nat.shiftRight_eq_div_pow]
    rw [← Nat.shiftLeft_add_eq_or_of_lt h]
    simp only [Nat.shiftLeft_eq, Form.code]
    simp
    omega
  have h2 : wordForm (BitVec.ofNat 2 Form.base.code ++ BitVec.ofNat 7 0x58 ++ off) = .base := by simp only [wordForm, h1]; rfl
  exact congrArg Form.words h2.symm

theorem iaddBase (d a : BitVec 8) (b : BitVec 7) : Statement (.iaddBase d a b) := of_row rfl rfl rfl
theorem iaddExtended (x : Fields) : Statement (.iaddExtended x) := of_row rfl rfl rfl
theorem isubBase (d a : BitVec 8) (b : BitVec 7) : Statement (.isubBase d a b) := of_row rfl rfl rfl
theorem isubExtended (x : Fields) : Statement (.isubExtended x) := of_row rfl rfl rfl
theorem imulBase (d a : BitVec 8) (b : BitVec 7) : Statement (.imulBase d a b) := of_row rfl rfl rfl
theorem imulExtended (x : Fields) : Statement (.imulExtended x) := of_row rfl rfl rfl
theorem imulhBase (d a : BitVec 8) (b : BitVec 7) : Statement (.imulhBase d a b) := of_row rfl rfl rfl
theorem imulhExtended (x : Fields) : Statement (.imulhExtended x) := of_row rfl rfl rfl
theorem imadBase (d a : BitVec 8) (b : BitVec 7) : Statement (.imadBase d a b) := of_row rfl rfl rfl
theorem imadExtended (x : Fields) : Statement (.imadExtended x) := of_row rfl rfl rfl
theorem idiv (x : Fields) : Statement (.idiv x) := of_row rfl rfl rfl
theorem irem (x : Fields) : Statement (.irem x) := of_row rfl rfl rfl
theorem iminBase (d a : BitVec 8) (b : BitVec 7) : Statement (.iminBase d a b) := of_row rfl rfl rfl
theorem iminExtended (x : Fields) : Statement (.iminExtended x) := of_row rfl rfl rfl
theorem imaxBase (d a : BitVec 8) (b : BitVec 7) : Statement (.imaxBase d a b) := of_row rfl rfl rfl
theorem imaxExtended (x : Fields) : Statement (.imaxExtended x) := of_row rfl rfl rfl
theorem iabsBase (d a : BitVec 8) : Statement (.iabsBase d a) := of_row rfl rfl rfl
theorem iabsExtended (x : Fields) : Statement (.iabsExtended x) := of_row rfl rfl rfl
theorem inegBase (d a : BitVec 8) : Statement (.inegBase d a) := of_row rfl rfl rfl
theorem inegExtended (x : Fields) : Statement (.inegExtended x) := of_row rfl rfl rfl
theorem icmp (x : Fields) : Statement (.icmp x) := of_row rfl rfl rfl
theorem isel (x : Fields) : Statement (.isel x) := of_row rfl rfl rfl
theorem addminBase (d a : BitVec 8) (b : BitVec 7) : Statement (.addminBase d a b) := of_row rfl rfl rfl
theorem addminExtended (x : Fields) : Statement (.addminExtended x) := of_row rfl rfl rfl
theorem leaBase (d a : BitVec 8) (b : BitVec 7) : Statement (.leaBase d a b) := of_row rfl rfl rfl
theorem leaExtended (x : Fields) : Statement (.leaExtended x) := of_row rfl rfl rfl
theorem andBase (d a : BitVec 8) (b : BitVec 7) : Statement (.andBase d a b) := of_row rfl rfl rfl
theorem andExtended (x : Fields) : Statement (.andExtended x) := of_row rfl rfl rfl
theorem orBase (d a : BitVec 8) (b : BitVec 7) : Statement (.orBase d a b) := of_row rfl rfl rfl
theorem orExtended (x : Fields) : Statement (.orExtended x) := of_row rfl rfl rfl
theorem xorBase (d a : BitVec 8) (b : BitVec 7) : Statement (.xorBase d a b) := of_row rfl rfl rfl
theorem xorExtended (x : Fields) : Statement (.xorExtended x) := of_row rfl rfl rfl
theorem andnBase (d a : BitVec 8) (b : BitVec 7) : Statement (.andnBase d a b) := of_row rfl rfl rfl
theorem andnExtended (x : Fields) : Statement (.andnExtended x) := of_row rfl rfl rfl
theorem shlBase (d a : BitVec 8) (b : BitVec 7) : Statement (.shlBase d a b) := of_row rfl rfl rfl
theorem shlExtended (x : Fields) : Statement (.shlExtended x) := of_row rfl rfl rfl
theorem shrBase (d a : BitVec 8) (b : BitVec 7) : Statement (.shrBase d a b) := of_row rfl rfl rfl
theorem shrExtended (x : Fields) : Statement (.shrExtended x) := of_row rfl rfl rfl
theorem sraBase (d a : BitVec 8) (b : BitVec 7) : Statement (.sraBase d a b) := of_row rfl rfl rfl
theorem sraExtended (x : Fields) : Statement (.sraExtended x) := of_row rfl rfl rfl
theorem rotBase (d a : BitVec 8) (b : BitVec 7) : Statement (.rotBase d a b) := of_row rfl rfl rfl
theorem rotExtended (x : Fields) : Statement (.rotExtended x) := of_row rfl rfl rfl
theorem bfxBase (d a : BitVec 8) (b : BitVec 7) : Statement (.bfxBase d a b) := of_row rfl rfl rfl
theorem bfxExtended (x : Fields) : Statement (.bfxExtended x) := of_row rfl rfl rfl
theorem bfiBase (d a : BitVec 8) (b : BitVec 7) : Statement (.bfiBase d a b) := of_row rfl rfl rfl
theorem bfiExtended (x : Fields) : Statement (.bfiExtended x) := of_row rfl rfl rfl
theorem popcBase (d a : BitVec 8) : Statement (.popcBase d a) := of_row rfl rfl rfl
theorem popcExtended (x : Fields) : Statement (.popcExtended x) := of_row rfl rfl rfl
theorem clzBase (d a : BitVec 8) : Statement (.clzBase d a) := of_row rfl rfl rfl
theorem clzExtended (x : Fields) : Statement (.clzExtended x) := of_row rfl rfl rfl
theorem brevBase (d a : BitVec 8) : Statement (.brevBase d a) := of_row rfl rfl rfl
theorem brevExtended (x : Fields) : Statement (.brevExtended x) := of_row rfl rfl rfl
theorem bpermBase (d a : BitVec 8) (b : BitVec 7) : Statement (.bpermBase d a b) := of_row rfl rfl rfl
theorem bpermExtended (x : Fields) : Statement (.bpermExtended x) := of_row rfl rfl rfl
theorem bool3 (x : Fields) : Statement (.bool3 x) := of_row rfl rfl rfl
theorem movBase (d : BitVec 8) (b : BitVec 7) : Statement (.movBase d b) := of_row rfl rfl rfl
theorem movExtended (x : Fields) : Statement (.movExtended x) := of_row rfl rfl rfl
theorem faddBase (d a : BitVec 8) (b : BitVec 7) : Statement (.faddBase d a b) := of_row rfl rfl rfl
theorem faddExtended (x : Fields) : Statement (.faddExtended x) := of_row rfl rfl rfl
theorem fsubBase (d a : BitVec 8) (b : BitVec 7) : Statement (.fsubBase d a b) := of_row rfl rfl rfl
theorem fsubExtended (x : Fields) : Statement (.fsubExtended x) := of_row rfl rfl rfl
theorem fmulBase (d a : BitVec 8) (b : BitVec 7) : Statement (.fmulBase d a b) := of_row rfl rfl rfl
theorem fmulExtended (x : Fields) : Statement (.fmulExtended x) := of_row rfl rfl rfl
theorem ffmaBase (d a : BitVec 8) (b : BitVec 7) : Statement (.ffmaBase d a b) := of_row rfl rfl rfl
theorem ffmaExtended (x : Fields) : Statement (.ffmaExtended x) := of_row rfl rfl rfl
theorem fminBase (d a : BitVec 8) (b : BitVec 7) : Statement (.fminBase d a b) := of_row rfl rfl rfl
theorem fminExtended (x : Fields) : Statement (.fminExtended x) := of_row rfl rfl rfl
theorem fmaxBase (d a : BitVec 8) (b : BitVec 7) : Statement (.fmaxBase d a b) := of_row rfl rfl rfl
theorem fmaxExtended (x : Fields) : Statement (.fmaxExtended x) := of_row rfl rfl rfl
theorem fcmp (x : Fields) : Statement (.fcmp x) := of_row rfl rfl rfl
theorem fdiv (x : Fields) : Statement (.fdiv x) := of_row rfl rfl rfl
theorem fsqrt (x : Fields) : Statement (.fsqrt x) := of_row rfl rfl rfl
theorem frndBase (d a : BitVec 8) : Statement (.frndBase d a) := of_row rfl rfl rfl
theorem frndExtended (x : Fields) : Statement (.frndExtended x) := of_row rfl rfl rfl
theorem fclassBase (d a : BitVec 8) : Statement (.fclassBase d a) := of_row rfl rfl rfl
theorem fclassExtended (x : Fields) : Statement (.fclassExtended x) := of_row rfl rfl rfl
theorem fscaleBase (d a : BitVec 8) (b : BitVec 7) : Statement (.fscaleBase d a b) := of_row rfl rfl rfl
theorem fscaleExtended (x : Fields) : Statement (.fscaleExtended x) := of_row rfl rfl rfl
theorem fdot2Base (d a : BitVec 8) (b : BitVec 7) : Statement (.fdot2Base d a b) := of_row rfl rfl rfl
theorem fdot2Extended (x : Fields) : Statement (.fdot2Extended x) := of_row rfl rfl rfl
theorem flerpBase (d a : BitVec 8) (b : BitVec 7) : Statement (.flerpBase d a b) := of_row rfl rfl rfl
theorem flerpExtended (x : Fields) : Statement (.flerpExtended x) := of_row rfl rfl rfl
theorem ffracBase (d a : BitVec 8) : Statement (.ffracBase d a) := of_row rfl rfl rfl
theorem ffracExtended (x : Fields) : Statement (.ffracExtended x) := of_row rfl rfl rfl
theorem ladd (x : Fields) : Statement (.ladd x) := of_row rfl rfl rfl
theorem lsub (x : Fields) : Statement (.lsub x) := of_row rfl rfl rfl
theorem lmul (x : Fields) : Statement (.lmul x) := of_row rfl rfl rfl
theorem ldiv (x : Fields) : Statement (.ldiv x) := of_row rfl rfl rfl
theorem lcmp (x : Fields) : Statement (.lcmp x) := of_row rfl rfl rfl
theorem lmisc (x : Fields) : Statement (.lmisc x) := of_row rfl rfl rfl
theorem lexp (x : Fields) : Statement (.lexp x) := of_row rfl rfl rfl
theorem llog (x : Fields) : Statement (.llog x) := of_row rfl rfl rfl
theorem cvt (x : Fields) : Statement (.cvt x) := of_row rfl rfl rfl
theorem lcvt (x : Fields) : Statement (.lcvt x) := of_row rfl rfl rfl
theorem gcvt (x : Fields) : Statement (.gcvt x) := of_row rfl rfl rfl
theorem pack6 (x : Fields) : Statement (.pack6 x) := of_row rfl rfl rfl
theorem unpk6 (x : Fields) : Statement (.unpk6 x) := of_row rfl rfl rfl
theorem pkhBase (d a : BitVec 8) (b : BitVec 7) : Statement (.pkhBase d a b) := of_row rfl rfl rfl
theorem pkhExtended (x : Fields) : Statement (.pkhExtended x) := of_row rfl rfl rfl
theorem rand (x : Fields) : Statement (.rand x) := of_row rfl rfl rfl
theorem sfu (x : Fields) : Statement (.sfu x) := of_row rfl rfl rfl
theorem ld (x : Fields) : Statement (.ld x) := of_row rfl rfl rfl
theorem st (x : Fields) : Statement (.st x) := of_row rfl rfl rfl
theorem ldp (x : Fields) : Statement (.ldp x) := of_row rfl rfl rfl
theorem stp (x : Fields) : Statement (.stp x) := of_row rfl rfl rfl
theorem ldv (x : Fields) : Statement (.ldv x) := of_row rfl rfl rfl
theorem stv (x : Fields) : Statement (.stv x) := of_row rfl rfl rfl
theorem atom (x : Fields) : Statement (.atom x) := of_row rfl rfl rfl
theorem atomp (x : Fields) : Statement (.atomp x) := of_row rfl rfl rfl
theorem ldk (x : Fields) : Statement (.ldk x) := of_row rfl rfl rfl
theorem fence (x : Fields) : Statement (.fence x) := of_row rfl rfl rfl
theorem wait (x : Fields) : Statement (.wait x) := of_row rfl rfl rfl
theorem plotOpen (x : Fields) : Statement (.plotOpen x) := of_row rfl rfl rfl
theorem plotClose (x : Fields) : Statement (.plotClose x) := of_row rfl rfl rfl
theorem plotGive (x : Fields) : Statement (.plotGive x) := of_row rfl rfl rfl
theorem plotTake (x : Fields) : Statement (.plotTake x) := of_row rfl rfl rfl
theorem pref (x : Fields) : Statement (.pref x) := of_row rfl rfl rfl
theorem cctlWbpriv (x : Fields) : Statement (.cctlWbpriv x) := of_row rfl rfl rfl
theorem cctlInvl1 (x : Fields) : Statement (.cctlInvl1 x) := of_row rfl rfl rfl
theorem cctlInvk (x : Fields) : Statement (.cctlInvk x) := of_row rfl rfl rfl
theorem bankcfg (x : Fields) : Statement (.bankcfg x) := of_row rfl rfl rfl
theorem shfl (x : Fields) : Statement (.shfl x) := of_row rfl rfl rfl
theorem lshf (x : Fields) : Statement (.lshf x) := of_row rfl rfl rfl
theorem vote (x : Fields) : Statement (.vote x) := of_row rfl rfl rfl
theorem reduce (x : Fields) : Statement (.reduce x) := of_row rfl rfl rfl
theorem scan (x : Fields) : Statement (.scan x) := of_row rfl rfl rfl
theorem matchLanes (x : Fields) : Statement (.matchLanes x) := of_row rfl rfl rfl
theorem tmovRead (x : Fields) : Statement (.tmovRead x) := of_row rfl rfl rfl
theorem tmovWrite (x : Fields) : Statement (.tmovWrite x) := of_row rfl rfl rfl
theorem braExtended (x : Fields) : Statement (.braExtended x) := of_row rfl rfl rfl
theorem jmp (x : Fields) : Statement (.jmp x) := of_row rfl rfl rfl
theorem call (x : Fields) : Statement (.call x) := of_row rfl rfl rfl
theorem callReg (x : Fields) : Statement (.callReg x) := of_row rfl rfl rfl
theorem retBase (a : BitVec 8) : Statement (.retBase a) := of_row rfl rfl rfl
theorem retExtended (x : Fields) : Statement (.retExtended x) := of_row rfl rfl rfl
theorem reform (x : Fields) : Statement (.reform x) := of_row rfl rfl rfl
theorem cvgDecl (x : Fields) : Statement (.cvgDecl x) := of_row rfl rfl rfl
theorem cvgJoin (x : Fields) : Statement (.cvgJoin x) := of_row rfl rfl rfl
theorem exitBase : Statement .exitBase := of_row rfl rfl rfl
theorem exitExtended (x : Fields) : Statement (.exitExtended x) := of_row rfl rfl rfl
theorem yieldBase : Statement .yieldBase := of_row rfl rfl rfl
theorem yieldExtended (x : Fields) : Statement (.yieldExtended x) := of_row rfl rfl rfl
theorem yieldChk (x : Fields) : Statement (.yieldChk x) := of_row rfl rfl rfl
theorem talloc (x : Fields) : Statement (.talloc x) := of_row rfl rfl rfl
theorem tfree (x : Fields) : Statement (.tfree x) := of_row rfl rfl rfl
theorem tgive (x : Fields) : Statement (.tgive x) := of_row rfl rfl rfl
theorem ttake (x : Fields) : Statement (.ttake x) := of_row rfl rfl rfl
theorem tld (x : Fields) : Statement (.tld x) := of_row rfl rfl rfl
theorem tst (x : Fields) : Statement (.tst x) := of_row rfl rfl rfl
theorem tldv (x : Fields) : Statement (.tldv x) := of_row rfl rfl rfl
theorem tstv (x : Fields) : Statement (.tstv x) := of_row rfl rfl rfl
theorem mma (x : Fields) : Statement (.mma x) := of_row rfl rfl rfl
theorem mmaSign (x : Fields) : Statement (.mmaSign x) := of_row rfl rfl rfl
theorem macc (x : Fields) : Statement (.macc x) := of_row rfl rfl rfl
theorem tstat (x : Fields) : Statement (.tstat x) := of_row rfl rfl rfl
theorem copy (x : Fields) : Statement (.copy x) := of_row rfl rfl rfl
theorem trace (x : Fields) : Statement (.trace x) := of_row rfl rfl rfl
theorem sxdraw (x : Fields) : Statement (.sxdraw x) := of_row rfl rfl rfl
theorem sxpri (x : Fields) : Statement (.sxpri x) := of_row rfl rfl rfl
theorem silt (x : Fields) : Statement (.silt x) := of_row rfl rfl rfl
theorem enq (x : Fields) : Statement (.enq x) := of_row rfl rfl rfl
theorem cancel (x : Fields) : Statement (.cancel x) := of_row rfl rfl rfl
theorem stageInit (x : Fields) : Statement (.stageInit x) := of_row rfl rfl rfl
theorem stageAcqp (x : Fields) : Statement (.stageAcqp x) := of_row rfl rfl rfl
theorem stageAcqc (x : Fields) : Statement (.stageAcqc x) := of_row rfl rfl rfl
theorem stageRelp (x : Fields) : Statement (.stageRelp x) := of_row rfl rfl rfl
theorem stageRelc (x : Fields) : Statement (.stageRelc x) := of_row rfl rfl rfl
theorem stageAcquireGrant (team ring : Nat) (consume : Bool) : Statement (.stageAcquireGrant team ring consume) := rfl
theorem barInit (x : Fields) : Statement (.barInit x) := of_row rfl rfl rfl
theorem barArrive (x : Fields) : Statement (.barArrive x) := of_row rfl rfl rfl
theorem barrierComplete (ctx bar : Nat) : Statement (.barrierComplete ctx bar) := rfl
theorem movqSend (x : Fields) : Statement (.movqSend x) := of_row rfl rfl rfl
theorem movqRecv (x : Fields) : Statement (.movqRecv x) := of_row rfl rfl rfl
theorem sregRead (x : Fields) : Statement (.sregRead x) := of_row rfl rfl rfl
theorem sregWrite (x : Fields) : Statement (.sregWrite x) := of_row rfl rfl rfl
theorem trapSoftware (x : Fields) : Statement (.trapSoftware x) := of_row rfl rfl rfl
theorem trapBreak (x : Fields) : Statement (.trapBreak x) := of_row rfl rfl rfl
theorem sysRdsup (x : Fields) : Statement (.sysRdsup x) := of_row rfl rfl rfl
theorem sysWrsup (x : Fields) : Statement (.sysWrsup x) := of_row rfl rfl rfl
theorem sysSwap (x : Fields) : Statement (.sysSwap x) := of_row rfl rfl rfl
theorem sysShoot (x : Fields) : Statement (.sysShoot x) := of_row rfl rfl rfl
theorem sysTret (x : Fields) : Statement (.sysTret x) := of_row rfl rfl rfl
theorem nopBase : Statement .nopBase := of_row rfl rfl rfl
theorem nopExtended (x : Fields) : Statement (.nopExtended x) := of_row rfl rfl rfl
theorem powerOnReset : Statement .powerOnReset := rfl
theorem resetGo : Statement .resetGo := rfl
theorem secAttest : Statement .secAttest := rfl
theorem attestReportDone : Statement .attestReportDone := rfl
theorem pilotDequeue (die : Nat) : Statement (.pilotDequeue die) := rfl
theorem teamPlace (die : Nat) : Statement (.teamPlace die) := rfl
theorem creditRetire (ctx : Nat) : Statement (.creditRetire ctx) := rfl
theorem sieveDraw (core : CoreId) : Statement (.sieveDraw core) := rfl
theorem threadMove (t : TRef) : Statement (.threadMove t) := rfl
theorem binAgeLimit (core : CoreId) (ctx bin : Nat) : Statement (.binAgeLimit core ctx bin) := rfl
theorem automaticReform (g : GRef) : Statement (.automaticReform g) := rfl
theorem waitingCancelExit (t : TRef) : Statement (.waitingCancelExit t) := rfl
theorem activeSetDisplace (core : CoreId) : Statement (.activeSetDisplace core) := rfl
theorem throttleWindowEnd (core : CoreId) : Statement (.throttleWindowEnd core) := rfl
theorem mmaAccept (op : Nat) : Statement (.mmaAccept op) := rfl
theorem tilePassGrant (die site : Nat) : Statement (.tilePassGrant die site) := rfl
theorem tilePassComplete (die site : Nat) : Statement (.tilePassComplete die site) := rfl
theorem permitRefill (die : Nat) : Statement (.permitRefill die) := rfl
theorem permitGrant (die : Nat) : Statement (.permitGrant die) := rfl
theorem pageWalkAnswer (walk : Nat) : Statement (.pageWalkAnswer walk) := rfl
theorem deferredFaultRecord (ctx : Nat) : Statement (.deferredFaultRecord ctx) := rfl
theorem homeLoad (req : Nat) : Statement (.homeLoad req) := rfl
theorem homeStore (req : Nat) : Statement (.homeStore req) := rfl
theorem homeAtomic (req : Nat) : Statement (.homeAtomic req) := rfl
theorem loadReturn (req : Nat) : Statement (.loadReturn req) := rfl
theorem storeAck (req : Nat) : Statement (.storeAck req) := rfl
theorem fenceComplete (t : TRef) : Statement (.fenceComplete t) := rfl
theorem migrationLineCopy (socket : Nat) : Statement (.migrationLineCopy socket) := rfl
theorem promotionStart (socket region : Nat) : Statement (.promotionStart socket region) := rfl
theorem promotionAbandon (socket : Nat) : Statement (.promotionAbandon socket) := rfl
theorem bankChangeComplete (core : CoreId) (bank : Nat) : Statement (.bankChangeComplete core bank) := rfl
theorem copyPartComplete (cmd : Nat) : Statement (.copyPartComplete cmd) := rfl
theorem engineCommandComplete (cmd : Nat) : Statement (.engineCommandComplete cmd) := rfl
theorem traceLaneComplete (cmd lane : Nat) : Statement (.traceLaneComplete cmd lane) := rfl
theorem swapSpillFill (core : CoreId) : Statement (.swapSpillFill core) := rfl
theorem swapExchange (core : CoreId) : Statement (.swapExchange core) := rfl
theorem watchdogExpiry (ctx : Nat) : Statement (.watchdogExpiry ctx) := rfl
theorem drainComplete (ctx : Nat) : Statement (.drainComplete ctx) := rfl
theorem tileSlotDrain (die site slot : Nat) : Statement (.tileSlotDrain die site slot) := rfl
theorem ttakeGrant (t : TRef) : Statement (.ttakeGrant t) := rfl
theorem messageArrival (flit : Nat) : Statement (.messageArrival flit) := rfl
theorem sweepBoundary : Statement .sweepBoundary := rfl
theorem bandLight (die : Nat) : Statement (.bandLight die) := rfl
theorem kilnGather (die : Nat) : Statement (.kilnGather die) := rfl
theorem kilnBandPost (die : Nat) : Statement (.kilnBandPost die) := rfl
theorem snapshotBinned (die n : Nat) : Statement (.snapshotBinned die n) := rfl
theorem sextantDrawStart (die : Nat) : Statement (.sextantDrawStart die) := rfl
theorem selectionStart (die : Nat) : Statement (.selectionStart die) := rfl
theorem positionDraw (die : Nat) : Statement (.positionDraw die) := rfl
theorem wavePost (die : Nat) : Statement (.wavePost die) := rfl
theorem probeResolve (die : Nat) : Statement (.probeResolve die) := rfl
theorem longLatencyResult (result : Nat) : Statement (.longLatencyResult result) := rfl
theorem operationPacket (packet : Nat) : Statement (.operationPacket packet) := rfl
theorem policyRecordRepost (die : Nat) : Statement (.policyRecordRepost die) := rfl
theorem throttleLevelChange (die temp : Nat) : Statement (.throttleLevelChange die temp) := rfl
theorem tshut (die : Nat) : Statement (.tshut die) := rfl
theorem secExtend (mr : Nat) : Statement (.secExtend mr) := rfl
theorem logEnable (ctx : Nat) : Statement (.logEnable ctx) := rfl
theorem loglimitWrite (ctx : Nat) (value : W64) : Statement (.loglimitWrite ctx value) := rfl
theorem contextEnable (ctx : Nat) : Statement (.contextEnable ctx) := rfl
theorem contextHalt (ctx : Nat) : Statement (.contextHalt ctx) := rfl
theorem deadClear (ctx : Nat) : Statement (.deadClear ctx) := rfl
theorem registerWrite (ia : Nat) (value : W64) : Statement (.registerWrite ia value) := rfl
theorem recordPost (ctx offset : Nat) (bytes : List Byte) : Statement (.recordPost ctx offset bytes) := rfl
theorem postSequenceStore (hart ctx offset : Nat) (value : W64) : Statement (.postSequenceStore hart ctx offset value) := rfl
theorem cancelset (ctx : Nat) (groups : W64) : Statement (.cancelset ctx groups) := rfl
theorem frreadWrite (ctx : Nat) (value : W64) : Statement (.frreadWrite ctx value) := rfl
theorem hostLoad (hart ia size : Nat) : Statement (.hostLoad hart ia size) := rfl
theorem hostStore (hart ia : Nat) (bytes : List Byte) : Statement (.hostStore hart ia bytes) := rfl
theorem hostAmo (hart ia size : Nat) (op : AmoOp) (value : W64) : Statement (.hostAmo hart ia size op value) := rfl
theorem hostLr (hart ia size : Nat) : Statement (.hostLr hart ia size) := rfl
theorem hostSc (hart ia : Nat) (bytes : List Byte) : Statement (.hostSc hart ia bytes) := rfl
theorem dmaInbound (bus : Nat) (access : Inbound) : Statement (.dmaInbound bus access) := rfl
theorem ewerlinkInbound (port offset : Nat) (access : Inbound) : Statement (.ewerlinkInbound port offset access) := rfl
theorem ewerlinkDown (port : Nat) : Statement (.ewerlinkDown port) := rfl
theorem migctlStart (socket : Nat) : Statement (.migctlStart socket) := rfl
theorem promctlPush (socket : Nat) (value : W64) : Statement (.promctlPush socket value) := rfl
theorem softError (e : SoftError) : Statement (.softError e) := rfl
theorem dieFail (die : Nat) : Statement (.dieFail die) := rfl
theorem dmodeWrite (value : W64) : Statement (.dmodeWrite value) := rfl
theorem snapshotGo (die n : Nat) : Statement (.snapshotGo die n) := rfl
theorem ewerlinkLinkUp (port : Nat) : Statement (.ewerlinkLinkUp port) := rfl

end Sys2Proof.Laws.EncodedLength
end

