-- ==== Sys2Proof/Tests/Slice0.lean ====
section
/-! SUPPORT. The model's own tests: ill-formed terms that the checks refuse, words of every constructor, single steps
whose results the spec states, and states that meet the hypotheses of the statements. -/

namespace Sys2Proof.Tests

open Sys2Proof Sys2Proof.Machine Sys2Proof.Claims

/-- The fields of an extended form with no guard, waits or literal. -/
def ext (d a b c : Nat) (xop : Nat) (ty : Ty) (low : Nat) (scope : Scope := .thread) : Fields :=
  { form := .ext, d := BitVec.ofNat 8 d, a := BitVec.ofNat 8 a, b := BitVec.ofNat 8 b, c := BitVec.ofNat 8 c, xop := BitVec.ofNat 7 xop
    guard := .always, la := 0, set := 0, ty := ty, wait := 0, rnd := .nearestEven, scope := scope, kw := false, low := BitVec.ofNat 20 low, lit := 0 }

def reads (ws : List W32) : Option Instr := (decode ws).toOption

/-- The words of an instruction as one number, the first lowest. -/
def bits (ws : List Nat) : Nat := ws.foldr (fun w n => w + 2 ^ 32 * n) 0

/-- The launched thread of State.withFetchWord with registers set. -/
def withRegs (rs : List (Nat × W32)) (s : State) : State :=
  { s with threads := s.threads.map fun h => rs.foldl (fun h r => h.setReg r.1 r.2) h }

/-- The launched thread after one step of an instruction on these registers. -/
def ran (ws : List Nat) (rs : List (Nat × W32)) : Option Thread :=
  match step (withRegs rs (State.reset.withFetchWord (32 * ws.length) (bits ws))) with
  | .next t => t.threads.head?
  | _ => none

/-- What one step of an instruction leaves: threads, and FRWRITE of context 0. -/
def left (ws : List Nat) : Option (Nat × Option W32) :=
  match step (State.reset.withFetchWord (32 * ws.length) (bits ws)) with
  | .next t => some (t.threads.length, (t.ctx 0).map (·.frWrite))
  | _ => none

/-! ### Ill-formed terms, one for each check -/

/-- A form that R196 does not list; an unused field that is not zero; a register pair that is odd (R188). -/
theorem test_illformed_operands : [
    Instr.wf (.lexp { ext 4 6 0 0 0 .li32 0 with form := .lit }),
    Instr.wf (.lexp (ext 4 6 1 0 0 .li32 0)),
    Instr.wf (.fdiv (ext 4 6 7 0 0 .f64 0)),
    Instr.wf (.icmp (ext 8 6 8 2 0 .i32 0)),
    Instr.wf (.icmp (ext 3 6 8 6 0 .i32 0)),
    Instr.wf (.tmovRead (ext 4 64 0 0 0 .b32 0)),
    Instr.wf (.tfree (ext 0 32 0 0 0 .b32 0)),
    Instr.wf (.cvgJoin (ext 16 0 0 0 1 .b32 0)),
    Instr.wf (.movqSend (ext 4 8 0 0 0 .b32 0)),
    Instr.wf (.barArrive (ext 0 4 0 64 0 .b32 0))] = List.replicate 10 false := by decide

/-- A type that R196 does not list; SET 7, and SET where none is allowed; SCOPE where none is read; an XOP bit without meaning; RND
where it must be 00; an instruction's own condition; a sub-operation under another's constructor (R193 to R197). -/
theorem test_illformed_fields : [
    Instr.wf (.iaddExtended (ext 4 6 8 0 0 .f32 0)),
    Instr.wf (.iaddExtended { ext 4 6 8 0 0 .i32 0 with set := 7 }),
    Instr.wf (.braExtended { ext 0 0 0 0 0 .b32 0 with set := 1 }),
    Instr.wf (.iaddExtended (ext 4 6 8 0 0 .i32 0 .team)),
    Instr.wf (.iaddExtended (ext 4 6 8 0 2 .i32 0)),
    Instr.wf (.ladd { ext 4 6 8 0 0 .li32 0 with rnd := .towardZero }),
    Instr.wf (.sregRead (ext 4 0 0 0 0 .b32 0x13)),
    Instr.wf (.plotOpen (ext 4 6 8 0 1 .b32 0)),
    Instr.wf (.iaddExtended { ext 4 6 8 0 0 .i32 0 with form := .base })] = List.replicate 9 false := by decide

/-- IMM beside a register source; an immediate beside a B register; a constant operand where none is taken; a literal beyond the role of 32
bits; IMM in a base form; a B above 127 in a base form (R186, R187, R190). -/
theorem test_illformed_immediates : [
    Instr.wf (.iaddExtended (ext 4 6 8 0 0 .i32 1)),
    Instr.wf (.iaddExtended (ext 4 6 8 0 0x40 .i32 1)),
    Instr.wf (.ldk { ext 4 6 0 0 0 .b32 0 with kw := true }),
    Instr.wf (.movExtended { ext 7 0 0 0 0 .b32 0 with form := .lit, lit := 0x100000000 }),
    Instr.wf (.movExtended { ext 7 0 0 0 0 .b32 1 with form := .lit }),
    Instr.wf (.bool3 (ext 8 9 10 11 0 .b32 0x100))] = List.replicate 6 false := by decide

/-- Halves of R201: destinations in one bank, two multiply-adds, a half that reads the other's destination, an opcode that does not
pair, an unused field that is not zero. -/
theorem test_illformed_pairs : [
    Instr.wf (.pair .always .always ⟨0x01, 8, 1, 2⟩ ⟨0x01, 4, 1, 2⟩),
    Instr.wf (.pair .always .always ⟨0x23, 8, 1, 2⟩ ⟨0x05, 5, 1, 2⟩),
    Instr.wf (.pair .always .always ⟨0x01, 8, 1, 2⟩ ⟨0x01, 5, 8, 2⟩),
    Instr.wf (.pair .always .always ⟨0x0F, 8, 1, 2⟩ ⟨0x01, 5, 1, 2⟩),
    Instr.wf (.pair .always .always ⟨0x0A, 8, 1, 2⟩ ⟨0x01, 5, 1, 2⟩)] = List.replicate 5 false := by decide

/-! ### Decoding: words of every constructor, and the spec's worked encodings -/

/-- Words of the integer opcodes, composed from R183 to R200 (OP, operand and XOP places) and R196. -/
theorem test_decode_arith0 : [[0x00820308], [0x40820300, 0x08000004, 0x00000000], [0x01020308], [0x41020300, 0x08000004, 0x00000000], [0x01820308], [0x41820300, 0x08000004, 0x00000000], [0x02020308], [0x42020300, 0x08000004, 0x00000000], [0x02820308], [0x42820300, 0x080A0005, 0x00000000], [0x43020300, 0x08000008, 0x00000000], [0x43820300, 0x08000003, 0x00000000]].map reads =
    [some (.iaddBase 4 6 8), some (.iaddExtended (ext 4 6 8 0 0 .i32 0)), some (.isubBase 4 6 8), some (.isubExtended (ext 4 6 8 0 0 .i32 0)), some (.imulBase 4 6 8), some (.imulExtended (ext 4 6 8 0 0 .i32 0)), some (.imulhBase 4 6 8), some (.imulhExtended (ext 4 6 8 0 0 .i32 0)), some (.imadBase 4 6 8), some (.imadExtended (ext 4 6 8 10 0 .i64 0)), some (.idiv (ext 4 6 8 0 0 .n32 0)), some (.irem (ext 4 6 8 0 0 .i16 0))] := by decide
/-- Words of the integer opcodes, composed from R183 to R200 (OP, operand and XOP places) and R196. -/
theorem test_decode_arith1 : [[0x04020308], [0x44020300, 0x08000006, 0x00000000], [0x04820308], [0x44820300, 0x08000006, 0x00000000], [0x05020300], [0x45020301, 0x00000003, 0x00000000], [0x05820300], [0x45820301, 0x00000003, 0x00000000], [0x46018300, 0x08020004, 0x00000000], [0x46820300, 0x08010001, 0x00000000], [0x07020308], [0x47020300, 0x08090008, 0x00000000]].map reads =
    [some (.iminBase 4 6 8), some (.iminExtended (ext 4 6 8 0 0 .n8 0)), some (.imaxBase 4 6 8), some (.imaxExtended (ext 4 6 8 0 0 .n8 0)), some (.iabsBase 4 6), some (.iabsExtended (ext 4 6 0 0 1 .i16 0)), some (.inegBase 4 6), some (.inegExtended (ext 4 6 0 0 1 .i16 0)), some (.icmp (ext 3 6 8 2 0 .i32 0)), some (.isel (ext 4 6 8 1 0 .b64 0)), some (.addminBase 4 6 8), some (.addminExtended (ext 4 6 8 9 0 .n32 0))] := by decide
/-- Words of the integer opcodes, composed from R183 to R200 (OP, operand and XOP places) and R196. -/
theorem test_decode_arith2 : [[0x07820308], [0x47820303, 0x08000001, 0x00000000]].map reads =
    [some (.leaBase 4 6 8), some (.leaExtended (ext 4 6 8 0 3 .b64 0))] := by decide
/-- Words of the logic and bit-field opcodes, composed from R183 to R200 (OP, operand and XOP places) and R196. -/
theorem test_decode_logic0 : [[0x08020308], [0x48020300, 0x08000001, 0x00000000], [0x08820308], [0x48820300, 0x08000001, 0x00000000], [0x09020308], [0x49020300, 0x08000001, 0x00000000], [0x09820308], [0x49820300, 0x08000001, 0x00000000], [0x0A020308], [0x4A020300, 0x08000001, 0x00000000], [0x0A820308], [0x4A820300, 0x08000001, 0x00000000]].map reads =
    [some (.andBase 4 6 8), some (.andExtended (ext 4 6 8 0 0 .b64 0)), some (.orBase 4 6 8), some (.orExtended (ext 4 6 8 0 0 .b64 0)), some (.xorBase 4 6 8), some (.xorExtended (ext 4 6 8 0 0 .b64 0)), some (.andnBase 4 6 8), some (.andnExtended (ext 4 6 8 0 0 .b64 0)), some (.shlBase 4 6 8), some (.shlExtended (ext 4 6 8 0 0 .b64 0)), some (.shrBase 4 6 8), some (.shrExtended (ext 4 6 8 0 0 .b64 0))] := by decide
/-- Words of the logic and bit-field opcodes, composed from R183 to R200 (OP, operand and XOP places) and R196. -/
theorem test_decode_logic1 : [[0x0B020308], [0x4B020300, 0x08000001, 0x00000000], [0x0B820308], [0x4B820300, 0x08000001, 0x00000000], [0x0C020308], [0x4C020300, 0x08000008, 0x00000000], [0x0C820308], [0x4C820300, 0x08050000, 0x00000000], [0x0D020300], [0x4D020300, 0x00000001, 0x00000000], [0x0D820300], [0x4D820300, 0x00000001, 0x00000000]].map reads =
    [some (.sraBase 4 6 8), some (.sraExtended (ext 4 6 8 0 0 .b64 0)), some (.rotBase 4 6 8), some (.rotExtended (ext 4 6 8 0 0 .b64 0)), some (.bfxBase 4 6 8), some (.bfxExtended (ext 4 6 8 0 0 .n32 0)), some (.bfiBase 4 6 8), some (.bfiExtended (ext 4 6 8 5 0 .b32 0)), some (.popcBase 4 6), some (.popcExtended (ext 4 6 0 0 0 .b64 0)), some (.clzBase 4 6), some (.clzExtended (ext 4 6 0 0 0 .b64 0))] := by decide
/-- Words of the logic and bit-field opcodes, composed from R183 to R200 (OP, operand and XOP places) and R196. -/
theorem test_decode_logic2 : [[0x0E020300], [0x4E020300, 0x00000001, 0x00000000], [0x0E820308], [0x4E820300, 0x08000000, 0x00000000], [0x4F040480, 0x0A0B0000, 0x000000E8], [0x0F820008], [0x4F838040, 0x00000000, 0x000FF000]].map reads =
    [some (.brevBase 4 6), some (.brevExtended (ext 4 6 0 0 0 .b64 0)), some (.bpermBase 4 6 8), some (.bpermExtended (ext 4 6 8 0 0 .b32 0)), some (.bool3 (ext 8 9 10 11 0 .b32 232)), some (.movBase 4 8), some (.movExtended (ext 7 0 0 0 64 .b32 1044480))] := by decide
/-- Words of the IEEE opcodes, composed from R183 to R200 (OP, operand and XOP places) and R196. -/
theorem test_decode_ieee0 : [[0x10020308], [0x50020300, 0x0800000B, 0x00000000], [0x10820308], [0x50820300, 0x0800000B, 0x00000000], [0x11020308], [0x51020300, 0x0800000B, 0x00000000], [0x11820308], [0x51820300, 0x080A000C, 0x00000000], [0x12020308], [0x52020300, 0x0800000A, 0x00000000], [0x12820308], [0x52820300, 0x0800000A, 0x00000000]].map reads =
    [some (.faddBase 4 6 8), some (.faddExtended (ext 4 6 8 0 0 .f32 0)), some (.fsubBase 4 6 8), some (.fsubExtended (ext 4 6 8 0 0 .f32 0)), some (.fmulBase 4 6 8), some (.fmulExtended (ext 4 6 8 0 0 .f32 0)), some (.ffmaBase 4 6 8), some (.ffmaExtended (ext 4 6 8 10 0 .f64 0)), some (.fminBase 4 6 8), some (.fminExtended (ext 4 6 8 0 0 .f16 0)), some (.fmaxBase 4 6 8), some (.fmaxExtended (ext 4 6 8 0 0 .f16 0))] := by decide
/-- Words of the IEEE opcodes, composed from R183 to R200 (OP, operand and XOP places) and R196. -/
theorem test_decode_ieee1 : [[0x53010300, 0x0807000B, 0x00000000], [0x53820300, 0x0800000C, 0x00000000], [0x54020300, 0x0000000B, 0x00000000], [0x14820300], [0x54820300, 0x0000000C, 0x00000000], [0x15020300], [0x55020300, 0x0000000C, 0x00000000], [0x15820308], [0x55820300, 0x0800000B, 0x00000000], [0x16020308], [0x56020300, 0x0803000B, 0x00000000], [0x16820308]].map reads =
    [some (.fcmp (ext 2 6 8 7 0 .f32 0)), some (.fdiv (ext 4 6 8 0 0 .f64 0)), some (.fsqrt (ext 4 6 0 0 0 .f32 0)), some (.frndBase 4 6), some (.frndExtended (ext 4 6 0 0 0 .f64 0)), some (.fclassBase 4 6), some (.fclassExtended (ext 4 6 0 0 0 .f64 0)), some (.fscaleBase 4 6 8), some (.fscaleExtended (ext 4 6 8 0 0 .f32 0)), some (.fdot2Base 4 6 8), some (.fdot2Extended (ext 4 6 8 3 0 .f32 0)), some (.flerpBase 4 6 8)] := by decide
/-- Words of the IEEE opcodes, composed from R183 to R200 (OP, operand and XOP places) and R196. -/
theorem test_decode_ieee2 : [[0x56820300, 0x0803000A, 0x00000000], [0x17020300], [0x57020300, 0x0000000B, 0x00000000]].map reads =
    [some (.flerpExtended (ext 4 6 8 3 0 .f16 0)), some (.ffracBase 4 6), some (.ffracExtended (ext 4 6 0 0 0 .f32 0))] := by decide
/-- Words of the level-index, conversion and special-function opcodes, composed from R183 to R200 (OP, operand and XOP places) and R196. -/
theorem test_decode_special0 : [[0x58020300, 0x0800000E, 0x00000000], [0x58820300, 0x0800000E, 0x00000000], [0x59020300, 0x0800000E, 0x00000000], [0x59820300, 0x0800000E, 0x00000000], [0x5A008300, 0x0803000D, 0x00000000], [0x5A820302, 0x0000000E, 0x00000000], [0x5B020300, 0x0000000E, 0x00000000], [0x5B820300, 0x0000000D, 0x00000000], [0x5C020304, 0x0000000B, 0x00000000], [0x5C82030B, 0x0000000E, 0x00000000], [0x5D02030B, 0x00000010, 0x00000000], [0x5D820300, 0x0000000F, 0x00000000]].map reads =
    [some (.ladd (ext 4 6 8 0 0 .li32 0)), some (.lsub (ext 4 6 8 0 0 .li32 0)), some (.lmul (ext 4 6 8 0 0 .li32 0)), some (.ldiv (ext 4 6 8 0 0 .li32 0)), some (.lcmp (ext 1 6 8 3 0 .li16 0)), some (.lmisc (ext 4 6 0 0 2 .li32 0)), some (.lexp (ext 4 6 0 0 0 .li32 0)), some (.llog (ext 4 6 0 0 0 .li16 0)), some (.cvt (ext 4 6 0 0 4 .f32 0)), some (.lcvt (ext 4 6 0 0 11 .li32 0)), some (.gcvt (ext 4 6 0 0 11 .g8 0)), some (.pack6 (ext 4 6 0 0 0 .g6 0))] := by decide
/-- Words of the level-index, conversion and special-function opcodes, composed from R183 to R200 (OP, operand and XOP places) and R196. -/
theorem test_decode_special1 : [[0x5E020300, 0x0000000F, 0x00000000], [0x1E820308], [0x5E820300, 0x0800000B, 0x00000000], [0x5F020300, 0x08000001, 0x00000000], [0x5F820301, 0x0000000B, 0x00000000]].map reads =
    [some (.unpk6 (ext 4 6 0 0 0 .g6 0)), some (.pkhBase 4 6 8), some (.pkhExtended (ext 4 6 8 0 0 .f32 0)), some (.rand (ext 4 6 8 0 0 .b64 0)), some (.sfu (ext 4 6 0 0 1 .f32 0))] := by decide
/-- Words of the memory opcodes, composed from R183 to R200 (OP, operand and XOP places) and R196. -/
theorem test_decode_memory0 : [[0x60048110, 0x0000000B, 0x00000040], [0x60800101, 0x07000000, 0x00000008], [0x61018280, 0x00000000, 0x00000000], [0x61800280, 0x03000000, 0x00000000], [0x62040120, 0x00000000, 0x00000000], [0x62800120, 0x08000000, 0x00000000], [0x63020307, 0x080A0001, 0x00A00000], [0x63820301, 0x08000008, 0x00000000], [0x64020303, 0x00000000, 0x00000005], [0x64800000, 0x00000000, 0x00800000], [0x65000000, 0x00000000, 0x00000041], [0x65820300, 0x08000000, 0x00000000]].map reads =
    [some (.ld (ext 9 2 0 0 16 .f32 64)), some (.st (ext 0 2 7 0 1 .b32 8)), some (.ldp (ext 3 5 0 0 0 .b32 0)), some (.stp (ext 0 5 3 0 0 .b32 0)), some (.ldv (ext 8 2 0 0 32 .b32 0)), some (.stv (ext 0 2 8 0 32 .b32 0)), some (.atom (ext 4 6 8 10 7 .b64 0 .package)), some (.atomp (ext 4 6 8 0 1 .n32 0)), some (.ldk (ext 4 6 0 0 3 .b32 5)), some (.fence (ext 0 0 0 0 0 .b32 0 .die)), some (.wait (ext 0 0 0 0 0 .b32 65)), some (.plotOpen (ext 4 6 8 0 0 .b32 0))] := by decide
/-- Words of the memory opcodes, composed from R183 to R200 (OP, operand and XOP places) and R196. -/
theorem test_decode_memory1 : [[0x65820301, 0x08000000, 0x00000000], [0x65820302, 0x08000000, 0x00000000], [0x65820303, 0x08000000, 0x00000000], [0x66000301, 0x00000000, 0x00000000], [0x66800000, 0x00000000, 0x00000000], [0x66800301, 0x00000000, 0x00000000], [0x66800002, 0x00000000, 0x00000000], [0x67020300, 0x08000000, 0x00000000]].map reads =
    [some (.plotClose (ext 4 6 8 0 1 .b32 0)), some (.plotGive (ext 4 6 8 0 2 .b32 0)), some (.plotTake (ext 4 6 8 0 3 .b32 0)), some (.pref (ext 0 6 0 0 1 .b32 0)), some (.cctlWbpriv (ext 0 0 0 0 0 .b32 0)), some (.cctlInvl1 (ext 0 6 0 0 1 .b32 0)), some (.cctlInvk (ext 0 0 0 0 2 .b32 0)), some (.bankcfg (ext 4 6 8 0 0 .b32 0))] := by decide
/-- Words of the cross-lane opcodes, composed from R183 to R200 (OP, operand and XOP places) and R196. -/
theorem test_decode_lanes0 : [[0x68020301, 0x08090000, 0x00000000], [0x68820300, 0x08090000, 0x00000000], [0x69020183, 0x00000000, 0x00000000], [0x69820301, 0x00000004, 0x00000000], [0x6A020308, 0x00000008, 0x00000000], [0x6A830100, 0x00000000, 0x00000000], [0x6B021F80, 0x00000000, 0x00000000], [0x6B1F8201, 0x00000000, 0x00000000]].map reads =
    [some (.shfl (ext 4 6 8 9 1 .b32 0)), some (.lshf (ext 4 6 8 9 0 .b32 0)), some (.vote (ext 4 3 0 0 3 .b32 0)), some (.reduce (ext 4 6 0 0 1 .i32 0)), some (.scan (ext 4 6 0 0 8 .n32 0)), some (.matchLanes (ext 6 2 0 0 0 .b32 0)), some (.tmovRead (ext 4 63 0 0 0 .b32 0)), some (.tmovWrite (ext 63 4 0 0 1 .b32 0))] := by decide
/-- Words of the control-flow opcodes, composed from R183 to R200 (OP, operand and XOP places) and R196. -/
theorem test_decode_control0 : [[0x2C7FFFFD], [0x6C000000, 0x00000000, 0x000FFFFA], [0x6C800400, 0x00000000, 0x00000000], [0x6D1E0000, 0x00000000, 0x00000028], [0x6D1E0401, 0x00000000, 0x00000000], [0x2D801E00], [0x6D801E00, 0x00000000, 0x00000000], [0x6E000001, 0x07000000, 0x00000006], [0x6E808000, 0x00000000, 0x00000000], [0x6E810001, 0x00000000, 0x00000000], [0x2F000000], [0x6F000000, 0x00000000, 0x00000000]].map reads =
    [some (.braBase 0x7FFFFD), some (.braExtended (ext 0 0 0 0 0 .b32 1048570)), some (.jmp (ext 0 8 0 0 0 .b32 0)), some (.call (ext 60 0 0 0 0 .b32 40)), some (.callReg (ext 60 8 0 0 1 .b32 0)), some (.retBase 60), some (.retExtended (ext 0 60 0 0 0 .b32 0)), some (.reform (ext 0 0 7 0 1 .b32 6)), some (.cvgDecl (ext 1 0 0 0 0 .b32 0)), some (.cvgJoin (ext 2 0 0 0 1 .b32 0)), some (.exitBase), some (.exitExtended (ext 0 0 0 0 0 .b32 0))] := by decide
/-- Words of the control-flow opcodes, composed from R183 to R200 (OP, operand and XOP places) and R196. -/
theorem test_decode_control1 : [[0x2F800000], [0x6F800000, 0x00000000, 0x00000000], [0x6F800001, 0x00000000, 0x00000000]].map reads =
    [some (.yieldBase), some (.yieldExtended (ext 0 0 0 0 0 .b32 0)), some (.yieldChk (ext 0 0 0 0 1 .b32 0))] := by decide
/-- Words of the tile and matrix opcodes, composed from R183 to R200 (OP, operand and XOP places) and R196. -/
theorem test_decode_tile0 : [[0x70008000, 0x06000000, 0x00000000], [0x70800080, 0x00000000, 0x00000000], [0x71000080, 0x05000000, 0x00000000], [0x71800080, 0x07000000, 0x00000000], [0x72018100, 0x0000000F, 0x00000100], [0x72818101, 0x0000000B, 0x00000000], [0x73020080, 0x0600000A, 0x00000000], [0x73808200, 0x06000010, 0x00000000], [0x740A0081, 0x02000000, 0x00000000], [0x740A0083, 0x02030000, 0x00000000], [0x74848503, 0x00000000, 0x00000000], [0x75020080, 0x00000000, 0x00000000]].map reads =
    [some (.talloc (ext 1 0 6 0 0 .b32 0)), some (.tfree (ext 0 1 0 0 0 .b32 0)), some (.tgive (ext 0 1 5 0 0 .b32 0)), some (.ttake (ext 0 1 7 0 0 .b32 0)), some (.tld (ext 3 2 0 0 0 .g6 256)), some (.tst (ext 3 2 0 0 1 .f32 0)), some (.tldv (ext 4 1 6 0 0 .f16 0)), some (.tstv (ext 1 4 6 0 0 .g8 0)), some (.mma (ext 20 1 2 0 1 .b32 0)), some (.mmaSign (ext 20 1 2 3 3 .b32 0)), some (.macc (ext 9 10 0 0 3 .b32 0)), some (.tstat (ext 4 1 0 0 0 .b32 0))] := by decide
/-- Words of the engine, record, stage, barrier and queue opcodes, composed from R183 to R200 (OP, operand and XOP places) and R196. -/
theorem test_decode_engine0 : [[0x78008104, 0x00050000, 0x00000000], [0x78820100, 0x06000000, 0x00000000], [0x79020100, 0x00000000, 0x00000000], [0x79800200, 0x05000000, 0x00000000], [0x7A020102, 0x00000000, 0x00800000], [0x7A820100, 0x00000000, 0x00000000], [0x7B000200, 0x00000000, 0x00000000], [0x7B820000, 0x05070000, 0x00000000], [0x7B820001, 0x05070000, 0x00000000], [0x7B820002, 0x05070000, 0x00000000], [0x7B820003, 0x05070000, 0x00000000], [0x7B820004, 0x05070000, 0x00000000]].map reads =
    [some (.copy (ext 1 2 0 5 4 .b32 0)), some (.trace (ext 4 2 6 0 0 .b32 0)), some (.sxdraw (ext 4 2 0 0 0 .b32 0)), some (.sxpri (ext 0 4 5 0 0 .b32 0)), some (.silt (ext 4 2 0 0 2 .b32 0 .die)), some (.enq (ext 4 2 0 0 0 .b32 0)), some (.cancel (ext 0 4 0 0 0 .b32 0)), some (.stageInit (ext 4 0 5 7 0 .b32 0)), some (.stageAcqp (ext 4 0 5 7 1 .b32 0)), some (.stageAcqc (ext 4 0 5 7 2 .b32 0)), some (.stageRelp (ext 4 0 5 7 3 .b32 0)), some (.stageRelc (ext 4 0 5 7 4 .b32 0))] := by decide
/-- Words of the engine, record, stage, barrier and queue opcodes, composed from R183 to R200 (OP, operand and XOP places) and R196. -/
theorem test_decode_engine1 : [[0x7C000201, 0x003F0000, 0x00000000], [0x7C000200, 0x00050000, 0x00800000], [0x7C818400, 0x00000000, 0x00000000], [0x7C840181, 0x00000000, 0x00000000]].map reads =
    [some (.barInit (ext 0 4 0 63 1 .b32 0)), some (.barArrive (ext 0 4 0 5 0 .b32 0 .die)), some (.movqSend (ext 3 8 0 0 0 .b32 0)), some (.movqRecv (ext 8 3 0 0 1 .b32 0))] := by decide
/-- Words of the system opcodes, composed from R183 to R200 (OP, operand and XOP places) and R196. -/
theorem test_decode_system0 : [[0x7D020000, 0x00000001, 0x0000000D], [0x7D000301, 0x00000000, 0x0000000C], [0x7D800000, 0x00000000, 0x00000042], [0x7D800001, 0x00000000, 0x00000007], [0x7E020300, 0x00000001, 0x00000100], [0x7E000301, 0x08000001, 0x00000110], [0x7E020302, 0x08000000, 0x00000000], [0x7E020303, 0x08000000, 0x00000000], [0x7E007804, 0xF2000000, 0x00000000], [0x3E800000], [0x7E800000, 0x00000000, 0x00000000], [0x7F000000, 0x46100204, 0x020A0204]].map reads =
    [some (.sregRead (ext 4 0 0 0 0 .b64 13)), some (.sregWrite (ext 0 6 0 0 1 .b32 12)), some (.trapSoftware (ext 0 0 0 0 0 .b32 66)), some (.trapBreak (ext 0 0 0 0 1 .b32 7)), some (.sysRdsup (ext 4 6 0 0 0 .b64 256)), some (.sysWrsup (ext 0 6 8 0 1 .b64 272)), some (.sysSwap (ext 4 6 8 0 2 .b32 0)), some (.sysShoot (ext 4 6 8 0 3 .b32 0)), some (.sysTret (ext 0 240 242 0 4 .b32 0)), some (.nopBase), some (.nopExtended (ext 0 0 0 0 0 .b32 0)), some (.pair .always .always ⟨0x23, 8, 1, 2⟩ ⟨0x01, 5, 1, 2⟩)] := by decide

/-- The worked encodings of R212 and the first literal of the notes on the instruction set. -/
theorem test_decode_worked : [[0x00820286], [0x51850581, 0x0C0DB22B, 0x09000000], [0x4F838040, 0, 0x000FF000], [0x8F838000, 0x12345678, 0],
      [0x2C7FFFFD], [0xE0048108, 0, 0, 0, 1]].map reads =
    [some (.iaddBase 4 5 6),
     some (.ffmaExtended { ext 10 11 12 13 1 .f32 0 with guard := ⟨true, 3⟩, la := 2, set := 1, wait := 2, rnd := .towardZero }),
     some (.movExtended (ext 7 0 0 0 0x40 .b32 0xFF000)),
     some (.movExtended { ext 7 0 0 0 0 .b32 0 with form := .lit, lit := 0x12345678 }),
     some (.braBase 0x7FFFFD),
     some (.ld { ext 9 2 0 0 8 .b32 0 with form := .extLit, lit := 0x100000000 })] := by decide

/-! ### The assembler -/

/-- R236, R275, R278, R243, R281, R223: the lines that the chapters on instructions encode. -/
theorem test_dexas_chapters : ["FMUL v3, v4, 0.5", "LD.f32 v9, [v2:v3 + 0x40] lease=2 set=sb3",
    "ATOM.cas.b64 v4:v5, [v6:v7], v8:v9, v10:v11 scope=package set=sb1", "FENCE scope=package"].map Dexas.assembledWords =
    [some [0x91018200, 0x3F000000, 0], some [0x60048110, 0x0000006B, 0x00000040], some [0x63020307, 0x080A0021, 0x00A00000],
     some [0x64800000, 0, 0x00A00000]] := by decide

/-- R209, R210, R198: an option that is not read, a form that the opcode lacks, an operand beyond its class. -/
theorem test_dexas_errors : ["LCVT.li32.f32 v2, v3 rnd=rz", "POPC v1, 5", "ICMP p1, v2, v3, .un", "IADD.i64 v1:v2, v4:v5, v6:v7", "ADDMIN.f32 v1, v2, v3, v4"].map Dexas.assembledWords =
    [none, none, none, none, none] := by decide

/-- R217: ADDMIN v1, v2, v3 is a base form, whose C is D; with one source it is no form. -/
theorem test_dexas_base : ["ADDMIN v1, v2, v3", "ADDMIN v1, v2"].map Dexas.assembledWords = [some [0x07008103], none] := by decide

/-- R63, R211: the header of a kernel, its defaults, and its handler's offset. -/
theorem test_dexas_header : ((Dexas.assembleText 0x10000 ".kernel k, handler=h\n.window 3, 0x12\n.team pair, 6, spread\nIADD v4, v5, v9\nEXIT\nh: SREG hv0, TRAPCAUSE\n.endk".toList).toOption.bind
    fun im => Machine.Header.parse (im.bytes.take 32)) =
    some ⟨0x10020, 32, 1, 2, 16, 6, 0, 0, 0, 8, [0xFFF, 0xFFF, 0xFFF, 0x12, 0xFFF, 0xFFF, 0xFFF, 0xFFF]⟩ := by decide

/-- R450: data sections begin at 64 KiB boundaries, and a label as an immediate is its image offset. -/
theorem test_dexas_sections : (Dexas.assembleText 0 ".kernel k\nMOV v1, t\nEXIT\n.endk\n.data\nu: .half 1\n.rodata\n.word 1\nt: .word 2".toList).toOption.map (·.labels) =
    some [("k".toList, 0), ("t".toList, 65540), ("u".toList, 131072)] := by decide

/-- Rejections by name (R199, R203, R212): OP 0x00, a reserved type, a MOV literal beyond 32 bits, a pair with both destinations in bank 0. -/
theorem test_decode_rejects : [[0x00000000], [0x40820300, 0x08000011, 0], [0x8F838000, 0x12345678, 1], [0x7F000000, 0x02100204, 0x02080204]].map (fun ws =>
      match decode ws with | .error c => some c | .ok _ => none) =
    [some .illegalOp, some .illegalField, some .illegalField, some .illegalPair] := by decide

/-! ### Single steps: results that the spec states -/

/-- R217's example: IADD.sat.i8 of 112 and 32, and without .sat; the PC moves past the 12 bytes. -/
theorem test_iadd_sat : (ran [0x40808101, 0x03000002, 0] [(2, 0x70), (3, 0x20)]).map (fun h => (h.reg 1, h.pc)) = some (0x7F, 12) := by decide
theorem test_iadd_wrap : (ran [0x40808100, 0x03000002, 0] [(2, 0x70), (3, 0x20)]).map (·.reg 1) = some 0xFFFFFF90 := by decide

/-- R217's example: ADDMIN.n32 of 0xFFFFFFFF, 2 and 5. -/
theorem test_addmin : (ran [0x47008100, 0x03040008, 0] [(2, 0xFFFFFFFF), (3, 2), (4, 5)]).map (·.reg 1) = some 5 := by decide

/-- R224's example: BFX.i32 and BFX.n32 of 0x00000F00 at length 4, position 8. -/
theorem test_bfx_signed : (ran [0x4C008100, 0x03000004, 0] [(2, 0xF00), (3, 0x408)]).map (·.reg 1) = some 0xFFFFFFFF := by decide
theorem test_bfx_unsigned : (ran [0x4C008100, 0x03000008, 0] [(2, 0xF00), (3, 0x408)]).map (·.reg 1) = some 0xF := by decide

/-- R226's examples. -/
theorem test_bperm : (ran [0x4E808100, 0x03000000, 0] [(2, 0x88442211), (3, 0x8701)]).map (·.reg 1) = some 0x00FF1122 := by decide
theorem test_bperm_positive : (ran [0x4E808100, 0x03000000, 0] [(2, 0x88442211), (3, 0x8401)]).map (·.reg 1) = some 0x00001122 := by decide

/-- R220's table: quotient and remainder. -/
theorem test_divide : [divRem .i32 7 (-2), divRem .i32 (-7) 2, divRem .i32 (-2 ^ 31) (-1), divRem .i32 5 0, divRem .n32 5 0, divRem .i8 (-128) (-1)] =
    [(-3, 1), (-3, -1), (-2 ^ 31, 0), (-1, 5), (2 ^ 32 - 1, 5), (-128, 0)] := by decide

/-- A base form reads C = D (R186): IMAD v1, v2, v3 adds v1; the PC moves past 4 bytes. -/
theorem test_imad_base : (ran [0x02808103] [(1, 100), (2, 6), (3, 7)]).map (fun h => (h.reg 1, h.pc)) = some (142, 4) := by decide

/-- A false guard writes nothing, and the PC still moves (R191): ?!p0 IADD. -/
theorem test_guard_false : (ran [0x40808100, 0x03008004, 0] [(1, 9), (2, 1), (3, 2)]).map (fun h => (h.reg 1, h.pc)) = some (9, 12) := by decide

/-- ICMP.n32 p2, v5, v6, .lt sets p2 (R219). -/
theorem test_icmp : (ran [0x46010280, 0x06020008, 0] [(5, 1), (6, 0xFFFFFFFF)]).map (fun h => (h.pred 2, h.pred 1)) = some (true, false) := by decide

/-- FADD v1, v2, v3 of 1.5 and 2.25; overflow of two largest numbers rounds to infinity and sets OF and NX (R92). -/
theorem test_fadd : (ran [0x10008103] [(2, 0x3FC00000), (3, 0x40100000)]).map (fun h => (h.reg 1, h.fstat)) = some (0x40700000, 0) := by decide
theorem test_fadd_overflow : (ran [0x10008103] [(2, 0x7F7FFFFF), (3, 0x7F7FFFFF)]).map (fun h => (h.reg 1, h.fstat)) = some (0x7F800000, 0x14) := by decide

/-- FMUL v3, v4, 0.5 with the literal of R236. -/
theorem test_fmul_literal : (ran [0x91018200, 0x3F000000, 0] [(4, 0x40400000)]).map (·.reg 3) = some 0x3FC00000 := by decide

/-- R248's examples: CVT.n8.f32 of -0.5 and of -1.5. -/
theorem test_cvt_inexact : (ran [0x5C00810B, 0x00000006, 0] [(1, 7), (2, 0xBF000000)]).map (fun h => (h.reg 1, h.fstat)) = some (0, 0x10) := by decide
theorem test_cvt_invalid : (ran [0x5C00810B, 0x00000006, 0] [(1, 7), (2, 0xBFC00000)]).map (fun h => (h.reg 1, h.fstat)) = some (0, 0x01) := by decide

/-- GCVT.g8.f32 of 3.3 gives 0x5A and NX (R97). -/
theorem test_gcvt : (ran [0x5D00810B, 0x00000010, 0] [(2, 0x40533333)]).map (fun h => (h.reg 1, h.fstat)) = some (0x5A, 0x10) := by decide

/-- BRA of three words back, from PC 0, wraps to -12 (R303). -/
theorem test_bra_back : (ran [0x2C7FFFFD] []).map (·.pc) = some 0xFFFFFFFFFFFFFFF4 := by decide

/-- CALL v60:v61 of +40 words: the link is the address of CALL + 12 (R306). -/
theorem test_call : (ran [0x6D1E0000, 0, 0x28] []).map (fun h => (h.reg 60, h.reg 61, h.pc)) = some (12, 0, 160) := by decide

/-- SREG.w FSTAT writes the flags, SREG reads LANE (R206, R314). -/
theorem test_sreg_write : (ran [0x7D000301, 0, 0xC] [(6, 0x55)]).map (·.fstat) = some 0x55 := by decide
theorem test_sreg_lane : (ran [0x7D020000, 0, 0] [(4, 0xFFFF)]).map (·.reg 4) = some 0 := by decide

/-- TRAP 0x0042 without a handler: the thread exits FAULTED, with it its team, and the context has one record (R315, R340). -/
theorem test_trap_faulted : left [0x7D800000, 0, 0x42] = some (0, some 1) := by decide

/-- EXIT (R311): the last thread's exit ends its team, without a record. -/
theorem test_exit : left [0x2F000000] = some (0, some 0) := by decide

/-- NOP changes nothing except PC (R316). -/
theorem test_nop : (ran [0x3E800000] [(3, 5)]).map (fun h => (h.reg 3, h.pc)) = some (5, 4) := by decide

/-- An instruction word that OP 0x00 makes illegal traps: no handler, so the thread is FAULTED (R199, R203). -/
theorem test_illegal_op : left [0] = some (0, some 1) := by decide

/-- The worked pair of the notes: both halves write, and the PC moves past 12 bytes (R200, R202). -/
theorem test_pair : (ran [0x7F000000, 0x46100204, 0x020A0204] [(1, 0x3F800000), (2, 0x40000000), (8, 0x40400000)]).map (fun h => (h.reg 8, h.reg 5, h.pc)) =
    some (0x40A00000, 0x7F800000, 12) := by decide

/-- R151's example: the home slice of intermediate address 0x123480. -/
theorem test_home_slice : homeSlice 0x123480 = 9 := by decide

/-- The reset state is not held, and its memory is canonical (R435, R440). -/
theorem test_reset_memory : Safety.MemoryCanonical State.reset := by
  show State.reset.mem.mem.wf = true
  decide

/-! ### Witnesses: concrete states and operands that meet the hypotheses of the statements, one for each clause -/

/-- A state in which the group of one thread that State.withFetchWord launches issues. -/
def w0 : State := beginIssue (State.reset.withFetchWord 32 0) firstGroup [] [] 1
/-- Its team and thread. -/
def tm0 : Team := firstTeam 1
def h0 : Thread := State.newThread tm0 firstPart 0 0

theorem witness_IntegerArithmetic : ∃ i op x own f s tm sp act ws, i.row? = some (op, x, own) ∧ integerRule i = some f ∧ Issues s op x tm sp act ws :=
  ⟨.iaddBase 4 5 6, _, _, _, _, w0, tm0, _, [h0], [], rfl, rfl, ⟨rfl, ⟨h0, [], rfl, rfl, rfl⟩, rfl, rfl⟩⟩

theorem witness_BitsAndCompares : ∃ i op x own f s tm sp act ws, i.row? = some (op, x, own) ∧ wordRule x i = some f ∧ Issues s op x tm sp act ws :=
  ⟨.icmp (ext 1 5 6 2 0 .i32 0), _, _, _, _, w0, tm0, _, [h0], [], rfl, rfl, ⟨rfl, ⟨h0, [], rfl, rfl, rfl⟩, rfl, rfl⟩⟩

theorem witness_IeeeAndConversions : ∃ i op x own f s tm sp act ws, i.row? = some (op, x, own) ∧ ieeeRule x i = some f ∧ Issues s op x tm sp act ws :=
  ⟨.faddBase 4 5 6, _, _, _, _, w0, tm0, _, [h0], [], rfl, rfl, ⟨rfl, ⟨h0, [], rfl, rfl, rfl⟩, rfl, rfl⟩⟩

theorem witness_CrossLane : ∃ i op x own s tm sp act ws f, i.row? = some (op, x, own) ∧ groupRule x tm i = some f ∧ Issues s op x tm sp act ws :=
  ⟨.shfl (ext 4 5 6 0 0 .b32 0), _, _, _, w0, tm0, _, [h0], [], _, rfl, rfl, ⟨rfl, ⟨h0, [], rfl, rfl, rfl⟩, rfl, rfl⟩⟩

theorem witness_LongLatencyUnits : ∃ i op x own s tm sp act ws f, i.row? = some (op, x, own) ∧ laterRule x tm i = some f ∧ Issues s op x tm sp act ws ∧ partOf x act ≠ [] :=
  ⟨.idiv (ext 4 5 6 0 0 .i32 0), _, _, _, w0, tm0, _, [h0], [], _, rfl, rfl, ⟨rfl, ⟨h0, [], rfl, rfl, rfl⟩, rfl, rfl⟩, by decide⟩


/-- As w0, with a team that holds a plot of one unit and has private memory. -/
def tm1 : Team := { tm0 with header := { firstHeader with plot := 1, tiles := 4, privw := 16 } }
def plot1 : Plot := ⟨7, 0, firstCore, 1, .heldBy 1, [(0, 0)], []⟩
def w1 : State := { w0 with teams := [tm1], plots := [plot1] }

/-- Goes for the thread of a state like w1. -/
def GoesOn (s : State) (op : Nat) (x : Fields) (tm : Team) : Prop := ∃ sp, Goes s op x tm sp h0 []
def IssuesOn (s : State) (op : Nat) (x : Fields) (tm : Team) : Prop := ∃ sp, Issues s op x tm sp [h0] []

/-- An access of four bytes at address 0 in each space. -/
def ldX (space : Nat) : Fields := ext 4 6 0 0 space .b32 0
def stX (space : Nat) : Fields := ext 0 6 4 0 space .b32 0
def range0 : W64 × W64 × W64 := (0, 0x10000#64, 0x1F#64)

theorem witness_LoadsBegin_global : accessShape (.ld (ldX 0)) = some (0x40, ldX 0, 4, 1) ∧ isLoad (.ld (ldX 0)) = true ∧ partOf (ldX 0) [h0] = [h0] ∧ OpTable.xf (ldX 0) 0 3 = 0 ∧
    ∃ sp, Goes w1 0x40 (ldX 0) tm1 sp h0 [] ∧ ([h0].map fun t => locate w1 tm1 (ldX 0) false 4 (ldX 0).d.toNat (laneOf w1 sp (ldX 0) [] t) []) =
      [Located.global ⟨h0.ref, 0, 0, 4, 4, [], []⟩ range0].map .ok := ⟨rfl, rfl, rfl, rfl, _, ⟨rfl, rfl, rfl, rfl⟩, rfl⟩

theorem witness_LoadsBegin_plot : accessShape (.ld (ldX 1)) = some (0x40, ldX 1, 4, 1) ∧ isLoad (.ld (ldX 1)) = true ∧ partOf (ldX 1) [h0] = [h0] ∧ OpTable.xf (ldX 1) 0 3 = 1 ∧
    (∀ f ∈ plots [.plot h0.ref 0 []], poisonedPlot w1 tm1.id h0.ref.core f.2.1 4 = false) ∧
    ∃ sp, Goes w1 0x40 (ldX 1) tm1 sp h0 [] ∧ ([h0].map fun t => locate w1 tm1 (ldX 1) false 4 (ldX 1).d.toNat (laneOf w1 sp (ldX 1) [] t) []) =
      [Located.plot h0.ref 0 []].map .ok := ⟨rfl, rfl, rfl, rfl, by decide, _, ⟨rfl, rfl, rfl, rfl⟩, rfl⟩

theorem witness_LoadsBegin_private : accessShape (.ld (ldX 2)) = some (0x40, ldX 2, 4, 1) ∧ isLoad (.ld (ldX 2)) = true ∧ partOf (ldX 2) [h0] = [h0] ∧ 2 ≤ OpTable.xf (ldX 2) 0 3 ∧
    ∃ sp, Goes w1 0x40 (ldX 2) tm1 sp h0 [] ∧ ([h0].map fun t => locate w1 tm1 (ldX 2) false 4 (ldX 2).d.toNat (laneOf w1 sp (ldX 2) [] t) []) =
      [Located.priv [⟨h0.ref, 0, 0, 4, 4, [], []⟩]].map .ok := ⟨rfl, rfl, rfl, by decide, _, ⟨rfl, rfl, rfl, rfl⟩, rfl⟩

theorem witness_StoresBegin_global : accessShape (.st (stX 0)) = some (0x41, stX 0, 4, 1) ∧ isLoad (.st (stX 0)) = false ∧ partOf (stX 0) [h0] = [h0] ∧ OpTable.xf (stX 0) 0 3 = 0 ∧
    ∃ sp, Goes w1 0x41 (stX 0) tm1 sp h0 [] ∧ constOperand w1 tm1 { sp with b := .regs 1 } (stX 0) = .words [] ∧
      ([h0].map fun t => locate w1 tm1 (stX 0) true 4 0 (laneOf w1 sp (stX 0) [] t) ((regBytes w1 t 4 1).take 4)) = [Located.global ⟨h0.ref, 0, 0, 4, 0, [0, 0, 0, 0], []⟩ range0].map .ok :=
  ⟨rfl, rfl, rfl, rfl, _, ⟨rfl, rfl, rfl, rfl⟩, rfl, rfl⟩

theorem witness_StoresBegin_plot : accessShape (.st (stX 1)) = some (0x41, stX 1, 4, 1) ∧ isLoad (.st (stX 1)) = false ∧ partOf (stX 1) [h0] = [h0] ∧ OpTable.xf (stX 1) 0 3 = 1 ∧
    ∃ sp, Goes w1 0x41 (stX 1) tm1 sp h0 [] ∧ constOperand w1 tm1 { sp with b := .regs 1 } (stX 1) = .words [] ∧
      ([h0].map fun t => locate w1 tm1 (stX 1) true 4 0 (laneOf w1 sp (stX 1) [] t) ((regBytes w1 t 4 1).take 4)) = [Located.plot h0.ref 0 [0, 0, 0, 0]].map .ok :=
  ⟨rfl, rfl, rfl, rfl, _, ⟨rfl, rfl, rfl, rfl⟩, rfl, rfl⟩

theorem witness_StoresBegin_private : accessShape (.st (stX 2)) = some (0x41, stX 2, 4, 1) ∧ isLoad (.st (stX 2)) = false ∧ partOf (stX 2) [h0] = [h0] ∧ 2 ≤ OpTable.xf (stX 2) 0 3 ∧
    ∃ sp, Goes w1 0x41 (stX 2) tm1 sp h0 [] ∧ constOperand w1 tm1 { sp with b := .regs 1 } (stX 2) = .words [] ∧
      ([h0].map fun t => locate w1 tm1 (stX 2) true 4 0 (laneOf w1 sp (stX 2) [] t) ((regBytes w1 t 4 1).take 4)) = [Located.priv [⟨h0.ref, 0, 0, 4, 0, [0, 0, 0, 0], []⟩]].map .ok :=
  ⟨rfl, rfl, rfl, by decide, _, ⟨rfl, rfl, rfl, rfl⟩, rfl, rfl⟩

/-- The hypotheses of StoreFrames are those of the loads and stores, on a clean core, and a canonical memory. -/
theorem witness_StoreFrames : Clean (w1.core h0.ref.core) ∧ Safety.MemoryCanonical State.reset := ⟨⟨rfl, by decide⟩, by unfold Safety.MemoryCanonical; decide⟩

theorem witness_FenceAndWait_fence : GoesOn w1 0x49 (ext 0 0 0 0 0 .b32 0 .package) tm1 := ⟨_, rfl, rfl, rfl, rfl⟩

/-- WAIT sb1, 0 with slot 1 at 0, and at 1. -/
theorem witness_FenceAndWait_met : GoesOn w1 0x4A (ext 0 0 0 0 0 .b32 1) tm1 ∧ ([h0].all fun t => (List.range 6).all fun k =>
    !((natField 1 0 6).testBit k) || decide (t.slot (k + 1) ≤ natField 1 6 6)) = true := ⟨⟨_, rfl, rfl, rfl, rfl⟩, by decide⟩

def h1 : Thread := { h0 with sb := [1, 0, 0, 0, 0, 0] }
def w2 : State := { w1 with threads := [h1] }

theorem witness_FenceAndWait_held : (∃ sp, Goes w2 0x4A (ext 0 0 0 0 0 .b32 1) tm1 sp h1 []) ∧ ([h1].all fun t => (List.range 6).all fun k =>
    !((natField 1 0 6).testBit k) || decide (t.slot (k + 1) ≤ natField 1 6 6)) = false := ⟨⟨_, rfl, rfl, rfl, rfl⟩, by decide⟩

theorem witness_PlotAndBank : ∃ i x s tm sp act ws p ps op lat st f s', onceShape i = some (x, op, lat, f) ∧ Issues s op x tm sp act ws ∧ partOf x act = p :: ps ∧
    f tm (laneOf s sp x ws p) s = .ok (st, s') :=
  ⟨.bankcfg (ext 4 6 8 0 0 .b32 0), _, w1, tm1, _, [h0], [], h0, [], _, _, _, _, _, rfl, ⟨rfl, ⟨h0, [], rfl, rfl, rfl⟩, rfl, rfl⟩, rfl, rfl⟩
theorem witness_PlotAndBank_open : ∃ i x s tm sp act ws p ps op lat st f s', onceShape i = some (x, op, lat, f) ∧ Issues s op x tm sp act ws ∧ partOf x act = p :: ps ∧
    f tm (laneOf s sp x ws p) s = .ok (st, s') ∧ st = 0 :=
  ⟨.plotOpen (ext 4 6 8 0 0 .b32 0), _, w1, tm1, _, [h0], [], h0, [], _, _, _, _, _, rfl, ⟨rfl, ⟨h0, [], rfl, rfl, rfl⟩, rfl, rfl⟩, rfl, rfl, rfl⟩


theorem witness_PacketsBegin : let x := ext 4 6 0 0 0 .b32 0
    packetShape (.ldp x) = some (0x42, x, .load 0, 4, 1, false) ∧ partOf x [h0] = [h0] ∧ ∃ sp, Goes w1 0x42 x tm1 sp h0 [] ∧
      (lanesOf w1 sp x [] [h0]).map (fun l => windowCheck x l.t x.ty.bytes l.a) = [(firstCore, 0, 0)].map .ok := ⟨rfl, rfl, _, ⟨rfl, rfl, rfl, rfl⟩, rfl⟩
/-- A later moment: every write's time is past. -/
def wL : State := { w1 with clk := { w1.clk with cycle := 1000 } }

theorem witness_PacketsBegin_atomp : let x := ext 4 6 8 0 0 .b32 0 .package
    packetShape (.atomp x) = some (0x47, x, .atomic 0 .nearestEven, 4, 1, true) ∧ partOf x [h0] = [h0] ∧ fencesDone wL tm1 [h0] .package = true ∧
      ∃ sp, Goes wL 0x47 x tm1 sp h0 [] ∧ constOperand wL tm1 sp x = .words [] ∧
      (lanesOf wL sp x [] [h0]).map (fun l => windowCheck x l.t x.ty.bytes l.a) = [(firstCore, 0, 0)].map .ok := ⟨rfl, rfl, by decide, _, ⟨rfl, rfl, rfl, rfl⟩, rfl, rfl⟩

theorem witness_AtomicsBegin_plot : let x := ext 4 6 8 0 0x10 .b32 0
    partOf x [h0] = [h0] ∧ x.scope = .thread ∧ OpTable.xf x 4 2 = 1 ∧ (∀ o ∈ [0], poisonedPlot w1 tm1.id h0.ref.core o x.ty.bytes = false) ∧ ∃ sp, Issues w1 0x46 x tm1 sp [h0] [] ∧
      (lanesOf w1 sp x [] [h0]).map (fun l => plotCheck w1 l.t tm1 true x.ty.bytes (natField l.a.toNat 0 32 + disp32 x)) = [0].map .ok :=
  ⟨rfl, rfl, rfl, by decide, _, ⟨rfl, ⟨h0, [], rfl, rfl, rfl⟩, rfl, rfl⟩, rfl⟩
theorem witness_AtomicsBegin_global : let x := ext 4 6 8 0 0 .b32 0
    partOf x [h0] = [h0] ∧ x.scope = .thread ∧ OpTable.xf x 4 2 ≠ 1 ∧ ∃ sp, Issues w1 0x46 x tm1 sp [h0] [] ∧
      (lanesOf w1 sp x [] [h0]).map (fun l => globalCheck (ctxOf w1 tm1) .atomic x.ty.bytes x.ty.bytes (globalVa x l.a) l.t.lane) = [(0, range0)].map .ok :=
  ⟨rfl, rfl, by decide, _, ⟨rfl, ⟨h0, [], rfl, rfl, rfl⟩, rfl, rfl⟩, rfl⟩

/-- Constant window 0 bound to 64 words at address 0, its first line in the constant cache. -/
def tmK : Team := { tm1 with windows := some (0, 64) :: List.replicate 7 none }
def wK : State := ({ w1 with teams := [tmK] } : State).updCore firstCore fun k => { k with klines := [⟨0, tmK.run, 0, List.replicate 128 0⟩] }

theorem witness_ConstantLoads : let x := ext 4 6 0 0 0 .b32 0
    partOf x [h0] = [h0] ∧ ∃ sp, Goes wK 0x48 x tmK sp h0 [] ∧ [h0].map (fun t => ldkRead wK tmK x (laneOf wK sp x [] t)) = [[0]].map .words :=
  ⟨rfl, _, ⟨rfl, rfl, rfl, rfl⟩, by decide⟩

theorem witness_PrefetchAndCacheControl : partOf (ext 0 6 0 0 0 .b32 0) [h0] = [h0] ∧ GoesOn w1 0x4C (ext 0 6 0 0 0 .b32 0) tm1 ∧
    (GoesOn w1 0x4D (ext 0 0 0 0 0 .b32 0) tm1 ∧ (privStorePending w1 h0.ref.core tm1.ctx fun _ => true) = false) ∧ GoesOn w1 0x4D (ext 0 6 0 0 1 .b32 0) tm1 ∧
    GoesOn w1 0x4D (ext 0 0 0 0 2 .b32 0) tm1 := ⟨rfl, ⟨_, rfl, rfl, rfl, rfl⟩, ⟨⟨_, rfl, rfl, rfl, rfl⟩, rfl⟩, ⟨_, rfl, rfl, rfl, rfl⟩, ⟨_, rfl, rfl, rfl, rfl⟩⟩

theorem witness_Branches : w1.active = [h0] ∧ GroupOf w1 tm1 h0.gref ∧ GoesOn w1 0x58 (ext 0 0 0 0 0 .b32 0xFFFFD) tm1 := ⟨rfl, rfl, _, rfl, rfl, rfl, rfl⟩

theorem witness_JumpsAndReturns : let x := ext 0 8 0 0 0 .b32 0
    (∃ n, jumpShape w1 (.jmp x) = some (0x59, x, n)) ∧ GoesOn w1 0x59 x tm1 ∧ GroupOf w1 tm1 h0.gref ∧ ∀ u ∈ partOf x [h0], (targetOf w1 x u).toNat % 4 = 0 :=
  ⟨⟨_, rfl⟩, ⟨_, rfl, rfl, rfl, rfl⟩, rfl, by decide⟩
/-- A literal target of 2. -/
theorem witness_JumpsAndReturns_misaligned : let x := { ext 0 0 0 0 0 .b32 0 with form := .lit, lit := 2 }
    (∃ n, jumpShape w1 (.jmp x) = some (0x59, x, n)) ∧ GoesOn w1 0x59 x tm1 ∧ GroupOf w1 tm1 h0.gref ∧ ∃ u ∈ partOf x [h0], (targetOf w1 x u).toNat % 4 ≠ 0 :=
  ⟨⟨_, rfl⟩, ⟨_, rfl, rfl, rfl, rfl⟩, rfl, h0, .head _, by decide⟩

theorem witness_Calls : let x := ext 60 8 0 0 1 .b32 0
    (∃ f n, callShape w1 (.callReg x) = some (x, f, n) ∧ ∀ u ∈ partOf x [h0], (f u).toNat % 4 = 0) ∧ GoesOn w1 0x5A x tm1 ∧ GroupOf w1 tm1 h0.gref :=
  ⟨⟨_, _, rfl, by decide⟩, ⟨_, rfl, rfl, rfl, rfl⟩, rfl⟩

theorem witness_Reform : GoesOn w1 0x5C (ext 0 0 0 0 0 .b32 3) tm1 ∧ GroupOf w1 tm1 h0.gref := ⟨⟨_, rfl, rfl, rfl, rfl⟩, rfl⟩

/-- A team whose cancel flag is set. -/
def tmC : Team := { tm1 with cancel := true }
def wC : State := { w1 with teams := [tmC] }

theorem witness_Converge : let x := ext 2 0 0 0 0 .b32 0
    GoesOn w1 0x5D x tm1 ∧ GroupOf w1 tm1 h0.gref ∧ partOf x [h0] = [h0] ∧ holdTransit tm1 h0.ref.core = 0 ∧ tm1.cvgs[x.d.toNat % 16]? = some State.idleCvg ∧
    State.idleCvg.misused (x.xop.getLsbD 0) [h0.ref] = [] ∧ x.xop.getLsbD 0 = false ∧ h0.gref = h0.gref := ⟨⟨_, rfl, rfl, rfl, rfl⟩, rfl, rfl, rfl, rfl, by decide, rfl, rfl⟩
/-- A register that the thread has declared. -/
def cvg1 : Cvg := State.idleCvg.declare [h0.ref]
def tmJ : Team := { tm1 with cvgs := modifyAt (fun _ => cvg1) 2 tm1.cvgs }
def wJ : State := { w1 with teams := [tmJ] }
def tmJC : Team := { tmJ with cancel := true }
def wJC : State := { w1 with teams := [tmJC] }
theorem witness_Converge_join : let x := ext 2 0 0 0 1 .b32 0
    GoesOn wJ 0x5D x tmJ ∧ GroupOf wJ tmJ h0.gref ∧ partOf x [h0] = [h0] ∧ holdTransit tmJ h0.ref.core = 0 ∧ tmJ.cvgs[x.d.toNat % 16]? = some cvg1 ∧
    cvg1.misused (x.xop.getLsbD 0) [h0.ref] = [] ∧ x.xop.getLsbD 0 = true ∧ State.observes tmJ h0 = false := ⟨⟨_, rfl, rfl, rfl, rfl⟩, rfl, rfl, rfl, rfl, by decide, rfl, rfl⟩
theorem witness_Converge_cancelled : let x := ext 2 0 0 0 1 .b32 0
    GoesOn wJC 0x5D x tmJC ∧ GroupOf wJC tmJC h0.gref ∧ partOf x [h0] = [h0] ∧ holdTransit tmJC h0.ref.core = 0 ∧ tmJC.cvgs[x.d.toNat % 16]? = some cvg1 ∧
    cvg1.misused (x.xop.getLsbD 0) [h0.ref] = [] ∧ x.xop.getLsbD 0 = true ∧ State.observes tmJC h0 = true := ⟨⟨_, rfl, rfl, rfl, rfl⟩, rfl, rfl, rfl, rfl, by decide, rfl, rfl⟩

theorem witness_ExitAndYield : let x := ext 0 0 0 0 0 .b32 0
    (exitShape (.exitExtended x) = some x ∧ GoesOn w1 0x5E x tm1) ∧ (yieldShape (.yieldExtended x) = some x ∧ GoesOn w1 0x5F x tm1 ∧ GroupOf w1 tm1 h0.gref) ∧
    (GoesOn wC 0x5F (ext 0 0 0 0 1 .b32 0) tmC ∧ (partOf (ext 0 0 0 0 1 .b32 0) [h0]).any (State.observes tmC) = true) ∧
    (GoesOn w1 0x5F (ext 0 0 0 0 1 .b32 0) tm1 ∧ GroupOf w1 tm1 h0.gref ∧ (partOf (ext 0 0 0 0 1 .b32 0) [h0]).any (State.observes tm1) = false) :=
  ⟨⟨rfl, _, rfl, rfl, rfl, rfl⟩, ⟨rfl, ⟨_, rfl, rfl, rfl, rfl⟩, rfl⟩, ⟨⟨_, rfl, rfl, rfl, rfl⟩, rfl⟩, ⟨⟨_, rfl, rfl, rfl, rfl⟩, rfl, rfl⟩⟩

theorem witness_TrapAndNop : GoesOn w1 0x7B (ext 0 0 0 0 0 .b32 0x42) tm1 ∧ GoesOn w1 0x7B (ext 0 0 0 0 1 .b32 0) tm1 ∧
    nopShape (.nopExtended (ext 0 0 0 0 0 .b32 0)) = some (ext 0 0 0 0 0 .b32 0) ∧ GoesOn w1 0x7D (ext 0 0 0 0 0 .b32 0) tm1 ∧ GroupOf w1 tm1 h0.gref :=
  ⟨⟨_, rfl, rfl, rfl, rfl⟩, ⟨_, rfl, rfl, rfl, rfl⟩, rfl, ⟨_, rfl, rfl, rfl, rfl⟩, rfl⟩

theorem witness_TeamRegisters : GoesOn w1 0x56 (ext 4 63 0 0 0 .b32 0) tm1 ∧ holdTransit tm1 h0.ref.core = 0 ∧ OpTable.xf (ext 4 63 0 0 0 .b32 0) 0 1 = 0 ∧
    GoesOn w1 0x56 (ext 63 4 0 0 1 .b32 0) tm1 ∧ (partOf (ext 63 4 0 0 1 .b32 0) [h0]).getLast? = some h0 := ⟨⟨_, rfl, rfl, rfl, rfl⟩, rfl, rfl, ⟨_, rfl, rfl, rfl, rfl⟩, rfl⟩


/-- A thread with registers set, its state, and Goes and Issues for it. -/
def hR (rs : List (Nat × W32)) : Thread := rs.foldl (fun h r => h.setReg r.1 r.2) h0
def wR (rs : List (Nat × W32)) (tm : Team) : State := { w1 with threads := [hR rs], teams := [tm] }
def GoesAs (s : State) (op : Nat) (x : Fields) (tm : Team) (h : Thread) : Prop := ∃ sp, Goes s op x tm sp h []
def IssuesAs (s : State) (op : Nat) (x : Fields) (tm : Team) (h : Thread) : Prop := ∃ sp, Issues s op x tm sp [h] []

/-- A pool of two slots, the first bound to h0, a tile of g8 with one row and eight columns, which thread 0 holds; the second free. -/
def tileA : Tile := ⟨.g8, 1, 8, List.replicate 8 0⟩
def slots2 : List TileSlot := [⟨0, 0, 0, .pool 1, true, false, [], tileA⟩, ⟨0, 0, 1, .pool 1, false, false, [], tileA⟩]
def tmT : Team := { tm1 with handles := ⟨.held firstCore 0, 0⟩ :: ⟨.given firstCore 0, 0⟩ :: List.replicate 30 ⟨.empty, 0⟩ }
def hT : Thread := hR [(6, 0x00070010), (4, 0)]
def wT : State := { wR [(6, 0x00070010), (4, 0)] tmT with tile := { w1.tile with slots := slots2 } }

theorem witness_TileHandles_alloc : let x := ext 2 0 6 0 0 .b32 0
    ∃ sp t k, Goes wT 0x60 x tmT sp hT [] ∧ partOf x [hT] = [hT] ∧ (tileCtx wT x tmT sp [hT] hT [] 2).hs.state = .empty ∧
      tileOfShape (wordB (tileCtx wT x tmT sp [hT] hT [] 2)) = some t ∧ freePoolSlot wT tmT.id hT.ref.core = some k := ⟨_, _, _, ⟨rfl, rfl, rfl, rfl⟩, rfl, rfl, rfl, rfl⟩
theorem witness_TileHandles_free : ∃ sp, Goes wT 0x61 (ext 0 0 0 0 0 .b32 0) tmT sp hT [] ∧ (tileCtx wT (ext 0 0 0 0 0 .b32 0) tmT sp [hT] hT [] 0).holds = true :=
  ⟨_, ⟨rfl, rfl, rfl, rfl⟩, by decide⟩
theorem witness_TileHandles_give : let x := ext 0 0 4 0 0 .b32 0
    ∃ sp t, Goes wT 0x62 x tmT sp hT [] ∧ (tileCtx wT x tmT sp [hT] hT [] 0).holds = true ∧ receiver wT tmT hT.ref.core (wordB (tileCtx wT x tmT sp [hT] hT [] 0)) = some t :=
  ⟨_, _, ⟨rfl, rfl, rfl, rfl⟩, by decide, rfl⟩
theorem witness_TileHandles_take : let x := ext 0 1 4 0 0 .b32 0
    ∃ sp t, Goes wT 0x63 x tmT sp hT [] ∧ natField (wordB (tileCtx wT x tmT sp [hT] hT [] 1)).toNat 1 31 = 0 ∧
      givenAmong (tileCtx wT x tmT sp [hT] hT [] 1).hs.state ([hT].map (·.ref)) = some t := ⟨_, _, ⟨rfl, rfl, rfl, rfl⟩, by decide, rfl⟩
theorem witness_TileHandles_stat : GoesAs wT 0x6A (ext 4 1 0 0 0 .b32 0) tmT hT := ⟨_, rfl, rfl, rfl, rfl⟩

theorem witness_TileTransfers_global : let x := ext 0 4 0 0 0 .g8 0
    ∃ sp ia r, Goes wT 0x64 x tmT sp hT [] ∧ Goes wT 0x65 x tmT sp hT [] ∧ (let c := tileCtx wT x tmT sp [hT] hT [] 0
      wT.tileOf c = some tileA ∧ c.holds = true ∧ globalCheck (ctxOf wT tmT) .read tileA.size 16 (globalVa x c.low.a) hT.lane = .ok (ia, r) ∧
      globalCheck (ctxOf wT tmT) .write tileA.size 16 (globalVa x c.low.a) hT.lane = .ok (ia, r)) :=
  ⟨_, _, _, ⟨rfl, rfl, rfl, rfl⟩, ⟨rfl, rfl, rfl, rfl⟩, rfl, by decide, rfl, rfl⟩
theorem witness_TileTransfers_plot : let x := ext 0 4 0 0 1 .g8 0
    ∃ sp q, Goes wT 0x64 x tmT sp hT [] ∧ Goes wT 0x65 x tmT sp hT [] ∧ wT.plotOf tmT.id hT.ref.core = some q ∧ 0 + tileA.size ≤ q.size ∧
      writerRefuses wT q tmT.id 0 tileA.size = false ∧ poisonedPlot wT tmT.id hT.ref.core 0 tileA.size = false ∧
      (let c := tileCtx wT x tmT sp [hT] hT [] 0; wT.tileOf c = some tileA ∧ c.holds = true ∧ (natField c.low.a.toNat 0 32 + disp32 x : Int) = 0) :=
  ⟨_, _, ⟨rfl, rfl, rfl, rfl⟩, ⟨rfl, rfl, rfl, rfl⟩, rfl, by decide, by decide, by decide, rfl, by decide, by decide⟩
theorem witness_TileTransfers_fragments :
    (∃ sp, Goes wT 0x66 (ext 5 0 4 0 0 .g8 0) tmT sp hT [] ∧ (let c := tileCtx wT (ext 5 0 4 0 0 .g8 0) tmT sp [hT] hT [] 0; wT.tileOf c = some tileA ∧ c.holds = true ∧
      ∀ l ∈ c.part, (coordinate tileA (l.b.setWidth 32)).isSome = true)) ∧
    (∃ sp, Goes wT 0x67 (ext 0 5 4 0 0 .g8 0) tmT sp hT [] ∧ (let c := tileCtx wT (ext 0 5 4 0 0 .g8 0) tmT sp [hT] hT [] 0; wT.tileOf c = some tileA ∧ c.holds = true ∧
      ∀ l ∈ c.part, (coordinate tileA (l.b.setWidth 32)).isSome = true)) :=
  ⟨⟨_, ⟨rfl, rfl, rfl, rfl⟩, rfl, by decide, by decide⟩, ⟨_, ⟨rfl, rfl, rfl, rfl⟩, rfl, by decide, by decide⟩⟩


/-- Both handles bound to tiles of g8 of eight rows and columns that thread 0 holds; an engine that gives context 0 a place. -/
def tileB : Tile := ⟨.g8, 8, 8, List.replicate 64 0⟩
def slotsM : List TileSlot := [⟨0, 0, 0, .pool 1, true, false, [], tileB⟩, ⟨0, 0, 1, .pool 1, true, false, [], tileB⟩]
def tmM : Team := { tm1 with handles := ⟨.held firstCore 0, 0⟩ :: ⟨.held firstCore 0, 1⟩ :: List.replicate 30 ⟨.empty, 0⟩ }
def hM : Thread := hR [(6, 0x00840000)]
def wM : State := { wR [(6, 0x00840000)] tmM with tile := { w1.tile with slots := slotsM } }

theorem witness_MatrixInstructions_mma : let x := ext 6 0 1 0 0 .b32 0
    ∃ sp r, Goes wM 0x68 x tmM sp hM [] ∧ partOf x [hM] = [hM] ∧ wM.mmaCheck tmM ([hM].map fun u => (u.ref, voteOf x wM u)) = .ok r ∧
      (wM.freeEntry hM.ref.core.die hM.ref.core.site tmM.ctx).isSome = true := ⟨_, _, ⟨rfl, rfl, rfl, rfl⟩, rfl, rfl, by decide⟩
/-- As these, with convergence register 2 declared by the thread. -/
def tmS : Team := { tmM with cvgs := modifyAt (fun _ => cvg1) 2 tmM.cvgs }
def wS : State := { wM with teams := [tmS] }
theorem witness_MatrixInstructions_sign : let x := ext 6 0 1 2 2 .b32 0
    ∃ sp, Goes wS 0x68 x tmS sp hM [] ∧ State.observes tmS hM = false ∧ holdTransit tmS hM.ref.core = 0 ∧ tmS.cvgs[x.c.toNat % 16]? = some cvg1 ∧
      cvg1.misused true ([hM].map (·.ref)) = [] := ⟨_, ⟨rfl, rfl, rfl, rfl⟩, by decide, rfl, rfl, by decide⟩
theorem witness_MatrixInstructions_macc : ∃ sp, Goes wM 0x69 (ext 4 7 0 0 2 .b32 0) tmM sp hM [] ∧ (∀ l ∈ lanesOf wM sp (ext 4 7 0 0 2 .b32 0) [] [hM], natField l.a.toNat 12 20 = 0) :=
  ⟨_, ⟨rfl, rfl, rfl, rfl⟩, by decide⟩

/-- SILT reads a block of 32 bytes at address 0 and writes a status; with XOP bit 2 it counts in barrier 5. -/
theorem witness_EngineCommandsBegin : let x := ext 4 8 0 0 0 .b32 0
    ∃ sp, engineShape w1 tm1 ([h0].map (·.ref)) (.silt x) = some (0x74, x, .silt, (fun _ => 32), 32) ∧ Issues w1 0x74 x tm1 sp [h0] [] ∧ partOf x [h0] = [h0] ∧
      (lanesOf w1 sp x [] [h0]).map (fun l => globalCheck (ctxOf w1 tm1) .read 32 32 (State.blockVa x l) l.t.lane) = [(0, range0)].map .ok ∧ x.xop.getLsbD 2 = false ∧
      w1.queueFull (cmdOf w1 0x74 x .silt tm1 h0 (lanesOf w1 sp x [] [h0]) []) = false :=
  ⟨_, rfl, ⟨rfl, ⟨h0, [], rfl, rfl, rfl⟩, rfl, rfl⟩, rfl, rfl, rfl, by decide⟩
theorem witness_EngineCommandsCount : let x := ext 4 8 0 5 4 .b32 0
    ∃ sp, engineShape w1 tm1 ([h0].map (·.ref)) (.silt x) = some (0x74, x, .silt, (fun _ => 32), 32) ∧ Issues w1 0x74 x tm1 sp [h0] [] ∧ partOf x [h0] = [h0] ∧
      (lanesOf w1 sp x [] [h0]).map (fun l => globalCheck (ctxOf w1 tm1) .read 32 32 (State.blockVa x l) l.t.lane) = [(0, range0)].map .ok ∧ x.xop.getLsbD 2 = true ∧
      w1.queueFull (cmdOf w1 0x74 x .silt tm1 h0 (lanesOf w1 sp x [] [h0]) []) = false ∧ w1.waitsFor ([h0].map (·.ref)) false [(0, 32)] = [] ∧
      w1.countedBytes tm1 0x74 ([h0].map (·.ref)) ((lanesOf w1 sp x [] [h0]).map (State.blockVa x)) = .ok [32] ∧ (w1.barrier tm1.ctx 5).pend + 32 < 2 ^ 32 :=
  ⟨_, rfl, ⟨rfl, ⟨h0, [], rfl, rfl, rfl⟩, rfl, rfl⟩, rfl, rfl, rfl, by decide, rfl, rfl, by decide⟩

/-- A policy record's team, and its draw, with two priorities. -/
def draw9 : Draw := { id := 9, cmd := 0, lane := 0, block := 0, bytes := [], ctx := 0, phase := .policyRuns, t0 := 0, n := 0, prio := [1, 2], entries := [], waves := [], waveNo := 0, blocked := none }
def tmP : Team := { tm1 with policy := some (0, 9) }
def dieP : Render := { Render.reset with blocks := [draw9] }
def wP : State := { w1 with teams := [tmP], render := [dieP, Render.reset] }
theorem witness_PrioritiesPostsCancels_sxpri : ∃ sp, Issues wP 0x73 (ext 0 8 9 0 0 .b32 0) tmP sp [h0] [] ∧ tmP.policy = some (0, 9) ∧ wP.die 0 = some dieP ∧
    dieP.blocks.find? (fun b => b.id == 9) = some draw9 ∧ ∀ l ∈ lanesOf wP sp (ext 0 8 9 0 0 .b32 0) [] (partOf (ext 0 8 9 0 0 .b32 0) [h0]), natField l.a.toNat 0 32 < draw9.prio.length :=
  ⟨_, ⟨rfl, ⟨h0, [], rfl, rfl, rfl⟩, rfl, rfl⟩, rfl, rfl, rfl, by decide⟩
theorem witness_PrioritiesPostsCancels_cancel : GoesOn w1 0x76 (ext 0 8 0 0 0 .b32 0) tm1 := ⟨_, rfl, rfl, rfl, rfl⟩
/-- As w1, with an entry of the root table that maps the first gibibyte where it is. -/
def wG : State := { w1 with mem := { w1.mem with mem := ⟨[(7, 0xFC)]⟩ } }
theorem witness_PrioritiesPostsCancels_enq : let x := ext 4 8 0 0 0 .b32 64
    ∃ sp code, Goes wG 0x75 x tm1 sp h0 [] ∧ partOf x [h0] = [h0] ∧
      (lanesOf wG sp x [] [h0]).map (fun l => globalCheck (ctxOf wG tm1) .read 64 64 (State.blockVa x l) l.t.lane) = [(64, range0)].map .ok ∧ fencesDone wG tm1 [h0] x.scope = true ∧
      ((begun wG [h0] [h0] x x.d.toNat 1).postLanes tm1 [(laneOf wG sp x [] h0, 64, 64)]).2 = [(laneOf wG sp x [] h0, 64, 64, .inr code)] :=
  ⟨_, 4, ⟨rfl, rfl, rfl, rfl⟩, rfl, rfl, by decide, rfl⟩


/-- STAGE: ring 0 not set up; a ring of one free stage; one owned by the thread, to be released; a full one. -/
def tmG (q : List Stage) : Team := { tm1 with rings := modifyAt (fun _ => ⟨q, 0, 0, [], []⟩) 0 tm1.rings }
def wQ (q : List Stage) : State := { wR [(9, 1)] (tmG q) with clk := { w1.clk with cycle := 1000 } }
def stX9 (stop : Nat) : Fields := ext (if stop = 1 ∨ stop = 2 then 4 else 0) 0 (if stop = 1 ∨ stop = 2 then 0 else 9) 0 stop .b32 0
def metOf (q : List Stage) (stop b : Nat) : StageMet :=
  ((wQ q).beginStage (stX9 stop) [h0.ref]).2.stageEvent (tmG q) stop 0 b ⟨w1.clk.nextId, [h0.ref], (stX9 stop).d.toNat, h0.handler, (stX9 stop).set.toNat⟩
def stageMeets (i : Instr) (q : List Stage) (stop : Nat) : Prop :=
  stageShape i = some (stX9 stop, stop) ∧ OpTable.xf (stX9 stop) 0 3 = stop ∧ IssuesAs (wQ q) 0x77 (stX9 stop) (tmG q) (hR [(9, 1)]) ∧ partOf (stX9 stop) [hR [(9, 1)]] = [hR [(9, 1)]] ∧
    holdTransit (tmG q) h0.ref.core = 0 ∧ State.observes (tmG q) (hR [(9, 1)]) = false ∧ fencesDone (wQ q) (tmG q) [hR [(9, 1)]] .thread = true
theorem witness_Stages_done : stageMeets (.stageInit (stX9 0)) [] 0 ∧ (∃ d s, metOf [] 0 1 = .done d s) ∧
    stageMeets (.stageAcqp (stX9 1)) [⟨false, none⟩] 1 ∧ (∃ d s, metOf [⟨false, none⟩] 1 0 = .done d s) ∧
    stageMeets (.stageAcqc (stX9 2)) [⟨true, none⟩] 2 ∧ (∃ d s, metOf [⟨true, none⟩] 2 0 = .done d s) :=
  ⟨⟨rfl, rfl, ⟨_, rfl, ⟨_, [], rfl, rfl, rfl⟩, rfl, rfl⟩, rfl, rfl, rfl, by decide⟩, ⟨_, _, rfl⟩, ⟨rfl, rfl, ⟨_, rfl, ⟨_, [], rfl, rfl, rfl⟩, rfl, rfl⟩, rfl, rfl, rfl, by decide⟩, ⟨_, _, rfl⟩,
   ⟨rfl, rfl, ⟨_, rfl, ⟨_, [], rfl, rfl, rfl⟩, rfl, rfl⟩, rfl, rfl, rfl, by decide⟩, ⟨_, _, rfl⟩⟩
theorem witness_Stages_release :
    stageMeets (.stageRelp (stX9 3)) [⟨false, none⟩, ⟨false, some (0, 0)⟩] 3 ∧ (∃ d s, metOf [⟨false, none⟩, ⟨false, some (0, 0)⟩] 3 1 = .done d s) ∧
    stageMeets (.stageRelc (stX9 4)) [⟨false, none⟩, ⟨true, some (0, 0)⟩] 4 ∧ (∃ d s, metOf [⟨false, none⟩, ⟨true, some (0, 0)⟩] 4 1 = .done d s) :=
  ⟨⟨rfl, rfl, ⟨_, rfl, ⟨_, [], rfl, rfl, rfl⟩, rfl, rfl⟩, rfl, rfl, rfl, by decide⟩, ⟨_, _, rfl⟩, ⟨rfl, rfl, ⟨_, rfl, ⟨_, [], rfl, rfl, rfl⟩, rfl, rfl⟩, rfl, rfl, rfl, by decide⟩, ⟨_, _, rfl⟩⟩
theorem witness_Stages_waits : stageMeets (.stageAcqc (stX9 2)) [⟨false, none⟩] 2 ∧ ∃ s, metOf [⟨false, none⟩] 2 0 = .waits s :=
  ⟨⟨rfl, rfl, ⟨_, rfl, ⟨_, [], rfl, rfl, rfl⟩, rfl, rfl⟩, rfl, rfl, rfl, by decide⟩, _, rfl⟩
theorem witness_Stages_misuse : stageMeets (.stageAcqp (stX9 1)) [] 1 ∧ metOf [] 1 0 = .misuse :=
  ⟨⟨rfl, rfl, ⟨_, rfl, ⟨_, [], rfl, rfl, rfl⟩, rfl, rfl⟩, rfl, rfl, rfl, by decide⟩, rfl⟩

/-- BAR.init with one party; and an arrival of one thread at a barrier of two. -/
theorem witness_Barriers_init : let x := ext 0 4 0 5 1 .b32 0
    ∃ sp, Goes (wR [(4, 1)] tm1) 0x78 x tm1 sp (hR [(4, 1)]) [] ∧ partOf x [hR [(4, 1)]] = [hR [(4, 1)]] ∧
      natField (natField (laneOf (wR [(4, 1)] tm1) sp x [] (hR [(4, 1)])).a.toNat 0 32) 0 20 ≠ 0 ∧ natField (natField (laneOf (wR [(4, 1)] tm1) sp x [] (hR [(4, 1)])).a.toNat 0 32) 20 12 = 0 ∧
      ((wR [(4, 1)] tm1).barrier tm1.ctx 5).arr = 0 ∧ ((wR [(4, 1)] tm1).barrier tm1.ctx 5).pend = 0 := ⟨_, ⟨rfl, rfl, rfl, rfl⟩, rfl, by decide, by decide, rfl, rfl⟩
def bar2 : Barrier := ⟨2, .die, 0, 0, 0, 0, 0, 0, [], [], 0, 0, false, false, false⟩
def wB : State := ({ w1 with clk := { w1.clk with cycle := 1000 } } : State).updBarrier 0 5 fun _ => bar2
theorem witness_Barriers_arrive : let x := ext 0 4 0 5 0 .b32 0
    GoesOn wB 0x78 x tm1 ∧ partOf x [h0] = [h0] ∧ State.observes tm1 h0 = false ∧ fencesDone wB tm1 [h0] .thread = true ∧ wB.barrier tm1.ctx 5 = bar2 ∧
      bar2.broken = false ∧ 0 < bar2.p ∧ bar2.arr + bar2.dep + 1 ≤ bar2.p := ⟨⟨_, rfl, rfl, rfl, rfl⟩, rfl, rfl, by decide, rfl, rfl, by decide, by decide⟩

/-- MOVQ to core 0 of the sender's own cluster by destination register 1, and MOVQ.recv. -/
def wMq : State := { w1 with ctxs := modifyAt (fun c => { c with mqdest := c.mqdest.set 1 0xC000000000000001 }) 0 w1.ctxs }
theorem witness_MessageQueues : (GoesOn wMq 0x79 (ext 1 8 0 0 0 .b32 0) tm1 ∧ wMq.destinations tm1.ctx h0.ref.core 1 = some ([firstCore], 0)) ∧
    GoesOn w1 0x79 (ext 8 1 0 0 1 .b32 0) tm1 := ⟨⟨⟨_, rfl, rfl, rfl, rfl⟩, rfl⟩, _, rfl, rfl, rfl, rfl⟩

/-- SREG of LANE, of FSTAT and CHRONO, and writes of SIEVEAGE, FSTAT and LANE. -/
theorem witness_SpecialRegisters : GoesOn w1 0x7A (ext 4 0 0 0 0 .b32 0) tm1 ∧ (GoesOn w1 0x7A (ext 4 0 0 0 0 .b32 0xC) tm1 ∧ flagsPending w1 h0.ref = false) ∧
    (GoesOn w1 0x7A (ext 0 6 0 0 1 .b32 0xB) tm1 ∧ (partOf (ext 0 6 0 0 1 .b32 0xB) [h0]).getLast? = some h0) ∧ GoesOn w1 0x7A (ext 0 6 0 0 1 .b32 0xC) tm1 ∧
    GoesOn w1 0x7A (ext 0 6 0 0 1 .b32 0) tm1 :=
  ⟨⟨_, rfl, rfl, rfl, rfl⟩, ⟨⟨_, rfl, rfl, rfl, rfl⟩, rfl⟩, ⟨⟨_, rfl, rfl, rfl, rfl⟩, rfl⟩, ⟨_, rfl, rfl, rfl, rfl⟩, ⟨_, rfl, rfl, rfl, rfl⟩⟩

/-- A context with CTXCTL.SUP, and context 1 enabled in the core's shadow bank; a selector of memory die 2. -/
def wV : State := ({ wR [(6, 1), (8, 0x200)] tm1 with ctxs := modifyAt (fun c => { c with ctl := 1 }) 1 (modifyAt (fun c => { c with ctl := 3 }) 0 w1.ctxs) } : State).updCore firstCore fun k => { k with shadow := some 1 }
def hV : Thread := hR [(6, 1), (8, 0x200)]
theorem witness_SupervisorAccess : (let x := ext 4 8 0 0 0 .b64 0x100
    ∃ sp, supShape (.sysRdsup x) = some (x, false) ∧ Goes wV 0x7C x tm1 sp hV [] ∧ partOf x [hV] = [hV] ∧ (∀ l ∈ lanesOf wV sp x [] [hV], badSocket (natField x.low.toNat 0 12) l.a = false)) ∧
    (let x := ext 0 8 10 0 1 .b64 0x200
    ∃ sp, supShape (.sysWrsup x) = some (x, true) ∧ Goes wV 0x7C x tm1 sp hV [] ∧ partOf x [hV] = [hV] ∧ (∀ l ∈ lanesOf wV sp x [] [hV], badSocket (natField x.low.toNat 0 12) l.a = false)) ∧
    (∀ r ∈ wV.mem.results, r.id ≠ wV.clk.nextId + 1) :=
  ⟨⟨_, rfl, ⟨rfl, rfl, rfl, rfl⟩, rfl, by decide⟩, ⟨_, rfl, ⟨rfl, rfl, rfl, rfl⟩, rfl, by decide⟩, by decide⟩
theorem witness_SupervisorCalls_swap : (let x := ext 4 10 6 0 2 .b32 0
    ∃ sp, Issues wV 0x7C x tm1 sp [hV] [] ∧ partOf x [hV] = [hV] ∧ swapStatus wV (natField (laneOf wV sp x [] hV).a.toNat 0 32) (natField (laneOf wV sp x [] hV).b.toNat 0 32) firstCore = 0) ∧
    (let x := ext 4 10 10 0 2 .b32 0
    ∃ sp, Issues wV 0x7C x tm1 sp [hV] [] ∧ partOf x [hV] = [hV] ∧ swapStatus wV (natField (laneOf wV sp x [] hV).a.toNat 0 32) (natField (laneOf wV sp x [] hV).b.toNat 0 32) firstCore = 1) :=
  ⟨⟨_, ⟨rfl, ⟨_, [], rfl, rfl, rfl⟩, rfl, rfl⟩, rfl, rfl⟩, ⟨_, ⟨rfl, ⟨_, [], rfl, rfl, rfl⟩, rfl, rfl⟩, rfl, rfl⟩⟩
theorem witness_SupervisorCalls_shoot : IssuesAs wV 0x7C (ext 4 10 6 0 3 .b32 0) tm1 hV ∧ ∀ r ∈ wV.mem.results, r.id ≠ wV.clk.nextId + 1 := ⟨⟨_, rfl, ⟨_, [], rfl, rfl, rfl⟩, rfl, rfl⟩, by decide⟩
/-- A thread in handler mode returns to the address 0 of the pair v10. -/
def hH : Thread := { h0 with handler := true }
def wH : State := { w1 with threads := [hH] }
theorem witness_SupervisorCalls_tret : let x := ext 0 10 0 0 4 .b32 0
    ∃ sp, Issues wH 0x7C x tm1 sp [hH] [] ∧ partOf x [hH] = [hH] ∧ (∀ u ∈ [hH], ∀ n ∈ u.sb, n = 0) ∧ (∀ l ∈ lanesOf wH sp x [] [hH], l.a.toNat % 4 = 0) ∧ GroupOf wH tm1 hH.gref :=
  ⟨_, ⟨rfl, ⟨_, [], rfl, rfl, rfl⟩, rfl, rfl⟩, rfl, by decide, by decide, rfl⟩

/-- PAIR FFMA v8, v1, v2 with IADD v5, v1, v2, in a state whose one thread is active; and in one whose kernel has 32 registers, with a first half that names v40. -/
def half0 : Half := ⟨0x23, 8, 1, 2⟩
def half1 : Half := ⟨0x01, 5, 1, 2⟩
theorem witness_Pairs : ∃ sp0 sp1, w1.active = [h0] ∧ w1.team h0.team = some tm1 ∧ halvesLegal half0 half1 = true ∧ opSpec 0x23 (halfFields .always half0) = some sp0 ∧
    opSpec 0x01 (halfFields .always half1) = some sp1 ∧ boundsOk sp0 (halfFields .always half0) h0.handler tm1 = true ∧ boundsOk sp1 (halfFields .always half1) h0.handler tm1 = true ∧
    ∀ v ∈ w1.threads, ([h0].map (·.ref)).contains v.ref = true → v ∈ [h0] := ⟨_, _, rfl, rfl, rfl, rfl, rfl, rfl, rfl, fun _ hv _ => hv⟩
def tmV : Team := { tm1 with header := { tm1.header with vregs := 32 } }
def wVr : State := { w1 with teams := [tmV] }
theorem witness_Pairs_bounds : let k : Half := ⟨0x23, 40, 1, 2⟩
    ∃ sp0 sp1, wVr.active = [h0] ∧ wVr.team h0.team = some tmV ∧ halvesLegal k half1 = true ∧ opSpec 0x23 (halfFields .always k) = some sp0 ∧
      opSpec 0x01 (halfFields .always half1) = some sp1 ∧ boundsOk sp0 (halfFields .always k) h0.handler tmV = false := ⟨_, _, rfl, rfl, rfl, rfl, rfl, rfl⟩


/-- A request for four bytes at address 0, travelling to its home, and its state; a packet to the window 0 of the first core. -/
def reqK (k : ReqKind) : Request :=
  { id := 90, op := 80, core := firstCore, ctx := 0, group := none, pc := 0, set := 1, handler := false, kind := k, route := .home, ty := .b32, va := 0, ia := 0, frame := 0, perms := 0xF
    parts := [⟨h0.ref, 0, 4, 4, [1, 2, 3, 4], [0, 0, 0, 0], []⟩], stage := .travelling, line := List.replicate 128 0, old := [], w := 0, leaseEnd := 0, flags := 0, poison := false }
def wReq (r : Request) : State := { wG with mem := { wG.mem with requests := [r] } }
theorem witness_HomesPerform_load : AtHome (wReq (reqK (.load 1))) (reqK (.load 1)) true := ⟨rfl, rfl, rfl, rfl, by decide, by decide⟩
theorem witness_HomesPerform_store : AtHome (wReq (reqK .store)) (reqK .store) false ∧ (wReq (reqK .store)).earlierWrite (reqK .store) = false :=
  ⟨⟨rfl, rfl, rfl, rfl, by decide, by decide⟩, by decide⟩
theorem witness_HomesPerform_writeBack : AtHome (wReq (reqK .writeBack)) (reqK .writeBack) false ∧ (wReq (reqK .writeBack)).earlierWrite (reqK .writeBack) = false :=
  ⟨⟨rfl, rfl, rfl, rfl, by decide, by decide⟩, by decide⟩
theorem witness_HomesPerform_atomic : AtHome (wReq (reqK (.atomic 0 .nearestEven))) (reqK (.atomic 0 .nearestEven)) true ∧
    (wReq (reqK (.atomic 0 .nearestEven))).earlierWrite (reqK (.atomic 0 .nearestEven)) = false := ⟨⟨rfl, rfl, rfl, rfl, by decide, by decide⟩, by decide⟩

def packetK (k : ReqKind) : Request := { reqK k with route := .packet firstCore 0 0 }
def window0 : PlotWindow := ⟨0, 1, 7, 0, none⟩
def wPk (r : Request) : State := (wReq r).updCore firstCore fun k => { k with windows := [window0] }
theorem witness_PacketsAndReturns_packet (k : ReqKind) (h : k = .store ∨ k = .load 0 ∨ k = .atomic 0 .nearestEven) :
    AtPlot (wPk (packetK k)) (packetK k) firstCore 0 0 ⟨h0.ref, 0, 4, 4, [1, 2, 3, 4], [0, 0, 0, 0], []⟩ [] window0 plot1 ∧ (wPk (packetK k)).replaying 0 = false := by
  obtain rfl | rfl | rfl := h <;> exact ⟨⟨rfl, rfl, rfl, rfl, rfl, rfl, rfl, nofun, by decide⟩, by decide⟩
theorem witness_PacketsAndReturns_return : let r := { reqK (.load 0) with stage := .performed }; (wReq r).request r.id = some r ∧ r.stage = .performed ∧ r.kind = .load 0 := ⟨rfl, rfl, rfl⟩
theorem witness_PacketsAndReturns_ack : let r := { reqK .store with stage := .performed }; (wReq r).request r.id = some r ∧ r.stage = .performed ∧ r.kind = .store ∧ r.route = .home := ⟨rfl, rfl, rfl, rfl⟩

/-- A walk that waits with a request's answer, and one of a fetch whose page is absent. -/
def walk3 (who : WalkFor) : Walk := ⟨3, firstCore, 0, 0, 0, .read, who, false⟩
def wWalk (s : State) (who : WalkFor) : State := { s with mem := { s.mem with walks := [walk3 who], requests := [{ reqK (.load 0) with stage := .walking 3 }] } }
theorem witness_WalksAndFences_passes : let s := wWalk wG .requests
    (s.mem.walks.find? fun v => v.id == 3) = some (walk3 .requests) ∧ (∃ e, s.walkVerdict (walk3 .requests) = .ok e) ∧ (walk3 .requests).stale = false ∧ s.walkOp 3 = some 80 := ⟨rfl, ⟨_, rfl⟩, rfl, rfl⟩
theorem witness_WalksAndFences_fails : let s := wWalk w1 (.fetch h0.gref 0 [h0.ref])
    (s.mem.walks.find? fun v => v.id == 3) = some (walk3 (.fetch h0.gref 0 [h0.ref])) ∧ ∃ c, s.walkVerdict (walk3 (.fetch h0.gref 0 [h0.ref])) = .error (c, false) := ⟨rfl, _, rfl⟩
def hF : Thread := { h0 with fence := some .package }
def wF : State := { wL with threads := [hF] }
theorem witness_WalksAndFences_fence : wF.thread hF.ref = some hF ∧ hF.fence = some .package ∧ wF.team hF.team = some tm1 ∧ fenceDone wF tm1 hF .package = true := ⟨rfl, rfl, rfl, by decide⟩

/-- A result of one register and one predicate for the thread, in slot 1. -/
def result5 : Result := ⟨5, 5, 1, false, [⟨h0.ref, 4, [7], some (2, true), 0x10⟩], [h0.ref], none, [], 0, none, [], [], [], false, true, true, []⟩
def wRes : State := { w2 with mem := { w2.mem with results := [result5] } }
theorem witness_LongLatencyResults : (wRes.mem.results.find? fun q => q.id == 5) = some result5 ∧ result5.held = none ∧ result5.waits = [] ∧ result5.pages = [] ∧ result5.sups = [] ∧
    (result5.lanes.filter fun l => l.t == h1.ref).length = 1 ∧ h1.exited = false ∧ h1.dying = none := ⟨rfl, rfl, rfl, rfl, rfl, rfl, rfl, rfl⟩

/-- A ring with a full stage, for which the thread waits; a barrier whose only party has arrived; a handle given to a waiting thread; a flit
that has arrived. -/
def tmA : Team := { tm1 with rings := modifyAt (fun _ => ⟨[⟨true, none⟩], 0, 0, [], [⟨6, [h0.ref], 4, false, 1⟩]⟩) 0 tm1.rings }
def wA : State := { w1 with teams := [tmA] }
theorem witness_Grants_stage : ∃ tm g a t, wA.grantable 1 0 true = some (tm, g, a, t) := ⟨_, _, _, _, rfl⟩
def barN : Barrier := ⟨1, .die, 1, 0, 0, 0, 0, 0, [1], [h0.ref], 0, 0, false, false, false⟩
theorem witness_Grants_barrier : let s := (wL.updBarrier 0 5 fun _ => barN); s.barrierDone (s.barrier 0 5) = true := by decide
def wTk : State := { wT with threads := [{ hT with status := .waiting (.handle 1 5) }] }
theorem witness_Grants_take : ∃ team n res, takeable wTk hT.ref = some (team, n, res) := ⟨_, _, _, rfl⟩
def flit4 : Flit := ⟨4, 4, List.replicate 16 1, firstCore, 0, 0, firstCore, 0, none⟩
def wFl : State := { w1 with mem := { w1.mem with flits := [flit4] } }
theorem witness_Grants_message : (wFl.mem.flits.find? fun g => g.id == 4) = some flit4 ∧ ((wFl.mem.flits.takeWhile fun g => g.id != 4).any fun g => g.sender == flit4.sender && g.ctx == flit4.ctx && g.dest == flit4.dest) = false ∧
    (wFl.enterQueue flit4).isSome = true ∧ (∃ s1 s2, wFl.logFlit flit4 = .now s1 ∧ s1.enterQueue flit4 = some s2) :=
  ⟨rfl, rfl, rfl, _, _, rfl, rfl⟩


/-- A matrix operation on the two tiles of wM, with an entry, ten cycles after its vote; and its state. -/
def mmaOp (entry : Option Nat) (kdim : Nat) : MmaOp :=
  { id := 50, ctx := 0, die := 0, site := 0, team := 1, prio := 0, realTime := false, format := 0x00840000, clr := false, slotA := 0, slotB := 1, useA := 51, useB := 52, kdim := kdim
    pass := 0, age := 0, saturated := none, entry := entry, voters := [(h0.ref, 1, false)], group := none, voted := 0, cvg := none }
def wOp (o : MmaOp) : State := { wM with clk := { wM.clk with cycle := 10 }, tile := { wM.tile with ops := [o], slots := slotsM.map fun t => { t with uses := [(51 + t.slot, false)] } } }
def engineIn (s : State) (g : Option (Nat × Bool)) : State := s.updEngine 0 0 fun e => { e with granted := g }
theorem witness_MatrixEngine_drain : let t : TileSlot := ⟨0, 0, 0, .pool 1, true, true, [], tileB⟩
    let s : State := { wM with tile := { wM.tile with slots := [t] } }
    s.tileSlot 0 0 0 = some t ∧ t.drains = true ∧ t.uses = [] ∧ t.owner = .pool 1 ∧ (s.team 1).isSome = true := ⟨rfl, rfl, rfl, rfl, rfl⟩
theorem witness_MatrixEngine_accept : let o := mmaOp none 8
    ((wOp o).tile.ops.find? fun q => q.id == o.id) = some o ∧ o.entry = none ∧ o.voted + 8 ≤ (wOp o).clk.cycle ∧ (wOp o).freeEntry o.die o.site o.ctx = some 0 := ⟨rfl, rfl, by decide, rfl⟩
theorem witness_MatrixEngine_grant : ((wOp (mmaOp (some 0) 8)).engineOf 0 0).granted = none ∧ (wOp (mmaOp (some 0) 8)).nextPass 0 0 = some (mmaOp (some 0) 8, 0) := ⟨rfl, rfl⟩
theorem witness_MatrixEngine_gone : ((engineIn wM (some (50, true))).engineOf 0 0).granted = some (50, true) ∧ ((engineIn wM (some (50, true))).tile.ops.find? fun o => o.id == 50) = none := ⟨rfl, rfl⟩
theorem witness_MatrixEngine_pass : let o := mmaOp (some 0) 32
    let s := engineIn (wOp o) (some (50, true))
    (s.engineOf 0 0).granted = some (o.id, true) ∧ (s.tile.ops.find? fun q => q.id == o.id) = some o ∧ (s.tileSlot 0 0 o.slotA).isSome = true ∧ (s.tileSlot 0 0 o.slotB).isSome = true ∧
      o.pass + 1 < State.passesOf o := ⟨rfl, rfl, rfl, rfl, by decide⟩

/-- A steward with permits in store and a request of each class. -/
def reqP : PermitReq := ⟨.pass 0 0, 16, 0, false, 0⟩
def stewardP : Steward := { Steward.reset with main := 20000, reserve := 20000, rt := [reqP], other := [reqP] }
def wSt : State := { w1 with pkg := { w1.pkg with stewards := [stewardP, Steward.reset] } }
theorem witness_PowerAndResets_steward : wSt.steward 0 = some stewardP ∧ (∃ q w, stewardP.grant = some (q, w)) ∧ 94 < wSt.pkg.record.tShut :=
  ⟨rfl, ⟨reqP, { stewardP with rt := [], reserve := 3616 }, by decide⟩, by decide⟩
theorem witness_PowerAndResets_reset : resetCause .powerOnReset = some 0 ∧ resetCause .resetGo = some 1 ∧ resetCause (.tshut 1) = some 2 ∧ State.reset.pkg.bootFaults = [] :=
  ⟨rfl, rfl, rfl, rfl⟩

/-- A flash copy whose header is not intact. Whether a copy's signature verifies is a free value, so no state shows one that does. -/
theorem witness_PowerAndResets_copies : ({ State.reset.pkg.flashA with headerOk := false } : FlashCopy).failsAt ≠ 0 := by decide

/-- A COPY of 8192 elements of sixteen bytes within the plot: two parts. A TRACE of two lanes. -/
def cmd70 (k : CmdKind) (lanes : List CmdLane) : Cmd :=
  { id := 70, op := 0x70, core := firstCore, ctx := 0, team := 1, wide := false, remote := [], set := 1, handler := false, kind := k, lanes := lanes, acq := false, rel := false, scope := .thread, barrier := none, counted := 0
    ewmax := 0, parts := 0, realTime := false, begun := true, ended := false, blocked := none, after := [], acked := 0, dues := [] }
def lane70 (done : Bool) : CmdLane := ⟨h0.ref, 4, 0, 0, none, done, 0, [], 0, false⟩
def desc70 : CopyDesc := ⟨0, 0, 1, 1, 16, [(8192, 0, 0)]⟩
def cmdC : Cmd := cmd70 (.copy (some desc70)) [lane70 false]
def wCmd (c : Cmd) : State := { w1 with mem := { w1.mem with cmds := [c] } }
theorem desc70_place (e : Nat) : desc70.place e = (0, 0) := by simp [desc70, CopyDesc.place]
theorem desc70_gather (es : List Nat) : ∃ bytes, (wCmd cmdC).copyGather cmdC desc70 es = .ok (bytes, wCmd cmdC) := by
  have one (e : Nat) : (wCmd cmdC).copyRead cmdC desc70 e = .ok (plot1.read 0 16, wCmd cmdC) := by
    have hp : (wCmd cmdC).plotOf cmdC.team cmdC.core = some plot1 := rfl
    have hq : (wCmd cmdC).plotPoisoned plot1 0 16 = false := by decide
    simp only [State.copyRead, desc70_place]
    rw [if_neg (by decide), hp]
    simp [desc70, hq, show plot1.size = 4096 from rfl]
  induction es with
  | nil => exact ⟨_, rfl⟩
  | cons e es ih => obtain ⟨bs, h⟩ := ih; simp only [State.copyGather, one, h]; exact ⟨_, rfl⟩
theorem desc70_targets (es : List Nat) : ∃ ts, (wCmd cmdC).copyTargets cmdC desc70 es = .ok ts := by
  have one (e : Nat) : (wCmd cmdC).copyTarget cmdC desc70 e = .ok (0, true) := by
    have hp : (wCmd cmdC).plotOf cmdC.team cmdC.core = some plot1 := rfl
    have hq : writerRefuses (wCmd cmdC) plot1 cmdC.team 0 16 = false := by decide
    simp only [State.copyTarget, desc70_place]
    rw [if_neg (by decide), hp]
    simp [desc70, hq, show plot1.size = 4096 from rfl]
  induction es with
  | nil => exact ⟨_, rfl⟩
  | cons e es ih => obtain ⟨ts, h⟩ := ih; simp only [State.copyTargets, one, h]; exact ⟨_, rfl⟩
theorem witness_CommandsGoOn_copy : (wCmd cmdC).cmd cmdC.id = some cmdC ∧ (wCmd cmdC).ctxDead cmdC.ctx = false ∧ State.cmdLane cmdC = some (0, lane70 false) ∧
    (∃ bytes targets s1 s2 w acked, (wCmd cmdC).copyGather cmdC desc70 (desc70.part cmdC.parts) = .ok (bytes, s1) ∧ s1.copyTargets cmdC desc70 (desc70.part cmdC.parts) = .ok targets ∧
      s1.copyScatter cmdC 0 0 (targets.zip bytes) = (s2, w, acked)) ∧ cmdC.parts + 1 < desc70.parts := by
  obtain ⟨bytes, h⟩ := desc70_gather (desc70.part cmdC.parts)
  obtain ⟨ts, h'⟩ := desc70_targets (desc70.part cmdC.parts)
  exact ⟨rfl, rfl, rfl, ⟨bytes, ts, _, _, _, _, h, h', rfl⟩, by decide⟩
theorem witness_CommandsGoOn_trace : let c := cmd70 .trace [lane70 false, lane70 false]
    (wCmd c).cmd c.id = some c ∧ (wCmd c).ctxDead c.ctx = false ∧ c.lanes[0]? = some (lane70 false) ∧ (lane70 false).done = false ∧ (lane70 false).gone = false ∧ (lane70 false).out = [] ∧ (wCmd c).cmdTimed c = false ∧
      ∃ m, m ≠ 0 ∧ (c.lanes[m]?).map (·.done) = some false := ⟨rfl, rfl, rfl, rfl, rfl, rfl, rfl, 1, by decide, rfl⟩
theorem witness_CommandsGoOn_complete : let c := { cmd70 .trace [lane70 true] with ended := true }
    let s : State := { wCmd c with clk := { w1.clk with cycle := 1000 } }
    s.cmd c.id = some c ∧ s.ctxDead c.ctx = false ∧ c.ended = true ∧ (s.settleParts c).writesOver c c.ewmax c.acked = true := ⟨rfl, rfl, rfl, by decide⟩
theorem witness_CommandsGoOn_parts : (wCmd cmdC).cmd cmdC.id = some cmdC ∧ (wCmd cmdC).ctxDead cmdC.ctx = false ∧ cmdC.ended = false := ⟨rfl, rfl, rfl⟩

/-- A bin of the core's Sieve with sixteen threads; one with one thread filed long ago. -/
def binOf (ts : List (Nat × Nat)) : Bin := ⟨0, 0, 1, 0, 0, ts⟩
def wBin (cycle : Nat) (ts : List (Nat × Nat)) : State := ({ w1 with clk := { w1.clk with cycle := cycle } } : State).updCore firstCore fun k =>
  { k with bins := [binOf ts], positions := List.replicate 8 none, pending := [] }
theorem witness_SieveAndGroups_draw : ∃ b cls n, (wBin 1000 ((List.range 16).map fun k => (k, 0))).nextDraw firstCore = some (b, cls, n) ∧ cls ≠ 4 := ⟨_, _, _, rfl, by decide⟩
theorem witness_SieveAndGroups_age : ∃ b n, (wBin 100000 [(0, 0)]).nextDraw firstCore = some (b, 4, n) := ⟨_, _, rfl⟩
def wRf : State := { w1 with groups := w1.groups.map fun g => { g with counter := 4096 } }
theorem witness_SieveAndGroups_reform : ∃ k, wRf.group h0.gref = some k ∧ 4096 ≤ k.counter := ⟨_, rfl, by decide⟩
def hC : Thread := { h0 with status := .waiting (.barrier 5) }
def wCw : State := { wC with threads := [hC] }
theorem witness_SieveAndGroups_cancel : wCw.thread hC.ref = some hC ∧ cancelledWaiter wCw hC = true := ⟨rfl, rfl⟩


/-! Cores -/
def wCore (cycle : Nat) (f : Core → Core) : State := ({ w1 with clk := { w1.clk with cycle := cycle } } : State).updCore firstCore f
theorem witness_CoreHappenings_displace : let s := wCore 256 fun k => { k with pending := [(1, some 0)] }
    displaces s (s.core firstCore) = true ∧ ∃ p, oldestPosition (s.core firstCore) = some p := ⟨by decide, _, rfl⟩
/-- A bank that changes to PLOT, before and after its lines are dropped, and one that changes to CACHE. -/
theorem witness_CoreHappenings_bank : ∀ ch ∈ [(⟨3, 1, false⟩ : BankChange), ⟨3, 0, false⟩, ⟨3, 1, true⟩],
    (((wCore 0 fun k => { k with changes := [ch] }).core firstCore).changes.find? fun b => b.bank == ch.bank) = some ch := by decide
def swapOf (spill : Bool) (u : Option Nat) : State := wCore 10 fun k => { k with swap := some ⟨1, spill, u⟩ }
theorem witness_CoreHappenings_swap :
    (((swapOf true none).core firstCore).swap = some ⟨1, true, none⟩ ∧ (swapOf true none).spillWaits firstCore 1 = false) ∧
    (((swapOf true (some 10)).core firstCore).swap = some ⟨1, true, some 10⟩ ∧ 10 ≤ (swapOf true (some 10)).clk.cycle ∧ (swapOf true (some 10)).spillWaits firstCore 1 = false) ∧
    ((swapOf false none).core firstCore).swap = some ⟨1, false, none⟩ ∧
    (((swapOf false (some 10)).core firstCore).swap = some ⟨1, false, some 10⟩ ∧ 10 ≤ (swapOf false (some 10)).clk.cycle) :=
  ⟨⟨rfl, by decide⟩, ⟨rfl, by decide, by decide⟩, rfl, rfl, by decide⟩

/-! Contexts -/
def wCtx (f : Context → Context) : State := { w1 with ctxs := modifyAt f 0 w1.ctxs }
theorem witness_ContextHappenings_ctl : (∃ c, w1.ctx 0 = some c) ∧ (∃ v, ctlShape w1 (.contextEnable 0) = some (0, v)) ∧ (∃ v, ctlShape w1 (.contextHalt 0) = some (0, v)) ∧
    (∃ v, ctlShape w1 (.logEnable 0) = some (0, v)) ∧ ∃ v, ctlShape w1 (.deadClear 0) = some (0, v) := ⟨⟨_, rfl⟩, ⟨_, rfl⟩, ⟨_, rfl⟩, ⟨_, rfl⟩, _, rfl⟩
theorem witness_ContextHappenings_watchdog : let s := wCtx fun c => { c with watchdog := 2 ^ 28 }
    (∃ c, s.ctx 0 = some c ∧ watchdogTicks s ≤ c.watchdog) ∧ watchdogRests s 0 = false ∧ s.ctxDead 0 = false :=
  ⟨⟨_, rfl, by decide⟩, rfl, rfl⟩
theorem witness_ContextHappenings_drain : let s := wCtx fun c => { c with ctl := 0xC0 }; s.ctxDrain 0 = true ∧ tagged s 0 = false := ⟨rfl, rfl⟩
theorem witness_ContextHappenings_record : let s := wCtx fun c => { c with frWait := [List.replicate 32 1] }
    ∃ c, s.ctx 0 = some c ∧ c.frWait = [List.replicate 32 1] ∧ State.ringFull c = false := ⟨_, rfl, rfl, by decide⟩
theorem witness_ContextHappenings_credit : let s := wCtx fun c => { c with retiring := [7] }
    ∃ c, s.ctx 0 = some c ∧ c.retiring = [7] ∧ c.credits.length < Config.creditEntries := ⟨_, rfl, rfl, by decide⟩

theorem witness_ContextHappenings_retire : let r := { (firstRun 1).record with tag := 7, dep := 2 }
    let s := wCtx fun c => { c with retiring := [7], queue := [r] }
    ∃ c, s.ctx 0 = some c ∧ c.retiring = [7] ∧ leastBy (·.seq) (c.queue.filter fun r => r.tag == 7 && decide (0 < r.dep)) = some r := ⟨_, rfl, rfl, by decide⟩

/-! Records -/
def rec1 (marked : Bool) : Record := { (firstRun 1).record with marked := marked }
def wQu (marked : Bool) : State := { wCtx (fun c => { c with queue := [rec1 marked] }) with runs := [] }
/-- A queue of one record, marked or not, on a device with one enabled cluster. -/
def wQr (marked : Bool) : State := { wQu marked with threads := [], groups := [], teams := [], plots := [], pkg := { (wQu marked).pkg with record := { (wQu marked).pkg.record with clusen := [1, 0] } } }
theorem witness_PostsAndPlacement_dequeue : ∀ marked ∈ [true, false], (wQr marked).dieOk 0 = true ∧ (wQr marked).headOrder.find? (headDiffers (wQr marked)) = none ∧
    ((wQr marked).headOrder.find? fun h => dropsHead (wQr marked) h || ((wQr marked).goesTo h 0).isSome) = some (.queued 0 (rec1 marked)) ∧ ((wQr marked).ctx 0).isSome = true := by decide +kernel
def run2 : Run := { firstRun 1 with placed := 0, record := { (firstRun 1).record with tcount := 2 } }
def wRun : State := { w1 with runs := [run2], threads := [], groups := [], teams := [], plots := [], pkg := { w1.pkg with record := { w1.pkg.record with clusen := [1, 0] } } }
theorem witness_PostsAndPlacement_place : wRun.dieOk 0 = true ∧ ∃ r ps,
    (wRun.headOrder.findSome? fun h => match h with | .running r => (wRun.goesTo h 0).map fun ps => (r, ps) | .queued _ _ => none) = some (r, ps) :=
  ⟨rfl, run2, [⟨firstCore, 0, 1, [0]⟩], by set_option maxRecDepth 100000 in decide⟩
/-- A record of one team of one thread with its header at address 64; its first seven doublewords in the buffer of hart 3. -/
def recB : List Byte := 64 :: List.replicate 33 0 ++ 1 :: List.replicate 29 0
def wPo : State := { wG with mem := { wG.mem with mem := ⟨[(7, 0xFC), (72, 1)]⟩ } }
def seqB (n : Nat) : PostBuffer := ⟨3, 0, 64, (List.range n).map fun k => (k, BitVec.ofNat 64 k)⟩
def wSeq (n : Nat) : State := { wPo with pkg := { wPo.pkg with posts := [seqB n] } }
theorem witness_PostsAndPlacement_record : recB.length = 64 ∧ wPo.ctxEn 0 = true ∧ sequenceOf wPo 0 0 = none ∧
    sequenceOf { wPo with pkg := { wPo.pkg with posts := [⟨0, 0, 64, []⟩] } } 0 0 = some ⟨0, 0, 64, []⟩ := ⟨rfl, rfl, rfl, rfl⟩
theorem witness_PostsAndPlacement_sequence : (sequenceOf wPo 3 0 = none ∧ ∀ n ∈ [2, 7], sequenceOf (wSeq n) 3 0 = some (seqB n)) ∧ (seqB 2).offset = (⟨3, 0, 72 / 64 * 64, []⟩ : PostBuffer).offset ∧
    (seqB 2).words.length < 7 ∧ (∀ w ∈ (seqB 2).words, w.1 ≠ (64 + 8 * 2) % 64 / 8) ∧ 7 ≤ (seqB 7).words.length ∧ (∀ w ∈ (seqB 7).words, w.1 ≠ (64 + 8 * 7) % 64 / 8) ∧
    (∃ w ∈ (seqB 2).words, w.1 = 72 % 64 / 8) ∧ (seqB 2).offset ≠ 128 / 64 * 64 := by decide
theorem witness_PostsAndPlacement_host : inAperture 0xF000020000040 = true ∧ State.blockOf 0xF000020000040 = some (.queue 0 64) := by decide
theorem wPo_accepts : (wPo.validate 0 recB .program).isOk = true := by decide
theorem witness_PostsAndPlacement_post : wPo.ctx 0 = some (firstContext Context.reset) ∧ (∃ r s1, wPo.validate 0 recB .program = .ok (r, s1)) ∧
    ∃ c, wPo.validate 0 (List.replicate 64 1) .program = .error c ∧ c ≠ 3 := by
  refine ⟨rfl, ?_, 2, rfl, by decide⟩
  cases h : wPo.validate 0 recB .program with
  | error c => have := wPo_accepts; rw [h] at this; cases this
  | ok p => exact ⟨p.1, p.2, rfl⟩

/-! Moves and the security block -/
def move1 (promotion : Option Nat) (abandon : Bool) : Move := ⟨0, 2 ^ 21, 0, promotion, 0, [], abandon, false, []⟩
def wMv (bound : Nat) (m : Option Move) : State := wG.updMemDie 0 fun d => { d with move := m, bound := bound, busy := m.isSome }
theorem witness_MovesAndSecurity_abandon : let s := wMv 512 (some (move1 (some 0) true))
    ∃ d, s.memDie 0 = some d ∧ d.move = some (move1 (some 0) true) ∧ d.bound = 512 := ⟨_, rfl, rfl, rfl⟩
/-- A table whose 32 entries of the first 2 MiB map one frame. -/
def wPr : State := { w1 with mem := { w1.mem with mem := ⟨(2, 0x02) :: (7, 0x80) :: (List.range 32).map fun k => (0x20007 + 8 * k, 0x9E)⟩, dies := modifyAt (fun d => { d with promEn := true, frames := [0] }) 0 w1.mem.dies } }
/-- MIGCTL.START: of a page of another die; with a move under way; of a page in a large one; to a disabled channel; and one that begins. -/
theorem witness_MovesAndSecurity_start :
    (∃ d, (wMv 0 none).memDie 1 = some d ∧ walkingDie (natField d.migPage.toNat 16 36 * 2 ^ 16) ≠ 1) ∧
    (∃ d, (wMv 0 (some (move1 none false))).memDie 0 = some d ∧ walkingDie (natField d.migPage.toNat 16 36 * 2 ^ 16) = 0 ∧ d.move.isSome = true) ∧
    (∃ d, (wMv 0 none).memDie 0 = some d ∧ d.move = none ∧ (wMv 0 none).smallEntry (natField d.migPage.toNat 16 36 * 2 ^ 16) = none) :=
  ⟨⟨_, rfl, by decide⟩, ⟨_, rfl, rfl, rfl⟩, _, rfl, rfl, rfl⟩
theorem witness_MovesAndSecurity_startFrame : ∃ d, wPr.memDie 0 = some d ∧ natField d.migPage.toNat 16 36 * 2 ^ 16 = 0 ∧ natField d.migFrame.toNat 16 22 * 2 ^ 16 = 0 ∧ walkingDie 0 = 0 ∧ d.move = none ∧
    (∃ at' v, wPr.smallEntry 0 = some (at', v)) ∧ wPr.channelOn (State.channelOf 0) = true ∧
    ({ wPr with pkg := { wPr.pkg with record := { wPr.pkg.record with chanen := 0 } } } : State).channelOn (State.channelOf 0) = false :=
  ⟨_, rfl, rfl, rfl, rfl, rfl, ⟨_, _, rfl⟩, rfl, rfl⟩
theorem witness_MovesAndSecurity_lines : (∃ d, (wMv 510 (some (move1 none false))).memDie 0 = some d ∧ d.move = some (move1 none false) ∧ (move1 none false).closing = false ∧ d.bound < 511) ∧
    (∃ d, (wMv 511 (some (move1 none false))).memDie 0 = some d ∧ d.move = some (move1 none false) ∧ d.bound = 511 ∧ (move1 none false).promotion = none) ∧
    homeDie ((move1 none false).oldFrame + 128 * 510) = homeDie ((move1 none false).frame + 128 * 510) := ⟨⟨_, rfl, rfl, rfl, by decide⟩, ⟨_, rfl, rfl, rfl, rfl⟩, rfl⟩
theorem witness_MovesAndSecurity_promotes : ∃ d at' v, Promotes wPr 0 0 0 15 d ∧ wPr.smallEntry (0 * 2 ^ 21) = some (at', v) := by
  refine ⟨_, _, _, ⟨rfl, rfl, rfl, rfl, rfl, ?_, rfl⟩, rfl⟩
  intro j hj
  exact ⟨(wPr.smallEntry (0 * 2 ^ 21 + j * 2 ^ 16)).getD (0, 0), by revert j; decide⟩
/-- The security block: a report under way whose buffer can be written, is not mapped, or ends past the address space; none under way, with the same buffers. -/
def wSe (s : State) (st : Nat) (buf : W64) : State := { s with pkg := { s.pkg with secStat := st, secBuf := buf } }
theorem witness_MovesAndSecurity_security : (∀ st ∈ [0, 1], (wSe wG st 0x400).pkg.secStat = st ∧ secAt (wSe wG st 0x400) + 704 ≤ 2 ^ 51) ∧
    (∃ bs s1, (wSe wG 0 0x400).homeBytes .read (State.unitSpans (secAt (wSe wG 0 0x400)) 32) = .ok (bs, s1)) ∧
    (∃ c, (wSe w1 0 0x400).homeBytes .read (State.unitSpans (secAt (wSe w1 0 0x400)) 32) = .error c) ∧
    2 ^ 51 < secAt (wSe wG 1 0x7FFFFFFFFFFC0) + 704 ∧ (wSe wG 1 0x400).homeWritable .write (State.unitSpans (secAt (wSe wG 1 0x400)) 704) = none ∧
    ∃ c, (wSe w1 1 0x400).homeWritable .write (State.unitSpans (secAt (wSe w1 1 0x400)) 704) = some c := ⟨by decide, ⟨_, _, rfl⟩, ⟨_, rfl⟩, by decide, by decide, _, rfl⟩

/-- A view of 128 × 32 pixels, its Kiln enabled with a lead of 100 ticks; scan-out with lines of one tick, 34 to a sweep. -/
def dieD (f : Render → Render) : Render := f { Render.reset with view := 0x00200080, kctl := 0x8000000000000064 }
def wD (cycle : Nat) (sweeping : Bool) (f : Render → Render) : State :=
  { wG with clk := { wG.clk with cycle := cycle }, pkg := { wG.pkg with dmode := 0x8000002200000001, sweeping := sweeping }, render := [dieD f, Render.reset] }
theorem witness_RenderHappenings_boundary : ∀ sweeping ∈ [false, true], let s := wD 1000 sweeping id
    s.scanning = true ∧ s.pkg.dstart.toNat + (if s.pkg.sweeping = true then natField s.pkg.dmode.toNat 32 13 * natField s.pkg.dmode.toNat 0 20 else 0) ≤ s.tick := by decide
/-- DMODE values that can be taken, with EN clear and set, and one with ticks too short; a die that scans and one that does not. -/
theorem witness_RenderHappenings_dmode : ((0x1000002200000064#64 : W64) &&& (maskBits 63 58 ||| maskBits 44 32 ||| maskBits 19 0) = 0x1000002200000064#64 ∧
      (0x9000002200000064#64 : W64) &&& (maskBits 63 58 ||| maskBits 44 32 ||| maskBits 19 0) = 0x9000002200000064#64) ∧
    (natField 0x1000002200000064 0 20 = 100 ∧ natField 0x1000002200000064 32 13 = 34 ∧ natField 0x1000002200000064 58 2 = 0 ∧ natField 0x1000002200000064 60 2 = 1) ∧
    (∀ r ∈ (wD 0 true id).render, State.viewHeight r ≤ 34) ∧ natField 99 0 20 < 100 ∧ (wD 0 true id).scanning = true ∧ w1.scanning = false :=
  ⟨⟨by decide, by decide⟩, ⟨rfl, rfl, rfl, rfl⟩, by decide, by decide, rfl, rfl⟩
theorem witness_RenderHappenings_snapshot : ∃ r k, (wD 0 true id).die 0 = some r ∧ r.snaps[1]? = some k := ⟨_, _, rfl, rfl⟩
/-- A band for which a record has come to each of its states, and one without a record. -/
def rBd (st : Option BandState) : Render := dieD fun r => { r with nextLit := 1, bands := (st.map fun k => ⟨0, 1, k, 16, [], true⟩).toList }
def wBd (st : Option BandState) : State := wD 1000 true fun _ => rBd st
theorem witness_RenderHappenings_lights : ∀ st ∈ [none, some .retired, some .posted, some .failed, some (.missed 3)], (wBd st).die 0 = some (rBd st) ∧ (rBd st).nextLit = 1 ∧ (wBd st).scanning = true ∧
    (wBd st).pkg.sweeping = true ∧ (wBd st).dieOk 0 = true ∧ State.viewWidth (rBd st) ≠ 0 ∧ 1 < State.viewBands (rBd st) ∧ (wBd st).bandTick 0 1 ≤ (wBd st).tick ∧
    ((rBd st).bands.find? fun (k : Band) => k.sweep == (rBd st).sweep && k.band == 1).map (fun (k : Band) => k.state) = st := by decide
theorem witness_RenderHappenings_opens : ∃ r p, (wD 0 true fun r => { r with nextGather := (0, 1) }).opens 0 = some (r, p) := ⟨_, _, rfl⟩
def gather1 (done : Bool) : Gather := ⟨0, 1, 0, 16, 0, true, done, 0, [], 0⟩
set_option maxRecDepth 100000 in
theorem witness_RenderHappenings_gather : let s := wD 0 true fun r => { r with nextGather := (5, 0), gathers := [gather1 false] }
    s.opens 0 = none ∧ ∃ r k g, s.gatherDue 0 = some (r, k, g) := ⟨rfl, _, _, _, rfl⟩
/-- A gathered band's post: without scan-out, without a page for its descriptor, with a range that cannot be read, with a header that asks for no tile, and with one that asks for one, whose record is
accepted or, for a cluster that is disabled, rejected. -/
def rBp (site : Nat) : Render := dieD fun r => { r with gathers := [{ gather1 true with site := site }], kdesc := 0xFC0, knode := 64 }
def wBp (cells : List (Nat × Byte)) (rights : W64) (site : Nat) : State :=
  let s := wD 0 true fun _ => rBp site
  { s with mem := { s.mem with mem := ⟨cells⟩ }, ctxs := modifyAt (fun c => { c with ranges := (0, 0x10000, rights) :: c.ranges.drop 1 }) 0 s.ctxs }
def cellsH (tiles : Byte) : List (Nat × Byte) := if tiles = 0 then [(7, 0xFC), (72, 1)] else [(7, 0xFC), (72, 1), (78, tiles)]
/-- The state after the descriptor is written, and the code of the record's post. -/
def written (s : State) (site : Nat) : State := ((s.updDie 0 fun k => { k with gathers := k.gathers.filter fun x => x != { gather1 true with site := site } }).engineWrite 0 0x1000
  (descriptor (rBp site) { gather1 true with site := site })).1
def postsBand (s : State) (site : Nat) : Nat := ((written s site).devicePost 0 (unitPosts 64 0x1000 16 0 0 1 3 0 site) (.band 0 0 1)).1
theorem witness_RenderHappenings_bandPosts : ∀ site ∈ [0, 63], let s := wBp (cellsH 1) 0x1F site
    s.die 0 = some (rBp site) ∧ s.scanning = true ∧ ((rBp site).gathers.find? fun g => g.done) = some { gather1 true with site := site } ∧ (gather1 true).band < State.viewBands (rBp site) := by decide
theorem witness_RenderHappenings_bandWritable : (wBp [] 0x1F 0).engineWritable 0 0x1000 64 = .absent 0x1000 ∧ (wBp (cellsH 1) 0 0).engineWritable 0 0x1000 64 = .cause 0x10 ∧
    (wBp (cellsH 1) 0x1D 0).engineWritable 0 0x1000 64 = .ok 0x1000 ∧ (wBp (cellsH 1) 0x1F 0).engineWritable 0 0x1000 64 = .ok 0x1000 ∧
    (wBp (cellsH 1) 0x1D 0).kilnReaches 0 0x1000 64 = false ∧ (wBp (cellsH 1) 0x1F 0).kilnReaches 0 0x1000 64 = true := by decide +kernel
theorem witness_RenderHappenings_bandCodes : (written (wBp (cellsH 0) 0x1F 0) 0).headerTiles 0 64 = some 0 ∧ (written (wBp (cellsH 1) 0x1F 0) 0).headerTiles 0 64 = some 1 ∧
    postsBand (wBp (cellsH 1) 0x1F 0) 0 = 0 ∧ postsBand (wBp (cellsH 1) 0x1F 63) 63 ≠ 0 := by decide +kernel
/-- Snapshots of no triangle, of one, and of one beside another snapshot whose triangles take more entries than there are. -/
def bigTriangle : List Byte := leBytes 12 0 ++ leBytes 4 0x46000000 ++ leBytes 12 0 ++ leBytes 4 0x46000000 ++ leBytes 16 0
def rBn (count : Nat) : Render := dieD fun r => { r with binning := [(0, 64, count)] }
theorem witness_RenderHappenings_binned : (∀ count ∈ [0, 1], (wD 0 true fun _ => rBn count).die 0 = some (rBn count) ∧ ((rBn count).binning.find? fun b => b.1 == 0) = some (0, 64, count) ∧
      State.snapshotUsed (rBn count) 0 = false ∧ ((match (wD 0 true fun _ => rBn count).engineRead 0 64 (48 * count) with | .ok (bs, _) => some (bs.length, fieldAt bs 40 8) | _ => none) = some (48 * count, 0))) ∧
    (triangleOf (List.replicate 48 0)).isSome = true ∧ 2 ^ 20 < sumBy (tilesOf (dieD fun r => { r with view := 0x1FF01FF0 })) ((List.replicate 5 bigTriangle).filterMap triangleOf) := by decide +kernel
def sample1 : Sample := ⟨1, 2, 3, none, none⟩
/-! A draw's block at address 0x400 of context 0: maps at 0x3000, waves at 0x2000, its shader's header at 64, its priorities at 0x1800. -/
def block9 (policy npos : Nat) : List Byte :=
  leBytes 8 0x3000 ++ leBytes 8 0x2000 ++ leBytes 8 64 ++ leBytes 8 policy ++ leBytes 8 0x1800 ++ leBytes 12 0 ++ leBytes 4 (npos * 2 ^ 13) ++ leBytes 8 0
def drawIn (p : DrawPhase) (policy npos : Nat) : Draw := { draw9 with block := 0x400, bytes := block9 policy npos, phase := p, prio := [5] }
def wDw (b : Draw) : State :=
  let s := wD 1000 true fun r => { r with blocks := [b] }
  ({ s with mem := { s.mem with mem := ⟨[(7, 0xFC), (72, 1)]⟩ } } : State).writeMem 0x400 b.bytes
def rDw (b : Draw) : Render := dieD fun r => { r with blocks := [b] }
/-- With a queue of context 0 that is full. -/
def fullQueue (s : State) : State := { s with ctxs := modifyAt (fun c => { c with queue := List.replicate Config.queueDepth (firstRun 1).record }) 0 s.ctxs }
/-- A draw's start: the block is malformed; the policy record's node; the priorities can be written; the code of the policy record's post after that. -/
def startOf (s : State) (b : Draw) : Option (Bool × Nat × Bool × Nat) :=
  match (awake s 0 b.id).engineRead b.ctx b.block.toNat 64 with
  | .ok (bytes, s1) =>
    let b1 := { b with bytes := bytes, blocked := none }
    match s1.readCells b.ctx ((List.range (b1.cw * b1.ch)).map fun c => b1.maps + 4 * State.viewWidth (rDw b) * (b1.cy0 + c / b1.cw) + 8 * (b1.cx0 + c % b1.cw)) with
    | .ok (es, s2) =>
      let prio := es.map (b1.priority (s2.chrono (State.dieUnit 0)))
      let s3 := s2.updDraw 0 b.id fun k => { k with bytes := bytes, prio := prio, phase := .priorities }
      match s3.engineWritable b.ctx b1.prioBuf (2 * prio.length) with
      | .ok ia =>
        let s4 := (s3.drawWrites { b1 with prio := prio, phase := .priorities } ia (prio.flatMap fun p => leBytes 2 p)).updDraw 0 b.id fun k => { k with phase := .policy }
        some (b1.malformed (rDw b), b1.policyNode, true, (s4.devicePost b.ctx (unitPosts b1.policyNode b.block.toNat 0 b1.prioClass b1.cgroup 0 1 0 0) (.policy 0 b.id)).1)
      | _ => some (b1.malformed (rDw b), b1.policyNode, false, 0)
    | _ => none
  | _ => none
theorem witness_RenderHappenings_drawStarts : (∀ policy ∈ [0, 64], (wDw (drawIn .waiting policy 1)).drawOf 0 = some (rDw (drawIn .waiting policy 1), drawIn .waiting policy 1)) ∧
    (startOf (wDw (drawIn .waiting 64 0)) (drawIn .waiting 64 0)).map (·.1) = some true ∧ (startOf (wDw (drawIn .waiting 0 1)) (drawIn .waiting 0 1)).map (fun p => (p.1, p.2.1)) = some (false, 0) ∧
    startOf (wDw (drawIn .waiting 64 1)) (drawIn .waiting 64 1) = some (false, 64, true, 0) ∧ startOf (fullQueue (wDw (drawIn .waiting 64 1))) (drawIn .waiting 64 1) = some (false, 64, true, 1) := by
  decide +kernel
/-- A policy record that waits to be posted: the code, for a header at 64, for a full queue, and for an address that is no multiple of 32. -/
def policyOf (s : State) (b : Draw) : Nat := ((awake s 0 b.id).devicePost b.ctx (unitPosts b.policyNode b.block.toNat 0 b.prioClass b.cgroup 0 1 0 0) (.policy 0 b.id)).1
theorem witness_RenderHappenings_reposts : policyOf (wDw (drawIn .policy 64 1)) (drawIn .policy 64 1) = 0 ∧ policyOf (fullQueue (wDw (drawIn .policy 64 1))) (drawIn .policy 64 1) = 1 ∧
    policyOf (wDw (drawIn .policy 65 1)) (drawIn .policy 65 1) = 3 ∧ (awake (wDw (drawIn .priorities 64 1)) 0 9).engineWritable 0 0x1800 2 = .ok 0x1800 := by decide +kernel
def sampleF : Sample := ⟨1, 2, 3, none, some (0, 0)⟩
/-- A draw that posts its waves: none left; one unwritten whose samples are resolved; one written, whose writes are not, or are, acknowledged. -/
def drawWv (ws : List Wave) (shader : Nat) : Draw := { drawIn .posting 0 1 with waves := ws, bytes := block9 0 1 |>.zipIdx |>.map fun p => if p.2 = 16 then BitVec.ofNat 8 shader else p.1 }
def codeOf (s : State) (b : Draw) : Nat :=
  ((awake s 0 b.id).devicePost b.ctx (unitPosts b.shader (b.waveBuf + 0 * (16 + 16 * b.waveSize)) (if b.dlrel = 0 then 0 else b.t0 + b.dlrel) b.prioClass b.cgroup 0 1 0 0) (.wave 0 b.id 0)).1
theorem witness_RenderHappenings_waves : let w : Wave := ⟨0, [sampleF], false⟩
    let v : Wave := { w with written := true }
    waveAt (awake (wDw (drawWv [w] 64)) 0 9) (drawWv [w] 64) w = .ok 0x2000 ∧ (wDw (drawWv [v] 64)).drawAcked (drawWv [v] 64) = true ∧
      State.drawAcked { wDw (drawWv [v] 64) with mem := { (wDw (drawWv [v] 64)).mem with cmds := [{ cmd70 .sxdraw [] with id := 0, acked := 2000 }] } } (drawWv [v] 64) = false ∧
      codeOf (wDw (drawWv [v] 64)) (drawWv [v] 64) = 0 ∧ codeOf (fullQueue (wDw (drawWv [v] 64))) (drawWv [v] 64) = 1 ∧ codeOf (wDw (drawWv [v] 65)) (drawWv [v] 65) = 3 := by decide +kernel
/-- A probe's sample: resolved while a wave still waits for another one, and as the last of a wave, which is then written. -/
theorem witness_RenderHappenings_probes : let hit := frontMost [] 1 2
    let set := mapIf (fun (q : Sample) => q == sample1) (fun q => { q with found := some hit })
    (State.unresolved { drawIn .posting 0 1 with waves := [⟨0, [sample1, { sample1 with x := 5 }], false⟩] }).head? = some sample1 ∧
    (∃ q ∈ set [sample1, { sample1 with x := 5 }], q.found = none) ∧ (∀ q ∈ set [sample1], q.found.isSome = true) ∧
    waveAt (wDw (drawWv [⟨0, set [sample1], false⟩] 64)) (drawWv [⟨0, set [sample1], false⟩] 64) ⟨0, set [sample1], false⟩ = .ok 0x2000 := by decide +kernel
/-- Selection: it is over with no position and with some; a cell is chosen, in a wave that is not and is then full. -/
def drawSel (n : Nat) (entries : List Sample) : Draw := { drawIn .selecting 0 20 with n := n, entries := entries }
theorem witness_RenderHappenings_positions : (∀ b ∈ [drawSel 20 [], drawSel 20 [sampleF], drawSel 20 [sample1], drawSel 3 [], drawSel 3 (List.replicate 15 sampleF), drawSel 3 (List.replicate 15 sample1)],
      b.phase = .selecting ∧ (wDw b).unblocked b = true ∧ b.t0 + b.n + 1 ≤ (wDw b).chrono (State.dieUnit 0)) ∧ (drawSel 20 []).npos ≤ 20 ∧ 3 < (drawSel 3 []).npos ∧
    (drawSel 3 []).choose = some 0 ∧ (drawSel 3 []).waveSize = 16 ∧ (drawSel 3 []).maps + 4 * State.viewWidth (rDw (drawSel 3 [])) * 0 + 8 * 0 = 0x3000 ∧
    (match (wDw (drawSel 3 [])).engineAtomic 0 0x3000 with | .ok (ia, e, _) => ia == 0x3000 && e == 0 | _ => false) = true := by decide +kernel

/-! The outside world: eight bytes at intermediate address 64, through the page of wG; a DMA range and a port window that map them. -/
def wO : State := { wG with pkg := { wG.pkg with dmaWin := [(0, (0, 0x10000, 0x1F))], ewWin := [((1, 0), (0, 0x10000, 0x1F))], ewUp := [false, true], reserved := [(2, 0)] } }
theorem witness_OutsideWorld_read : 2 < State.harts ∧ inModule 64 = true ∧ ∃ bs s1, wO.hostRead 64 8 = some (bs, s1) := ⟨by decide, rfl, _, _, rfl⟩
theorem witness_OutsideWorld_write : ∃ s1 w, wO.hostWrite 64 (List.replicate 8 1) = some (s1, w) := ⟨_, _, rfl⟩
theorem witness_OutsideWorld_amo : 64 % 8 = 0 ∧ ∃ old s1 w, wO.outsideAmo 64 8 .add 1 = some (old, s1, w) := ⟨rfl, _, _, _, rfl⟩
theorem witness_OutsideWorld_sc : wO.pkg.reserved.contains (2, lineOf 64) = true ∧ wO.pkg.reserved.contains (3, lineOf 64) = false := ⟨rfl, rfl⟩
/-- The page that wO's table maps at address 64 may be read, written and acted on by an atomic. -/
def pageO : PageEntry := ⟨0, 2 ^ 30, 15, 0⟩
theorem unitO (need : Need) : UnitAt wO 64 8 need pageO none := by
  refine ⟨rfl, by decide, by decide +kernel, ?_, ?_⟩ <;> (revert need; intro need; cases need <;> decide +kernel)
theorem witness_OutsideWorld_dma : landing wO.dmaWindows 64 8 .read = some 64 ∧ landing wO.dmaWindows 64 8 .write = some 64 ∧ landing wO.dmaWindows 64 8 .atomic = some 64 ∧
    landing wO.dmaWindows 0x20000 8 .read = none ∧ wO.replayedWrite 64 8 = false ∧ (wO.deviceRead 64 8).isOk = true ∧ (wO.deviceWrite 64 (List.replicate 8 1)).isOk = true ∧
    (wO.outsideAmo 64 8 .add 1).isSome = true ∧ landing (wO.portWindows 1) 64 8 .read = some 64 ∧ landing (wO.portWindows 1) 64 8 .write = some 64 ∧
    landing (wO.portWindows 1) 64 8 .atomic = some 64 ∧ landing (wO.portWindows 1) 0x20000 8 .read = none ∧ wO.pkg.ewUp.getD 1 false = true := by decide +kernel
/-- An access on its way over port 0. -/
def reqRemote : Request := { reqK .store with route := .remote, ia := 0x8000000000000 }
theorem witness_OutsideWorld_down : overPort 0 reqRemote ∧ ((wReq reqRemote).ctx 0).isSome = true ∧ wO.mem.requests = [] :=
  ⟨⟨rfl, by decide, .inl rfl⟩, rfl, rfl⟩
theorem witness_OutsideWorld_registers : (wO.apertureWrite false 0xF000050000000 (leBytes 8 0)).isOk = true ∧ State.blockOf 0xF000020000F08 = some (.queue 0 0xF08) ∧
    State.blockOf 0xF000060000008 = some (.messages 0 8) ∧ State.blockOf 0xF000070000000 = none := by decide +kernel
/-- A die on which a team runs, with a barrier of package scope for it. -/
def wDf : State := wL.updBarrier 0 5 fun _ => { bar2 with scope := .package, arr := 1, waiters := [h0.ref], teams := [1] }
theorem witness_OutsideWorld_die : wDf.dieOk 0 = true ∧ ({ wDf with pkg := { wDf.pkg with dieFailed := [0] } } : State).dieOk 0 = false ∧ (teamsOn wDf 0).length = 1 ∧ (barriersOn wDf 0).length = 1 := by
  decide +kernel
theorem witness_OutsideWorld_errors : w1.ctxDead 0 = false ∧ (∃ q, w1.plot 7 = some q ∧ 128 * 3 < q.size) ∧ (wM.tileSlot 0 0 1).isSome = true ∧ (let s := (wReq (reqK (.load 0))).setPoison 0
    s.isPoisoned (s.redirect 0 0) = true ∧ s.request 90 = some (reqK (.load 0)) ∧ s.ctxDrain 0 = false ∧ s.beingCopied (reqK (.load 0)) = false) :=
  ⟨rfl, ⟨_, rfl, by decide⟩, rfl, rfl, rfl, rfl, by decide⟩


/-! Clauses on the timing, on a team whose holding core is another, and on what fails -/

theorem witness_Timed : let x := { ext 4 5 6 0 0 .i32 0 with set := 1, la := 1 }
    (Instr.row? (.iaddExtended x)).map (·.1) = some 0x01 ∧ IssuesOn w1 0x01 x tm1 ∧ x.set ≠ 0 ∧ partOf x [h0] = [h0] :=
  ⟨rfl, ⟨_, rfl, ⟨h0, [], rfl, rfl, rfl⟩, rfl, rfl⟩, by decide, rfl⟩

/-- A core-pair team held by core 1 of the cluster: convergence register 2 is declared by the thread, register 3 is idle; ring 0 has one full stage. -/
def farParts : List Part := [⟨⟨0, 0, 1⟩, 0, 1, [0]⟩, firstPart]
def tmFar : Team := { tm1 with header := { tm1.header with shape := 1 }, parts := farParts, cvgs := modifyAt (fun _ => cvg1) 2 tm1.cvgs,
                               rings := modifyAt (fun _ => ⟨[⟨true, none⟩], 0, 0, [], []⟩) 0 tm1.rings }
def wFar (as : List Arrival) : State := { wL with teams := [tmFar], mem := { wL.mem with arrivals := as } }
def event (op : Nat) (x : Fields) (answer : Bool) (result : Nat) : Arrival := ⟨1000, h0.gref, 1, op, x, [(h0.ref, true, 0)], result, answer, false⟩
def joinX (d : Nat) : Fields := ext d 0 0 0 1 .b32 0
theorem witness_Converge_sends : (GoesOn (wFar []) 0x5D (joinX 2) tmFar ∧ GoesOn (wFar []) 0x5D (ext 3 0 0 0 0 .b32 0) tmFar) ∧ partOf (joinX 2) [h0] = [h0] ∧
    holdTransit tmFar h0.ref.core ≠ 0 ∧ State.observes tmFar h0 = false := ⟨⟨⟨_, rfl, rfl, rfl, rfl⟩, _, rfl, rfl, rfl, rfl⟩, rfl, by decide, rfl⟩
/-- A declaration of register 3, a join of register 2, and a join of register 3, which misuses it; the two answers. -/
theorem witness_Converge_arrives : (∀ x ∈ [ext 3 0 0 0 0 .b32 0, joinX 2, joinX 3], (wFar [event 0x5D x false 0]).team 1 = some tmFar) ∧
    (let a := event 0x5D (ext 3 0 0 0 0 .b32 0) false 0; State.idleCvg.misused false (livePart (taken (wFar [a]) a) a) = [] ∧ tmFar.cvgs[3]? = some State.idleCvg) ∧
    (let a := event 0x5D (joinX 2) false 0; cvg1.misused true (livePart (taken (wFar [a]) a) a) = [] ∧ tmFar.cvgs[2]? = some cvg1) ∧
    (let a := event 0x5D (joinX 3) false 0; State.idleCvg.misused true (livePart (taken (wFar [a]) a) a) ≠ []) ∧
    ∀ result ∈ [0, 1], (event 0x5D (joinX 2) true result).answer = true := by decide +kernel
theorem witness_TeamRegisters_far : GoesOn (wFar []) 0x56 (ext 4 63 0 0 0 .b32 0) tmFar ∧ GoesOn (wFar []) 0x56 (ext 63 4 0 0 1 .b32 0) tmFar ∧
    holdTransit tmFar h0.ref.core ≠ 0 ∧ partOf (ext 4 63 0 0 0 .b32 0) [h0] = [h0] ∧ OpTable.xf (event 0x56 (ext 4 63 0 0 0 .b32 0) false 7).x 0 1 = 0 ∧
    OpTable.xf (event 0x56 (ext 63 4 0 0 1 .b32 0) false 7).x 0 1 ≠ 0 ∧ (event 0x56 (ext 63 4 0 0 1 .b32 0) false 7).threads.getLast? = some (h0.ref, true, 0) :=
  ⟨⟨_, rfl, rfl, rfl, rfl⟩, ⟨_, rfl, rfl, rfl, rfl⟩, by decide, rfl, rfl, by decide, rfl⟩
/-- The stage acquires of a consumer, which is done, and of a producer, which waits; an acquire of ring 1, which is not set up. -/
def acqX (ring stop : Nat) : Fields := ext 4 0 0 ring stop .b32 0
def farStage (ring stop : Nat) : StageMet :=
  let a := event 0x77 (acqX ring stop) false 0
  let s1 := taken (wFar [a]) a
  let o := s1.beginStage a.x (livePart s1 a)
  o.2.stageEvent tmFar stop ring 0 ⟨o.1, livePart s1 a, 4, false, 0⟩
theorem witness_Stages_far : GoesOn (wFar []) 0x77 (acqX 0 2) tmFar ∧ IssuesOn (wFar []) 0x77 (acqX 0 2) tmFar ∧ State.observes tmFar h0 = false ∧ holdTransit tmFar h0.ref.core ≠ 0 ∧
    (event 0x77 (acqX 0 2) false 0).threads.head? = some (h0.ref, true, 0) ∧ (∃ d s, farStage 0 2 = .done d s) ∧ (∃ s, farStage 0 1 = .waits s) ∧ farStage 1 1 = .misuse :=
  ⟨⟨_, rfl, rfl, rfl, rfl⟩, ⟨_, rfl, ⟨h0, [], rfl, rfl, rfl⟩, rfl, rfl⟩, rfl, by decide, rfl, ⟨_, _, rfl⟩, ⟨_, rfl⟩, rfl⟩
theorem witness_Stages_cancelled : IssuesOn wC 0x77 (acqX 0 2) tmC ∧ State.observes tmC h0 = true := ⟨⟨_, rfl, ⟨h0, [], rfl, rfl, rfl⟩, rfl, rfl⟩, rfl⟩
/-- MMA.sign at convergence register 2, declared, and at register 3, from a core that does not hold the team. -/
def tmFarM : Team := { tmS with header := tmFar.header, parts := farParts }
def wFarM (as : List Arrival) : State := { wM with teams := [tmFarM], mem := { wM.mem with arrivals := as } }
def signX (c : Nat) : Fields := ext 6 0 1 c 2 .b32 0
theorem witness_MatrixInstructions_far : GoesAs (wFarM []) 0x68 (signX 2) tmFarM hM ∧ State.observes tmFarM hM = false ∧ holdTransit tmFarM hM.ref.core ≠ 0 ∧
    (let a := event 0x68 (signX 2) false 0; tmFarM.cvgs[2]? = some cvg1 ∧ cvg1.misused true (livePart (taken (wFarM [a]) a) a) = []) ∧
    (let a := event 0x68 (signX 3) false 0; tmFarM.cvgs[3]? = some State.idleCvg ∧ State.idleCvg.misused true (livePart (taken (wFarM [a]) a) a) ≠ []) :=
  ⟨⟨_, rfl, rfl, rfl, rfl⟩, rfl, by decide, ⟨rfl, by decide⟩, rfl, by decide⟩

/-- A bin of the thread's team, PC and key; no bins; as many bins of other PCs as the Sieve has, with and without one to be drawn empty. -/
def wSv (bins : List Bin) (forced : List (Nat × Nat)) : State := w1.updCore firstCore fun k => { k with bins := bins, forced := forced }
def fullBins : List Bin := (List.range Config.sieveBins).map fun i => ⟨0, i, 1, 64, 0, [(1, 0)]⟩
theorem witness_Reform_files : w1.thread h0.ref = some h0 ∧
    (let mine := ((wSv [⟨0, 0, 1, 12, 3, []⟩] []).core firstCore).bins.filter fun b => b.ctx == 0; (mine.find? fun b => b.team == h0.team && b.pc == 12 && b.key == 3).isSome = true) ∧
    ((List.range Config.sieveBins).find? fun i => !(([] : List Bin).any fun b => b.index == i)) = some 0 ∧
    (∀ forced ∈ [[], [(0, 5)]], let old := (wSv fullBins forced).core firstCore
      let mine := old.bins.filter fun b => b.ctx == 0
      (mine.find? fun b => b.team == h0.team && b.pc == 12 && b.key == 3) = none ∧ ((List.range Config.sieveBins).find? fun i => !(mine.any fun b => b.index == i)) = none ∧
      old.forced = forced) := by
  set_option maxRecDepth 100000 in decide +kernel
/-- The thread with a store outstanding; with a team-mate; alone. -/
def hMate : Thread := { h0 with ref := ⟨firstCore, 0, 1⟩, tidx := 1, lane := 1 }
def wMate : State := { w1 with threads := [h0, hMate] }
theorem witness_ExitAndYield_ends : (w1.team h0.team = some tm1 ∧ h0.exited = false) ∧ ((wReq (reqK .store)).thread h0.ref = some h0 ∧ (wReq (reqK .store)).outstanding h0.ref = true) ∧
    (wMate.thread h0.ref = some h0 ∧ wMate.outstanding h0.ref = false ∧ ∃ k ∈ wMate.threads, k.team = h0.team ∧ k.ref ≠ h0.ref ∧ k.exited = false) ∧
    (w1.thread h0.ref = some h0 ∧ w1.outstanding h0.ref = false ∧ ∀ k ∈ w1.threads, k.team = h0.team → k.ref ≠ h0.ref → k.exited = true) :=
  ⟨⟨rfl, rfl⟩, ⟨rfl, by decide⟩, ⟨rfl, by decide, hMate, .tail _ (.head _), rfl, by decide, rfl⟩, rfl, by decide,
    fun k hk _ hn => absurd (congrArg Thread.ref (List.mem_singleton.mp (show k ∈ [h0] from hk))) hn⟩

/-- CHRONO, live and in a replay. -/
theorem witness_SpecialRegisters_chrono : GoesOn w1 0x7A (ext 4 0 0 0 0 .b32 0xD) tm1 ∧ w1.replaying tm1.ctx = false ∧
    (let s := wCtx fun c => { c with ctl := c.ctl ||| 0x20, replay := true }; GoesOn s 0x7A (ext 4 0 0 0 0 .b32 0xD) tm1 ∧ s.replaying tm1.ctx = true) :=
  ⟨⟨_, rfl, rfl, rfl, rfl⟩, rfl, ⟨_, rfl, rfl, rfl, rfl⟩, rfl⟩
/-- COPY with a barrier whose descriptor has no page. -/
theorem witness_EngineCommandsCount_absent : let x := ext 4 8 0 5 4 .b32 0
    ∃ sp shape ia, engineShape w1 tm1 [h0.ref] (.copy x) = some shape ∧ shape.1 = 0x70 ∧ Issues w1 0x70 x tm1 sp [h0] [] ∧ partOf x [h0] = [h0] ∧
      (lanesOf w1 sp x [] [h0]).map (fun l => globalCheck (ctxOf w1 tm1) .read (shape.2.2.2.1 (State.blockVa x l)) 32 (State.blockVa x l) l.t.lane) = [(0, range0)].map .ok ∧
      x.xop.getLsbD 2 = true ∧ w1.queueFull (cmdOf w1 0x70 x (.copy none) tm1 h0 (lanesOf w1 sp x [] [h0]) []) = false ∧
      (∀ blocks, w1.waitsFor [h0.ref] false blocks = []) ∧ w1.countedBytes tm1 0x70 [h0.ref] ((lanesOf w1 sp x [] [h0]).map (State.blockVa x)) = .error ia :=
  ⟨_, _, _, rfl, rfl, ⟨rfl, ⟨h0, [], rfl, rfl, rfl⟩, rfl, rfl⟩, rfl, rfl, rfl, by decide, fun _ => rfl, rfl⟩

/-- A request of each kind for a context that drains. -/
def drainOf (r : Request) : State := { wReq r with ctxs := modifyAt (fun c => { c with ctl := 0xC0 }) 0 w1.ctxs }
theorem witness_HomesPerform_drains (r : Request) (h : r ∈ [reqK (.load 1), reqK .store, reqK (.atomic 0 .nearestEven), packetK .store]) :
    (drainOf r).request r.id = some r ∧ r.stage = .travelling ∧ (drainOf r).ctxDrain r.ctx = true ∧ r.parts ≠ [] := by
  simp only [List.mem_cons, List.not_mem_nil, or_false] at h
  obtain rfl | rfl | rfl | rfl := h <;> exact ⟨rfl, rfl, rfl, nofun⟩
/-- A load whose page is absent. -/
theorem witness_WalksAndFences_data : let s := wWalk w1 .requests
    let r := { reqK (.load 0) with stage := .walking 3 }
    (s.mem.walks.find? fun v => v.id == 3) = some (walk3 .requests) ∧ (∃ cause bad, s.walkVerdict (walk3 .requests) = .error (cause, bad)) ∧ s.walkOp 3 = some 80 ∧
      (s.mem.requests.filter fun q => q.op == 80) = [r] ∧ r.route = .home ∧ r.parts ≠ [] ∧ (r.parts.map (·.t)).Nodup ∧
      (∀ p ∈ r.parts, s.ctxDead p.t.ctx = false ∧ ∃ h, s.thread p.t = some h ∧ h.retry = none) :=
  ⟨rfl, ⟨_, _, rfl⟩, rfl, rfl, rfl, nofun, by decide, fun p hp => by cases List.mem_singleton.mp hp; exact ⟨rfl, h0, rfl, rfl⟩⟩
/-- A result whose lane is a plot's atomic that a log waits for. -/
theorem witness_LongLatencyResults_logs : let r := { result5 with logs := [(h0.ref, 9)] }
    ((({ wRes with mem := { wRes.mem with results := [r] } } : State).mem.results.find? fun q => q.id == 5) = some r) ∧ r.held = none ∧ r.waits = [] ∧ r.pages = [] ∧ r.sups = [] :=
  ⟨rfl, rfl, rfl, rfl, rfl⟩
/-- A temperature that is too high; and one and two failures of the steps 4 to 8, whose copies verify or not by a free value. -/
theorem witness_PowerAndResets_hot : (State.reset.steward 0).isSome = true ∧ State.reset.pkg.record.tShut ≤ 255 ∧ resetCause .powerOnReset = some 0 ∧
    ∀ rest ∈ [[], [6]], ({ State.reset with pkg := { State.reset.pkg with bootFaults := 5 :: rest } } : State).pkg.bootFaults = 5 :: rest := by decide
theorem witness_ContextHappenings_full : let s := wCtx fun c => { c with retiring := [7], credits := List.replicate 256 7 }
    ∃ c, s.ctx 0 = some c ∧ c.retiring = [7] ∧ 256 ≤ c.credits.length := ⟨_, rfl, rfl, Nat.le_of_eq List.length_replicate.symm⟩
/-- A COPY's one part, within the plot. -/
def desc71 : CopyDesc := { desc70 with dims := [(1, 0, 0)] }
def cmdL : Cmd := cmd70 (.copy (some desc71)) [lane70 false]
theorem witness_CommandsGoOn_last : (wCmd cmdL).cmd cmdL.id = some cmdL ∧ (wCmd cmdL).ctxDead cmdL.ctx = false ∧ State.cmdLane cmdL = some (0, lane70 false) ∧
    (∃ bytes targets s1 s2 w acked, (wCmd cmdL).copyGather cmdL desc71 (desc71.part cmdL.parts) = .ok (bytes, s1) ∧ s1.copyTargets cmdL desc71 (desc71.part cmdL.parts) = .ok targets ∧
      s1.copyScatter cmdL 0 0 (targets.zip bytes) = (s2, w, acked)) ∧ desc71.parts ≤ cmdL.parts + 1 :=
  ⟨rfl, rfl, rfl, ⟨_, _, _, _, _, _, rfl, rfl, rfl⟩, by decide⟩
/-- A TRACE lane whose outputs can be written, and one whose range cannot. -/
def laneT : CmdLane := { lane70 false with addr := 0x1000, outAt := 16, out := List.replicate 16 1 }
def wTr (rights : W64) : State :=
  { wG with mem := { wG.mem with cmds := [cmd70 .trace [laneT]] }, ctxs := modifyAt (fun c => { c with ranges := (0, 0x10000, rights) :: c.ranges.drop 1 }) 0 wG.ctxs }
theorem witness_CommandsGoOn_outputs : ((wTr 0).cmd 70 = some (cmd70 .trace [laneT]) ∧ (wTr 0).ctxDead 0 = false ∧ (wTr 0x1F).cmd 70 = some (cmd70 .trace [laneT]) ∧ (wTr 0x1F).ctxDead 0 = false) ∧ laneT.done = false ∧ laneT.out ≠ [] :=
  ⟨⟨rfl, rfl, rfl, rfl⟩, rfl, nofun⟩
theorem witness_CommandsGoOn_writable : (wTr 0x1F).engineWritable 0 (laneT.addr.toNat + laneT.outAt) laneT.out.length = .ok 0x1010 ∧
    (wTr 0).engineWritable 0 (laneT.addr.toNat + laneT.outAt) laneT.out.length = .cause 0x10 := by decide +kernel
/-- An atomic of four bytes by another module; a command that waits for an acknowledgement over port 0. -/
theorem witness_OutsideWorld_device : landing wO.dmaWindows 64 (Ty.bytes .b32) .atomic = some 64 ∧ landing (wO.portWindows 1) 64 (Ty.bytes .b32) .atomic = some 64 ∧
    (deviceAtomic wO 64 .b32 0 .nearestEven 1 0).isSome = true := by decide +kernel
theorem unitO4 : UnitAt wO 64 (Ty.bytes .b32) .atomic pageO none := ⟨rfl, by decide, by decide +kernel, by decide +kernel, by decide +kernel⟩
theorem witness_OutsideWorld_waits : let c := { cmd70 .silt [] with remote := [(0, 2000)] }
    let s : State := { wO with mem := { wO.mem with cmds := [c] } }
    c ∈ s.mem.cmds ∧ awaitsPort s 0 c ∧ (s.ctx c.ctx).isSome = true := ⟨.head _, ⟨(0, 2000), .head _, rfl, by decide⟩, rfl⟩

/-! The machine as a whole -/
theorem witness_EncodeDecode : Instr.wf (.iaddBase 4 5 6) = true ∧ Instr.hasWords (.iaddBase 4 5 6) = true := by decide
theorem witness_DecodeWords : wordOp ([0#32].getD 0 0) ∈ [0x00, 0x2F, 0x4F, 0x57, 0x6B, 0x6C, 0x6D, 0x6E, 0x6F, 0x7F] := by decide
def wNop : State := State.reset.withFetchWord 32 0x3E800000
theorem witness_MemoryCanonicalKept : Safety.MemoryCanonical wNop ∧ ∃ t, Machine.step wNop = .next t := ⟨by unfold Safety.MemoryCanonical; decide, _, rfl⟩
theorem witness_StepRunsDecoded : wNop.pkg.bootErr = false ∧ wNop.clk.agenda = [] ∧ wNop.clk.chosen = some [firstGroup] ∧ bankIssues wNop (wNop.core firstCore) = true ∧
    (wNop.core firstCore).active = some 0 ∧ ∃ gr act, wNop.group firstGroup = some gr ∧ canLook wNop gr = some act ∧ fetchAt wNop gr.ref act = .instr .nopBase ∧
      heldBySlots act (issueUses .nopBase).1 (issueUses .nopBase).2.1 = false ∧ (∀ h ∈ act, waitsRegister wNop true h (issueUses .nopBase).2.2 = false) ∧
      waitsShort wNop.clk.cycle act (issueUses .nopBase).2.2 = false ∧ waitsFlags wNop act (issueUses .nopBase).1 (issueUses .nopBase).2.1 = false ∧
      slotFull act (issueUses .nopBase).2.1 = false ∧ throttled (issueUses .nopBase).1 (issueUses .nopBase).2.1 = false ∧
      unitRefuses wNop act (issueUses .nopBase).1 (issueUses .nopBase).2.1 = false ∧ wNop.nextArrival = none ∧
      ((agendaTurn wNop).isNone = true ∧ (closingTurn wNop).isNone = true ∧ (timerTurn wNop false).isNone = true) ∧
      ∃ t, exec .nopBase (beginIssue wNop firstGroup [] act 1) = .next t :=
  ⟨rfl, rfl, rfl, rfl, rfl, _, _, rfl, rfl, rfl, rfl, by decide, rfl, rfl, rfl, rfl, rfl, rfl, ⟨rfl, rfl, rfl⟩, _, rfl⟩
theorem wNop_word : (BitVec.ofNat 32 (leNat (wNop.readMem (wNop.redirect 0 0) 4)) : W32) = 0x3E800000 := by decide
theorem witness_StepRunsDecoded_reads : ∃ r perms, wNop.ctx 0 = some (firstContext Context.reset) ∧ rangeCheck (firstContext Context.reset) 0 4 .fetch = .ok (0, r) ∧ inModule 0 = true ∧
    wNop.pageHeld firstCore 0 0 .fetch = some (0, perms) ∧ wNop.uncorrected 0 0 true = false := ⟨_, _, rfl, rfl, rfl, rfl, rfl⟩
theorem witness_StepRunsDecoded_fetch : ∃ w, fetchWord wNop firstGroup 0 0 0 = .word w ∧ fetchWords wNop firstGroup 0 0 ((wordForm w).words - 1) 4 = .ok [] ∧ decode [w] = .ok .nopBase := by
  obtain ⟨r, perms, h1, h2, h3, h4, h5⟩ := witness_StepRunsDecoded_reads
  refine ⟨BitVec.ofNat 32 (leNat (wNop.readMem (wNop.redirect 0 0) 4)), ?_, by rw [wNop_word]; rfl, by rw [wNop_word]; rfl⟩
  unfold fetchWord
  rw [show firstGroup.ctx = 0 from rfl, show firstGroup.core = firstCore from rfl, h1]
  simp only [h2, h3, h4, h5, if_true, Bool.false_eq_true, if_false]
theorem witness_StepStops : let s := { wNop with pkg := { wNop.pkg with bootErr := true } }
    s.pkg.bootErr = true ∧ s.clk.agenda.head? ≠ some .powerOnReset ∧ wNop.pkg.bootErr = false := ⟨rfl, by decide, rfl⟩
set_option maxRecDepth 100000 in
theorem witness_RegisterFile : (hH.handler = true ∧ 0xFF - 0xF0 < hH.hv.length) ∧ (h0.handler = false ∧ 0xFF < h0.regs.length) ∧ 0xF0 + 16 ≤ 0x100 := by decide

/-- A trap with a handler, without one, and in handler mode. -/
def tmH : Team := { tm1 with header := { tm1.header with handler := 64 } }
theorem witness_TrapEntry : (let s := { w1 with teams := [tmH] }
      s.thread h0.ref = some h0 ∧ s.team h0.team = some tmH ∧ tmH.header.handler ≠ 0 ∧ h0.handler = false) ∧
    (w1.thread h0.ref = some h0 ∧ w1.team h0.team = some tm1 ∧ tm1.header.handler = 0) ∧ (wH.thread hH.ref = some hH ∧ (wH.thread hH.ref).map (·.handler) = some true) :=
  ⟨⟨rfl, rfl, by decide, rfl⟩, ⟨rfl, rfl, rfl⟩, rfl, rfl⟩

/-- The reported thread of a trap: the one of the event's with the reported lane. -/
theorem witness_TrapEntry_reports : Reports w1 [(h0.ref, 0)] { cause := 0x30, info := 0 } (h0.ref, 0) ∧ w1.thread h0.ref = some h0 ∧ Reports wH [(hH.ref, 0)] { cause := 0x30, info := 0 } (hH.ref, 0) :=
  ⟨⟨.head _, by decide, .inr ⟨rfl, by decide⟩⟩, rfl, .head _, by decide, .inr ⟨rfl, by decide⟩⟩
/-- EXIT in handler mode traps with PRIV; a register above VREGS with REG_BOUNDS. -/
theorem witness_Privilege : (Instr.row? .exitBase).isSome = true ∧ Instr.wf .exitBase = true ∧ wH.active = [hH] ∧ wH.team hH.team = some tm1 ∧
    (∃ sp, opSpec 0x5E (Fields.ofBase 0x5E 0 0 0) = some sp ∧ ∃ t, issueCheck wH tm1 hH sp 0x5E (Fields.ofBase 0x5E 0 0 0) = some t) ∧
    (∃ sp, opSpec 0x01 (ext 4 0xF0 8 0 0 .b32 0) = some sp ∧ boundsOk sp (ext 4 0xF0 8 0 0 .b32 0) false { tm1 with header := { tm1.header with vregs := 32 } } = false) ∧
    ∃ sp, opSpec 0x7A (ext 4 0 0 0 0 .b32 0x20) = some sp ∧ boundsOk sp (ext 4 0 0 0 0 .b32 0x20) false tm1 = true := ⟨rfl, rfl, rfl, rfl, ⟨_, rfl, _, rfl⟩, ⟨_, rfl, rfl⟩, _, rfl, rfl⟩

end Sys2Proof.Tests
end

section
/-! PROOFS. Results written at issue, and the team registers (O21). -/

namespace Sys2Proof.Proofs.Execution

open Sys2Proof Sys2Proof.Machine Sys2Proof.Claims

/-! ### Results written at issue (R192, R193, R237) -/

/-- A thread behind the instruction whose result, if it has one, it has written. -/
def written (s : State) (x : Fields) (due : Nat) (o : Option LaneOut) (h : Thread) : Thread :=
  let w := o.elim h (s.resultAtIssue x due h)
  { w with pc := w.pc + BitVec.ofNat 64 x.form.length }

theorem writeAtIssue_thread_written (s : State) (x : Fields) (due : Nat) (refs : List TRef) (f : Thread → Option LaneOut) (k : Nat) :
    (s.writeAtIssue x due refs f).threads[k]? = (s.threads[k]?).map fun h => if refs.contains h.ref then written s x due (f h) h else h :=
  State.writeAtIssue_thread s x due refs f k

theorem applyOut_ref (t : Thread) (d : Nat) (o : LaneOut) : (t.applyOut d o).ref = t.ref := by rw [Thread.applyOut_frame]
theorem applyOut_handler (t : Thread) (d : Nat) (o : LaneOut) : (t.applyOut d o).handler = t.handler := by rw [Thread.applyOut_frame]
theorem applyOut_windows (t : Thread) (d : Nat) (o : LaneOut) : (t.applyOut d o).windows = t.windows := by rw [Thread.applyOut_frame]
theorem applyOut_busy (t : Thread) (d : Nat) (o : LaneOut) : (t.applyOut d o).busy = t.busy := by rw [Thread.applyOut_frame]
theorem applyOut_sb (t : Thread) (d : Nat) (o : LaneOut) : (t.applyOut d o).sb = t.sb := by rw [Thread.applyOut_frame]

/-- What a thread has after its result: its registers, predicates, flags and PC as ThreadWrote says, and its slots as they were. -/
theorem written_eq (s : State) (x : Fields) (due : Nat) (o : Option LaneOut) (h : Thread) :
    written s x due o h =
      { o.elim h (h.applyOut x.d.toNat) with
        pc := h.pc + BitVec.ofNat 64 x.form.length, windows := (written s x due o h).windows, busy := (written s x due o h).busy } := by
  cases o with
  | none => rfl
  | some o =>
    simp only [written, Option.elim]
    rw [State.resultAtIssue_frame, Thread.applyOut_frame]

theorem written_ref (s : State) (x : Fields) (due : Nat) (o : Option LaneOut) (h : Thread) : (written s x due o h).ref = h.ref := by
  rw [written_eq]; cases o with
  | none => rfl
  | some o => exact applyOut_ref h _ o

theorem written_sb (s : State) (x : Fields) (due : Nat) (o : Option LaneOut) (h : Thread) : (written s x due o h).sb = h.sb := by
  rw [written_eq]; cases o with
  | none => rfl
  | some o => exact applyOut_sb h _ o

/-- ThreadWrote says of a thread that it is `written`, but for its slots. -/
theorem threadWrote_written (s : State) (x : Fields) (due : Nat) (o : Option LaneOut) (h : Thread) (sb : List Nat) :
    ThreadWrote x o h { written s x due o h with sb := sb } := by
  rw [written_eq]
  unfold ThreadWrote
  cases o with
  | none => rfl
  | some o => simp only [Option.elim]; rw [Thread.applyOut_frame]

theorem length_readRegs (s : State) (h : Thread) (n k : Nat) : (readRegs s h n k).length = k := by
  induction k generalizing n with
  | zero => rfl
  | succ k ih => simp [readRegs, ih]

/-- Which predicate a result changes does not depend on the thread's state. -/
theorem predChange_fst (t u : Thread) (d : Nat) (b : Option Bool) : (t.predChange d b).map (·.1) = (u.predChange d b).map (·.1) := by
  cases b with
  | none => rfl
  | some b => simp only [Thread.predChange, Option.bind_some]; split <;> rfl

theorem openWindow_windows (t : Thread) (la op d : Nat) (old : List W32) (due : Nat) (pred : Option (Nat × Bool × Bool)) :
    (t.openWindow la op d old due pred).windows =
      t.windows ++ if la = 0 ∨ (old.isEmpty && pred.isNone) then [] else [⟨op, d, old, la + 1, due, pred, t.handler⟩] := by
  unfold Thread.openWindow; split <;> simp

theorem markBusy_busy (t : Thread) (d : Nat) (o : LaneOut) (due : Nat) :
    (t.markBusy d o due).busy = t.busy ++ if o.vals.isEmpty && ((t.predChange d o.pred).map (·.1)).isNone then []
      else [⟨regKey t.handler d, o.vals.length, (t.predChange d o.pred).map (·.1), due⟩] := by
  unfold Thread.markBusy; dsimp only; split <;> simp

theorem written_windows (s : State) (x : Fields) (due : Nat) (o : LaneOut) (h : Thread) :
    (written s x due (some o) h).windows = h.windows ++
      if x.la = 0 ∨ (o.vals.isEmpty && (h.predChange x.d.toNat o.pred).isNone) then []
      else [⟨0, x.d.toNat, readRegs s h x.d.toNat o.vals.length, x.la.toNat + 1, due, h.predChange x.d.toNat o.pred, h.handler⟩] := by
  have hold : (readRegs s h x.d.toNat o.vals.length).isEmpty = o.vals.isEmpty := by
    rw [Bool.eq_iff_iff, List.isEmpty_iff_length_eq_zero, List.isEmpty_iff_length_eq_zero, length_readRegs]
  have hla : x.la.toNat = 0 ↔ x.la = 0 := by simp [← BitVec.toNat_inj]
  simp only [written, Option.elim, State.resultAtIssue]
  rw [Thread.markBusy_frame]
  simp only [openWindow_windows, applyOut_windows, applyOut_handler, hold, hla]

theorem written_busy (s : State) (x : Fields) (due : Nat) (o : LaneOut) (h : Thread) :
    (written s x due (some o) h).busy = h.busy ++ if o.vals.isEmpty && (h.predChange x.d.toNat o.pred).isNone then []
      else [⟨regKey h.handler x.d.toNat, o.vals.length, (h.predChange x.d.toNat o.pred).map (·.1), due⟩] := by
  simp only [written, Option.elim, State.resultAtIssue, markBusy_busy]
  rw [predChange_fst _ h, Thread.openWindow_frame]
  simp only [applyOut_busy, applyOut_handler, Option.isNone_map]

/-- The windows and the times that a result leaves: none for a result that writes nothing. -/
theorem written_windows_busy (s : State) (x : Fields) (due : Nat) (o : LaneOut) (h : Thread) :
    let p := h.predChange x.d.toNat o.pred
    if o.vals = [] ∧ p = none then (written s x due (some o) h).busy = h.busy ∧ (written s x due (some o) h).windows = h.windows
    else (written s x due (some o) h).busy = h.busy ++ [⟨regKey h.handler x.d.toNat, o.vals.length, p.map (·.1), due⟩] ∧
      (written s x due (some o) h).windows = h.windows ++ if x.la = 0 then []
        else [⟨0, x.d.toNat, readRegs s h x.d.toNat o.vals.length, x.la.toNat + 1, due, p, h.handler⟩] := by
  intro p
  rw [written_windows, written_busy]
  have hnone : (o.vals.isEmpty && p.isNone) = true ↔ o.vals = [] ∧ p = none := by simp
  by_cases hempty : o.vals = [] ∧ p = none
  · simp [p, hempty.1, hempty.2]
  · simp only [p, if_neg hempty, hnone, or_iff_left hempty, and_self]

theorem slotUp_sb (t : Thread) (n : Nat) : (t.slotUp n).sb = if n = 0 then t.sb else modifyAt (· + 1) (n - 1) t.sb := by
  unfold Thread.slotUp; split <;> rfl

/-- What an instruction whose results are written at issue makes of a thread: it is written where it is active, and its slot counted where it participates. -/
def issuedThread (s : State) (x : Fields) (lat : Nat) (act : List Thread) (out : Thread → Option LaneOut) (h : Thread) : Thread :=
  let w := if (act.map (·.ref)).contains h.ref then written s x (s.clk.cycle + lat) (out h) h else h
  if ((partOf x act).map (·.ref)).contains h.ref then w.slotUp x.set.toNat else w

/-- The state after an instruction whose results are written at issue. -/
def issuedState (s : State) (x : Fields) (lat : Nat) (act : List Thread) (out : Thread → Option LaneOut) : State :=
  (s.writeAtIssue x (s.clk.cycle + lat) (act.map (·.ref)) out).slotFor x.set.toNat lat (partOf x act)

/-- An active thread is written, but for its slots. -/
theorem issuedThread_active {s : State} {x : Fields} {lat : Nat} {act : List Thread} {out : Thread → Option LaneOut} {h : Thread}
    (hact : (act.map (·.ref)).contains h.ref = true) :
    issuedThread s x lat act out h = { written s x (s.clk.cycle + lat) (out h) h with sb := (issuedThread s x lat act out h).sb } := by
  simp only [issuedThread, hact, if_true]
  split
  · rw [Thread.slotUp_frame]
  · rfl

theorem issuedThread_sb {s : State} {x : Fields} {lat : Nat} {act : List Thread} {out : Thread → Option LaneOut} {h : Thread} :
    (issuedThread s x lat act out h).sb = if ((partOf x act).map (·.ref)).contains h.ref then (h.slotUp x.set.toNat).sb else h.sb := by
  have hsb : (if (act.map (·.ref)).contains h.ref then written s x (s.clk.cycle + lat) (out h) h else h).sb = h.sb := by
    split
    · exact written_sb s x _ _ h
    · rfl
  dsimp only [issuedThread]
  rw [apply_ite Thread.sb, slotUp_sb, slotUp_sb, hsb]

/-- A participating thread is active, so that one that is not active is as it was. -/
theorem issuedThread_idle {s : State} {x : Fields} {lat : Nat} {act : List Thread} {out : Thread → Option LaneOut} {h : Thread}
    (hidle : ¬ (act.map (·.ref)).contains h.ref = true) : issuedThread s x lat act out h = h := by
  have hpart : ¬ ((partOf x act).map (·.ref)).contains h.ref = true := by
    simp only [partOf, List.contains_iff_mem, List.mem_map, List.mem_filter] at hidle ⊢
    exact fun ⟨u, hu, hr⟩ => hidle ⟨u, hu.1, hr⟩
  simp only [issuedThread, if_neg hidle, if_neg hpart]

theorem issuedState_threads (s : State) (x : Fields) (lat : Nat) (act : List Thread) (out : Thread → Option LaneOut) :
    (issuedState s x lat act out).threads = s.threads.map (issuedThread s x lat act out) := by
  refine List.ext_getElem? fun k => ?_
  rw [issuedState, State.slotFor_thread, writeAtIssue_thread_written, Option.map_map, List.getElem?_map]
  congr 1
  funext h
  by_cases hact : (act.map (·.ref)).contains h.ref = true
  · simp only [Function.comp_apply, issuedThread, hact, if_true, written_ref]
  · simp only [Function.comp_apply, issuedThread, if_neg hact]

theorem issuedState_thread {s : State} {x : Fields} {lat : Nat} {act : List Thread} {out : Thread → Option LaneOut} {k : Nat} {h : Thread}
    (hk : s.threads[k]? = some h) : (issuedState s x lat act out).threads[k]? = some (issuedThread s x lat act out h) := by
  rw [issuedState_threads, List.getElem?_map, hk, Option.map_some]

/-- It changes nothing but threads, results in flight, and the clock's timers and numbers. -/
theorem onlyThreads_issuedState (s : State) (x : Fields) (lat : Nat) (act : List Thread) (out : Thread → Option LaneOut) :
    OnlyThreads s (issuedState s x lat act out) := by
  obtain ⟨hpkg, hctxs, hcores, hgroups, hteams, hruns, hplots, htile, hrender, hmem, hclk⟩ :=
    State.slotFor_parts (s.writeAtIssue x (s.clk.cycle + lat) (act.map (·.ref)) out) x.set.toNat lat (partOf x act)
  exact ⟨hpkg, hctxs, hcores, hgroups, hteams, hruns, hplots, htile, hrender, fun a => congrArg (·.mem.read a) hmem, hmem, hclk⟩

theorem wrote_issuedState (s : State) (x : Fields) (lat : Nat) (act : List Thread) (out : Thread → Option LaneOut) :
    Wrote s (issuedState s x lat act out) x act out := by
  refine ⟨by rw [issuedState_threads, List.length_map], fun k h hk => ⟨_, issuedState_thread hk, ?_⟩⟩
  split
  case isTrue hact => rw [issuedThread_active hact]; exact threadWrote_written s x _ (out h) h _
  case isFalse hidle => exact issuedThread_idle hidle

theorem timed_issuedState (s : State) (x : Fields) (lat : Nat) (act : List Thread) (out : Thread → Option LaneOut) :
    Timed s (issuedState s x lat act out) x act lat out := by
  have hset : x.set.toNat = 0 ↔ x.set = 0 := by simp [← BitVec.toNat_inj]
  refine ⟨fun k h hk hact => ⟨_, issuedState_thread hk, issuedThread_sb, ?_, ?_⟩, ?_, ?_⟩
  · intro o ho
    rw [issuedThread_active hact, ho]
    exact written_windows_busy s x _ o h
  · intro ho
    rw [issuedThread_active hact, ho]
    exact ⟨rfl, rfl⟩
  · rintro (h0 | hnil)
    · unfold issuedState State.slotFor
      rw [hset.mpr h0]
      split <;> exact ⟨rfl, rfl⟩
    · rw [issuedState, hnil]
      exact ⟨rfl, rfl⟩
  · intro p ps hne hpart
    rw [issuedState, hpart, State.slotFor, if_neg (mt hset.mp hne)]
    exact ⟨_, rfl, rfl, rfl, rfl, rfl, rfl, rfl, rfl⟩

/-- With its team, its row, its constant operand and no check that fails, an instruction of independent lanes writes its results at issue. -/
theorem lanewise_next {s : State} {op : Nat} {x : Fields} {lat hold : Nat} {f : Lane → LaneOut} {h : Thread} {rest : List Thread} {tm : Team} {sp : OpSpec}
    {ws : List W32} (hgoes : Goes s op x tm sp h rest) (hws : constOperand s tm sp x = .words ws) :
    s.lanewise op x lat hold f =
      issuedState s x (State.passLatency tm lat (if s.halvedIssue then 2 * hold else hold)) (h :: rest) (perLane s sp x ws f) := by
  obtain ⟨hactive, hteam, hcheck, hrow⟩ := hgoes
  exact State.issueConst_next hactive hteam hrow hcheck hws

theorem constOperand_of_kw_false {s : State} {tm : Team} {sp : OpSpec} {x : Fields} (hkw : x.kw = false) : constOperand s tm sp x = .words [] := by
  simp [constOperand, hkw]

/-! ### Team registers (R36, R54, R267, R268) -/

/-- TMOV's latency on the holding core (R268). -/
theorem shortLatency_tmov (s : State) (tm : Team) (x : Fields) :
    shortLatency s tm 0x56 x = State.passLatency tm 4 (if s.halvedIssue then 2 * 1 else 1) := by
  have htimes : shortTimes 0x56 x = (4, 1) := by simp [shortTimes]
  simp only [shortLatency, htimes, State.passLatency]
  split <;> rfl

/-- TMOV's access from another core than its team's holding core, with its participating threads and the word that each brings (R36). -/
def tmovSent (s : State) (tm : Team) (x : Fields) (h : Thread) (ps : List Thread) (word : Thread → W32) : Arrival :=
  ⟨s.clk.cycle + holdTransit tm h.ref.core, h.gref, tm.id, 0x56, x, ps.map fun u => (u.ref, true, word u), s.clk.nextId, false, h.handler⟩

/-- A read from another core leaves for the holding core, and its windows open (R36, R192). -/
theorem execTmovRead_far {s : State} {x : Fields} {tm : Team} {sp : OpSpec} {h : Thread} {rest : List Thread} (hgoes : Goes s 0x56 x tm sp h rest)
    (hfar : holdTransit tm h.ref.core ≠ 0) (hpart : partOf x (h :: rest) ≠ []) :
    let ps := partOf x (h :: rest)
    execTmovRead x s = .next ((((s.fresh.2.sendArrival (tmovSent s tm x h ps fun _ => 0)).count (ps.map (·.ref)) x.set.toNat).openWindows (ps.map (·.ref))
      x.la.toNat s.clk.nextId x.d.toNat 1).advance (h :: rest) x.form.length) := by
  obtain ⟨hactive, hteam, hcheck, hrow⟩ := hgoes
  have hne : ((h :: rest).filter fun t => t.guardTrue x.guard).isEmpty = false := by simpa [partOf] using hpart
  rw [execTmovRead, State.issueThen_next hactive hteam hrow hcheck]
  simp only [if_neg hfar, hne, Bool.false_eq_true, if_false]
  rfl

/-- A read on the holding core answers at issue (R267). -/
theorem execTmovRead_here {s : State} {x : Fields} {tm : Team} {sp : OpSpec} {h : Thread} {rest : List Thread} (hgoes : Goes s 0x56 x tm sp h rest)
    (hhere : holdTransit tm h.ref.core = 0) : execTmovRead x s = .next (s.lanewise 0x56 x 4 1 fun _ => .word (tm.tregs.getD x.a.toNat 0)) := by
  obtain ⟨hactive, hteam, hcheck, hrow⟩ := hgoes
  rw [execTmovRead, State.issueThen_next hactive hteam hrow hcheck]
  simp only [hhere, if_true]

/-- A write acts on the holding core, or leaves for it with the words of its lanes (R36, R267). -/
theorem execTmovWrite_next {s : State} {x : Fields} {tm : Team} {sp : OpSpec} {h : Thread} {rest : List Thread} (hgoes : Goes s 0x56 x tm sp h rest) :
    let ps := partOf x (h :: rest)
    let word := fun u => (readOpd s u sp.a x.a).setWidth 32
    execTmovWrite x s = .next ((if holdTransit tm h.ref.core = 0
      then (tmovWriteNow s tm.id x.d.toNat (ps.map word)).slotFor x.set.toNat (State.passLatency tm 4 1) ps
      else if ps.isEmpty then s else (s.count (ps.map (·.ref)) x.set.toNat).sendArrival (tmovSent s tm x h ps word)).advance (h :: rest) x.form.length) := by
  obtain ⟨hactive, hteam, hcheck, hrow⟩ := hgoes
  rw [execTmovWrite, State.issueThen_next hactive hteam hrow hcheck]
  simp only [List.map_map, Function.comp_def, laneOf, List.map_id', List.isEmpty_map, tmovSent, partOf]
  rfl

/-- A TMOV that arrives at the holding core is done there. -/
theorem arrives_tmov {s : State} {a : Arrival} {tm : Team} (hteam : s.team a.team = some tm) (hanswer : a.answer = false) (hop : a.op = 0x56) :
    s.arrives a = (taken s a).tmovArrives tm a := by
  have hteam' : (taken s a).team a.team = some tm := hteam
  unfold taken at hteam' ⊢
  simp only [State.arrives, hteam', hanswer, hop, Bool.false_eq_true, if_false]

/-- Of the words of a write the last one stays (R54). -/
theorem tmovWriteNow_last {s : State} {team g : Nat} {vals : List W32} {v : W32} (hlast : vals.getLast? = some v) :
    tmovWriteNow s team g vals = s.updTeam team fun k => { k with tregs := k.tregs.set g v } := by
  simp [tmovWriteNow, hlast]

/-- Settles O21: from another core an access leaves (`execTmovRead_far`, `execTmovWrite_next`) and is done as it arrives (`arrives_tmov`); on the holding
core a read writes its results at issue, and of the words of a write the highest lane's stays. -/
theorem teamRegisters : Obligations.TeamRegisters := by
  unfold Obligations.TeamRegisters
  refine ⟨?leaves, ?arrives, ?here⟩
  case leaves =>
    intro x s tm sp h rest p ps hgoes hfar hpart
    have hne : partOf x (h :: rest) ≠ [] := by simp [hpart]
    refine ⟨?_, ?_⟩
    · exact (execTmovRead_far hgoes hfar hne).trans (by rw [hpart]; rfl)
    · refine (execTmovWrite_next hgoes).trans ?_
      rw [hpart, if_neg hfar]
      rfl
  case arrives =>
    intro s a tm hteam hanswer hop
    rw [arrives_tmov hteam hanswer hop]
    refine ⟨fun hread => ?_, fun q hwrite hlast => ?_⟩
    · simp only [State.tmovArrives, hread, if_true]
    · have hword : (a.threads.map (·.2.2)).getLast? = some q.2.2 := by rw [List.getLast?_map, hlast, Option.map_some]
      simp only [State.tmovArrives, if_neg hwrite, tmovWriteNow_last hword]
  case here =>
    intro x s tm sp h rest hgoes hhere
    refine ⟨fun _ hkw => ?_, fun u hlast => ?_⟩
    · refine ⟨_, execTmovRead_here hgoes hhere, ?_⟩
      rw [lanewise_next hgoes (constOperand_of_kw_false hkw), ← shortLatency_tmov s tm x]
      exact ⟨onlyThreads_issuedState .., wrote_issuedState .., timed_issuedState ..⟩
    · have hword : ((partOf x (h :: rest)).map fun u => (readOpd s u sp.a x.a).setWidth 32).getLast? = some ((readOpd s u sp.a x.a).setWidth 32 : W32) := by
        rw [List.getLast?_map, hlast, Option.map_some]
      refine (execTmovWrite_next hgoes).trans ?_
      rw [if_pos hhere, tmovWriteNow_last hword]

end Sys2Proof.Proofs.Execution
end

section
/-! PROOFS. Grants, and the Sieve (O39, O43). -/

namespace Sys2Proof.Proofs.Execution

open Sys2Proof Sys2Proof.Machine Sys2Proof.Claims

/-! ### Grants (R56, R174, R365, R423) -/

/-- A flit before which no other flit of its sender, and none of its path that a replay does not hold, is still under way, is behind none (R300, R417). -/
theorem flitBehind_false {s : State} {f : Flit}
    (hclear : ∀ g ∈ s.mem.flits.takeWhile fun g => g.id != f.id,
      ¬ (g.sender = f.sender ∧ g.ctx = f.ctx ∧ g.dest = f.dest) ∧ (s.flitPath g = s.flitPath f → s.replaying g.ctx = true)) : s.flitBehind f = false := by
  refine List.any_eq_false.mpr fun g hg => ?_
  obtain ⟨hsender, hpath⟩ := hclear g hg
  have hother : State.sameSender g f = false := by
    rw [Bool.eq_false_iff]
    simpa [State.sameSender, and_assoc] using hsender
  by_cases hp : s.flitPath g = s.flitPath f
  · simp [hother, hpath hp]
  · simp [hother, hp]

/-- A flit that is behind none, and has room, enters its queue as the Logline records it or lets it, and receives that wait are served. -/
theorem execMessageArrival_enters {s s1 s2 : State} {f : Flit} (hfind : (s.mem.flits.find? fun g => g.id == f.id) = some f) (hbehind : s.flitBehind f = false)
    (hroom : (s.enterQueue f).isSome = true) (hlog : s.logFlit f = .now s1) (henter : s1.enterQueue f = some s2) :
    execMessageArrival f.id s = .next ((s2.flitDelivered f).serveReceives f.dest f.ctx f.queue (s2.receiveFuel f.dest)) := by
  obtain ⟨s0, hs0⟩ := Option.isSome_iff_exists.mp hroom
  simp only [execMessageArrival, hfind, hbehind, hs0, hlog, henter, Bool.false_eq_true, if_false]

/-- Settles O39: the condition of each happening names the branch of its meaning that acts; for a message it is first shown that no flit is before it
(`flitBehind_false`). -/
theorem grants : Obligations.Grants := by
  unfold Obligations.Grants
  refine fun s => ⟨?stage, ?barrier, ?handle, ?message⟩
  case stage =>
    intro team ring consume tm g a t hgrant
    show execStageAcquireGrant team ring consume s = _
    rw [execStageAcquireGrant, hgrant]
  case barrier =>
    intro ctx n hdone
    show execBarrierComplete ctx n s = _
    exact congrArg Host.Outcome.next (if_pos hdone)
  case handle =>
    intro t team n res htake
    show execTtakeGrant t s = _
    rw [execTtakeGrant, htake]
  case message =>
    intro f s1 s2 hfind hclear hroom hlog henter
    exact execMessageArrival_enters hfind (flitBehind_false hclear) hroom hlog henter

/-! ### The Sieve and automatic reform (R43 to R47, R59) -/

/-- Settles O43: the condition of each happening names the branch of its meaning that acts: the draw of its class, the reform of a full counter, the end of a
cancelled waiter. -/
theorem sieveAndGroups : Obligations.SieveAndGroups := by
  unfold Obligations.SieveAndGroups
  refine fun s => ⟨?draw, ?age, ?move, ?reform, ?cancel⟩
  case draw =>
    intro core b cls n hdraw hcls
    show execSieveDraw core s = _
    rw [execSieveDraw, hdraw]
    exact congrArg Host.Outcome.next (if_neg hcls)
  case age =>
    intro core b n hdraw
    show execBinAgeLimit core b.ctx b.index s = _
    rw [execBinAgeLimit, hdraw]
    exact congrArg Host.Outcome.next (if_pos ⟨rfl, rfl, rfl⟩)
  case move => exact fun _ => rfl
  case reform =>
    intro g k hgroup hcount
    show execAutomaticReform g s = _
    rw [execAutomaticReform, hgroup]
    exact congrArg Host.Outcome.next (if_neg (Nat.not_lt.mpr hcount))
  case cancel =>
    intro t h hthread hwaits
    show execWaitingCancelExit t s = _
    rw [execWaitingCancelExit, hthread]
    exact congrArg Host.Outcome.next (if_pos hwaits)

end Sys2Proof.Proofs.Execution
end

section
/-! PROOFS. Posts, and the Pilot (O46). -/

namespace Sys2Proof.Proofs.Execution

open Sys2Proof Sys2Proof.Machine Sys2Proof.Claims

/-! ### A context's record of the state -/

theorem modifyAt_eq_modify {α : Type} (f : α → α) (n : Nat) (l : List α) : modifyAt f n l = l.modify n f := by
  induction l generalizing n with
  | nil => cases n <;> rfl
  | cons x xs ih => cases n with
    | zero => rfl
    | succ n => rw [modifyAt, ih, List.modify_succ_cons]

theorem ctx_updCtx_same (s : State) (n : Nat) (f : Context → Context) : (s.updCtx n f).ctx n = (s.ctx n).map f := by
  simp [State.ctx, modifyAt_eq_modify]

theorem ctx_updCtx_ne (s : State) {m n : Nat} (f : Context → Context) (h : m ≠ n) : (s.updCtx n f).ctx m = s.ctx m := by
  simp [State.ctx, modifyAt_eq_modify, h.symm]

/-- A change of a context that keeps CTXCTL keeps its bits. -/
theorem ctl_updCtx (s : State) (n bit : Nat) {f : Context → Context} (hf : ∀ c, (f c).ctl = c.ctl) : (s.updCtx n f).ctl n bit = s.ctl n bit := by
  rw [State.ctl, State.ctl, ctx_updCtx_same]
  cases s.ctx n with
  | none => rfl
  | some c => exact congrArg (·.getLsbD bit) (hf c)

/-! ### Posts (R64 to R70) -/

theorem ctxEn_rejected (s : State) (n code : Nat) : (rejected s n code).ctxEn n = s.ctxEn n := ctl_updCtx s n 0 fun _ => rfl

theorem ctxEn_broken (s : State) (n : Nat) (b : PostBuffer) : (broken s n b).ctxEn n = s.ctxEn n := ctxEn_rejected _ n 7

theorem hostPost_enabled {s : State} {n : Nat} (hen : s.ctxEn n = true) (hart : Nat) (bs : List Byte) :
    s.hostPost hart n bs = (s.post n bs .program).2.answer hart [] false := if_pos hen

/-- A hart without a sequence to the window breaks none. -/
theorem breakSequence_none {s : State} {hart n : Nat} (hseq : sequenceOf s hart n = none) (o k : Nat) : breakSequence s hart n o k = s := by
  unfold sequenceOf at hseq
  rw [breakSequence, hseq]

/-- A store of a whole record, or outside the sequence's 64 bytes, breaks the sequence (R65). -/
theorem breakSequence_broken {s : State} {hart n o k : Nat} {b : PostBuffer} (hseq : sequenceOf s hart n = some b)
    (hbreaks : b.offset ≠ o / 64 * 64 ∨ 64 ≤ k) : breakSequence s hart n o k = broken s n b := by
  unfold sequenceOf at hseq
  rw [breakSequence, hseq]
  exact if_pos (hbreaks.elim .inl fun h => .inr (.inr (.inl h)))

/-- A store that meets the conditions of a sequence is not refused. -/
theorem sequenceStore_admitted {s : State} {n o : Nat} (hn : n < 32) (halign : o % 8 = 0) (ho : o < 0xF00) (hen : s.ctxEn n = true) :
    ¬ (Config.contexts ≤ n ∨ o % 8 ≠ 0 ∨ 0xF00 ≤ o || !(s.ctxEn n)) := by
  have hn' : ¬ Config.contexts ≤ n := Nat.not_le.mpr hn
  simp [hn', halign, hen, ho]

section
variable {s : State} {hart n o : Nat} (hn : n < 32) (halign : o % 8 = 0) (ho : o < 0xF00) (hen : s.ctxEn n = true) (v : W64)
include hn halign ho hen

/-- The first store of a sequence begins it. -/
theorem execPostSequenceStore_first (hseq : sequenceOf s hart n = none) :
    execPostSequenceStore hart n o v s = .next ((withSequence s hart n [⟨hart, n, o / 64 * 64, [(o % 64 / 8, v)]⟩]).answer hart [] false) := by
  unfold sequenceOf at hseq
  rw [execPostSequenceStore, if_neg (sequenceStore_admitted hn halign ho hen)]
  dsimp only
  rw [hseq]
  rfl

/-- A store to other 64 bytes, or to a doubleword that the sequence holds, breaks it and begins another. -/
theorem execPostSequenceStore_breaks {b : PostBuffer} (hseq : sequenceOf s hart n = some b)
    (hbreaks : b.offset ≠ o / 64 * 64 ∨ ∃ w ∈ b.words, w.1 = o % 64 / 8) :
    execPostSequenceStore hart n o v s =
      .next ((rejected (withSequence s hart n [⟨hart, n, o / 64 * 64, [(o % 64 / 8, v)]⟩]) n 7).answer hart [] false) := by
  unfold sequenceOf at hseq
  rw [execPostSequenceStore, if_neg (sequenceStore_admitted hn halign ho hen)]
  dsimp only
  rw [hseq]
  by_cases hoffset : b.offset = o / 64 * 64
  · have hheld : (b.words.any fun w => w.1 == o % 64 / 8) = true := by simpa using hbreaks.resolve_left (not_not_intro hoffset)
    exact congrArg Host.Outcome.next ((if_neg (not_not_intro hoffset)).trans (if_pos hheld))
  · exact congrArg Host.Outcome.next (if_pos hoffset)

/-- Another doubleword of the sequence joins it; the eighth posts its record. -/
theorem execPostSequenceStore_joins {b : PostBuffer} (hseq : sequenceOf s hart n = some b) (hoffset : b.offset = o / 64 * 64)
    (hnew : ∀ w ∈ b.words, w.1 ≠ o % 64 / 8) :
    execPostSequenceStore hart n o v s = .next (if b.words.length < 7
      then (withSequence s hart n [{ b with words := b.words ++ [(o % 64 / 8, v)] }]).answer hart [] false
      else ((withSequence s hart n []).post n (sequenceBytes (b.words ++ [(o % 64 / 8, v)])) .program).2.answer hart [] false) := by
  unfold sequenceOf at hseq
  have hfree : ¬ (b.words.any fun w => w.1 == o % 64 / 8) = true := by
    rw [List.any_eq_true]
    exact fun ⟨w, hw, he⟩ => hnew w hw (beq_iff_eq.mp he)
  have hcount : (b.words ++ [(o % 64 / 8, v)]).length < 8 ↔ b.words.length < 7 := by simp [Nat.succ_lt_succ_iff]
  rw [execPostSequenceStore, if_neg (sequenceStore_admitted hn halign ho hen)]
  dsimp only
  rw [hseq]
  refine congrArg Host.Outcome.next ((if_neg (not_not_intro hoffset)).trans ((if_neg hfree).trans ?_))
  by_cases hlen : b.words.length < 7
  · exact (if_pos (hcount.mpr hlen)).trans (if_pos hlen).symm
  · exact ((if_neg (mt hcount.mp hlen)).trans (hostPost_enabled (s := withSequence s hart n []) hen hart _)).trans (if_neg hlen).symm

end

/-- The whole record of a host's store is posted, in a window that has not been closed to it. -/
theorem execRecordPost_next {s : State} {n o : Nat} {bs : List Byte} (hn : n < 32) (hlen : bs.length = 64) (halign : o % 64 = 0) (ho : o < 0xF00) :
    execRecordPost n o bs s = .next ((breakSequence s 0 n o 64).hostPost 0 n bs) := by
  have hok : ¬ (Config.contexts ≤ n ∨ bs.length ≠ 64 ∨ o % 64 ≠ 0 ∨ 0xF00 ≤ o) := by
    have hn' : ¬ Config.contexts ≤ n := Nat.not_le.mpr hn
    simp [hn', hlen, halign, ho]
  exact congrArg Host.Outcome.next (if_neg hok)

/-- A host's store to a post area posts a record, is a store of a sequence, or is an error that breaks one. -/
theorem execHostStore_queue {s : State} {hart ia n o : Nat} {bs : List Byte} (hhart : hart < 16) (hbs : bs ≠ []) (hap : inAperture ia = true)
    (hblock : State.blockOf ia = some (.queue n o)) (ho : o < 0xF00) :
    execHostStore hart ia bs s = if bs.length = 64 ∧ o % 64 = 0 then .next ((breakSequence s hart n o 64).hostPost hart n bs)
      else if bs.length = 8 ∧ o % 8 = 0 then execPostSequenceStore hart n o (BitVec.ofNat 64 (leNat bs)) s
      else .next ((breakSequence s hart n o bs.length).answer hart [] true) := by
  have hok : ¬ (State.harts ≤ hart ∨ bs.isEmpty = true) := by
    have hhart' : ¬ State.harts ≤ hart := Nat.not_le.mpr hhart
    simp [hhart', hbs]
  rw [execHostStore, if_neg hok, hblock, hap]
  exact if_pos ho

/-- A rejected record changes nothing but the context's counter and code; what the supervisor is told of a malformed entry comes with code 3 (R67). -/
theorem post_error {s : State} {n code : Nat} {bs : List Byte} {p : Poster} (hval : s.validate n bs p = .error code) (hcode : code ≠ 3) :
    s.post n bs p = (code, rejected s n code) := by
  rw [State.post, hval]
  exact congrArg (fun t : State => (code, t.reject n code)) (if_neg hcode)

/-- The context of an accepted record, with the record queued and the credits that it uses removed (R68, R70). -/
def withRecord (s : State) (n : Nat) (r : Record) (c : Context) : Context :=
  { c with queue := c.queue ++ [queuedAs s n c r], credits := creditsLeft c r }

theorem post_ok {s s1 : State} {n : Nat} {bs : List Byte} {p : Poster} {r : Record} (hval : s.validate n bs p = .ok (r, s1)) :
    s.post n bs p = (0, s1.fresh.2.updCtx n (withRecord s1 n r)) := by
  have hprio : (if r.prio = 0 && !(s1.ctxRt n) then 1 else r.prio) = if r.prio = 0 ∧ s1.ctxRt n = false then 1 else r.prio := by simp
  rw [State.post, hval]
  refine congrArg (fun f => (0, s1.fresh.2.updCtx n f)) (funext fun c => ?_)
  unfold withRecord queuedAs
  rw [← hprio]
  rfl

/-! ### What an access to memory leaves as it was -/

/-- Nothing but memory, the package and the clock has changed. -/
def OnlyMemory (s t : State) : Prop := { t with mem := s.mem, pkg := s.pkg, clk := s.clk } = s

theorem OnlyMemory.refl (s : State) : OnlyMemory s s := rfl

theorem OnlyMemory.trans {s t u : State} (h₁ : OnlyMemory s t) (h₂ : OnlyMemory t u) : OnlyMemory s u :=
  (congrArg (fun w : State => { w with mem := s.mem, pkg := s.pkg, clk := s.clk }) h₂ :).trans h₁

theorem onlyMemory_markEntry (s : State) (entry : Option Nat) (write : Bool) : OnlyMemory s (s.markEntry entry write) := by
  cases entry <;> rfl

theorem onlyMemory_keepSlice (s : State) (l : SliceLine) : OnlyMemory s (s.keepSlice l) := by
  unfold State.keepSlice
  dsimp only
  split <;> rfl

theorem onlyMemory_performWrite (s : State) (pa ia : Nat) (bs : List Byte) (tag : Option (BitVec 4 × Nat)) :
    OnlyMemory s (s.performWrite pa ia bs tag).1 := by
  unfold State.performWrite State.touchSlice
  refine OnlyMemory.trans ?_ (onlyMemory_keepSlice _ _)
  split
  · split
    · refine OnlyMemory.trans ?_ (onlyMemory_markEntry _ _ _)
      rfl
    · rfl
  · rfl

theorem onlyMemory_homePut (s : State) (ctx : Nat) (bs : List Byte) (w : Nat) (spans : List (Nat × Nat)) : OnlyMemory s (s.homePut ctx bs w spans).1 := by
  induction spans generalizing s bs w with
  | nil => exact OnlyMemory.refl s
  | cons p rest ih =>
    unfold State.homePut
    split
    · exact OnlyMemory.refl s
    · exact (onlyMemory_performWrite _ _ _ _ _).trans (ih _ _ _)

theorem onlyMemory_logStore (s : State) (ctx ia : Nat) (bs : List Byte) : OnlyMemory s (s.logStore ctx ia bs) := by
  unfold State.logStore
  split
  · exact (onlyMemory_homePut _ _ _ _ _).trans rfl
  · split
    · split
      · split <;> rfl
      · rfl
    · rfl

theorem onlyMemory_homeBytes {s t : State} {n : Need} {spans : List (Nat × Nat)} {bs : List Byte} (h : s.homeBytes n spans = .ok (bs, t)) : OnlyMemory s t := by
  induction spans generalizing s t bs with
  | nil => cases h; exact OnlyMemory.refl s
  | cons p rest ih =>
    unfold State.homeBytes at h
    split at h
    · cases h
    · split at h
      · cases h
      · split at h
        · cases h
        · next hrest => cases h; exact (onlyMemory_markEntry _ _ _).trans (ih hrest)

theorem onlyMemory_deviceRead {s t : State} {ia n : Nat} {bs : List Byte} (h : s.deviceRead ia n = .ok (bs, t)) : OnlyMemory s t := by
  unfold State.deviceRead at h
  split at h
  · exact onlyMemory_homeBytes h
  · split at h
    · cases hread : s.apertureRead true ia n with
      | error e => rw [hread] at h; cases h
      | ok b => rw [hread] at h; cases h; rfl
    · split at h
      · cases h
      · split at h
        · cases h
        · cases h; rfl

theorem onlyMemory_contextRead {s t : State} {ctx va n : Nat} {bs : List Byte} (h : s.contextRead ctx va n = .ok (bs, t)) : OnlyMemory s t := by
  unfold State.contextRead at h
  split at h
  · cases h
  · split at h
    · cases h
    · exact onlyMemory_deviceRead h

theorem onlyMemory_bindWindows (s : State) (ctx : Nat) (ws : List Nat) : OnlyMemory s (s.bindWindows ctx ws).2 := by
  induction ws generalizing s with
  | nil => exact OnlyMemory.refl s
  | cons w ws ih =>
    unfold State.bindWindows
    dsimp only
    refine OnlyMemory.trans ?_ (ih _)
    split
    · exact OnlyMemory.refl s
    · split
      · exact OnlyMemory.refl s
      · next hread => exact onlyMemory_contextRead hread

/-! ### What the Logline leaves as it was (R446, R447) -/

/-- Nothing but memory, the package, the clock and what a context has of its log has changed. -/
structure OnlyLog (n : Nat) (s t : State) : Prop where
  rest : { t with mem := s.mem, pkg := s.pkg, clk := s.clk, ctxs := s.ctxs } = s
  others : ∀ m ≠ n, t.ctx m = s.ctx m
  here : ∀ c, s.ctx n = some c → ∃ k, t.ctx n = some k ∧ { k with logHead := c.logHead, stalled := c.stalled, replayed := c.replayed } = c

theorem OnlyMemory.onlyLog {s t : State} (n : Nat) (h : OnlyMemory s t) : OnlyLog n s t := by
  have hctx : ∀ m, t.ctx m = s.ctx m := fun m => (congrArg (fun w : State => w.ctx m) h :)
  exact ⟨(congrArg (fun w : State => { w with ctxs := s.ctxs }) h), fun m _ => hctx m, fun c hc => ⟨c, (hctx n).trans hc, rfl⟩⟩

theorem OnlyLog.refl (n : Nat) (s : State) : OnlyLog n s s := (OnlyMemory.refl s).onlyLog n

theorem OnlyLog.trans {n : Nat} {s t u : State} (h₁ : OnlyLog n s t) (h₂ : OnlyLog n t u) : OnlyLog n s u where
  rest := (congrArg (fun w : State => { w with mem := s.mem, pkg := s.pkg, clk := s.clk, ctxs := s.ctxs }) h₂.rest).trans h₁.rest
  others m hm := (h₂.others m hm).trans (h₁.others m hm)
  here c hc := by
    obtain ⟨k, hk, hkc⟩ := h₁.here c hc
    obtain ⟨k', hk', hk'k⟩ := h₂.here k hk
    exact ⟨k', hk', (congrArg (fun w : Context => { w with logHead := c.logHead, stalled := c.stalled, replayed := c.replayed }) hk'k).trans hkc⟩

theorem OnlyLog.threads {n : Nat} {s t : State} (h : OnlyLog n s t) : t.threads = s.threads := (congrArg State.threads h.rest :)
theorem OnlyLog.groups {n : Nat} {s t : State} (h : OnlyLog n s t) : t.groups = s.groups := (congrArg State.groups h.rest :)
theorem OnlyLog.teams {n : Nat} {s t : State} (h : OnlyLog n s t) : t.teams = s.teams := (congrArg State.teams h.rest :)
theorem OnlyLog.runs {n : Nat} {s t : State} (h : OnlyLog n s t) : t.runs = s.runs := (congrArg State.runs h.rest :)

/-- A change of what a context has of its log. -/
theorem onlyLog_updCtx (s : State) (n : Nat) {f : Context → Context}
    (hf : ∀ c, { f c with logHead := c.logHead, stalled := c.stalled, replayed := c.replayed } = c) : OnlyLog n s (s.updCtx n f) where
  rest := rfl
  others _ hm := ctx_updCtx_ne s f hm
  here c hc := ⟨f c, by rw [ctx_updCtx_same, hc, Option.map_some], hf c⟩

theorem onlyLog_logAppend (s : State) (n kind time : Nat) (place : CoreId) (slot : Nat) (payload : List Byte) :
    OnlyLog n s (s.logAppend n kind time place slot payload) := by
  unfold State.logAppend
  split
  · exact OnlyLog.refl n s
  · split
    · exact OnlyLog.refl n s
    · dsimp only
      split
      · exact onlyLog_updCtx s n fun _ => rfl
      · exact ((onlyMemory_logStore _ _ _ _).onlyLog n).trans (onlyLog_updCtx _ n fun _ => rfl)

theorem onlyLog_beginEntry (s : State) (h : State.Head) : OnlyLog h.ctx s (s.beginEntry h).1 := by
  unfold State.beginEntry
  dsimp only
  split
  · split
    · exact onlyLog_updCtx s _ fun _ => rfl
    · exact OnlyLog.refl _ s
  · exact onlyLog_logAppend ..

/-! ### A dequeue (R69 to R72) -/

/-- Telling the poster changes the render side and the tile store only (R386, R406, R411). -/
theorem tellPoster_frame (s : State) (p : Poster) (ok : Bool) : { s.tellPoster p ok with render := s.render, tile := s.tile } = s := by
  have hfree : ∀ (bs : List Band) (d : Nat) (t : State),
      { bs.foldl (fun s k => State.freeGathered s d k.site k.slots) t with render := s.render, tile := s.tile } = { t with render := s.render, tile := s.tile } := by
    intro bs d
    induction bs with
    | nil => exact fun _ => rfl
    | cons b bs ih => exact fun t => ih _
  unfold State.tellPoster
  split
  · rfl
  · exact hfree _ _ s
  · rfl

/-- A record that retires gives its context a credit of SUCC, and changes no team, thread, run or other context (R70). -/
theorem retire_parts (s : State) (n : Nat) (r : Record) (ok : Bool) :
    (s.retire n r ok).teams = s.teams ∧ (s.retire n r ok).threads = s.threads ∧ (s.retire n r ok).runs = s.runs ∧
    (∀ m ≠ n, (s.retire n r ok).ctx m = s.ctx m) ∧
    (s.retire n r ok).ctx n = (s.ctx n).map fun c => if r.succ = 0 then c else State.creditTag c r.succ := by
  have hframe := tellPoster_frame s r.poster ok
  have hctx : ∀ m, (s.tellPoster r.poster ok).ctx m = s.ctx m := fun m => (congrArg (fun w : State => w.ctx m) hframe :)
  unfold State.retire
  dsimp only
  split
  · exact ⟨(congrArg State.teams hframe :), (congrArg State.threads hframe :), (congrArg State.runs hframe :), fun m _ => hctx m,
      (hctx n).trans Option.map_id'.symm⟩
  · exact ⟨(congrArg State.teams hframe :), (congrArg State.threads hframe :), (congrArg State.runs hframe :),
      fun m hm => (ctx_updCtx_ne _ _ hm).trans (hctx m), by rw [ctx_updCtx_same, hctx]⟩

/-- The context of a record that a die's Pilot takes: it has left the queue, and counts as late after its DEADLINE (R69). -/
def withoutRecord (s : State) (d : Nat) (r : Record) (c : Context) : Context :=
  { c with queue := c.queue.filter (fun q => q.seq != r.seq)
           late := if r.deadline ≠ 0 ∧ r.deadline.toNat < s.chrono (State.dieUnit d) then (c.late + 1) % 2 ^ 16 else c.late }

/-- What a dequeue does once its DEQ entry is begun: the record leaves its queue, and becomes a run or retires. -/
theorem dequeue_eq (s : State) (n : Nat) (r : Record) (d : Nat) :
    s.dequeue n r d =
      let e := s.beginEntry (.queued n r)
      let u := e.1.updCtx n (withoutRecord s d r)
      if r.marked then u.retire n r false
      else { u.fresh.2 with runs := u.runs ++ [⟨u.clk.nextId, n, r, 0, 0, .normal, false, none, e.2⟩] } := by
  have hlate : ∀ c : Context,
      (if (r.deadline != 0 && decide (r.deadline.toNat < s.chrono (State.dieUnit d))) then (c.late + 1) % 2 ^ 16 else c.late) =
      if r.deadline ≠ 0 ∧ r.deadline.toNat < s.chrono (State.dieUnit d) then (c.late + 1) % 2 ^ 16 else c.late := fun c => by simp
  unfold State.dequeue withoutRecord
  simp only [← hlate]
  rfl

/-- A dequeue changes its context's queue and its count of late records, and what the log has of it; its record is a new run, or retires where it is marked. -/
theorem dequeue_parts {s : State} {n d : Nat} {r : Record} {c : Context} (hc : s.ctx n = some c) :
    ∃ t k, s.dequeue n r d = t ∧ t.teams = s.teams ∧ t.threads = s.threads ∧ (∀ m ≠ n, t.ctx m = s.ctx m) ∧
      k.queue = c.queue.filter (fun q => q.seq != r.seq) ∧ k.credits = c.credits ∧ k.retiring = c.retiring ∧
      k.late = (if r.deadline ≠ 0 ∧ r.deadline.toNat < s.chrono (State.dieUnit d) then (c.late + 1) % 2 ^ 16 else c.late) ∧
      (r.marked = false → t.ctx n = some k ∧ ∃ id e, t.runs = s.runs ++ [⟨id, n, r, 0, 0, .normal, false, none, e⟩]) ∧
      (r.marked = true → t.runs = s.runs ∧ t.ctx n = some (if r.succ = 0 then k else State.creditTag k r.succ)) := by
  have hlog := onlyLog_beginEntry s (.queued n r)
  obtain ⟨k, hk, hkc⟩ := hlog.here c hc
  have hqueue : k.queue = c.queue := (congrArg Context.queue hkc :)
  have hcredits : k.credits = c.credits := (congrArg Context.credits hkc :)
  have hretiring : k.retiring = c.retiring := (congrArg Context.retiring hkc :)
  have hlate : k.late = c.late := (congrArg Context.late hkc :)
  have hothers : ∀ m ≠ n, ((s.beginEntry (.queued n r)).1.updCtx n (withoutRecord s d r)).ctx m = s.ctx m :=
    fun m hm => (ctx_updCtx_ne _ _ hm).trans (hlog.others m hm)
  have hhere : ((s.beginEntry (.queued n r)).1.updCtx n (withoutRecord s d r)).ctx n = some (withoutRecord s d r k) := by
    rw [ctx_updCtx_same, show (s.beginEntry (.queued n r)).1.ctx n = some k from hk, Option.map_some]
  refine ⟨_, withoutRecord s d r k, rfl, ?_⟩
  rw [dequeue_eq]
  dsimp only
  cases hmarked : r.marked with
  | true =>
    obtain ⟨hteams, hthreads, hruns, hctxs, hctx⟩ := retire_parts ((s.beginEntry (.queued n r)).1.updCtx n (withoutRecord s d r)) n r false
    exact ⟨hteams.trans hlog.teams, hthreads.trans hlog.threads, fun m hm => (hctxs m hm).trans (hothers m hm),
      congrArg _ hqueue, hcredits, hretiring, by rw [withoutRecord, hlate], nofun,
      fun _ => ⟨hruns.trans hlog.runs, by rw [if_pos rfl, hctx, hhere, Option.map_some]⟩⟩
  | false =>
    exact ⟨hlog.teams, hlog.threads, hothers, congrArg _ hqueue, hcredits, hretiring, by rw [withoutRecord, hlate],
      fun _ => ⟨hhere, _, _, congrArg (· ++ _) hlog.runs⟩, nofun⟩

/-! ### A placement (R31 to R35, R72 to R74) -/

/-- A part of a state that each step of a fold leaves as it is. -/
theorem foldl_keeps {α β : Type} {π : State → β} {f : State → α → State} (hf : ∀ s a, π (f s a) = π s) (l : List α) (s : State) :
    π (l.foldl f s) = π s := by
  induction l generalizing s with
  | nil => rfl
  | cons a l ih => exact (ih _).trans (hf s a)

@[simp] theorem formGroup_threads (s : State) (g : GRef) (team : Nat) : (s.formGroup g team).threads = s.threads := by simp [State.formGroup]
@[simp] theorem formGroup_teams (s : State) (g : GRef) (team : Nat) : (s.formGroup g team).teams = s.teams := by simp [State.formGroup]
@[simp] theorem formGroup_runs (s : State) (g : GRef) (team : Nat) : (s.formGroup g team).runs = s.runs := by simp [State.formGroup]
@[simp] theorem formGroup_groups (s : State) (g : GRef) (team : Nat) :
    (s.formGroup g team).groups = s.groups ++ [⟨g, team, 0, none, 0, [], false⟩] := by simp [State.formGroup]

/-- A group of the team is listed. -/
def HasGroup (s : State) (g : GRef) (team : Nat) : Prop := ∃ k ∈ s.groups, k.ref = g ∧ k.team = team

theorem HasGroup.of_groups_eq {s t : State} {g : GRef} {team : Nat} (h : HasGroup s g team) (ht : t.groups = s.groups) : HasGroup t g team := by
  unfold HasGroup
  exact ht.symm ▸ h

theorem HasGroup.formGroup {s : State} {g : GRef} {team : Nat} (h : HasGroup s g team) (g' : GRef) (team' : Nat) : HasGroup (s.formGroup g' team') g team := by
  obtain ⟨k, hk, hr, ht⟩ := h
  exact ⟨k, by rw [formGroup_groups]; exact List.mem_append_left _ hk, hr, ht⟩

theorem hasGroup_formGroup (s : State) (g : GRef) (team : Nat) : HasGroup (s.formGroup g team) g team :=
  ⟨_, by rw [formGroup_groups]; exact List.mem_append_right _ (.head _), rfl, rfl⟩

/-- Forming groups one after another keeps those that are listed. -/
theorem HasGroup.formGroups {s : State} {g : GRef} {team : Nat} (h : HasGroup s g team) (c : CoreId) (ctx team' : Nat) (gs : List Nat) :
    HasGroup (gs.foldl (fun s g => s.formGroup ⟨c, ctx, g⟩ team') s) g team := by
  induction gs generalizing s with
  | nil => exact h
  | cons g' gs ih => exact ih (h.formGroup _ _)

/-- The groups of a list that are formed one after another are listed. -/
theorem hasGroup_formGroups (s : State) (c : CoreId) (ctx team : Nat) {gs : List Nat} {g : Nat} (hg : g ∈ gs) :
    HasGroup (gs.foldl (fun s g => s.formGroup ⟨c, ctx, g⟩ team) s) ⟨c, ctx, g⟩ team := by
  induction gs generalizing s with
  | nil => cases hg
  | cons g' gs ih =>
    rcases List.mem_cons.mp hg with rfl | hg
    · exact (hasGroup_formGroup s _ team).formGroups c ctx team gs
    · exact ih _ hg

/-- A part of a launched team before its groups are formed: its plot is allotted, its threads start. -/
def partStarted (s : State) (tm : Team) (base : Nat) (p : Part) : State :=
  let s' := s.fresh.2
  let s' : State := if tm.header.plot = 0 then s'
    else { s' with plots := s'.plots ++ [⟨s.clk.nextId, tm.ctx, p.core, tm.id, .heldBy tm.id, (s'.freeUnits p.core).take tm.header.plot, []⟩] }
  { s' with threads := s'.threads ++ (List.range p.count).map fun i => State.newThread tm p base i }

/-- The launch of a part forms its groups, which issue when its plot is zeroed (R35, R139). -/
theorem launchPart_eq (s : State) (tm : Team) (base : Nat) (p : Part) :
    let u := p.groups.foldl (fun s g => s.formGroup ⟨p.core, tm.ctx, g⟩ tm.id) (partStarted s tm base p)
    s.launchPart tm base p =
      { u with groups := mapIf (fun g => g.team == tm.id && g.ref.core == p.core) (fun g => { g with ready := u.clk.cycle + 32 * tm.header.plot }) u.groups
               mem := { u.mem with plotPoison := u.mem.plotPoison.filter fun q => q.1 != s.clk.nextId } } := rfl

theorem launchPart_groups (s : State) (tm : Team) (base : Nat) (p : Part) :
    (s.launchPart tm base p).groups = mapIf (fun g => g.team == tm.id && g.ref.core == p.core)
      (fun g => { g with
        ready := (p.groups.foldl (fun s g => s.formGroup ⟨p.core, tm.ctx, g⟩ tm.id) (partStarted s tm base p)).clk.cycle + 32 * tm.header.plot })
      (p.groups.foldl (fun s g => s.formGroup ⟨p.core, tm.ctx, g⟩ tm.id) (partStarted s tm base p)).groups := rfl

@[simp] theorem partStarted_threads (s : State) (tm : Team) (base : Nat) (p : Part) :
    (partStarted s tm base p).threads = s.threads ++ (List.range p.count).map (State.newThread tm p base) := by
  unfold partStarted; dsimp only; split <;> rfl
@[simp] theorem partStarted_teams (s : State) (tm : Team) (base : Nat) (p : Part) : (partStarted s tm base p).teams = s.teams := by
  unfold partStarted; dsimp only; split <;> rfl
@[simp] theorem partStarted_runs (s : State) (tm : Team) (base : Nat) (p : Part) : (partStarted s tm base p).runs = s.runs := by
  unfold partStarted; dsimp only; split <;> rfl
@[simp] theorem partStarted_groups (s : State) (tm : Team) (base : Nat) (p : Part) : (partStarted s tm base p).groups = s.groups := by
  unfold partStarted; dsimp only; split <;> rfl

@[simp] theorem launchPart_threads (s : State) (tm : Team) (base : Nat) (p : Part) :
    (s.launchPart tm base p).threads = s.threads ++ (List.range p.count).map (State.newThread tm p base) := by
  rw [launchPart_eq]
  exact (foldl_keeps (π := State.threads) (fun t _ => formGroup_threads t _ _) _ _).trans (partStarted_threads s tm base p)
@[simp] theorem launchPart_teams (s : State) (tm : Team) (base : Nat) (p : Part) : (s.launchPart tm base p).teams = s.teams := by
  rw [launchPart_eq]
  exact (foldl_keeps (π := State.teams) (fun t _ => formGroup_teams t _ _) _ _).trans (partStarted_teams s tm base p)
@[simp] theorem launchPart_runs (s : State) (tm : Team) (base : Nat) (p : Part) : (s.launchPart tm base p).runs = s.runs := by
  rw [launchPart_eq]
  exact (foldl_keeps (π := State.runs) (fun t _ => formGroup_runs t _ _) _ _).trans (partStarted_runs s tm base p)

/-- A change of groups that keeps their places and teams keeps those that are listed. -/
theorem HasGroup.mapIf {s t : State} {g : GRef} {team : Nat} {q : Group → Bool} {f : Group → Group} (h : HasGroup s g team)
    (ht : t.groups = mapIf q f s.groups) (hf : ∀ k, (f k).ref = k.ref ∧ (f k).team = k.team) : HasGroup t g team := by
  obtain ⟨k, hk, hr, hteam⟩ := h
  refine ⟨if q k then f k else k, ht ▸ List.mem_map_of_mem hk, ?_, ?_⟩
  · rw [apply_ite Group.ref, (hf k).1, ite_self, hr]
  · rw [apply_ite Group.team, (hf k).2, ite_self, hteam]

theorem HasGroup.launchPart {s : State} {g : GRef} {team : Nat} (h : HasGroup s g team) (tm : Team) (base : Nat) (p : Part) :
    HasGroup (s.launchPart tm base p) g team := by
  exact ((h.of_groups_eq (partStarted_groups s tm base p)).formGroups p.core tm.ctx tm.id p.groups).mapIf (launchPart_groups s tm base p) fun _ => ⟨rfl, rfl⟩

/-- The groups of a part of a launched team are formed. -/
theorem hasGroup_launchPart (s : State) (tm : Team) (base : Nat) (p : Part) {g : Nat} (hg : g ∈ p.groups) :
    HasGroup (s.launchPart tm base p) ⟨p.core, tm.ctx, g⟩ tm.id :=
  (hasGroup_formGroups (partStarted s tm base p) p.core tm.ctx tm.id hg).mapIf (launchPart_groups s tm base p) fun _ => ⟨rfl, rfl⟩

/-- The parts of a team are launched one after another, the threads numbered on from `base`. -/
def launchParts (tm : Team) (base : Nat) (ps : List Part) (s : State) : State :=
  (ps.foldl (fun (acc : Nat × State) p => (acc.1 + p.count, acc.2.launchPart tm acc.1 p)) (base, s)).2

theorem launchParts_cons (tm : Team) (base : Nat) (p : Part) (ps : List Part) (s : State) :
    launchParts tm base (p :: ps) s = launchParts tm (base + p.count) ps (s.launchPart tm base p) := rfl

theorem launchParts_threads (tm : Team) (base : Nat) (ps : List Part) (s : State) :
    (launchParts tm base ps s).threads = s.threads ++ startingThreads tm base ps := by
  induction ps generalizing base s with
  | nil => exact (List.append_nil _).symm
  | cons p ps ih =>
    rw [launchParts_cons, ih, launchPart_threads, List.append_assoc]
    rfl

theorem launchParts_teams (tm : Team) (base : Nat) (ps : List Part) (s : State) : (launchParts tm base ps s).teams = s.teams := by
  induction ps generalizing base s with
  | nil => rfl
  | cons p ps ih => rw [launchParts_cons, ih, launchPart_teams]

theorem launchParts_runs (tm : Team) (base : Nat) (ps : List Part) (s : State) : (launchParts tm base ps s).runs = s.runs := by
  induction ps generalizing base s with
  | nil => rfl
  | cons p ps ih => rw [launchParts_cons, ih, launchPart_runs]

theorem HasGroup.launchParts {s : State} {g : GRef} {team : Nat} (h : HasGroup s g team) (tm : Team) (base : Nat) (ps : List Part) :
    HasGroup (launchParts tm base ps s) g team := by
  induction ps generalizing base s with
  | nil => exact h
  | cons p ps ih => exact ih (h.launchPart tm base p) _

theorem hasGroup_launchParts (tm : Team) (base : Nat) {ps : List Part} (s : State) {p : Part} (hp : p ∈ ps) {g : Nat} (hg : g ∈ p.groups) :
    HasGroup (launchParts tm base ps s) ⟨p.core, tm.ctx, g⟩ tm.id := by
  induction ps generalizing base s with
  | nil => cases hp
  | cons q ps ih =>
    rw [launchParts_cons]
    rcases List.mem_cons.mp hp with rfl | hp
    · exact (hasGroup_launchPart s tm base p hg).launchParts tm _ ps
    · exact ih _ _ hp

/-- A team's pools of tile slots are reserved, and the slots of tiles that it holds bound: only the tile store changes. -/
def poolsReserved (tm : Team) (s : State) : State :=
  let s := ((tm.parts.map fun p => (p.core.die, p.core.site)).eraseDups).foldl (fun s d => s.reservePool tm d.1 d.2) s
  let bound := fun (t : TileSlot) => (tm.parts.head?.map fun p => (p.core.die, p.core.site)) == some (t.die, t.site) &&
    (tm.handles.any fun k => k.state != .empty && k.slot == t.slot)
  { s with tile := { s.tile with slots := mapIf bound (fun t => { t with bound := true }) s.tile.slots } }

theorem poolsReserved_frame (tm : Team) (s : State) : { poolsReserved tm s with tile := s.tile } = s := by
  have hpool : ∀ (l : List (Nat × Nat)) (t : State), { l.foldl (fun s d => State.reservePool s tm d.1 d.2) t with tile := s.tile } = { t with tile := s.tile } :=
    foldl_keeps (π := fun t : State => { t with tile := s.tile }) fun t d => by unfold State.reservePool; split <;> rfl
  exact hpool _ s

/-- The team that a launch adds (R35). -/
def launchedTeam (s : State) (r : Run) (ps : List Part) : Team :=
  let b := s.fresh.2.bindWindows r.ctx r.record.header.wins
  { id := s.clk.nextId, ctx := r.ctx, run := r.id, number := r.record.tbase + r.placed, prio := r.record.prio, payload := r.record.payload
    header := r.record.header, parts := ps, cancel := r.cancel, sieveAge := 0x0800, cvgs := List.replicate 16 State.idleCvg, tregs := List.replicate 64 0
    rings := List.replicate 8 ⟨[], 0, 0, [], []⟩, windows := b.1, handles := b.2.firstHandles r.record r.record.header ps.head?
    handles1 := if r.record.header.shape = 2 then List.replicate r.record.header.tiles ⟨.empty, 0⟩ else []
    policy := match r.record.poster with | .policy d k => some (d, k) | _ => none
    ended := none }

/-- The windows of a launch are bound, and its team is listed. -/
def teamListed (s : State) (r : Run) (ps : List Part) : State :=
  let b := (s.fresh.2.bindWindows r.ctx r.record.header.wins).2
  { b with teams := b.teams ++ [launchedTeam s r ps] }

/-- Binding the windows of a launch changes memory and the clock at most, and listing its team only the teams. -/
theorem teamListed_frame (s : State) (r : Run) (ps : List Part) : OnlyMemory { s with teams := s.teams ++ [launchedTeam s r ps] } (teamListed s r ps) := by
  have hbind : OnlyMemory s (s.fresh.2.bindWindows r.ctx r.record.header.wins).2 := (show OnlyMemory s s.fresh.2 from rfl).trans (onlyMemory_bindWindows ..)
  exact (congrArg (fun w : State => { w with teams := w.teams ++ [launchedTeam s r ps] }) hbind :)

/-- The launch of a team up to its place in the log: its parts are launched, its pools reserved. -/
def teamLaunched (s : State) (r : Run) (ps : List Part) : State :=
  poolsReserved (launchedTeam s r ps) (launchParts (launchedTeam s r ps) 0 ps (teamListed s r ps))

/-- A band whose record's team is placed is taken; another poster is told nothing (R406). -/
def posterTaken (r : Record) (s : State) : State := match r.poster with
  | .band d sweep b => s.updDie d fun k =>
    { k with bands := mapIf (fun (x : Band) => x.sweep.toNat == sweep && x.band == b) (fun x => { x with taken := true }) k.bands }
  | _ => s

theorem launch_eq (s : State) (r : Run) (ps : List Part) :
    let u := (teamLaunched s r ps).logPlace r ((ps.head?.map fun p => State.placeWord p.core p.slot0).getD 0)
    let v := posterTaken r.record (u.updRun r.id fun q => { q with placed := q.placed + 1, lastSite := ps.head?.map (·.core.site) })
    s.launch r ps = { v with pkg := { v.pkg with served := r.ctx } } := rfl

theorem teamLaunched_teams (s : State) (r : Run) (ps : List Part) : (teamLaunched s r ps).teams = s.teams ++ [launchedTeam s r ps] := calc
  (teamLaunched s r ps).teams = (launchParts (launchedTeam s r ps) 0 ps (teamListed s r ps)).teams := (congrArg State.teams (poolsReserved_frame _ _) :)
  _ = (teamListed s r ps).teams := launchParts_teams ..
  _ = s.teams ++ [launchedTeam s r ps] := (congrArg State.teams (teamListed_frame s r ps) :)

theorem teamLaunched_runs (s : State) (r : Run) (ps : List Part) : (teamLaunched s r ps).runs = s.runs := calc
  (teamLaunched s r ps).runs = (launchParts (launchedTeam s r ps) 0 ps (teamListed s r ps)).runs := (congrArg State.runs (poolsReserved_frame _ _) :)
  _ = (teamListed s r ps).runs := launchParts_runs ..
  _ = s.runs := (congrArg State.runs (teamListed_frame s r ps) :)

theorem teamLaunched_threads (s : State) (r : Run) (ps : List Part) :
    (teamLaunched s r ps).threads = s.threads ++ startingThreads (launchedTeam s r ps) 0 ps := by
  have hlisted : (teamListed s r ps).threads = s.threads := (congrArg State.threads (teamListed_frame s r ps) :)
  have hpools : (teamLaunched s r ps).threads = _ := (congrArg State.threads (poolsReserved_frame _ _) :)
  rw [hpools, launchParts_threads, hlisted]

theorem hasGroup_teamLaunched (s : State) (r : Run) {ps : List Part} {p : Part} (hp : p ∈ ps) {g : Nat} (hg : g ∈ p.groups) :
    HasGroup (teamLaunched s r ps) ⟨p.core, r.ctx, g⟩ (launchedTeam s r ps).id :=
  (hasGroup_launchParts (launchedTeam s r ps) 0 _ hp hg).of_groups_eq (congrArg State.groups (poolsReserved_frame _ _) :)

/-- The entry of the log in which the place of a run's next team is written (R446). -/
def entryFor (s : State) (r : Run) : State × Option Nat := if r.placed % 4 = 0 ∧ r.placed ≠ 0 then s.beginEntry (.running r) else (s, r.entry)

/-- The place of a team stands in its entry. -/
def placeStored (s : State) (r : Run) (entry : Option Nat) (word : Nat) : State := match entry, s.ctx r.ctx with
  | some u, some c => if s.recording r.ctx then s.logStore r.ctx (State.logAt c (u + 1) + 64 + 4 * (r.placed % 4)) (leBytes 4 word) else s
  | _, _ => s

theorem logPlace_eq (s : State) (r : Run) (word : Nat) :
    s.logPlace r word = (placeStored (entryFor s r).1 r (entryFor s r).2 word).updRun r.id fun q => { q with entry := (entryFor s r).2 } := rfl

theorem onlyLog_entryFor (s : State) (r : Run) : OnlyLog r.ctx s (entryFor s r).1 := by
  unfold entryFor
  split
  · exact onlyLog_beginEntry s (.running r)
  · exact OnlyLog.refl _ s

theorem onlyLog_placeStored (s : State) (r : Run) (entry : Option Nat) (word : Nat) : OnlyLog r.ctx s (placeStored s r entry word) := by
  unfold placeStored
  split
  · split
    · exact (onlyMemory_logStore ..).onlyLog r.ctx
    · exact OnlyLog.refl _ s
  · exact OnlyLog.refl _ s

/-- A run's number and its teams placed, after changes of the run that number its entry and count one more team. -/
theorem runs_placed (rs : List Run) (id : Nat) (e : Option Nat) (site : Option Nat) :
    (mapIf (fun q => q.id == id) (fun q => { q with placed := q.placed + 1, lastSite := site }) 
      (mapIf (fun q => q.id == id) (fun q => { q with entry := e }) rs)).map (fun q : Run => (q.id, q.placed)) = rs.map fun q => (q.id, if q.id = id then q.placed + 1 else q.placed) := by
  simp only [mapIf, List.map_map]
  refine List.map_congr_left fun q _ => ?_
  by_cases hq : q.id = id <;> simp [hq]

theorem posterTaken_frame (r : Record) (s : State) : { posterTaken r s with render := s.render } = s := by
  unfold posterTaken
  split <;> rfl

/-- What a launch adds: its team, and the threads and groups of its parts; its run has placed one team more. -/
theorem launch_parts (s : State) (r : Run) (ps : List Part) :
    (s.launch r ps).teams = s.teams ++ [launchedTeam s r ps] ∧ (s.launch r ps).threads = s.threads ++ startingThreads (launchedTeam s r ps) 0 ps ∧
    (∀ p ∈ ps, ∀ g ∈ p.groups, HasGroup (s.launch r ps) ⟨p.core, r.ctx, g⟩ (launchedTeam s r ps).id) ∧ (s.launch r ps).pkg.served = r.ctx ∧
    (s.launch r ps).runs.map (fun q => (q.id, q.placed)) = s.runs.map fun q => (q.id, if q.id = r.id then q.placed + 1 else q.placed) := by
  have hlog := (onlyLog_entryFor (teamLaunched s r ps) r).trans
    (onlyLog_placeStored _ r (entryFor (teamLaunched s r ps) r).2 ((ps.head?.map fun p => State.placeWord p.core p.slot0).getD 0))
  have htaken := fun t : State => posterTaken_frame r.record (t.updRun r.id fun q => { q with placed := q.placed + 1, lastSite := ps.head?.map (·.core.site) })
  rw [launch_eq, logPlace_eq]
  refine ⟨?_, ?_, fun p hp g hg => (hasGroup_teamLaunched s r hp hg).of_groups_eq ?_, rfl, ?_⟩
  · exact (congrArg State.teams (htaken _) :).trans (hlog.teams.trans (teamLaunched_teams s r ps))
  · exact (congrArg State.threads (htaken _) :).trans (hlog.threads.trans (teamLaunched_threads s r ps))
  · exact (congrArg State.groups (htaken _) :).trans hlog.groups
  · refine (congrArg (fun w : State => w.runs.map fun q => (q.id, q.placed)) (htaken _) :).trans ?_
    rw [State.updRun_runs, State.updRun_runs, hlog.runs, teamLaunched_runs]
    exact runs_placed s.runs r.id _ _

/-! ### The statement -/

/-- Settles O46: posts and sequences by their cases
(`execPostSequenceStore_first`, `execPostSequenceStore_breaks`, `execPostSequenceStore_joins`), a dequeue and a launch by what they change of the state (`dequeue_parts`, `launch_parts`). -/
theorem postsAndPlacement : Obligations.PostsAndPlacement := by
  unfold Obligations.PostsAndPlacement
  refine ⟨?records, ?sequences, ?hosts, ?posts, ?dequeues, ?places⟩
  case records =>
    intro s n o bs hn hlen halign ho hen
    refine ⟨fun hseq => ?_, fun b hseq => ?_⟩
    · refine (execRecordPost_next hn hlen halign ho).trans ?_
      rw [breakSequence_none hseq, hostPost_enabled hen]
    · refine (execRecordPost_next hn hlen halign ho).trans ?_
      rw [breakSequence_broken hseq (.inr (Nat.le_refl _)), hostPost_enabled ((ctxEn_broken s n b).trans hen)]
  case sequences =>
    intro s hart n o v hn halign ho hen
    refine ⟨execPostSequenceStore_first hn halign ho hen v, fun b hseq => ⟨execPostSequenceStore_breaks hn halign ho hen v hseq, fun hoffset hnew => ?_⟩⟩
    have hjoins := execPostSequenceStore_joins hn halign ho hen v hseq hoffset hnew
    exact ⟨fun hlen => by rw [if_pos hlen] at hjoins; exact hjoins, fun hlen => by rw [if_neg (Nat.not_lt.mpr hlen)] at hjoins; exact hjoins⟩
  case hosts =>
    intro s hart ia n o bs hhart hbs hap hblock hn ho
    have hstore := execHostStore_queue (s := s) hhart hbs hap hblock ho
    refine ⟨fun hlen halign => ?_, fun hlen halign hen hseq => ?_, fun b hseq hoffset => ⟨fun hlen halign hen => ?_, fun h8 h64 => ?_⟩⟩
    · have h64 : ¬ (bs.length = 64 ∧ o % 64 = 0) := fun h => absurd (hlen.symm.trans h.1) (by decide)
      exact hstore.trans ((if_neg h64).trans (if_pos ⟨hlen, halign⟩))
    · refine hstore.trans ?_
      rw [if_pos ⟨hlen, halign⟩, breakSequence_none hseq, hostPost_enabled hen]
    · refine hstore.trans ?_
      rw [if_pos ⟨hlen, halign⟩, breakSequence_broken hseq (.inl hoffset), hostPost_enabled ((ctxEn_broken s n b).trans hen)]
    · refine hstore.trans ?_
      rw [if_neg fun h => h64 h.1, if_neg fun h => h8 h.1, breakSequence_broken hseq (.inl hoffset)]
  case posts =>
    intro s n c bs p hc
    refine ⟨fun code hval hcode => post_error hval hcode, fun r s1 hval => ⟨_, post_ok hval, ?_⟩⟩
    refine ⟨fun m hm => ctx_updCtx_ne s1.fresh.2 _ hm, rfl, rfl, rfl, rfl, fun k hk => ?_⟩
    rw [ctx_updCtx_same, show s1.fresh.2.ctx n = some k from hk]
    rfl
  case dequeues =>
    intro s d n r c hdie hsame hfind hc
    obtain ⟨t, k, heq, hparts⟩ := dequeue_parts (d := d) (r := r) hc
    refine ⟨t, k, ?_, hparts⟩
    show execPilotDequeue d s = _
    rw [execPilotDequeue, hdie, hsame, hfind, ← heq]
    rfl
  case places =>
    intro s d r ps hdie hfind
    obtain ⟨hteams, hthreads, hgroups, hserved, hplaced⟩ := launch_parts s r ps
    refine ⟨s.launch r ps, launchedTeam s r ps, ?_, hteams, rfl, rfl, rfl, rfl, rfl, rfl, rfl, rfl, rfl, rfl, rfl, hthreads, hgroups, hserved, hplaced⟩
    show execTeamPlace d s = _
    rw [execTeamPlace, hdie]
    exact congrArg (fun f : Option (Run × List Part) => Host.Outcome.next (match f with | some (r, ps) => s.launch r ps | none => s)) hfind

end Sys2Proof.Proofs.Execution
end

section
/-! PROOFS. The step that issues an instruction (O54). -/

namespace Sys2Proof.Proofs.Execution

open Sys2Proof Sys2Proof.Machine Sys2Proof.Claims

/-! ### The turn of a step (R37, R77) -/

/-- A group that can be looked at issues the instruction that its fetch gives, where nothing of R77 keeps it waiting. -/
theorem nextOf_instr {s : State} {k : Core} {g : Group} {act : List Thread} {i : Instr} (hlook : canLook s g = some act)
    (hfetch : fetchAt s g.ref act = .instr i) (hslots : heldBySlots act (issueUses i).1 (issueUses i).2.1 = false)
    (hregs : ∀ h ∈ act, waitsRegister s true h (issueUses i).2.2 = false) (hshort : waitsShort s.clk.cycle act (issueUses i).2.2 = false)
    (hflags : waitsFlags s act (issueUses i).1 (issueUses i).2.1 = false) (hfull : slotFull act (issueUses i).2.1 = false)
    (hload : throttled (issueUses i).1 (issueUses i).2.1 = true → permitted k g.ref.group = true)
    (hunit : unitRefuses s act (issueUses i).1 (issueUses i).2.1 = false) : nextOf s k g = some (act, .instr i) := by
  have hany : (act.any fun h => waitsRegister s true h (issueUses i).2.2) = false := List.any_eq_false.mpr fun h hh => by simp [hregs h hh]
  have hthrottle : (throttled (issueUses i).1 (issueUses i).2.1 && !permitted k g.ref.group) = false := by
    cases ht : throttled (issueUses i).1 (issueUses i).2.1
    · rfl
    · simp [hload ht]
  simp only [nextOf, hlook, hfetch, hslots, hany, hshort, hflags, hfull, hthrottle, hunit, Bool.or_self, Bool.false_eq_true, if_false]

/-- Where the bank issues for the group's context, what the chosen group issues is what it can issue. -/
theorem issueNext_eq {s : State} {g : GRef} {gr : Group} {r : List Thread × Fetched} (hbank : bankIssues s (s.core g.core) = true)
    (hactive : (s.core g.core).active = some g.ctx) (hgroup : s.group g = some gr) (hnext : nextOf s (s.core g.core) gr = some r) :
    issueNext s g = some (gr, r) := by
  simp [issueNext, hbank, hactive, hgroup, hnext]

/-- Nothing comes before an issue that no arrival precedes, if it is none of those that see all of their cycle, or nothing else of the cycle is left. -/
theorem beforeIssue_none {s : State} {g : GRef} (harrival : ∀ a, s.nextArrival = some a → issueTurn s g ≤ s.arrivalKey a)
    (hlate : issueTurn s g < 2 ^ 23 ∨ (agendaTurn s).isNone = true ∧ (closingTurn s).isNone = true ∧ (timerTurn s false).isNone = true) :
    beforeIssue s g = none := by
  have hfilter : (s.nextArrival.filter fun a => decide (s.arrivalKey a < issueTurn s g)) = none :=
    Option.filter_eq_none_iff.mpr fun a ha => by simpa using harrival a ha
  unfold beforeIssue
  rcases hlate with hkey | ⟨hagenda, hclosing, htimer⟩
  · dsimp only
    split
    · rfl
    · simp only [hfilter, if_neg (Nat.not_le.mpr hkey)]
  · rw [Option.isNone_iff_eq_none] at hagenda hclosing htimer
    simp only [hagenda, hclosing, htimer]
    split
    · rfl
    · simp only [hfilter, ite_self]

/-- A step issues the chosen group's instruction when nothing comes before it. -/
theorem step_issue {s t : State} {g : GRef} {rest : List GRef} {gr : Group} {act : List Thread} {i : Instr} (hboot : s.pkg.bootErr = false)
    (hchosen : s.clk.chosen = some (g :: rest)) (hbefore : beforeIssue s g = none) (hnext : issueNext s g = some (gr, act, .instr i))
    (hexec : exec i (beginIssue s g rest act (encode i).length) = .next t) :
    Machine.step s = .next (settleIssue gr act (beginIssue s g rest act (encode i).length) t) := by
  have hissuing : issuing s g = some (gr, act, i) := by simp [issuing, hnext]
  simp [Machine.step, hboot, nextTurn, hchosen, hbefore, issueStep, hissuing, hexec]

/-- Settles O54: nothing precedes the issue (`beforeIssue_none`), the chosen group's fetch is what it issues (`nextOf_instr`), and a fetch reads
module memory where its checks pass. -/
theorem stepRunsDecoded : Obligations.StepRunsDecoded := by
  unfold Obligations.StepRunsDecoded
  refine ⟨?issue, ?decodes, ?reads⟩
  case issue =>
    intro s t g rest gr act i hboot hchosen hbank hactive hgroup hlook hfetch hslots hregs hshort hflags hfull hload hunit harrival hlate b hexec
    have hnext := issueNext_eq hbank hactive hgroup (nextOf_instr hlook hfetch hslots hregs hshort hflags hfull hload hunit)
    have hturn : issueTurn s g = issueKey s gr (.instr i) := by simp [issueTurn, hnext]
    exact step_issue hboot hchosen (beforeIssue_none (hturn ▸ harrival) (hturn ▸ hlate)) hnext hexec
  case decodes =>
    intro s g h hs w ws i hword hwords hdecode
    simp [fetchAt, hword, hwords, hdecode]
  case reads =>
    intro s g pc va lane ia pa c r perms hctx hrange hmodule hheld hcorrect
    simp [fetchWord, hctx, hrange, hmodule, hheld, hcorrect]

end Sys2Proof.Proofs.Execution
end

section
/-! PROOFS. What befalls a core (O44). -/

namespace Sys2Proof.Proofs.Execution

open Sys2Proof Sys2Proof.Machine Sys2Proof.Claims

/-! ### Elements that a change finds again -/

/-- A change that keeps what an element is found by changes the element that is found. -/
theorem find?_mapIf_same {α : Type} {p : α → Bool} {f : α → α} (hf : ∀ x, p x = true → p (f x) = true) (l : List α) :
    (mapIf p f l).find? p = (l.find? p).map f := by
  induction l with
  | nil => rfl
  | cons x l ih =>
    by_cases hx : p x = true
    · simp [mapIf, hx, hf x hx]
    · simpa [mapIf, hx] using ih

/-- What is not found by the changed elements is found as before. -/
theorem find?_mapIf_other {α : Type} {p q : α → Bool} {f : α → α} (hq : ∀ x, p x = true → q x = false ∧ q (f x) = false) (l : List α) :
    (mapIf p f l).find? q = l.find? q := by
  induction l with
  | nil => rfl
  | cons x l ih =>
    by_cases hx : p x = true
    · simpa [mapIf, hx, (hq x hx).1, (hq x hx).2] using ih
    · have htail : (List.map (fun x => if p x = true then f x else x) l).find? q = l.find? q := ih
      simp [mapIf, hx, List.find?_cons, htail]

/-- Where a list keeps its elements but for one, which is changed or, where it is not listed, added, that one is found changed. -/
theorem find?_changed_or_added {α : Type} {p : α → Bool} {f : α → α} {l : List α} {x : α} (hf : ∀ y, p y = true → p (f y) = true) (hx : p x = true)
    (hfound : ∀ y, l.find? p = some y → y = x) : (if l.any p then mapIf p f l else l ++ [f x]).find? p = some (f x) := by
  cases hfind : l.find? p with
  | some y =>
    have hlisted : l.any p = true := List.any_eq_true.mpr ⟨y, List.mem_of_find?_eq_some hfind, List.find?_some hfind⟩
    rw [if_pos hlisted, find?_mapIf_same hf, hfind, Option.map_some, hfound y hfind]
  | none =>
    have hunlisted : l.any p = false := List.any_eq_false.mpr (List.find?_eq_none.mp hfind)
    rw [hunlisted, if_neg Bool.false_ne_true, List.find?_append, hfind, Option.none_or, List.find?_cons_of_pos (hf x hx)]

/-! ### Cores -/

theorem core_id (s : State) (c : CoreId) : (s.core c).id = c := by
  unfold State.core
  split
  · next hfind => simpa using List.find?_some hfind
  · rfl

theorem core_of_find? {s : State} {c : CoreId} {k : Core} (h : (s.cores.find? fun k => k.id == c) = some k) : s.core c = k := by
  rw [State.core, h]

theorem updCore_cores (s : State) (c : CoreId) (f : Core → Core) :
    (s.updCore c f).cores = if s.cores.any fun k => k.id == c then mapIf (fun k => k.id == c) f s.cores else s.cores ++ [f (s.core c)] := by
  unfold State.updCore
  split <;> rfl

/-- A change that keeps the core's number gives the core that it makes of it. -/
theorem core_updCore_same (s : State) (c : CoreId) {f : Core → Core} (hf : ∀ k, (f k).id = k.id) : (s.updCore c f).core c = f (s.core c) := by
  refine core_of_find? ?_
  rw [updCore_cores]
  exact find?_changed_or_added (fun k hk => (hf k).symm ▸ hk) (beq_iff_eq.mpr (core_id s c)) fun k hk => (core_of_find? hk).symm

/-- A change of a core leaves the others as they were. -/
theorem core_updCore_ne (s : State) {c d : CoreId} {f : Core → Core} (hf : ∀ k, (f k).id = k.id) (hd : d ≠ c) : (s.updCore c f).core d = s.core d := by
  have hcoreOn : (s.updCore c f).coreOn d = s.coreOn d := by simp [State.coreOn, State.siteOn, State.coreen]
  have hfind : ((s.updCore c f).cores.find? fun k => k.id == d) = s.cores.find? fun k => k.id == d := by
    rw [updCore_cores]
    split
    · refine find?_mapIf_other (fun k hk => ?_) s.cores
      have hkc : k.id = c := beq_iff_eq.mp hk
      simp [hf, hkc, hd.symm]
    · simp [List.find?_append, hf, core_id, hd.symm]
  unfold State.core
  rw [hfind, hcoreOn]

/-! ### The statement -/

/-- Settles O44: the state of the core names the branch of each happening that acts; a window's end changes its core alone (`core_updCore_same`,
`core_updCore_ne`). -/
theorem coreHappenings : Obligations.CoreHappenings := by
  unfold Obligations.CoreHappenings
  refine fun s c => ⟨?displaces, ?window, fun ch hch => ⟨?zeroes, ?clears, ?ends⟩, ?spills, ?fills, ?exchanges, ?swapEnds⟩
  case displaces =>
    intro p hdisplaces holdest
    show execActiveSetDisplace c s = _
    rw [execActiveSetDisplace]
    dsimp only
    rw [if_pos hdisplaces, holdest]
  case window => exact ⟨_, rfl, fun d hd => core_updCore_ne s (fun _ => rfl) hd, core_updCore_same s c fun _ => rfl⟩
  case zeroes =>
    intro hcleared hmode
    show execBankChangeComplete c ch.bank s = _
    rw [execBankChangeComplete, hch]
    simp only [hcleared, hmode]
    rfl
  case clears =>
    intro hcleared hmode
    show execBankChangeComplete c ch.bank s = _
    rw [execBankChangeComplete, hch]
    simp [hcleared, hmode, State.clearBank]
  case ends =>
    intro hcleared
    show execBankChangeComplete c ch.bank s = _
    rw [execBankChangeComplete, hch]
    simp [hcleared]
  case spills =>
    intro ctx hswap hwaits
    show execSwapSpillFill c s = _
    rw [execSwapSpillFill, hswap]
    exact congrArg Host.Outcome.next (if_neg (Bool.eq_false_iff.mp hwaits))
  case fills =>
    intro ctx n hswap hdue hwaits
    show execSwapSpillFill c s = _
    rw [execSwapSpillFill, hswap]
    exact congrArg Host.Outcome.next ((if_neg (Nat.not_lt.mpr hdue)).trans (if_neg (Bool.eq_false_iff.mp hwaits)))
  case exchanges =>
    intro ctx hswap
    show execSwapExchange c s = _
    rw [execSwapExchange, hswap]
  case swapEnds =>
    intro ctx n hswap hdue
    show execSwapExchange c s = _
    rw [execSwapExchange, hswap]
    exact congrArg Host.Outcome.next (if_neg (Nat.not_lt.mpr hdue))

end Sys2Proof.Proofs.Execution
end

section
/-! PROOFS. The matrix engine (O40). -/

namespace Sys2Proof.Proofs.Execution

open Sys2Proof Sys2Proof.Machine Sys2Proof.Claims

/-! ### Engines -/

/-- A change of an engine changes the engines only. -/
theorem updEngine_frame (s : State) (d k : Nat) (f : Engine → Engine) :
    { s.updEngine d k f with tile := { (s.updEngine d k f).tile with engines := s.tile.engines } } = s := by
  unfold State.updEngine
  split <;> rfl

theorem updEngine_ops (s : State) (d k : Nat) (f : Engine → Engine) : (s.updEngine d k f).tile.ops = s.tile.ops :=
  (congrArg (fun t : State => t.tile.ops) (updEngine_frame s d k f) :)

theorem tileSlot_updEngine (s : State) (d k slot : Nat) (f : Engine → Engine) : (s.updEngine d k f).tileSlot d k slot = s.tileSlot d k slot :=
  (congrArg (fun t : State => t.tileSlot d k slot) (updEngine_frame s d k f) :)

theorem engineOf_place (s : State) (d k : Nat) : (s.engineOf d k).die = d ∧ (s.engineOf d k).site = k := by
  unfold State.engineOf
  split
  · next hfind => simpa using List.find?_some hfind
  · exact ⟨rfl, rfl⟩

theorem engineOf_of_find? {s : State} {d k : Nat} {g : Engine} (h : (s.tile.engines.find? fun g => g.die == d && g.site == k) = some g) :
    s.engineOf d k = g := by
  rw [State.engineOf, h]

theorem updEngine_engines (s : State) (d k : Nat) (f : Engine → Engine) :
    (s.updEngine d k f).tile.engines = if s.tile.engines.any fun g => g.die == d && g.site == k
      then mapIf (fun g => g.die == d && g.site == k) f s.tile.engines else s.tile.engines ++ [f (s.engineOf d k)] := by
  unfold State.updEngine
  split <;> rfl

/-- A change that keeps the engine's place gives the engine that it makes of it. -/
theorem engineOf_updEngine_same (s : State) (d k : Nat) {f : Engine → Engine} (hf : ∀ g, (f g).die = g.die ∧ (f g).site = g.site) :
    (s.updEngine d k f).engineOf d k = f (s.engineOf d k) := by
  refine engineOf_of_find? ?_
  rw [updEngine_engines]
  refine find?_changed_or_added (fun g hg => ?_) (by simp [engineOf_place s d k]) fun g hg => (engineOf_of_find? hg).symm
  rw [(hf g).1, (hf g).2, hg]

/-! ### Passes (R81, R372, R373) -/

theorem setAccElement_frame (s t : State) (ctx d k e : Nat) (a : Acc) :
    { t.setAccElement ctx d k e a with tile := { (t.setAccElement ctx d k e a).tile with banks := s.tile.banks } } =
      { t with tile := { t.tile with banks := s.tile.banks } } := by
  unfold State.setAccElement
  dsimp only
  split <;> rfl

/-- A pass adds its products to the accumulators, and changes nothing else. -/
theorem addPass_frame (s : State) (o : MmaOp) (a b : Tile) :
    { s.addPass o a b with tile := { (s.addPass o a b).tile with banks := s.tile.banks } } = s :=
  foldl_keeps (π := fun t : State => { t with tile := { t.tile with banks := s.tile.banks } })
    (fun t _ => foldl_keeps (π := fun t : State => { t with tile := { t.tile with banks := s.tile.banks } })
      (fun t _ => setAccElement_frame s t _ _ _ _ _) _ t) _ s

/-- The engine free again, and the products of its operation's pass in the accumulators. -/
def passAdded (s : State) (d k : Nat) (o : MmaOp) (a b : TileSlot) : State := (s.updEngine d k fun g => { g with granted := none }).addPass o a.tile b.tile

/-- Nothing but the accumulators and the engines has changed. -/
theorem passAdded_frame (s : State) (d k : Nat) (o : MmaOp) (a b : TileSlot) :
    { passAdded s d k o a b with tile := { (passAdded s d k o a b).tile with banks := s.tile.banks, engines := s.tile.engines } } = s := by
  have hbanks : (s.updEngine d k fun g => { g with granted := none }).tile.banks = s.tile.banks :=
    (congrArg (fun t : State => t.tile.banks) (updEngine_frame s d k _) :)
  have hpass := addPass_frame (s.updEngine d k fun g => { g with granted := none }) o a.tile b.tile
  rw [hbanks] at hpass
  exact (congrArg (fun t : State => { t with tile := { t.tile with engines := s.tile.engines } }) hpass :).trans (updEngine_frame s d k _)

theorem engineOf_passAdded (s : State) (d k : Nat) (o : MmaOp) (a b : TileSlot) : ((passAdded s d k o a b).engineOf d k).granted = none := by
  have hpass : (passAdded s d k o a b).engineOf d k = _ := (congrArg (fun t : State => t.engineOf d k) (addPass_frame _ o a.tile b.tile) :)
  exact congrArg Engine.granted (hpass.trans (engineOf_updEngine_same s d k fun _ => ⟨rfl, rfl⟩))

/-- A pass that is not its operation's last is counted there. -/
theorem execTilePassComplete_notLast {s : State} {d k : Nat} {o : MmaOp} {a b : TileSlot} (hgranted : (s.engineOf d k).granted = some (o.id, true))
    (hfind : (s.tile.ops.find? fun q => q.id == o.id) = some o) (ha : s.tileSlot d k o.slotA = some a) (hb : s.tileSlot d k o.slotB = some b)
    (hmore : o.pass + 1 < State.passesOf o) :
    execTilePassComplete d k s = .next { passAdded s d k o a b with tile := { (passAdded s d k o a b).tile with
      ops := mapIf (fun q => q.id == o.id) (fun q => { q with pass := q.pass + 1 }) (passAdded s d k o a b).tile.ops } } := by
  have hlast : decide (State.passesOf o ≤ o.pass + 1) = false := decide_eq_false (Nat.not_le.mpr hmore)
  rw [execTilePassComplete, hgranted]
  simp only [updEngine_ops, tileSlot_updEngine, hfind, ha, hb, hlast, Bool.false_eq_true, if_false]
  rfl

/-- Settles O40: the condition of each happening names the branch of its meaning that acts; of a pass that is not its operation's last it is shown what it leaves
(`execTilePassComplete_notLast`, `passAdded_frame`). -/
theorem matrixEngine : Obligations.MatrixEngine := by
  unfold Obligations.MatrixEngine
  refine fun s d k => ⟨?drains, ?accepts, ?grants, ?gone, ?passes⟩
  case drains =>
    intro slot t team hslot hdrains huses howner hteam
    show execTileSlotDrain d k slot s = _
    rw [execTileSlotDrain, hslot]
    simp only [hdrains, huses, howner, hteam, List.isEmpty_nil, Bool.not_true, Bool.or_self, Bool.false_eq_true, if_false, if_true]
  case accepts =>
    intro o n hfind hentry hvoted hfree
    have hready : (s.tile.ops.any fun q => q.id == o.id && decide (q.voted + 8 ≤ s.clk.cycle)) = true :=
      List.any_eq_true.mpr ⟨o, List.mem_of_find?_eq_some hfind, by simp [hvoted]⟩
    show execMmaAccept o.id s = _
    rw [execMmaAccept, if_pos hready, State.acceptMma, hfind]
    simp only [hentry, hfree]
    cases o.cvg <;> rfl
  case grants =>
    intro o p hgranted hnext
    show execTilePassGrant d k s = _
    rw [execTilePassGrant, hgranted, hnext]
    rfl
  case gone =>
    intro id hgranted hfind
    show execTilePassComplete d k s = _
    rw [execTilePassComplete, hgranted]
    simp only [updEngine_ops, hfind]
  case passes =>
    intro o a b hgranted hfind ha hb hmore
    have hframe := passAdded_frame s d k o a b
    have hops : (passAdded s d k o a b).tile.ops = s.tile.ops := (congrArg (fun t : State => t.tile.ops) hframe :)
    exact ⟨_, execTilePassComplete_notLast hgranted hfind ha hb hmore, engineOf_passAdded s d k o a b, (congrArg (fun t : State => t.mem.mem) hframe :),
      (congrArg State.threads hframe :), rfl, congrArg (mapIf _ _) hops⟩

end Sys2Proof.Proofs.Execution
end

section
/-! PROOFS. What befalls a context (O45). -/

namespace Sys2Proof.Proofs.Execution

open Sys2Proof Sys2Proof.Machine Sys2Proof.Claims

/-! ### Changes of a context alone -/

theorem onlyContext_updCtx {s : State} {n : Nat} {c c' : Context} {f : Context → Context} (hc : s.ctx n = some c) (hf : f c = c') :
    OnlyContext s (s.updCtx n f) n c' :=
  ⟨by rw [ctx_updCtx_same, hc, Option.map_some, hf], fun _ hm => ctx_updCtx_ne s f hm, rfl⟩

theorem updCtx_self {s : State} {n : Nat} {c : Context} {f : Context → Context} (hc : s.ctx n = some c) (hf : f c = c) : s.updCtx n f = s := by
  have hctxs : modifyAt f n s.ctxs = s.ctxs := List.ext_getElem? fun m => by
    by_cases hm : m = n
    · subst hm
      exact (ctx_updCtx_same s m f).trans (by rw [hc, Option.map_some, hf, ← hc, State.ctx])
    · exact ctx_updCtx_ne s f hm
  rw [State.updCtx, hctxs]

/-- A write of CTXCTL under which LOG rises: the runs of the context have no entry in the new log (R446). -/
def entriesForgotten (s : State) (n : Nat) (c : Context) (v : W64) : State :=
  if v.getLsbD 5 = true ∧ c.ctl.getLsbD 5 = false then { s with runs := s.runs.map fun r => if r.ctx = n then { r with entry := none } else r } else s

theorem entriesForgotten_eq {s : State} {n : Nat} {c : Context} (hc : s.ctx n = some c) (v : W64) :
    entriesForgotten s n c v = { s with runs := mapIf (fun r => (v.getLsbD 5 && !(s.ctxLog n)) && r.ctx == n) (fun r => { r with entry := none }) s.runs } := by
  have hlog : s.ctxLog n = c.ctl.getLsbD 5 := by simp [State.ctxLog, State.ctl, hc]
  rw [entriesForgotten, hlog]
  cases v.getLsbD 5 <;> cases c.ctl.getLsbD 5 <;> simp [mapIf]

/-- A write of CTXCTL changes its context as `contextWritten` says, and what its runs have of a log. -/
theorem writeCtl_onlyContext {s : State} {n : Nat} {c : Context} (hc : s.ctx n = some c) (v : W64) :
    OnlyContext (entriesForgotten s n c v) (s.writeCtl n v) n (contextWritten c v) := by
  rw [entriesForgotten_eq hc]
  refine onlyContext_updCtx hc ?_
  simp only [contextWritten, BitVec.or_assoc]

theorem exec_ctlShape {s : State} {i : Instr} {n : Nat} {v : W64} (hi : ctlShape s i = some (n, v)) : exec i s = .next (s.writeCtl n v) := by
  unfold ctlShape at hi
  split at hi <;> cases hi <;> rfl

/-! ### The end of a context (R334, R347) -/

theorem updCore_frame (s : State) (c : CoreId) (f : Core → Core) : { s.updCore c f with cores := s.cores } = s := by
  unfold State.updCore
  split <;> rfl

/-- A filing enters a bin of its core, or awaits one there (R42). -/
theorem enterBin_updCore (s : State) (c : CoreId) (f : Filing) : ∃ g, s.enterBin c f = s.updCore c g := by
  unfold State.enterBin State.placeFiling
  dsimp only
  split
  · exact ⟨_, rfl⟩
  · generalize (List.range Config.sieveBins).find? _ = free
    cases free with
    | some i => exact ⟨_, rfl⟩
    | none =>
      show ∃ g, s.awaitBin c f = s.updCore c g
      exact ⟨_, rfl⟩

theorem settleFilings_frame (s : State) (c : CoreId) (ctx : Nat) : { s.settleFilings c ctx with cores := s.cores } = s := by
  have henter : ∀ (t : State) (f : Filing), { t.enterBin c f with cores := s.cores } = { t with cores := s.cores } := fun t f => by
    obtain ⟨g, hg⟩ := enterBin_updCore t c f
    rw [hg]
    exact (congrArg (fun u : State => { u with cores := s.cores }) (updCore_frame t c g) :)
  exact (foldl_keeps (π := fun t : State => { t with cores := s.cores }) henter _ _).trans (updCore_frame s c _)

theorem ceaseGroups_frame (s : State) : { s.ceaseGroups with groups := s.groups, cores := s.cores } = s := by
  unfold State.ceaseGroups
  dsimp only
  split <;> rfl

/-- A team that ends and does not retire leaves the list of teams, and changes no context (R347). -/
theorem endTeam_parts (s : State) (tm : Team) (how : Ending) :
    (s.endTeam tm how false).teams = s.teams.filter (fun t => t.id != tm.id) ∧ (s.endTeam tm how false).ctxs = s.ctxs := by
  have hfilings : ∀ (ps : List Part) (t : State),
      ((ps.foldl (fun s p => s.settleFilings p.core tm.ctx) t).teams, (ps.foldl (fun s p => s.settleFilings p.core tm.ctx) t).ctxs) = (t.teams, t.ctxs) :=
    foldl_keeps (π := fun t : State => (t.teams, t.ctxs)) fun t p => (congrArg (fun u : State => (u.teams, u.ctxs)) (settleFilings_frame t p.core tm.ctx) :)
  have hgroups : ∀ t : State, (t.ceaseGroups.teams, t.ceaseGroups.ctxs) = (t.teams, t.ctxs) :=
    fun t => (congrArg (fun u : State => (u.teams, u.ctxs)) (ceaseGroups_frame t) :)
  apply Prod.mk.inj
  unfold State.endTeam
  dsimp only
  split
  · exact (hfilings _ _).trans (hgroups _)
  · rw [Bool.false_and, if_neg Bool.false_ne_true]
    exact (hfilings _ _).trans (hgroups _)

/-- Teams that end one after another are listed no more. -/
theorem mem_teams_endTeams {l : List Team} {s : State} {tm : Team} (h : tm ∈ (l.foldl (fun s t => s.endTeam t .faulted false) s).teams) :
    tm ∈ s.teams ∧ ∀ t ∈ l, tm.id ≠ t.id := by
  induction l generalizing s with
  | nil => exact ⟨h, nofun⟩
  | cons t l ih =>
    obtain ⟨hmem, hl⟩ := ih h
    rw [(endTeam_parts s t .faulted).1, List.mem_filter] at hmem
    exact ⟨hmem.1, List.forall_mem_cons.mpr ⟨by simpa using hmem.2, hl⟩⟩

/-- CTXCTL of a context that dies: DEAD and DRAIN are set, EN is cleared (R347, R348). -/
def deadCtl (w : BitVec 8) : BitVec 8 := ((w ||| (1#8 <<< 6)) ||| (1#8 <<< 7)) &&& ~~~(1#8 <<< 0)

theorem deadCtl_bits (w : BitVec 8) : (deadCtl w).getLsbD 6 = true ∧ (deadCtl w).getLsbD 7 = true ∧ (deadCtl w).getLsbD 0 = false := by
  simp [deadCtl]

/-- A context with CTXCTL as it dies, and its teams ended. -/
def teamsEnded (s : State) (n : Nat) : State :=
  let s := ((s.setCtl n 6 true).setCtl n 7 true).setCtl n 0 false
  (s.teams.filter fun t => t.ctx == n).foldl (fun s t => s.endTeam t .faulted false) s

theorem ctx_teamsEnded (s : State) (n : Nat) :
    (teamsEnded s n).ctx n = (s.ctx n).map fun c => { c with ctl := deadCtl c.ctl } := by
  have hctxs : (teamsEnded s n).ctxs = (((s.setCtl n 6 true).setCtl n 7 true).setCtl n 0 false).ctxs :=
    foldl_keeps (π := State.ctxs) (fun t tm => (endTeam_parts t tm .faulted).2) _ _
  have hctx : (teamsEnded s n).ctx n = (((s.setCtl n 6 true).setCtl n 7 true).setCtl n 0 false).ctx n := congrArg (fun l : List Context => l[n]?) hctxs
  rw [hctx]
  simp only [State.setCtl, ctx_updCtx_same, Option.map_map]
  rfl

theorem team_of_teamsEnded {s : State} {n : Nat} {tm : Team} (h : tm ∈ (teamsEnded s n).teams) : tm.ctx ≠ n := by
  obtain ⟨hmem, hids⟩ := mem_teams_endTeams h
  exact fun hctx => hids tm (List.mem_filter.mpr ⟨hmem, beq_iff_eq.mpr hctx⟩) rfl

/-- Posters that are told change no team and no context. -/
theorem tellPosters_parts (rs : List Record) (ok : Bool) (s : State) :
    ((rs.foldl (fun s r => s.tellPoster r.poster ok) s).teams, (rs.foldl (fun s r => s.tellPoster r.poster ok) s).ctxs) = (s.teams, s.ctxs) :=
  foldl_keeps (π := fun t : State => (t.teams, t.ctxs)) (f := fun s (r : Record) => s.tellPoster r.poster ok)
    (fun t r => (congrArg (fun u : State => (u.teams, u.ctxs)) (tellPoster_frame t r.poster ok) :)) rs s

/-- A fault record changes nothing of its context but the ring, and what waits for it (R334). -/
theorem faultRecord_ctx (s : State) (kind : RecordKind) (n : Nat) (bs : List Byte) :
    ((s.faultRecord kind n bs).ctx n).map (fun c => (c.ctl, c.queue, c.barriers)) = (s.ctx n).map fun c => (c.ctl, c.queue, c.barriers) := by
  rw [State.faultRecord, ctx_updCtx_same, Option.map_map]
  refine congrArg (fun f => (s.ctx n).map f) (funext fun c => ?_)
  dsimp only [Function.comp]
  split
  · split <;> rfl
  · rfl

/-- A context that ends is DEAD, drains, is not enabled, and has no team, run, queued record or barrier. -/
theorem endContext_parts (s : State) (n : Nat) (bs : List Byte) :
    (∀ tm ∈ (s.endContext n bs).teams, tm.ctx ≠ n) ∧ (∀ r ∈ (s.endContext n bs).runs, r.ctx ≠ n) ∧
    ((s.endContext n bs).ctx n).map (fun c => (c.ctl, c.queue, c.barriers)) =
      (s.ctx n).map fun c => (deadCtl c.ctl, [], []) := by
  have htold := fun rs : List Record => tellPosters_parts rs false (teamsEnded s n)
  have hteams : (s.endContext n bs).teams = (teamsEnded s n).teams := congrArg Prod.fst (htold _)
  refine ⟨fun tm htm => team_of_teamsEnded (hteams ▸ htm), fun r hr => by simpa using (List.mem_filter.mp hr).2, ?_⟩
  unfold State.endContext
  dsimp only
  rw [faultRecord_ctx, ctx_updCtx_same, Option.map_map]
  have hctx : ∀ rs : List Record, (rs.foldl (fun s r => State.tellPoster s r.poster false) (teamsEnded s n)).ctx n = (teamsEnded s n).ctx n :=
    fun rs => congrArg (fun l : List Context => l[n]?) (congrArg Prod.snd (htold rs))
  refine (congrArg (Option.map _) (hctx _)).trans ?_
  rw [ctx_teamsEnded, Option.map_map]
  rfl

/-- A context that is killed reads so in CTXCTL, and nothing of it is left to be placed. -/
theorem killContext_parts {s : State} {n : Nat} {c : Context} (hc : s.ctx n = some c) (cause addr : Nat) (at' : CoreId) :
    let t := s.killContext n cause addr at'
    t.ctxDead n = true ∧ t.ctxDrain n = true ∧ t.ctxEn n = false ∧ (∀ tm ∈ t.teams, tm.ctx ≠ n) ∧ (∀ r ∈ t.runs, r.ctx ≠ n) ∧
      ∀ k, t.ctx n = some k → k.queue = [] ∧ k.barriers = [] := by
  intro t
  obtain ⟨hteams, hruns, hctx⟩ := endContext_parts s n (s.faultBytes .fatal cause n addr 0 at' 0 0 0)
  rw [hc] at hctx
  obtain ⟨k, hk, hparts⟩ := Option.map_eq_some_iff.mp hctx
  obtain ⟨hctl, hqueue, hbarriers⟩ : k.ctl = _ ∧ k.queue = [] ∧ k.barriers = [] := by simpa only [Prod.mk.injEq] using hparts
  have hk : t.ctx n = some k := hk
  have hbit : ∀ bit, t.ctl n bit = k.ctl.getLsbD bit := fun bit => by rw [State.ctl, hk]
  obtain ⟨hdead, hdrain, hen⟩ := deadCtl_bits c.ctl
  rw [← hctl] at hdead hdrain hen
  exact ⟨(hbit 6).trans hdead, (hbit 7).trans hdrain, (hbit 0).trans hen, hteams, hruns,
    fun k' hk' => Option.some.inj (hk.symm.trans hk') ▸ ⟨hqueue, hbarriers⟩⟩

/-! ### Credits (R70) -/

/-- A credit for a TAG that no record waits for is kept, where the table has room. -/
theorem creditTag_kept {c : Context} {tag : Nat} (hwaits : ∀ r ∈ c.queue, r.tag = tag → r.dep = 0) (hroom : c.credits.length < 256) :
    State.creditTag c tag = { c with credits := c.credits ++ [tag] } := by
  have hnone : (c.queue.filter fun r => r.tag == tag && decide (0 < r.dep)) = [] := by
    refine List.filter_eq_nil_iff.mpr fun r hr hmeets => ?_
    obtain ⟨htag, hdep⟩ : r.tag = tag ∧ 0 < r.dep := by simpa using hmeets
    exact absurd (hwaits r hr htag) (Nat.pos_iff_ne_zero.mp hdep)
  rw [State.creditTag, hnone]
  exact if_pos hroom

/-! ### Cancellation (R71) -/

/-- A record of a group that meets a test is marked. -/
def markRecord (p : Nat → Bool) (r : Record) : Record := if p r.cgroup then { r with marked := true } else r

/-- A run of a context's group that meets a test. -/
def runHit (n : Nat) (p : Nat → Bool) (r : Run) : Bool := r.ctx == n && p r.record.cgroup

/-- The flag of such a run is set. -/
def flagRun (n : Nat) (p : Nat → Bool) (r : Run) : Run := if runHit n p r then { r with cancel := true } else r

/-- The flag of a team of such a run is set. -/
def flagTeam (runs : List Run) (n : Nat) (p : Nat → Bool) (tm : Team) : Team :=
  if runs.any fun r => runHit n p r && r.id == tm.run then { tm with cancel := true } else tm

/-- The groups of a context that meet a test are cancelled at one time. -/
def cancelledBy (s : State) (n : Nat) (p : Nat → Bool) : State :=
  { s with ctxs := s.ctxs.modify n fun c => { c with queue := c.queue.map (markRecord p) }
           runs := s.runs.map (flagRun n p)
           teams := s.teams.map (flagTeam s.runs n p) }

theorem markRecord_markRecord (p q : Nat → Bool) (r : Record) : markRecord q (markRecord p r) = markRecord (fun g => p g || q g) r := by
  unfold markRecord
  cases hp : p r.cgroup <;> cases hq : q r.cgroup <;> simp [hp, hq]

theorem runHit_flagRun (n : Nat) (p q : Nat → Bool) (r : Run) : runHit n q (flagRun n p r) = runHit n q r := by
  unfold flagRun
  split <;> rfl

theorem flagRun_id (n : Nat) (p : Nat → Bool) (r : Run) : (flagRun n p r).id = r.id := by
  unfold flagRun
  split <;> rfl

theorem runHit_or (n : Nat) (p q : Nat → Bool) (r : Run) : runHit n (fun g => p g || q g) r = (runHit n p r || runHit n q r) :=
  Bool.and_or_distrib_left ..

theorem flagRun_flagRun (n : Nat) (p q : Nat → Bool) (r : Run) : flagRun n q (flagRun n p r) = flagRun n (fun g => p g || q g) r := by
  rw [flagRun, runHit_flagRun, flagRun, flagRun, runHit_or]
  cases runHit n p r <;> cases runHit n q r <;> rfl

/-- Which teams are flagged does not depend on the flags of their runs. -/
theorem flagTeam_flagTeam (runs : List Run) (n : Nat) (p q : Nat → Bool) (tm : Team) :
    flagTeam (runs.map (flagRun n p)) n q (flagTeam runs n p tm) = flagTeam runs n (fun g => p g || q g) tm := by
  have hany : ∀ k : Nat, (runs.any fun r => runHit n (fun g => p g || q g) r && r.id == k) =
      ((runs.any fun r => runHit n p r && r.id == k) || runs.any fun r => runHit n q r && r.id == k) := fun k => by
    rw [Bool.eq_iff_iff]
    simp only [runHit_or, Bool.or_eq_true, Bool.and_eq_true, List.any_eq_true, or_and_right, and_or_left, exists_or]
  have hrun : (flagTeam runs n p tm).run = tm.run := by
    unfold flagTeam
    split <;> rfl
  rw [flagTeam, hrun, List.any_map]
  simp only [Function.comp_def, runHit_flagRun, flagRun_id]
  unfold flagTeam
  rw [hany]
  cases (runs.any fun r => runHit n p r && r.id == tm.run) <;> cases (runs.any fun r => runHit n q r && r.id == tm.run) <;> rfl

/-- Groups cancelled one after another are cancelled as at one time. -/
theorem cancelledBy_cancelledBy (s : State) (n : Nat) (p q : Nat → Bool) : cancelledBy (cancelledBy s n p) n q = cancelledBy s n fun g => p g || q g := by
  simp only [cancelledBy, List.modify_modify_eq, List.map_map, Function.comp_def, markRecord_markRecord, flagRun_flagRun, flagTeam_flagTeam]

theorem cancelledBy_none (s : State) (n : Nat) : cancelledBy s n (fun _ => false) = s := by
  have hrecords : markRecord (fun _ => false) = id := rfl
  have hruns : flagRun n (fun _ => false) = id := funext fun r => by simp [flagRun, runHit]
  have hteams : flagTeam s.runs n (fun _ => false) = id := funext fun tm => by simp [flagTeam, runHit]
  have hctx : (fun c : Context => { c with queue := c.queue.map id }) = id := funext fun c => by rw [List.map_id, id]
  rw [cancelledBy, hrecords, hctx, hruns, hteams, List.modify_id, List.map_id, List.map_id]

theorem cancelGroup_eq (s : State) (n g : Nat) : s.cancelGroup n g = cancelledBy s n (· == g) := by
  have hteams : ∀ tm : Team, ((s.runs.filter fun r => r.ctx == n && r.record.cgroup == g).map (·.id)).contains tm.run =
      s.runs.any fun r => runHit n (· == g) r && r.id == tm.run := fun tm => by
    rw [List.contains_eq_any_beq, List.any_map, List.any_filter]
    refine congrArg (fun f => s.runs.any f) (funext fun r => ?_)
    simp only [runHit, Function.comp, Bool.beq_comm (a := tm.run)]
  unfold State.cancelGroup cancelledBy
  simp only [State.updCtx, modifyAt_eq_modify, hteams, mapIf]
  rfl

/-- CANCELSET cancels the groups whose bits are set (R71). -/
theorem cancelGroups_eq (s : State) (n : Nat) (mask : W64) : s.cancelGroups n mask = cancelledBy s n mask.getLsbD := by
  have hfold : ∀ (gs : List Nat) (s : State), gs.foldl (fun s g => if mask.getLsbD g then s.cancelGroup n g else s) s =
      cancelledBy s n fun x => gs.any fun g => mask.getLsbD g && x == g := by
    intro gs
    induction gs with
    | nil => exact fun s => (cancelledBy_none s n).symm
    | cons g gs ih =>
      intro s
      rw [List.foldl_cons, ih]
      cases hg : mask.getLsbD g with
      | true => simp only [if_true, cancelGroup_eq, cancelledBy_cancelledBy, List.any_cons, hg, Bool.true_and]
      | false => simp only [Bool.false_eq_true, if_false, List.any_cons, hg, Bool.false_and, Bool.false_or]
  refine (hfold _ s).trans (congrArg (cancelledBy s n) (funext fun x => ?_))
  rw [Bool.eq_iff_iff, List.any_eq_true]
  constructor
  · rintro ⟨g, -, hg⟩
    obtain ⟨hbit, rfl⟩ : mask.getLsbD g = true ∧ x = g := by simpa using hg
    exact hbit
  · exact fun hbit => ⟨x, List.mem_range.mpr (BitVec.lt_of_getLsbD hbit), by simp [hbit]⟩

/-! ### The statement -/

/-- Settles O45: a happening that changes its context alone by what it makes of it (`onlyContext_updCtx`), an expired watchdog by what the end of its context leaves
(`killContext_parts`), CANCELSET by cancelling all its groups at one time (`cancelGroups_eq`). -/
theorem contextHappenings : Obligations.ContextHappenings := by
  unfold Obligations.ContextHappenings
  refine fun s n c hc => ⟨?writes, ?expires, ?drained, ?deferred, fun tag ts htag => ⟨?full, ?lowers, ?credits⟩, ?limits, ?reads, ?cancels⟩
  case writes => exact fun i v hi => ⟨_, exec_ctlShape hi, writeCtl_onlyContext hc v⟩
  case expires =>
    intro hdue hrests hdead
    have hruns : (decide (watchdogTicks s ≤ c.watchdog) && !(watchdogRests s n) && !(s.ctxDead n)) = true := by simp [hdue, hrests, hdead]
    refine ⟨_, ?_, rfl, killContext_parts hc _ _ _⟩
    show execWatchdogExpiry n s = _
    rw [execWatchdogExpiry, hc]
    exact congrArg Host.Outcome.next (if_pos hruns)
  case drained =>
    intro hdrain htagged
    have hends : (s.ctxDrain n && !(tagged s n)) = true := by simp [hdrain, htagged]
    exact ⟨_, congrArg Host.Outcome.next (if_pos hends), onlyContext_updCtx hc rfl⟩
  case deferred =>
    intro bs rest hwait hfull
    exact ⟨_, rfl, onlyContext_updCtx hc (by simp [hwait, hfull, State.ringPut])⟩
  case full =>
    intro hfull
    refine congrArg Host.Outcome.next (updCtx_self hc ?_)
    simp only [htag, if_neg (show ¬ c.credits.length < Config.creditEntries from Nat.not_lt.mpr hfull)]
  case lowers =>
    intro r hleast hroom
    refine ⟨_, rfl, onlyContext_updCtx hc ?_⟩
    simp only [htag, if_pos (show c.credits.length < Config.creditEntries from hroom), State.creditTag, hleast]
    rfl
  case credits =>
    intro hwaits hroom
    refine ⟨_, rfl, onlyContext_updCtx hc ?_⟩
    simp only [htag, if_pos (show c.credits.length < Config.creditEntries from hroom)]
    exact creditTag_kept hwaits hroom
  case limits => exact fun v => ⟨_, rfl, onlyContext_updCtx hc rfl⟩
  case reads =>
    intro v
    refine ⟨_, rfl, onlyContext_updCtx hc ?_⟩
    show (if (c.frWrite - v.setWidth 32).toNat ≤ 256 then { c with frRead := v.setWidth 32 } else c) = _
    split <;> rfl
  case cancels =>
    intro v
    refine ⟨_, congrArg Host.Outcome.next (cancelGroups_eq s n v), ?_, fun m hm => ?_, ?_, rfl, rfl⟩
    · rw [State.ctx, cancelledBy, List.getElem?_modify_eq, show s.ctxs[n]? = some c from hc]
      rfl
    · simp [State.ctx, cancelledBy, hm.symm]
    · rfl

end Sys2Proof.Proofs.Execution
end

section
/-! PROOFS. Permits, and resets (O41). -/

namespace Sys2Proof.Proofs.Execution

open Sys2Proof Sys2Proof.Machine Sys2Proof.Claims

/-! ### Stewards (R84, R444) -/

theorem steward_updSteward (s : State) (d : Nat) (f : Steward → Steward) : (s.updSteward d f).steward d = (s.steward d).map f := by
  simp [State.steward, modifyAt_eq_modify]

/-- A throttle level divides what the main bucket receives. -/
theorem refills_main (w : Steward) (r : ConfigRecord) :
    (w.refills r).1 = (256 - r.rtShare) * r.heavyW * 4 / (if w.level = 0 then 1 else if w.level = 1 then 2 else 4) := by
  unfold Steward.refills
  dsimp only
  split
  · exact (Nat.div_one _).symm
  · split <;> rfl

/-! ### The boot sequence (R436, R437) -/

theorem failsAt_le (f : FlashCopy) : f.failsAt ≤ 3 := by
  unfold FlashCopy.failsAt
  split
  · decide
  · split
    · decide
    · split <;> decide

/-- Where neither copy verifies, a pass ends at the step at which copy B fails. -/
theorem bootPass_noCopy {p : Package} (ha : p.flashA.failsAt ≠ 0) (hb : p.flashB.failsAt ≠ 0) (r failStep : Nat) (second : Bool) :
    bootPass p r failStep second =
      .inl (Package.booted p.flashA p.flashB (p.flashA.failsAt != 0) r p.flashB.failsAt (p.bootFaults.drop 1) (p.flashB.failsAt - 1)) :=
  if_pos ⟨ha, hb⟩

theorem not_noCopy {p : Package} (hcopy : p.flashA.failsAt = 0 ∨ p.flashB.failsAt = 0) : ¬ (p.flashA.failsAt ≠ 0 ∧ p.flashB.failsAt ≠ 0) :=
  fun ⟨ha, hb⟩ => hcopy.elim ha hb

/-- A pass from a copy that verifies, with no failure, reaches step 8. -/
theorem bootPass_clean {p : Package} (hcopy : p.flashA.failsAt = 0 ∨ p.flashB.failsAt = 0) (hfaults : p.bootFaults = []) (r failStep : Nat) (second : Bool) :
    bootPass p r failStep second =
      .inl (Package.booted p.flashA p.flashB (p.flashA.failsAt != 0) r (if p.flashA.failsAt ≠ 0 then p.flashA.failsAt else failStep) []) := by
  rw [bootPass]
  dsimp only
  rw [if_neg (not_noCopy hcopy), hfaults]
  rfl

/-- A failure at a step from 4 to 8 ends a first pass. -/
theorem bootPass_fails {p : Package} {k : Nat} {rest : List Nat} (hcopy : p.flashA.failsAt = 0 ∨ p.flashB.failsAt = 0) (hfaults : p.bootFaults = k :: rest)
    (h4 : 4 ≤ k) (h8 : k ≤ 8) (r failStep : Nat) : bootPass p r failStep false = .inr k := by
  rw [bootPass]
  dsimp only
  rw [if_neg (not_noCopy hcopy), hfaults]
  exact if_pos ⟨h4, h8⟩

/-- A failure there in a second pass ends the boot. -/
theorem bootPass_failsTwice {p : Package} {k : Nat} {rest : List Nat} (hcopy : p.flashA.failsAt = 0 ∨ p.flashB.failsAt = 0) (hfaults : p.bootFaults = k :: rest)
    (h4 : 4 ≤ k) (h8 : k ≤ 8) (r failStep : Nat) :
    bootPass p r failStep true = .inl (Package.booted p.flashA p.flashB (p.flashA.failsAt != 0) r k rest (k - 1)) := by
  rw [bootPass]
  dsimp only
  rw [if_neg (not_noCopy hcopy), hfaults]
  exact if_pos ⟨h4, h8⟩

/-- A second pass from a copy that verifies ends, at whatever step, with the package as that boot leaves it. -/
theorem bootPass_second {p : Package} (hcopy : p.flashA.failsAt = 0 ∨ p.flashB.failsAt = 0) (r failStep : Nat) :
    ∃ step faults reached, bootPass p r failStep true = .inl (Package.booted p.flashA p.flashB (p.flashA.failsAt != 0) r step faults reached) := by
  cases hfaults : p.bootFaults with
  | nil => exact ⟨_, _, _, bootPass_clean hcopy hfaults r failStep true⟩
  | cons k rest =>
    by_cases hk : 4 ≤ k ∧ k ≤ 8
    · exact ⟨_, _, _, bootPass_failsTwice hcopy hfaults hk.1 hk.2 r failStep⟩
    · rw [bootPass]
      dsimp only
      rw [if_neg (not_noCopy hcopy), hfaults]
      exact ⟨_, _, _, if_neg hk⟩

theorem bootPackage_noCopy {p : Package} (ha : p.flashA.failsAt ≠ 0) (hb : p.flashB.failsAt ≠ 0) (r failStep : Nat) :
    bootPackage p r failStep =
      Package.booted p.flashA p.flashB (p.flashA.failsAt != 0) r p.flashB.failsAt (p.bootFaults.drop 1) (p.flashB.failsAt - 1) := by
  rw [bootPackage, bootPass_noCopy ha hb]

theorem bootPackage_clean {p : Package} (hcopy : p.flashA.failsAt = 0 ∨ p.flashB.failsAt = 0) (hfaults : p.bootFaults = []) (r failStep : Nat) :
    bootPackage p r failStep =
      Package.booted p.flashA p.flashB (p.flashA.failsAt != 0) r (if p.flashA.failsAt ≠ 0 then p.flashA.failsAt else failStep) [] := by
  rw [bootPackage, bootPass_clean hcopy hfaults]

/-- A boot that fails once at a step from 4 to 8 is what its second pass makes of it, with LASTRST = 3. -/
theorem bootPackage_again {p q : Package} {k : Nat} {rest : List Nat} (hcopy : p.flashA.failsAt = 0 ∨ p.flashB.failsAt = 0) (hfaults : p.bootFaults = k :: rest)
    (h4 : 4 ≤ k) (h8 : k ≤ 8) (hsecond : bootPass { p with bootFaults := rest } 3 k true = .inl q) (r failStep : Nat) : bootPackage p r failStep = q := by
  rw [bootPackage, bootPass_fails hcopy hfaults h4 h8]
  dsimp only
  rw [hfaults, List.drop_succ_cons, List.drop_zero, hsecond]

/-- The copy that a boot reads: B where A does not verify. -/
theorem copy_of_failsAt (a b : FlashCopy) : (if (a.failsAt != 0) = true then b else a) = if a.failsAt = 0 then a else b := by
  by_cases ha : a.failsAt = 0 <;> simp [ha]

/-! ### Resets (R435, R448) -/

/-- Writes of memory one after another change its bytes only. -/
theorem writeMems_eq (cells : List (Nat × List Byte)) (t : State) :
    cells.foldl (fun t p => t.writeMem p.1 p.2) t =
      { t with mem := { t.mem with mem := cells.foldl (fun m p => m.writeBytes p.1 p.2) t.mem.mem } } := by
  induction cells generalizing t with
  | nil => rfl
  | cons p cells ih => exact ih _

/-- What a reset leaves: the state of a boot, with the agenda and the model's own counters kept, and the logs where TSHUT makes it. -/
theorem reboot_eq (s : State) (n : Nat) :
    s.reboot n =
      { State.booted { bootPackage s.pkg n (if n = 0 then 0 else s.pkg.failStep) with out := s.pkg.out } with
        clk := { Clock.reset with agenda := s.clk.agenda, free := s.clk.free, nextId := s.clk.nextId }
        mem := { MemSide.reset with mem := (if n = 2 then s.logCells else []).foldl (fun m p => m.writeBytes p.1 p.2) ⟨[]⟩ } } := by
  unfold State.reboot
  by_cases hn : n = 2
  · rw [if_pos hn, if_pos hn]
    exact writeMems_eq _ _
  · rw [if_neg hn, if_neg hn]
    rfl

theorem exec_resetCause {s : State} {i : Instr} {n : Nat} (hi : resetCause i = some n) : exec i s = .next (s.reboot n) := by
  unfold resetCause at hi
  split at hi
  · cases hi; rfl
  · cases hi; rfl
  · next d =>
    split at hi
    · next hd => cases hi; exact congrArg Host.Outcome.next (if_pos hd)
    · cases hi
  · cases hi

/-- Settles O41: a refill by its two buckets (`refills_main`), a reset by what it leaves of the machine (`reboot_eq`) and by the passes of its boot
(`bootPackage_clean`, `bootPackage_noCopy`, `bootPackage_again`). -/
theorem powerAndResets : Obligations.PowerAndResets := by
  unfold Obligations.PowerAndResets
  refine fun s d => ⟨?refills, ?grants, ?levels, ?shuts, ?again, ?resets⟩
  case refills =>
    intro w hw
    refine ⟨_, w.refill s.pkg.record, rfl, by rw [steward_updSteward, hw, Option.map_some], rfl, rfl, ?_, rfl, rfl, rfl⟩
    exact congrArg (fun a => min (4096 * 1024) (w.main + a)) (refills_main w s.pkg.record)
  case grants =>
    intro w q w' hw hgrant
    show execPermitGrant d s = _
    rw [execPermitGrant, hw]
    dsimp only
    rw [hgrant]
  case levels =>
    intro w temp hw hd htemp
    have hlevels : execThrottleLevelChange d temp s = .next (s.updSteward d fun w => { w with temp := temp, level := throttleLevel s.pkg.record temp }) :=
      congrArg Host.Outcome.next ((if_neg (not_not_intro hd)).trans (if_neg (Nat.not_le.mpr htemp)))
    exact ⟨_, hlevels, by rw [steward_updSteward, hw, Option.map_some]; rfl, rfl, rfl⟩
  case shuts =>
    intro temp hd htemp
    have hreset : execThrottleLevelChange d temp s = .next (s.reboot 2) :=
      congrArg Host.Outcome.next ((if_neg (not_not_intro hd)).trans (if_pos htemp))
    exact hreset.trans (exec_resetCause (i := .tshut d) (if_pos hd)).symm
  case again =>
    intro i n k rest hi hfaults h4 h8 hcopy
    obtain ⟨step, faults, reached, hsecond⟩ := bootPass_second (p := { s.pkg with bootFaults := rest }) hcopy 3 k
    have hpkg := fun q hq => bootPackage_again (q := q) hcopy hfaults h4 h8 hq n (if n = 0 then 0 else s.pkg.failStep)
    refine ⟨_, (exec_resetCause hi).trans (congrArg Host.Outcome.next (reboot_eq s n)), rfl, rfl, rfl, rfl, rfl, rfl, rfl, rfl, rfl, rfl, rfl, ?_, ?_, ?_, ?_⟩
    · exact congrArg Package.lastRst (hpkg _ hsecond)
    · exact congrArg Package.copyB (hpkg _ hsecond)
    · intro hrest
      have hclean := hpkg _ (bootPass_clean (p := { s.pkg with bootFaults := rest }) hcopy hrest 3 k true)
      refine ⟨congrArg Package.done hclean, congrArg Package.bootErr hclean, (congrArg Package.failStep hclean).trans (ite_not ..), ?_⟩
      rw [← copy_of_failsAt]
      exact ⟨congrArg Package.record hclean, congrArg Package.mr hclean⟩
    · intro k2 more hrest h24 h28
      have htwice := hpkg _ (bootPass_failsTwice (p := { s.pkg with bootFaults := rest }) hcopy hrest h24 h28 3 k)
      have hreached : ¬ 8 ≤ k2 - 1 := by omega
      exact ⟨(congrArg Package.done htwice).trans (decide_eq_false hreached), (congrArg Package.bootErr htwice).trans (decide_eq_true (Nat.not_le.mp hreached)),
        congrArg Package.failStep htwice⟩
  case resets =>
    intro i n hi hfaults
    have hclean := fun hcopy => bootPackage_clean hcopy hfaults n (if n = 0 then 0 else s.pkg.failStep)
    have hdead := fun ha hb => bootPackage_noCopy (p := s.pkg) ha hb n (if n = 0 then 0 else s.pkg.failStep)
    refine ⟨_, (exec_resetCause hi).trans (congrArg Host.Outcome.next (reboot_eq s n)), ?_, rfl, rfl, rfl, rfl, rfl, rfl, rfl, rfl, rfl, rfl, rfl, rfl, ?_, ?_⟩
    · by_cases hcopy : s.pkg.flashA.failsAt = 0 ∨ s.pkg.flashB.failsAt = 0
      · exact congrArg Package.lastRst (hclean hcopy)
      · obtain ⟨ha, hb⟩ := not_or.mp hcopy
        exact congrArg Package.lastRst (hdead ha hb)
    · intro hcopy
      refine ⟨congrArg Package.done (hclean hcopy), congrArg Package.bootErr (hclean hcopy), ?_⟩
      rw [← copy_of_failsAt]
      exact ⟨congrArg Package.record (hclean hcopy), congrArg Package.mr (hclean hcopy)⟩
    · intro ha hb
      have hle := failsAt_le s.pkg.flashB
      have hreached : ¬ 7 ≤ s.pkg.flashB.failsAt - 1 := by omega
      exact ⟨(congrArg Package.done (hdead ha hb)).trans (decide_eq_false (by omega)), (congrArg Package.bootErr (hdead ha hb)).trans (decide_eq_true (by omega)),
        (congrArg Package.mr (hdead ha hb)).trans (if_neg hreached)⟩

end Sys2Proof.Proofs.Execution
end

section
/-! PROOFS. Long-latency results (O38). -/

namespace Sys2Proof.Proofs.Execution

open Sys2Proof Sys2Proof.Machine Sys2Proof.Claims

/-! ### A result in its lanes (R93, R193, R337) -/

theorem setRegsOf_frame (t : Thread) (handler : Bool) (n : Nat) (vs : List W32) :
    t.setRegsOf handler n vs = { t with regs := (t.setRegsOf handler n vs).regs, hv := (t.setRegsOf handler n vs).hv } := by
  unfold Thread.setRegsOf
  split
  · exact Thread.setRegs_frame ..
  · split
    · exact Thread.setRegs_frame ..
    · rw [Thread.setRegs_frame]

/-- A slot is released whatever the lookahead windows are. -/
theorem slotDown_windows (t : Thread) (handler : Bool) (n : Nat) (ws : List Window) :
    ({ t with windows := ws } : Thread).slotDown handler n = { t.slotDown handler n with windows := ws } := by
  simp only [Thread.slotDown, apply_ite (fun u : Thread => { u with windows := ws })]

/-- The registers, flags and predicate of a result's lane, in a thread that has not ended. -/
def laneValues (handler : Bool) (l : ResultLane) (h : Thread) : Thread :=
  let w := (h.setRegsOf handler l.reg l.vals).orFlags l.flags
  match l.pred with
  | some (n, v) => w.setPred n v
  | none => w

theorem laneValues_ref (handler : Bool) (l : ResultLane) (h : Thread) : (laneValues handler l h).ref = h.ref := by
  unfold laneValues Thread.orFlags
  split
  · rw [Thread.setPred_frame, setRegsOf_frame]
  · rw [setRegsOf_frame]

/-- What a lane of a result makes of its thread: it takes the values and closes its window, or discards them if it has ended (R311). -/
def laneTaken (op : Nat) (handler : Bool) (l : ResultLane) (h : Thread) : Thread :=
  if h.exited || h.dying.isSome then h
  else { laneValues handler l h with windows := (laneValues handler l h).windows.filter fun w => w.op != op || w.op == 0 }

theorem writeLane_eq (s : State) (op : Nat) (handler : Bool) (l : ResultLane) : s.writeLane op handler l = s.updThread l.t (laneTaken op handler l) := rfl

theorem laneTaken_ref (op : Nat) (handler : Bool) (l : ResultLane) (h : Thread) : (laneTaken op handler l h).ref = h.ref := by
  unfold laneTaken
  split
  · rfl
  · exact laneValues_ref handler l h

/-- What the lanes of a result make of a thread: those that are its own, in order. -/
def lanesTaken (op : Nat) (handler : Bool) (ls : List ResultLane) (h : Thread) : Thread :=
  (ls.filter fun l => l.t == h.ref).foldl (fun h l => laneTaken op handler l h) h

theorem lanesTaken_cons (op : Nat) (handler : Bool) (l : ResultLane) (ls : List ResultLane) (h : Thread) :
    lanesTaken op handler (l :: ls) h = lanesTaken op handler ls (if h.ref == l.t then laneTaken op handler l h else h) := by
  by_cases hl : l.t = h.ref
  · simp [lanesTaken, hl, laneTaken_ref]
  · simp [lanesTaken, hl, Ne.symm hl]

theorem lanesTaken_ref (op : Nat) (handler : Bool) (ls : List ResultLane) (h : Thread) : (lanesTaken op handler ls h).ref = h.ref := by
  induction ls generalizing h with
  | nil => rfl
  | cons l ls ih =>
    rw [lanesTaken_cons, ih]
    split
    · exact laneTaken_ref ..
    · rfl

/-- The lanes of a result change threads only, each by its own lanes. -/
theorem writeLanes_eq (s : State) (op : Nat) (handler : Bool) (ls : List ResultLane) :
    s.writeLanes op handler ls = { s with threads := s.threads.map (lanesTaken op handler ls) } := by
  induction ls generalizing s with
  | nil => exact congrArg (fun ts => { s with threads := ts }) (List.map_id' s.threads).symm
  | cons l ls ih =>
    refine (ih (s.writeLane op handler l)).trans ?_
    simp only [writeLane_eq, State.updThread, mapIf, List.map_map, Function.comp_def, ← lanesTaken_cons]

/-! ### A result is over -/

/-- The state in which a result's lanes are written: it is no longer in flight, and its atomics of a plot have appended their entries (R446). -/
def resultLogged (s : State) (r : Result) : State :=
  r.logs.foldl (fun s l => s.logAtomic l.1.ctx l.1 l.2 0)
    { s with mem := { s.mem with results := s.mem.results.filter fun q => q.id != r.id } }

theorem OnlyLog.cores {n : Nat} {s t : State} (h : OnlyLog n s t) : t.cores = s.cores := (congrArg State.cores h.rest :)

theorem onlyLog_logAtomic (s : State) (n : Nat) (t : TRef) (old w : Nat) : OnlyLog n s (s.logAtomic n t old w) := onlyLog_logAppend ..

theorem resultLogged_threads (s : State) (r : Result) : (resultLogged s r).threads = s.threads := by
  rw [resultLogged]
  exact foldl_keeps (π := State.threads) (fun s l => (onlyLog_logAtomic s ..).threads) r.logs _

theorem resultLogged_cores (s : State) (r : Result) : (resultLogged s r).cores = s.cores := by
  rw [resultLogged]
  exact foldl_keeps (π := State.cores) (fun s l => (onlyLog_logAtomic s ..).cores) r.logs _

/-- What a result makes of a thread: it takes its lanes, and its slot is released where it was counted. -/
def resultTaken (r : Result) (h : Thread) : Thread :=
  if r.counted.contains h.ref then (lanesTaken r.op r.handler r.lanes h).slotDown r.handler r.set else lanesTaken r.op r.handler r.lanes h

/-- A result that makes no access of a supervisor register appends its log entries, and then changes threads only. -/
theorem giveResult_eq {s : State} {r : Result} (hsups : r.sups = []) :
    s.giveResult r = { resultLogged s r with threads := s.threads.map (resultTaken r) } := by
  have hgive : s.giveResult r = ((resultLogged s r).writeLanes r.op r.handler r.lanes).release r.counted r.handler r.set := by
    rw [State.giveResult, hsups]
    simp only [State.runSups, List.foldl_nil, List.append_nil]
    rfl
  rw [hgive, writeLanes_eq, resultLogged_threads]
  simp only [State.release, State.updThreads, mapIf, List.map_map, Function.comp_def, lanesTaken_ref]
  rfl

/-- A result that no stage and no shoot-down holds is given at once. -/
theorem execLongLatencyResult_gives {s : State} {r : Result} (hfind : (s.mem.results.find? fun q => q.id == r.id) = some r) (hheld : r.held = none)
    (hwaits : r.waits = []) (hpages : r.pages = []) : execLongLatencyResult r.id s = .next (s.giveResult r) := by
  have hshoot : shootWaits s r = false := by simp [shootWaits, hwaits, hpages]
  have hend : s.endShoot r = s := by rw [State.endShoot, hpages, List.foldl_nil]
  simp only [execLongLatencyResult, hfind, hheld, hshoot, hend, Option.isSome_none, Bool.false_eq_true, if_false]

/-- A thread that has not ended takes the values of its one lane; what else the lane changes is its windows. -/
theorem resultTaken_lane {r : Result} {h : Thread} {l : ResultLane} (hlane : (r.lanes.filter fun l => l.t == h.ref) = [l]) (hexited : h.exited = false)
    (hdying : h.dying = none) :
    resultTaken r h = { (if r.counted.contains h.ref then (laneValues r.handler l h).slotDown r.handler r.set else laneValues r.handler l h) with
      windows := (resultTaken r h).windows } := by
  have htaken : lanesTaken r.op r.handler r.lanes h =
      { laneValues r.handler l h with windows := (laneValues r.handler l h).windows.filter fun w => w.op != r.op || w.op == 0 } := by
    simp [lanesTaken, hlane, laneTaken, hexited, hdying]
  unfold resultTaken
  split
  · rw [htaken, slotDown_windows]
  · rw [htaken]

/-- A thread without a lane has its slot released if it was counted, and is otherwise as it was. -/
theorem resultTaken_noLane {r : Result} {h : Thread} (hlane : (r.lanes.filter fun l => l.t == h.ref) = []) :
    resultTaken r h = if r.counted.contains h.ref then h.slotDown r.handler r.set else h := by
  simp only [resultTaken, lanesTaken, hlane, List.foldl_nil]

/-- Settles O38: the result is given at once (`execLongLatencyResult_gives`); its log entries change no thread and no core, its lanes and its release change
threads only (`giveResult_eq`), each by what `resultTaken` says of it. -/
theorem longLatencyResults : Obligations.LongLatencyResults := by
  unfold Obligations.LongLatencyResults
  intro s r hfind hheld hwaits hpages hsups
  refine ⟨_, (execLongLatencyResult_gives hfind hheld hwaits hpages).trans (congrArg _ (giveResult_eq hsups)), rfl, rfl, resultLogged_cores s r, rfl,
    List.length_map _, ?_⟩
  intro k h hk
  exact ⟨resultTaken r h, by rw [List.getElem?_map, hk, Option.map_some], fun l => resultTaken_lane, resultTaken_noLane⟩

end Sys2Proof.Proofs.Execution
end

section
/-! PROOFS. Requests at their homes (O35). -/

namespace Sys2Proof.Proofs.Execution

open Sys2Proof Sys2Proof.Machine Sys2Proof.Claims

/-! ### What a write at a home leaves as it was (R155, R175, R176, R349) -/

/-- A state with the bytes of memory, and the lines in the slices, of another. -/
def withLines (s t : State) : State := { t with mem := { t.mem with mem := s.mem.mem, slices := s.mem.slices, evmax := s.mem.evmax } }

theorem withLines_keepSlice (s t : State) (l : SliceLine) : withLines s (t.keepSlice l) = withLines s t := by
  unfold State.keepSlice
  dsimp only
  split <;> rfl

theorem withLines_markEntry (s t : State) (entry : Option Nat) (write : Bool) : withLines s (t.markEntry entry write) = withLines s t := by
  cases entry <;> rfl

/-- Besides the bytes and the slices, a write at a home changes what is noted of its lines: the poison of those that it covers, and the reservations
and host copies of its own, go. -/
theorem withLines_performWrite (s : State) (pa ia : Nat) (bs : List Byte) (tag : Option (BitVec 4 × Nat)) :
    withLines s (s.performWrite pa ia bs tag).1 =
      { s.clearCovered [(s.redirect pa ia, bs.length)] with
        pkg := { s.pkg with reserved := s.pkg.reserved.filter (fun r => r.2 != lineOf ia), directory := s.pkg.directory.filter fun r => r.1 != lineOf ia } } := by
  unfold State.performWrite State.touchSlice
  dsimp only
  refine (withLines_keepSlice ..).trans ?_
  split
  · split
    · exact withLines_markEntry ..
    · rfl
  · rfl

/-- Where an access is performed depends on the memory dies alone, which a write leaves as they were. -/
theorem redirect_performWrite (s : State) (pa ia : Nat) (bs : List Byte) (tag : Option (BitVec 4 × Nat)) :
    (s.performWrite pa ia bs tag).1.redirect = s.redirect :=
  (congrArg State.redirect (withLines_performWrite s pa ia bs tag) :)

/-! ### Requests at their homes (R155 to R162, R348) -/

/-- At their home the parts of a request are written as `storesInOrder` says, and no unit turns one away. -/
theorem writeParts_home {r : Request} (hhome : r.route = .home) (bad : List (LanePart × Nat)) (ps : List LanePart) (s : State) (w : Nat) :
    s.writeParts r w bad ps =
      let o := (ps.filter fun p => p.size != 0).foldl (fun (acc : State × Nat) p =>
        let o := acc.1.performWrite (r.frame + p.off) (r.ia + p.off) p.data (some (r.perms, r.ctx))
        (o.1, max acc.2 o.2)) (s, w)
      (o.1, o.2, bad) := by
  induction ps generalizing s w with
  | nil => rfl
  | cons p ps ih =>
    rw [State.writeParts]
    by_cases hsize : p.size = 0
    · rw [if_pos hsize, List.filter_cons_of_neg (by simp [hsize]), ih]
    · rw [if_neg hsize, if_pos hhome, List.filter_cons_of_pos (by simp [hsize])]
      exact ih ..

/-- A store's parts at its home are one write (R273, R349). -/
theorem writeHome_eq {s : State} {r : Request} (hhome : r.route = .home) :
    s.writeHome r = ((storesInOrder s r).1.clearCovered (r.parts.map fun p => ((storesInOrder s r).1.redirect (r.frame + p.off) (r.ia + p.off), p.size)),
      (storesInOrder s r).2) := by
  rw [State.writeHome, writeParts_home hhome]
  rfl

/-- A line that goes back poisoned is poisoned where it lay before its write, which moves no line (R148, R349). -/
theorem performBack_eq (s : State) (r : Request) :
    s.performBack r =
      let o := s.performWrite r.frame r.ia r.line (some (r.perms, r.ctx))
      (if r.poison then o.1.setPoison (s.redirect r.frame r.ia) else o.1, o.2) := by
  dsimp only [State.performBack]
  rw [redirect_performWrite]

/-- What the home makes of a line that goes back, and of any other store. -/
def homeStored (s : State) (r : Request) : State × Nat := if r.kind = .writeBack then s.performBack r else s.writeHome r

section
variable {s : State} {r : Request}

theorem writeWaits_atHome {reads : Bool} (hat : AtHome s r reads) (hearlier : s.earlierWrite r = false) : s.writeWaits r = false := by
  simp [State.writeWaits, hearlier, hat.moves]

/-- A load that nothing holds up takes its line as it stands. -/
theorem execHomeLoad_atHome (hat : AtHome s r true) :
    execHomeLoad r.id s = .next ((s.readHome r).1.answerAfter (s.readHome r).2 ((s.readHome r).1.wayBack (s.readHome r).2) (.loadReturn r.id)) := by
  obtain ⟨hthere, hway, hhome, hdrains, hmoves, herrors⟩ := hat
  simp only [execHomeLoad, hthere, hway, hhome, hdrains, hmoves, herrors, ne_eq, not_true_eq_false, Bool.false_eq_true, if_false]

/-- A store, or a line that goes back, is performed once no earlier write of its threads to the line is outstanding. -/
theorem execHomeStore_atHome (hat : AtHome s r false) (hearlier : s.earlierWrite r = false) :
    execHomeStore r.id s =
      .next ((homeStored s r).1.answerAfter { r with w := (homeStored s r).2 } ((homeStored s r).1.wayBack r) (.storeAck r.id)) := by
  have hwaits := writeWaits_atHome hat hearlier
  obtain ⟨hthere, hway, hhome, hdrains, -, herrors⟩ := hat
  simp only [execHomeStore, hthere, hway, hhome, hdrains, hwaits, herrors, ne_eq, not_true_eq_false, Bool.false_eq_true, if_false]
  unfold homeStored
  split
  case h_1 hback => rw [if_pos hback]
  case h_2 hother => rw [if_neg hother]

/-- An atomic is performed likewise. -/
theorem execHomeAtomic_atHome {aop : Nat} {rnd : Rnd} (hat : AtHome s r true) (hearlier : s.earlierWrite r = false) (hkind : r.kind = .atomic aop rnd) :
    let o := s.atomicParts r aop rnd
    execHomeAtomic r.id s = .next (o.1.answerAfter { r with old := o.2.1, w := o.2.2 } (o.1.wayBack r + 8) (.loadReturn r.id)) := by
  have hwaits := writeWaits_atHome hat hearlier
  obtain ⟨hthere, hway, hhome, hdrains, -, herrors⟩ := hat
  simp only [execHomeAtomic, hthere, hkind, hway, hhome, hdrains, hwaits, herrors, ne_eq, not_true_eq_false, Bool.false_eq_true, if_false]

end

/-- Settles O35: where nothing holds a request up its happening performs it (`execHomeLoad_atHome`, `execHomeStore_atHome`, `execHomeAtomic_atHome`), a
store's parts in lane order (`writeHome_eq`); for a context that drains the answer alone is made. -/
theorem homesPerform : Obligations.HomesPerform := by
  unfold Obligations.HomesPerform
  refine fun s r => ⟨?load, ?store, ?back, ?atomic, ?drains⟩
  case load => exact fun hat => ⟨execHomeLoad_atHome hat, rfl⟩
  case store =>
    intro hat hearlier hkind
    refine (execHomeStore_atHome hat hearlier).trans ?_
    rw [homeStored, if_neg hkind, writeHome_eq hat.home]
    rfl
  case back =>
    intro hat hearlier hkind
    refine (execHomeStore_atHome hat hearlier).trans ?_
    rw [homeStored, if_pos hkind, performBack_eq]
    rfl
  case atomic => exact fun aop rnd hat hearlier hkind => execHomeAtomic_atHome hat hearlier hkind
  case drains =>
    intro hthere hway hdrains
    refine ⟨?_, ?_, ?_, ?_⟩
    · show execHomeLoad r.id s = _
      simp only [execHomeLoad, hthere, hway, hdrains, ne_eq, not_true_eq_false, if_false, if_true]
    · show execHomeStore r.id s = _
      simp only [execHomeStore, hthere, hway, hdrains, ne_eq, not_true_eq_false, if_false, if_true]
    · intro aop rnd hkind
      show execHomeAtomic r.id s = _
      simp only [execHomeAtomic, hthere, hkind, hway, hdrains, ne_eq, not_true_eq_false, if_false, if_true]
    · intro home win off hroute hparts
      obtain ⟨p, ps, hps⟩ := List.exists_cons_of_ne_nil hparts
      show execOperationPacket r.id s = _
      simp only [execOperationPacket, hthere, hroute, hps, List.head?_cons, hway, hdrains, ne_eq, not_true_eq_false, if_false, if_true]
      rfl

end Sys2Proof.Proofs.Execution
end

section
/-! PROOFS. What becomes of an engine command (O42). -/

namespace Sys2Proof.Proofs.Execution

open Sys2Proof Sys2Proof.Machine Sys2Proof.Claims

/-! ### Commands -/

theorem cmd_id {s : State} {id : Nat} {c : Cmd} (h : s.cmd id = some c) : c.id = id := by simpa using List.find?_some h

theorem cmd_updCmd_same (s : State) (id : Nat) {f : Cmd → Cmd} (hf : ∀ q, (f q).id = q.id) : (s.updCmd id f).cmd id = (s.cmd id).map f :=
  find?_mapIf_same (fun q hq => (hf q).symm ▸ hq) s.mem.cmds

theorem updCmd_updCmd (s : State) (id : Nat) {f : Cmd → Cmd} (g : Cmd → Cmd) (hf : ∀ q, (f q).id = q.id) :
    (s.updCmd id f).updCmd id g = s.updCmd id fun q => g (f q) := by
  simp only [State.updCmd, mapIf, List.map_map]
  refine congrArg (fun l => { s with mem := { s.mem with cmds := l } }) (List.map_congr_left fun q _ => ?_)
  by_cases hq : (q.id == id) = true
  · simp only [Function.comp_apply, hq, hf, if_true]
  · simp only [Function.comp_apply, if_neg hq]

theorem writeLanes_mem (s : State) (op : Nat) (handler : Bool) (ls : List ResultLane) : (s.writeLanes op handler ls).mem = s.mem := by
  rw [writeLanes_eq]

theorem endCommand_eq {s : State} {c c' : Cmd} (h : s.cmd c.id = some c') (lat : Nat) :
    s.endCommand c lat = (s.updCmd c.id fun q => { q with ended := true }).lookAgain c' lat c'.ewmax c'.acked := by
  simp only [State.endCommand, h, cmd_id h]

/-! ### COPY (R290) -/

section
variable {s s1 s2 : State} {c : Cmd} {d : CopyDesc} {k w acked : Nat} {l : CmdLane} {bytes : List (List Byte)} {targets : List (Nat × Bool)}

/-- The state after the writes of a part, with its bytes due and the watchdog restarted. -/
def partDone (s2 : State) (c : Cmd) (d : CopyDesc) (writes : List ((Nat × Bool) × List Byte)) (w acked : Nat) : State :=
  ((s2.copyCleans c writes).partWritten c ((d.part c.parts).length * d.esize) w acked).restartWatchdog c.ctx

/-- A command after its last part, with the lane's status. -/
def lastPart (c : Cmd) (k w acked : Nat) (q : Cmd) : Cmd :=
  { q with
    ewmax := max q.ewmax w, acked := max q.acked acked, parts := q.parts + 1, kind := .copy none
    lanes := modifyAt (fun l => { l with done := true, status := BitVec.ofNat 32 (min (c.parts + 1) (2 ^ 24 - 1) * 256) }) k q.lanes }

theorem execCopyPartComplete_part (hcmd : s.cmd c.id = some c) (hlive : s.ctxDead c.ctx = false) (hkind : c.kind = .copy (some d))
    (hlane : State.cmdLane c = some (k, l)) : execCopyPartComplete c.id s = .next (s.copyPart c d k) := by
  simp only [execCopyPartComplete, hcmd, hlive, hkind, hlane, Bool.false_eq_true, if_false]

/-- A part whose source is read and whose destinations pass their checks is written; after the last one the lane ends. -/
theorem copyPart_written (hgather : s.copyGather c d (d.part c.parts) = .ok (bytes, s1)) (htargets : s1.copyTargets c d (d.part c.parts) = .ok targets)
    (hscatter : s1.copyScatter c 0 0 (targets.zip bytes) = (s2, w, acked)) :
    s.copyPart c d k =
      let s3 := partDone s2 c d (targets.zip bytes) w acked
      if c.parts + 1 < d.parts then (s3.updCmd c.id fun q => { q with ewmax := max q.ewmax w, acked := max q.acked acked, parts := q.parts + 1 }).askPermit
        c.core.die (.command c.id) 12 c.core.site c.realTime
      else (s3.updCmd c.id (lastPart c k w acked)).copyNext c.id (c.lanes.length + 1) := by
  simp only [State.copyPart, hgather, htargets, hscatter, State.laneStatus]
  rw [updCmd_updCmd, updCmd_updCmd]
  · rfl
  · exact fun _ => rfl
  · exact fun _ => rfl

end

theorem findIdxVal_none {α : Type} {p : α → Bool} {l : List α} (h : ∀ x ∈ l, p x = false) : findIdxVal p l = none := by
  induction l with
  | nil => rfl
  | cons x l ih => simp [findIdxVal, h x, ih fun y hy => h y (List.mem_cons_of_mem x hy)]

theorem cmdLane_none {c : Cmd} (hdone : ∀ q ∈ c.lanes, q.done = true) : State.cmdLane c = none :=
  findIdxVal_none fun q hq => by simp [hdone q hq]

/-- A copy whose lanes are all done has no descriptor left to read, and ends. -/
theorem copyNext_done {s : State} {c : Cmd} {id : Nat} (hcmd : s.cmd id = some c) (hdone : ∀ q ∈ c.lanes, q.done = true) (fuel : Nat) :
    s.copyNext id (fuel + 1) = (s.updCmd id fun q => { q with ended := true }).lookAgain c 1 c.ewmax c.acked := by
  obtain rfl := cmd_id hcmd
  rw [State.copyNext, hcmd]
  simp only [cmdLane_none hdone]
  exact endCommand_eq hcmd 1

/-! ### TRACE (R404, R451) -/

section
variable {s : State} {c c' : Cmd} {k : Nat} {l : CmdLane} {st : W32}

theorem laneEnds_none (h : (s.laneStatus c k st).cmd c.id = none) : laneEnds s c.id k st = s.laneStatus c k st := by
  have h' : (s.updCmd c.id fun q => { q with lanes := modifyAt (fun l => { l with done := true, status := st }) k q.lanes }).cmd c.id = none := h
  simp only [laneEnds, h']
  rfl

/-- A lane's status follows its end, unless the command waits for leases; the command's work ends with its last lane. -/
theorem laneEnds_some (h : (s.laneStatus c k st).cmd c.id = some c') :
    laneEnds s c.id k st =
      let s1 := s.laneStatus c k st
      let s2 := if s1.cmdTimed c' then s1 else s1.writeStatus c' (c'.lanes[k]?).toList
      if c'.lanes.all (·.done) then s2.endCommand c' 0 else s2 := by
  have h' : (s.updCmd c.id fun q => { q with lanes := modifyAt (fun l => { l with done := true, status := st }) k q.lanes }).cmd c.id = some c' := h
  have hstands : (if (s.laneStatus c k st).cmdTimed c' then s.laneStatus c k st else (s.laneStatus c k st).writeStatus c' (c'.lanes[k]?).toList).cmd c'.id = some c' := by
    rw [cmd_id h]
    split
    · exact h
    · rw [State.cmd, State.writeStatus, writeLanes_mem]
      exact h
  dsimp only
  rw [endCommand_eq hstands]
  simp only [laneEnds, h']
  rfl

/-- TRACE_LANE_COMPLETE of a lane without outputs ends it. -/
theorem execTraceLaneComplete_noOutput (hcmd : s.cmd c.id = some c) (hlive : s.ctxDead c.ctx = false) (hlane : c.lanes[k]? = some l)
    (hdone : l.done = false) (hout : l.out = []) : execTraceLaneComplete c.id k s = .next (laneEnds s c.id k l.status) := by
  simp only [execTraceLaneComplete, hcmd, hlive, hlane, hdone, hout, Bool.false_eq_true, if_false, List.isEmpty_nil, if_true]
  cases h : (s.laneStatus c k l.status).cmd c.id with
  | none => simp only [laneEnds_none h]
  | some c' => simp only [laneEnds_some h]

/-- A lane whose outputs cannot be written ends with the code of what they met. -/
theorem execTraceLaneComplete_refused (hcmd : s.cmd c.id = some c) (hlive : s.ctxDead c.ctx = false) (hlane : c.lanes[k]? = some l)
    (hdone : l.done = false) (hout : l.out ≠ []) {e : Nat} (hmet : s.engineWritable c.ctx (l.addr.toNat + l.outAt) l.out.length = .cause e) :
    execTraceLaneComplete c.id k s = .next (laneEnds s c.id k (BitVec.ofNat 32 (traceCause e))) := by
  have hsome : l.out.isEmpty = false := by simpa using hout
  simp only [execTraceLaneComplete, hcmd, hlive, hlane, hdone, hsome, hmet, Bool.false_eq_true, if_false]
  cases h : (s.laneStatus c k (BitVec.ofNat 32 (traceCause e))).cmd c.id with
  | none => simp only [laneEnds_none h]
  | some c' => simp only [laneEnds_some h]

/-- A lane whose outputs can be written ends once they are. -/
theorem execTraceLaneComplete_written (hcmd : s.cmd c.id = some c) (hlive : s.ctxDead c.ctx = false) (hlane : c.lanes[k]? = some l)
    (hdone : l.done = false) (hout : l.out ≠ []) {ia : Nat} (hmet : s.engineWritable c.ctx (l.addr.toNat + l.outAt) l.out.length = .ok ia) :
    let o := s.engineWrite c.ctx ia l.out
    let q := o.1.ackedFrom ia
    execTraceLaneComplete c.id k s =
      .next (laneEnds ((q.2.noteRemote c.id ia q.1).updCmd c.id fun q' => { q' with ewmax := max q'.ewmax o.2, acked := max q'.acked q.1 }) c.id k l.status) := by
  intro o q
  have hsome : l.out.isEmpty = false := by simpa using hout
  simp only [execTraceLaneComplete, hcmd, hlive, hlane, hdone, hsome, hmet, Bool.false_eq_true, if_false]
  cases h : (((q.2.noteRemote c.id ia q.1).updCmd c.id fun q' => { q' with ewmax := max q'.ewmax o.2, acked := max q'.acked q.1 }).laneStatus c k l.status).cmd c.id with
  | none => rw [laneEnds_none h]
  | some c' => rw [laneEnds_some h]

/-- A lane that is done with a status. -/
def laneDone (st : W32) (l : CmdLane) : CmdLane := { l with done := true, status := st }

/-- While another lane is at work, a lane's end is its status alone, which its thread receives. -/
theorem laneEnds_notLast (hcmd : s.cmd c.id = some c) (hlane : c.lanes[k]? = some l) (hthere : l.gone = false) (htimed : s.cmdTimed c = false)
    (hothers : ∃ m, m ≠ k ∧ (c.lanes[m]?).map (·.done) = some false) :
    laneEnds s c.id k st = (s.laneStatus c k st).writeLanes c.id c.handler [⟨l.t, l.reg, [st], none, 0⟩] := by
  obtain ⟨m, hmk, hm⟩ := hothers
  have hdone : (modifyAt (laneDone st) k c.lanes)[k]? = some (laneDone st l) := by
    rw [modifyAt_eq_modify, List.getElem?_modify_eq, hlane, Option.map_eq_map, Option.map_some]
  have hnotAll : ((modifyAt (laneDone st) k c.lanes).all (·.done)) = false := by
    obtain ⟨l', hl', hundone⟩ := Option.map_eq_some_iff.mp hm
    refine List.all_eq_false.mpr ⟨l', List.mem_of_getElem? (i := m) ?_, by simp [hundone]⟩
    rw [modifyAt_eq_modify, List.getElem?_modify_ne _ _ hmk.symm, hl']
  have hcmd' : (s.laneStatus c k st).cmd c.id = some { c with lanes := modifyAt (laneDone st) k c.lanes } := by
    rw [State.laneStatus, cmd_updCmd_same, hcmd]
    · rfl
    · exact fun _ => rfl
  have htimed' : (s.laneStatus c k st).cmdTimed { c with lanes := modifyAt (laneDone st) k c.lanes } = false := htimed
  rw [laneEnds_some hcmd']
  simp only [htimed', hdone, hnotAll, Bool.false_eq_true, if_false, State.writeStatus, Option.toList_some]
  simp [laneDone, hthere]

end

/-! ### The end of a command (R170, R173, R288) -/

section
variable {s : State} {c : Cmd}

theorem execEngineCommandComplete_working (hcmd : s.cmd c.id = some c) (hended : c.ended = false) :
    execEngineCommandComplete c.id s = .next (s.settleParts c) := by
  simp only [execEngineCommandComplete, hcmd, hended, Bool.not_false, if_true]

theorem execEngineCommandComplete_over (hcmd : s.cmd c.id = some c) (hended : c.ended = true)
    (hover : (s.settleParts c).writesOver c c.ewmax c.acked = true) :
    execEngineCommandComplete c.id s = .next ((s.settleParts c).finishCommand c) := by
  simp only [execEngineCommandComplete, hcmd, hended, hover, Bool.not_true, Bool.false_eq_true, if_false, if_true]

end

/-- Settles O42: a part goes on to the next or ends its lane (`copyPart_written`), after the last lane the command's work is done (`copyNext_done`); a lane
of a TRACE ends by whether it has outputs and they can be written; a command completes when its work is done and its writes are over. -/
theorem commandsGoOn : Obligations.CommandsGoOn := by
  unfold Obligations.CommandsGoOn
  intro s c hcmd hlive
  refine ⟨?part, ?lastPart, ?outputs, ?noOutput, ?notLast, ?working, ?complete⟩
  case part =>
    intro d k l bytes targets s1 s2 w acked hkind hlane hgather htargets hscatter hmore
    refine (execCopyPartComplete_part hcmd hlive hkind hlane).trans ?_
    rw [copyPart_written hgather htargets hscatter]
    simp only [if_pos hmore]
    rfl
  case lastPart =>
    intro d k l bytes targets s1 s2 w acked hkind hlane hgather htargets hscatter hlast s3 s4
    have hpart : exec (.copyPartComplete c.id) s = .next (s4.copyNext c.id (c.lanes.length + 1)) := by
      refine (execCopyPartComplete_part hcmd hlive hkind hlane).trans ?_
      rw [copyPart_written hgather htargets hscatter]
      simp only [if_neg (Nat.not_lt.mpr hlast)]
      rfl
    exact ⟨hpart, fun c' hc' hdone => hpart.trans (congrArg _ (copyNext_done hc' hdone _))⟩
  case outputs =>
    intro k l hlane hdone hout
    exact ⟨fun ia hmet => execTraceLaneComplete_written hcmd hlive hlane hdone hout hmet,
      fun e hmet => execTraceLaneComplete_refused hcmd hlive hlane hdone hout hmet⟩
  case noOutput => exact fun k l hlane hdone hout => execTraceLaneComplete_noOutput hcmd hlive hlane hdone hout
  case notLast =>
    intro k l hlane hdone hthere hout htimed hothers
    refine (execTraceLaneComplete_noOutput hcmd hlive hlane hdone hout).trans ?_
    rw [laneEnds_notLast hcmd hlane hthere htimed hothers]
  case working => exact execEngineCommandComplete_working hcmd
  case complete =>
    intro hended hover
    refine (execEngineCommandComplete_over hcmd hended hover).trans ?_
    simp only [State.finishCommand, State.writeStatus, Bool.not_eq_true']

end Sys2Proof.Proofs.Execution
end

section
/-! PROOFS. An inbound access of another module that carries no bytes (O49). -/

namespace Sys2Proof.Proofs.Execution

open Sys2Proof Sys2Proof.Machine Sys2Proof.Claims

/-! ### Atomics of type .g6 from another module (R430, R431) -/

section
variable {s : State} {p at' landed aop : Nat} {rnd : Rnd} {b c : W64}

/-- A value of .g6 has 6 bits and no whole byte: its atomic meets no unit of module memory, and reads and writes nothing there. -/
theorem deviceAtomic_g6 (hmod : inModule landed = true) : deviceAtomic s landed .g6 aop rnd b c = some (0, s.clearCovered [], 0) := by
  have hwritable : s.homeWritable .atomic (State.unitSpans landed 0) = none := rfl
  have hbytes : s.homeBytes .atomic (State.unitSpans landed 0) = .ok ([], s) := rfl
  have hsize : Ty.bytes .g6 = 0 := rfl
  simp only [deviceAtomic, State.outsideAtomic, hmod, hsize, hwritable, hbytes, Option.isSome_none, Bool.false_eq_true, if_false, if_true]
  rfl

/-- Its old value is no data, so that the port sends none: the acknowledgement alone goes out. -/
theorem execEwerlinkInbound_g6 (hup : s.pkg.ewUp.getD p false = true) (hland : landing (s.portWindows p) at' (Ty.bytes .g6) .atomic = some landed)
    (hmod : inModule landed = true) :
    execEwerlinkInbound p at' (.device .g6 aop rnd b c) s = .next ((s.clearCovered []).emit (.ewerlinkAck p 8)) := by
  have hland' : landing (s.portWindows p) at' (inboundSize (.device .g6 aop rnd b c)) (inboundNeed (.device .g6 aop rnd b c)) = some landed := hland
  have hin : s.inbound landed (.device .g6 aop rnd b c) = some ([], s.clearCovered [], 0) :=
    congrArg (Option.map fun r : Nat × State × Nat => (leBytes (Ty.bytes .g6) r.1, r.2)) (deviceAtomic_g6 hmod)
  have hneed : ¬ inboundNeed (.device .g6 aop rnd b c) = .read := nofun
  simp only [execEwerlinkInbound, hup, hland', hin, hneed, hmod, Bool.not_true, Bool.false_eq_true, if_false, List.isEmpty_nil, if_true]

end

/-- The machine after reset, with Ewerlink port 0 up and its first inbound window on the first 64 KiB of module memory, every access permitted. -/
def portUp : State :=
  { State.reset with pkg := { State.reset.pkg with ewUp := [true, false], ewWin := [((0, 0), (0, 0x10000, 0x1F))] } }

theorem landing_portUp : landing (portUp.portWindows 0) 0 (Ty.bytes .g6) .atomic = some 0 := by decide

/-- Refutes O49: for an atomic of another module that returns its old value over an Ewerlink port, O49 has the port send the data and the
acknowledgement, whatever the type. Under .g6 the data are no bytes, and the model sends the acknowledgement alone (`execEwerlinkInbound_g6`). -/
theorem not_outsideWorld : ¬ Obligations.OutsideWorld := by
  unfold Obligations.OutsideWorld
  rintro ⟨-, hinbound, -⟩
  obtain ⟨-, -, -, -, -, hports⟩ := hinbound portUp 0 0 0
  obtain ⟨-, -, -, hdevice, -⟩ := hports 0 rfl
  obtain ⟨hanswers, -⟩ := hdevice .g6 0 .nearestEven 0 0 landing_portUp
  have hclaimed := hanswers 0 _ 0 (deviceAtomic_g6 rfl)
  have hsent : exec (.ewerlinkInbound 0 0 (.device .g6 0 .nearestEven 0 0)) portUp = .next ((portUp.clearCovered []).emit (.ewerlinkAck 0 8)) :=
    execEwerlinkInbound_g6 rfl landing_portUp rfl
  have houts := congrArg (fun t : State => t.pkg.out.length) (Host.Outcome.next.inj (hsent.symm.trans hclaimed))
  simp [State.emit] at houts

end Sys2Proof.Proofs.Execution
end

section
/-! PROOFS. Instructions of independent lanes: integer, logic, IEEE and conversions (O1, O2, O3). -/

namespace Sys2Proof.Proofs.Execution

open Sys2Proof Sys2Proof.Machine Sys2Proof.Claims

/-! ### Instructions of independent lanes (R192, R193, R237, R268) -/

theorem shortLatency_eq (s : State) (tm : Team) (op : Nat) (x : Fields) :
    shortLatency s tm op x =
      State.passLatency tm (shortTimes op x).1 (if s.halvedIssue then 2 * (shortTimes op x).2 else (shortTimes op x).2) := by
  simp only [shortLatency, State.passLatency]
  split <;> rfl

/-- The instruction is one of independent lanes, with the result `f` in each lane that participates and the times of R237 and R268. -/
def ExecLanewise (i : Instr) (op : Nat) (x : Fields) (f : Lane → LaneOut) : Prop :=
  ∀ s : State, exec i s = .next (s.lanewise op x (shortTimes op x).1 (shortTimes op x).2 f)

/-- Where its own effect happens, such an instruction writes its results at issue and changes nothing else. -/
theorem ExecLanewise.writes {i : Instr} {op : Nat} {x : Fields} {f : Lane → LaneOut} {s : State} {tm : Team} {sp : OpSpec} {act : List Thread}
    {ws : List W32} (hexec : ExecLanewise i op x f) (hissues : Issues s op x tm sp act ws) :
    ∃ t, exec i s = .next t ∧ OnlyThreads s t ∧ Wrote s t x act (perLane s sp x ws f) ∧ Timed s t x act (shortLatency s tm op x) (perLane s sp x ws f) := by
  obtain ⟨hactive, ⟨h, rest, rfl, hteam, hcheck⟩, hrow, hconst⟩ := hissues
  refine ⟨_, hexec s, ?_⟩
  rw [lanewise_next ⟨hactive, hteam, hcheck, hrow⟩ hconst, ← shortLatency_eq]
  exact ⟨onlyThreads_issuedState .., wrote_issuedState .., timed_issuedState ..⟩

/-- It is enough to know the latency and the hold that the meaning names as the opcode's row of R237 or R268. -/
theorem ExecLanewise.of_times {i : Instr} {op : Nat} {x : Fields} {f : Lane → LaneOut} {lat hold : Nat} (htimes : shortTimes op x = (lat, hold))
    (hexec : ∀ s : State, exec i s = .next (s.lanewise op x lat hold f)) : ExecLanewise i op x f := by
  intro s
  rw [htimes]
  exact hexec s

/-! ### Integer arithmetic (R217, R218) -/

/-- The multiplier's rows of R237. -/
theorem shortTimes_multiply {op : Nat} (x : Fields) (hop : op = 0x03 ∨ op = 0x04 ∨ op = 0x05) : shortTimes op x = (latencyOf x.ty 6 10, holdOf x.ty 4) := by
  have hlea : op ≠ 0x0F := by omega
  simp only [shortTimes, if_neg hlea, if_pos hop, latencyOf, holdOf]

/-- The rows of R237 of the other integer instructions but LEA. -/
theorem shortTimes_integer {op : Nat} (x : Fields) (hop : op < 0x20 ∧ op ≠ 0x0F ∧ ¬ (op = 0x03 ∨ op = 0x04 ∨ op = 0x05)) :
    shortTimes op x = (latencyOf x.ty 4 6, holdOf x.ty 2) := by
  obtain ⟨hlt, hlea, hmul⟩ := hop
  simp only [shortTimes, if_neg hlea, if_neg hmul, if_pos hlt, latencyOf, holdOf]

theorem execLanewise_of_integerRule {i : Instr} {op : Nat} {x : Fields} {own : Bool} {f : Ty → Int → Int → Int → Int}
    (hrow : i.row? = some (op, x, own)) (hrule : integerRule i = some f) :
    ExecLanewise i op x fun l =>
      { vals := intWords x.ty (x.xop.getLsbD 0) (f x.ty (intValue x.ty l.a) (intValue x.ty l.b) (intValue x.ty l.c)) } := by
  cases i
  case imulBase | imulExtended | imulhBase | imulhExtended | imadBase | imadExtended =>
    cases hrow; cases hrule
    exact .of_times (shortTimes_multiply _ (by decide)) fun _ => rfl
  case iaddBase | iaddExtended | isubBase | isubExtended | iminBase | iminExtended | imaxBase | imaxExtended | addminBase | addminExtended |
      iabsBase | iabsExtended | inegBase | inegExtended =>
    cases hrow; cases hrule
    exact .of_times (shortTimes_integer _ (by decide)) fun _ => rfl
  all_goals exact nomatch hrule

/-- Settles O1: the meaning of each integer instruction is one of independent lanes (`execLanewise_of_integerRule`), and such a one writes its results
at issue (`ExecLanewise.writes`). -/
theorem integerArithmetic : Obligations.IntegerArithmetic := by
  unfold Obligations.IntegerArithmetic
  intro i op x own f s tm sp act ws hrow hrule hissues
  exact (execLanewise_of_integerRule hrow hrule).writes hissues

/-! ### Logic, shifts, bit fields, counts, LEA, ICMP and ISEL (R219, R221 to R227) -/

theorem shortTimes_lea (x : Fields) : shortTimes 0x0F x = (6, 2) := by simp [shortTimes]

theorem execLanewise_of_bitsRule {i : Instr} {op : Nat} {x : Fields} {own : Bool} {f : Lane → Nat}
    (hrow : i.row? = some (op, x, own)) (hrule : bitsRule x i = some f) : ExecLanewise i op x fun l => { vals := typeWords x.ty (f l) } := by
  cases i
  case andBase | andExtended | orBase | orExtended | xorBase | xorExtended | andnBase | andnExtended | movBase | movExtended | shlBase | shlExtended |
      shrBase | shrExtended | sraBase | sraExtended | rotBase | rotExtended | bfxBase | bfxExtended | bfiBase | bfiExtended | brevBase | brevExtended |
      bpermBase | bpermExtended | bool3 =>
    cases hrow; cases hrule
    exact .of_times (shortTimes_integer _ (by decide)) fun _ => rfl
  all_goals exact nomatch hrule

theorem execLanewise_of_otherRule {i : Instr} {op : Nat} {x : Fields} {own : Bool} {f : Lane → LaneOut}
    (hrow : i.row? = some (op, x, own)) (hrule : otherRule x i = some f) : ExecLanewise i op x f := by
  cases i
  case leaBase | leaExtended =>
    cases hrow; cases hrule
    exact .of_times (shortTimes_lea _) fun _ => rfl
  case popcBase | popcExtended | clzBase | clzExtended | icmp | isel =>
    cases hrow; cases hrule
    exact .of_times (shortTimes_integer _ (by decide)) fun _ => rfl
  all_goals exact nomatch hrule

theorem execLanewise_of_wordRule {i : Instr} {op : Nat} {x : Fields} {own : Bool} {f : Lane → LaneOut}
    (hrow : i.row? = some (op, x, own)) (hrule : wordRule x i = some f) : ExecLanewise i op x f := by
  unfold wordRule at hrule
  split at hrule
  next g hbits =>
    cases hrule
    exact execLanewise_of_bitsRule hrow hbits
  next => exact execLanewise_of_otherRule hrow hrule

/-- Settles O2: as O1, by `execLanewise_of_bitsRule` for the instructions that write the bits of the type and `execLanewise_of_otherRule` for the
counts, LEA, ICMP and ISEL. -/
theorem bitsAndCompares : Obligations.BitsAndCompares := by
  unfold Obligations.BitsAndCompares
  intro i op x own f s tm sp act ws hrow hrule hissues
  exact (execLanewise_of_wordRule hrow hrule).writes hissues

/-! ### IEEE arithmetic, and the conversions of one lane (R228 to R235, R248, R251, R252, R254) -/

theorem shortTimes_fdot2 (x : Fields) : shortTimes 0x2C x = (latencyOf x.ty 5 8, holdOf x.ty 4) := by simp [shortTimes, latencyOf, holdOf]

/-- The rows of R237 of the other IEEE instructions. -/
theorem shortTimes_ieee {op : Nat} (x : Fields) (hop : 0x20 ≤ op ∧ op < 0x30 ∧ op ≠ 0x2C) : shortTimes op x = (latencyOf x.ty 4 8, holdOf x.ty 4) := by
  obtain ⟨hge, hlt, hdot⟩ := hop
  have hlea : op ≠ 0x0F := by omega
  have hmul : ¬ (op = 0x03 ∨ op = 0x04 ∨ op = 0x05) := by omega
  simp only [shortTimes, if_neg hlea, if_neg hmul, if_neg (Nat.not_lt.mpr hge), if_neg hdot, if_pos hlt, latencyOf, holdOf]

/-- The row of R268 of CVT and GCVT. -/
theorem shortTimes_convert {op : Nat} (x : Fields) (hop : op = 0x38 ∨ op = 0x3A) : shortTimes op x = (convertLatency x, 1) := by
  rcases hop with rfl | rfl <;> simp [shortTimes, convertLatency]

theorem shortTimes_pkh (x : Fields) : shortTimes 0x3D x = (4, 1) := by simp [shortTimes]

theorem shortTimes_rand (x : Fields) : shortTimes 0x3E x = (8, 1) := by simp [shortTimes]

theorem execLanewise_of_ieeeRule {i : Instr} {op : Nat} {x : Fields} {own : Bool} {f : Lane → LaneOut}
    (hrow : i.row? = some (op, x, own)) (hrule : ieeeRule x i = some f) : ExecLanewise i op x f := by
  cases i
  case fdot2Base | fdot2Extended =>
    cases hrow; cases hrule
    exact .of_times (shortTimes_fdot2 _) fun _ => rfl
  case faddBase | faddExtended | fsubBase | fsubExtended | fmulBase | fmulExtended | ffmaBase | ffmaExtended | flerpBase | flerpExtended |
      frndBase | frndExtended | ffracBase | ffracExtended | fscaleBase | fscaleExtended | fminBase | fminExtended | fmaxBase | fmaxExtended |
      fclassBase | fclassExtended | fcmp =>
    cases hrow; cases hrule
    exact .of_times (shortTimes_ieee _ (by decide)) fun _ => rfl
  case cvt | gcvt =>
    cases hrow; cases hrule
    exact .of_times (shortTimes_convert _ (by decide)) fun _ => rfl
  case pkhBase | pkhExtended =>
    cases hrow; cases hrule
    exact .of_times (shortTimes_pkh _) fun _ => rfl
  case rand =>
    cases hrow; cases hrule
    exact .of_times (shortTimes_rand _) fun _ => rfl
  all_goals exact nomatch hrule

/-- Settles O3: as O1, by `execLanewise_of_ieeeRule`. Only the times differ, by the pipe and the unit of the opcode. -/
theorem ieeeAndConversions : Obligations.IeeeAndConversions := by
  unfold Obligations.IeeeAndConversions
  intro i op x own f s tm sp act ws hrow hrule hissues
  exact (execLanewise_of_ieeeRule hrow hrule).writes hissues

end Sys2Proof.Proofs.Execution
end

section
/-! PROOFS. The latency of the special-function unit (O5). -/

namespace Sys2Proof.Proofs.Execution

open Sys2Proof Sys2Proof.Machine Sys2Proof.Claims

/-! ### The SFU's pass order (R258) -/

theorem openWindows_clk (s : State) (ts : List TRef) (la op d n : Nat) (preds : List (TRef × Bool)) : (s.openWindows ts la op d n preds).clk = s.clk := by
  unfold State.openWindows
  split <;> rfl

/-- An instruction over the group whose results come later sets one timer: its result's, after the latency that `f` gives. -/
theorem groupLater_timers {s : State} {op : Nat} {x : Fields} {tm : Team} {sp : OpSpec} {act : List Thread} {ws : List W32}
    {f : Team → List Thread → List Lane → Nat × List (TRef × LaneOut)} {stages : Team → List Nat}
    (hissues : Issues s op x tm sp act ws) (hpart : partOf x act ≠ []) :
    (s.groupLater op x f stages).clk.timers =
      s.clk.timers ++ [(s.clk.cycle + (f tm act ((partOf x act).map (laneOf s sp x ws))).1, .longLatencyResult s.clk.nextId)] := by
  obtain ⟨hactive, ⟨h, rest, rfl, hteam, hcheck⟩, hrow, hconst⟩ := hissues
  have hne : ((h :: rest).filter fun t => t.guardTrue x.guard).isEmpty = false := by simpa [partOf] using hpart
  rw [State.groupLater, State.issueConst_next hactive hteam hrow hcheck hconst]
  simp only [State.advance, State.updThreads_clk, openWindows_clk, hne, Bool.false_eq_true, if_false]
  rfl

/-- A result that is sent has one timer, after the latency that `Sent` names. -/
theorem sent_timers {s t : State} {x : Fields} {act : List Thread} {lat : Nat} {outs : List (TRef × LaneOut)} (hsent : Sent s t x act lat outs) :
    t.clk.timers = s.clk.timers ++ [(s.clk.cycle + lat, .longLatencyResult s.clk.nextId)] := by
  obtain ⟨⟨r, -, hid, -, -, -, -, -, -, htimers⟩, -, -⟩ := hsent
  rw [htimers, hid]

/-- A latency that `Sent` names of an SFU result is the time to its place in pass order, which earlier passes of other groups can make longer than the
group's own latency. -/
theorem sfuDue_eq_of_sent {s t : State} {x : Fields} {tm : Team} {sp : OpSpec} {h : Thread} {rest : List Thread} {ws : List W32} {lat : Nat}
    {outs : List (TRef × LaneOut)} (hissues : Issues s 0x3F x tm sp (h :: rest) ws) (hpart : partOf x (h :: rest) ≠ [])
    (hexec : exec (.sfu x) s = .next t) (hsent : Sent s t x (h :: rest) lat outs) : sfuDue s h.ref.core tm (natField x.xop.toNat 0 3) = lat := by
  obtain rfl := Host.Outcome.next.inj hexec
  have hdue := (groupLater_timers hissues hpart).symm.trans (sent_timers hsent)
  rw [List.append_cancel_left_eq, List.cons.injEq, Prod.mk.injEq, Nat.add_left_cancel_iff] at hdue
  obtain ⟨⟨hlat, -⟩, -⟩ := hdue
  exact hlat

/-- SFU.rcp.f32 v4, v5. -/
def sfuRcp : Fields :=
  { form := .ext, d := 4, a := 5, b := 0, c := 0, xop := 0, guard := .always, la := 0, set := 0, ty := .f32, wait := 0, rnd := .nearestEven
    scope := .thread, kw := false, low := 0, lit := 0 }

/-- A group of one thread issues in the cycle after another group's SFU.sin: in pass order its own SFU results are complete 16 cycles later. -/
def behindSin : State :=
  let s := beginIssue (State.reset.withFetchWord 32 0) firstGroup [] [] 1
  { s with clk := { s.clk with units := [((firstCore, 3), s.clk.cycle + 16)] } }

/-- Its thread. -/
def rcpThread : Thread := State.newThread (firstTeam 1) firstPart 0 0

theorem issues_behindSin : ∃ sp, Issues behindSin 0x3F sfuRcp (firstTeam 1) sp [rcpThread] [] :=
  ⟨_, rfl, ⟨rcpThread, [], rfl, rfl, rfl⟩, rfl, rfl⟩

theorem sfuDue_behindSin : sfuDue behindSin firstCore (firstTeam 1) 0 = 16 := by decide

/-- Refutes O5: it has every SFU result due after the group's own latency, 12 cycles for SFU.rcp at width 16. R258 completes results in pass order, and
the model with it: one cycle behind an SFU.sin of another group the result is due after 16 (`sfuDue_behindSin`). -/
theorem not_longLatencyUnits : ¬ Obligations.LongLatencyUnits := by
  unfold Obligations.LongLatencyUnits
  intro hall
  obtain ⟨sp, hissues⟩ := issues_behindSin
  have hpart : partOf sfuRcp [rcpThread] ≠ [] := List.cons_ne_nil _ _
  obtain ⟨t, hexec, -, hsent⟩ := hall (.sfu sfuRcp) 0x3F sfuRcp true behindSin (firstTeam 1) sp [rcpThread] [] _ rfl rfl hissues hpart
  have hdue : 16 = sfuLatency (firstTeam 1) 0 := sfuDue_behindSin.symm.trans (sfuDue_eq_of_sent hissues hpart hexec hsent)
  exact absurd hdue (by decide)

end Sys2Proof.Proofs.Execution
end

section
/-! PROOFS. Cross-lane instructions that answer at issue (O4). -/

namespace Sys2Proof.Proofs.Execution

open Sys2Proof Sys2Proof.Machine Sys2Proof.Claims

/-! ### Instructions over the group (R259, R268) -/

/-- With its team, its row, its constant operand and no check that fails, an instruction over the group writes its results at issue. -/
theorem groupwise_next {s : State} {op : Nat} {x : Fields} {lat : Nat} {f : Team → List Thread → List Lane → List (TRef × LaneOut)} {tm : Team}
    {sp : OpSpec} {act : List Thread} {ws : List W32} (hissues : Issues s op x tm sp act ws) :
    s.groupwise op x lat f =
      issuedState s x lat act fun h => ((f tm act ((partOf x act).map (laneOf s sp x ws))).find? fun p => p.1 == h.ref).map (·.2) := by
  obtain ⟨hactive, ⟨h, rest, rfl, hteam, hcheck⟩, hrow, hconst⟩ := hissues
  exact State.issueConst_next hactive hteam hrow hcheck hconst

/-- The instruction is one over the group, with the results `f` of its participating lanes after the latency of R268. -/
def ExecGroupwise (i : Instr) (op : Nat) (x : Fields) (f : Team → List Lane → List (TRef × LaneOut)) : Prop :=
  ∀ s : State, exec i s = .next (s.groupwise op x (crossLatency op x) fun tm _ => f tm)

/-- Where its own effect happens, such an instruction writes its results at issue and changes nothing else. -/
theorem ExecGroupwise.writes {i : Instr} {op : Nat} {x : Fields} {f : Team → List Lane → List (TRef × LaneOut)} {s : State} {tm : Team} {sp : OpSpec}
    {act : List Thread} {ws : List W32} (hexec : ExecGroupwise i op x f) (hissues : Issues s op x tm sp act ws) :
    let out := fun (h : Thread) => ((f tm ((partOf x act).map (laneOf s sp x ws))).find? fun p => p.1 == h.ref).map (·.2)
    ∃ t, exec i s = .next t ∧ OnlyThreads s t ∧ Wrote s t x act out ∧ Timed s t x act (crossLatency op x) out := by
  refine ⟨_, hexec s, ?_⟩
  rw [groupwise_next hissues]
  exact ⟨onlyThreads_issuedState .., wrote_issuedState .., timed_issuedState ..⟩

/-- It is enough to know the latency that the meaning names as the opcode's row of R268. -/
theorem ExecGroupwise.of_latency {i : Instr} {op : Nat} {x : Fields} {f : Team → List Lane → List (TRef × LaneOut)} {lat : Nat}
    (hlat : crossLatency op x = lat) (hexec : ∀ s : State, exec i s = .next (s.groupwise op x lat fun tm _ => f tm)) : ExecGroupwise i op x f := by
  intro s
  rw [hlat]
  exact hexec s

/-! ### The rows of R268 -/

theorem crossLatency_exchange {op : Nat} (x : Fields) (hop : op = 0x50 ∨ op = 0x51) : crossLatency op x = latencyOf x.ty 6 8 := by
  rcases hop with rfl | rfl <;> simp [crossLatency, latencyOf]

theorem crossLatency_vote (x : Fields) : crossLatency 0x52 x = 4 := by simp [crossLatency]

theorem crossLatency_match (x : Fields) : crossLatency 0x55 x = latencyOf x.ty 8 10 := by simp [crossLatency, latencyOf]

theorem crossLatency_sixBit {op : Nat} (x : Fields) (hop : op = 0x3B ∨ op = 0x3C) : crossLatency op x = 6 := by
  rcases hop with rfl | rfl <;> simp [crossLatency]

/-! ### SHFL, LSHF, VOTE, MATCH, PACK6 and UNPK6 (R253, R260 to R262, R266) -/

/-- What the instruction's rule has the participating lanes of a team's group write. -/
def groupResults (i : Instr) (x : Fields) (tm : Team) : List Lane → List (TRef × LaneOut) := (groupRule x tm i).getD fun _ => []

theorem execGroupwise_of_groupRule {i : Instr} {op : Nat} {x : Fields} {own : Bool} {tm : Team} {f : List Lane → List (TRef × LaneOut)}
    (hrow : i.row? = some (op, x, own)) (hrule : groupRule x tm i = some f) : ExecGroupwise i op x (groupResults i x) := by
  cases i
  case shfl | lshf =>
    cases hrow
    exact .of_latency (crossLatency_exchange _ (by decide)) fun _ => rfl
  case vote =>
    cases hrow
    exact .of_latency (crossLatency_vote _) fun _ => rfl
  case matchLanes =>
    cases hrow
    exact .of_latency (crossLatency_match _) fun _ => rfl
  case pack6 | unpk6 =>
    cases hrow
    exact .of_latency (crossLatency_sixBit _ (by decide)) fun _ => rfl
  all_goals exact nomatch hrule

/-- Settles O4: the meaning of each cross-lane instruction is one over the group (`execGroupwise_of_groupRule`), and such a one writes its results at
issue (`ExecGroupwise.writes`). -/
theorem crossLane : Obligations.CrossLane := by
  unfold Obligations.CrossLane
  intro i op x own s tm sp act ws f hrow hrule hissues
  have hresults : groupResults i x tm = f := by rw [groupResults, hrule, Option.getD_some]
  rw [← hresults]
  exact (execGroupwise_of_groupRule hrow hrule).writes hissues

end Sys2Proof.Proofs.Execution
end

section
/-! PROOFS. Loads and stores, and what the memory instructions share: checks that pass, and their beginning (O6, O7). -/

namespace Sys2Proof.Proofs.Execution

open Sys2Proof Sys2Proof.Machine Sys2Proof.Claims

/-! ### Checks that pass (R124, R331) -/

section
variable {α β γ : Type}

@[simp] theorem firstFail_ok (l : List α) : firstFail (l.map (Except.ok (ε := Nat × Trap))) = none := by
  induction l with
  | nil => rfl
  | cons a l ih => exact ih

@[simp] theorem passed_ok (l : List α) : passed (l.map (Except.ok (ε := Nat × Trap))) = l := by
  induction l with
  | nil => rfl
  | cons a l ih => exact congrArg (a :: ·) ih

@[simp] theorem constCheck_words (ws : List W32) : (constCheck (.words ws) : List (Check α)) = [] := rfl

/-- Where the check of every element passes, so does the check that gives each element back with what its own
check has found. -/
theorem map_check_zip {check : α → Check β} {as : List α} {found : List β} (f : α → β → γ) (h : as.map check = found.map .ok) :
    (as.map fun a => (check a).map (f a)) = ((as.zip found).map fun q => f q.1 q.2).map .ok := by
  induction as generalizing found with
  | nil => rfl
  | cons a as ih =>
    cases found with
    | nil => exact nomatch h
    | cons b found =>
      rw [List.map_cons, List.map_cons] at h
      obtain ⟨ha, has⟩ := List.cons.inj h
      rw [List.map_cons, List.zip_cons_cons, List.map_cons, List.map_cons, ih has, ha]
      rfl

theorem filterMap_fun_none (l : List α) : (l.filterMap fun _ => (none : Option β)) = [] :=
  List.filterMap_eq_nil_iff.mpr fun _ _ => rfl

theorem map_zip_fst (f : α → γ) {as : List α} {bs : List β} (h : as.length ≤ bs.length) :
    ((as.zip bs).map fun q => f q.1) = as.map f := calc
  _ = ((as.zip bs).map Prod.fst).map f := List.map_map.symm
  _ = as.map f := by rw [List.map_fst_zip h]

theorem length_of_checks {check : α → Check β} {as : List α} {found : List β} (h : as.map check = found.map .ok) :
    found.length = as.length := by
  have hlen := congrArg List.length h
  rw [List.length_map, List.length_map] at hlen
  exact hlen.symm

end

/-! ### An instruction whose checks of R203 pass -/

section
variable {s : State} {op : Nat} {x : Fields} {tm : Team} {sp : OpSpec} {h : Thread} {rest : List Thread} {ws : List W32}

/-- With no check of R203 that fails, an instruction is its continuation. -/
theorem issueThen_of_goes (hgoes : Goes s op x tm sp h rest) (k : Team → OpSpec → List Thread → State) :
    s.issueThen op x k = k tm sp (h :: rest) := by
  obtain ⟨hactive, hteam, hcheck, hrow⟩ := hgoes
  exact State.issueThen_next hactive hteam hrow hcheck

/-- The participating lanes, as the meanings find them. -/
theorem filter_guardTrue (x : Fields) (act : List Thread) : (act.filter fun t => t.guardTrue x.guard) = partOf x act := rfl

theorem goes_of_issues (hissues : Issues s op x tm sp (h :: rest) ws) : Goes s op x tm sp h rest := by
  obtain ⟨hactive, ⟨h', rest', hact, hteam, hcheck⟩, hrow, -⟩ := hissues
  cases hact
  exact ⟨hactive, hteam, hcheck, hrow⟩

theorem issueConst_of_issues {act : List Thread} (hissues : Issues s op x tm sp act ws)
    (k : Team → OpSpec → List Thread → List W32 → State) :
    s.issueConst op x k = k tm sp act ws := by
  obtain ⟨hactive, ⟨h, rest, rfl, hteam, hcheck⟩, hrow, hconst⟩ := hissues
  exact State.issueConst_next hactive hteam hrow hcheck hconst

end

/-! ### The beginning of a memory instruction (R38, R192, R193) -/

section
variable (s : State) (act part : List Thread) (x : Fields) (dst n : Nat)

theorem openWindows_frame (ts : List TRef) (la op d n : Nat) (preds : List (TRef × Bool)) :
    s.openWindows ts la op d n preds = { s with threads := (s.openWindows ts la op d n preds).threads } := by
  unfold State.openWindows; split <;> rfl

theorem beginMem_eq : beginMem s act part x dst n = (s.clk.nextId, begun s act part x dst n) := rfl

/-- It takes a number, and changes threads. -/
theorem begun_frame :
    begun s act part x dst n = { s with threads := (begun s act part x dst n).threads, clk := { s.clk with nextId := s.clk.nextId + 1 } } := by
  simp only [begun, beginMem, State.advance]
  rw [openWindows_frame]
  rfl

@[simp] theorem begun_mem : (begun s act part x dst n).mem = s.mem := (congrArg State.mem (begun_frame ..) :)
@[simp] theorem begun_plots : (begun s act part x dst n).plots = s.plots := (congrArg State.plots (begun_frame ..) :)
@[simp] theorem begun_cores : (begun s act part x dst n).cores = s.cores := (congrArg State.cores (begun_frame ..) :)

@[simp] theorem plotOf_begun (team : Nat) (c : CoreId) : (begun s act part x dst n).plotOf team c = s.plotOf team c := by
  simp only [State.plotOf, begun_plots]

@[simp] theorem plotBytes_begun (team : Nat) (c : CoreId) (o k : Nat) :
    plotBytes (begun s act part x dst n) team c o k = plotBytes s team c o k := by
  simp only [plotBytes, plotOf_begun]

@[simp] theorem poisonedPlot_begun (team : Nat) (c : CoreId) (o k : Nat) :
    poisonedPlot (begun s act part x dst n) team c o k = poisonedPlot s team c o k := by
  simp only [poisonedPlot, plotOf_begun, State.plotPoisoned, begun_mem]

end

/-! ### LD, LDV, ST and STV (R270 to R275) -/

section
variable {β : Type} (found : List Located)

theorem filterMap_globals (g : LaneAccess → W64 × W64 × W64 → β) :
    (found.filterMap fun f => match f with | .global a r => some (g a r) | _ => none) = (globals found).map fun a => g a.1 a.2 := by
  rw [globals, List.map_filterMap]
  congr 1
  funext f
  cases f <;> rfl

theorem filterMap_plots (g : TRef → Nat → List Byte → β) :
    (found.filterMap fun f => match f with | .plot t o bs => some (g t o bs) | _ => none) =
      (plots found).map fun a => g a.1 a.2.1 a.2.2 := by
  rw [plots, List.map_filterMap]
  congr 1
  funext f
  cases f <;> rfl

theorem foldl_plots (g : State → Nat → List Byte → State) (s : State) :
    (found.foldl (fun s f => match f with | .plot _ o bs => g s o bs | _ => s) s) =
      (plots found).foldl (fun s a => g s a.2.1 a.2.2) s := by
  induction found generalizing s with
  | nil => rfl
  | cons f found ih => cases f <;> exact ih _

/-- Whether a lane reads bytes of the plot in a poisoned line (R349). -/
theorem any_plots (q : Nat → Bool) : (found.any fun f => match f with | .plot _ o _ => q o | _ => false) =
    (plots found).any fun f => q f.2.1 := by
  induction found with
  | nil => rfl
  | cons f found ih =>
    cases f with
    | plot t o bs => exact congrArg (q o || ·) ih
    | global a r => exact ih
    | priv as => exact ih

end

section
variable {s : State} {opc size n : Nat} {x : Fields} {tm : Team} {sp : OpSpec} {h p : Thread}
    {rest ps : List Thread} {ws : List W32} {found : List Located}

/-- A load whose lanes' checks pass goes on by its space. -/
theorem loadOp_located (hgoes : Goes s opc x tm sp h rest) (hpart : partOf x (h :: rest) = p :: ps)
    (hfound : ((p :: ps).map fun t => locate s tm x false size x.d.toNat (laneOf s sp x [] t) []) = found.map .ok) :
    let b := begun s (h :: rest) (p :: ps) x x.d.toNat n
    (OpTable.xf x 0 3 = 0 → loadOp s opc x size n =
      loadGlobal b tm p x s.clk.nextId ((globals found).map fun a => (a.1, leaseClass (OpTable.xf x 3 2) a.2 a.1.ia))) ∧
    (OpTable.xf x 0 3 = 1 → (∀ f ∈ plots found, poisonedPlot s tm.id p.ref.core f.2.1 size = false) →
      loadOp s opc x size n = b.addAccess s.clk.nextId 12 x.set.toNat p.handler ((p :: ps).map (·.ref))
        ((plots found).map fun f => loadLane f.1 x.ty x.d.toNat (plotBytes s tm.id p.ref.core f.2.1 size))) ∧
    (2 ≤ OpTable.xf x 0 3 → loadOp s opc x size n = accessPrivate b tm p x s.clk.nextId false (privates found)) := by
  intro b
  rw [loadOp, issueThen_of_goes hgoes]
  simp only [filter_guardTrue, hpart, hfound, firstFail_ok, passed_ok, beginMem_eq, plotBytes_begun, poisonedPlot_begun]
  refine ⟨fun hspace => ?_, fun hspace hclean => ?_, fun hspace => ?_⟩
  · rw [hspace]
    exact congrArg (loadGlobal b tm p x s.clk.nextId) (filterMap_globals found fun a r => (a, leaseClass (OpTable.xf x 3 2) r a.ia))
  · have hpoison : (plots found).any (fun f => poisonedPlot s tm.id p.ref.core f.2.1 size) = false := by
      simpa only [List.any_eq_false, Bool.not_eq_true] using hclean
    rw [hspace]
    refine (if_neg (Bool.eq_false_iff.mp ((any_plots found fun o => poisonedPlot s tm.id p.ref.core o size).trans hpoison))).trans ?_
    exact congrArg (b.addAccess s.clk.nextId 12 x.set.toNat p.handler _)
      (filterMap_plots found fun t o _ => loadLane t x.ty x.d.toNat (plotBytes s tm.id p.ref.core o size))
  · obtain ⟨k, hk⟩ := Nat.exists_eq_add_of_le' hspace
    rw [hk]
    rfl

/-- A store whose lanes' checks pass, and whose constant operand is there, goes on by its space. -/
theorem storeOp_located (hgoes : Goes s opc x tm sp h rest) (hpart : partOf x (h :: rest) = p :: ps)
    (hconst : constOperand s tm { sp with b := .regs n } x = .words ws)
    (hfound : ((p :: ps).map fun t => locate s tm x true size 0 (laneOf s sp x [] t)
      ((if x.kw then ws.flatMap fun w => leBytes 4 w.toNat else regBytes s t x.b.toNat n).take size)) = found.map .ok) :
    let b := begun s (h :: rest) (p :: ps) x 0 0
    (OpTable.xf x 0 3 = 0 → storeOp s opc x size n = storeGlobal b tm p x s.clk.nextId ((globals found).map (·.1))) ∧
    (OpTable.xf x 0 3 = 1 → storeOp s opc x size n =
      (coverPlot ((plots found).foldl (fun s f => writePlot s tm.id p.ref.core f.2.1 f.2.2) b) tm.id p.ref.core
        ((plots found).map fun f => (f.2.1, f.2.2.length))).addAccess s.clk.nextId 12 x.set.toNat p.handler ((p :: ps).map (·.ref)) []) ∧
    (2 ≤ OpTable.xf x 0 3 → storeOp s opc x size n = accessPrivate b tm p x s.clk.nextId true (privates found)) := by
  intro b
  rw [storeOp, issueThen_of_goes hgoes]
  simp only [filter_guardTrue, hpart, hconst, ConstRead.got, hfound, constCheck_words, List.append_nil,
    firstFail_ok, passed_ok, beginMem_eq]
  refine ⟨fun hspace => ?_, fun hspace => ?_, fun hspace => ?_⟩
  · rw [hspace]
    exact congrArg (storeGlobal b tm p x s.clk.nextId) (filterMap_globals found fun a _ => a)
  · have hwrites := foldl_plots found (fun s o bs => writePlot s tm.id p.ref.core o bs) b
    rw [hspace, ← hwrites]
    exact congrArg (fun spans => (coverPlot _ tm.id p.ref.core spans).addAccess s.clk.nextId 12 x.set.toNat p.handler _ [])
      (filterMap_plots found fun _ o bs => (o, bs.length))
  · obtain ⟨k, hk⟩ := Nat.exists_eq_add_of_le' hspace
    rw [hk]
    rfl

end

/-- Settles O6: LD and LDV are loads of their shapes, and each space is a clause of `loadOp_located`. -/
theorem loadsBegin : Obligations.LoadsBegin := by
  unfold Obligations.LoadsBegin
  intro i opc size n x s tm sp h rest p ps found hshape hload hgoes hpart hfound
  have hexec : exec i s = .next (loadOp s opc x size n) := by
    cases i
    case ld | ldv => cases hshape; rfl
    all_goals exact nomatch hload
  obtain ⟨hglobal, hplot, hprivate⟩ := loadOp_located (n := n) hgoes hpart hfound
  rw [hexec]
  exact ⟨fun hspace => congrArg _ (hglobal hspace), fun hspace hclean => congrArg _ (hplot hspace hclean),
    fun hspace => congrArg _ (hprivate hspace)⟩

/-- Settles O7: as O6, by `storeOp_located`. -/
theorem storesBegin : Obligations.StoresBegin := by
  unfold Obligations.StoresBegin
  intro i opc size n x s tm sp h rest p ps ws found hshape hload hgoes hpart hconst hfound
  have hexec : exec i s = .next (storeOp s opc x size n) := by
    cases i
    case st | stv => cases hshape; rfl
    case ld | ldv => exact nomatch hload
    all_goals exact nomatch hshape
  obtain ⟨hglobal, hplot, hprivate⟩ := storeOp_located hgoes hpart hconst hfound
  rw [hexec]
  exact ⟨fun hspace => congrArg _ (hglobal hspace), fun hspace => congrArg _ (hplot hspace),
    fun hspace => congrArg _ (hprivate hspace)⟩

end Sys2Proof.Proofs.Execution
end

section
/-! PROOFS. FENCE, WAIT, PLOT and BANKCFG (O8, O9). -/

namespace Sys2Proof.Proofs.Execution

open Sys2Proof Sys2Proof.Machine Sys2Proof.Claims

section
variable {s : State} {x : Fields} {tm : Team} {sp : OpSpec} {h : Thread} {rest : List Thread}

/-! ### FENCE and WAIT (R165, R281, R282) -/

theorem execFence_next (hgoes : Goes s 0x49 x tm sp h rest) :
    execFence x s = .next ((s.updThreads ((partOf x (h :: rest)).map (·.ref))
      fun u => { u with fence := some x.scope }).advance (h :: rest) x.form.length) := by
  rw [execFence, issueThen_of_goes hgoes]
  rfl

/-- A thread behind two changes of listed threads, of which the first keeps what threads are known by. -/
theorem updThreads_updThreads_thread (s : State) (ts us : List TRef) {f : Thread → Thread} (g : Thread → Thread)
    (hf : ∀ u, (f u).ref = u.ref) (k : Nat) :
    ((s.updThreads ts f).updThreads us g).threads[k]? = (s.threads[k]?).map fun u =>
      let v := if ts.contains u.ref then f u else u
      if us.contains u.ref then g v else v := by
  simp only [State.updThreads_threads, getElem?_mapIf, Option.map_map]
  congr 1
  funext u
  simp only [Function.comp_apply, apply_ite Thread.ref, hf, ite_self]

/-- WAIT's condition holds the group or lets it go on. -/
theorem execWait_next (hgoes : Goes s 0x4A x tm sp h rest) :
    execWait x s = .next (if (h :: rest).all fun t => slotsWithin t (natField x.low.toNat 0 6) (natField x.low.toNat 6 6)
      then s.advance (h :: rest) x.form.length else s) := by
  rw [execWait, issueThen_of_goes hgoes]

end

/-- Settles O8: FENCE sets its scope in the participating threads and goes on (`execFence_next`), WAIT acts by
its condition (`execWait_next`). -/
theorem fenceAndWait : Obligations.FenceAndWait := by
  unfold Obligations.FenceAndWait
  refine ⟨?fence, ?wait⟩
  case fence =>
    intro x s tm sp h rest hgoes
    refine ⟨_, execFence_next hgoes, rfl, rfl, rfl, fun k u hk => ?_⟩
    rw [State.advance, updThreads_updThreads_thread s _ _ (f := fun u => { u with fence := some x.scope }) _ fun _ => rfl, hk, Option.map_some]
    dsimp only
    split <;> split <;> rfl
  case wait =>
    intro x s tm sp h rest hgoes met
    refine ⟨fun hmet => ?_, fun hmet => ?_⟩
    · exact (execWait_next hgoes).trans (congrArg _ (if_pos hmet))
    · exact (execWait_next hgoes).trans (congrArg _ (if_neg (Bool.eq_false_iff.mp hmet)))

/-! ### Instructions that act once for their group (R285 to R287) -/

section
variable {s s' : State} {op lat st : Nat} {x : Fields} {tm : Team} {sp : OpSpec} {act ps : List Thread} {ws : List W32} {p : Thread}
  {f : Team → Lane → State → Except Trap (Nat × State)}

/-- Where it acts with a status, the status is on its way to every participating lane. -/
theorem onceStatus_acts (hissues : Issues s op x tm sp act ws) (hpart : partOf x act = p :: ps)
    (hacts : f tm (laneOf s sp x ws p) s = .ok (st, s')) :
    s.onceStatus op x lat f = (begun s' act (p :: ps) x x.d.toNat 1).addLater s'.clk.nextId lat x.set.toNat p.handler ((p :: ps).map (·.ref))
      ((p :: ps).map fun t => ⟨t.ref, x.d.toNat, [BitVec.ofNat 32 st], none, 0⟩) none [] := by
  rw [State.onceStatus, issueConst_of_issues hissues]
  simp only [filter_guardTrue, hpart, hacts, beginMem_eq]

end

/-- BANKCFG acts by its rule (R138, R287). -/
theorem execBankcfg_eq (x : Fields) (s : State) : execBankcfg x s = .next (s.onceStatus 0x4E x 4 bankRule) := by
  refine congrArg (fun f => Host.Outcome.next (s.onceStatus 0x4E x 4 f)) ?_
  funext tm l s
  simp only [bankRule, bankZeroCycles, bankClearCycles, Bool.and_eq_true, beq_iff_eq]

/-- Settles O9: each is an instruction that acts once, by its rule, with its status delivered
(`onceStatus_acts`). -/
theorem plotAndBank : Obligations.PlotAndBank := by
  unfold Obligations.PlotAndBank
  intro i x s tm sp act ws p ps op lat st f s' hshape hissues hpart hacts
  have hexec : exec i s = .next (s.onceStatus op x lat f) := by
    cases i
    case plotOpen | plotClose | plotGive | plotTake => cases hshape; rfl
    case bankcfg => cases hshape; exact execBankcfg_eq x s
    all_goals exact nomatch hshape
  rw [hexec, onceStatus_acts hissues hpart hacts]

end Sys2Proof.Proofs.Execution
end

section
/-! PROOFS. Packets, atomics and constant loads (O10, O11, O12). -/

namespace Sys2Proof.Proofs.Execution

open Sys2Proof Sys2Proof.Machine Sys2Proof.Claims

/-! ### Packets (R142, R276 to R278) -/

/-- A packet takes registers for an answer unless it stores. -/
def takesAnswer (kind : ReqKind) : Bool := match kind with | .store => false | _ => true

section
variable {s : State} {opc dst : Nat} {x : Fields} {kind : ReqKind} {takesB : Bool} {tm : Team} {sp : OpSpec}
    {h p : Thread} {rest ps : List Thread}
  {ws : List W32} {found : List (CoreId × Nat × Nat)}

/-- A packet instruction whose lanes' window addresses pass, and whose constant operand is there, sends its
packets. -/
theorem packetOp_sends (hgoes : Goes s opc x tm sp h rest) (hpart : partOf x (h :: rest) = p :: ps)
    (hconst : (if takesB then constOperand s tm sp x else .words []) = .words ws)
    (hfound : (lanesOf s sp x ws (p :: ps)).map (fun l => windowCheck x l.t x.ty.bytes l.a) = found.map .ok) :
    packetOp s opc x kind dst takesB = (begun s (h :: rest) (p :: ps) x dst (if takesAnswer kind then regsOf x.ty else 0)).sendAll
      (((lanesOf s sp x ws (p :: ps)).zip found).map
        (packetOf tm p x s.clk.nextId kind dst fun l => if takesB then leBytes x.ty.bytes l.b.toNat else [])) := by
  have hchecks := map_check_zip (fun l w => (l, w)) hfound
  rw [lanesOf] at hchecks ⊢
  unfold packetOp
  refine (issueThen_of_goes hgoes _).trans ?_
  simp only [filter_guardTrue, hpart, hconst, ConstRead.got, hchecks, constCheck_words, List.append_nil,
    firstFail_ok, passed_ok, beginMem_eq, List.map_id', Prod.eta]
  rfl

/-- The fence wait of an instruction that releases is over, where it has one (R279). -/
theorem fenceWait_over {ts : List Thread} (hfence : x.scope = .thread ∨ fencesDone s tm ts x.scope = true) :
    (x.scope != .thread && !(fencesDone s tm ts x.scope)) = false := by
  rcases hfence with hscope | hdone
  · simp [hscope]
  · simp [hdone]

/-- ATOMP, its fence wait over, is a packet instruction. -/
theorem execAtomp_sends (hgoes : Goes s 0x47 x tm sp h rest)
    (hfence : x.scope = .thread ∨ fencesDone s tm (partOf x (h :: rest)) x.scope = true) :
    execAtomp x s = .next (packetOp s 0x47 x (.atomic (OpTable.xf x 0 4) x.rnd) x.d.toNat true) := by
  rw [execAtomp, issueThen_of_goes hgoes]
  exact congrArg _ (if_neg (Bool.eq_false_iff.mp (fenceWait_over hfence)))

end

/-- Settles O10: each is a packet instruction of its shape, which sends its packets (`packetOp_sends`). -/
theorem packetsBegin : Obligations.PacketsBegin := by
  unfold Obligations.PacketsBegin
  intro i opc dst n x kind takesB s tm sp h rest p ps ws found hshape hgoes hpart hfence hconst hfound
  have hexec : exec i s = .next (packetOp s opc x kind dst takesB) ∧ n = if takesAnswer kind then regsOf x.ty else 0 := by
    cases i
    case ldp | stp => cases hshape; exact ⟨rfl, rfl⟩
    case atomp =>
      cases hshape
      exact ⟨execAtomp_sends hgoes (by rw [hpart]; exact hfence rfl), rfl⟩
    all_goals exact nomatch hshape
  obtain ⟨hexec, rfl⟩ := hexec
  rw [hexec, packetOp_sends hgoes hpart hconst hfound]

/-! ### Atomics (R278, R279) -/

section
variable {s : State} {x : Fields} {tm : Team} {sp : OpSpec} {h p : Thread} {rest ps : List Thread} {ws : List W32}

/-- An ATOM on the issuing core's plot acts in lane order. -/
theorem execAtom_plot {found : List Nat} (hissues : Issues s 0x46 x tm sp (h :: rest) ws) (hpart : partOf x (h :: rest) = p :: ps)
    (hfence : x.scope = .thread ∨ fencesDone s tm (p :: ps) x.scope = true) (hspace : OpTable.xf x 4 2 = 1)
    (hfound : (lanesOf s sp x ws (p :: ps)).map (fun l => plotCheck s l.t tm true x.ty.bytes (natField l.a.toNat 0 32 + disp32 x)) = found.map .ok)
    (hclean : ∀ o ∈ found, poisonedPlot s tm.id p.ref.core o x.ty.bytes = false) :
    let r := plotAtomics (begun s (h :: rest) (p :: ps) x x.d.toNat (regsOf x.ty)) tm p.ref.core x ((lanesOf s sp x ws (p :: ps)).zip found)
    execAtom x s = .next (r.1.addAccess s.clk.nextId 12 x.set.toNat p.handler ((p :: ps).map (·.ref))
      (r.2.map (·.1)) (OpTable.xf x 0 4 == 10)
      (r.2.map fun q => (q.1.t, q.2))) := by
  have hchecks := map_check_zip (fun l o => (l, o, 0)) hfound
  have hpoison : (((lanesOf s sp x ws (p :: ps)).zip found).map fun q => (q.1, q.2, 0)).any
      (fun q => poisonedPlot s tm.id p.ref.core q.2.1 x.ty.bytes) = false := by
    simp only [List.any_map, List.any_eq_false, Bool.not_eq_true]
    exact fun q hq => hclean q.2 (List.of_mem_zip hq).2
  rw [lanesOf] at hchecks hpoison ⊢
  unfold execAtom
  refine congrArg _ ((issueThen_of_goes (goes_of_issues hissues) _).trans ?_)
  simp only [filter_guardTrue, hpart, hissues.const, ConstRead.got, hspace, beq_self_eq_true, if_true, hchecks,
    constCheck_words, List.append_nil, firstFail_ok, passed_ok, beginMem_eq,
    fenceWait_over hfence, Bool.false_eq_true, if_false, poisonedPlot_begun, hpoison, Bool.true_and]
  simp only [List.map_map, Function.comp_def, Prod.eta, List.map_id']

/-- An ATOM on module memory removes the core's copies of its lines and sends its requests. -/
theorem execAtom_global {found : List (Nat × (W64 × W64 × W64))} (hissues : Issues s 0x46 x tm sp (h :: rest) ws)
    (hpart : partOf x (h :: rest) = p :: ps)
    (hfence : x.scope = .thread ∨ fencesDone s tm (p :: ps) x.scope = true) (hspace : OpTable.xf x 4 2 ≠ 1)
    (hfound : (lanesOf s sp x ws (p :: ps)).map (fun l =>
      globalCheck (ctxOf s tm) .atomic x.ty.bytes x.ty.bytes (globalVa x l.a) l.t.lane) = found.map .ok) :
    let as := atomAccesses x ((lanesOf s sp x ws (p :: ps)).zip (found.map (·.1)))
    let s' := (linesOf as).foldl (fun s ln => s.expelL1 p.ref.core tm.ctx ln) (begun s (h :: rest) (p :: ps) x x.d.toNat (regsOf x.ty))
    execAtom x s = .next (s'.sendAll ((lineRequests (requestOf tm p x s.clk.nextId (.atomic (OpTable.xf x 0 4) x.rnd)) s' as).map fun r =>
      { r with parts := r.parts.map fun q => { q with own := [] } })) := by
  have hchecks := map_check_zip (fun l r => (l, r.1, globalVa x l.a)) hfound
  rw [lanesOf] at hchecks ⊢
  unfold execAtom
  refine congrArg _ ((issueThen_of_goes (goes_of_issues hissues) _).trans ?_)
  simp only [filter_guardTrue, hpart, hissues.const, ConstRead.got, beq_eq_false_iff_ne.mpr hspace, hchecks,
    constCheck_words, List.append_nil, firstFail_ok, passed_ok, beginMem_eq,
    fenceWait_over hfence, Bool.false_eq_true, if_false, Bool.false_and]
  simp only [atomAccesses, List.zip_map_right, List.map_map, Function.comp_def, Prod.map_fst, Prod.map_snd, id_eq]

end

/-- Settles O11: on the plot the lanes act (`execAtom_plot`), on module memory requests are sent
(`execAtom_global`). -/
theorem atomicsBegin : Obligations.AtomicsBegin := by
  unfold Obligations.AtomicsBegin
  intro x s tm sp h rest p ps ws hissues hpart hfence
  exact ⟨fun found hspace hfound hclean => execAtom_plot hissues hpart hfence hspace hfound hclean,
    fun found hspace hfound => execAtom_global hissues hpart hfence hspace hfound⟩

/-! ### LDK (R280) -/

section
variable {s : State} {x : Fields} {tm : Team} {sp : OpSpec} {ps : List Thread} {found : List (List W32)}

/-- The reads of lanes whose words are there. -/
theorem ldkReads_words (h : ps.map (fun t => ldkRead s tm x (laneOf s sp x [] t)) = found.map .words) :
    (ps.map fun t => (t, ldkRead s tm x (laneOf s sp x [] t))) = (ps.zip found).map fun q => (q.1, .words q.2) := calc
  _ = ps.zip (ps.map fun t => ldkRead s tm x (laneOf s sp x [] t)) := List.map_prod_left_eq_zip
  _ = (ps.zip found).map fun q => (q.1, .words q.2) := by rw [h, List.zip_map_right]; rfl

end

/-- Settles O12: no lane's read fails and none misses (`ldkReads_words`), so that the words of every lane are
the result. -/
theorem constantLoads : Obligations.ConstantLoads := by
  unfold Obligations.ConstantLoads
  intro x s tm sp h rest p ps found hgoes hpart hfound
  have hreads := ldkReads_words hfound
  have hnofail : (((p :: ps).zip found).flatMap fun _ => ([] : List (Check Unit))) = [] := by simp
  obtain ⟨w, found, rfl⟩ := List.exists_cons_of_ne_nil (l := found) (by rintro rfl; exact nomatch hfound)
  have hlength : (p :: ps).length ≤ (w :: found).length := by
    have hlen := congrArg List.length hfound
    rw [List.length_map, List.length_map] at hlen
    exact Nat.le_of_eq hlen
  have hlanes := map_zip_fst Thread.ref hlength
  show execLdk x s = _
  rw [execLdk, issueThen_of_goes hgoes, ← hlanes]
  simp only [filter_guardTrue, hpart, hreads, beginMem_eq, List.flatMap_map, constCheck_words, hnofail,
    List.filterMap_map, Function.comp_def, List.filterMap_eq_map',
    filterMap_fun_none, List.map_map]
  rfl

end Sys2Proof.Proofs.Execution
end

section
/-! PROOFS. PREF and CCTL (O13). -/

namespace Sys2Proof.Proofs.Execution

open Sys2Proof Sys2Proof.Machine Sys2Proof.Claims

/-! ### What an access in flight leaves as it was -/

/-- Nothing but requests and results in flight, and the clock, has changed. -/
def OnlyInFlight (s t : State) : Prop := { t with mem := { t.mem with requests := s.mem.requests, results := s.mem.results }, clk := s.clk } = s

theorem OnlyInFlight.refl (s : State) : OnlyInFlight s s := rfl

section
variable {s t u : State}

theorem OnlyInFlight.trans (h₁ : OnlyInFlight s t) (h₂ : OnlyInFlight t u) : OnlyInFlight s u := by
  unfold OnlyInFlight at *
  rw [← h₂] at h₁
  exact h₁

theorem OnlyInFlight.threads (h : OnlyInFlight s t) : t.threads = s.threads := (congrArg State.threads h :)
theorem OnlyInFlight.bytes (h : OnlyInFlight s t) : t.mem.mem = s.mem.mem := (congrArg (·.mem.mem) h :)
theorem OnlyInFlight.core (h : OnlyInFlight s t) : t.core = s.core := (congrArg State.core h :)

theorem OnlyInFlight.l1Line (h : OnlyInFlight s t) : t.l1Line = s.l1Line := (congrArg State.l1Line h :)

theorem onlyInFlight_foldl {α : Type} {f : State → α → State} (hf : ∀ s a, OnlyInFlight s (f s a)) (l : List α)
    (s : State) : OnlyInFlight s (l.foldl f s) :=
  List.foldlRecOn l f (OnlyInFlight.refl s) fun t ht a _ => ht.trans (hf t a)

end

theorem onlyInFlight_travel (s : State) (r : Request) : OnlyInFlight s (s.travel r) := by
  unfold State.travel
  split <;> rfl

theorem onlyInFlight_addLater (s : State) (op lat set : Nat) (handler : Bool) (counted : List TRef)
    (lanes : List ResultLane) (holds : Option GRef)
    (stages : List Nat) (raises : Bool) : OnlyInFlight s (s.addLater op lat set handler counted lanes holds stages raises) := rfl

/-- What the step of a fold at an element brings about, wherever an invariant of the steps holds, and every
step keeps, holds in the end. -/
theorem foldl_brings {α : Type} {f : State → α → State} {I P : State → Prop} {a : α} {l : List α} {s : State} (ha : a ∈ l) (hs : I s)
    (hinv : ∀ s b, I s → I (f s b)) (hbrings : ∀ s, I s → P (f s a)) (hkeeps : ∀ s b, P s → P (f s b)) : P (l.foldl f s) := by
  obtain ⟨as, bs, rfl⟩ := List.append_of_mem ha
  rw [List.foldl_append, List.foldl_cons]
  exact List.foldlRecOn bs f (hbrings _ (List.foldlRecOn as f hs fun s hs b _ => hinv s b hs)) fun s hs b _ => hkeeps s b hs

/-! ### Lines on their way home (R148, R281, R284) -/

/-- A line's bytes are on their way to its home. -/
def GoesHome (s : State) (l : L1Line) : Prop :=
  ∃ r ∈ s.mem.requests, r.id < s.clk.nextId ∧ r.kind = .writeBack ∧ r.ia = l.line ∧ r.frame = l.frame ∧ r.line = l.data

section
variable (s : State) (tm : Team) (h : Thread) (x : Fields) (op : Nat) (l : L1Line) (ts : List TRef)

theorem onlyInFlight_sendWriteBack : OnlyInFlight s (sendWriteBack s tm h x op l ts) :=
  OnlyInFlight.trans (t := s.fresh.2) rfl (onlyInFlight_travel ..)

/-- The request of a line that goes back. -/
def backRequest : Request :=
  { requestOf tm h x op .writeBack with
    id := s.clk.nextId, group := none, ia := l.line, frame := l.frame, perms := l.perms, line := l.data,
    poison := l.poison, parts := ts.map fun t => ⟨t, 0, 0, 0, [], [], []⟩ }

theorem sendWriteBack_requests :
    (sendWriteBack s tm h x op l ts).mem.requests = (s.mem.requests.filter fun q => q.id != s.clk.nextId) ++ [backRequest s tm h x op l ts] := rfl

theorem sendWriteBack_nextId : (sendWriteBack s tm h x op l ts).clk.nextId = s.clk.nextId + 1 := rfl

theorem goesHome_sendWriteBack : GoesHome (sendWriteBack s tm h x op l ts) l := by
  refine ⟨backRequest s tm h x op l ts, ?_, ?_, rfl, rfl, rfl, rfl⟩
  · rw [sendWriteBack_requests]
    exact List.mem_append_right _ (List.mem_singleton_self _)
  · rw [sendWriteBack_nextId]
    exact Nat.lt_succ_self _

/-- A line that is on its way stays so when another leaves, since its request's number is its own. -/
theorem GoesHome.sendWriteBack {s : State} {k : L1Line} (hk : GoesHome s k) : GoesHome (Machine.sendWriteBack s tm h x op l ts) k := by
  obtain ⟨r, hr, hid, hrequest⟩ := hk
  refine ⟨r, ?_, ?_, hrequest⟩
  · rw [sendWriteBack_requests]
    exact List.mem_append_left _ (List.mem_filter.mpr ⟨hr, bne_iff_ne.mpr (Nat.ne_of_lt hid)⟩)
  · rw [sendWriteBack_nextId]
    omega

/-- Lines that go back one after the other. -/
def linesGoBack (ls : List L1Line) : State := ls.foldl (fun s l => Machine.sendWriteBack s tm h x op l ts) s

theorem onlyInFlight_linesGoBack (ls : List L1Line) : OnlyInFlight s (linesGoBack s tm h x op ts ls) :=
  onlyInFlight_foldl (fun s l => onlyInFlight_sendWriteBack s tm h x op l ts) ls s

theorem goesHome_linesGoBack {ls : List L1Line} {l : L1Line} (hl : l ∈ ls) : GoesHome (linesGoBack s tm h x op ts ls) l :=
  foldl_brings (I := fun _ => True) (P := (GoesHome · l)) hl trivial (fun _ _ _ => trivial)
    (fun s _ => goesHome_sendWriteBack s tm h x op l ts)
    fun _ k hs => hs.sendWriteBack tm h x op k ts

end

/-! ### What the beginning of CCTL leaves (R38, R193) -/

section
variable {s t : State} {x : Fields} {act : List Thread} {dst : Nat}

@[simp] theorem begun_core (s : State) (act part : List Thread) (x : Fields) (dst n : Nat) :
    (begun s act part x dst n).core = s.core :=
  (congrArg State.core (begun_frame ..) :)

@[simp] theorem begun_l1Line (s : State) (act part : List Thread) (x : Fields) (dst n : Nat) :
    (begun s act part x dst n).l1Line = s.l1Line :=
  (congrArg State.l1Line (begun_frame ..) :)

/-- A memory instruction without a destination opens no window. -/
theorem begun_threads (s : State) (act part : List Thread) (x : Fields) (dst : Nat) : (begun s act part x dst 0).threads =
    ((s.updThreads (part.map (·.ref)) fun u => u.slotUp x.set.toNat).updThreads (act.map (·.ref))
      fun u => { u with pc := u.pc + BitVec.ofNat 64 x.form.length }).threads := by
  simp only [begun, beginMem, State.openWindows, or_true, if_true]
  rfl

theorem slotUp_ref (u : Thread) (n : Nat) : (u.slotUp n).ref = u.ref := by rw [Thread.slotUp_frame]

theorem wentOn_of_begun (ht : t.threads = (begun s act (partOf x act) x dst 0).threads) : WentOn s t x act := by
  rw [begun_threads] at ht
  have hthread (k : Nat) := congrArg (·[k]?) ht
  simp only [updThreads_updThreads_thread _ _ _ (f := fun u => u.slotUp x.set.toNat) _ fun u => slotUp_ref u _] at hthread
  refine ⟨by rw [ht]; simp, fun k u hk => ⟨_, by rw [hthread, hk]; rfl, ?_⟩⟩
  by_cases hpart : ((partOf x act).map (·.ref)).contains u.ref = true
  · simp only [hpart, if_true]
    rw [Thread.slotUp_frame]
    split <;> rfl
  · simp only [hpart, if_false, Bool.false_eq_true]
    split <;> rfl

end

/-! ### PREF and CCTL (R283, R284) -/

/-- A core whose L1 holds the `isPrivate` lines of a team's context clean. -/
def withLinesClean (tm : Team) (k : Core) : Core := { k with l1 := k.l1.map fun l => if dirtyOf tm l then { l with dirty := false } else l }

/-- A core whose L1 holds none of these lines. -/
def withoutLines (q : L1Line → Bool) (k : Core) : Core := { k with l1 := k.l1.filter fun l => !(q l) }

/-- A core without the constant lines of a context. -/
def withoutConstants (ctx : Nat) (k : Core) : Core := { k with klines := k.klines.filter fun l => l.ctx != ctx }

/-- The slot of a CCTL that sends nothing back is released later (R284). -/
def releasedIf (nothing : Bool) (s : State) (op : Nat) (x : Fields) (p : Thread) (ps : List Thread) : State :=
  if nothing then s.addLater op 24 x.set.toNat p.handler ((p :: ps).map (·.ref)) [] none [] else s

theorem releasedIf_not (b : Bool) (s : State) (op : Nat) (x : Fields) (p : Thread) (ps : List Thread) :
    releasedIf (!b) s op x p ps = if b then s else releasedIf true s op x p ps := by
  cases b <;> rfl

/-- A named line leaves the L1 (R284): a dirty `isPrivate` one for its home. -/
def lineLeaves (tm : Team) (p : Thread) (x : Fields) (op : Nat) (ts : List TRef) (s : State) (ln : Nat) : State :=
  match s.l1Line p.ref.core tm.ctx ln with
  | some l => (if l.isPrivate && l.dirty then sendWriteBack s tm p x op l ts else s).dropL1 p.ref.core tm.ctx ln
  | none => s

section
variable {s : State} {x : Fields} {tm : Team} {sp : OpSpec} {h p : Thread} {rest ps : List Thread}

theorem execPref_next (hgoes : Goes s 0x4C x tm sp h rest) (hpart : partOf x (h :: rest) = p :: ps) :
    execPref x s = .next (((prefetchLines s tm x (lanesOf s sp x [] (p :: ps))).foldl (fun s q => prefetchLine s tm p x q.1 q.2.1 q.2.2) s).advance
      (h :: rest) x.form.length) := by
  rw [execPref, issueThen_of_goes hgoes]
  simp only [filter_guardTrue, hpart, lanesOf]

theorem execCctlWbpriv_next (hgoes : Goes s 0x4D x tm sp h rest) (hpart : partOf x (h :: rest) = p :: ps)
    (hstored : (privStorePending s p.ref.core tm.ctx fun _ => true) = false) :
    let dirty := (s.core p.ref.core).l1.filter (dirtyOf tm)
    let t := (linesGoBack (begun s (h :: rest) (p :: ps) x 0 0) tm p x s.clk.nextId ((p :: ps).map (·.ref)) dirty).updCore p.ref.core (withLinesClean tm)
    execCctlWbpriv x s = .next (releasedIf dirty.isEmpty t s.clk.nextId x p ps) := by
  rw [execCctlWbpriv, issueThen_of_goes hgoes]
  simp only [filter_guardTrue, hpart, hstored, Bool.false_eq_true, if_false, beginMem_eq]
  rfl

theorem execCctlInvl1_next (hgoes : Goes s 0x4D x tm sp h rest) (hpart : partOf x (h :: rest) = p :: ps)
    (hstored : (privStorePending s p.ref.core tm.ctx fun ln => (namedLines s tm sp x (p :: ps)).contains ln) = false) :
    let t := (namedLines s tm sp x (p :: ps)).foldl (lineLeaves tm p x s.clk.nextId ((p :: ps).map (·.ref)))
      (begun s (h :: rest) (p :: ps) x 0 0)
    let backs := (namedLines s tm sp x (p :: ps)).any fun ln => ((s.l1Line p.ref.core tm.ctx ln).map fun l => l.isPrivate && l.dirty).getD false
    execCctlInvl1 x s = .next (releasedIf (!backs) t s.clk.nextId x p ps) := by
  rw [namedLines, lanesOf] at *
  rw [execCctlInvl1, issueThen_of_goes hgoes]
  simp only [filter_guardTrue, hpart, hstored, Bool.false_eq_true, if_false, beginMem_eq, begun_l1Line, releasedIf_not]
  rfl

theorem execCctlInvk_next (hgoes : Goes s 0x4D x tm sp h rest) (hpart : partOf x (h :: rest) = p :: ps) :
    execCctlInvk x s = .next (releasedIf true
      ((begun s (h :: rest) (p :: ps) x 0 0).updCore p.ref.core (withoutConstants tm.ctx)) s.clk.nextId x p ps) := by
  rw [execCctlInvk, issueThen_of_goes hgoes]
  simp only [filter_guardTrue, hpart, beginMem_eq]
  rfl

end

/-! ### What CCTL leaves of the cores -/

/-- Besides what is in flight, a core has changed as said. -/
structure OnlyCore (c : CoreId) (f : Core → Core) (s t : State) : Prop where
  threads : t.threads = s.threads
  bytes   : t.mem.mem = s.mem.mem
  others  : ∀ d ≠ c, t.core d = s.core d
  own     : t.core c = f (s.core c)

section
variable {c : CoreId} {f g : Core → Core} {s t u : State}

theorem OnlyCore.trans (h₁ : OnlyCore c f s t) (h₂ : OnlyCore c g t u) : OnlyCore c (g ∘ f) s u where
  threads := h₂.threads.trans h₁.threads
  bytes := h₂.bytes.trans h₁.bytes
  others d hd := (h₂.others d hd).trans (h₁.others d hd)
  own := h₂.own.trans (congrArg g h₁.own)

/-- What is sent before the core changes, or after. -/
theorem OnlyCore.after_inFlight (h₁ : OnlyInFlight s t) (h₂ : OnlyCore c f t u) : OnlyCore c f s u where
  threads := h₂.threads.trans h₁.threads
  bytes := h₂.bytes.trans h₁.bytes
  others d hd := (h₂.others d hd).trans (congrFun h₁.core d)
  own := h₂.own.trans (congrArg f (congrFun h₁.core c))

theorem OnlyCore.then_inFlight (h₁ : OnlyCore c f s t) (h₂ : OnlyInFlight t u) : OnlyCore c f s u where
  threads := h₂.threads.trans h₁.threads
  bytes := h₂.bytes.trans h₁.bytes
  others d hd := (congrFun h₂.core d).trans (h₁.others d hd)
  own := (congrFun h₂.core c).trans h₁.own

theorem onlyCore_updCore (s : State) (c : CoreId) (hf : ∀ k, (f k).id = k.id) : OnlyCore c f s (s.updCore c f) where
  threads := State.updCore_threads s c f
  bytes := congrArg MemSide.mem (State.updCore_mem s c f)
  others _ hd := core_updCore_ne s hf hd
  own := core_updCore_same s c hf

/-- A change of the core behind the beginning of an instruction without a destination. -/
theorem OnlyCore.cctl {x : Fields} {act part : List Thread} (h : OnlyCore c f (begun s act part x 0 0) t)
    (hpart : partOf x act = part) :
    WentOn s t x act ∧ (∀ a, t.mem.mem.read a = s.mem.mem.read a) ∧ (∀ d ≠ c, t.core d = s.core d) ∧ t.core c = f (s.core c) := by
  obtain ⟨hthreads, hbytes, hothers, hown⟩ := h
  rw [← hpart] at hthreads
  rw [begun_core] at hothers hown
  rw [begun_mem] at hbytes
  exact ⟨wentOn_of_begun hthreads, fun a => by rw [hbytes], hothers, hown⟩

end

theorem withoutLines_withoutLines (q r : L1Line → Bool) (k : Core) :
    withoutLines r (withoutLines q k) = withoutLines (fun l => q l || r l) k := by
  simp only [withoutLines, List.filter_filter, Bool.not_or, Bool.and_comm]

theorem withoutLines_none {q : L1Line → Bool} {k : Core} (h : ∀ l ∈ k.l1, q l = false) : withoutLines q k = k := by
  have hl1 : (k.l1.filter fun l => !(q l)) = k.l1 := List.filter_eq_self.mpr fun l hl => by rw [h l hl]; rfl
  rw [withoutLines, hl1]

theorem onlyCore_dropL1 (s : State) (c : CoreId) (ctx ia : Nat) :
    OnlyCore c (withoutLines fun l => l.ctx == ctx && l.line == lineOf ia) s (s.dropL1 c ctx ia) :=
  onlyCore_updCore (f := withoutLines fun l => l.ctx == ctx && l.line == lineOf ia) s c fun _ => rfl

section
variable (tm : Team) (p : Thread) (x : Fields) (op : Nat) (ts : List TRef)

theorem onlyCore_lineLeaves (s : State) (ln : Nat) :
    OnlyCore p.ref.core (withoutLines fun l => l.ctx == tm.ctx && l.line == lineOf ln) s (lineLeaves tm p x op ts s ln) := by
  unfold lineLeaves
  split
  case h_1 l hl =>
    have hsent : OnlyInFlight s (if l.isPrivate && l.dirty then sendWriteBack s tm p x op l ts else s) := by
      split
      · exact onlyInFlight_sendWriteBack ..
      · exact .refl s
    exact .after_inFlight hsent (onlyCore_dropL1 ..)
  case h_2 hnone =>
    refine ⟨rfl, rfl, fun _ _ => rfl, (withoutLines_none fun l hl => ?_).symm⟩
    exact Bool.eq_false_iff.mpr (List.find?_eq_none.mp hnone l hl)

theorem onlyCore_linesLeave (lns : List Nat) (s : State) :
    OnlyCore p.ref.core (withoutLines fun l => lns.any fun ln => l.ctx == tm.ctx && l.line == lineOf ln) s (lns.foldl (lineLeaves tm p x op ts) s) := by
  induction lns generalizing s with
  | nil => exact ⟨rfl, rfl, fun _ _ => rfl, (withoutLines_none fun _ _ => rfl).symm⟩
  | cons ln lns ih =>
    obtain ⟨hthreads, hbytes, hothers, hown⟩ := (onlyCore_lineLeaves tm p x op ts s ln).trans (ih _)
    refine ⟨hthreads, hbytes, hothers, hown.trans ?_⟩
    rw [Function.comp_apply, withoutLines_withoutLines]
    simp only [List.any_cons]

/-- A line of another number is found in the L1 as before. -/
theorem l1Line_lineLeaves_ne (s : State) {ln k : Nat} (hne : lineOf k ≠ lineOf ln) :
    (lineLeaves tm p x op ts s k).l1Line p.ref.core tm.ctx ln = s.l1Line p.ref.core tm.ctx ln := by
  rw [State.l1Line, State.l1Line, (onlyCore_lineLeaves tm p x op ts s k).own, withoutLines, List.find?_filter]
  congr 1
  funext l
  by_cases hl : l.line = lineOf ln
  · have hk : (l.line == lineOf k) = false := beq_eq_false_iff_ne.mpr (hl ▸ hne.symm)
    simp only [hk, Bool.and_false, Bool.not_false, true_and, Bool.decide_eq_true]
  · have hn : (l.line == lineOf ln) = false := beq_eq_false_iff_ne.mpr hl
    simp only [hn, Bool.and_false, Bool.false_eq_true, and_false, decide_false]

theorem GoesHome.dropL1 {s : State} {l : L1Line} (h : GoesHome s l) (c : CoreId) (ctx ia : Nat) : GoesHome (s.dropL1 c ctx ia) l := by
  simpa only [GoesHome, State.dropL1, State.updCore_mem, State.updCore_clk] using h

theorem GoesHome.lineLeaves {s : State} {l : L1Line} (h : GoesHome s l) (ln : Nat) : GoesHome (lineLeaves tm p x op ts s ln) l := by
  unfold Execution.lineLeaves
  split
  case h_1 k _ =>
    refine GoesHome.dropL1 ?_ ..
    split
    · exact h.sendWriteBack ..
    · exact h
  case h_2 => exact h

theorem goesHome_lineLeaves {s : State} {ln : Nat} {l : L1Line} (hl : s.l1Line p.ref.core tm.ctx ln = some l)
    (hprivate : l.isPrivate = true)
    (hdirty : l.dirty = true) : GoesHome (lineLeaves tm p x op ts s ln) l := by
  simp only [lineLeaves, hl, hprivate, hdirty, Bool.and_self, if_true]
  exact (goesHome_sendWriteBack ..).dropL1 ..

/-- Each dirty `isPrivate` one of the lines that leave is on its way to its home: it stays in the L1 until its
turn comes. -/
theorem goesHome_linesLeave {s : State} {lns : List Nat} {ln : Nat} {l : L1Line} (hln : ln ∈ lns)
    (hl : s.l1Line p.ref.core tm.ctx ln = some l)
    (hprivate : l.isPrivate = true) (hdirty : l.dirty = true) : GoesHome (lns.foldl (lineLeaves tm p x op ts) s) l := by
  refine foldl_brings (I := fun t => t.l1Line p.ref.core tm.ctx ln = some l ∨ GoesHome t l)
    (P := (GoesHome · l)) hln (.inl hl) (fun t k ht => ?inv) (fun t ht => ?brings)
    fun t k ht => ht.lineLeaves tm p x op ts k
  case brings =>
    rcases ht with hthere | hgoes
    · exact goesHome_lineLeaves tm p x op ts hthere hprivate hdirty
    · exact hgoes.lineLeaves tm p x op ts ln
  case inv =>
    rcases ht with hthere | hgoes
    · by_cases hk : lineOf k = lineOf ln
      · have hthere' : t.l1Line p.ref.core tm.ctx k = some l := by rw [State.l1Line, hk]; exact hthere
        exact .inr (goesHome_lineLeaves tm p x op ts hthere' hprivate hdirty)
      · exact .inl ((l1Line_lineLeaves_ne tm p x op ts t hk).trans hthere)
    · exact .inr (hgoes.lineLeaves tm p x op ts k)

end

theorem lineOf_lineOf (ia : Nat) : lineOf (lineOf ia) = lineOf ia := by
  unfold lineOf
  rw [Nat.mul_div_cancel _ (by decide)]

/-- The lines that addresses name are numbered by their first bytes. -/
theorem lineOf_namedLines {s : State} {tm : Team} {sp : OpSpec} {x : Fields} {ps : List Thread} {ln : Nat}
    (h : ln ∈ namedLines s tm sp x ps) :
    lineOf ln = ln := by
  rw [namedLines, List.mem_eraseDups, List.mem_filterMap] at h
  obtain ⟨l, -, hl⟩ := h
  obtain ⟨r, -, rfl⟩ := Option.map_eq_some_iff.mp hl
  exact lineOf_lineOf r.1

/-- A line is one of a context's with these numbers. -/
theorem any_line_eq {lns : List Nat} (h : ∀ ln ∈ lns, lineOf ln = ln) (ctx : Nat) (l : L1Line) :
    (lns.any fun ln => l.ctx == ctx && l.line == lineOf ln) = (l.ctx == ctx && lns.contains l.line) := by
  rw [Bool.eq_iff_iff]
  simp only [List.any_eq_true, Bool.and_eq_true, beq_iff_eq, List.contains_iff_mem]
  constructor
  · rintro ⟨ln, hln, hctx, hline⟩
    rw [h ln hln] at hline
    exact ⟨hctx, hline ▸ hln⟩
  · rintro ⟨hctx, hln⟩
    exact ⟨l.line, hln, hctx, (h _ hln).symm⟩

/-- The release of a CCTL's slot, where it is due, changes nothing else. -/
theorem onlyInFlight_released (b : Bool) (s : State) (op : Nat) (x : Fields) (p : Thread) (ps : List Thread) :
    OnlyInFlight s (releasedIf b s op x p ps) := by
  cases b <;> rfl

theorem released_requests (b : Bool) (s : State) (op : Nat) (x : Fields) (p : Thread) (ps : List Thread) :
    (releasedIf b s op x p ps).mem.requests = s.mem.requests := by
  cases b <;> rfl

/-- Settles O13: PREF by `execPref_next`. Of the CCTLs it is shown which core changes, and how
(`OnlyCore.cctl`), and that each line that goes back keeps its request (`GoesHome.sendWriteBack`,
`goesHome_linesLeave`). -/
theorem prefetchAndCacheControl : Obligations.PrefetchAndCacheControl := by
  unfold Obligations.PrefetchAndCacheControl
  intro x s tm sp h rest p ps hpart
  refine ⟨?pref, ?wbpriv, ?invl1, ?invk⟩
  case pref => exact fun hgoes => execPref_next hgoes hpart
  case wbpriv =>
    intro hgoes hstored
    have hback := OnlyCore.after_inFlight (onlyInFlight_linesGoBack (begun s (h :: rest) (p :: ps) x 0 0) tm p x s.clk.nextId ((p :: ps).map (·.ref))
      ((s.core p.ref.core).l1.filter (dirtyOf tm))) (onlyCore_updCore (f := withLinesClean tm) _ p.ref.core fun _ => rfl)
    obtain ⟨hwent, hbytes, hothers, hown⟩ := (hback.then_inFlight (onlyInFlight_released _ _ s.clk.nextId x p ps)).cctl hpart
    refine ⟨_, execCctlWbpriv_next hgoes hpart hstored, hwent, hbytes, hothers, hown, fun l hl hdirty => ?_⟩
    obtain ⟨r, hr, -, hrequest⟩ := goesHome_linesGoBack (begun s (h :: rest) (p :: ps) x 0 0) tm p x s.clk.nextId ((p :: ps).map (·.ref))
      (List.mem_filter.mpr ⟨hl, hdirty⟩)
    exact ⟨r, by rwa [released_requests, State.updCore_mem], hrequest⟩
  case invl1 =>
    intro hgoes hstored
    have hleft := onlyCore_linesLeave tm p x s.clk.nextId ((p :: ps).map (·.ref)) (namedLines s tm sp x (p :: ps))
      (begun s (h :: rest) (p :: ps) x 0 0)
    simp only [any_line_eq fun ln => lineOf_namedLines] at hleft
    obtain ⟨hwent, hbytes, hothers, hown⟩ := (hleft.then_inFlight (onlyInFlight_released _ _ s.clk.nextId x p ps)).cctl hpart
    refine ⟨_, execCctlInvl1_next hgoes hpart hstored, hwent, hbytes, hothers, hown, fun ln hln l hl hprivate hdirty => ?_⟩
    obtain ⟨r, hr, -, hrequest⟩ := goesHome_linesLeave tm p x s.clk.nextId ((p :: ps).map (·.ref)) hln
      ((congrArg (fun f => f p.ref.core tm.ctx ln) (begun_l1Line ..)).trans hl) hprivate hdirty
    exact ⟨r, by rwa [released_requests], hrequest⟩
  case invk =>
    intro hgoes
    have hdropped := onlyCore_updCore (f := withoutConstants tm.ctx) (begun s (h :: rest) (p :: ps) x 0 0) p.ref.core fun _ => rfl
    exact ⟨_, execCctlInvk_next hgoes hpart, (hdropped.then_inFlight (onlyInFlight_released true _ s.clk.nextId x p ps)).cctl hpart⟩

end Sys2Proof.Proofs.Execution
end

section
/-! PROOFS. Engine commands, SXPRI, ENQ and CANCEL (O25, O26, O27). -/

namespace Sys2Proof.Proofs.Execution

open Sys2Proof Sys2Proof.Machine Sys2Proof.Claims

/-! ### Engine commands (R173, R288) -/

/-- An instruction begins and its command joins those of the engines; every command that can begin does
(R288). -/
def commandJoins (s : State) (act part : List Thread) (x : Fields) (cmd : Cmd) : State :=
  let b := begun s act part x x.d.toNat 1
  ({ b with mem := { b.mem with cmds := b.mem.cmds ++ [cmd] } } : State).beginCommands

/-- The command blocks of lanes: where each lies, and its bytes. -/
def blocksOf (x : Fields) (size : Nat → Nat) (lanes : List Lane) (found : List (Nat × (W64 × W64 × W64))) : List (Nat × Nat) :=
  (lanes.zip found).map fun q => (q.2.1, size (State.blockVa x q.1))

theorem map_found_blocks (x : Fields) (size : Nat → Nat) (lanes : List Lane) (found : List (Nat × (W64 × W64 × W64))) :
    (((lanes.zip found).map fun q => (q.1, q.2.1)).map fun q => (q.2, size (State.blockVa x q.1))) =
      blocksOf x size lanes found := List.map_map

/-- The bytes that a barrier counts: a lane of 2^32 bytes or more counts none (R173). -/
def countedTotal (ns : List Nat) : Nat := (ns.filter fun k => decide (k < 2 ^ 32)).foldl (· + ·) 0

section
variable {s : State} {op : Nat} {x : Fields} {kind : CmdKind} {size : State → Team → List TRef → Nat → Nat}
    {al : Nat} {tm : Team} {sp : OpSpec}
  {h p : Thread} {rest ps : List Thread} {ws : List W32} {found : List (Nat × (W64 × W64 × W64))}

/-- Without a barrier a command whose lanes' blocks pass their checks joins a queue that has room. -/
theorem engineOp_joins (hissues : Issues s op x tm sp (h :: rest) ws) (hpart : partOf x (h :: rest) = p :: ps)
    (hfound : (lanesOf s sp x ws (p :: ps)).map (fun l => globalCheck (ctxOf s tm) .read (size s tm ((p :: ps).map (·.ref)) (State.blockVa x l)) al
      (State.blockVa x l) l.t.lane) = found.map .ok)
    (hbar : ((op == 0x70 || op == 0x74) && x.xop.getLsbD 2) = false) :
    let refs := (p :: ps).map (·.ref)
    let lanes := lanesOf s sp x ws (p :: ps)
    let cmd := cmdOf s op x kind tm p lanes (s.waitsFor refs (x.xop.getLsbD 0) (blocksOf x (size s tm refs) lanes found))
    s.queueFull cmd = false → s.engineOp op x kind size al = commandJoins s (h :: rest) (p :: ps) x cmd := by
  have hchecks := map_check_zip (fun l r => (l, r.1)) hfound
  intro refs lanes cmd hroom
  have hblocks := map_found_blocks x (size s tm refs) lanes found
  unfold State.engineOp
  refine (issueThen_of_goes (goes_of_issues hissues) _).trans ?_
  simp only [lanes, refs, lanesOf] at hchecks hblocks
  simp only [filter_guardTrue, hpart, hissues.const, ConstRead.got, hchecks, constCheck_words, List.append_nil,
    firstFail_ok, passed_ok, hblocks, beginMem_eq, hbar,
    Bool.false_eq_true, if_false]
  exact if_neg (Bool.eq_false_iff.mp hroom)

/-- With a barrier it counts its bytes first, and is held where a descriptor lies in an absent page. -/
theorem engineOp_counts (hissues : Issues s op x tm sp (h :: rest) ws) (hpart : partOf x (h :: rest) = p :: ps)
    (hfound : (lanesOf s sp x ws (p :: ps)).map (fun l => globalCheck (ctxOf s tm) .read (size s tm ((p :: ps).map (·.ref)) (State.blockVa x l)) al
      (State.blockVa x l) l.t.lane) = found.map .ok)
    (hbar : ((op == 0x70 || op == 0x74) && x.xop.getLsbD 2) = true) :
    let n := x.c.toNat % 64
    let refs := (p :: ps).map (·.ref)
    let lanes := lanesOf s sp x ws (p :: ps)
    let blocks := blocksOf x (size s tm refs) lanes found
    let cmd := fun total => { cmdOf s op x kind tm p lanes (s.waitsFor refs (x.xop.getLsbD 0) blocks) with barrier := some n, counted := total }
    s.queueFull (cmd 0) = false → (op = 0x70 → s.waitsFor refs false blocks = []) →
    (∀ ia, s.countedBytes tm op refs (lanes.map (State.blockVa x)) = .error ia →
      s.engineOp op x kind size al = s.reportPage tm.ctx ia) ∧
    (∀ ns, s.countedBytes tm op refs (lanes.map (State.blockVa x)) = .ok ns → countedTotal ns < 2 ^ 32 →
      (s.barrier tm.ctx n).pend + countedTotal ns < 2 ^ 32 →
      s.engineOp op x kind size al = commandJoins (s.updBarrier tm.ctx n fun k => { k with pend := k.pend + countedTotal ns }) (h :: rest) (p :: ps) x
        (cmd (countedTotal ns))) := by
  have hchecks := map_check_zip (fun l r => (l, r.1)) hfound
  intro n refs lanes blocks cmd hroom hstores
  have hover : ¬ (decide (op = 0x70) && !(s.waitsFor refs false blocks).isEmpty) = true := by
    by_cases hop : op = 0x70
    · simp [hstores hop]
    · simp [hop]
  have hblocks := map_found_blocks x (size s tm refs) lanes found
  simp only [lanes, refs, lanesOf] at hchecks hblocks
  have hcounts : s.engineOp op x kind size al = match s.countedBytes tm op refs (lanes.map (State.blockVa x)) with
      | .error ia => s.reportPage tm.ctx ia
      | .ok ns =>
        if 2 ^ 32 ≤ countedTotal ns then commandJoins s (h :: rest) (p :: ps) x
          { cmd 0 with lanes := (cmd 0).lanes.map fun l => { l with done := true, status := 2 } }
        else if 2 ^ 32 ≤ (s.barrier tm.ctx n).pend + countedTotal ns then s
        else commandJoins (s.updBarrier tm.ctx n fun k => { k with pend := k.pend + countedTotal ns })
          (h :: rest) (p :: ps) x (cmd (countedTotal ns)) := by
    unfold State.engineOp
    refine (issueThen_of_goes (goes_of_issues hissues) _).trans ?_
    simp only [filter_guardTrue, hpart, hissues.const, ConstRead.got, hchecks, constCheck_words, List.append_nil,
      firstFail_ok, passed_ok, hblocks, beginMem_eq, hbar, if_true]
    exact (if_neg (Bool.eq_false_iff.mp hroom)).trans (if_neg hover)
  rw [hcounts]
  refine ⟨fun ia hia => by rw [hia], fun ns hns htotal hpend => ?_⟩
  rw [hns]
  exact (if_neg (Nat.not_le.mpr htotal)).trans (if_neg (Nat.not_le.mpr hpend))

end

/-- COPY, TRACE, SXDRAW and SILT are engine commands of their shapes. -/
theorem exec_engineShape {i : Instr} {op al : Nat} {x : Fields} {kind : CmdKind} {size : Nat → Nat} {s : State}
    {tm : Team} {refs : List TRef}
    (hshape : engineShape s tm refs i = some (op, x, kind, size, al)) :
    ∃ f : State → Team → List TRef → Nat → Nat, f s tm refs = size ∧ exec i s = .next (s.engineOp op x kind f al) := by
  cases i
  case copy => cases hshape; exact ⟨fun s tm ts va => s.descBytes tm ts va, rfl, rfl⟩
  case trace | sxdraw => cases hshape; exact ⟨fun _ _ _ _ => 64, rfl, rfl⟩
  case silt => cases hshape; exact ⟨fun _ _ _ _ => 32, rfl, rfl⟩
  all_goals exact nomatch hshape

/-- Settles O25: a command without a barrier joins its queue (`engineOp_joins`). -/
theorem engineCommandsBegin : Obligations.EngineCommandsBegin := by
  unfold Obligations.EngineCommandsBegin
  intro i op x kind size al s tm sp h rest ws p ps found hshape hissues hpart hfound hnone cmd hroom
  obtain ⟨f, rfl, hexec⟩ := exec_engineShape hshape
  have hbar : ((op == 0x70 || op == 0x74) && x.xop.getLsbD 2) = false := by
    simpa only [Bool.and_eq_false_imp, Bool.or_eq_true, beq_iff_eq] using hnone
  exact hexec.trans (congrArg _ (engineOp_joins hissues hpart hfound hbar hroom))

/-- Settles O26: a command with a barrier counts its bytes before it joins (`engineOp_counts`). -/
theorem engineCommandsCount : Obligations.EngineCommandsCount := by
  unfold Obligations.EngineCommandsCount
  intro i op x kind size al s tm sp h rest ws p ps found ns hshape hissues hpart hfound hop hbit n lanes blocks refs total cmd hroom hstores
  obtain ⟨f, rfl, hexec⟩ := exec_engineShape hshape
  have hbar : ((op == 0x70 || op == 0x74) && x.xop.getLsbD 2) = true := by
    simpa only [Bool.and_eq_true, Bool.or_eq_true, beq_iff_eq] using And.intro hop hbit
  obtain ⟨habsent, hcounted⟩ := engineOp_counts hissues hpart hfound hbar hroom hstores
  exact ⟨fun ia hia => hexec.trans (congrArg _ (habsent ia hia)),
    fun hns htotal hpend => hexec.trans (congrArg _ (hcounted ns hns htotal hpend))⟩

/-! ### SXPRI, ENQ and CANCEL (R293, R295, R296) -/

section
variable {s : State} {x : Fields} {tm : Team} {sp : OpSpec} {h p : Thread} {rest ps : List Thread} {ws : List W32}

theorem execSxpri_sets {d draw : Nat} {r : Render} {b : Draw} (hissues : Issues s 0x73 x tm sp (h :: rest) ws)
    (hpolicy : tm.policy = some (d, draw))
    (hdie : s.die d = some r) (hdraw : r.blocks.find? (fun b => b.id == draw) = some b)
    (hcells : ∀ l ∈ lanesOf s sp x ws (partOf x (h :: rest)), natField l.a.toNat 0 32 < b.prio.length) :
    let lanes := lanesOf s sp x ws (partOf x (h :: rest))
    execSxpri x s = .next ((s.updDie d fun r => { r with blocks := r.blocks.map fun b => if b.id == draw then
      { b with prio := lanes.foldl (fun q l => q.set (natField l.a.toNat 0 32) (natField l.b.toNat 0 16)) b.prio } else b }).advance (h :: rest) x.form.length) := by
  have hwithin : (lanesOf s sp x ws (partOf x (h :: rest))).find? (fun l => decide (b.prio.length ≤ natField l.a.toNat 0 32)) = none :=
    List.find?_eq_none.mpr fun l hl => by simpa using hcells l hl
  simp only [lanesOf, partOf] at hwithin
  rw [execSxpri, issueConst_of_issues hissues]
  simp only [hpolicy, hdie, Option.bind_some, hdraw, Option.map_some, Option.getD_some, hwithin]
  rfl

theorem execCancel_next (hgoes : Goes s 0x76 x tm sp h rest) :
    execCancel x s = .next (((lanesOf s sp x [] (partOf x (h :: rest))).foldl (fun s l => s.cancelGroup tm.ctx (natField l.a.toNat 0 6)) s).advance
      (h :: rest) x.form.length) := by
  rw [execCancel, issueThen_of_goes hgoes]
  rfl

/-- What ENQ asks for each lane: a record at an address. -/
def enqAsks (x : Fields) (lanes : List Lane) (found : List (Nat × (W64 × W64 × W64))) : List (Lane × Nat × Nat) :=
  (lanes.zip found).map fun q => (q.1, State.blockVa x q.1, q.2.1)

/-- The lanes that ENQ asks for are those of its participating threads. -/
theorem enqAsks_refs {found : List (Nat × (W64 × W64 × W64))} (hlength : found.length = ps.length) (codes : List Nat) :
    (((enqAsks x (lanesOf s sp x ws ps) found).zip codes).map fun q => (q.1.1.t.ref, q.2)) = (ps.map (·.ref)).zip codes := by
  have hrefs : ((enqAsks x (lanesOf s sp x ws ps) found).map fun a => a.1.t.ref) = ps.map (·.ref) := calc
    _ = ((lanesOf s sp x ws ps).zip found).map fun q => q.1.t.ref := by rw [enqAsks, List.map_map]; rfl
    _ = (lanesOf s sp x ws ps).map fun l => l.t.ref := map_zip_fst (fun l : Lane => l.t.ref) (by simp [lanesOf, hlength])
    _ = ps.map (·.ref) := List.map_map
  rw [← hrefs, List.zip_map_left]
  rfl

/-- No lane whose record is posted failed. -/
theorem find?_posted (asks : List (Lane × Nat × Nat)) (codes : List Nat) (cause : Nat) :
    ((asks.zip codes).map fun q => (q.1.1, q.1.2.1, q.1.2.2, (.inr q.2 : Nat ⊕ Nat))).find? (fun q => q.2.2.2 == .inl cause) = none := by
  refine List.find?_eq_none.mpr fun y hy => ?_
  obtain ⟨q, -, rfl⟩ := List.mem_map.mp hy
  exact Bool.false_ne_true

/-- Where every lane's record is posted, the codes are on their way. -/
theorem execEnq_posts {found : List (Nat × (W64 × W64 × W64))} {codes : List Nat}
    (hgoes : Goes s 0x75 x tm sp h rest) (hpart : partOf x (h :: rest) = p :: ps)
    (hfound : (lanesOf s sp x [] (p :: ps)).map (fun l => globalCheck (ctxOf s tm) .read 64 64 (State.blockVa x l) l.t.lane) = found.map .ok)
    (hfence : fencesDone s tm (p :: ps) x.scope = true) :
    let asks := enqAsks x (lanesOf s sp x [] (p :: ps)) found
    let r := (begun s (h :: rest) (p :: ps) x x.d.toNat 1).postLanes tm asks
    r.2 = (asks.zip codes).map (fun q => (q.1.1, q.1.2.1, q.1.2.2, .inr q.2)) → codes.length = asks.length →
    execEnq x s = .next (r.1.addLater s.clk.nextId 140 x.set.toNat p.handler ((p :: ps).map (·.ref))
      (((p :: ps).zip codes).map fun q => ⟨q.1.ref, x.d.toNat, [BitVec.ofNat 32 q.2], none, 0⟩) none []) := by
  intro asks r hcodes hlength
  have hchecks : (((p :: ps).map (laneOf s sp x [])).map fun l => (globalCheck (ctxOf s tm) .read 64 64 (State.blockVa x l) l.t.lane).map fun r =>
      (l, State.blockVa x l, r.1)) = asks.map .ok := map_check_zip (fun l r => (l, State.blockVa x l, r.1)) hfound
  have hlanes : found.length = (p :: ps).length := by simpa [lanesOf] using length_of_checks hfound
  have hdone : ((begun s (h :: rest) (p :: ps) x x.d.toNat 1).postLanes tm asks).2 =
    (asks.zip codes).map fun q => (q.1.1, q.1.2.1, q.1.2.2, .inr q.2) := hcodes
  have hrefs : ((asks.zip codes).map fun q => (q.1.1.t.ref, q.2)) = ((p :: ps).map (·.ref)).zip codes := enqAsks_refs hlanes codes
  have hcount : codes.length = (p :: ps).length := by simpa [asks, enqAsks, lanesOf, hlanes] using hlength
  have hsome : (((p :: ps).map (·.ref)).zip codes).isEmpty = false := by
    cases codes with
    | nil => exact nomatch hcount
    | cons c codes => rfl
  have hfst : ((((p :: ps).map (·.ref)).zip codes).map fun q => q.1) = (p :: ps).map (·.ref) := List.map_fst_zip (by simp [hcount])
  have hlater : (((p :: ps).map (·.ref)).zip codes).map (fun q => (⟨q.1, x.d.toNat, [BitVec.ofNat 32 q.2], none, 0⟩ : ResultLane)) =
      ((p :: ps).zip codes).map fun q => ⟨q.1.ref, x.d.toNat, [BitVec.ofNat 32 q.2], none, 0⟩ := by
    rw [List.zip_map_left, List.map_map]
    rfl
  rw [execEnq, issueThen_of_goes hgoes]
  simp only [filter_guardTrue, hpart, hchecks, firstFail_ok, passed_ok, beginMem_eq, hfence, Bool.not_true,
    Bool.false_eq_true, if_false, hdone, find?_posted, List.filterMap_map,
    Function.comp_def, List.filterMap_eq_map', filterMap_fun_none, hrefs, hsome, hfst, List.map_nil,
    List.eraseDups_nil, List.foldl_nil, hlater]
  rfl

end

/-- Settles O27: SXPRI finds its draw and every cell (`execSxpri_sets`), the records of an ENQ are posted
(`execEnq_posts`), and CANCEL cancels lane by lane (`execCancel_next`). -/
theorem prioritiesPostsCancels : Obligations.PrioritiesPostsCancels := by
  unfold Obligations.PrioritiesPostsCancels
  intro x s tm sp h rest
  refine ⟨?sxpri, ?enq, ?cancel⟩
  case sxpri => exact fun ws d draw r b hissues hpolicy hdie hdraw hcells => execSxpri_sets hissues hpolicy hdie hdraw hcells
  case enq => exact fun p ps found codes hgoes hpart hfound hfence hcodes hlength => execEnq_posts hgoes hpart hfound hfence hcodes hlength
  case cancel => exact fun hgoes => execCancel_next hgoes

end Sys2Proof.Proofs.Execution
end

section
/-! PROOFS. Stages, barriers and message queues (O28, O29, O30). -/

namespace Sys2Proof.Proofs.Execution

open Sys2Proof Sys2Proof.Machine Sys2Proof.Claims

/-! ### STAGE (R36, R55 to R58, R297) -/

/-- What becomes of a group's STAGE at issue, by what it meets. -/
def metAtIssue (s : State) (x : Fields) (act : List Thread) (p : Thread) (refs : List TRef) (op : Nat) : StageMet → State
  | .misuse => s.trapGroup (misuseTrap 0x77 (x.c.toNat % 8) p.lane)
  | .waits s' => s'.advance (idleOf x act) x.form.length
  | .done d s' => (s'.stageResult x op 4 p.handler refs d).advance act x.form.length

/-- What the holding core answers to a STAGE that has arrived, by what it meets. -/
def metAtHold (s : State) (tm : Team) (a : Arrival) (op : Nat) (handler : Bool) : StageMet → State
  | .misuse => answered s tm a 1 (laneOfFirst s (livePart s a)) (liveAll s a)
  | .waits s' => answered s' tm a 0 0 ((liveAll s a).filter fun t => !((livePart s a).contains t))
  | .done d s' => answered (s'.stageResult a.x op (4 + holdTransit tm a.group.core) handler (livePart s a) d) tm a 0 0 (liveAll s a)

section
variable {s : State} {x : Fields} {tm : Team} {sp : OpSpec} {h p : Thread} {rest ps : List Thread} {ws : List W32}

theorem exec_stageShape {i : Instr} {stop : Nat} (hshape : stageShape i = some (x, stop)) (s : State) :
    exec i s = .next (s.stageOp x) := by
  cases i
  case stageInit | stageAcqp | stageAcqc | stageRelp | stageRelc => cases hshape; rfl
  all_goals exact nomatch hshape

/-- A STAGE with a participating lane is a cancellation point where it acquires, waits for its fence where it
releases, leaves for the holding core where that is another, and else acts. -/
theorem stageOp_next (hissues : Issues s 0x77 x tm sp (h :: rest) ws) (hpart : partOf x (h :: rest) = p :: ps) :
    let stop := OpTable.xf x 0 3
    let word := (laneOf s sp x ws p).b.setWidth 32
    let refs := (p :: ps).map (·.ref)
    let o := s.beginStage x refs
    s.stageOp x =
      if (stop == 1 || stop == 2) && State.observes tm p then ended (s.advance (idleOf x (h :: rest)) x.form.length) refs .cancelled
      else if decide (3 ≤ stop) && !(fencesDone s tm (p :: ps) x.scope) then s
      else if holdTransit tm p.ref.core ≠ 0 then sentToHold s tm 0x77 x h (h :: rest) fun _ => word
      else metAtIssue s x (h :: rest) p refs o.1
        (o.2.stageEvent tm stop (x.c.toNat % 8) word.toNat ⟨o.1, refs, x.d.toNat, p.handler, x.set.toNat⟩) := by
  rw [State.stageOp, issueConst_of_issues hissues]
  simp only [filter_guardTrue, hpart]
  rfl

end

theorem alive_eq_live (s : State) (ts : List TRef) : s.alive ts = live s ts :=
  List.filter_congr fun t _ => by cases s.thread t <;> rfl

/-- A STAGE that arrives at the holding core is done there, and what it meets decides the answer (R36). -/
theorem arrives_stage {s : State} {a : Arrival} {tm : Team} {q : TRef × Bool × W32}
    (hteam : s.team a.team = some tm) (hanswer : a.answer = false)
    (hop : a.op = 0x77) (hhead : a.threads.head? = some q) :
    let s1 := taken s a
    let part := livePart s1 a
    let handler := ((part.head?.bind s1.thread).map (·.handler)).getD false
    let o := s1.beginStage a.x part
    s.arrives a = metAtHold s1 tm a o.1 handler
      (o.2.stageEvent tm (OpTable.xf a.x 0 3) (a.x.c.toNat % 8) q.2.2.toNat ⟨o.1, part, a.x.d.toNat, handler, a.x.set.toNat⟩) := by
  have hteam' : (taken s a).team a.team = some tm := hteam
  have harrives : s.arrives a = (taken s a).stageArrives tm a := by
    unfold taken at hteam' ⊢
    simp only [State.arrives, hteam', hanswer, hop, Bool.false_eq_true, if_false]
  rw [harrives, State.stageArrives]
  simp only [alive_eq_live, hhead, Option.map_some, Option.getD_some]
  rfl

theorem not_cancelled {stop : Nat} {b : Bool} (h : stop = 1 ∨ stop = 2 → b = false) : ¬ ((stop == 1 || stop == 2) && b) = true := by
  intro hboth
  obtain ⟨hstop, hb⟩ := Bool.and_eq_true_iff.mp hboth
  exact Bool.false_ne_true ((h (by simpa using hstop)).symm.trans hb)

theorem not_fenced {stop : Nat} {b : Bool} (h : 3 ≤ stop → b = true) : ¬ (decide (3 ≤ stop) && !b) = true := by
  intro hboth
  obtain ⟨hstop, hb⟩ := Bool.and_eq_true_iff.mp hboth
  simp [h (of_decide_eq_true hstop)] at hb

/-- Settles O28: at issue the conditions name the branch of `stageOp_next`, at the holding core what the
operation meets is that of `arrives_stage`. -/
theorem stages : Obligations.Stages := by
  unfold Obligations.Stages
  refine ⟨?leaves, ?arrives, ?here⟩
  case leaves =>
    rintro i x _ s tm sp h rest ws p ps hshape rfl hissues hpart
    have hexec := (exec_stageShape hshape s).trans (congrArg _ (stageOp_next hissues hpart))
    refine ⟨fun hacquire hobserves => ?_, fun hfar _ hobserves hfence => ?_⟩
    · exact hexec.trans (congrArg _ (if_pos (by simpa [hobserves] using hacquire)))
    · exact hexec.trans (congrArg _ ((if_neg (not_cancelled hobserves)).trans ((if_neg (not_fenced hfence)).trans (if_pos hfar))))
  case arrives =>
    intro s a tm q hteam hanswer hop hhead s1 all part handler o met
    have harrives : s.arrives a = metAtHold s1 tm a o.1 handler met := arrives_stage hteam hanswer hop hhead
    exact ⟨fun d s' hmet => by rw [harrives, hmet]; rfl, fun s' hmet => by rw [harrives, hmet]; rfl,
      fun hmet => by rw [harrives, hmet]; rfl⟩
  case here =>
    rintro i x _ s tm sp h rest ws p ps hshape rfl hissues hpart hhere hobserves hfence refs o met
    have hacts : exec i s = .next (metAtIssue s x (h :: rest) p refs o.1 met) :=
      (exec_stageShape hshape s).trans (congrArg _ ((stageOp_next hissues hpart).trans
        ((if_neg (not_cancelled hobserves)).trans ((if_neg (not_fenced hfence)).trans (if_neg (not_not_intro hhere))))))
    exact ⟨fun d s' hmet => by rw [hacts, hmet]; rfl, fun s' hmet => by rw [hacts, hmet]; rfl, fun hmet => by rw [hacts, hmet]; rfl⟩

/-! ### Barriers (R174, R298, R299) -/

section
variable {s : State} {x : Fields} {tm : Team} {sp : OpSpec} {h p : Thread} {rest ps : List Thread}

/-- BAR.init sets its barrier up unless its value is bad, or the barrier is in use. -/
theorem execBarInit_next (hgoes : Goes s 0x78 x tm sp h rest) (hpart : partOf x (h :: rest) = p :: ps) :
    let n := x.c.toNat % 64
    let a := natField (laneOf s sp x [] p).a.toNat 0 32
    let refs := (p :: ps).map (·.ref)
    execBarInit x s = .next (if natField a 0 20 = 0 ∨ natField a 20 12 ≠ 0 ∨ (s.barrier tm.ctx n).arr ≠ 0 ∨ (s.barrier tm.ctx n).pend ≠ 0
      then s.trapGroup (misuseTrap 0x78 n p.lane)
      else (((s.updBarrier tm.ctx n fun b =>
        { b with p := natField a 0 20, scope := x.scope, arr := 0, dep := 0, sstep := 0, die := s.holdingDie tm x.scope p.ref.core.die
                 teams := if b.teams.contains tm.id then b.teams else b.teams ++ [tm.id], waiters := [],
                 late := 0, gone := 0, finished := false, broken := false
                 wide := b.wide || tm.header.shape != 0 }).count refs x.set.toNat).addLater
          s.clk.nextId 1 x.set.toNat p.handler refs [] none []).advance (h :: rest) x.form.length) := by
  rw [execBarInit, issueThen_of_goes hgoes]
  simp only [filter_guardTrue, hpart]
  rfl

/-- An arrival of threads that observe no cancellation and have nothing outstanding is counted, at a barrier
that is not broken and has room for them. -/
theorem execBarArrive_counts (hgoes : Goes s 0x78 x tm sp h rest) (hpart : partOf x (h :: rest) = p :: ps)
    (hobserves : State.observes tm p = false)
    (hfence : fencesDone s tm (p :: ps) .thread = true) :
    let n := x.c.toNat % 64
    let refs := (p :: ps).map (·.ref)
    let b := s.barrier tm.ctx n
    b.broken = false → 0 < b.p → b.arr + b.dep + refs.length ≤ b.p →
    execBarArrive x s = .next (((((s.updBarrier tm.ctx n fun k =>
      { k with arr := k.arr + refs.length, bwmax := (p :: ps).foldl (fun m t => max m t.wmax) b.bwmax, waiters := k.waiters ++ refs
               teams := if k.teams.contains tm.id then k.teams else k.teams ++ [tm.id]
               wide := k.wide || tm.header.shape != 0 }).count refs x.set.toNat).addLater s.clk.nextId 1 x.set.toNat p.handler refs [] none []).advance
        (idleOf x (h :: rest)) x.form.length).updThreads refs fun h => { h with status := .waiting (.barrier n) }) := by
  intro n refs b hbroken hparties hroom
  have hfits : ¬ (b.p = 0 ∨ b.p < b.arr + b.dep + (p :: ps).length) := by
    rw [List.length_map] at hroom
    omega
  rw [execBarArrive, issueThen_of_goes hgoes]
  simp only [filter_guardTrue, hpart, hobserves, hfence, Bool.not_true, Bool.false_eq_true, if_false, refs, List.length_map]
  exact congrArg _ ((if_neg (Bool.eq_false_iff.mp hbroken)).trans (if_neg hfits))

end

/-- Settles O29: a value and a barrier that fit name the branch of `execBarInit_next`; an arrival by
`execBarArrive_counts`. -/
theorem barriers : Obligations.Barriers := by
  unfold Obligations.Barriers
  intro x s tm sp h rest p ps hgoes hpart n a refs b bound
  refine ⟨fun hp hrsv harr hpend => ?_, fun hobserves hfence hbroken hparties hroom =>
    execBarArrive_counts hgoes hpart hobserves hfence hbroken hparties hroom⟩
  exact (execBarInit_next hgoes hpart).trans (congrArg _ (if_neg fun hbad =>
      hbad.elim hp fun h => h.elim (· hrsv) fun h => h.elim (· harr) (· hpend)))

/-! ### Message queues (R300, R422, R423) -/

/-- Settles O30: a send whose register names cores sends its flits, and a receive waits and serves its queue:
with a participating lane, the branch of each meaning that acts. -/
theorem messageQueues : Obligations.MessageQueues := by
  unfold Obligations.MessageQueues
  intro x s tm sp h rest p ps hgoes hpart
  refine ⟨fun cores q hdest => ?_, ?_⟩
  · show execMovqSend x s = _
    rw [execMovqSend, issueThen_of_goes hgoes]
    simp only [filter_guardTrue, hpart, hdest]
    rfl
  · show execMovqRecv x s = _
    rw [execMovqRecv, issueThen_of_goes hgoes]
    simp only [filter_guardTrue, hpart]
    rfl

end Sys2Proof.Proofs.Execution
end

section
/-! PROOFS. Branches, jumps, returns, calls, TRAP and NOP (O14, O15, O16, O20). -/

namespace Sys2Proof.Proofs.Execution

open Sys2Proof Sys2Proof.Machine Sys2Proof.Claims

/-! ### The active threads (R37) -/

theorem mem_insertBy {α : Type} {key : α → Nat} {x y : α} {l : List α} : y ∈ insertBy key x l ↔ y = x ∨ y ∈ l := by
  induction l with
  | nil => simp [insertBy]
  | cons z l ih =>
    unfold insertBy
    split
    · simp
    · rw [List.mem_cons, ih, List.mem_cons]
      exact or_left_comm

/-- Insertion by a key keeps a list in the key's order. -/
theorem pairwise_insertBy {α : Type} {key : α → Nat} {x : α} {l : List α} (h : l.Pairwise fun a b => key a ≤ key b) :
    (insertBy key x l).Pairwise fun a b => key a ≤ key b := by
  induction l with
  | nil => simp [insertBy]
  | cons z l ih =>
    obtain ⟨hz, hl⟩ := List.pairwise_cons.mp h
    unfold insertBy
    split
    case isTrue hlt =>
      refine List.pairwise_cons.mpr ⟨fun y hy => ?_, h⟩
      rcases List.mem_cons.mp hy with rfl | hy
      · exact Nat.le_of_lt hlt
      · exact Nat.le_trans (Nat.le_of_lt hlt) (hz y hy)
    case isFalse hle =>
      refine List.pairwise_cons.mpr ⟨fun y hy => ?_, ih hl⟩
      rcases mem_insertBy.mp hy with rfl | hy
      · exact Nat.le_of_not_lt hle
      · exact hz y hy

theorem mem_sortBy {α : Type} {key : α → Nat} {y : α} {l : List α} : y ∈ sortBy key l ↔ y ∈ l := by
  have hfold : ∀ acc : List α, y ∈ l.foldl (fun acc x => insertBy key x acc) acc ↔ y ∈ acc ∨ y ∈ l := by
    induction l with
    | nil => simp
    | cons x l ih =>
      intro acc
      rw [List.foldl_cons, ih, mem_insertBy, List.mem_cons, or_assoc]
      exact or_left_comm
  simpa [sortBy] using hfold []

theorem pairwise_sortBy {α : Type} (key : α → Nat) (l : List α) : (sortBy key l).Pairwise fun a b => key a ≤ key b :=
  List.foldlRecOn l _ List.Pairwise.nil fun _ h _ _ => pairwise_insertBy h

/-- The active threads are among the group's. -/
theorem activeOf_sublist (s : State) (g : GRef) : (s.activeOf g).Sublist (s.groupThreads g) := by
  have hcandidates : (s.candidates g).Sublist (s.groupThreads g) := by
    unfold State.candidates
    dsimp only
    split
    · exact List.filter_sublist
    · exact List.filter_sublist.trans List.filter_sublist
  unfold State.activeOf
  dsimp only
  split
  · exact List.nil_sublist _
  · exact List.filter_sublist.trans hcandidates

theorem active_lanes (s : State) : s.active.Pairwise fun a b => a.lane ≤ b.lane := by
  unfold State.active
  split
  · exact (pairwise_sortBy _ _).sublist (activeOf_sublist s _)
  · exact List.Pairwise.nil

theorem gref_of_inGroup {t : Thread} {g : GRef} (h : t.inGroup g = true) : t.gref = g := by
  simp only [Thread.inGroup, Bool.and_eq_true, beq_iff_eq] at h
  obtain ⟨⟨⟨hcore, hctx⟩, hgroup⟩, -⟩ := h
  rw [Thread.gref, hcore, hctx, hgroup]

theorem gref_of_active {s : State} {t u : Thread} (ht : t ∈ s.active) (hu : u ∈ s.active) : t.gref = u.gref := by
  cases hissue : s.clk.issue with
  | none => simp [State.active, hissue] at ht
  | some g =>
    simp only [State.active, hissue] at ht hu
    have hgroup : ∀ v ∈ s.activeOf g, v.gref = g := fun v hv =>
      gref_of_inGroup (List.mem_filter.mp (mem_sortBy.mp ((activeOf_sublist s g).subset hv))).2
    exact (hgroup t ht).trans (hgroup u hu).symm

/-! ### A group that transfers control (R38, R326) -/

section
variable {s : State} {tm : Team} {g : GRef}

/-- The cycles of a transfer delay the next issue of the group, by one more at width 64. -/
theorem delayIssue_of_group (hgroup : GroupOf s tm g) (n : Nat) : s.delayIssue g n =
    { s with groups := s.groups.map fun k =>
        if k.ref == g then { k with ready := max k.ready (s.clk.cycle + n + (if some tm.header.width = some 64 then 1 else 0)) } else k } := by
  rw [State.delayIssue, show (s.group g).bind (fun k => s.team k.team) = some tm from hgroup]
  rfl

/-- The active threads take new PCs: each its target, or goes on. -/
theorem takeTargets_delayIssue (hgroup : GroupOf s tm g) (act : List Thread) (len n : Nat) (target : Thread → Option W64) :
    (s.takeTargets act len target).delayIssue g n = transferred s tm act g n fun u => (target u).getD (u.pc + BitVec.ofNat 64 len) :=
  delayIssue_of_group (s := s.takeTargets act len target) hgroup n

/-- The participating threads take their targets, and the others go on. -/
theorem takeTargets_guarded (hgroup : GroupOf s tm g) (act : List Thread) (x : Fields) (n : Nat) (target : Thread → W64) :
    (s.takeTargets act x.form.length fun t => if t.guardTrue x.guard then some (target t) else none).delayIssue g n =
      transferred s tm act g n fun u => if u.guardTrue x.guard then target u else nextPc x u := by
  refine (takeTargets_delayIssue hgroup ..).trans (congrArg _ (funext fun u => ?_))
  split <;> rfl

theorem advance_delayIssue (hgroup : GroupOf s tm g) (act : List Thread) (x : Fields) (n : Nat) :
    (s.advance act x.form.length).delayIssue g n = transferred s tm act g n (nextPc x) :=
  delayIssue_of_group (s := s.advance act x.form.length) hgroup n

end

/-! ### BRA (R305) -/

theorem guardTrue_always (t : Thread) : t.guardTrue Guard.always = true := by simp [Thread.guardTrue, Thread.pred, Guard.always]

/-- Settles O14: a branch gives each thread its target or the next address (`takeTargets_delayIssue`); the guard of the base form is always true. -/
theorem branches : Obligations.Branches := by
  unfold Obligations.Branches
  refine ⟨fun off s tm h rest hactive hgroup => ?base, fun x s tm sp h rest hgoes hgroup => ?extended⟩
  case base =>
    show execBraBase off s = _
    rw [execBraBase, hactive, State.branch]
    simp only [guardTrue_always, if_true, takeTargets_delayIssue hgroup, Option.getD_some]
    rfl
  case extended =>
    show execBraExtended x s = _
    rw [execBraExtended, issueThen_of_goes hgoes]
    exact congrArg _ (takeTargets_guarded hgroup _ x 2 fun u => relative u (offsetOf x))

/-! ### Targets that are checked (R304, R331) -/

/-- The trap of a thread whose target is no multiple of 4. -/
def alignTrap (target : Thread → W64) (p : Thread) : Trap := { cause := Cause.align, info := (target p).toNat, lane := p.lane }

section
variable {part : List Thread} {target : Thread → W64}

theorem targetTrap_eq (part : List Thread) (target : Thread → W64) :
    targetTrap (part.map fun t => (t, target t)) = (part.find? fun t => (target t).toNat % 4 != 0).map (alignTrap target) := by
  rw [targetTrap, List.find?_map, Option.map_map]
  rfl

theorem targetTrap_aligned (h : ∀ u ∈ part, (target u).toNat % 4 = 0) : targetTrap (part.map fun t => (t, target t)) = none := by
  rw [targetTrap_eq, List.find?_eq_none.mpr fun u hu => by simp [h u hu]]
  rfl

/-- Of threads in lane order, the one of the lowest lane whose target is not aligned is reported. -/
theorem targetTrap_misaligned (hlanes : part.Pairwise fun a b => a.lane ≤ b.lane) {u : Thread} (hu : u ∈ part) (hbad : (target u).toNat % 4 ≠ 0) :
    ∃ p ∈ part, (target p).toNat % 4 ≠ 0 ∧ (∀ v ∈ part, (target v).toNat % 4 ≠ 0 → p.lane ≤ v.lane) ∧
      targetTrap (part.map fun t => (t, target t)) = some (alignTrap target p) := by
  have hsome : (part.find? fun t => (target t).toNat % 4 != 0).isSome = true := List.find?_isSome.mpr ⟨u, hu, by simpa using hbad⟩
  obtain ⟨p, hp⟩ := Option.isSome_iff_exists.mp hsome
  obtain ⟨hpbad, before, behind, rfl, hbefore⟩ := List.find?_eq_some_iff_append.mp hp
  refine ⟨p, by simp, by simpa using hpbad, fun v hv hvbad => ?_, by rw [targetTrap_eq, hp]; rfl⟩
  rcases List.mem_append.mp hv with hv | hv
  · exact absurd (by simpa using hbefore v hv) hvbad
  · rcases List.mem_cons.mp hv with rfl | hv
    · exact Nat.le_refl _
    · exact (List.pairwise_cons.mp (List.pairwise_append.mp hlanes).2.1).1 v hv

end

section
variable {s : State} {op : Nat} {x : Fields} {tm : Team} {sp : OpSpec} {h : Thread} {rest : List Thread}

theorem partOf_lanes (hgoes : Goes s op x tm sp h rest) : (partOf x (h :: rest)).Pairwise fun a b => a.lane ≤ b.lane :=
  (hgoes.active ▸ active_lanes s).sublist List.filter_sublist

/-! ### JMP and RET (R306, R308) -/

/-- An absolute transfer traps where its targets do, and else takes them. -/
theorem absolute_next (hgoes : Goes s op x tm sp h rest) (hgroup : GroupOf s tm h.gref) (delay : List W64 → Nat) :
    s.absolute op x delay = match targetTrap ((partOf x (h :: rest)).map fun t => (t, targetOf s x t)) with
      | some e => s.trapGroup e
      | none => transferred s tm (h :: rest) h.gref (delay ((partOf x (h :: rest)).map (targetOf s x)))
          fun u => if u.guardTrue x.guard then targetOf s x u else nextPc x u := by
  rw [State.absolute, issueThen_of_goes hgoes]
  simp only [takeTargets_guarded hgroup]
  rfl

theorem exec_jumpShape {i : Instr} {delay : List W64 → Nat} (hshape : jumpShape s i = some (op, x, delay)) :
    exec i s = .next (s.absolute op x delay) := by
  cases i
  case jmp | retBase | retExtended => cases hshape; rfl
  all_goals exact nomatch hshape

end

/-- Settles O15: the targets decide the branch of `absolute_next`. -/
theorem jumpsAndReturns : Obligations.JumpsAndReturns := by
  unfold Obligations.JumpsAndReturns
  intro i op x delay s tm sp h rest hshape hgoes hgroup
  have hexec := (exec_jumpShape hshape).trans (congrArg Host.Outcome.next (absolute_next hgoes hgroup delay))
  refine ⟨fun haligned => ?_, fun u hu hbad => ?_⟩
  · rw [hexec, targetTrap_aligned haligned]
  · obtain ⟨p, hp, hpbad, hlowest, htrap⟩ := targetTrap_misaligned (partOf_lanes hgoes) hu hbad
    exact ⟨p, hp, hpbad, hlowest, by rw [hexec, htrap]; rfl⟩

/-! ### CALL (R307) -/

/-- An active thread behind a CALL: one that participates has the link and is at its target. -/
def calledThread (s : State) (x : Fields) (n : Nat) (target : Thread → W64) (link : W64) (t : Thread) : Thread :=
  if t.guardTrue x.guard then
    { (t.setRegs x.d.toNat (pairWords link)).openWindow x.la.toNat 0 x.d.toNat (readRegs s t x.d.toNat 2) (s.clk.cycle + n) with pc := target t }
  else { t with pc := t.pc + 12 }

def calledThreads (s : State) (x : Fields) (act : List Thread) (n : Nat) (target : Thread → W64) (link : W64) : List Thread :=
  s.threads.map fun t => if !((act.map (·.ref)).contains t.ref) then t else calledThread s x n target link t

/-- The state behind a CALL: its active threads, and its group, which notes the link. -/
def calledState (s : State) (x : Fields) (tm : Team) (act : List Thread) (g : GRef) (n : Nat) (target : Thread → W64) (link : W64) : State :=
  { s with threads := calledThreads s x act n target link
           groups := s.groups.map fun k => if k.ref == g then
             { k with link := some link, ready := max k.ready (s.clk.cycle + n + (if some tm.header.width = some 64 then 1 else 0)) } else k }

theorem calledThread_eq (s : State) (x : Fields) (n : Nat) (target : Thread → W64) (link : W64) (t : Thread) :
    calledThread s x n target link t = if t.guardTrue x.guard
      then { t.setRegs x.d.toNat (pairWords link) with pc := target t, windows := (calledThread s x n target link t).windows }
      else { t with pc := t.pc + 12 } := by
  unfold calledThread
  split
  · rw [Thread.openWindow_frame]
  · rfl

/-- A group that notes an address stays one of its team. -/
theorem groupOf_updGroup {s : State} {tm : Team} {g : GRef} (hgroup : GroupOf s tm g) {f : Group → Group}
    (hf : ∀ k, (f k).ref = k.ref ∧ (f k).team = k.team) : GroupOf (s.updGroup g f) tm g := by
  have hfind : (s.updGroup g f).group g = (s.group g).map f :=
    find?_mapIf_same (fun k hk => (hf k).1.symm ▸ hk) s.groups
  rw [GroupOf, hfind, Option.bind_map]
  exact (congrArg (s.group g).bind (funext fun k => congrArg s.team (hf k).2)).trans hgroup

/-- The group notes the link, and its next issue is delayed. -/
theorem noteLink_delayIssue {s : State} {tm : Team} {g : GRef} (hgroup : GroupOf s tm g) (link : W64) (n : Nat) :
    (s.updGroup g fun k => { k with link := some link }).delayIssue g n = { s with groups := s.groups.map fun k => if k.ref == g then
      { k with link := some link, ready := max k.ready (s.clk.cycle + n + (if some tm.header.width = some 64 then 1 else 0)) } else k } := by
  rw [delayIssue_of_group (groupOf_updGroup hgroup (f := fun k => { k with link := some link }) fun _ => ⟨rfl, rfl⟩)]
  simp only [State.updGroup, mapIf, List.map_map]
  refine congrArg (fun gs => { s with groups := gs }) (List.map_congr_left fun k _ => ?_)
  by_cases hk : (k.ref == g) = true
  · simp only [Function.comp_apply, hk, if_true]
  · simp only [Function.comp_apply, hk, if_false, Bool.false_eq_true]

section
variable {s : State} {x : Fields} {tm : Team} {sp : OpSpec} {h : Thread} {rest : List Thread}

/-- CALL traps where its targets do, and else takes them with its link. -/
theorem callOp_next (hgoes : Goes s 0x5A x tm sp h rest) (hgroup : GroupOf s tm h.gref) (n : Nat) (target : Thread → W64) :
    s.callOp x n target = match targetTrap ((partOf x (h :: rest)).map fun t => (t, target t)) with
      | some e => s.trapGroup e
      | none => calledState s x tm (h :: rest) h.gref n target (h.pc + 12) := by
  rw [State.callOp, issueThen_of_goes hgoes]
  simp only [filter_guardTrue]
  cases targetTrap ((partOf x (h :: rest)).map fun t => (t, target t)) with
  | some e => rfl
  | none => exact noteLink_delayIssue (s := { s with threads := calledThreads s x (h :: rest) n target (h.pc + 12) }) hgroup (h.pc + 12) n

theorem exec_callShape {i : Instr} {target : Thread → W64} {n : Nat} (hshape : callShape s i = some (x, target, n)) :
    exec i s = .next (s.callOp x n target) := by
  cases i
  case call | callReg => cases hshape; rfl
  all_goals exact nomatch hshape

end

/-- Settles O16: the targets decide the branch of `callOp_next`; behind a CALL a thread is `calledThread`. -/
theorem calls : Obligations.Calls := by
  unfold Obligations.Calls
  intro i x target n s tm sp h rest hshape hgoes hgroup
  have hexec := (exec_callShape hshape).trans (congrArg Host.Outcome.next (callOp_next hgoes hgroup n target))
  refine ⟨fun u hu hbad => ?traps, fun haligned => ⟨calledState s x tm (h :: rest) h.gref n target (h.pc + 12), ?_, rfl, rfl, by simp [calledState, calledThreads], ?threads⟩⟩
  case traps =>
    obtain ⟨p, hp, hpbad, hlowest, htrap⟩ := targetTrap_misaligned (partOf_lanes hgoes) hu hbad
    exact ⟨p, hp, hpbad, hlowest, by rw [hexec, htrap]; rfl⟩
  · rw [hexec, targetTrap_aligned haligned]
  case threads =>
    intro k u hk
    refine ⟨_, by rw [calledState, calledThreads, List.getElem?_map, hk, Option.map_some], ?_⟩
    by_cases hidle : (!(((h :: rest).map (·.ref)).contains u.ref)) = true
    · rw [if_pos hidle, if_pos hidle]
    · rw [if_neg hidle, if_neg hidle]
      exact calledThread_eq ..

/-! ### TRAP and NOP (R315, R316) -/

section
variable {s : State} {x : Fields} {tm : Team} {sp : OpSpec} {h : Thread} {rest : List Thread}

theorem trapOp_next (hgoes : Goes s 0x7B x tm sp h rest) (cause : Nat) :
    trapOp s x cause = (((s.advance (idleOf x (h :: rest)) x.form.length).trapThreads ((partOf x (h :: rest)).map fun u => (u.ref, nextPc x u))
      { cause := cause, info := natField x.low.toNat 0 16, kind := .after, lane := (((partOf x (h :: rest)).head?).map (·.lane)).getD 0 }).settle) := by
  rw [trapOp, issueThen_of_goes hgoes]
  rfl

theorem nopOp_next (hgoes : Goes s 0x7D x tm sp h rest) (hgroup : GroupOf s tm h.gref) :
    nopOp s x = transferred s tm (h :: rest) h.gref 2 (nextPc x) := by
  rw [nopOp, issueThen_of_goes hgoes]
  exact advance_delayIssue hgroup ..

theorem exec_nopShape {i : Instr} (hshape : nopShape i = some x) (s : State) : exec i s = .next (nopOp s x) := by
  cases i
  case nopBase | nopExtended => cases hshape; rfl
  all_goals exact nomatch hshape

end

/-- Settles O20: TRAP traps its participating threads with the cause of its form (`trapOp_next`), NOP goes on (`nopOp_next`). -/
theorem trapAndNop : Obligations.TrapAndNop := by
  unfold Obligations.TrapAndNop
  refine fun i x s tm sp h rest => ⟨?trap, ?nop⟩
  case trap =>
    rintro cause (⟨rfl, rfl⟩ | ⟨rfl, rfl⟩) hgoes
    · exact congrArg Host.Outcome.next (trapOp_next hgoes _)
    · exact congrArg Host.Outcome.next (trapOp_next hgoes _)
  case nop =>
    intro hshape hgoes hgroup
    rw [exec_nopShape hshape, nopOp_next hgoes hgroup]

end Sys2Proof.Proofs.Execution
end

section
/-! PROOFS. REFORM and CVG (O17, O18). -/

namespace Sys2Proof.Proofs.Execution

open Sys2Proof Sys2Proof.Machine Sys2Proof.Claims

/-! ### What is found behind an update -/

section
variable {s : State}

theorem thread_updThread_same (t : TRef) {f : Thread → Thread} (hf : ∀ k, (f k).ref = k.ref) : (s.updThread t f).thread t = (s.thread t).map f :=
  find?_mapIf_same (fun k hk => (hf k).symm ▸ hk) s.threads

theorem thread_updThread_ne {t q : TRef} {f : Thread → Thread} (hf : ∀ k, (f k).ref = k.ref) (hq : q ≠ t) : (s.updThread t f).thread q = s.thread q :=
  find?_mapIf_other (fun k hk => by simp [hf, beq_iff_eq.mp hk, hq.symm]) s.threads

theorem team_id {n : Nat} {tm : Team} (h : s.team n = some tm) : tm.id = n := by simpa using List.find?_some h

theorem team_updTeam_same (n : Nat) {f : Team → Team} (hf : ∀ k, (f k).id = k.id) : (s.updTeam n f).team n = (s.team n).map f :=
  find?_mapIf_same (fun k hk => (hf k).symm ▸ hk) s.teams

/-- A group stays one of its team, as that has become. -/
theorem groupOf_updTeam {tm : Team} {g : GRef} (hgroup : GroupOf s tm g) {f : Team → Team} (hf : ∀ k, (f k).id = k.id) :
    GroupOf (s.updTeam tm.id f) (f tm) g := by
  obtain ⟨k, hk, hteam⟩ := Option.bind_eq_some_iff.mp hgroup
  refine Option.bind_eq_some_iff.mpr ⟨k, hk, ?_⟩
  rw [team_id hteam, team_updTeam_same k.team hf, hteam, Option.map_some]

end

/-! ### The bin of greatest age (R42) -/

/-- A fold that keeps the elder of two bins ends at one of greatest age, from a bin that it holds. -/
theorem foldl_elder_from {now : Nat} {step : Option Bin → Bin → Option Bin}
    (hsome : ∀ m b, step (some m) b = if State.Bin.age now m < State.Bin.age now b then some b else some m) (bs : List Bin) (m : Bin) :
    ∃ b ∈ m :: bs, bs.foldl step (some m) = some b ∧ ∀ k ∈ m :: bs, State.Bin.age now k ≤ State.Bin.age now b := by
  induction bs generalizing m with
  | nil => exact ⟨m, List.mem_singleton_self m, rfl, fun k hk => List.mem_singleton.mp hk ▸ Nat.le_refl _⟩
  | cons c bs ih =>
    simp only [List.foldl_cons, hsome]
    by_cases hlt : State.Bin.age now m < State.Bin.age now c
    · obtain ⟨b, hb, hfold, hold⟩ := ih c
      have hm : State.Bin.age now m ≤ State.Bin.age now b := Nat.le_trans (Nat.le_of_lt hlt) (hold c List.mem_cons_self)
      exact ⟨b, List.mem_cons_of_mem m hb, (if_pos hlt).symm ▸ hfold, List.forall_mem_cons.mpr ⟨hm, hold⟩⟩
    · obtain ⟨b, hb, hfold, hold⟩ := ih m
      obtain ⟨hm, hbs⟩ := List.forall_mem_cons.mp hold
      have hc : State.Bin.age now c ≤ State.Bin.age now b := Nat.le_trans (Nat.le_of_not_lt hlt) hm
      have hmem : b ∈ m :: c :: bs := (List.mem_cons.mp hb).elim (fun h => h ▸ List.mem_cons_self) fun h => List.mem_cons_of_mem m (List.mem_cons_of_mem c h)
      exact ⟨b, hmem, (if_neg hlt).symm ▸ hfold, List.forall_mem_cons.mpr ⟨hm, List.forall_mem_cons.mpr ⟨hc, hbs⟩⟩⟩

/-- That fold from no bin, over a list that has one. -/
theorem foldl_elder {now : Nat} {step : Option Bin → Bin → Option Bin} (hnone : ∀ b, step none b = some b)
    (hsome : ∀ m b, step (some m) b = if State.Bin.age now m < State.Bin.age now b then some b else some m) {bs : List Bin} (hne : bs ≠ []) :
    ∃ b ∈ bs, bs.foldl step none = some b ∧ ∀ m ∈ bs, State.Bin.age now m ≤ State.Bin.age now b := by
  cases bs with
  | nil => exact absurd rfl hne
  | cons m bs =>
    rw [List.foldl_cons, hnone]
    exact foldl_elder_from hsome bs m

theorem oldestBin_of_ne_nil (now : Nat) {bs : List Bin} (hne : bs ≠ []) :
    ∃ b ∈ bs, State.oldestBin now bs = some b ∧ ∀ m ∈ bs, State.Bin.age now m ≤ State.Bin.age now b := by
  obtain ⟨a, ha⟩ := List.exists_mem_of_ne_nil bs hne
  have hsorted : sortBy (·.index) bs ≠ [] := List.ne_nil_of_mem (mem_sortBy.mpr ha)
  obtain ⟨b, hb, hfold, hold⟩ := foldl_elder (now := now) (step := fun best b => match best with
    | none => some b
    | some m => if State.Bin.age now m < State.Bin.age now b then some b else some m) (fun _ => rfl) (fun _ _ => rfl) hsorted
  exact ⟨b, mem_sortBy.mp hb, hfold, fun m hm => hold m (mem_sortBy.mpr hm)⟩

/-! ### A filing enters a bin, or waits for one (R42) -/

/-- The bins of a bank, the one that a filing belongs in, and the lowest that is empty. -/
def binsOf (s : State) (c : CoreId) (ctx : Nat) : List Bin := (s.core c).bins.filter fun b => b.ctx == ctx
def ownBin (s : State) (c : CoreId) (f : Filing) : Option Bin :=
  (binsOf s c f.ctx).find? fun b => b.team == f.team && b.pc == f.pc && b.key == f.key
def freeBin (s : State) (c : CoreId) (ctx : Nat) : Option Nat :=
  (List.range Config.sieveBins).find? fun i => !((binsOf s c ctx).any fun b => b.index == i)

/-- A core after a filing: in its own bin, in an empty one, or waiting. -/
def withThread (b : Bin) (slot done : Nat) (k : Core) : Core :=
  { k with bins := mapIf (fun m => m == b) (fun m => { m with threads := m.threads ++ [(slot, done)] }) k.bins }
def withBin (b : Bin) (k : Core) : Core := { k with bins := k.bins ++ [b] }
def withFiling (oldest : Option Bin) (f : Filing) (k : Core) : Core :=
  { k with filings := k.filings ++ [f]
           forced := match oldest with
             | some b => if k.forced.any fun p => p.1 == f.ctx then k.forced else k.forced ++ [(f.ctx, b.index)]
             | none => k.forced }

theorem withThread_id (b : Bin) (slot done : Nat) (k : Core) : (withThread b slot done k).id = k.id := rfl
theorem withBin_id (b : Bin) (k : Core) : (withBin b k).id = k.id := rfl
theorem withFiling_id (oldest : Option Bin) (f : Filing) (k : Core) : (withFiling oldest f k).id = k.id := rfl

section
variable {s : State} {c : CoreId} {f : Filing}

theorem enterBin_own {b : Bin} (hown : ownBin s c f = some b) :
    s.enterBin c f = s.updCore c (withThread b f.slot (s.bankTime c f.ctx + 1)) := by
  unfold ownBin binsOf at hown
  simp only [State.enterBin, State.placeFiling, hown, Option.getD_some]
  rfl

theorem enterBin_free {i : Nat} (hown : ownBin s c f = none) (hfree : freeBin s c f.ctx = some i) :
    s.enterBin c f = s.updCore c (withBin ⟨f.ctx, i, f.team, f.pc, f.key, [(f.slot, s.bankTime c f.ctx + 1)]⟩) := by
  unfold ownBin binsOf at hown
  unfold freeBin binsOf at hfree
  simp only [State.enterBin, State.placeFiling, hown, hfree, Option.map_some, Option.getD_some]
  rfl

theorem enterBin_waits (hown : ownBin s c f = none) (hfree : freeBin s c f.ctx = none) :
    s.enterBin c f = s.updCore c (withFiling (State.oldestBin (s.bankTime c f.ctx) (binsOf s c f.ctx)) f) := by
  unfold ownBin binsOf at hown
  unfold freeBin binsOf at hfree
  simp only [State.enterBin, State.placeFiling, hown, hfree, Option.map_none, Option.getD_none]
  rfl

/-- The change of a filing's core keeps the core's number. -/
theorem enterBin_updCore_id (s : State) (c : CoreId) (f : Filing) : ∃ g : Core → Core, (∀ k, (g k).id = k.id) ∧ s.enterBin c f = s.updCore c g := by
  cases hown : ownBin s c f with
  | some b => exact ⟨_, withThread_id _ _ _, enterBin_own hown⟩
  | none =>
    cases hfree : freeBin s c f.ctx with
    | some i => exact ⟨_, withBin_id _, enterBin_free hown hfree⟩
    | none => exact ⟨_, withFiling_id _ _, enterBin_waits hown hfree⟩

/-- A bank without an empty bin has a bin of greatest age. -/
theorem oldestBin_of_full {ctx : Nat} (now : Nat) (hfull : freeBin s c ctx = none) :
    ∃ b ∈ binsOf s c ctx, State.oldestBin now (binsOf s c ctx) = some b ∧ ∀ m ∈ binsOf s c ctx, State.Bin.age now m ≤ State.Bin.age now b := by
  refine oldestBin_of_ne_nil now fun hnil => ?_
  have hzero := List.find?_eq_none.mp hfull 0 (List.mem_range.mpr (by decide))
  simp [hnil] at hzero

theorem withFiling_forced_listed {oldest : Option Bin} {k : Core} (h : ∃ p ∈ k.forced, p.1 = f.ctx) : (withFiling oldest f k).forced = k.forced := by
  have hlisted : (k.forced.any fun p => p.1 == f.ctx) = true := by simpa using h
  cases oldest with
  | none => rfl
  | some b => exact if_pos hlisted

theorem withFiling_forced_new {b : Bin} {k : Core} (h : ∀ p ∈ k.forced, p.1 ≠ f.ctx) :
    (withFiling (some b) f k).forced = k.forced ++ [(f.ctx, b.index)] := by
  have hunlisted : (k.forced.any fun p => p.1 == f.ctx) = false := by simpa using h
  exact if_neg (Bool.eq_false_iff.mp hunlisted)

end

/-! ### REFORM (R309) -/

/-- A thread that has left its group to be filed at a PC, and the move that it was under (R42, R332). -/
def filedThread (pc : W64) (h : Thread) : Thread :=
  { h with status := .binned, pc := pc, moving := false, group := if h.status == .parked then Config.bankGroups else h.group }
def leftGroup (s : State) (t : TRef) (pc : W64) : State :=
  { s.updThread t (filedThread pc) with clk := { s.clk with timers := s.clk.timers.filter fun q => q.2 != .threadMove t } }

theorem fileThread_eq {s : State} {t : TRef} {h : Thread} (hthread : s.thread t = some h) (pc : W64) (key : Nat) :
    s.fileThread t pc key = (leftGroup s t pc).enterBin t.core ⟨t.ctx, h.team, t.slot, pc, key⟩ := by
  rw [State.fileThread, hthread]
  rfl

/-- Settles O17: a thread that is filed leaves its group (`fileThread_eq`) and changes its core as its bin is found (`enterBin_own`, `enterBin_free`,
`enterBin_waits`); REFORM files the participating threads one after another. -/
theorem reform : Obligations.Reform := by
  unfold Obligations.Reform
  refine ⟨?files, ?reform⟩
  case files =>
    intro s t pc key h hthread u old mine own free done
    let f : Filing := ⟨t.ctx, h.team, t.slot, pc, key⟩
    have hu : u = (leftGroup s t pc).enterBin t.core f := fileThread_eq hthread pc key
    obtain ⟨g, hid, henters⟩ := enterBin_updCore_id (leftGroup s t pc) t.core f
    have hframe : u = (leftGroup s t pc).updCore t.core g := hu.trans henters
    have hthreads : u.threads = (s.updThread t (filedThread pc)).threads := by rw [hframe, State.updCore_threads]; rfl
    have hfound : ∀ q, u.thread q = (s.updThread t (filedThread pc)).thread q := fun q => congrArg (List.find? fun k : Thread => k.ref == q) hthreads
    have hcore : ∀ {g' : Core → Core}, (∀ k, (g' k).id = k.id) → (leftGroup s t pc).enterBin t.core f = (leftGroup s t pc).updCore t.core g' →
        u.core t.core = g' old := fun hid' henters' => by rw [hu, henters', core_updCore_same _ _ hid']; rfl
    refine ⟨?_, fun q hq => ?_, fun c hc => ?_, ?_, ?_, fun b hown => ?_, fun i hown hfree => ?_, fun hown hfree => ?_⟩
    · rw [hfound, thread_updThread_same t (f := filedThread pc) fun _ => rfl, hthread]
      simp [filedThread]
    · exact (hfound q).trans (thread_updThread_ne (f := filedThread pc) (fun _ => rfl) hq)
    · rw [hframe, core_updCore_ne _ hid hc]
      rfl
    · rw [hframe, State.updCore_clk]
      rfl
    · rw [hframe]
      exact congrArg (fun w : State => { w with threads := s.threads, cores := s.cores, clk := s.clk }) (updCore_frame (leftGroup s t pc) t.core g)
    · rw [hcore (withThread_id _ _ _) (enterBin_own (s := leftGroup s t pc) (f := f) hown)]
      simp only [withThread, mapIf, beq_iff_eq]
      rfl
    · rw [hcore (withBin_id _) (enterBin_free (s := leftGroup s t pc) (f := f) hown hfree)]
      rfl
    · have hwaits := hcore (withFiling_id _ _) (enterBin_waits (s := leftGroup s t pc) (f := f) hown hfree)
      refine ⟨by rw [hwaits]; rfl, fun hlisted => ?_, fun hunlisted => ?_⟩
      · rw [hwaits]
        exact withFiling_forced_listed (f := f) hlisted
      · obtain ⟨b, hb, holdest, hage⟩ := oldestBin_of_full (c := t.core) (s.bankTime t.core t.ctx) hfree
        refine ⟨b, hb, ?_, hage⟩
        rw [hwaits]
        exact (congrArg (fun o => (withFiling o f old).forced) holdest).trans (withFiling_forced_new (f := f) hunlisted)
  case reform =>
    intro x s tm sp h rest hgoes hgroup
    show execReform x s = _
    rw [execReform, issueThen_of_goes hgoes, ← advance_delayIssue hgroup (idleOf x (h :: rest)) x 2]
    rfl

/-! ### CVG on the holding core (R51, R52, R310) -/

section
variable {s : State} {tm : Team} {n : Nat} {c : Cvg} {ts : List (TRef × Option Vote)}

theorem convergeEvent_misused (join : Bool) (hc : tm.cvgs[n]? = some c) (hbad : c.misused join (ts.map (·.1)) ≠ []) :
    s.convergeEvent tm n join ts = .error (c.misused join (ts.map (·.1))) := by
  rw [State.convergeEvent, hc]
  dsimp only
  split
  · next h => exact absurd h hbad
  · rfl

theorem convergeEvent_declares (hc : tm.cvgs[n]? = some c) (hok : c.misused false (ts.map (·.1)) = []) :
    s.convergeEvent tm n false ts = .ok (declared s tm n (ts.map (·.1))) := by
  rw [State.convergeEvent, hc]
  dsimp only
  rw [hok]
  rfl

theorem convergeEvent_joins (hc : tm.cvgs[n]? = some c) (hok : c.misused true (ts.map (·.1)) = []) :
    s.convergeEvent tm n true ts = .ok (joined s tm n ts) := by
  rw [State.convergeEvent, hc]
  dsimp only
  rw [hok]
  rfl

end

section
variable {s : State} {x : Fields} {tm : Team} {sp : OpSpec} {h p : Thread} {rest ps : List Thread}

/-- A CVG with a participating lane is a cancellation point where it joins, leaves for the holding core where that is another, and else
takes effect. -/
theorem cvgOp_next (hgoes : Goes s 0x5D x tm sp h rest) (hpart : partOf x (h :: rest) = p :: ps) :
    let n := x.d.toNat % 16
    let join := x.xop.getLsbD 0
    s.cvgOp x =
      if join && State.observes tm p then ended (s.advance (idleOf x (h :: rest)) x.form.length) ((p :: ps).map (·.ref)) .cancelled
      else if holdTransit tm p.ref.core ≠ 0 then sentToHold s tm 0x5D x h (h :: rest) fun _ => 0
      else match s.convergeEvent tm n join ((p :: ps).map fun t => (t.ref, none)) with
        | .error bad => s.trapGroup (misuseTrap 0x5D n (s.laneOfRef bad))
        | .ok s' => if join then s'.advance (idleOf x (h :: rest)) x.form.length else (s'.advance (h :: rest) x.form.length).delayIssue p.gref 4 := by
  rw [State.cvgOp, issueThen_of_goes hgoes]
  simp only [filter_guardTrue, hpart]
  rfl

end

/-! ### CVG from another core (R36) -/

section
variable {s : State} {a : Arrival} {tm : Team}

theorem arrives_cvg (hteam : s.team a.team = some tm) (hanswer : a.answer = false) (hop : a.op = 0x5D) :
    s.arrives a = (taken s a).cvgArrives tm a := by
  have hteam' : (taken s a).team a.team = some tm := hteam
  unfold taken at hteam' ⊢
  simp only [State.arrives, hteam', hanswer, hop, Bool.false_eq_true, if_false]

theorem arrives_answer (hteam : (s.team a.team).isSome = true) (hanswer : a.answer = true) :
    s.arrives a = (taken s a).eventAnswered a (eventNumber a) := by
  obtain ⟨tm, htm⟩ := Option.isSome_iff_exists.mp hteam
  have hteam' : (taken s a).team a.team = some tm := htm
  unfold taken at hteam' ⊢
  simp only [State.arrives, hteam', hanswer, if_true]
  rfl

/-- An event takes effect as it arrives, for the threads that have not ended, and is answered. -/
theorem cvgArrives_eq (s : State) (tm : Team) (a : Arrival) :
    s.cvgArrives tm a = match s.convergeEvent tm (a.x.d.toNat % 16) (a.x.xop.getLsbD 0) ((livePart s a).map fun t => (t, none)) with
      | .error bad => answered s tm a 1 (laneOfFirst s bad) (liveAll s a)
      | .ok s' => answered s' tm a 0 0 (if a.x.xop.getLsbD 0 then (liveAll s a).filter fun t => !((livePart s a).contains t) else liveAll s a) := by
  rw [State.cvgArrives]
  simp only [alive_eq_live]
  rfl

end

/-- Settles O18: at issue the conditions name the branch of `cvgOp_next`, at the holding core what the event meets is that of `cvgArrives_eq`, and an
answer lets its threads go on, or traps them (`arrives_answer`). -/
theorem converge : Obligations.Converge := by
  unfold Obligations.Converge
  refine ⟨?leaves, ?arrives, ?answered, ?here⟩
  case leaves =>
    intro i x s tm sp h rest p ps hshape hgoes hpart hfar hcore hobserves
    have hexec : exec i s = .next (s.cvgOp x) := by rcases hshape with rfl | rfl <;> rfl
    have hgoesOn : ¬ (x.xop.getLsbD 0 && State.observes tm p) = true := by
      rw [Bool.and_eq_true_iff]
      exact fun ⟨hjoin, hobs⟩ => Bool.false_ne_true ((hobserves hjoin).symm.trans hobs)
    rw [hexec, cvgOp_next hgoes hpart, if_neg hgoesOn, if_pos hfar]
  case arrives =>
    intro s a tm c hteam hanswer hop hc s1 all part bad
    have harrives := (arrives_cvg hteam hanswer hop).trans (cvgArrives_eq s1 tm a)
    have hrefs : (part.map fun t => ((t, none) : TRef × Option Vote)).map (·.1) = part := (List.map_map ..).trans (List.map_id part)
    refine ⟨fun hok hdecl => ?_, fun hok hjoin => ?_, fun hbad => ?_⟩
    · rw [harrives, hdecl, convergeEvent_declares hc (by rw [hrefs, ← hdecl]; exact hok), hrefs]
      rfl
    · rw [harrives, hjoin, convergeEvent_joins hc (by rw [hrefs, ← hjoin]; exact hok)]
      rfl
    · rw [harrives, convergeEvent_misused _ hc (by rw [hrefs]; exact hbad), hrefs]
  case answered =>
    intro s a hteam hanswer s1 ts gone
    have harrives := arrives_answer hteam hanswer
    refine ⟨fun hgoesOn => ?_, fun hmisuse => ?_⟩
    · rw [harrives, State.eventAnswered, if_neg hgoesOn, alive_eq_live]
      simp only [Bool.and_eq_true, decide_eq_true_eq, Bool.not_eq_true']
      rfl
    · rw [harrives, State.eventAnswered, if_pos hmisuse, alive_eq_live]
      rfl
  case here =>
    intro x s tm sp h rest p ps c hgoes hgroup hpart hhere hc hok
    have hrefs : ((p :: ps).map fun t => ((t.ref, none) : TRef × Option Vote)).map (·.1) = (p :: ps).map (·.ref) := List.map_map ..
    have hnext := cvgOp_next hgoes hpart
    refine ⟨fun hdecl hgref => ?_, fun hjoin hobserves => ?_, fun hjoin hobserves => ?_⟩
    · show Host.Outcome.next (s.cvgOp x) = _
      have hevent := convergeEvent_declares (s := s) (ts := (p :: ps).map fun t => (t.ref, none)) hc (by rw [hrefs, ← hdecl]; exact hok)
      have hgroup' := groupOf_updTeam hgroup (f := fun k => { k with cvgs := modifyAt (fun c => c.declare ((p :: ps).map (·.ref))) (x.d.toNat % 16) k.cvgs })
        fun _ => rfl
      rw [hnext]
      simp only [hdecl, Bool.false_and, Bool.false_eq_true, if_false, hhere, ne_eq, not_true, hevent, hrefs, hgref]
      exact congrArg _ (advance_delayIssue hgroup' (h :: rest) x 4)
    · show Host.Outcome.next (s.cvgOp x) = _
      have hevent := convergeEvent_joins (s := s) (ts := (p :: ps).map fun t => (t.ref, none)) hc (by rw [hrefs, ← hjoin]; exact hok)
      rw [hnext]
      simp only [hjoin, hobserves, Bool.and_false, Bool.false_eq_true, if_false, hhere, ne_eq, not_true, hevent, if_true]
    · show Host.Outcome.next (s.cvgOp x) = _
      rw [hnext, if_pos (by rw [hjoin, hobserves]; rfl)]

end Sys2Proof.Proofs.Execution
end

section
/-! PROOFS. EXIT and YIELD, and the end of a thread (O19). -/

namespace Sys2Proof.Proofs.Execution

open Sys2Proof Sys2Proof.Machine Sys2Proof.Claims

/-! ### What a thread leaves behind (R51, R56, R57, R299, R359) -/

/-- A team after a thread has left its convergence registers, its stages and acquires, and the handles of its half. -/
def cvgsLeft (t : TRef) (tm : Team) : Team := { tm with cvgs := tm.cvgs.map (leftCvg t) }
def acquiresLeft (t : TRef) (tm : Team) : Team :=
  { tm with rings := tm.rings.map fun r => { leftRing tm t r with stages := r.stages } }
def ringsLeft (t : TRef) (tm : Team) : Team := { tm with rings := tm.rings.map (leftRing tm t) }
def handlesLeft (t : TRef) (tm : Team) : Team :=
  if tm.header.shape = 2 ∧ t.core.die = 1 then { tm with handles1 := tm.handles1.map (leftHandle t) }
  else { tm with handles := tm.handles.map (leftHandle t) }

theorem handlesLeft_half {t : TRef} {tm : Team} (hhalf : tm.header.shape = 2 ∧ t.core.die = 1) :
    handlesLeft t tm = { tm with handles1 := tm.handles1.map (leftHandle t) } := if_pos hhalf

theorem handlesLeft_other {t : TRef} {tm : Team} (hhalf : ¬ (tm.header.shape = 2 ∧ t.core.die = 1)) :
    handlesLeft t tm = { tm with handles := tm.handles.map (leftHandle t) } := if_neg hhalf

theorem handlesLeft_id (t : TRef) (tm : Team) : (handlesLeft t tm).id = tm.id := by
  unfold handlesLeft
  split <;> rfl

theorem leave_eq_leftCvg (c : Cvg) (t : TRef) : State.Cvg.leave c t = leftCvg t c := by
  unfold State.Cvg.leave leftCvg
  simp only [Bool.or_eq_true, Bool.not_eq_true']
  rfl

theorem depart_eq_departed (h : Thread) (b : Barrier) :
    (if !(b.teams.contains h.team) then b
     else if b.waiters.contains h.ref then
       { b with bwmax := max b.bwmax h.wmax, gone := max b.gone h.wmax, waiters := b.waiters.filter (· != h.ref), late := b.late + 1 }
     else { b with bwmax := max b.bwmax h.wmax, gone := max b.gone h.wmax, dep := b.dep + 1 }) = departed h b := by
  simp only [departed, Bool.not_eq_true']

theorem updTeam_updTeam (s : State) (n : Nat) {f : Team → Team} (hf : ∀ k, (f k).id = k.id) (g : Team → Team) :
    (s.updTeam n f).updTeam n g = s.updTeam n (g ∘ f) := by
  simp only [State.updTeam, mapIf, List.map_map]
  refine congrArg (fun ts => { s with teams := ts }) (List.map_congr_left fun k _ => ?_)
  by_cases hk : (k.id == n) = true
  · simp only [Function.comp_apply, hk, hf, if_true]
  · simp only [Function.comp_apply, hk, if_false, Bool.false_eq_true]

section
variable (s : State) (t : TRef) (n : Nat)

theorem leaveCvgs_frame : { s.leaveCvgs t n with teams := s.teams, tile := s.tile } = s := by
  unfold State.leaveCvgs
  dsimp only
  split <;> rfl

theorem leaveCvgs_team : (s.leaveCvgs t n).team n = (s.team n).map (cvgsLeft t) := by
  have hteams : (s.leaveCvgs t n).teams = (s.updTeam n (cvgsLeft t)).teams := by
    simp only [State.leaveCvgs, leave_eq_leftCvg]
    split <;> rfl
  exact (congrArg (List.find? fun k : Team => k.id == n) hteams).trans (team_updTeam_same n fun _ => rfl)

theorem exitRings_eq : s.exitRings t n = s.updTeam n (ringsLeft t) := by
  refine (updTeam_updTeam s n (f := acquiresLeft t) (fun _ => rfl) _).trans (congrArg (s.updTeam n) (funext fun tm => ?_))
  simp only [Function.comp_apply, acquiresLeft, ringsLeft, List.map_map, leftRing, beq_iff_eq]
  rfl

theorem exitRings_team : (s.exitRings t n).team n = (s.team n).map (ringsLeft t) := by
  rw [exitRings_eq]
  exact team_updTeam_same n fun _ => rfl

theorem departBarriers_eq (h : Thread) : s.departBarriers h =
    { s with ctxs := modifyAt (fun c => { c with barriers := c.barriers.map fun p => (p.1, departed h p.2) }) h.ref.ctx s.ctxs } := by
  simp only [← depart_eq_departed]
  rfl

theorem drainSlots_frame (die site : Nat) (ks : List Nat) : { ks.foldl (fun s k => s.drainSlot die site k) s with tile := s.tile } = s :=
  foldl_keeps (π := fun u : State => { u with tile := s.tile }) (f := fun s k => s.drainSlot die site k) (fun _ _ => rfl) ks s

/-- The slots of its handles drain, and its team's half lists them as empty. -/
theorem exitHandles_eq {tm : Team} (hteam : s.team n = some tm) :
    ∃ ks : List Nat, s.exitHandles t n = (ks.foldl (fun s k => s.drainSlot t.core.die t.core.site k) s).updTeam n (handlesLeft t) := by
  rw [State.exitHandles, hteam]
  refine ⟨_, congrArg (State.updTeam _ n) (funext fun k => ?_)⟩
  simp only [handlesLeft, Bool.and_eq_true, Bool.or_eq_true, beq_iff_eq, decide_eq_true_eq]
  rfl

theorem exitHandles_frame : { s.exitHandles t n with teams := s.teams, tile := s.tile } = s := by
  cases hteam : s.team n with
  | none => rw [State.exitHandles, hteam]
  | some tm =>
    obtain ⟨ks, hks⟩ := exitHandles_eq s t n hteam
    rw [hks]
    exact (congrArg (fun u : State => { u with teams := s.teams }) (drainSlots_frame s t.core.die t.core.site ks) :)

theorem exitHandles_team : (s.exitHandles t n).team n = (s.team n).map (handlesLeft t) := by
  cases hteam : s.team n with
  | none => rw [State.exitHandles, hteam]; exact hteam
  | some tm =>
    obtain ⟨ks, hks⟩ := exitHandles_eq s t n hteam
    have hdrained : (ks.foldl (fun s k => s.drainSlot t.core.die t.core.site k) s).team n = s.team n :=
      (congrArg (fun u : State => u.team n) (drainSlots_frame s t.core.die t.core.site ks) :)
    rw [hks, team_updTeam_same n (handlesLeft_id t), hdrained, hteam]

end

/-! ### The end of a thread (R59, R311) -/

/-- A thread that has ended, and the state when it has left what its team shares, before its team may end. -/
def endedThread (how : Ending) (h : Thread) : Thread := { h with status := .exited how, dying := none, fence := none, moving := false }
def threadLeft (s : State) (t : TRef) (how : Ending) (h : Thread) : State :=
  (((((s.updThread t (endedThread how)).leaveCvgs t h.team).exitRings t h.team).departBarriers h).exitHandles t h.team).ceaseGroups

/-- Nothing but threads, groups, teams, contexts, cores and the tile store has changed. -/
def OnlyLeft (s u : State) : Prop :=
  { u with threads := s.threads, groups := s.groups, teams := s.teams, ctxs := s.ctxs, cores := s.cores, tile := s.tile } = s

theorem OnlyLeft.trans {s u v : State} (h₁ : OnlyLeft s u) (h₂ : OnlyLeft u v) : OnlyLeft s v :=
  (congrArg (fun w : State =>
    { w with threads := s.threads, groups := s.groups, teams := s.teams, ctxs := s.ctxs, cores := s.cores, tile := s.tile }) h₂ :).trans h₁

theorem onlyLeft_leaveCvgs (s : State) (t : TRef) (n : Nat) : OnlyLeft s (s.leaveCvgs t n) :=
  (congrArg (fun w : State => { w with threads := s.threads, groups := s.groups, ctxs := s.ctxs, cores := s.cores }) (leaveCvgs_frame s t n) :)

theorem onlyLeft_exitRings (s : State) (t : TRef) (n : Nat) : OnlyLeft s (s.exitRings t n) := rfl

theorem onlyLeft_departBarriers (s : State) (h : Thread) : OnlyLeft s (s.departBarriers h) := rfl

theorem onlyLeft_exitHandles (s : State) (t : TRef) (n : Nat) : OnlyLeft s (s.exitHandles t n) :=
  (congrArg (fun w : State => { w with threads := s.threads, groups := s.groups, ctxs := s.ctxs, cores := s.cores }) (exitHandles_frame s t n) :)

theorem onlyLeft_ceaseGroups (s : State) : OnlyLeft s s.ceaseGroups :=
  (congrArg (fun w : State => { w with threads := s.threads, teams := s.teams, ctxs := s.ctxs, tile := s.tile }) (ceaseGroups_frame s) :)

section
variable (s : State) (t : TRef) (how : Ending) (h : Thread)

theorem onlyLeft_threadLeft : OnlyLeft s (threadLeft s t how h) :=
  have hended : OnlyLeft s (s.updThread t (endedThread how)) := rfl
  ((((hended.trans (onlyLeft_leaveCvgs _ t h.team)).trans (onlyLeft_exitRings _ t h.team)).trans (onlyLeft_departBarriers _ h)).trans
    (onlyLeft_exitHandles _ t h.team)).trans (onlyLeft_ceaseGroups _)

theorem threadLeft_threads : (threadLeft s t how h).threads = (s.updThread t (endedThread how)).threads := by
  have hceased : ∀ u : State, u.ceaseGroups.threads = u.threads := fun u => (congrArg State.threads (ceaseGroups_frame u) :)
  have hhandles : ∀ u : State, (u.exitHandles t h.team).threads = u.threads := fun u => (congrArg State.threads (exitHandles_frame u t h.team) :)
  have hcvgs : ∀ u : State, (u.leaveCvgs t h.team).threads = u.threads := fun u => (congrArg State.threads (leaveCvgs_frame u t h.team) :)
  rw [threadLeft, hceased, hhandles]
  exact hcvgs _

theorem threadLeft_ctxs : (threadLeft s t how h).ctxs =
    modifyAt (fun c => { c with barriers := c.barriers.map fun p => (p.1, departed h p.2) }) h.ref.ctx s.ctxs := by
  have hceased : ∀ u : State, u.ceaseGroups.ctxs = u.ctxs := fun u => (congrArg State.ctxs (ceaseGroups_frame u) :)
  have hhandles : ∀ u : State, (u.exitHandles t h.team).ctxs = u.ctxs := fun u => (congrArg State.ctxs (exitHandles_frame u t h.team) :)
  have hcvgs : ∀ u : State, (u.leaveCvgs t h.team).ctxs = u.ctxs := fun u => (congrArg State.ctxs (leaveCvgs_frame u t h.team) :)
  rw [threadLeft, hceased, hhandles, departBarriers_eq]
  exact congrArg _ (hcvgs _)

theorem threadLeft_team : (threadLeft s t how h).team h.team =
    (s.team h.team).map fun tm => handlesLeft t (ringsLeft t (cvgsLeft t tm)) := by
  have hceased : ∀ u : State, u.ceaseGroups.team h.team = u.team h.team := fun u => (congrArg (fun w : State => w.team h.team) (ceaseGroups_frame u) :)
  have hbarriers : ∀ u : State, (u.departBarriers h).team h.team = u.team h.team := fun _ => rfl
  rw [threadLeft, hceased, exitHandles_team, hbarriers, exitRings_team, leaveCvgs_team, Option.map_map, Option.map_map]
  rfl

end

/-! ### The end of a team (R59, R70) -/

/-- A team that ends leaves the list of teams, and its threads that of threads. -/
theorem endTeam_lists (s : State) (tm : Team) (how : Ending) (retires : Bool) :
    (s.endTeam tm how retires).teams = s.teams.filter (fun t => t.id != tm.id) ∧
      (s.endTeam tm how retires).threads = s.threads.filter fun h => h.team != tm.id := by
  have hfilings : ∀ (ps : List Part) (t : State),
      ((ps.foldl (fun s p => s.settleFilings p.core tm.ctx) t).teams, (ps.foldl (fun s p => s.settleFilings p.core tm.ctx) t).threads) = (t.teams, t.threads) :=
    foldl_keeps (π := fun t : State => (t.teams, t.threads)) fun t p => (congrArg (fun u : State => (u.teams, u.threads)) (settleFilings_frame t p.core tm.ctx) :)
  have hgroups : ∀ t : State, (t.ceaseGroups.teams, t.ceaseGroups.threads) = (t.teams, t.threads) :=
    fun t => (congrArg (fun u : State => (u.teams, u.threads)) (ceaseGroups_frame t) :)
  have hretire : ∀ (t : State) (n : Nat) (r : Record) (ok : Bool), ((t.retire n r ok).teams, (t.retire n r ok).threads) = (t.teams, t.threads) :=
    fun t n r ok => by rw [(retire_parts t n r ok).1, (retire_parts t n r ok).2.1]
  apply Prod.mk.inj
  unfold State.endTeam
  dsimp only
  split
  · exact (hfilings _ _).trans (hgroups _)
  · split
    · exact (hretire _ _ _ _).trans ((hfilings _ _).trans (hgroups _))
    · exact (hfilings _ _).trans (hgroups _)

/-! ### A thread begins to end, or ends (R311) -/

section
variable {s : State} {t : TRef} {how : Ending} {h : Thread} {tm : Team}

theorem exitThread_waits (hout : s.outstanding t = true) (hthread : s.thread t = some h) : s.exitThread t how =
    (s.updTeam h.team (acquiresLeft t)).updThread t fun h => if h.exited then h else { h with dying := some how, status := .eligible, handler := false } := by
  rw [State.exitThread, if_pos hout, hthread]
  rfl

/-- Without accesses outstanding a thread ends; its team ends where no other of its threads lives. -/
theorem exitThread_ends (hout : s.outstanding t = false) (hthread : s.thread t = some h) (halive : h.exited = false)
    (hteam : (threadLeft s t how h).team h.team = some tm) :
    let u := threadLeft s t how h
    let ts := u.threads.filter fun k => k.team == tm.id
    s.exitThread t how = if ts.all (·.exited) then u.endTeam tm (State.teamResult ts) true else u := by
  rw [State.exitThread, if_neg (Bool.eq_false_iff.mp hout)]
  unfold threadLeft endedThread at *
  simp only [State.exitNow, hthread, halive, hteam, Bool.false_eq_true, if_false]

theorem mem_threadLeft_threads {k : Thread} (hk : k ∈ (threadLeft s t how h).threads) : k.exited = true ∨ k ∈ s.threads ∧ k.ref ≠ t := by
  rw [threadLeft_threads] at hk
  obtain ⟨q, hq, rfl⟩ := List.mem_map.mp hk
  by_cases hqt : (q.ref == t) = true
  · exact .inl (by rw [if_pos hqt]; rfl)
  · rw [if_neg hqt]
    exact .inr ⟨hq, fun h => hqt (beq_iff_eq.mpr h)⟩

theorem mem_threadLeft_of_ne {k : Thread} (hk : k ∈ s.threads) (hkt : k.ref ≠ t) : k ∈ (threadLeft s t how h).threads := by
  rw [threadLeft_threads]
  exact List.mem_map.mpr ⟨k, hk, if_neg fun h => hkt (beq_iff_eq.mp h)⟩

theorem exitThread_stays (hout : s.outstanding t = false) (hthread : s.thread t = some h) (halive : h.exited = false)
    (hteam : (threadLeft s t how h).team h.team = some tm) (hmate : ∃ k ∈ s.threads, k.team = h.team ∧ k.ref ≠ t ∧ k.exited = false) :
    s.exitThread t how = threadLeft s t how h := by
  obtain ⟨k, hk, hkteam, hkref, hkalive⟩ := hmate
  refine (exitThread_ends hout hthread halive hteam).trans (if_neg fun hall => ?_)
  have hours : (k.team == tm.id) = true := beq_iff_eq.mpr (hkteam.trans (team_id hteam).symm)
  exact Bool.false_ne_true (hkalive.symm.trans (List.all_eq_true.mp hall k (List.mem_filter.mpr ⟨mem_threadLeft_of_ne hk hkref, hours⟩)))

theorem exitThread_last (hout : s.outstanding t = false) (hthread : s.thread t = some h) (halive : h.exited = false)
    (hteam : (threadLeft s t how h).team h.team = some tm) (hlast : ∀ k ∈ s.threads, k.team = h.team → k.ref ≠ t → k.exited = true) :
    ∃ how', s.exitThread t how = (threadLeft s t how h).endTeam tm how' true := by
  refine ⟨_, (exitThread_ends hout hthread halive hteam).trans (if_pos (List.all_eq_true.mpr fun k hk => ?_))⟩
  obtain ⟨hk, hours⟩ := List.mem_filter.mp hk
  rcases mem_threadLeft_threads hk with hended | ⟨hk, hkt⟩
  · exact hended
  · exact hlast k hk ((beq_iff_eq.mp hours).trans (team_id hteam)) hkt

end

/-! ### EXIT and YIELD (R311, R312) -/

section
variable {s : State} {x : Fields} {tm : Team} {sp : OpSpec} {h : Thread} {rest : List Thread}

theorem exec_exitShape {i : Instr} (hshape : exitShape i = some x) (s : State) : exec i s = .next (s.exitOp x) := by
  cases i
  case exitBase | exitExtended => cases hshape; rfl
  all_goals exact nomatch hshape

theorem exec_yieldShape {i : Instr} (hshape : yieldShape i = some x) (s : State) : exec i s = .next (s.yieldOp x) := by
  cases i
  case yieldBase | yieldExtended => cases hshape; rfl
  all_goals exact nomatch hshape

theorem exitOp_next (hgoes : Goes s 0x5E x tm sp h rest) :
    s.exitOp x = ended ((s.advance (idleOf x (h :: rest)) x.form.length).delayIssue h.gref 1) ((partOf x (h :: rest)).map (·.ref)) .normal := by
  rw [State.exitOp, issueThen_of_goes hgoes]
  rfl

theorem yieldOp_next (hgoes : Goes s 0x5F x tm sp h rest) (hgroup : GroupOf s tm h.gref) :
    s.yieldOp x = (transferred s tm (h :: rest) h.gref 2 (nextPc x)).yieldGroup h.gref := by
  rw [State.yieldOp, issueThen_of_goes hgoes]
  exact congrArg (State.yieldGroup · h.gref) (advance_delayIssue hgroup ..)

/-- YIELD.chk ends its participating threads where one of them observes the cancel flag, and else is a YIELD; their group is that of the active threads. -/
theorem execYieldChk_next (hgoes : Goes s 0x5F x tm sp h rest) (hgroup : GroupOf s tm h.gref) :
    execYieldChk x s = .next (if (partOf x (h :: rest)).any (State.observes tm)
      then ended (transferred s tm (idleOf x (h :: rest)) h.gref 2 (nextPc x)) ((partOf x (h :: rest)).map (·.ref)) .cancelled
      else s.yieldOp x) := by
  rw [execYieldChk, issueThen_of_goes hgoes]
  simp only [filter_guardTrue]
  by_cases hnone : partOf x (h :: rest) = []
  · simp only [hnone]
    rfl
  · obtain ⟨p, ps, hpart⟩ := List.exists_cons_of_ne_nil hnone
    have hp : p ∈ h :: rest := (List.mem_filter.mp (hpart ▸ List.mem_cons_self : p ∈ partOf x (h :: rest))).1
    have hgref : p.gref = h.gref := gref_of_active (hgoes.active ▸ hp) (hgoes.active ▸ List.mem_cons_self)
    simp only [hpart, hgref, ← advance_delayIssue hgroup]
    rfl

end

/-- Settles O19: a thread that ends waits for its accesses (`exitThread_waits`), or leaves what its team shares (`threadLeft`), and its team ends with
its last thread (`exitThread_last`, `endTeam_lists`); EXIT and a YIELD.chk that observes the flag end the participating threads. -/
theorem exitAndYield : Obligations.ExitAndYield := by
  unfold Obligations.ExitAndYield
  refine ⟨?ends, ?instructions⟩
  case ends =>
    intro s t how h tm hthread halive hteam u
    have hleft : (threadLeft s t how h).team h.team = some (handlesLeft t (ringsLeft t (cvgsLeft t tm))) := by
      rw [threadLeft_team, hteam, Option.map_some]
    have href : h.ref = t := by simpa using List.find?_some hthread
    refine ⟨fun hout => ?waits, fun hout hmate => ?stays, fun hout hlast => ?last⟩
    case waits =>
      have hu : u = _ := exitThread_waits hout hthread
      have hdying : ∀ k : Thread, (if k.exited then k else { k with dying := some how, status := .eligible, handler := false }).ref = k.ref := fun k => by
        split <;> rfl
      refine ⟨?_, fun q hq => ?_, ?_, acquiresLeft t tm, ?_, rfl, rfl⟩
      · rw [hu, thread_updThread_same t hdying]
        exact (congrArg (Option.map _) hthread).trans (by simp [halive])
      · rw [hu]
        exact thread_updThread_ne hdying hq
      · rw [hu]
        rfl
      · rw [hu]
        exact (team_updTeam_same h.team (f := acquiresLeft t) fun _ => rfl).trans (congrArg (Option.map _) hteam)
    case stays =>
      have hu : u = threadLeft s t how h := exitThread_stays hout hthread halive hleft hmate
      have hframe : OnlyLeft s u := hu ▸ onlyLeft_threadLeft s t how h
      have hfound : ∀ q, u.thread q = (s.updThread t (endedThread how)).thread q := fun q =>
        congrArg (List.find? fun k : Thread => k.ref == q) (hu ▸ threadLeft_threads s t how h)
      refine ⟨?_, fun q hq => ?_, ?_, (congrArg State.mem hframe :), (congrArg State.clk hframe :), (congrArg State.pkg hframe :),
        (congrArg State.plots hframe :), (congrArg State.runs hframe :), _, hu ▸ hleft, ?_, ?_, ?_, ?_⟩
      · rw [hfound, thread_updThread_same t (f := endedThread how) fun _ => rfl, hthread]
        rfl
      · rw [hfound, thread_updThread_ne (f := endedThread how) (fun _ => rfl) hq]
      · rw [hu, threadLeft_ctxs, href]
      · unfold handlesLeft
        split <;> rfl
      · unfold handlesLeft
        split <;> rfl
      · unfold handlesLeft
        split <;> rfl
      · by_cases hhalf : tm.header.shape = 2 ∧ t.core.die = 1
        · rw [if_pos hhalf, handlesLeft_half (tm := ringsLeft t (cvgsLeft t tm)) hhalf]
          exact ⟨rfl, rfl⟩
        · rw [if_neg hhalf, handlesLeft_other (tm := ringsLeft t (cvgsLeft t tm)) hhalf]
          exact ⟨rfl, rfl⟩
    case last =>
      obtain ⟨how', hends⟩ := exitThread_last hout hthread halive hleft hlast
      have hu : u = (threadLeft s t how h).endTeam _ how' true := hends
      obtain ⟨hteams, hthreads⟩ := endTeam_lists (threadLeft s t how h) (handlesLeft t (ringsLeft t (cvgsLeft t tm))) how' true
      rw [team_id hleft] at hteams hthreads
      rw [hu]
      refine ⟨?_, fun k hk => ?_⟩
      · rw [State.team, hteams]
        exact List.find?_eq_none.mpr fun k hk => by simpa using (List.mem_filter.mp hk).2
      · rw [hthreads] at hk
        simpa using (List.mem_filter.mp hk).2
  case instructions =>
    intro i x s tm sp h rest
    refine ⟨fun hshape hgoes => ?_, fun hshape hgoes hgroup => ?_, fun hshape hgoes hgroup hobserves => ?_, fun hshape hgoes hgroup hobserves => ?_⟩
    · rw [exec_exitShape hshape, exitOp_next hgoes]
    · rw [exec_yieldShape hshape, yieldOp_next hgoes hgroup]
    · subst hshape
      exact (execYieldChk_next hgoes hgroup).trans (congrArg _ (if_pos hobserves))
    · subst hshape
      rw [← yieldOp_next hgoes hgroup]
      exact (execYieldChk_next hgoes hgroup).trans (congrArg _ (if_neg (Bool.eq_false_iff.mp hobserves)))

end Sys2Proof.Proofs.Execution
end

section
/-! PROOFS. SREG (O31). -/

namespace Sys2Proof.Proofs.Execution

open Sys2Proof Sys2Proof.Machine Sys2Proof.Claims

/-! ### What a store at the homes leaves as it was -/

/-- Nothing but the bytes of memory with their poison, the slices, what requests carry, and the package has changed. -/
def OnlyStored (s t : State) : Prop :=
  { t with mem := { t.mem with mem := s.mem.mem, poisoned := s.mem.poisoned, slices := s.mem.slices, evmax := s.mem.evmax, requests := s.mem.requests }
           pkg := s.pkg } = s

theorem OnlyStored.refl (s : State) : OnlyStored s s := rfl

theorem OnlyStored.trans {s t u : State} (h₁ : OnlyStored s t) (h₂ : OnlyStored t u) : OnlyStored s u :=
  (congrArg (fun w : State =>
    { w with mem := { w.mem with mem := s.mem.mem, poisoned := s.mem.poisoned, slices := s.mem.slices, evmax := s.mem.evmax, requests := s.mem.requests }
             pkg := s.pkg }) h₂ :).trans h₁

section
variable {s t : State}

theorem OnlyStored.clk (h : OnlyStored s t) : t.clk = s.clk := (congrArg State.clk h :)
theorem OnlyStored.cores (h : OnlyStored s t) : t.cores = s.cores := (congrArg State.cores h :)
theorem OnlyStored.results (h : OnlyStored s t) : t.mem.results = s.mem.results := (congrArg (·.mem.results) h :)

end

theorem onlyStored_markEntry (s : State) (entry : Option Nat) (write : Bool) : OnlyStored s (s.markEntry entry write) := by
  cases entry <;> rfl

theorem onlyStored_keepSlice (s : State) (l : SliceLine) : OnlyStored s (s.keepSlice l) := by
  unfold State.keepSlice
  dsimp only
  split <;> rfl

theorem onlyStored_performWrite (s : State) (pa ia : Nat) (bs : List Byte) (tag : Option (BitVec 4 × Nat)) :
    OnlyStored s (s.performWrite pa ia bs tag).1 := by
  unfold State.performWrite State.touchSlice
  refine OnlyStored.trans ?_ (onlyStored_keepSlice _ _)
  split
  · split
    · refine OnlyStored.trans ?_ (onlyStored_markEntry _ _ _)
      rfl
    · rfl
  · rfl

theorem onlyStored_homePut (s : State) (ctx : Nat) (bs : List Byte) (w : Nat) (spans : List (Nat × Nat)) : OnlyStored s (s.homePut ctx bs w spans).1 := by
  induction spans generalizing s bs w with
  | nil => exact OnlyStored.refl s
  | cons p rest ih =>
    unfold State.homePut
    split
    · exact OnlyStored.refl s
    · exact (onlyStored_performWrite _ _ _ _ _).trans (ih _ _ _)

theorem onlyStored_logStore (s : State) (ctx ia : Nat) (bs : List Byte) : OnlyStored s (s.logStore ctx ia bs) := by
  unfold State.logStore
  split
  · exact (onlyStored_homePut _ _ _ _ _).trans rfl
  · split
    · split
      · split <;> rfl
      · rfl
    · rfl

/-! ### What the reads of CHRONO leave as it was (R446, R447) -/

/-- The threads, the teams and the clock are as before, so that the same group issues. -/
structure SameIssue (s t : State) : Prop where
  threads : t.threads = s.threads
  teams   : t.teams = s.teams
  clk     : t.clk = s.clk

theorem SameIssue.refl (s : State) : SameIssue s s := ⟨rfl, rfl, rfl⟩

section
variable {s t u : State}

theorem SameIssue.trans (h₁ : SameIssue s t) (h₂ : SameIssue t u) : SameIssue s u :=
  ⟨h₂.threads.trans h₁.threads, h₂.teams.trans h₁.teams, h₂.clk.trans h₁.clk⟩

theorem SameIssue.chrono (h : SameIssue s t) (c : CoreId) : t.chrono c = s.chrono c := by
  simp only [State.chrono, State.tick, h.clk]

theorem SameIssue.active (h : SameIssue s t) : t.active = s.active := by
  unfold State.active State.activeOf State.candidates State.groupThreads
  rw [h.clk, h.threads]

/-- An instruction whose checks of R203 ask nothing of the state issues as before. -/
theorem SameIssue.goes (h : SameIssue s t) {x : Fields} {tm : Team} {sp : OpSpec} {k : Thread} {rest : List Thread} (hgoes : Goes s 0x7A x tm sp k rest) :
    Goes t 0x7A x tm sp k rest where
  active := h.active.trans hgoes.active
  team := by
    rw [State.team, h.teams]
    exact hgoes.team
  check := hgoes.check
  row := hgoes.row

end

/-- A change of a context that keeps its CTXCTL and its replay. -/
theorem replaying_updCtx (s : State) (n : Nat) {f : Context → Context} (hf : ∀ c, (f c).ctl.getLsbD 5 = c.ctl.getLsbD 5 ∧ (f c).replay = c.replay) :
    (s.updCtx n f).replaying n = s.replaying n := by
  unfold State.replaying State.ctxLog State.ctl
  rw [ctx_updCtx_same]
  cases s.ctx n with
  | none => rfl
  | some c => simp only [Option.map_some, (hf c).1, (hf c).2]

theorem replaying_of_onlyMemory {s t : State} (h : OnlyMemory s t) (n : Nat) : t.replaying n = s.replaying n :=
  (congrArg (fun w : State => w.replaying n) h :)

section
variable (s : State) (n : Nat)

theorem sameIssue_updCtx (f : Context → Context) : SameIssue s (s.updCtx n f) := ⟨rfl, rfl, rfl⟩

theorem sameIssue_logAppend (kind time : Nat) (place : CoreId) (slot : Nat) (payload : List Byte) :
    SameIssue s (s.logAppend n kind time place slot payload) where
  threads := (onlyLog_logAppend ..).threads
  teams := (onlyLog_logAppend ..).teams
  clk := by
    unfold State.logAppend
    split
    · rfl
    · split
      · rfl
      · dsimp only
        split
        · exact State.updCtx_clk ..
        · exact (State.updCtx_clk ..).trans (onlyStored_logStore s n ..).clk

theorem replaying_logAppend (kind time : Nat) (place : CoreId) (slot : Nat) (payload : List Byte) :
    (s.logAppend n kind time place slot payload).replaying n = s.replaying n := by
  unfold State.logAppend
  split
  · rfl
  · split
    · rfl
    · dsimp only
      split
      · refine replaying_updCtx s n (f := ?_) fun _ => ⟨?_, ?_⟩ <;> rfl
      · refine (replaying_updCtx _ n (f := ?_) fun _ => ⟨?_, ?_⟩).trans (replaying_of_onlyMemory (onlyMemory_logStore s n _ _) n) <;> rfl

theorem sameIssue_replayDiffers (c : CoreId) : SameIssue s (s.replayDiffers n c) := ⟨rfl, rfl, rfl⟩

/-- A context that is halted, with its fault record, replays on. -/
theorem replaying_replayDiffers (c : CoreId) : (s.replayDiffers n c).replaying n = s.replaying n := by
  unfold State.replayDiffers State.faultRecord State.setCtl
  rw [replaying_updCtx _ n fun k => ?_, replaying_updCtx _ n fun k => ?_]
  · exact ⟨by simp, rfl⟩
  · split
    · split <;> exact ⟨rfl, rfl⟩
    · exact ⟨rfl, rfl⟩

end

/-! ### The values that CHRONO gives (R446, R447) -/

/-- A thread's chronometer as it records it. -/
def recordTime (n : Nat) (chr : CoreId → Nat) (s : State) (u : Thread) : State :=
  s.logAppend n 2 (chr u.ref.core) u.ref.core u.ref.slot (leBytes 16 (chr u.ref.core))

section
variable {s : State} {n : Nat}

/-- Outside a replay each thread reads its core's chronometer, and records it. -/
theorem chronoReads_records {chr : CoreId → Nat} (ts : List Thread) (hchr : ∀ c, s.chrono c = chr c) (hrecords : s.replaying n = false) :
    chronoReads s n ts = (ts.map fun u => (u.ref, BitVec.ofNat 64 (chr u.ref.core)), ts.foldl (recordTime n chr) s) := by
  induction ts generalizing s with
  | nil => rfl
  | cons u us ih =>
    have hnext := ih (s := recordTime n chr s u) (fun c => ((sameIssue_logAppend s n ..).chrono c).trans (hchr c))
      ((replaying_logAppend s n ..).trans hrecords)
    simp only [chronoReads, hrecords, hchr, Bool.false_eq_true, if_false]
    rw [show s.logAppend n 2 (chr u.ref.core) u.ref.core u.ref.slot (leBytes 16 (chr u.ref.core)) = recordTime n chr s u from rfl, hnext]
    rfl

theorem sameIssue_recordTimes (chr : CoreId → Nat) (ts : List Thread) : SameIssue s (ts.foldl (recordTime n chr) s) :=
  List.foldlRecOn ts _ (SameIssue.refl s) fun _ h _ _ => h.trans (sameIssue_logAppend ..)

/-- What a replay supplies to a thread, and the state in which it has used that up. -/
def suppliedTime (n : Nat) (s : State) (u : Thread) : W64 × State :=
  match s.logTake n 2 (some (State.placeWord u.ref.core u.ref.slot)) with
  | some (p, s') => (BitVec.ofNat 64 (leNat (p.take 8)), s')
  | none => (BitVec.ofNat 64 (s.chrono u.ref.core), s.replayDiffers n u.ref.core)

theorem suppliedTimes_cons (u : Thread) (us : List Thread) : suppliedTimes n s (u :: us) =
    ((u.ref, (suppliedTime n s u).1) :: (suppliedTimes n (suppliedTime n s u).2 us).1, (suppliedTimes n (suppliedTime n s u).2 us).2) := by
  rw [suppliedTimes, suppliedTime]
  cases s.logTake n 2 (some (State.placeWord u.ref.core u.ref.slot)) <;> rfl

theorem suppliedTime_keeps (s : State) (n : Nat) (u : Thread) :
    SameIssue s (suppliedTime n s u).2 ∧ (suppliedTime n s u).2.replaying n = s.replaying n := by
  unfold suppliedTime State.logTake
  cases s.logNext n 2 _ with
  | none => exact ⟨sameIssue_replayDiffers s n _, replaying_replayDiffers s n _⟩
  | some r => exact ⟨sameIssue_updCtx s n _, replaying_updCtx s n fun _ => ⟨rfl, rfl⟩⟩

/-- In a replay each thread reads what the log supplies. -/
theorem chronoReads_replays (ts : List Thread) (hreplays : s.replaying n = true) : chronoReads s n ts = suppliedTimes n s ts := by
  induction ts generalizing s with
  | nil => rfl
  | cons u us ih =>
    have hnext := ih ((suppliedTime_keeps s n u).2.trans hreplays)
    rw [suppliedTimes_cons, ← hnext]
    simp only [chronoReads, hreplays, if_true, suppliedTime]
    cases s.logTake n 2 (some (State.placeWord u.ref.core u.ref.slot)) <;> rfl

theorem sameIssue_suppliedTimes (ts : List Thread) : SameIssue s (suppliedTimes n s ts).2 := by
  induction ts generalizing s with
  | nil => exact SameIssue.refl s
  | cons u us ih =>
    rw [suppliedTimes_cons]
    exact (suppliedTime_keeps s n u).1.trans ih

theorem suppliedTimes_refs (ts : List Thread) : (suppliedTimes n s ts).1.map (·.1) = ts.map (·.ref) := by
  induction ts generalizing s with
  | nil => rfl
  | cons u us ih =>
    rw [suppliedTimes_cons, List.map_cons, List.map_cons, ih]

end

/-! ### SREG (R206, R314) -/

/-- What a lane writes of a register's value. -/
def sregOut (x : Fields) (v : W64) : LaneOut := if x.ty.wide then .pair v else .word (v.setWidth 32)

/-- A list of values that names the participating threads in their order gives each of them its own. -/
theorem find?_sregOut {x : Fields} {ts : List Thread} {vals : List (TRef × W64)} (hrefs : vals.map (·.1) = ts.map (·.ref)) (v : Thread) :
    ((vals.map fun p => (p.1, sregOut x p.2)).find? fun p => p.1 == v.ref).map (·.2) =
      (ts.find? fun u => u.ref == v.ref).map fun u => sregOut x ((vals.find? fun p => p.1 == u.ref).elim 0 (·.2)) := by
  have hsome : (vals.find? fun p => p.1 == v.ref).isSome = (ts.find? fun u => u.ref == v.ref).isSome := by
    rw [List.isSome_find?, List.isSome_find?]
    simpa [List.any_map, Function.comp_def] using congrArg (·.any (· == v.ref)) hrefs
  rw [List.find?_map, Option.map_map]
  cases hfind : ts.find? fun u => u.ref == v.ref with
  | none =>
    rw [hfind, Option.isSome_none, Option.isSome_eq_false_iff, Option.isNone_iff_eq_none] at hsome
    exact congrArg (Option.map _) hsome
  | some u =>
    rw [hfind] at hsome
    obtain ⟨p, hp⟩ := Option.isSome_iff_exists.mp hsome
    have href : u.ref = v.ref := by simpa using List.find?_some hfind
    rw [Option.map_some, href, hp]
    exact congrArg (Option.map _) hp

theorem find?_sregOut_map {x : Fields} (ts : List Thread) (value : Thread → W64) (v : Thread) :
    (((ts.map fun u => (u.ref, value u)).map fun p => (p.1, sregOut x p.2)).find? fun p => p.1 == v.ref).map (·.2) =
      (ts.find? fun u => u.ref == v.ref).map fun u => sregOut x (value u) := by
  rw [List.map_map, List.find?_map, Option.map_map]
  rfl

section
variable {s s1 : State} {x : Fields} {tm : Team} {sp : OpSpec} {h : Thread} {rest : List Thread}

theorem issues_of_goes {op : Nat} (hgoes : Goes s op x tm sp h rest) (hkw : x.kw = false) : Issues s op x tm sp (h :: rest) [] :=
  ⟨hgoes.active, ⟨h, rest, rfl, hgoes.team, hgoes.check⟩, hgoes.row, constOperand_of_kw_false hkw⟩

/-- The values and the state that a read finds: for CHRONO with what its reads have recorded or used up. -/
def sregFinds (s : State) (tm : Team) (n : Nat) (ts : List Thread) : List (TRef × W64) × State :=
  if n = 0x00D then chronoReads s tm.ctx ts else (ts.map fun u => (u.ref, specialRead s tm u n), s)

theorem flagsReady {n : Nat} {ts : List Thread} (hflags : n = 0x00C → ∀ u ∈ ts, flagsPending s u.ref = false) :
    ¬ (n == 0x00C && ts.any fun t => flagsPending s t.ref) = true := by
  rw [Bool.and_eq_true_iff, List.any_eq_true]
  rintro ⟨hfstat, u, hu, hpending⟩
  exact Bool.false_ne_true ((hflags (beq_iff_eq.mp hfstat) u hu).symm.trans hpending)

/-- Where no flags are awaited, a read is an instruction over the group, in the state that it finds. -/
theorem execSregRead_next (hgoes : Goes s 0x7A x tm sp h rest) {n : Nat} (hn : natField x.low.toNat 0 12 = n)
    (hflags : n = 0x00C → ∀ u ∈ partOf x (h :: rest), flagsPending s u.ref = false) :
    let o := sregFinds s tm n (partOf x (h :: rest))
    execSregRead x s = .next (o.2.groupwise 0x7A x (State.passLatency tm 4 1) fun _ _ _ => o.1.map fun p => (p.1, sregOut x p.2)) := by
  rw [execSregRead, issueThen_of_goes hgoes]
  simp only [filter_guardTrue, hn, if_neg (flagsReady hflags)]
  rfl

/-- A read gives its values to the participating threads, in the state that it finds. -/
theorem execSregRead_gives (hgoes : Goes s 0x7A x tm sp h rest) (hkw : x.kw = false) {n : Nat} (hn : natField x.low.toNat 0 12 = n)
    (hflags : n = 0x00C → ∀ u ∈ partOf x (h :: rest), flagsPending s u.ref = false) {vals : List (TRef × W64)}
    (hfinds : sregFinds s tm n (partOf x (h :: rest)) = (vals, s1)) (hsame : SameIssue s s1) {out : Thread → Option LaneOut}
    (hout : ∀ v : Thread, ((vals.map fun p => (p.1, sregOut x p.2)).find? fun p => p.1 == v.ref).map (·.2) = out v) :
    ∃ t, execSregRead x s = .next t ∧ OnlyThreads s1 t ∧ Wrote s1 t x (h :: rest) out ∧ Timed s1 t x (h :: rest) (State.passLatency tm 4 1) out := by
  refine ⟨_, execSregRead_next hgoes hn hflags, ?_⟩
  rw [hfinds, groupwise_next (issues_of_goes (hsame.goes hgoes) hkw)]
  simp only [hout]
  exact ⟨onlyThreads_issuedState .., wrote_issuedState .., timed_issuedState ..⟩

/-- What a write does to the register that it names. -/
def sregWritten (s : State) (tm : Team) (sp : OpSpec) (x : Fields) (ts : List Thread) (n : Nat) : State :=
  if n = 0x00B then match ts.getLast? with
    | some u => s.updTeam tm.id fun k => { k with sieveAge := BitVec.ofNat 16 (max 64 (natField (readOpd s u sp.a x.a).toNat 0 16)) }
    | none => s
  else if n = 0x00C then ts.foldl (fun t u => t.updThread u.ref fun k => { k with fstat := (readOpd s u sp.a x.a).setWidth 7 }) s
  else s

/-- Where no flags are awaited, a write acts on its register and goes on. -/
theorem execSregWrite_next (hgoes : Goes s 0x7A x tm sp h rest) {n : Nat} (hn : natField x.low.toNat 0 12 = n)
    (hflags : n = 0x00C → ∀ u ∈ partOf x (h :: rest), flagsPending s u.ref = false) :
    execSregWrite x s = .next ((sregWritten s tm sp x (partOf x (h :: rest)) n).advance (h :: rest) x.form.length) := by
  rw [execSregWrite, issueThen_of_goes hgoes]
  simp only [filter_guardTrue, hn, if_neg (flagsReady hflags)]
  refine congrArg (fun u : State => Host.Outcome.next (u.advance (h :: rest) x.form.length)) ?_
  unfold sregWritten
  by_cases hage : n = 0x00B
  · subst hage
    rw [if_pos rfl, List.getLast?_map]
    cases (partOf x (h :: rest)).getLast? <;> rfl
  · rw [if_neg hage]
    by_cases hfstat : n = 0x00C
    · subst hfstat
      rw [if_pos rfl, List.foldl_map]
      rfl
    · rw [if_neg hfstat]
      split
      · exact absurd rfl hage
      · exact absurd rfl hfstat
      · rfl

end

/-- Settles O31: a read gives what it finds (`execSregRead_gives`): a register's value, the core's chronometer, which it records (`chronoReads_records`),
or what the log supplies (`chronoReads_replays`); a write acts on its register (`execSregWrite_next`). -/
theorem specialRegisters : Obligations.SpecialRegisters := by
  unfold Obligations.SpecialRegisters
  intro x s tm sp h rest hgoes n hflags gives
  refine ⟨fun hn hkw => ?reads, fun hn hkw hrecords => ?records, fun hn hkw hreplays => ?replays, fun u hlast hn => ?age, fun hn => ?fstat, fun hage hfstat => ?ignored⟩
  case reads =>
    exact execSregRead_gives hgoes hkw rfl hflags (if_neg hn) (SameIssue.refl s) fun v => find?_sregOut_map _ _ v
  case records =>
    exact execSregRead_gives hgoes hkw rfl hflags ((if_pos hn).trans (chronoReads_records _ (fun _ => rfl) hrecords))
      (sameIssue_recordTimes _ _) fun v => find?_sregOut_map _ _ v
  case replays =>
    exact execSregRead_gives hgoes hkw rfl hflags ((if_pos hn).trans (chronoReads_replays _ hreplays)) (sameIssue_suppliedTimes _)
      fun v => find?_sregOut (suppliedTimes_refs _) v
  case age =>
    refine (execSregWrite_next hgoes hn fun h => by cases h).trans ?_
    rw [sregWritten, if_pos rfl, hlast]
  case fstat =>
    exact execSregWrite_next hgoes hn fun _ => hflags hn
  case ignored =>
    refine (execSregWrite_next hgoes rfl hflags).trans ?_
    rw [sregWritten, if_neg hage, if_neg hfstat]

end Sys2Proof.Proofs.Execution
end

section
/-! PROOFS. SYS: supervisor accesses, SYS.swap, SYS.shoot and SYS.tret (O32, O33). -/

namespace Sys2Proof.Proofs.Execution

open Sys2Proof Sys2Proof.Machine Sys2Proof.Claims

/-! ### Threads behind an instruction of the memory family (R38, R192, R193) -/

theorem openWindows_threads (s : State) (ts : List TRef) (la op d n : Nat) : ∃ w : Thread → List Window,
    (s.openWindows ts la op d n).threads = s.threads.map fun u => { u with windows := w u } := by
  unfold State.openWindows
  split
  · exact ⟨Thread.windows, (List.map_id _).symm⟩
  · refine ⟨fun u => if ts.contains u.ref then u.windows ++ [⟨op, d, [], la + 1, 0, u.predChange d none, u.handler⟩] else u.windows, ?_⟩
    refine List.map_congr_left fun u _ => ?_
    dsimp only
    split <;> rfl

/-- The active threads of an instruction of the memory family have gone past it. -/
theorem wentOn_begun (s : State) (act : List Thread) (x : Fields) (dst n : Nat) : WentOn s (begun s act (partOf x act) x dst n) x act := by
  let refs := (partOf x act).map (·.ref)
  obtain ⟨w, hw⟩ := openWindows_threads (s.fresh.2.count refs x.set.toNat) refs x.la.toNat s.clk.nextId dst n
  have hthreads : (begun s act (partOf x act) x dst n).threads = mapIf (fun u => (act.map (·.ref)).contains u.ref)
      (fun u => { u with pc := u.pc + BitVec.ofNat 64 x.form.length })
      ((mapIf (fun u => refs.contains u.ref) (·.slotUp x.set.toNat) s.threads).map fun u => { u with windows := w u }) :=
    congrArg (mapIf _ _) hw
  refine ⟨by rw [hthreads]; simp, fun k u hk => ⟨_, by rw [hthreads, getElem?_mapIf, List.getElem?_map, getElem?_mapIf, hk]; rfl, ?_⟩⟩
  by_cases hpart : refs.contains u.ref = true
  · simp only [refs] at hpart
    simp only [hpart, if_true, refs]
    rw [Thread.slotUp_frame]
    split <;> rfl
  · simp only [refs] at hpart
    simp only [hpart, if_false, Bool.false_eq_true, refs]
    split <;> rfl

theorem mapIf_append_new {α : Type} {p : α → Bool} {f : α → α} {l : List α} {a : α} (hl : ∀ b ∈ l, p b = false) (ha : p a = true) :
    mapIf p f (l ++ [a]) = l ++ [f a] := by
  have hkept : mapIf p f l = l := (List.map_congr_left fun b hb => if_neg (Bool.eq_false_iff.mp (hl b hb))).trans (List.map_id _)
  rw [mapIf, List.map_append, ← mapIf, hkept, List.map_singleton, if_pos ha]

section
variable (s : State) (act part : List Thread) (x : Fields) (dst n : Nat)

theorem begun_clk : (begun s act part x dst n).clk = { s.clk with nextId := s.clk.nextId + 1 } := (congrArg State.clk (begun_frame ..) :)

theorem begun_nextId : (begun s act part x dst n).clk.nextId = s.clk.nextId + 1 := congrArg Clock.nextId (begun_clk ..)
theorem begun_timers : (begun s act part x dst n).clk.timers = s.clk.timers := (congrArg Clock.timers (begun_clk ..) :)
theorem begun_cycle : (begun s act part x dst n).clk.cycle = s.clk.cycle := (congrArg Clock.cycle (begun_clk ..) :)

end

/-! ### A result that holds its group (R321, R324) -/

/-- The result of an instruction whose group waits for it, as it is when the instruction has begun. -/
def heldResult (s : State) (x : Fields) (op : Nat) (p : Thread) (refs : List TRef) (lanes : List ResultLane) : Result :=
  ⟨s.clk.nextId, op, x.set.toNat, p.handler, lanes, refs, some p.gref, [], s.clk.cycle, none, [], [], [], false, true, false, []⟩

/-- That result in flight, with what the instruction adds to it. -/
def holding (s : State) (x : Fields) (op : Nat) (p : Thread) (refs : List TRef) (lanes : List ResultLane) (f : Result → Result) : State :=
  { s.fresh.2 with mem := { s.mem with results := s.mem.results ++ [f (heldResult s x op p refs lanes)] } }

/-- Where its number is new, what is added to the result of that number is added to it alone. -/
theorem newResult_changed {s : State} (hnew : ∀ r ∈ s.mem.results, r.id ≠ s.clk.nextId) (x : Fields) (op : Nat) (p : Thread) (refs : List TRef)
    (lanes : List ResultLane) (f : Result → Result) :
    let o := s.newResult op x.set.toNat p.handler refs lanes (some p.gref) []
    { o.2 with mem := { o.2.mem with results := mapIf (fun r => r.id == o.1) f o.2.mem.results } } = holding s x op p refs lanes f := by
  have hresults := mapIf_append_new (f := f) (fun r hr => beq_eq_false_iff_ne.mpr (hnew r hr)) (beq_self_eq_true (heldResult s x op p refs lanes).id)
  exact congrArg (fun rs => { s.fresh.2 with mem := { s.mem with results := rs } }) hresults

/-! ### SYS.rdsup and SYS.wrsup (R317, R318, R321) -/

/-- The access of a lane. -/
def supAsked (x : Fields) (write : Bool) (l : Lane) : SupAccess :=
  ⟨l.t.ref, natField l.a.toNat 0 5, natField l.a.toNat 8 4 - 2, natField x.low.toNat 0 12, if write then some l.b else none, x.d.toNat⟩

section
variable {s : State} {x : Fields} {tm : Team} {sp : OpSpec} {h p : Thread} {rest ps : List Thread} {ws : List W32}

/-- The accesses leave with their group held, and the answer is due after the cycles of a trip to a home and back. -/
theorem supervisorOp_next (hgoes : Goes s 0x7C x tm sp h rest) (hpart : partOf x (h :: rest) = p :: ps) (write : Bool)
    (hsocket : ∀ l ∈ lanesOf s sp x [] (p :: ps), badSocket (natField x.low.toNat 0 12) l.a = false)
    (hnew : ∀ r ∈ s.mem.results, r.id ≠ s.clk.nextId + 1) :
    let b := begun s (h :: rest) (p :: ps) x x.d.toNat (if write then 0 else 2)
    supervisorOp s x write = State.after (holding b x s.clk.nextId p ((p :: ps).map (·.ref)) []
      fun r => { r with sups := (lanesOf s sp x [] (p :: ps)).map (supAsked x write) }) supLatency (.longLatencyResult b.clk.nextId) := by
  intro b
  have hfind : (lanesOf s sp x [] (p :: ps)).find? (fun l => badSocket (natField x.low.toNat 0 12) l.a) = none :=
    List.find?_eq_none.mpr fun l hl => Bool.eq_false_iff.mp (hsocket l hl)
  have hnew' : ∀ r ∈ b.mem.results, r.id ≠ b.clk.nextId := by
    simp only [b, begun_mem, begun_nextId]
    exact hnew
  rw [supervisorOp, issueThen_of_goes hgoes]
  simp only [lanesOf, List.map_cons] at hfind ⊢
  simp only [filter_guardTrue, hpart, List.map_cons, hfind, beginMem_eq]
  exact congrArg (fun u : State => u.after supLatency (.longLatencyResult b.clk.nextId))
    (newResult_changed hnew' x s.clk.nextId p ((p :: ps).map fun t : Thread => t.ref) [] fun r => { r with sups := (lanesOf s sp x [] (p :: ps)).map (supAsked x write) })

/-- What SYS.rdsup and SYS.wrsup have in common (R321). -/
theorem exec_of_supShape {i : Instr} {write : Bool} (hshape : supShape i = some (x, write)) (s : State) :
    exec i s = .next (supervisorOp s x write) := by
  unfold supShape at hshape
  split at hshape
  · cases hshape
    rfl
  · cases hshape
    rfl
  · cases hshape

end

/-- Settles O32: the accesses leave in lane order in a result that holds the group, whose answer is due after the trip and a free delay. -/
theorem supervisorAccess : Obligations.SupervisorAccess := by
  intro i x write s tm sp h rest p ps hshape hgoes hpart hsocket hnew
  let b := begun s (h :: rest) (p :: ps) x x.d.toNat (if write then 0 else 2)
  let r : Result := { heldResult b x s.clk.nextId p ((p :: ps).map (·.ref)) [] with sups := (lanesOf s sp x [] (p :: ps)).map (supAsked x write) }
  have hnext := supervisorOp_next hgoes hpart write hsocket hnew
  have hwent : WentOn s b x (h :: rest) := by
    have := wentOn_begun s (h :: rest) x x.d.toNat (if write then 0 else 2)
    rwa [hpart] at this
  have hframe : b = _ := begun_frame s (h :: rest) (p :: ps) x x.d.toNat (if write then 0 else 2)
  refine ⟨_, r, (exec_of_supShape hshape s).trans (congrArg _ hnext), hwent, ?_, ?_, ?_, ?_, rfl, rfl, rfl, rfl, rfl, b.clk.cycle + 140 + Config.extraDelay b.clk.free, ?_, ?_⟩
  · exact congrArg (fun m : MemSide => { m with results := m.results ++ [r] }) (congrArg State.mem hframe)
  · exact (congrArg State.cores hframe :)
  · exact (congrArg State.ctxs hframe :)
  · exact (congrArg State.pkg hframe :)
  · exact congrArg (· ++ [(b.clk.cycle + 140 + Config.extraDelay b.clk.free, Sys2Proof.Instr.longLatencyResult r.id)]) (begun_timers ..)
  · have hcycle : b.clk.cycle = s.clk.cycle := begun_cycle ..
    omega

/-! ### What a shoot-down leaves (R148, R324) -/

theorem onlyStored_writeBackLine (s : State) (c : CoreId) (l : L1Line) : OnlyStored s (s.writeBackLine c l) := by
  unfold State.writeBackLine
  split
  · refine (onlyStored_performWrite s l.frame l.line l.data (some (l.perms, l.ctx))).trans ?_
    generalize (s.performWrite l.frame l.line l.data (some (l.perms, l.ctx))).1 = u
    dsimp only
    split <;> rfl
  · exact OnlyStored.refl s

/-- A core whose presence cache and L1 hold nothing of a page. -/
def ClearOf (q : Nat × Nat) (k : Core) : Prop :=
  (∀ e ∈ k.pages, ¬ (e.page < q.1 + q.2 ∧ q.1 < e.page + e.size)) ∧ ∀ l ∈ k.l1, ¬ (q.1 ≤ l.line ∧ l.line < q.1 + q.2)

/-- A core when a page has been taken out of it. -/
def withoutPage (page size : Nat) (k : Core) : Core :=
  { k with pages := k.pages.filter fun e => !(decide (e.page < page + size ∧ page < e.page + e.size))
           l1 := k.l1.filter fun l => !(decide (page ≤ l.line ∧ l.line < page + size)) }

theorem clearOf_withoutPage_same (q : Nat × Nat) (k : Core) : ClearOf q (withoutPage q.1 q.2 k) := by
  simp only [ClearOf, withoutPage, List.mem_filter, Bool.not_eq_true', decide_eq_false_iff_not]
  exact ⟨fun _ he => he.2, fun _ hl => hl.2⟩

theorem ClearOf.withoutPage {q : Nat × Nat} {k : Core} (hk : ClearOf q k) (page size : Nat) : ClearOf q (withoutPage page size k) :=
  ⟨fun e he => hk.1 e (List.mem_filter.mp he).1, fun l hl => hk.2 l (List.mem_filter.mp hl).1⟩

section
variable (s : State) (page size : Nat)

/-- The lines of the page that are dirty in a private L1 go back to memory first. -/
theorem onlyStored_writeBacks (hit : L1Line → Bool) :
    OnlyStored s (s.cores.foldl (fun s k => (k.l1.filter hit).foldl (fun s l => s.writeBackLine k.id l) s) s) :=
  List.foldlRecOn s.cores _ (OnlyStored.refl s) fun _ hs k _ =>
    List.foldlRecOn (k.l1.filter hit) _ hs fun _ hs l _ => hs.trans (onlyStored_writeBackLine _ k.id l)

theorem shootPage_clk : (s.shootPage page size).clk = s.clk := (onlyStored_writeBacks s _).clk
theorem shootPage_results : (s.shootPage page size).mem.results = s.mem.results := (onlyStored_writeBacks s _).results
theorem shootPage_cores : (s.shootPage page size).cores = s.cores.map (withoutPage page size) :=
  congrArg (List.map (withoutPage page size)) (onlyStored_writeBacks s _).cores

end

/-- The pages of a list, taken out one after the other. -/
def shootPages (s : State) (pages : List (Nat × Nat)) : State := pages.foldl (fun s p => s.shootPage p.1 p.2) s

theorem shootPages_clk (s : State) (pages : List (Nat × Nat)) : (shootPages s pages).clk = s.clk :=
  foldl_keeps (f := fun s p => s.shootPage p.1 p.2) (fun s p => shootPage_clk s p.1 p.2) pages s
theorem shootPages_results (s : State) (pages : List (Nat × Nat)) : (shootPages s pages).mem.results = s.mem.results :=
  foldl_keeps (π := fun s => s.mem.results) (f := fun s (p : Nat × Nat) => s.shootPage p.1 p.2) (fun s p => shootPage_results s p.1 p.2) pages s

/-- No core holds anything of a page that was taken out, whatever was taken out after it. -/
theorem clearOf_shootPages (s : State) {pages : List (Nat × Nat)} {q : Nat × Nat} (hq : q ∈ pages) : ∀ k ∈ (shootPages s pages).cores, ClearOf q k := by
  refine foldl_brings (I := fun _ => True) (P := fun s => ∀ k ∈ s.cores, ClearOf q k) hq trivial (fun _ _ _ => trivial) (fun s _ => ?_) fun s p hs => ?_
  · rw [shootPage_cores]
    exact List.forall_mem_map.mpr fun k _ => clearOf_withoutPage_same q k
  · rw [shootPage_cores]
    exact List.forall_mem_map.mpr fun k hk => (hs k hk).withoutPage p.1 p.2

/-! ### SYS.swap, SYS.shoot and SYS.tret (R323 to R325) -/

/-- What a lane of a shoot-down is told. -/
def shootTold (x : Fields) (l : Lane) : ResultLane := ⟨l.t.ref, x.d.toNat, [BitVec.ofNat 32 (shootStatus l.a.toNat (natField l.b.toNat 0 32))], none, 0⟩

/-- The pages of the lanes whose shoot-down is accepted. -/
def shotPages (lanes : List Lane) : List (Nat × Nat) :=
  (lanes.filter fun l => shootStatus l.a.toNat (natField l.b.toNat 0 32) == 0).map fun l => (l.a.toNat, pageSize (natField l.b.toNat 0 32 % 4))

/-- The accepted pages, as SYS.shoot lists them: from what each lane asks. -/
theorem asked_eq_shotPages (lanes : List Lane) :
    (((lanes.map fun l => (l.t.ref, l.a.toNat, natField l.b.toNat 0 32)).filter fun p => shootStatus p.2.1 p.2.2 == 0).map
      fun p => (p.2.1, pageSize (p.2.2 % 4))) = shotPages lanes := by
  rw [List.filter_map, List.map_map]
  rfl

section
variable {s : State} {x : Fields} {tm : Team} {sp : OpSpec} {h p : Thread} {rest ps : List Thread} {ws : List W32}

theorem execSysSwap_next (hissues : Issues s 0x7C x tm sp (h :: rest) ws) (hpart : partOf x (h :: rest) = p :: ps) :
    let l := laneOf s sp x ws p
    let a := natField l.a.toNat 0 32
    let b := natField l.b.toNat 0 32
    let c : CoreId := ⟨natField a 8 1, natField a 2 6, natField a 0 2⟩
    let st := swapStatus s a b c
    let s1 := (begun s (h :: rest) (p :: ps) x x.d.toNat 1).addResult s.clk.nextId (State.passLatency tm (8 + 2 * transit p.ref.core c) 1) x.set.toNat p.handler
      ((p :: ps).map (·.ref)) ((p :: ps).map fun u => ⟨u.ref, x.d.toNat, [BitVec.ofNat 32 st], none, 0⟩) (some p.gref) [] false
    exec (.sysSwap x) s = .next (if st ≠ 0 then s1 else
      (s1.updCore c fun k => { k with swap := some ⟨b % 32, (s1.core c).shadow != some (b % 32), none⟩ }).afterExactly 1
        (if (s1.core c).shadow != some (b % 32) then .swapSpillFill c else .swapExchange c)) := by
  change execSysSwap x s = _
  rw [execSysSwap, issueConst_of_issues hissues]
  simp only [filter_guardTrue, hpart, beginMem_eq, List.map_map, Function.comp_def]

/-- The accepted pages leave every unit, and the statuses follow in a result that holds the group. -/
theorem execSysShoot_next (hissues : Issues s 0x7C x tm sp (h :: rest) ws) (hpart : partOf x (h :: rest) = p :: ps)
    (hnew : ∀ r ∈ s.mem.results, r.id ≠ s.clk.nextId + 1) :
    let lanes := lanesOf s sp x ws (p :: ps)
    let b := shootPages (begun s (h :: rest) (p :: ps) x x.d.toNat 1) (shotPages lanes)
    ∃ waits, exec (.sysShoot x) s = .next (State.after (holding b x s.clk.nextId p ((p :: ps).map (·.ref)) (lanes.map (shootTold x))
      fun r => { r with pages := shotPages lanes, waits := waits }) (lanes.length * b.shootLatency p.ref.core) (.longLatencyResult b.clk.nextId)) := by
  intro lanes b
  have hnew' : ∀ r ∈ b.mem.results, r.id ≠ b.clk.nextId := by
    simp only [b, shootPages_results, shootPages_clk, begun_mem, begun_nextId]
    exact hnew
  refine ⟨(shotPages lanes).flatMap fun q => b.underOld q.1 q.2, ?_⟩
  rw [← newResult_changed hnew']
  change execSysShoot x s = _
  rw [execSysShoot, issueConst_of_issues hissues]
  simp only [filter_guardTrue, hpart, beginMem_eq, asked_eq_shotPages]
  rw [List.map_map]
  rfl

/-- Every participating thread leaves its handler. -/
theorem execSysTret_next (hissues : Issues s 0x7C x tm sp (h :: rest) ws) (hpart : partOf x (h :: rest) = p :: ps)
    (hfree : ∀ u ∈ p :: ps, ∀ n ∈ u.sb, n = 0) (haligned : ∀ l ∈ lanesOf s sp x ws (p :: ps), l.a.toNat % 4 = 0)
    (hgroup : GroupOf s tm h.gref) (hgref : p.gref = h.gref) :
    exec (.sysTret x) s = .next (((lanesOf s sp x ws (p :: ps)).foldl returnThread
      (transferred s tm (idleOf x (h :: rest)) h.gref 6 (nextPc x))).ceaseGroups.settle) := by
  have hslots : ((p :: ps).map (laneOf s sp x ws)).any (fun l => l.t.sb.any (· != 0)) = false := by
    rw [List.any_map, List.any_eq_false]
    refine fun u hu => ?_
    simpa [laneOf] using hfree u hu
  have htarget : targetTrap (((p :: ps).map (laneOf s sp x ws)).map fun l => (l.t, l.a)) = none := by
    rw [List.map_map]
    exact targetTrap_aligned (target := fun u => (laneOf s sp x ws u).a) fun u hu => haligned _ (List.mem_map_of_mem hu)
  rw [← advance_delayIssue hgroup, ← hgref]
  change execSysTret x s = _
  rw [execSysTret, issueConst_of_issues hissues]
  simp only [filter_guardTrue, hpart, hslots, htarget, Bool.false_eq_true, if_false]
  rfl

end

/-- Settles O33: a swap by its status; a shoot-down by the fold over its pages, each of which leaves every core; SYS.tret by its free slots and aligned targets. -/
theorem supervisorCalls : Obligations.SupervisorCalls := by
  intro x s tm sp h rest ws p ps hissues hpart
  refine ⟨⟨fun hst => ?_, fun hst => ?_⟩, fun hnew => ?_, execSysTret_next hissues hpart⟩
  · rw [execSysSwap_next hissues hpart, if_pos hst]
  · rw [execSysSwap_next hissues hpart, if_neg (not_not_intro hst)]
  · obtain ⟨waits, hnext⟩ := execSysShoot_next hissues hpart hnew
    let lanes := lanesOf s sp x ws (p :: ps)
    let b := shootPages (begun s (h :: rest) (p :: ps) x x.d.toNat 1) (shotPages lanes)
    let r : Result := { heldResult b x s.clk.nextId p ((p :: ps).map (·.ref)) (lanes.map (shootTold x)) with pages := shotPages lanes, waits := waits }
    have hresults : b.mem.results = s.mem.results := (shootPages_results ..).trans (congrArg MemSide.results (begun_mem ..))
    have hclear : ∀ q ∈ shotPages lanes, ∀ k ∈ b.cores, ClearOf q k := fun _ => clearOf_shootPages _
    exact ⟨_, r, hnext, congrArg (· ++ [r]) hresults, rfl, rfl, rfl, hclear⟩

end Sys2Proof.Proofs.Execution
end

section
/-! PROOFS. Tiles: their handles, and what moves between a tile and memory, the plot or the registers (O22, O23). -/

namespace Sys2Proof.Proofs.Execution

open Sys2Proof Sys2Proof.Machine Sys2Proof.Claims

section
variable {s : State} {op n : Nat} {x : Fields} {tm : Team} {sp : OpSpec} {h p : Thread} {rest ps : List Thread}

/-- A tile instruction with a participating lane acts on its tile context (R354). -/
theorem tileOp_next (hgoes : Goes s op x tm sp h rest) (hpart : partOf x (h :: rest) = p :: ps) (f : TileCtx → State) :
    s.tileOp op x n f = f (tileCtx s x tm sp (h :: rest) p ps n) := by
  rw [State.tileOp, issueThen_of_goes hgoes]
  simp only [filter_guardTrue, hpart]
  rfl

/-- The participating threads of a tile context. -/
theorem tileCtx_refs (s : State) (x : Fields) (tm : Team) (sp : OpSpec) (act : List Thread) (p : Thread) (ps : List Thread) (n : Nat) :
    (tileCtx s x tm sp act p ps n).refs = (p :: ps).map (·.ref) := by
  simp only [TileCtx.refs, tileCtx, lanesOf, List.map_map]
  rfl

/-! ### Handles (R362 to R365, R376) -/

/-- TALLOC on an empty handle, with a well-formed shape and a free slot (R362). -/
theorem execTalloc_binds (hgoes : Goes s 0x60 x tm sp h rest) (hpart : partOf x (h :: rest) = p :: ps) {t : Tile} {k : TileSlot} :
    let c := tileCtx s x tm sp (h :: rest) p ps x.d.toNat
    c.hs.state = .empty → tileOfShape (wordB c) = some t → freePoolSlot s tm.id p.ref.core = some k →
    execTalloc x s = .next ((((s.updTileSlot p.ref.core.die p.ref.core.site k.slot fun q => { q with bound := true, tile := t }).updHandle tm.id p.ref.core x.d.toNat
      fun _ => ⟨.held p.ref.core p.ref.slot, k.slot⟩).cleanTile p.ref.core.die p.ref.core.site k.slot [(0, 16384)]).tileDone c x 12 []) := by
  intro c hempty hshape hfree
  have hfree' : freePoolSlot s c.tm.id c.core = some k := hfree
  rw [execTalloc, tileOp_next hgoes hpart, if_neg (not_not_intro hempty)]
  simp only [wordB] at hshape
  simp only [c, hshape, hfree']
  rfl

/-- TFREE of a held handle (R363). -/
theorem execTfree_empties (hgoes : Goes s 0x61 x tm sp h rest) (hpart : partOf x (h :: rest) = p :: ps) :
    let c := tileCtx s x tm sp (h :: rest) p ps x.a.toNat
    c.holds = true → execTfree x s = .next ((handleTo (s.drainSlot p.ref.core.die p.ref.core.site c.hs.slot) c .empty).tileDone c x 12 []) := by
  intro c hholds
  rw [execTfree, tileOp_next hgoes hpart, hholds]
  rfl

/-- TGIVE of a held handle to a thread of the team (R364). -/
theorem execTgive_gives (hgoes : Goes s 0x62 x tm sp h rest) (hpart : partOf x (h :: rest) = p :: ps) {t : TRef} :
    let c := tileCtx s x tm sp (h :: rest) p ps x.a.toNat
    c.holds = true → receiver s tm p.ref.core (wordB c) = some t →
    execTgive x s = .next ((handleTo s c (.given t.core t.slot)).tileDone c x 12 []) := by
  intro c hholds hreceiver
  have hreceiver' : receiver s c.tm c.core (c.low.b.setWidth 32) = some t := hreceiver
  rw [execTgive, tileOp_next hgoes hpart, hholds]
  simp only [c, hreceiver']
  rfl

/-- TTAKE of a handle that has been given to one of its threads (R365). -/
theorem execTtake_takes (hgoes : Goes s 0x63 x tm sp h rest) (hpart : partOf x (h :: rest) = p :: ps) {t : TRef} :
    let c := tileCtx s x tm sp (h :: rest) p ps x.a.toNat
    natField (wordB c).toNat 1 31 = 0 → givenAmong c.hs.state c.refs = some t →
    execTtake x s = .next ((handleTo s c (.held t.core t.slot)).tileDone c x 12 []) := by
  intro c hword hgiven
  rw [execTtake, tileOp_next hgoes hpart]
  simp only [wordB] at hword
  simp only [c, hword, hgiven, Option.isNone_some, Bool.false_and, Bool.false_eq_true, if_false, ne_eq, not_true]
  rfl

/-- TSTAT gives each of its lanes the state word (R376). -/
theorem execTstat_reads (hgoes : Goes s 0x6A x tm sp h rest) (hpart : partOf x (h :: rest) = p :: ps) :
    let c := tileCtx s x tm sp (h :: rest) p ps x.a.toNat
    execTstat x s = .next (s.tileDone c x 8 (c.refs.map fun t => ⟨t, x.d.toNat, [handleWord s tm p.ref.core c.hs], none, 0⟩)) :=
  congrArg Host.Outcome.next (tileOp_next hgoes hpart _)

end

/-- Settles O22: each handle operation acts on its tile context (`tileOp_next`), and the state of the handle names the branch of its meaning. -/
theorem tileHandles : Obligations.TileHandles := by
  intro x s tm sp h rest p ps hpart
  refine ⟨fun t k hgoes => execTalloc_binds hgoes hpart, fun hgoes => execTfree_empties hgoes hpart, fun t hgoes => execTgive_gives hgoes hpart,
    fun t hgoes hword hgiven => ?_, fun hgoes => ?_⟩
  · rw [← tileCtx_refs s x tm sp (h :: rest)] at hgiven
    exact execTtake_takes hgoes hpart hword hgiven
  · refine (execTstat_reads hgoes hpart).trans ?_
    rw [tileCtx_refs, List.map_map]
    rfl

/-- The threads of a tile context hold its handle, which is bound to this tile of the element type of the instruction (R355). -/
structure HoldsTile (s : State) (x : Fields) (c : TileCtx) (t : Tile) : Prop where
  tile  : s.tileOf c = some t
  holds : c.holds = true
  type  : x.ty = t.et

/-! ### Images (R367) -/

section
variable {s : State} {op : Nat} {x : Fields} {tm : Team} {sp : OpSpec} {h p : Thread} {rest ps : List Thread} {t : Tile}

theorem exec_image (store : Bool) (x : Fields) (s : State) :
    exec (if store then .tst x else .tld x) s = .next (s.imageOp (if store then 0x65 else 0x64) x store) := by
  cases store <;> rfl

/-- An image moves between a held tile of the instruction's type and module memory. -/
theorem imageOp_global (hgoes : Goes s op x tm sp h rest) (hpart : partOf x (h :: rest) = p :: ps) (store : Bool) {ia : Nat} {r : W64 × W64 × W64}
    (hglobal : x.xop.getLsbD 0 = false) :
    let c := tileCtx s x tm sp (h :: rest) p ps x.d.toNat
    HoldsTile s x c t →
    globalCheck (ctxOf s tm) (if store then .write else .read) t.size 16 (globalVa x c.low.a) p.lane = .ok (ia, r) →
    let s1 := (List.range (ceilDiv (ia % 128 + t.size) 128)).foldl (fun s k => s.expelPrivate p.ref.core tm.ctx (lineOf ia + 128 * k)) s
    let u := s1.useTile c x (if store then .storeGlobal else .loadGlobal) (State.passLatency tm 0 1) (!store) 0
    s.imageOp op x store = (u.2.sendAll (State.imageRequests c x s1.clk.nextId (if store then .tileStore u.1 else .tileLoad u.1)
      (globalVa x c.low.a) ia t.size)).beginUses := by
  intro c ⟨htile, hholds, hty⟩ hcheck s1 u
  have hcheck' : globalCheck (ctxOf s c.tm) (if store then .write else .read) t.size 16 (globalVa x c.low.a) c.lane = .ok (ia, r) := hcheck
  rw [State.imageOp, tileOp_next hgoes hpart]
  simp only [c, htile, hholds, hty, hglobal, hcheck', Bool.not_true, Bool.false_eq_true, if_false, ne_eq, not_true]
  rfl

theorem wrapTo_natCast {b o : Nat} (h : o < 2 ^ b) : wrapTo b (o : Int) = o := by
  have hmod : (o : Int) % (2 ^ b : Int) = o := Int.emod_eq_of_lt (Int.natCast_nonneg o) (by exact_mod_cast h)
  rw [wrapTo, hmod, Int.toNat_natCast]

/-- An image moves between a held tile of the instruction's type and the plot. -/
theorem imageOp_plot (hgoes : Goes s op x tm sp h rest) (hpart : partOf x (h :: rest) = p :: ps) (store : Bool) {q : Plot} {o : Nat}
    (hplot : x.xop.getLsbD 0 = true) (haligned : o % 16 = 0) (hlt : o < 2 ^ 32) (hq : s.plotOf tm.id p.ref.core = some q) (hfits : o + t.size ≤ q.size)
    (hwriter : store = true → writerRefuses s q tm.id o t.size = false) (hclean : store = false → poisonedPlot s tm.id p.ref.core o t.size = false) :
    let c := tileCtx s x tm sp (h :: rest) p ps x.d.toNat
    HoldsTile s x c t → natField c.low.a.toNat 0 32 + disp32 x = o →
    s.imageOp op x store = (s.useTile c x (if store then .storePlot o else .loadPlot (plotBytes s tm.id p.ref.core o t.size))
      (State.passLatency tm (12 + ceilDiv t.size 128) 1) (!store) 0).2.beginUses := by
  intro c ⟨htile, hholds, hty⟩ ho
  have hq' : s.plotOf c.tm.id c.core = some q := hq
  have hallowed : (store && writerRefuses s q c.tm.id o t.size) = false := by
    cases store
    · rfl
    · exact hwriter rfl
  have hunpoisoned : (!store && poisonedPlot s c.tm.id c.core o t.size) = false := by
    cases store
    · exact hclean rfl
    · rfl
  rw [State.imageOp, tileOp_next hgoes hpart]
  simp only [c, htile, hholds, hty, hplot, ho, wrapTo_natCast hlt, haligned, hq', hallowed, Nat.not_lt.mpr hfits, hunpoisoned, Bool.not_true, Bool.false_eq_true,
    if_false, if_true, ne_eq, not_true, or_self]
  cases store <;> rfl

/-! ### Fragments (R368) -/

/-- Fragments move between a held tile of the instruction's type and the registers, where every lane names coordinates of the tile. -/
theorem fragmentOp_next {n : Nat} (hgoes : Goes s op x tm sp h rest) (hpart : partOf x (h :: rest) = p :: ps) (writes : Bool) (kind : List Lane → UseKind) :
    let c := tileCtx s x tm sp (h :: rest) p ps n
    HoldsTile s x c t → (∀ l ∈ c.part, (coordinate t (l.b.setWidth 32)).isSome = true) →
    s.fragmentOp op x n writes kind = (s.useTile c x (kind c.part) (State.passLatency tm 16 1) writes (if writes then 0 else 1)).2.beginUses := by
  intro c ⟨htile, hholds, hty⟩ hcoord
  have hnone : (c.part.find? fun l => (coordinate t (l.b.setWidth 32)).isNone) = none := by
    rw [List.find?_eq_none]
    intro l hl
    simpa [Option.isSome_iff_ne_none] using hcoord l hl
  rw [State.fragmentOp, tileOp_next hgoes hpart]
  simp only [c, htile, hholds, hty, hnone, Bool.not_true, Bool.false_eq_true, if_false, ne_eq, not_true]
  rfl

end

/-- Settles O23: an image by where it moves (`imageOp_global`, `imageOp_plot`), fragments by `fragmentOp_next`. -/
theorem tileTransfers : Obligations.TileTransfers := by
  intro x s tm sp h rest p ps t n hpart c htile hholds hty
  have hheld : HoldsTile s x c t := ⟨htile, hholds, hty⟩
  refine ⟨?memory, ?plot, fun hcoord => ⟨?tldv, ?tstv⟩⟩
  case memory =>
    rintro store ia r rfl hglobal hcheck s1 u hgoes
    rw [exec_image, imageOp_global hgoes hpart store hglobal hheld hcheck]
  case plot =>
    rintro store q o rfl hplot ho haligned hlt hq hfits hwriter hclean hgoes
    rw [exec_image, imageOp_plot hgoes hpart store hplot haligned hlt hq hfits hwriter hclean hheld ho]
  case tldv =>
    rintro rfl hgoes
    exact congrArg Host.Outcome.next (fragmentOp_next hgoes hpart false _ hheld hcoord)
  case tstv =>
    rintro rfl hgoes
    exact congrArg Host.Outcome.next (fragmentOp_next hgoes hpart true _ hheld hcoord)

end Sys2Proof.Proofs.Execution
end

section
/-! PROOFS. MMA, MMA.sign and MACC (O24). -/

namespace Sys2Proof.Proofs.Execution

open Sys2Proof Sys2Proof.Machine Sys2Proof.Claims

section
variable {s : State} {x : Fields} {tm : Team} {sp : OpSpec} {h p : Thread} {rest ps : List Thread}

/-- The votes of the participating threads of an MMA (R374). -/
def votesOf (x : Fields) (s : State) (ps : List Thread) : List (TRef × Vote) := ps.map fun u => (u.ref, voteOf x s u)

/-- MMA, where its votes pass the checks of an attempt and an entry is free (R371). -/
theorem execMma_accepted (hgoes : Goes s 0x68 x tm sp h rest) (hpart : partOf x (h :: rest) = p :: ps) {r}
    (hcheck : s.mmaCheck tm (votesOf x s (p :: ps)) = .ok r) (hfree : (s.freeEntry p.ref.core.die p.ref.core.site tm.ctx).isSome = true) :
    let s1 := s.count ((p :: ps).map (·.ref)) x.set.toNat
    let o := s1.newMma tm (votesOf x s1 (p :: ps)) (some p.gref) none r
    execMma x s = .next (((o.1.acceptMma o.2).advance (h :: rest) x.form.length).delayIssue p.gref 8) := by
  have hentry : (s.freeEntry p.ref.core.die p.ref.core.site tm.ctx).isNone = false := by simpa using hfree
  unfold votesOf at hcheck
  rw [execMma, issueThen_of_goes hgoes]
  simp only [filter_guardTrue, hpart, hcheck, hentry, Bool.false_eq_true, if_false]
  rfl

/-- MMA.sign with a participating lane is a cancellation point, leaves for the holding core where that is another, and else signs (R53). -/
theorem execMmaSign_next (hgoes : Goes s 0x68 x tm sp h rest) (hpart : partOf x (h :: rest) = p :: ps) :
    let refs := (p :: ps).map (·.ref)
    let n := x.c.toNat % 16
    execMmaSign x s = .next (
      if State.observes tm p then ended (s.advance (idleOf x (h :: rest)) x.form.length) refs .cancelled
      else if holdTransit tm p.ref.core ≠ 0 then sentToHold s tm 0x68 x h (h :: rest) fun t => (voteOf x s t).format
      else match (s.count refs x.set.toNat).convergeEvent tm n true ((p :: ps).map fun t => (t.ref, some (voteOf x s t))) with
        | .error bad => s.trapGroup (misuseTrap 0x68 n (s.laneOfRef bad))
        | .ok s' => s'.advance (idleOf x (h :: rest)) x.form.length) := by
  rw [execMmaSign, issueThen_of_goes hgoes]
  simp only [filter_guardTrue, hpart]
  rfl

/-- MACC, where every lane's word names an element (R375). -/
theorem execMacc_next (hgoes : Goes s 0x69 x tm sp h rest) (hpart : partOf x (h :: rest) = p :: ps) :
    let lanes := lanesOf s sp x [] (p :: ps)
    (∀ l ∈ lanes, natField l.a.toNat 12 20 = 0) →
    let m : MaccOp := ⟨s.clk.nextId, tm.ctx, p.ref.core.die, p.ref.core.site, x.d.toNat, OpTable.xf x 0 2, x.rnd, x.xop.getLsbD 2, x.set.toNat, p.handler,
      tm.header.width == 64, lanes.map fun l =>
        (l.t.ref, natField l.a.toNat 0 12, s.covering tm.ctx p.ref.core.die p.ref.core.site (natField l.a.toNat 0 12)), []⟩
    let s1 := begun s (h :: rest) (p :: ps) x x.d.toNat 1
    execMacc x s = .next (({ s1 with tile := { s1.tile with maccs := s1.tile.maccs ++ [m] } } : State).maccRun m) := by
  intro lanes hwords m s1
  have hnone : (((p :: ps).map (laneOf s sp x [])).find? fun k => decide (natField k.a.toNat 12 20 ≠ 0)) = none := by
    rw [List.find?_eq_none]
    intro l hl
    simp [hwords l hl]
  rw [execMacc, issueThen_of_goes hgoes]
  simp only [filter_guardTrue, hpart, hnone]
  rw [List.map_map]
  rfl

end

/-! ### A signature from another core (R36, R53) -/

section
variable {s : State} {a : Arrival} {tm : Team}

theorem arrives_mmaSign (hteam : s.team a.team = some tm) (hanswer : a.answer = false) (hop : a.op = 0x68) :
    s.arrives a = (taken s a).mmaSignArrives tm a := by
  have hteam' : (taken s a).team a.team = some tm := hteam
  unfold taken at hteam' ⊢
  simp only [State.arrives, hteam', hanswer, hop, Bool.false_eq_true, if_false]

/-- The votes of the threads of an event that participate and have not ended since it left, each with its format as it was at issue. -/
def signatures (s : State) (a : Arrival) : List (TRef × Option Vote) :=
  (a.threads.filter fun q => q.2.1 && (liveAll s a).contains q.1).filterMap fun q => (s.thread q.1).map fun u => (q.1, some { voteOf a.x s u with format := q.2.2 })

/-- They take effect as the event arrives, and the event is answered. -/
theorem mmaSignArrives_eq (s : State) (tm : Team) (a : Arrival) :
    let part := (signatures s a).map (·.1)
    s.mmaSignArrives tm a = match (s.count part a.x.set.toNat).convergeEvent tm (a.x.c.toNat % 16) true (signatures s a) with
      | .error bad => answered s tm a 1 (laneOfFirst s bad) (liveAll s a)
      | .ok s' => answered s' tm a 0 0 ((liveAll s a).filter fun t => !(part.contains t)) := by
  rw [State.mmaSignArrives]
  simp only [alive_eq_live]
  rfl

end

/-- Settles O24: MMA by `execMma_accepted`; at issue of an MMA.sign the conditions name the branch of `execMmaSign_next`, at the holding core what the
signatures meet is that of `mmaSignArrives_eq`; MACC by `execMacc_next`. -/
theorem matrixInstructions : Obligations.MatrixInstructions := by
  intro x s tm sp h rest p ps hpart
  refine ⟨fun r hgoes hcheck hfree => execMma_accepted hgoes hpart hcheck hfree, ?signs, ?leaves, ?arrives, fun hgoes hwords => execMacc_next hgoes hpart hwords⟩
  case signs =>
    intro c hgoes hobserves hhere hc hok
    have hrefs : ((p :: ps).map fun u => ((u.ref, some (voteOf x s u)) : TRef × Option Vote)).map (·.1) = (p :: ps).map (·.ref) := List.map_map ..
    refine (execMmaSign_next hgoes hpart).trans ?_
    rw [convergeEvent_joins hc (hrefs ▸ hok), if_neg (Bool.eq_false_iff.mp hobserves), if_neg (not_not_intro hhere)]
  case leaves =>
    intro hgoes hobserves hfar _
    refine (execMmaSign_next hgoes hpart).trans ?_
    rw [if_neg (Bool.eq_false_iff.mp hobserves), if_pos hfar]
  case arrives =>
    intro a c hteam hanswer hop hc s1 votes part
    have harrives := (arrives_mmaSign hteam hanswer hop).trans (mmaSignArrives_eq s1 tm a)
    refine ⟨fun hok => ?_, fun hbad => ?_⟩
    · rw [harrives, convergeEvent_joins (ts := signatures s1 a) hc hok]
      rfl
    · rw [harrives, convergeEvent_misused (ts := signatures s1 a) true hc hbad]
      rfl

end Sys2Proof.Proofs.Execution
end

section
/-! PROOFS. The machine as a whole: its one stop, its reset, and the canonical form of memory (O52, O53, O55, O58). -/

namespace Sys2Proof.Proofs.Execution

open Sys2Proof Sys2Proof.Machine Sys2Proof.Safety

/-! ### The one stop (R437) -/

/-- Every meaning answers a next state; a host store has several arms that do. -/
theorem exec_next (i : Instr) (s : State) : ∃ t, exec i s = .next t := by
  cases i with
  | hostStore hart ia bytes =>
    show ∃ t, execHostStore hart ia bytes s = .next t
    unfold execHostStore
    repeat' split
    all_goals exact ⟨_, rfl⟩
  | _ => exact ⟨_, rfl⟩

/-- What the issue of a chosen group can do: its instruction, between what begins the issue and what settles it, or what a fetch without an instruction does. -/
theorem issueStep_cases (s : State) (g : GRef) (rest : List GRef) :
    (∃ gr act i t, exec i (beginIssue s g rest act (encode i).length) = .next t ∧
      issueStep s g rest = .next (settleIssue gr act (beginIssue s g rest act (encode i).length) t)) ∨
    issueStep s g rest = .next (failIssue s g rest) := by
  cases hissuing : issuing s g with
  | none => exact .inr (by simp only [issueStep, hissuing])
  | some r =>
    obtain ⟨gr, act, i⟩ := r
    obtain ⟨t, ht⟩ := exec_next i (beginIssue s g rest act (encode i).length)
    exact .inl ⟨gr, act, i, t, ht, by simp only [issueStep, hissuing, ht]⟩

theorem issueStep_next (s : State) (g : GRef) (rest : List GRef) : ∃ t, issueStep s g rest = .next t :=
  (issueStep_cases s g rest).elim (fun ⟨_, _, _, _, _, hstep⟩ => ⟨_, hstep⟩) fun hfails => ⟨_, hfails⟩

/-- A step of a device that is not held in reset answers a next state, whatever its turn. -/
theorem step_released {s : State} (hboot : s.pkg.bootErr = false) : ∃ t, Machine.step s = .next t := by
  simp only [Machine.step, hboot, Bool.false_eq_true, if_false]
  cases nextTurn s with
  | run i u => exact exec_next i u
  | go u => exact ⟨u, rfl⟩
  | issue g rest => exact issueStep_next s g rest

/-- A power-on reset that is next is done, whether the device is held in reset or not. -/
theorem step_held {s : State} (hboot : s.pkg.bootErr = true) :
    (s.clk.agenda.head? ≠ some .powerOnReset → Machine.step s = .fault .heldInReset) ∧
    (s.clk.agenda.head? = some .powerOnReset → ∃ t, Machine.step s = .next t) := by
  simp only [Machine.step, hboot, if_true]
  split
  · next hagenda => exact ⟨fun hne => absurd (by rw [hagenda]; rfl) hne, fun _ => exec_next _ _⟩
  · next hother =>
    refine ⟨fun _ => rfl, fun hnext => ?_⟩
    obtain ⟨is, his⟩ := List.head?_eq_some_iff.mp hnext
    exact absurd his (hother is)

/-- Settles O55: `exec_next` for the meanings; a step by whether BOOTERR is driven (`step_held`, `step_released`). -/
theorem stepStops : Obligations.StepStops := by
  refine ⟨exec_next, fun s hboot hnext => (step_held hboot).1 hnext, fun s hgoes => ?_⟩
  cases hboot : s.pkg.bootErr with
  | false => exact step_released hboot
  | true => exact (step_held hboot).2 (hgoes.resolve_left (by simp [hboot]))

/-! ### The canonical form of memory (assumption 2) -/

/-- Every instruction and every happening keeps the canonical form, each by the lemma about its meaning. -/
theorem exec_keeps {s t : State} {i : Instr} (h : MemoryCanonical s) (e : exec i s = .next t) : MemoryCanonical t := by
  cases i with
  | iaddBase => exact execIaddBase_keeps h e
  | iaddExtended => exact execIaddExtended_keeps h e
  | isubBase => exact execIsubBase_keeps h e
  | isubExtended => exact execIsubExtended_keeps h e
  | imulBase => exact execImulBase_keeps h e
  | imulExtended => exact execImulExtended_keeps h e
  | imulhBase => exact execImulhBase_keeps h e
  | imulhExtended => exact execImulhExtended_keeps h e
  | imadBase => exact execImadBase_keeps h e
  | imadExtended => exact execImadExtended_keeps h e
  | idiv => exact execIdiv_keeps h e
  | irem => exact execIrem_keeps h e
  | iminBase => exact execIminBase_keeps h e
  | iminExtended => exact execIminExtended_keeps h e
  | imaxBase => exact execImaxBase_keeps h e
  | imaxExtended => exact execImaxExtended_keeps h e
  | iabsBase => exact execIabsBase_keeps h e
  | iabsExtended => exact execIabsExtended_keeps h e
  | inegBase => exact execInegBase_keeps h e
  | inegExtended => exact execInegExtended_keeps h e
  | icmp => exact execIcmp_keeps h e
  | isel => exact execIsel_keeps h e
  | addminBase => exact execAddminBase_keeps h e
  | addminExtended => exact execAddminExtended_keeps h e
  | leaBase => exact execLeaBase_keeps h e
  | leaExtended => exact execLeaExtended_keeps h e
  | andBase => exact execAndBase_keeps h e
  | andExtended => exact execAndExtended_keeps h e
  | orBase => exact execOrBase_keeps h e
  | orExtended => exact execOrExtended_keeps h e
  | xorBase => exact execXorBase_keeps h e
  | xorExtended => exact execXorExtended_keeps h e
  | andnBase => exact execAndnBase_keeps h e
  | andnExtended => exact execAndnExtended_keeps h e
  | shlBase => exact execShlBase_keeps h e
  | shlExtended => exact execShlExtended_keeps h e
  | shrBase => exact execShrBase_keeps h e
  | shrExtended => exact execShrExtended_keeps h e
  | sraBase => exact execSraBase_keeps h e
  | sraExtended => exact execSraExtended_keeps h e
  | rotBase => exact execRotBase_keeps h e
  | rotExtended => exact execRotExtended_keeps h e
  | bfxBase => exact execBfxBase_keeps h e
  | bfxExtended => exact execBfxExtended_keeps h e
  | bfiBase => exact execBfiBase_keeps h e
  | bfiExtended => exact execBfiExtended_keeps h e
  | popcBase => exact execPopcBase_keeps h e
  | popcExtended => exact execPopcExtended_keeps h e
  | clzBase => exact execClzBase_keeps h e
  | clzExtended => exact execClzExtended_keeps h e
  | brevBase => exact execBrevBase_keeps h e
  | brevExtended => exact execBrevExtended_keeps h e
  | bpermBase => exact execBpermBase_keeps h e
  | bpermExtended => exact execBpermExtended_keeps h e
  | bool3 => exact execBool3_keeps h e
  | movBase => exact execMovBase_keeps h e
  | movExtended => exact execMovExtended_keeps h e
  | faddBase => exact execFaddBase_keeps h e
  | faddExtended => exact execFaddExtended_keeps h e
  | fsubBase => exact execFsubBase_keeps h e
  | fsubExtended => exact execFsubExtended_keeps h e
  | fmulBase => exact execFmulBase_keeps h e
  | fmulExtended => exact execFmulExtended_keeps h e
  | ffmaBase => exact execFfmaBase_keeps h e
  | ffmaExtended => exact execFfmaExtended_keeps h e
  | fminBase => exact execFminBase_keeps h e
  | fminExtended => exact execFminExtended_keeps h e
  | fmaxBase => exact execFmaxBase_keeps h e
  | fmaxExtended => exact execFmaxExtended_keeps h e
  | fcmp => exact execFcmp_keeps h e
  | fdiv => exact execFdiv_keeps h e
  | fsqrt => exact execFsqrt_keeps h e
  | frndBase => exact execFrndBase_keeps h e
  | frndExtended => exact execFrndExtended_keeps h e
  | fclassBase => exact execFclassBase_keeps h e
  | fclassExtended => exact execFclassExtended_keeps h e
  | fscaleBase => exact execFscaleBase_keeps h e
  | fscaleExtended => exact execFscaleExtended_keeps h e
  | fdot2Base => exact execFdot2Base_keeps h e
  | fdot2Extended => exact execFdot2Extended_keeps h e
  | flerpBase => exact execFlerpBase_keeps h e
  | flerpExtended => exact execFlerpExtended_keeps h e
  | ffracBase => exact execFfracBase_keeps h e
  | ffracExtended => exact execFfracExtended_keeps h e
  | ladd => exact execLadd_keeps h e
  | lsub => exact execLsub_keeps h e
  | lmul => exact execLmul_keeps h e
  | ldiv => exact execLdiv_keeps h e
  | lcmp => exact execLcmp_keeps h e
  | lmisc => exact execLmisc_keeps h e
  | lexp => exact execLexp_keeps h e
  | llog => exact execLlog_keeps h e
  | cvt => exact execCvt_keeps h e
  | lcvt => exact execLcvt_keeps h e
  | gcvt => exact execGcvt_keeps h e
  | pack6 => exact execPack6_keeps h e
  | unpk6 => exact execUnpk6_keeps h e
  | pkhBase => exact execPkhBase_keeps h e
  | pkhExtended => exact execPkhExtended_keeps h e
  | rand => exact execRand_keeps h e
  | sfu => exact execSfu_keeps h e
  | ld => exact execLd_keeps h e
  | st => exact execSt_keeps h e
  | ldp => exact execLdp_keeps h e
  | stp => exact execStp_keeps h e
  | ldv => exact execLdv_keeps h e
  | stv => exact execStv_keeps h e
  | atom => exact execAtom_keeps h e
  | atomp => exact execAtomp_keeps h e
  | ldk => exact execLdk_keeps h e
  | fence => exact execFence_keeps h e
  | wait => exact execWait_keeps h e
  | plotOpen => exact execPlotOpen_keeps h e
  | plotClose => exact execPlotClose_keeps h e
  | plotGive => exact execPlotGive_keeps h e
  | plotTake => exact execPlotTake_keeps h e
  | pref => exact execPref_keeps h e
  | cctlWbpriv => exact execCctlWbpriv_keeps h e
  | cctlInvl1 => exact execCctlInvl1_keeps h e
  | cctlInvk => exact execCctlInvk_keeps h e
  | bankcfg => exact execBankcfg_keeps h e
  | shfl => exact execShfl_keeps h e
  | lshf => exact execLshf_keeps h e
  | vote => exact execVote_keeps h e
  | reduce => exact execReduce_keeps h e
  | scan => exact execScan_keeps h e
  | matchLanes => exact execMatchLanes_keeps h e
  | tmovRead => exact execTmovRead_keeps h e
  | tmovWrite => exact execTmovWrite_keeps h e
  | braBase => exact execBraBase_keeps h e
  | braExtended => exact execBraExtended_keeps h e
  | jmp => exact execJmp_keeps h e
  | call => exact execCall_keeps h e
  | callReg => exact execCallReg_keeps h e
  | retBase => exact execRetBase_keeps h e
  | retExtended => exact execRetExtended_keeps h e
  | reform => exact execReform_keeps h e
  | cvgDecl => exact execCvgDecl_keeps h e
  | cvgJoin => exact execCvgJoin_keeps h e
  | exitBase => exact execExitBase_keeps h e
  | exitExtended => exact execExitExtended_keeps h e
  | yieldBase => exact execYieldBase_keeps h e
  | yieldExtended => exact execYieldExtended_keeps h e
  | yieldChk => exact execYieldChk_keeps h e
  | talloc => exact execTalloc_keeps h e
  | tfree => exact execTfree_keeps h e
  | tgive => exact execTgive_keeps h e
  | ttake => exact execTtake_keeps h e
  | tld => exact execTld_keeps h e
  | tst => exact execTst_keeps h e
  | tldv => exact execTldv_keeps h e
  | tstv => exact execTstv_keeps h e
  | mma => exact execMma_keeps h e
  | mmaSign => exact execMmaSign_keeps h e
  | macc => exact execMacc_keeps h e
  | tstat => exact execTstat_keeps h e
  | copy => exact execCopy_keeps h e
  | trace => exact execTrace_keeps h e
  | sxdraw => exact execSxdraw_keeps h e
  | sxpri => exact execSxpri_keeps h e
  | silt => exact execSilt_keeps h e
  | enq => exact execEnq_keeps h e
  | cancel => exact execCancel_keeps h e
  | stageInit => exact execStageInit_keeps h e
  | stageAcqp => exact execStageAcqp_keeps h e
  | stageAcqc => exact execStageAcqc_keeps h e
  | stageRelp => exact execStageRelp_keeps h e
  | stageRelc => exact execStageRelc_keeps h e
  | stageAcquireGrant => exact execStageAcquireGrant_keeps h e
  | barInit => exact execBarInit_keeps h e
  | barArrive => exact execBarArrive_keeps h e
  | barrierComplete => exact execBarrierComplete_keeps h e
  | movqSend => exact execMovqSend_keeps h e
  | movqRecv => exact execMovqRecv_keeps h e
  | sregRead => exact execSregRead_keeps h e
  | sregWrite => exact execSregWrite_keeps h e
  | trapSoftware => exact execTrapSoftware_keeps h e
  | trapBreak => exact execTrapBreak_keeps h e
  | sysRdsup => exact execSysRdsup_keeps h e
  | sysWrsup => exact execSysWrsup_keeps h e
  | sysSwap => exact execSysSwap_keeps h e
  | sysShoot => exact execSysShoot_keeps h e
  | sysTret => exact execSysTret_keeps h e
  | nopBase => exact execNopBase_keeps h e
  | nopExtended => exact execNopExtended_keeps h e
  | pair => exact execPair_keeps h e
  | powerOnReset => exact execPowerOnReset_keeps h e
  | resetGo => exact execResetGo_keeps h e
  | secAttest => exact execSecAttest_keeps h e
  | attestReportDone => exact execAttestReportDone_keeps h e
  | pilotDequeue => exact execPilotDequeue_keeps h e
  | teamPlace => exact execTeamPlace_keeps h e
  | creditRetire => exact execCreditRetire_keeps h e
  | sieveDraw => exact execSieveDraw_keeps h e
  | threadMove => exact execThreadMove_keeps h e
  | binAgeLimit => exact execBinAgeLimit_keeps h e
  | automaticReform => exact execAutomaticReform_keeps h e
  | waitingCancelExit => exact execWaitingCancelExit_keeps h e
  | activeSetDisplace => exact execActiveSetDisplace_keeps h e
  | throttleWindowEnd => exact execThrottleWindowEnd_keeps h e
  | mmaAccept => exact execMmaAccept_keeps h e
  | tilePassGrant => exact execTilePassGrant_keeps h e
  | tilePassComplete => exact execTilePassComplete_keeps h e
  | permitRefill => exact execPermitRefill_keeps h e
  | permitGrant => exact execPermitGrant_keeps h e
  | pageWalkAnswer => exact execPageWalkAnswer_keeps h e
  | deferredFaultRecord => exact execDeferredFaultRecord_keeps h e
  | homeLoad => exact execHomeLoad_keeps h e
  | homeStore => exact execHomeStore_keeps h e
  | homeAtomic => exact execHomeAtomic_keeps h e
  | loadReturn => exact execLoadReturn_keeps h e
  | storeAck => exact execStoreAck_keeps h e
  | fenceComplete => exact execFenceComplete_keeps h e
  | migrationLineCopy => exact execMigrationLineCopy_keeps h e
  | promotionStart => exact execPromotionStart_keeps h e
  | promotionAbandon => exact execPromotionAbandon_keeps h e
  | bankChangeComplete => exact execBankChangeComplete_keeps h e
  | copyPartComplete => exact execCopyPartComplete_keeps h e
  | engineCommandComplete => exact execEngineCommandComplete_keeps h e
  | traceLaneComplete => exact execTraceLaneComplete_keeps h e
  | swapSpillFill => exact execSwapSpillFill_keeps h e
  | swapExchange => exact execSwapExchange_keeps h e
  | watchdogExpiry => exact execWatchdogExpiry_keeps h e
  | drainComplete => exact execDrainComplete_keeps h e
  | tileSlotDrain => exact execTileSlotDrain_keeps h e
  | ttakeGrant => exact execTtakeGrant_keeps h e
  | messageArrival => exact execMessageArrival_keeps h e
  | sweepBoundary => exact execSweepBoundary_keeps h e
  | bandLight => exact execBandLight_keeps h e
  | kilnGather => exact execKilnGather_keeps h e
  | kilnBandPost => exact execKilnBandPost_keeps h e
  | snapshotBinned => exact execSnapshotBinned_keeps h e
  | sextantDrawStart => exact execSextantDrawStart_keeps h e
  | selectionStart => exact execSelectionStart_keeps h e
  | positionDraw => exact execPositionDraw_keeps h e
  | wavePost => exact execWavePost_keeps h e
  | probeResolve => exact execProbeResolve_keeps h e
  | longLatencyResult => exact execLongLatencyResult_keeps h e
  | operationPacket => exact execOperationPacket_keeps h e
  | policyRecordRepost => exact execPolicyRecordRepost_keeps h e
  | throttleLevelChange => exact execThrottleLevelChange_keeps h e
  | tshut => exact execTshut_keeps h e
  | secExtend => exact execSecExtend_keeps h e
  | logEnable => exact execLogEnable_keeps h e
  | loglimitWrite => exact execLoglimitWrite_keeps h e
  | contextEnable => exact execContextEnable_keeps h e
  | contextHalt => exact execContextHalt_keeps h e
  | deadClear => exact execDeadClear_keeps h e
  | registerWrite ia value => exact execRegisterWrite_keeps (ia := ia) (value := value) h e
  | recordPost => exact execRecordPost_keeps h e
  | postSequenceStore => exact execPostSequenceStore_keeps h e
  | cancelset => exact execCancelset_keeps h e
  | frreadWrite => exact execFrreadWrite_keeps h e
  | hostLoad => exact execHostLoad_keeps h e
  | hostStore hart ia bytes => exact execHostStore_keeps (hart := hart) (ia := ia) (bytes := bytes) h e
  | hostAmo => exact execHostAmo_keeps h e
  | hostLr => exact execHostLr_keeps h e
  | hostSc => exact execHostSc_keeps h e
  | dmaInbound => exact execDmaInbound_keeps h e
  | ewerlinkInbound => exact execEwerlinkInbound_keeps h e
  | ewerlinkDown => exact execEwerlinkDown_keeps h e
  | migctlStart => exact execMigctlStart_keeps h e
  | promctlPush => exact execPromctlPush_keeps h e
  | softError => exact execSoftError_keeps h e
  | dieFail => exact execDieFail_keeps h e
  | dmodeWrite => exact execDmodeWrite_keeps h e
  | snapshotGo => exact execSnapshotGo_keeps h e
  | ewerlinkLinkUp => exact execEwerlinkLinkUp_keeps h e

/-- The issue of a chosen group keeps it: the instruction between what begins its issue and what settles it, or what a fetch without an instruction does. -/
theorem issueStep_keeps {s t : State} {g : GRef} {rest : List GRef} (h : MemoryCanonical s) (e : issueStep s g rest = .next t) : MemoryCanonical t := by
  rcases issueStep_cases s g rest with ⟨gr, act, i, after, hexec, hstep⟩ | hfails
  · cases hstep.symm.trans e
    exact settleIssue_keeps (beginIssue_keeps h) (exec_keeps (beginIssue_keeps h) hexec)
  · cases hfails.symm.trans e
    exact failIssue_keeps h

/-- Settles O52: a step runs a happening (`exec_keeps`), changes the state without one (`nextTurn_canonical`), or issues a group (`issueStep_keeps`). -/
theorem memoryCanonicalKept : Obligations.MemoryCanonicalKept := by
  intro s t h e
  unfold Machine.step at e
  split at e
  case isTrue =>
    split at e
    · next is _ => exact exec_keeps (s := { s with clk := { s.clk with agenda := is } }) h e
    · cases e
  case isFalse =>
    have hturn := nextTurn_canonical h
    split at e
    · next i u hnext =>
      rw [hnext] at hturn
      exact exec_keeps hturn e
    · next u hnext =>
      rw [hnext] at hturn
      cases e
      exact hturn
    · exact issueStep_keeps h e

/-- Settles O53: memory that lists nothing is canonical. -/
theorem memoryCanonicalReset : Obligations.MemoryCanonicalReset :=
  show State.reset.mem.mem.wf = true from rfl

/-! ### The state after reset (R435 to R441) -/

/-- Settles O58: the state of a boot from copy A is `State.booted`; a context, a memory die and a core are those that reset leaves. -/
theorem resetState : Obligations.ResetState := by
  refine ⟨⟨rfl, rfl, rfl, rfl, rfl⟩, ⟨rfl, ?contexts⟩, ⟨rfl, rfl, rfl, rfl, rfl, rfl, rfl, rfl, rfl, rfl⟩, ?clocks, rfl, ?dies, fun c => ⟨rfl, rfl, rfl, rfl, rfl⟩⟩
  case contexts =>
    intro n c hc
    obtain rfl : c = Context.reset := List.eq_of_mem_replicate (List.mem_of_getElem? hc)
    exact ⟨rfl, rfl, rfl, rfl, rfl⟩
  case clocks => exact fun u => rfl
  case dies =>
    intro k d hd
    obtain rfl : d = MemDie.reset := List.eq_of_mem_replicate (List.mem_of_getElem? hd)
    exact ⟨rfl, rfl⟩

end Sys2Proof.Proofs.Execution
end

section
/-! PROOFS. Sweeps, the display and the Kiln (for O48). -/

namespace Sys2Proof.Proofs.Execution

open Sys2Proof Sys2Proof.Machine Sys2Proof.Claims

/-! ### Render blocks -/

theorem die_updDie (s : State) (d e : Nat) (f : Render → Render) : (s.updDie d f).die e = (s.die e).map fun r => if d = e then f r else r := by
  rw [State.die, State.updDie_render, modifyAt_eq_modify, List.getElem?_modify]
  rfl

theorem die_updDie_same {s : State} {d : Nat} {r : Render} (hr : s.die d = some r) (f : Render → Render) : (s.updDie d f).die d = some (f r) := by
  simp [die_updDie, hr]

theorem die_updDie_ne (s : State) {d e : Nat} (f : Render → Render) (hne : d ≠ e) : (s.updDie d f).die e = s.die e := by
  simp [die_updDie, hne]

theorem die_of_render {s t : State} (h : t.render = s.render) (d : Nat) : t.die d = s.die d := congrArg (·[d]?) h

/-- Changes of a die's block that agree on the block it has are one change. -/
theorem updDie_congr {s : State} {d : Nat} {r : Render} (hr : s.die d = some r) {f g : Render → Render} (hfg : f r = g r) : s.updDie d f = s.updDie d g := by
  have hrender : (s.updDie d f).render = (s.updDie d g).render := List.ext_getElem? fun e => by
    show (s.updDie d f).die e = (s.updDie d g).die e
    by_cases hde : d = e
    · subst hde
      rw [die_updDie_same hr, die_updDie_same hr, hfg]
    · rw [die_updDie_ne s f hde, die_updDie_ne s g hde]
  exact congrArg (fun l => { s with render := l }) hrender

/-- Nothing but render blocks, tiles, memory, the permits asked for and the reports has changed. -/
def OnlyRender (s t : State) : Prop :=
  { t with render := s.render, tile := s.tile, mem := s.mem, pkg := { t.pkg with stewards := s.pkg.stewards, out := s.pkg.out } } = s

theorem OnlyRender.refl (s : State) : OnlyRender s s := rfl

section
variable {s t u : State}

theorem OnlyRender.trans (h₁ : OnlyRender s t) (h₂ : OnlyRender t u) : OnlyRender s u :=
  (congrArg (fun w : State =>
    { w with render := s.render, tile := s.tile, mem := s.mem, pkg := { w.pkg with stewards := s.pkg.stewards, out := s.pkg.out } }) h₂ :).trans h₁

theorem OnlyRender.clk (h : OnlyRender s t) : t.clk = s.clk := (congrArg State.clk h :)
theorem OnlyRender.runs (h : OnlyRender s t) : t.runs = s.runs := (congrArg State.runs h :)
theorem OnlyRender.dmode (h : OnlyRender s t) : t.pkg.dmode = s.pkg.dmode := (congrArg (·.pkg.dmode) h :)
theorem OnlyRender.dmodeWait (h : OnlyRender s t) : t.pkg.dmodeWait = s.pkg.dmodeWait := (congrArg (·.pkg.dmodeWait) h :)
theorem OnlyRender.scanning (h : OnlyRender s t) : t.scanning = s.scanning := (congrArg State.scanning h :)
theorem OnlyRender.sweeping (h : OnlyRender s t) : t.pkg.sweeping = s.pkg.sweeping := (congrArg (·.pkg.sweeping) h :)
theorem OnlyRender.bandTick (h : OnlyRender s t) : t.bandTick = s.bandTick := (congrArg State.bandTick h :)

end

theorem onlyRender_updDie (s : State) (d : Nat) (f : Render → Render) : OnlyRender s (s.updDie d f) := rfl

/-! ### Gathers that wait, and waiting writes (R382, R392, R406) -/

/-- The Kiln's request for a permit changes the stewards alone. -/
theorem askKiln_frame (s : State) (d : Nat) : { s.askKiln d with pkg := { (s.askKiln d).pkg with stewards := s.pkg.stewards } } = s := by
  unfold State.askKiln
  dsimp only
  split
  · split <;> rfl
  · rfl

theorem askKiln_clk (s : State) (d : Nat) : (s.askKiln d).clk = s.clk := (congrArg State.clk (askKiln_frame s d) :)
theorem askKiln_tile (s : State) (d : Nat) : (s.askKiln d).tile = s.tile := (congrArg State.tile (askKiln_frame s d) :)
theorem askKiln_render (s : State) (d : Nat) : (s.askKiln d).render = s.render := (congrArg State.render (askKiln_frame s d) :)

theorem onlyRender_askKiln (s : State) (d : Nat) : OnlyRender s (s.askKiln d) :=
  (congrArg (fun w : State => { w with render := s.render, tile := s.tile, mem := s.mem, pkg := { w.pkg with out := s.pkg.out } }) (askKiln_frame s d) :)

/-- What stays of a block's gathers when those that have not begun and meet a test are given up. -/
def withoutGathers (p : Gather → Bool) (r : Render) : Render := { r with gathers := r.gathers.filter fun g => !(!g.done && p g) }

theorem onlyRender_dropGathers (s : State) (d : Nat) (p : Gather → Bool) : OnlyRender s (s.dropGathers d p) := by
  unfold State.dropGathers
  dsimp only
  refine OnlyRender.trans ?_ (onlyRender_askKiln _ d)
  split <;> rfl

theorem dropGathers_render (s : State) (d : Nat) (p : Gather → Bool) : (s.dropGathers d p).render = (s.updDie d (withoutGathers p)).render := by
  unfold State.dropGathers
  dsimp only
  split <;> exact askKiln_render _ d

theorem onlyRender_turnView (s : State) (d : Nat) (old : W64) : OnlyRender s (s.turnView d old) := by
  unfold State.turnView
  split
  · exact OnlyRender.refl s
  · split
    · exact OnlyRender.refl s
    · exact (onlyRender_updDie s d _).trans (onlyRender_dropGathers _ d _)

/-- A change of VIEW changes gathers alone. -/
theorem turnView_die (s : State) (d e : Nat) (old : W64) :
    ∃ change : List Gather → List Gather, (d ≠ e → change = id) ∧ (s.turnView d old).die e = (s.die e).map fun r => { r with gathers := change r.gathers } := by
  unfold State.turnView
  split
  · exact ⟨id, fun _ => rfl, by simp⟩
  · next r hr =>
    split
    · exact ⟨id, fun _ => rfl, by simp⟩
    · refine ⟨if d = e then fun l => (mapIf (fun g => !g.done) (fun g => { g with count := 0 }) l).filter fun g => !(!g.done && decide (State.viewBands r ≤ g.band)) else id,
        fun hne => if_neg hne, ?_⟩
      rw [die_of_render (dropGathers_render _ d _), die_updDie, die_updDie, Option.map_map]
      by_cases hde : d = e <;> simp [hde, withoutGathers, Function.comp_def]

/-- The registers that a die's waiting writes change (R382). -/
def appliedTo (ws : List (Nat × W64)) (r : Render) : Render :=
  let view := assocGet r.view 0x00 ws
  let krec := assocGet r.krec 0x40 ws
  let fits := decide (ceilDiv (natField view.toNat 0 13) 128 + natField krec.toNat 8 4 ≤ 32)
  let view := if fits then view else r.view
  { r with view := view, krec := if fits then krec else r.krec, ovl := assocGet r.ovl 0x10 ws, kctl := assocGet r.kctl 0x18 ws, knode := assocGet r.knode 0x20 ws
           kdesc := assocGet r.kdesc 0x28 ws, kfb := assocGet r.kfb 0x30 ws, khalo := assocGet r.khalo 0x38 ws, kclus := assocGet r.kclus 0x48 ws
           wcount := if view != r.view then [] else r.wcount, drops := if view != r.view then 0 else r.drops }

theorem onlyRender_applyRender (s : State) (d : Nat) (ws : List (Nat × W64)) : OnlyRender s (s.applyRender d ws) := by
  unfold State.applyRender
  split
  · exact OnlyRender.refl s
  · dsimp only
    split <;> split <;> rfl

theorem die_zeroHidden (s : State) (d e : Nat) (p : Prop) [Decidable p] : (if p then s.zeroHidden d else s).die e = s.die e := by
  split <;> rfl

theorem applyRender_same {s : State} {d : Nat} {r : Render} (hr : s.die d = some r) (ws : List (Nat × W64)) :
    (s.applyRender d ws).die d = some (appliedTo ws r) := by
  unfold State.applyRender
  rw [hr]
  dsimp only
  rw [die_updDie_same ((die_zeroHidden s d d _).trans hr)]
  rfl

theorem applyRender_ne (s : State) {d e : Nat} (hne : d ≠ e) (ws : List (Nat × W64)) : (s.applyRender d ws).die e = s.die e := by
  unfold State.applyRender
  split
  · rfl
  · dsimp only
    rw [die_updDie_ne _ _ hne, die_zeroHidden]

theorem onlyRender_applyWaits (s : State) (d : Nat) : OnlyRender s (s.applyWaits d) := by
  unfold State.applyWaits
  split
  · exact OnlyRender.refl s
  · exact ((onlyRender_applyRender s d _).trans (onlyRender_updDie _ d _)).trans (onlyRender_turnView _ d _)

theorem applyWaits_same {s : State} {d : Nat} {r : Render} (hr : s.die d = some r) :
    ∃ gathers, (s.applyWaits d).die d = some { appliedTo r.waits r with waits := [], gathers := gathers } := by
  unfold State.applyWaits
  rw [hr]
  obtain ⟨change, -, hchange⟩ := turnView_die ((s.applyRender d r.waits).updDie d fun k => { k with waits := [] }) d d r.view
  rw [hchange, die_updDie_same (applyRender_same hr _)]
  exact ⟨_, rfl⟩

theorem applyWaits_ne (s : State) {d e : Nat} (hne : d ≠ e) : (s.applyWaits d).die e = s.die e := by
  unfold State.applyWaits
  split
  · rfl
  · next r _ =>
    obtain ⟨change, hid, hchange⟩ := turnView_die ((s.applyRender d r.waits).updDie d fun k => { k with waits := [] }) d e r.view
    rw [hchange, hid hne, die_updDie_ne _ _ hne, applyRender_ne s hne]
    simp

/-! ### A sweep boundary (R405, R414) -/

/-- CGSWEEP of a context. -/
def sweepMask (s : State) (n : Nat) : W64 := ((s.ctx n).map (·.cgsweep)).getD 0

/-- A run whose group CGSWEEP names is cancelled. -/
def sweptRun (ns : List Nat) (mask : Nat → W64) (r : Run) : Run :=
  if ns.contains r.ctx && (mask r.ctx).getLsbD r.record.cgroup then { r with cancel := true } else r

theorem sweepMask_cancelledBy (s : State) (n : Nat) (p : Nat → Bool) : sweepMask (cancelledBy s n p) = sweepMask s := by
  funext m
  simp only [sweepMask, State.ctx, cancelledBy, List.getElem?_modify, Option.map_eq_map, Option.map_map]
  refine congrArg (fun o : Option W64 => o.getD 0) (Option.map_congr fun c _ => ?_)
  by_cases hm : n = m <;> simp [hm]

theorem sweptRun_flagRun (n : Nat) (ns : List Nat) (mask : Nat → W64) (r : Run) :
    sweptRun ns mask (flagRun n (mask n).getLsbD r) = sweptRun (n :: ns) mask r := by
  by_cases hn : r.ctx = n
  · subst hn
    cases hbit : (mask r.ctx).getLsbD r.record.cgroup <;> simp [sweptRun, flagRun, runHit, hbit]
  · simp [sweptRun, flagRun, runHit, hn]

theorem sweptRun_all (s : State) (r : Run) : sweptRun (List.range 32) (sweepMask s) r =
    if decide (r.ctx < 32) && (((s.ctx r.ctx).map Context.cgsweep).getD 0).getLsbD r.record.cgroup then { r with cancel := true } else r := by
  simp only [sweptRun, List.contains_eq_mem, List.mem_range, sweepMask]

/-- Each of these contexts cancels the groups that its CGSWEEP names. -/
def sweptBy (ns : List Nat) (s : State) : State := ns.foldl (fun s n => s.cancelGroups n (sweepMask s n)) s

/-- The runs that CGSWEEP names are cancelled; the clock, the package and the render blocks are as they were. -/
theorem sweptBy_parts (ns : List Nat) (s : State) :
    (sweptBy ns s).runs = s.runs.map (sweptRun ns (sweepMask s)) ∧ (sweptBy ns s).clk = s.clk ∧ (sweptBy ns s).pkg = s.pkg ∧ (sweptBy ns s).render = s.render := by
  induction ns generalizing s with
  | nil => exact ⟨(List.map_id'' (fun r => by simp [sweptRun]) _).symm, rfl, rfl, rfl⟩
  | cons n ns ih =>
    have hcons : sweptBy (n :: ns) s = sweptBy ns (cancelledBy s n (sweepMask s n).getLsbD) := congrArg (sweptBy ns) (cancelGroups_eq s n _)
    obtain ⟨hruns, hrest⟩ := ih (cancelledBy s n (sweepMask s n).getLsbD)
    rw [hcons]
    refine ⟨?_, hrest⟩
    rw [hruns, sweepMask_cancelledBy]
    simp only [cancelledBy, List.map_map, Function.comp_def, sweptRun_flagRun]

/-- The sweep is counted. -/
def sweepCounted (s : State) : State := { s with render := s.render.map fun r => { r with sweep := r.sweep + 1 } }

/-- A value of DMODE that waits is taken. -/
def modeTaken (s : State) : State := { s with pkg := { s.pkg with dmode := s.pkg.dmodeWait.getD s.pkg.dmode, dmodeWait := none } }

/-- The state in which a boundary has counted the sweep, cancelled by CGSWEEP, and taken DMODE and the waiting writes. -/
def boundaryTaken (s : State) : State := ((modeTaken (sweptBy (List.range 32) (sweepCounted s))).applyWaits 0).applyWaits 1

theorem boundaryTaken_frame (s : State) :
    let t := boundaryTaken s
    t.runs = s.runs.map (sweptRun (List.range 32) (sweepMask s)) ∧ t.clk = s.clk ∧ t.pkg.dmode = s.pkg.dmodeWait.getD s.pkg.dmode ∧ t.pkg.dmodeWait = none := by
  obtain ⟨hruns, hclk, hpkg, -⟩ := sweptBy_parts (List.range 32) (sweepCounted s)
  have hwaits : OnlyRender (modeTaken (sweptBy (List.range 32) (sweepCounted s))) (boundaryTaken s) := (onlyRender_applyWaits _ 0).trans (onlyRender_applyWaits _ 1)
  exact ⟨hwaits.runs.trans hruns, hwaits.clk.trans hclk, hwaits.dmode.trans (congrArg (fun p : Package => p.dmodeWait.getD p.dmode) hpkg), hwaits.dmodeWait⟩

/-- What a boundary makes of a die's block, but for its gathers and the bands that come next. -/
def SweptBlock (d : Nat) (r r' : Render) : Prop :=
  r'.sweep = r.sweep + 1 ∧
  (d < 2 → r'.waits = [] ∧ r'.ovl = assocGet r.ovl 0x10 r.waits ∧ r'.kctl = assocGet r.kctl 0x18 r.waits ∧ r'.knode = assocGet r.knode 0x20 r.waits ∧
    r'.kdesc = assocGet r.kdesc 0x28 r.waits ∧ r'.kfb = assocGet r.kfb 0x30 r.waits ∧ r'.khalo = assocGet r.khalo 0x38 r.waits ∧ r'.kclus = assocGet r.kclus 0x48 r.waits ∧
    let view := assocGet r.view 0x00 r.waits
    let krec := assocGet r.krec 0x40 r.waits
    let fits : Prop := ceilDiv (natField view.toNat 0 13) 128 + natField krec.toNat 8 4 ≤ 32
    (fits → r'.view = view ∧ r'.krec = krec) ∧ (¬ fits → r'.view = r.view ∧ r'.krec = r.krec))

theorem sweptBlock_applied (d : Nat) (r : Render) (gathers : List Gather) :
    SweptBlock d r { appliedTo r.waits { r with sweep := r.sweep + 1 } with waits := [], gathers := gathers } := by
  refine ⟨rfl, fun _ => ⟨rfl, rfl, rfl, rfl, rfl, rfl, rfl, rfl, fun hfits => ?_, fun hfits => ?_⟩⟩ <;> simp [appliedTo, hfits]

theorem boundaryTaken_die {s : State} {d : Nat} {r : Render} (hr : s.die d = some r) : ∃ r', (boundaryTaken s).die d = some r' ∧ SweptBlock d r r' := by
  obtain ⟨-, -, -, hrender⟩ := sweptBy_parts (List.range 32) (sweepCounted s)
  have hcounted : (modeTaken (sweptBy (List.range 32) (sweepCounted s))).die d = some { r with sweep := r.sweep + 1 } := by
    refine (die_of_render (s := sweepCounted s) hrender d).trans ?_
    rw [State.die, sweepCounted, List.getElem?_map, show s.render[d]? = some r from hr, Option.map_some]
  unfold boundaryTaken
  by_cases h0 : d = 0
  · subst h0
    obtain ⟨gathers, hdie⟩ := applyWaits_same hcounted
    exact ⟨_, (applyWaits_ne _ (by decide)).trans hdie, sweptBlock_applied 0 r gathers⟩
  · have hfirst := (applyWaits_ne (modeTaken (sweptBy (List.range 32) (sweepCounted s))) (Ne.symm h0)).trans hcounted
    by_cases h1 : d = 1
    · subst h1
      obtain ⟨gathers, hdie⟩ := applyWaits_same hfirst
      exact ⟨_, hdie, sweptBlock_applied 1 r gathers⟩
    · exact ⟨_, (applyWaits_ne _ (Ne.symm h1)).trans hfirst, rfl, fun hd => by omega⟩

/-- The next sweep begins in a state in which scan-out is on. -/
def sweepBegins (s : State) : State :=
  let next := fun (r : Render) => { r with nextLit := 0, nextGather := if r.nextGather.1 = 0 then (0, 0) else (r.nextGather.1 - 1, r.nextGather.2) }
  let s : State := { s with pkg := { s.pkg with dstart := BitVec.ofNat 64 s.tick, sweeping := true }, render := s.render.map next }
  ((s.atTick (s.bandTick 1 0) .sweepBoundary).afterExactly 0 (.bandLight 0)).afterExactly 0 (.bandLight 1)

/-- No sweep begins in a state in which scan-out is off. -/
def sweepsEnd (s : State) : State :=
  let s : State := { s with pkg := { s.pkg with sweeping := false }, render := s.render.map fun r => { r with nextGather := (0, 0) } }
  (s.dropGathers 0 fun _ => true).dropGathers 1 fun _ => true

theorem passBoundary_eq (s : State) : s.passBoundary = if (boundaryTaken s).scanning then sweepBegins (boundaryTaken s) else sweepsEnd (boundaryTaken s) := rfl

/-- The boundary of the sweep that begins comes VTOTAL lines of LINE ticks after its start. -/
theorem sweepBegins_due (s : State) :
    let t := sweepBegins s
    (max s.clk.cycle (State.cycleOfTick (t.pkg.dstart.toNat + natField t.pkg.dmode.toNat 32 13 * natField t.pkg.dmode.toNat 0 20)), .sweepBoundary) ∈ t.clk.timers := by
  have hnext : (BitVec.ofNat 64 s.tick).toNat + 1 * (natField s.pkg.dmode.toNat 32 13 * natField s.pkg.dmode.toNat 0 20) + 16 * 0 * natField s.pkg.dmode.toNat 0 20 =
      (BitVec.ofNat 64 s.tick).toNat + natField s.pkg.dmode.toNat 32 13 * natField s.pkg.dmode.toNat 0 20 := by omega
  refine List.mem_append_left _ (List.mem_append_left _ (List.mem_append_right _ (List.mem_singleton.mpr ?_)))
  exact congrArg (fun n => (max s.clk.cycle (State.cycleOfTick n), Instr.sweepBoundary)) hnext.symm

theorem sweepBegins_die {s : State} {d : Nat} {r : Render} (hr : s.die d = some r) :
    ∃ next, (sweepBegins s).die d = some { r with nextLit := 0, nextGather := next } := by
  refine ⟨if r.nextGather.1 = 0 then (0, 0) else (r.nextGather.1 - 1, r.nextGather.2), ?_⟩
  show (s.render.map _)[d]? = _
  rw [List.getElem?_map, show s.render[d]? = some r from hr, Option.map_some]

theorem onlyRender_sweepsEnd (s : State) : OnlyRender { s with pkg := { s.pkg with sweeping := false } } (sweepsEnd s) :=
  OnlyRender.trans (t := { s with pkg := { s.pkg with sweeping := false }, render := s.render.map fun r => { r with nextGather := (0, 0) } }) rfl
    ((onlyRender_dropGathers _ 0 _).trans (onlyRender_dropGathers _ 1 _))

/-- The gathers of dies 0 and 1 that have not begun are given up. -/
theorem sweepsEnd_die {s : State} {d : Nat} {r : Render} (hr : s.die d = some r) :
    ∃ gathers, (sweepsEnd s).die d = some { r with nextGather := (0, 0), gathers := gathers } ∧ (d < 2 → ∀ g ∈ gathers, g.done = true) := by
  have hall : ∀ g ∈ r.gathers.filter (·.done), g.done = true := fun g hg => (List.mem_filter.mp hg).2
  have hbefore : ({ s with pkg := { s.pkg with sweeping := false }, render := s.render.map fun r => { r with nextGather := (0, 0) } } : State).die d =
      some { r with nextGather := (0, 0) } := by
    rw [State.die, List.getElem?_map, show s.render[d]? = some r from hr, Option.map_some]
  unfold sweepsEnd
  dsimp only
  rw [die_of_render (dropGathers_render _ 1 _), die_updDie, die_of_render (dropGathers_render _ 0 _), die_updDie, hbefore]
  by_cases h0 : d = 0
  · subst h0
    exact ⟨_, by simp [withoutGathers], fun _ => hall⟩
  · by_cases h1 : d = 1
    · subst h1
      exact ⟨_, by simp [withoutGathers], fun _ => hall⟩
    · exact ⟨r.gathers, by simp [Ne.symm h0, Ne.symm h1], fun hd => by omega⟩

/-- A boundary begins the next sweep where scan-out stays on, and otherwise ends them. -/
theorem passBoundary_parts (s : State) :
    let t := s.passBoundary
    t.pkg.dmode = s.pkg.dmodeWait.getD s.pkg.dmode ∧ t.pkg.dmodeWait = none ∧ t.runs = s.runs.map (sweptRun (List.range 32) (sweepMask s)) ∧ t.pkg.sweeping = t.scanning ∧
    (t.scanning = true → t.pkg.dstart = BitVec.ofNat 64 s.tick ∧
      DueAtTick s t (t.pkg.dstart.toNat + natField t.pkg.dmode.toNat 32 13 * natField t.pkg.dmode.toNat 0 20) .sweepBoundary) ∧
    ∀ d r, s.die d = some r → ∃ r', t.die d = some r' ∧ SweptBlock d r r' ∧ (t.scanning = true → r'.nextLit = 0) ∧
      (d < 2 → t.scanning = false → ∀ g ∈ r'.gathers, g.done = true) := by
  obtain ⟨hruns, hclk, hdmode, hdmodeWait⟩ := boundaryTaken_frame s
  have hblocks := fun d r => boundaryTaken_die (s := s) (d := d) (r := r)
  rw [passBoundary_eq]
  generalize boundaryTaken s = u at *
  cases hon : u.scanning with
  | true =>
    have hscans : (sweepBegins u).scanning = true := hon
    rw [if_pos rfl]
    refine ⟨hdmode, hdmodeWait, hruns, hscans.symm, fun _ => ⟨congrArg (fun c : Clock => BitVec.ofNat 64 (Config.tickOf c.cycle)) hclk, ?_⟩, fun d r hr => ?_⟩
    · unfold DueAtTick
      rw [← hclk]
      exact sweepBegins_due u
    · obtain ⟨r', hdie, hswept⟩ := hblocks d r hr
      obtain ⟨next, hdie'⟩ := sweepBegins_die hdie
      exact ⟨_, hdie', hswept, fun _ => rfl, fun _ hoff => (nomatch hscans.symm.trans hoff)⟩
  | false =>
    have hframe := onlyRender_sweepsEnd u
    have hoff : (sweepsEnd u).scanning = false := hframe.scanning.trans hon
    rw [if_neg Bool.false_ne_true]
    refine ⟨hframe.dmode.trans hdmode, hframe.dmodeWait.trans hdmodeWait, hframe.runs.trans hruns, hframe.sweeping.trans hoff.symm,
      fun hscans => (nomatch hoff.symm.trans hscans), fun d r hr => ?_⟩
    obtain ⟨r', hdie, hswept⟩ := hblocks d r hr
    obtain ⟨gathers, hdie', hdone⟩ := sweepsEnd_die hdie
    exact ⟨_, hdie', hswept, fun hscans => (nomatch hoff.symm.trans hscans), fun hd _ => hdone hd⟩

/-! ### What the display reads (R127, R411) -/

/-- Nothing but memory and the reports has changed. -/
def OnlyReads (s t : State) : Prop := { t with mem := s.mem, pkg := { t.pkg with out := s.pkg.out } } = s

theorem OnlyReads.trans {s t u : State} (h₁ : OnlyReads s t) (h₂ : OnlyReads t u) : OnlyReads s u :=
  (congrArg (fun w : State => { w with mem := s.mem, pkg := { w.pkg with out := s.pkg.out } }) h₂ :).trans h₁

theorem OnlyReads.onlyRender {s t : State} (h : OnlyReads s t) : OnlyRender s t :=
  (congrArg (fun w : State => { w with render := s.render, tile := s.tile, pkg := { w.pkg with stewards := s.pkg.stewards } }) h :)

theorem OnlyReads.render {s t : State} (h : OnlyReads s t) : t.render = s.render := (congrArg State.render h :)

theorem onlyReads_kilnReads (s : State) (ctx va n : Nat) : OnlyReads s (s.kilnReads ctx va n) := by
  unfold State.kilnReads
  split
  · split
    · rfl
    · refine List.foldlRecOn _ _ rfl fun t ht p _ => ht.trans ?_
      split
      · next entry _ => cases entry <;> rfl
      · rfl
  · rfl

theorem onlyReads_kilnReport (s : State) (ctx va n : Nat) : OnlyReads s (s.kilnReport ctx va n) := by
  unfold State.kilnReport
  split
  · rfl
  · split
    · unfold State.reportMalformed
      dsimp only
      split <;> rfl
    · rfl

theorem onlyReads_showBand (s : State) (d b : Nat) : OnlyReads s (s.showBand d b) := by
  unfold State.showBand
  split
  · rfl
  · dsimp only
    split
    · exact onlyReads_kilnReads s _ _ _
    · exact onlyReads_kilnReport s _ _ _

/-! ### Lit bands (R411) -/

/-- What has become of the record of a band of the present sweep. -/
def bandFound (r : Render) (b : Nat) : Option BandState := (r.bands.find? fun (k : Band) => k.sweep == r.sweep && k.band == b).map fun (k : Band) => k.state

/-- A gather of a band of the present sweep has begun. -/
def gatherBegun (r : Render) (b : Nat) : Bool := r.gathers.any fun g => g.sweep == r.sweep && g.band == b && g.done

/-- A die's block behind a band that is lit, whose new copy can be reached or not. -/
def litBlock (r : Render) (b : Nat) (reaches : Bool) : Render :=
  let this := fun (k : Band) => k.sweep == r.sweep && k.band == b
  let gone := r.bands.filter fun k => !(this k)
  match bandFound r b with
  | some .retired => { r with bands := gone, front := if r.front.contains b then r.front.filter (· != b) else b :: r.front
                              miss := if reaches then r.miss else missWord r b 4 }
  | some .posted => { r with bands := mapIf this (fun k => { k with state := .missed 0 }) r.bands, miss := missWord r b 0 }
  | some .failed => { r with bands := gone, miss := missWord r b 1 }
  | some (.missed c) => { r with bands := gone, miss := missWord r b c }
  | none => if gatherBegun r b then { r with miss := missWord r b 0 }
    else { withoutGathers (fun g => g.sweep == r.sweep && g.band == b) r with miss := missWord r b 2 }

/-- What the display shows changes no block. -/
theorem showBand_die (s : State) (d b : Nat) : (s.showBand d b).die d = s.die d := die_of_render (onlyReads_showBand s d b).render d

theorem missBand_die {s : State} {d : Nat} {r : Render} (hr : s.die d = some r) (b cause : Nat) :
    (s.missBand d b cause).die d = some { r with miss := missWord r b cause } := die_updDie_same hr _

/-- What can be reached does not depend on the render blocks. -/
theorem kilnReaches_updDie (s : State) (d : Nat) (f : Render → Render) : (s.updDie d f).kilnReaches = s.kilnReaches := rfl

theorem lightBand_die {s : State} {d : Nat} {r : Render} (hr : s.die d = some r) (b : Nat) :
    (s.lightBand d b).die d = some (litBlock r b (s.kilnReaches (State.kilnCtx r) (State.copyRow r (1 - State.frontCopy r b) b) (64 * State.viewWidth r))) := by
  have hbegun : (r.gathers.any fun g => g.sweep == r.sweep && g.band == b && g.done) = gatherBegun r b := rfl
  have hfound : (r.bands.find? fun (k : Band) => k.sweep == r.sweep && k.band == b).map (fun (k : Band) => k.state) = bandFound r b := rfl
  unfold State.lightBand litBlock
  rw [hr]
  dsimp only
  rw [hfound, hbegun]
  cases bandFound r b with
  | none =>
    dsimp only
    rw [showBand_die]
    split
    · exact missBand_die hr b 0
    · exact missBand_die ((die_of_render (dropGathers_render s d _) d).trans (die_updDie_same hr _)) b 2
  | some st =>
    cases st with
    | retired =>
      have hflipped := die_updDie_same (die_updDie_same hr fun k => { k with bands := k.bands.filter fun x => !(x.sweep == r.sweep && x.band == b) })
        fun k => { k with front := if k.front.contains b then k.front.filter (· != b) else b :: k.front }
      dsimp only
      rw [showBand_die, kilnReaches_updDie, kilnReaches_updDie]
      split
      · exact hflipped
      · exact missBand_die hflipped b 4
    | posted => exact (showBand_die _ d b).trans (missBand_die (die_updDie_same hr _) b 0)
    | failed => exact (showBand_die _ d b).trans (missBand_die (die_updDie_same hr _) b 1)
    | missed c => exact (showBand_die _ d b).trans (missBand_die (die_updDie_same hr _) b c)

theorem onlyRender_lightBand (s : State) (d b : Nat) : OnlyRender s (s.lightBand d b) := by
  have hshow : ∀ t : State, OnlyRender s t → OnlyRender s (t.showBand d b) := fun t ht => ht.trans (onlyReads_showBand t d b).onlyRender
  unfold State.lightBand
  split
  · exact OnlyRender.refl s
  · dsimp only
    split
    · refine hshow _ ?_
      split <;> rfl
    · exact hshow _ rfl
    · exact hshow _ rfl
    · exact hshow _ rfl
    · refine hshow _ ?_
      split
      · rfl
      · exact (onlyRender_dropGathers s d _).trans rfl

/-- The happening of a band that is due: the next one becomes due at its tick. -/
theorem execBandLight_next {s : State} {d : Nat} {r : Render} (hr : s.die d = some r) (hscan : s.scanning = true) (hsweep : s.pkg.sweeping = true)
    (hok : s.dieOk d = true) (hwidth : State.viewWidth r ≠ 0) (hband : r.nextLit < State.viewBands r) (hdue : s.bandTick 0 r.nextLit ≤ s.tick) :
    execBandLight d s = .next (
      let t := (s.lightBand d r.nextLit).updDie d fun k => { k with nextLit := r.nextLit + 1 }
      if r.nextLit + 1 < State.viewBands r then t.atTick (t.bandTick 0 (r.nextLit + 1)) (.bandLight d) else t) := by
  unfold execBandLight
  rw [hr]
  dsimp only
  rw [if_neg (by simp [hscan, hsweep, hok, hwidth, hband, hdue])]

/-- A band that is due is lit, and the next one becomes due at its tick. -/
theorem bandLight_renders {s : State} {d : Nat} {r : Render} (hr : s.die d = some r) (hscan : s.scanning = true) (hsweep : s.pkg.sweeping = true)
    (hok : s.dieOk d = true) (hwidth : State.viewWidth r ≠ 0) (hband : r.nextLit < State.viewBands r) (hdue : s.bandTick 0 r.nextLit ≤ s.tick) :
    let lit := litBlock r r.nextLit (s.kilnReaches (State.kilnCtx r) (State.copyRow r (1 - State.frontCopy r r.nextLit) r.nextLit) (64 * State.viewWidth r))
    Renders s (.bandLight d) d fun t r' => r' = { lit with nextLit := r.nextLit + 1 } ∧
      (r.nextLit + 1 < State.viewBands r → DueAtTick s t (s.bandTick 0 (r.nextLit + 1)) (.bandLight d)) := by
  have hnext : exec (.bandLight d) s = _ := execBandLight_next hr hscan hsweep hok hwidth hband hdue
  have hdie := die_updDie_same (lightBand_die hr r.nextLit) fun k => { k with nextLit := r.nextLit + 1 }
  have hframe := (onlyRender_lightBand s d r.nextLit).trans (onlyRender_updDie _ d fun k => { k with nextLit := r.nextLit + 1 })
  dsimp only at hnext
  split at hnext
  · refine ⟨_, _, hnext, hdie, rfl, fun _ => List.mem_append_right _ (List.mem_singleton.mpr ?_)⟩
    rw [hframe.clk, hframe.bandTick]
  · next hlast => exact ⟨_, _, hnext, hdie, rfl, fun hmore => absurd hmore hlast⟩

/-- The block behind a lit band, by what has become of the band's record. -/
theorem litBlock_parts (r : Render) (b : Nat) (reaches : Bool) :
    let this := fun (k : Band) => k.sweep == r.sweep && k.band == b
    let gone := r.bands.filter fun k => !(this k)
    let r' := litBlock r b reaches
    (bandFound r b ≠ some .retired → r'.front = r.front) ∧
    (bandFound r b = some .retired → r'.bands = gone ∧ r'.front = (if r.front.contains b then r.front.filter (· != b) else b :: r.front) ∧
      r'.miss = if reaches then r.miss else missWord r b 4) ∧
    (bandFound r b = some .posted → r'.bands = mapIf this (fun k => { k with state := .missed 0 }) r.bands ∧ r'.miss = missWord r b 0) ∧
    (bandFound r b = some .failed → r'.bands = gone ∧ r'.miss = missWord r b 1) ∧
    (∀ c, bandFound r b = some (.missed c) → r'.bands = gone ∧ r'.miss = missWord r b c) ∧
    (bandFound r b = none → r'.bands = r.bands ∧ r'.miss = missWord r b (if gatherBegun r b then 0 else 2) ∧
      r'.gathers = if gatherBegun r b then r.gathers else r.gathers.filter fun g => g.done || !(g.sweep == r.sweep && g.band == b)) := by
  unfold litBlock
  refine ⟨fun hfound => ?front, fun hfound => ?retired, fun hfound => ?posted, fun hfound => ?failed, fun c hfound => ?missed, fun hfound => ?none⟩
  case front =>
    dsimp only
    split
    · next hretired => exact absurd hretired hfound
    · rfl
    · rfl
    · rfl
    · split <;> rfl
  case retired | posted | failed | missed => simp [hfound]
  case none => cases hbegun : gatherBegun r b <;> simp [hfound, withoutGathers]

theorem one_sub_frontCopy (r : Render) (b : Nat) : 1 - State.frontCopy r b = if r.front.contains b then 0 else 1 := by
  unfold State.frontCopy
  split <;> rfl

/-! ### Gathers (R406 to R408) -/

theorem findIdxVal_some {α : Type} {p : α → Bool} {l : List α} {k : Nat} {x : α} (h : findIdxVal p l = some (k, x)) : l[k]? = some x ∧ p x = true := by
  induction l generalizing k with
  | nil => cases h
  | cons y l ih =>
    unfold findIdxVal at h
    split at h
    · next hy => cases h; exact ⟨rfl, hy⟩
    · cases hl : findIdxVal p l with
      | none => rw [hl] at h; cases h
      | some q =>
        rw [hl] at h
        cases h
        exact ih hl

/-- A gather opens for a band of the view whose Tg has come and whose Tb has not. -/
theorem opens_some {s : State} {d : Nat} {r : Render} {p : Nat × Nat} (h : s.opens d = some (r, p)) :
    s.die d = some r ∧ s.bandTick p.1 p.2 ≤ s.tick + natField r.kctl.toNat 0 32 ∧ s.tick < s.bandTick p.1 p.2 ∧ p.2 < State.viewBands r := by
  unfold State.opens at h
  split at h
  · cases h
  · next r' hr =>
    dsimp only at h
    generalize hnext : (if (State.nextBand r').2 < State.viewBands r' then State.nextBand r' else ((State.nextBand r').1 + 1, 0)) = q at h
    split at h
    · next hcond =>
      simp only [Bool.and_eq_true, bne_iff_ne, decide_eq_true_eq] at hcond
      obtain ⟨⟨⟨-, hbands⟩, hlead⟩, htb⟩ := hcond
      cases h
      refine ⟨hr, hlead, htb, ?_⟩
      rw [← hnext]
      split
      · assumption
      · exact Nat.pos_of_ne_zero hbands
    · cases h

theorem openGather_die {s : State} {d : Nat} {r : Render} (hr : s.die d = some r) (p : Nat × Nat) :
    (s.openGather d r p).die d = some { r with
      gathers := r.gathers ++ [⟨r.sweep + BitVec.ofNat 32 p.1, p.2, s.bandTick p.1 p.2 - State.kilnLead r, s.bandTick p.1 p.2, assocGet 0 p.2 r.wcount, false, false, State.kilnSite r p.2, [], 0⟩]
      nextGather := State.bandAfter r p } :=
  (die_of_render (askKiln_render _ d) d).trans (die_updDie_same hr _)

/-- The gather that can begin has its permit and room for its tiles, and its Tb has not come. -/
theorem gatherDue_some {s : State} {d : Nat} {r : Render} {k : Nat} {g : Gather} (h : s.gatherDue d = some (r, k, g)) :
    s.die d = some r ∧ r.gathers[k]? = some g ∧ g.permit = true ∧ s.tick < g.tb ∧ ceilDiv (State.viewWidth r) 128 ≤ (s.freeTiles d g.site).length := by
  unfold State.gatherDue at h
  split at h
  · cases h
  · next r' hr =>
    split at h
    · next k' g' hfind =>
      split at h
      · next hcond =>
        cases h
        simp only [State.gatherReady, Bool.and_eq_true, decide_eq_true_eq] at hcond
        obtain ⟨⟨-, htb⟩, ⟨⟨hpermit, -⟩, -⟩, hneed⟩ := hcond
        exact ⟨hr, (findIdxVal_some hfind).1, hpermit, htb, by omega⟩
      · cases h
    · cases h

/-- Hidden tiles come to a gather's cluster one after another. -/
def broughtTo (d : Nat) (g : Gather) (js : List Nat) (a : State × List Nat) : State × List Nat :=
  js.foldl (fun (a : State × List Nat) j =>
    let (s, n) := a.1.bringHidden d g j
    (s, a.2 ++ [n])) a

/-- A tile of a gather stays where it is when a hidden tile comes. -/
theorem bringHidden_parts (s : State) (d : Nat) (g : Gather) (j : Nat) :
    let t := (s.bringHidden d g j).1
    { t with tile := s.tile } = s ∧ ∀ x ∈ s.tile.slots, x.owner = .gather → x ∈ t.tile.slots := by
  unfold State.bringHidden
  cases hhidden : s.hiddenTile d g.band j with
  | none => exact ⟨rfl, fun x hx _ => List.mem_append_left _ hx⟩
  | some q =>
    have howner : q.owner = .hidden d g.band j := by simpa using List.find?_some hhidden
    dsimp only
    split
    · exact ⟨rfl, fun x hx _ => hx⟩
    · refine ⟨rfl, fun x hx hgather => List.mem_map.mpr ⟨x, hx, if_neg fun heq => ?_⟩⟩
      rw [beq_iff_eq.mp heq, howner] at hgather
      cases hgather

theorem broughtTo_parts (d : Nat) (g : Gather) (js : List Nat) (a : State × List Nat) :
    let b := broughtTo d g js a
    { b.1 with tile := a.1.tile } = a.1 ∧ b.2.length = a.2.length + js.length ∧ ∀ x ∈ a.1.tile.slots, x.owner = .gather → x ∈ b.1.tile.slots := by
  induction js generalizing a with
  | nil => exact ⟨rfl, rfl, fun x hx _ => hx⟩
  | cons j js ih =>
    obtain ⟨hstate, hlength, hslots⟩ := ih ((a.1.bringHidden d g j).1, a.2 ++ [(a.1.bringHidden d g j).2])
    obtain ⟨hone, hkept⟩ := bringHidden_parts a.1 d g j
    refine ⟨(congrArg (fun w : State => { w with tile := a.1.tile }) hstate :).trans hone, ?_, fun x hx hgather => hslots x (hkept x hx hgather) hgather⟩
    exact hlength.trans (by simp only [List.length_append, List.length_cons, List.length_nil]; omega)

/-- The slots that a gather takes hold its tiles. -/
def gatherSlots (s : State) (d : Nat) (r : Render) (g : Gather) : List TileSlot :=
  let terms := (s.binRecords d r g).filterMap (State.gatherTerms r g)
  (((s.freeTiles d g.site).take (ceilDiv (State.viewWidth r) 128)).zipIdx).map fun p =>
    ⟨d, g.site, p.1, .gather, false, false, [], State.gatherTile (State.viewWidth r) (terms.foldl State.accumulate []) p.2⟩

/-- The state in which a gather's tiles are in place, and the slots of its hidden tiles. -/
def gathered (s : State) (d : Nat) (r : Render) (g : Gather) : State × List Nat :=
  broughtTo d g (List.range (State.kilnHidden r)) ({ s with tile := { s.tile with slots := s.tile.slots ++ gatherSlots s d r g } }, [])

theorem runGather_eq (s : State) (d : Nat) (r : Render) (k : Nat) (g : Gather) :
    s.runGather d r k g =
      ((((gathered s d r g).1.updDie d fun q => { q with gathers := modifyAt (fun (x : Gather) => { x with
          done := true, slots := (s.freeTiles d g.site).take (ceilDiv (State.viewWidth r) 128) ++ (gathered s d r g).2
          used := ((s.binRecords d r g).filterMap (State.gatherTerms r g)).length }) k q.gathers }).after 1 (.kilnBandPost d)).askKiln d) := rfl

theorem runGather_die {s : State} {d : Nat} {r : Render} (hr : s.die d = some r) (k : Nat) (g : Gather) :
    (s.runGather d r k g).die d = some { r with gathers := modifyAt (fun (x : Gather) => { x with
      done := true, slots := (s.freeTiles d g.site).take (ceilDiv (State.viewWidth r) 128) ++ (gathered s d r g).2
      used := ((s.binRecords d r g).filterMap (State.gatherTerms r g)).length }) k r.gathers } := by
  obtain ⟨hstate, -, -⟩ := broughtTo_parts d g (List.range (State.kilnHidden r)) ({ s with tile := { s.tile with slots := s.tile.slots ++ gatherSlots s d r g } }, [])
  rw [runGather_eq, die_of_render (askKiln_render _ d)]
  exact die_updDie_same ((die_of_render (congrArg State.render hstate) d).trans hr) _

/-- A gather that is done keeps its cluster's slots for its tiles, the gather tiles first. -/
theorem runGather_gather {r : Render} {k : Nat} {g : Gather} {free hidden : List Nat} {tiles used : Nat} (hk : r.gathers[k]? = some g) (htiles : tiles ≤ free.length) :
    ∃ g', (modifyAt (fun (x : Gather) => { x with done := true, slots := free.take tiles ++ hidden, used := used }) k r.gathers)[k]? = some g' ∧
      { g' with slots := g.slots } = { g with done := true, used := used } ∧ g'.slots.take tiles = free.take tiles ∧ g'.slots.length = tiles + hidden.length := by
  have hlength : (free.take tiles).length = tiles := List.length_take_of_le htiles
  refine ⟨{ g with done := true, slots := free.take tiles ++ hidden, used := used }, ?_, rfl, ?_, ?_⟩
  · rw [modifyAt_eq_modify, List.getElem?_modify_eq, hk]
    rfl
  · exact List.take_left' hlength
  · rw [List.length_append, hlength]

theorem gathered_length (s : State) (d : Nat) (r : Render) (g : Gather) : (gathered s d r g).2.length = State.kilnHidden r := by
  obtain ⟨-, hlength, -⟩ := broughtTo_parts d g (List.range (State.kilnHidden r)) ({ s with tile := { s.tile with slots := s.tile.slots ++ gatherSlots s d r g } }, [])
  exact hlength.trans (by rw [List.length_nil, List.length_range, Nat.zero_add])

/-- The gather tile of each slot is there when the gather is done. -/
theorem mem_runGather_slots {s : State} {d : Nat} {r : Render} {g : Gather} {j x : Nat} (hj : j < ceilDiv (State.viewWidth r) 128)
    (hx : (s.freeTiles d g.site)[j]? = some x) (k : Nat) :
    ⟨d, g.site, x, .gather, false, false, [],
      State.gatherTile (State.viewWidth r) (((s.binRecords d r g).filterMap (State.gatherTerms r g)).foldl State.accumulate []) j⟩ ∈ (s.runGather d r k g).tile.slots := by
  obtain ⟨-, -, hslots⟩ := broughtTo_parts d g (List.range (State.kilnHidden r)) ({ s with tile := { s.tile with slots := s.tile.slots ++ gatherSlots s d r g } }, [])
  rw [runGather_eq, askKiln_tile]
  refine hslots _ (List.mem_append_right _ (List.mem_map.mpr ⟨(x, j), ?_, rfl⟩)) rfl
  rw [List.mem_zipIdx_iff_getElem?, List.getElem?_take_of_lt hj, hx]

/-- The band's record is posted after a cycle at least (assumption 5). -/
theorem runGather_due (s : State) (d : Nat) (r : Render) (k : Nat) (g : Gather) :
    ∃ c, s.clk.cycle + 1 ≤ c ∧ (c, .kilnBandPost d) ∈ (s.runGather d r k g).clk.timers := by
  obtain ⟨hstate, -, -⟩ := broughtTo_parts d g (List.range (State.kilnHidden r)) ({ s with tile := { s.tile with slots := s.tile.slots ++ gatherSlots s d r g } }, [])
  have hcycle : (gathered s d r g).1.clk.cycle = s.clk.cycle := (congrArg (·.clk.cycle) hstate :)
  rw [runGather_eq, askKiln_clk]
  refine ⟨_, ?_, List.mem_append_right _ (List.mem_singleton_self _)⟩
  rw [← hcycle]
  exact Nat.le_add_right _ _

/-! ### Band records (R409, R414) -/

/-- A gathered band's record is posted for the first gather that is done. -/
theorem execKilnBandPost_next {s : State} {d : Nat} {r : Render} {g : Gather} (hr : s.die d = some r) (hg : (r.gathers.find? fun g => g.done) = some g) :
    exec (.kilnBandPost d) s = .next ((s.updDie d fun k => { k with gathers := k.gathers.filter fun x => x != g }).postBand d r g) := by
  show execKilnBandPost d s = _
  simp only [execKilnBandPost, hr, hg]

section
variable {s : State} {d ia : Nat} {r : Render} {g : Gather}

/-- None is posted without scan-out, or for a band that the view no longer has. -/
theorem postBand_off (h : s.scanning = false ∨ State.viewBands r ≤ g.band) : s.postBand d r g = s.freeGathered d g.site g.slots :=
  if_pos (by simpa using h)

/-- The band is missed with cause 4 where its descriptor cannot be written. -/
theorem postBand_refused (hscan : s.scanning = true) (hband : g.band < State.viewBands r)
    (h : (∃ c, s.engineWritable (State.kilnCtx r) (r.kdesc.toNat + 64 * g.band) 64 = .cause c) ∨ ∃ a, s.engineWritable (State.kilnCtx r) (r.kdesc.toNat + 64 * g.band) 64 = .absent a) :
    s.postBand d r g = (s.kilnReport (State.kilnCtx r) (r.kdesc.toNat + 64 * g.band) 64).noRecord d g 4 := by
  refine (if_neg (by simp [hscan, hband])).trans ?_
  rcases h with ⟨c, h⟩ | ⟨a, h⟩ <;> rw [h]

theorem postBand_unreached (hscan : s.scanning = true) (hband : g.band < State.viewBands r)
    (h : s.engineWritable (State.kilnCtx r) (r.kdesc.toNat + 64 * g.band) 64 = .ok ia) (hreach : s.kilnReaches (State.kilnCtx r) (r.kdesc.toNat + 64 * g.band) 64 = false) :
    s.postBand d r g = (s.kilnReport (State.kilnCtx r) (r.kdesc.toNat + 64 * g.band) 64).noRecord d g 4 := by
  refine (if_neg (by simp [hscan, hband])).trans ?_
  rw [h]
  exact if_pos (by rw [hreach]; rfl)

/-- The band's descriptor is written. -/
def described (s : State) (r : Render) (g : Gather) (ia : Nat) : State := (s.engineWrite (State.kilnCtx r) ia (descriptor r g)).1

/-- The post of a gathered band's record: its code, and the state. -/
def bandPost (s : State) (d : Nat) (r : Render) (g : Gather) : Nat × State :=
  s.devicePost (State.kilnCtx r) (unitPosts (r.knode.toNat / 32 * 32) (r.kdesc.toNat + 64 * g.band) g.tb 0 (natField r.krec.toNat 0 6) g.band 3 d g.site) (.band d g.sweep.toNat g.band)

/-- Behind the descriptor that is written, the kernel's header and the post's code decide. -/
theorem postBand_written (hscan : s.scanning = true) (hband : g.band < State.viewBands r)
    (h : s.engineWritable (State.kilnCtx r) (r.kdesc.toNat + 64 * g.band) 64 = .ok ia) (hreach : s.kilnReaches (State.kilnCtx r) (r.kdesc.toNat + 64 * g.band) 64 = true) :
    s.postBand d r g =
      let o := bandPost (described s r g ia) d r g
      if (((described s r g ia).headerTiles (State.kilnCtx r) (r.knode.toNat / 32 * 32)).map fun t => decide (t < ceilDiv (State.viewWidth r) 128 + State.kilnHidden r)).getD false
        then (described s r g ia).noRecord d g 3
      else if o.1 ≠ 0 then o.2.noRecord d g 1
      else o.2.updDie d fun k => { k with bands := k.bands ++ [⟨g.sweep, g.band, if g.tb ≤ o.2.tick then .missed 0 else .posted, g.site, g.slots, false⟩] } := by
  have hdescriptor : State.bandDescriptor r g = descriptor r g := by
    unfold State.bandDescriptor descriptor
    rw [one_sub_frontCopy]
    rfl
  refine (if_neg (by simp [hscan, hband])).trans ?_
  rw [h]
  refine (if_neg (by rw [hreach]; decide)).trans ?_
  rw [hdescriptor]
  rfl

/-- A kernel with fewer tiles than the band needs gets no record. -/
theorem postBand_tiles {n : Nat} (hscan : s.scanning = true) (hband : g.band < State.viewBands r)
    (h : s.engineWritable (State.kilnCtx r) (r.kdesc.toNat + 64 * g.band) 64 = .ok ia) (hreach : s.kilnReaches (State.kilnCtx r) (r.kdesc.toNat + 64 * g.band) 64 = true)
    (htiles : (described s r g ia).headerTiles (State.kilnCtx r) (r.knode.toNat / 32 * 32) = some n) (hfew : n < ceilDiv (State.viewWidth r) 128 + State.kilnHidden r) :
    s.postBand d r g = (described s r g ia).noRecord d g 3 :=
  (postBand_written hscan hband h hreach).trans (if_pos (by rw [htiles]; exact decide_eq_true hfew))

/-- Any other one gets its record, or the band is missed with cause 1 where the post is not accepted. -/
theorem postBand_posts (hscan : s.scanning = true) (hband : g.band < State.viewBands r)
    (h : s.engineWritable (State.kilnCtx r) (r.kdesc.toNat + 64 * g.band) 64 = .ok ia) (hreach : s.kilnReaches (State.kilnCtx r) (r.kdesc.toNat + 64 * g.band) 64 = true)
    (hfit : ∀ n, (described s r g ia).headerTiles (State.kilnCtx r) (r.knode.toNat / 32 * 32) = some n → ceilDiv (State.viewWidth r) 128 + State.kilnHidden r ≤ n) :
    s.postBand d r g =
      let o := bandPost (described s r g ia) d r g
      if o.1 ≠ 0 then o.2.noRecord d g 1
      else o.2.updDie d fun k => { k with bands := k.bands ++ [⟨g.sweep, g.band, if g.tb ≤ o.2.tick then .missed 0 else .posted, g.site, g.slots, false⟩] } := by
  refine (postBand_written hscan hband h hreach).trans (if_neg (Bool.eq_false_iff.mp ?_))
  cases htiles : (described s r g ia).headerTiles (State.kilnCtx r) (r.knode.toNat / 32 * 32) with
  | none => rfl
  | some n => exact decide_eq_false (Nat.not_lt.mpr (hfit n htiles))

end

/-! ### DMODE (R414) -/

/-- The bits of DMODE that can be written. -/
def modeBits (v : W64) : W64 := v &&& (maskBits 63 58 ||| maskBits 44 32 ||| maskBits 19 0)

/-- A value of DMODE that is ignored: lines too short, none, fewer than a view has, or two equal link numbers. -/
def ModeIgnored (s : State) (w : W64) : Prop :=
  natField w.toNat 0 20 < 100 ∨ natField w.toNat 32 13 = 0 ∨ (∃ r ∈ s.render, natField w.toNat 32 13 < State.viewHeight r) ∨
    (w.getLsbD 62 = false ∧ natField w.toNat 58 2 = natField w.toNat 60 2)

theorem modeIgnored_iff (s : State) (w : W64) :
    (natField w.toNat 0 20 < 100 ∨ natField w.toNat 32 13 = 0 ∨ (s.render.any fun r => decide (natField w.toNat 32 13 < State.viewHeight r)) = true ∨
      (!(w.getLsbD 62) && natField w.toNat 58 2 == natField w.toNat 60 2) = true) ↔ ModeIgnored s w := by
  simp only [ModeIgnored, List.any_eq_true, decide_eq_true_eq, Bool.and_eq_true, Bool.not_eq_true', beq_iff_eq]

theorem dmodeWrite_ignored {s : State} {v : W64} (h : ModeIgnored s (modeBits v)) : s.dmodeWrite v = s :=
  if_pos ((modeIgnored_iff s _).mpr h)

/-- A value that is not ignored waits while a sweep is scanned out, and else is taken at once. -/
theorem dmodeWrite_taken {s : State} {v : W64} (h : ¬ ModeIgnored s (modeBits v)) :
    s.dmodeWrite v = if s.scanning then { s with pkg := { s.pkg with dmodeWait := some (modeBits v) } }
      else if (modeBits v).getLsbD 63 then
        ({ s with pkg := { s.pkg with dmode := modeBits v, dstart := BitVec.ofNat 64 (s.tick + 1), sweeping := false } } : State).atTick (s.tick + 1) .sweepBoundary
      else { s with pkg := { s.pkg with dmode := modeBits v } } :=
  if_neg (mt (modeIgnored_iff s _).mp h)

end Sys2Proof.Proofs.Execution
end

section
/-! PROOFS. Draws of the Sextant (for O48). -/

namespace Sys2Proof.Proofs.Execution

open Sys2Proof Sys2Proof.Machine Sys2Proof.Claims

/-! ### A die's draws (R384) -/

section
variable {s t : State} {d : Nat} {r : Render} {b : Draw}

theorem drawOf_some (h : s.drawOf d = some (r, b)) : s.die d = some r ∧ ∃ rest, r.blocks = b :: rest := by
  obtain ⟨r', hr, hb⟩ := Option.bind_eq_some_iff.mp h
  obtain ⟨b', hhead, heq⟩ := Option.map_eq_some_iff.mp hb
  cases heq
  exact ⟨hr, List.head?_eq_some_iff.mp hhead⟩

theorem drawOf_cons {rest : List Draw} (hr : s.die d = some r) (hblocks : r.blocks = b :: rest) : s.drawOf d = some (r, b) := by
  simp [State.drawOf, hr, hblocks]

theorem drawOf_nil (hr : s.die d = some r) (hblocks : r.blocks = []) : s.drawOf d = none := by
  simp [State.drawOf, hr, hblocks]

theorem drawOf_of_render (h : t.render = s.render) (d : Nat) : t.drawOf d = s.drawOf d := by
  rw [State.drawOf, State.drawOf, die_of_render h]

/-- A change of the first draw is a change of the die's draw. -/
theorem drawOf_updDraw (h : s.drawOf d = some (r, b)) (f : Draw → Draw) : ∃ r', (s.updDraw d b.id f).drawOf d = some (r', f b) := by
  obtain ⟨hr, rest, hblocks⟩ := drawOf_some h
  exact ⟨_, drawOf_cons (die_updDie_same hr _) (by simp [hblocks, mapIf]; rfl)⟩

end

/-- No die's draws have changed. -/
def SameBlocks (s t : State) : Prop := ∀ d, (t.die d).map (·.blocks) = (s.die d).map (·.blocks)

theorem SameBlocks.trans {s t u : State} (h₁ : SameBlocks s t) (h₂ : SameBlocks t u) : SameBlocks s u := fun d => (h₂ d).trans (h₁ d)

theorem sameBlocks_of_render {s t : State} (h : t.render = s.render) : SameBlocks s t := fun d => by rw [die_of_render h]

theorem SameBlocks.drawOf {s t : State} {d : Nat} {r : Render} {b : Draw} (hsame : SameBlocks s t) (h : s.drawOf d = some (r, b)) :
    ∃ r', t.drawOf d = some (r', b) := by
  obtain ⟨hr, rest, hblocks⟩ := drawOf_some h
  obtain ⟨r', hr', heq⟩ := Option.map_eq_some_iff.mp ((hsame d).trans (congrArg (Option.map (·.blocks)) hr))
  exact ⟨r', drawOf_cons hr' (heq.trans hblocks)⟩

theorem sameBlocks_updDie (s : State) (d : Nat) {f : Render → Render} (hf : ∀ r, (f r).blocks = r.blocks) : SameBlocks s (s.updDie d f) := fun e => by
  rw [die_updDie, Option.map_map]
  refine Option.map_congr fun r _ => ?_
  rw [Function.comp_apply]
  split
  · exact hf r
  · rfl

/-! ### What an engine's accesses leave of the render blocks (R169, R381, R413) -/

theorem engineRead_render {s t : State} {ctx va n : Nat} {bs : List Byte} (h : s.engineRead ctx va n = .ok (bs, t)) : t.render = s.render := by
  unfold State.engineRead at h
  split at h
  · cases h
  · split at h
    · cases h
    · split at h
      · next q hread =>
        cases h
        exact (congrArg State.render (onlyMemory_deviceRead hread) :)
      · unfold State.metError at h
        split at h
        · cases h
        · split at h <;> cases h

theorem readCells_render {s t : State} {ctx : Nat} {vas es : List Nat} (h : s.readCells ctx vas = .ok (es, t)) : t.render = s.render := by
  induction vas generalizing s es with
  | nil => cases h; rfl
  | cons va rest ih =>
    unfold State.readCells at h
    split at h
    · next bs s1 hread =>
      split at h
      · next more s2 hrest =>
        cases h
        exact (ih hrest).trans (engineRead_render hread)
      · next hfail =>
        exact absurd h (hfail es t)
    · cases h
    · cases h
    · cases h

theorem sameBlocks_applyRender (s : State) (d : Nat) (ws : List (Nat × W64)) : SameBlocks s (s.applyRender d ws) := by
  unfold State.applyRender
  split
  · exact sameBlocks_of_render rfl
  · dsimp only
    refine SameBlocks.trans (fun e => ?_) (sameBlocks_updDie _ d fun r => rfl)
    rw [die_zeroHidden]

theorem sameBlocks_snapGo (s : State) (d n : Nat) : SameBlocks s (s.snapGo d n) := by
  unfold State.snapGo
  split
  · exact sameBlocks_of_render rfl
  · refine SameBlocks.trans (t := s.updDie d _) ?_ (sameBlocks_of_render rfl)
    exact sameBlocks_updDie s d fun r => rfl

/-- The registers of a render block are none of its draws. -/
theorem sameBlocks_renderWrite (s : State) (d o : Nat) (v : W64) : SameBlocks s (s.renderWrite d o v) := by
  unfold State.renderWrite
  dsimp only
  split
  · split
    · exact sameBlocks_of_render rfl
    · exact sameBlocks_updDie s d fun r => rfl
  · split
    · split
      · exact sameBlocks_updDie s d fun r => rfl
      · exact sameBlocks_updDie s d fun r => rfl
      · split
        · refine SameBlocks.trans ?_ (sameBlocks_snapGo _ d _)
          exact sameBlocks_updDie s d fun r => rfl
        · exact sameBlocks_updDie s d fun r => rfl
      · exact sameBlocks_of_render rfl
    · split
      · exact sameBlocks_of_render rfl
      · split
        · exact sameBlocks_updDie s d fun r => rfl
        · exact sameBlocks_applyRender s d _

theorem dmodeWrite_render (s : State) (v : W64) : (s.dmodeWrite v).render = s.render := by
  unfold State.dmodeWrite
  dsimp only
  split
  · rfl
  · split
    · rfl
    · split <;> rfl

theorem siltStore_render (s : State) (d o : Nat) (bs : List Byte) : (s.siltStore d o bs).render = s.render :=
  List.foldlRecOn (motive := fun t : State => t.render = s.render) _ _ rfl fun t ht p _ => by
    split <;> exact ht

/-- What a device thread may write of the aperture is none of the draws. -/
theorem sameBlocks_blockWrite {s t : State} {k : State.Block} {v : W64} (hdevice : k.device = true) (h : s.blockWrite k v = some t) : SameBlocks s t := by
  cases k with
  | silt d o => cases h
  | render d o =>
    cases h
    exact sameBlocks_renderWrite s d o v
  | display o =>
    cases h
    refine sameBlocks_of_render ?_
    split
    · exact dmodeWrite_render s v
    · rfl
  | queue c o =>
    unfold State.blockWrite at h
    dsimp only at h
    split at h
    · cases h
    · cases h
      refine sameBlocks_of_render ?_
      split
      · rfl
      · split
        · rw [cancelGroups_eq]
          rfl
        · rfl
  | faultRing | sup | package | memDie | messages => cases hdevice

theorem sameBlocks_blockStore {s t : State} {ia : Nat} {bs : List Byte} {k : Option State.Block} (h : s.blockStore true ia bs k = .ok t) : SameBlocks s t := by
  unfold State.blockStore at h
  split at h
  · cases h
  · next d o =>
    cases h
    exact sameBlocks_of_render (siltStore_render s d o bs)
  · next k _ =>
    split at h
    · cases h
    · next hdevice =>
      split at h
      · cases h
      · split at h
        · next hwrite =>
          cases h
          exact sameBlocks_blockWrite (by simpa using hdevice) hwrite
        · cases h

theorem sameBlocks_engineWrite (s : State) (ctx ia : Nat) (bs : List Byte) : SameBlocks s (s.engineWrite ctx ia bs).1 := by
  unfold State.engineWrite State.deviceWrite
  split
  · next q hwrite =>
    split at hwrite
    · split at hwrite
      · cases hwrite
      · cases hwrite
        exact sameBlocks_of_render (congrArg State.render (onlyMemory_homePut s ctx bs 0 (State.unitSpans ia bs.length)) :)
    · split at hwrite
      · cases hstore : s.apertureWrite true ia bs with
        | error e => rw [hstore] at hwrite; cases hwrite
        | ok t => rw [hstore] at hwrite; cases hwrite; exact sameBlocks_blockStore hstore
      · split at hwrite
        · cases hwrite
        · split at hwrite
          · cases hwrite
          · cases hwrite
            exact sameBlocks_of_render rfl
  · exact sameBlocks_of_render rfl

theorem sameBlocks_drawWrites (s : State) (b : Draw) (ia : Nat) (bs : List Byte) : SameBlocks s (s.drawWrites b ia bs) := by
  refine (sameBlocks_engineWrite s b.ctx ia bs).trans (sameBlocks_of_render ?_)
  unfold State.drawWrites State.ackedFrom State.noteRemote
  dsimp only
  split <;> split <;> rfl

theorem validate_render {s t : State} {ctx : Nat} {bs : List Byte} {p : Poster} {r : Record} (h : s.validate ctx bs p = .ok (r, t)) : t.render = s.render := by
  unfold State.validate at h
  dsimp only at h
  cases hread : s.contextRead ctx (fieldAt bs 0 8) 32 with
  | error e =>
    simp only [hread] at h
    repeat' split at h
    all_goals cases h
  | ok q =>
    have hrender : q.2.render = s.render := (congrArg State.render (onlyMemory_contextRead hread) :)
    simp only [hread] at h
    repeat' split at h
    all_goals cases h
    exact hrender

theorem devicePost_render (s : State) (ctx : Nat) (bs : List Byte) (p : Poster) : (s.devicePost ctx bs p).2.render = s.render := by
  unfold State.devicePost
  split
  · cases hvalid : s.validate ctx bs p with
    | ok q =>
      rw [post_ok hvalid]
      exact validate_render (r := q.1) (t := q.2) hvalid
    | error code =>
      unfold State.post
      rw [hvalid]
      dsimp only
      split
      · unfold State.reportRead State.reportMalformed
        dsimp only
        split
        · split <;> rfl
        · rfl
      · rfl
  · rfl

/-! ### The end of a draw (R390) -/

theorem endDraw_render (s : State) (d : Nat) (b : Draw) (status : Nat) :
    (s.endDraw d b status).render = (s.updDie d fun r => { r with blocks := r.blocks.filter fun k => k.id != b.id }).render := by
  unfold State.endDraw
  dsimp only
  split
  · rfl
  · split
    · split
      · unfold State.endCommand State.lookAgain
        split
        · rfl
        · dsimp only
          split <;> rfl
      · rfl
    · rfl

theorem endDraw_die {s : State} {d : Nat} {r : Render} (hr : s.die d = some r) (b : Draw) (status : Nat) :
    (s.endDraw d b status).die d = some { r with blocks := r.blocks.filter fun k => k.id != b.id } :=
  (die_of_render (endDraw_render s d b status) d).trans (die_updDie_same hr _)

/-- A happening that ends a draw leaves its die without it. -/
theorem drawOver_endDraw {s t : State} {i : Instr} {d : Nat} {r : Render} {b : Draw} {status : Nat} (hr : t.die d = some r)
    (h : exec i s = .next (t.endDraw d b status)) : DrawOver s i d b.id :=
  ⟨_, _, h, endDraw_die hr b status, List.all_eq_true.mpr fun _ hk => (List.mem_filter.mp hk).2⟩

/-- A post is accepted, or the queue is full and it is made again, or the draw ends. -/
theorem posted_cases {s : State} {i : Instr} {d : Nat} {r : Render} {b : Draw} {o : Nat × State} {f : Draw → Draw} (hr : o.2.die d = some r)
    (h : exec i s = .next (if o.1 = 0 then o.2.updDraw d b.id f else if o.1 = Code.full then o.2 else o.2.endDraw d b 1)) :
    (o.1 = 0 → exec i s = .next (o.2.updDraw d b.id f)) ∧ (o.1 = Code.full → exec i s = .next o.2) ∧ (o.1 ≠ 0 → o.1 ≠ Code.full → DrawOver s i d b.id) := by
  refine ⟨fun hzero => ?_, fun hfull => ?_, fun hzero hfull => ?_⟩
  · rw [if_pos hzero] at h
    exact h
  · rw [hfull] at h
    exact h
  · rw [if_neg hzero, if_neg hfull] at h
    exact drawOver_endDraw hr h

/-! ### The start of a draw (R384 to R386) -/

section
variable {s s1 s2 : State} {d : Nat} {r : Render} {b : Draw} {bytes : List Byte} {es : List Nat}

theorem startDraw_malformed (hread : s.engineRead b.ctx b.block.toNat 64 = .ok (bytes, s1)) (hbad : ({ b with bytes := bytes } : Draw).malformed r = true) :
    s.startDraw d r b = s1.endDraw d { b with bytes := bytes } 1 := by
  unfold State.startDraw
  rw [hread]
  exact if_pos hbad

theorem startDraw_ready (hread : s.engineRead b.ctx b.block.toNat 64 = .ok (bytes, s1)) (hgood : ({ b with bytes := bytes } : Draw).malformed r = false)
    (hcells : let b1 : Draw := { b with bytes := bytes }
      s1.readCells b.ctx ((List.range (b1.cw * b1.ch)).map (b1.cellVa r)) = .ok (es, s2)) :
    let b1 : Draw := { b with bytes := bytes }
    s.startDraw d r b = s2.updDraw d b.id fun k => { k with
      bytes := bytes, prio := es.map (b1.priority (s2.chrono (State.dieUnit d))), phase := if b1.policyNode = 0 then .ready else .priorities } := by
  unfold State.startDraw
  rw [hread]
  dsimp only at hcells ⊢
  rw [hgood, hcells]
  rfl

theorem policyStep_priorities (h : s.drawOf d = some (r, b)) (hphase : b.phase = .priorities) : s.policyStep d = s.writePriorities d b := by
  unfold State.policyStep
  rw [h]
  dsimp only
  rw [hphase]

theorem policyStep_policy (h : s.drawOf d = some (r, b)) (hphase : b.phase = .policy) : s.policyStep d = s.postPolicy d b := by
  unfold State.policyStep
  rw [h]
  dsimp only
  rw [hphase]

theorem policyStep_ready (h : s.drawOf d = some (r, b)) (hphase : b.phase = .ready) : s.policyStep d = s := by
  unfold State.policyStep
  rw [h]
  dsimp only
  rw [hphase]

theorem policyStep_none (h : s.drawOf d = none) : s.policyStep d = s := by
  unfold State.policyStep
  rw [h]

theorem writePriorities_ok {ia : Nat} (h : s.engineWritable b.ctx b.prioBuf (2 * b.prio.length) = .ok ia) :
    s.writePriorities d b = (s.drawWrites b ia (b.prio.flatMap fun p => leBytes 2 p)).updDraw d b.id fun k => { k with phase := .policy } := by
  unfold State.writePriorities
  rw [h]

/-! ### Waves (R389, R390) -/

/-- A wave with a sample to be resolved, or that is written, is not written. -/
theorem writeWave_held {w : Wave} (h : w.written = true ∨ ∃ q ∈ w.samples, q.found = none) : s.writeWave d b w = s := by
  unfold State.writeWave
  refine if_pos ?_
  rcases h with hwritten | ⟨q, hq, hnone⟩
  · rw [hwritten, Bool.true_or]
  · rw [List.any_eq_true.mpr ⟨q, hq, by rw [hnone]; rfl⟩, Bool.or_true]

theorem writeWave_out {w : Wave} {ia : Nat} (hwritten : w.written = false) (hall : ∀ q ∈ w.samples, q.found.isSome = true) (hat : waveAt s b w = .ok ia) :
    s.writeWave d b w = waveOut s d b w ia := by
  have hresolved : (w.samples.any fun p => p.found.isNone) = false := List.any_eq_false.mpr fun q hq => by simp [Option.isSome_iff_ne_none.mp (hall q hq)]
  have hat' : s.engineWritable b.ctx (b.waveVa w.k) (16 + 16 * w.samples.length) = .ok ia := hat
  unfold State.writeWave
  rw [hwritten, hresolved, hat']
  rfl

theorem closeWave_full (h : b.entries ≠ []) : s.closeWave d b = (waveFull s d b.id ⟨b.waveNo, b.entries, false⟩).writeWave d b ⟨b.waveNo, b.entries, false⟩ := by
  unfold State.closeWave
  exact if_neg (by simpa using h)

theorem closeWave_empty (h : b.entries = []) : s.closeWave d b = s := by
  unfold State.closeWave
  exact if_pos (by simp [h])

end

/-! ### The cell of a position (R387) -/

/-- H of a cell. -/
def cellHash (b : Draw) (c : Nat) : Nat := (mix (BitVec.ofNat 64 b.key) (BitVec.ofNat 64 (c * 2 ^ 32 + b.t0 % 2 ^ 32))).toNat / 2 ^ 48

/-- The better of the best cell so far and another: the other one where its H is higher. -/
def betterCell (hash : Nat → Nat) (best : Option (Nat × Nat)) (p : Nat × Nat) : Option (Nat × Nat) :=
  match best with
  | none => some (hash p.2, p.2)
  | some m => if m.1 < hash p.2 then some (hash p.2, p.2) else some m

theorem choose_eq (b : Draw) :
    b.choose = if b.prio.foldl max 0 = 0 then none
      else ((b.prio.zipIdx.filter fun p => p.1 == b.prio.foldl max 0).foldl (betterCell (cellHash b)) none).map (·.2) := rfl

theorem le_foldl_max (l : List Nat) (n : Nat) : n ≤ l.foldl max n ∧ ∀ q ∈ l, q ≤ l.foldl max n := by
  induction l generalizing n with
  | nil => exact ⟨Nat.le_refl n, nofun⟩
  | cons x l ih =>
    obtain ⟨hn, hl⟩ := ih (max n x)
    rw [List.foldl_cons]
    exact ⟨by omega, fun q hq => (List.mem_cons.mp hq).elim (fun heq => by omega) (hl q)⟩

/-- From a best cell on, the best of cells in rising order is one of them or that cell, of the highest H and of these the first. -/
theorem foldl_betterCell {hash : Nat → Nat} {l : List (Nat × Nat)} {c : Nat} {m : Nat × Nat} (hsorted : l.Pairwise fun p q => p.2 < q.2) (hfirst : ∀ p ∈ l, c < p.2)
    (h : l.foldl (betterCell hash) (some (hash c, c)) = some m) :
    (m.2 = c ∨ ∃ p ∈ l, p.2 = m.2) ∧ ∀ k, (k = c ∨ ∃ p ∈ l, p.2 = k) → hash k < hash m.2 ∨ hash k = hash m.2 ∧ m.2 ≤ k := by
  induction l generalizing c with
  | nil =>
    cases h
    exact ⟨.inl rfl, fun k hk => hk.elim (fun heq => .inr ⟨by rw [heq], Nat.le_of_eq heq.symm⟩) fun ⟨_, hp, _⟩ => nomatch hp⟩
  | cons x l ih =>
    obtain ⟨hx, hl⟩ := List.pairwise_cons.mp hsorted
    have hcx : c < x.2 := hfirst x (List.mem_cons_self ..)
    rw [List.foldl_cons, betterCell] at h
    dsimp only at h
    split at h
    · next hbetter =>
      obtain ⟨hmem, hbest⟩ := ih hl hx h
      refine ⟨.inr (hmem.elim (fun heq => ⟨x, List.mem_cons_self .., heq.symm⟩) fun ⟨p, hp, heq⟩ => ⟨p, List.mem_cons_of_mem _ hp, heq⟩), ?_⟩
      rintro k (rfl | ⟨p, hp, rfl⟩)
      · have := hbest x.2 (.inl rfl)
        omega
      · rcases List.mem_cons.mp hp with rfl | hp
        · exact hbest _ (.inl rfl)
        · exact hbest _ (.inr ⟨p, hp, rfl⟩)
    · next hworse =>
      obtain ⟨hmem, hbest⟩ := ih hl (fun p hp => hfirst p (List.mem_cons_of_mem _ hp)) h
      refine ⟨hmem.imp_right fun ⟨p, hp, heq⟩ => ⟨p, List.mem_cons_of_mem _ hp, heq⟩, ?_⟩
      rintro k (rfl | ⟨p, hp, rfl⟩)
      · exact hbest _ (.inl rfl)
      · rcases List.mem_cons.mp hp with rfl | hp
        · have := hbest c (.inl rfl)
          omega
        · exact hbest _ (.inr ⟨p, hp, rfl⟩)

/-- A position takes a cell of the highest P, which is not 0, and of these one of the highest H, and of these the lowest. -/
theorem choose_best {b : Draw} {c : Nat} (h : b.choose = some c) :
    ∃ p, b.prio[c]? = some p ∧ 0 < p ∧ ∀ k q, b.prio[k]? = some q → q ≤ p ∧ (q = p → cellHash b k < cellHash b c ∨ (cellHash b k = cellHash b c ∧ c ≤ k)) := by
  rw [choose_eq] at h
  split at h
  · cases h
  · next htop =>
    obtain ⟨m, hfold, rfl⟩ := Option.map_eq_some_iff.mp h
    generalize hcells : (b.prio.zipIdx.filter fun p => p.1 == b.prio.foldl max 0) = cells at hfold
    have hmem : ∀ k, (∃ p ∈ cells, p.2 = k) ↔ b.prio[k]? = some (b.prio.foldl max 0) := by
      intro k
      subst hcells
      simp [List.mem_filter, List.mem_zipIdx_iff_getElem?]
    have hsorted : cells.Pairwise fun p q => p.2 < q.2 := by
      have hindices : b.prio.zipIdx.Pairwise fun p q => p.2 < q.2 := by
        rw [← List.pairwise_map (f := Prod.snd), List.zipIdx_map_snd]
        exact List.pairwise_lt_range'
      exact hcells ▸ hindices.filter _
    cases cells with
    | nil => cases hfold
    | cons x l =>
      obtain ⟨hx, hl⟩ := List.pairwise_cons.mp hsorted
      obtain ⟨hchosen, hbest⟩ := foldl_betterCell hl hx hfold
      refine ⟨_, (hmem m.2).mp ?_, Nat.pos_of_ne_zero htop, fun k q hq => ⟨(le_foldl_max b.prio 0).2 q (List.mem_of_getElem? hq), ?_⟩⟩
      · exact hchosen.elim (fun heq => ⟨x, List.mem_cons_self .., heq.symm⟩) fun ⟨p, hp, heq⟩ => ⟨p, List.mem_cons_of_mem _ hp, heq⟩
      · rintro rfl
        obtain ⟨p, hp, rfl⟩ := (hmem k).mpr hq
        exact hbest p.2 ((List.mem_cons.mp hp).imp (congrArg Prod.snd) fun hp => ⟨p, hp, rfl⟩)

/-! ### Snapshots (R394, R412) -/

/-- A snapshot of no triangle, or with a malformed one. -/
def SnapshotMalformed (tris : List (List Byte)) : Prop := tris = [] ∨ ∃ raw ∈ tris, fieldAt raw 40 8 ≠ 0 ∨ triangleOf raw = none

theorem snapshotMalformed_iff (tris : List (List Byte)) :
    (tris.isEmpty || (tris.any fun raw => fieldAt raw 40 8 != 0) || (tris.map triangleOf).any (·.isNone)) = true ↔ SnapshotMalformed tris := by
  simp only [SnapshotMalformed, Bool.or_eq_true, List.isEmpty_iff, List.any_map, List.any_eq_true, Function.comp_apply, bne_iff_ne, Option.isNone_iff_eq_none, and_or_left, exists_or, or_assoc]

theorem binSnapshot_malformed {r : Render} {n : Nat} {tris : List (List Byte)} (h : SnapshotMalformed tris) : State.binSnapshot r n tris = (3, []) :=
  if_pos ((snapshotMalformed_iff tris).mpr h)

/-- Another one is usable where its entries fit with those of the others. -/
theorem binSnapshot_wellFormed {r : Render} {n : Nat} {tris : List (List Byte)} (h : ¬ SnapshotMalformed tris) :
    State.binSnapshot r n tris =
      if 2 ^ 20 < sumBy (fun (p : Nat × List (List Byte)) => if p.1 = n then 0 else sumBy (tilesOf r) (p.2.filterMap triangleOf)) r.binned + sumBy (tilesOf r) (tris.filterMap triangleOf)
        then (2, []) else (1, tris) :=
  if_neg (mt (snapshotMalformed_iff tris).mp h)

theorem execSnapshotBinned_next {s s1 : State} {d n : Nat} {r : Render} {addr : W64} {count : Nat} {bs : List Byte} (hr : s.die d = some r)
    (hbinning : (r.binning.find? fun b => b.1 == n) = some (n, addr, count)) (hused : State.snapshotUsed r n = false)
    (hread : s.engineRead (State.kilnCtx r) addr.toNat (48 * count) = .ok (bs, s1)) :
    exec (.snapshotBinned d n) s =
      let q := State.binSnapshot r n ((List.range count).map fun k => (bs.drop (48 * k)).take 48)
      .next (s1.setBinned d n q.1 q.2) := by
  show execSnapshotBinned d n s = _
  simp only [execSnapshotBinned, hr, hbinning, hused, hread, Bool.false_eq_true, if_false]

/-! ### Positions (R387, R388) -/

/-- The sample of a position in a cell whose map entry is e. -/
def positionSample (r : Render) (b : Draw) (c e : Nat) : Sample :=
  let q := natField e 24 8
  let stamp := b.t0 + b.n + 1
  let snap := if b.probes then snapshotFor r stamp else none
  ⟨32 * (b.cx0 + c % b.cw) + reverseBits 5 (q % 32), 32 * (b.cy0 + c / b.cw) + reverseBits 5 ((q ^^^ (q / 2)) % 32), stamp % 2 ^ 32, snap,
    if b.probes then (if snap.isNone then some (0xFFFFFFFF, 0x7F800000) else none) else some (0, 0)⟩

/-- The draw behind a position. -/
def positioned (b : Draw) (c : Nat) (p : Sample) : Draw :=
  { b with prio := modifyAt (· / 2) c b.prio, n := b.n + 1, entries := b.entries ++ [p], blocked := none }

/-- The cell's map entry is written, and the draw goes on to b1. -/
def entryTaken (s : State) (d : Nat) (b b1 : Draw) (ia e : Nat) : State :=
  (s.drawWrites b ia (leBytes 3 e ++ leBytes 1 (natField e 24 8 + 1) ++ leBytes 4 (b.t0 + b.n + 1))).updDraw d b.id fun k =>
    { k with prio := b1.prio, n := b1.n, entries := b1.entries, blocked := none }

section
variable {s s1 : State} {d c ia e : Nat} {r : Render} {b : Draw}

/-- No position is left where all have been drawn, or no cell has a P above 0. -/
theorem drawPosition_over (h : b.npos ≤ b.n ∨ b.choose = none) : s.drawPosition d r b = (s.updDraw d b.id fun k => { k with phase := .posting }).closeWave d b := by
  have hnone : (if b.npos ≤ b.n then none else b.choose) = none := by
    rcases h with hall | hcell
    · exact if_pos hall
    · rw [hcell, ite_self]
  unfold State.drawPosition
  rw [hnone]
  rfl

theorem drawPosition_cell (hn : b.n < b.npos) (hc : b.choose = some c) (hentry : s.engineAtomic b.ctx (b.cellVa r c) = .ok (ia, e, s1)) :
    let b1 := positioned b c (positionSample r b c e)
    s.drawPosition d r b = if b1.entries.length = b.waveSize then (entryTaken s1 d b b1 ia e).closeWave d b1 else entryTaken s1 d b b1 ia e := by
  unfold State.drawPosition
  rw [if_neg (Nat.not_le.mpr hn), hc]
  dsimp only
  rw [hentry]
  rfl

/-! ### The happenings of a draw -/

theorem exec_sextantDrawStart (h : s.drawOf d = some (r, b)) (hphase : b.phase = .waiting) (hgoes : s.unblocked b = true) :
    exec (.sextantDrawStart d) s = .next ((((awake s d b.id).startDraw d r { b with blocked := none }).policyStep d).policyStep d) := by
  show execSextantDrawStart d s = _
  simp only [execSextantDrawStart, h, hphase, hgoes, beq_self_eq_true, Bool.and_self, if_true]
  rfl

/-- A draw whose block is malformed ends at once. -/
theorem drawStart_malformed {bytes : List Byte} (h : s.drawOf d = some (r, b)) (hphase : b.phase = .waiting) (hgoes : s.unblocked b = true)
    (hread : (awake s d b.id).engineRead b.ctx b.block.toNat 64 = .ok (bytes, s1)) (hbad : ({ b with bytes := bytes, blocked := none } : Draw).malformed r = true)
    (halone : r.blocks = [b]) : DrawOver s (.sextantDrawStart d) d b.id := by
  have hnext := exec_sextantDrawStart h hphase hgoes
  have hdie : s1.die d = some { r with blocks := [{ b with blocked := none }] } :=
    (die_of_render (engineRead_render hread) d).trans ((die_updDie_same (drawOf_some h).1 _).trans (by simp [halone, mapIf]))
  have hover : (s1.endDraw d { b with bytes := bytes, blocked := none } 1).drawOf d = none := drawOf_nil (endDraw_die hdie _ 1) (by simp)
  rw [startDraw_malformed (b := { b with blocked := none }) hread hbad, policyStep_none hover, policyStep_none hover] at hnext
  exact drawOver_endDraw hdie hnext

/-- A well-formed draw with its priorities, in a phase. -/
def prioritized (s : State) (d id : Nat) (bytes : List Byte) (prio : List Nat) (p : DrawPhase) : State :=
  s.updDraw d id fun k => { k with bytes := bytes, prio := prio, phase := p }

/-- It is ready, or has a policy whose priorities come next. -/
theorem drawStart_wellFormed {s2 : State} {bytes : List Byte} {es : List Nat} (h : s.drawOf d = some (r, b)) (hphase : b.phase = .waiting) (hgoes : s.unblocked b = true)
    (hread : (awake s d b.id).engineRead b.ctx b.block.toNat 64 = .ok (bytes, s1)) (hgood : ({ b with bytes := bytes, blocked := none } : Draw).malformed r = false)
    (hcells : let b1 : Draw := { b with bytes := bytes, blocked := none }
      s1.readCells b.ctx ((List.range (b1.cw * b1.ch)).map (b1.cellVa r)) = .ok (es, s2)) :
    let b1 : Draw := { b with bytes := bytes, blocked := none }
    let prio := es.map (b1.priority (s2.chrono (State.dieUnit d)))
    (b1.policyNode = 0 → exec (.sextantDrawStart d) s = .next (prioritized s2 d b.id bytes prio .ready)) ∧
    (b1.policyNode ≠ 0 → exec (.sextantDrawStart d) s = .next (((prioritized s2 d b.id bytes prio .priorities).policyStep d).policyStep d)) ∧
    ∀ p, ∃ r', (prioritized s2 d b.id bytes prio p).drawOf d = some (r', { b1 with prio := prio, phase := p }) := by
  intro b1 prio
  have hnext := exec_sextantDrawStart h hphase hgoes
  have hstart := startDraw_ready (d := d) (b := { b with blocked := none }) hread hgood hcells
  obtain ⟨r1, hawake⟩ := drawOf_updDraw h fun k => { k with blocked := none }
  have hread2 : s2.drawOf d = some (r1, { b with blocked := none }) := (drawOf_of_render ((readCells_render hcells).trans (engineRead_render hread)) d).trans hawake
  have hdraws : ∀ p, ∃ r', (prioritized s2 d b.id bytes prio p).drawOf d = some (r', { b1 with prio := prio, phase := p }) := fun p =>
    drawOf_updDraw hread2 fun k => { k with bytes := bytes, prio := prio, phase := p }
  refine ⟨fun hnone => ?ready, fun hsome => ?policy, hdraws⟩
  case ready =>
    obtain ⟨r2, hready⟩ := hdraws .ready
    have hstarts : (awake s d b.id).startDraw d r { b with blocked := none } = prioritized s2 d b.id bytes prio .ready := hstart.trans (by rw [if_pos hnone]; rfl)
    rw [hstarts, policyStep_ready hready rfl, policyStep_ready hready rfl] at hnext
    exact hnext
  case policy =>
    have hstarts : (awake s d b.id).startDraw d r { b with blocked := none } = prioritized s2 d b.id bytes prio .priorities := hstart.trans (by rw [if_neg hsome]; rfl)
    rw [hstarts] at hnext
    exact hnext

/-- The priorities of a draw are written, and its policy record is posted, one after the other. -/
theorem policyStep_policyStep (h : s.drawOf d = some (r, b)) (hphase : b.phase = .priorities) (hwritable : s.engineWritable b.ctx b.prioBuf (2 * b.prio.length) = .ok ia) :
    let t := (s.drawWrites b ia (b.prio.flatMap fun p => leBytes 2 p)).updDraw d b.id fun k => { k with phase := .policy }
    (s.policyStep d).policyStep d = t.postPolicy d { b with phase := .policy } ∧ ∃ r', t.die d = some r' := by
  intro t
  obtain ⟨r1, hwritten⟩ := (sameBlocks_drawWrites s b ia (b.prio.flatMap fun p => leBytes 2 p)).drawOf h
  obtain ⟨r2, hpolicy⟩ := drawOf_updDraw hwritten fun k => { k with phase := .policy }
  rw [policyStep_priorities h hphase, writePriorities_ok hwritable]
  exact ⟨policyStep_policy hpolicy rfl, r2, (drawOf_some hpolicy).1⟩

theorem exec_policyRecordRepost (h : s.drawOf d = some (r, b)) (hgoes : s.unblocked b = true) :
    exec (.policyRecordRepost d) s = .next ((awake s d b.id).policyStep d) := by
  show execPolicyRecordRepost d s = _
  simp only [execPolicyRecordRepost, h, hgoes, if_true]
  rfl

theorem exec_selectionStart (h : s.drawOf d = some (r, b)) (hphase : b.phase = .ready) :
    exec (.selectionStart d) s = .next (s.updDraw d b.id fun k => { k with phase := .selecting, t0 := s.chrono (State.dieUnit d), n := 0 }) := by
  show execSelectionStart d s = _
  simp only [execSelectionStart, h, hphase, beq_self_eq_true, if_true]

theorem exec_positionDraw (h : s.drawOf d = some (r, b)) (hphase : b.phase = .selecting) (hgoes : s.unblocked b = true)
    (hdue : b.t0 + b.n + 1 ≤ s.chrono (State.dieUnit d)) : exec (.positionDraw d) s = .next (s.drawPosition d r b) := by
  show execPositionDraw d s = _
  simp only [execPositionDraw, State.positionDue, h, hphase, hgoes, hdue, beq_self_eq_true, decide_true, Bool.and_self, if_true]

theorem exec_wavePost_end (h : s.drawOf d = some (r, b)) (hgoes : s.unblocked b = true) (hwaves : b.waves = []) (hphase : b.phase = .posting) :
    exec (.wavePost d) s = .next ((awake s d b.id).endDraw d { b with blocked := none } 0) := by
  show execWavePost d s = _
  simp only [execWavePost, h, hgoes, hwaves, hphase, beq_self_eq_true, if_true, Bool.not_true, Bool.false_eq_true, if_false]
  rfl

theorem exec_wavePost {w : Wave} {ws : List Wave} (h : s.drawOf d = some (r, b)) (hgoes : s.unblocked b = true) (hwaves : b.waves = w :: ws) :
    exec (.wavePost d) s = .next (if w.written = false then (awake s d b.id).writeWave d { b with blocked := none } w
      else if s.drawAcked b then (awake s d b.id).postWave d { b with blocked := none } w else awake s d b.id) := by
  show execWavePost d s = _
  simp only [execWavePost, h, hgoes, hwaves, Bool.not_true, Bool.false_eq_true, if_false, Bool.not_eq_true']
  rfl

/-- The sample that is resolved is set wherever it stands in the draw. -/
def resolvedBy (p : Sample) (hit : Nat × Nat) (k : Draw) : Draw :=
  let set := mapIf (fun (q : Sample) => q == p) (fun q => { q with found := some hit })
  { k with entries := set k.entries, waves := k.waves.map fun w => { w with samples := set w.samples } }

/-- PRIM and DEPTH of a sample, from the triangles of its snapshot. -/
def sampleHit (r : Render) (p : Sample) : Nat × Nat := frontMost (p.snap.elim [] fun n => assocGet [] n r.binned) p.x p.y

/-- The waves that the resolved sample completes are written. -/
theorem resolveSample_eq (h : s.drawOf d = some (r, b)) (p : Sample) :
    s.resolveSample d r b p = (resolvedBy p (sampleHit r p) b).waves.foldl (fun t w => t.writeWave d (resolvedBy p (sampleHit r p) b) w)
      (s.updDraw d b.id (resolvedBy p (sampleHit r p))) := by
  obtain ⟨r', hafter⟩ := drawOf_updDraw h (resolvedBy p (sampleHit r p))
  have hset : s.resolveSample d r b p = match (s.updDraw d b.id (resolvedBy p (sampleHit r p))).drawOf d with
    | some (_, k) => k.waves.foldl (fun t w => t.writeWave d k w) (s.updDraw d b.id (resolvedBy p (sampleHit r p)))
    | none => s.updDraw d b.id (resolvedBy p (sampleHit r p)) := by
      unfold State.resolveSample sampleHit
      cases p.snap <;> rfl
  rw [hset, hafter]

theorem exec_probeResolve {p : Sample} {ps : List Sample} (h : s.drawOf d = some (r, b)) (hfirst : State.unresolved b = p :: ps) :
    exec (.probeResolve d) s = .next ((resolvedBy p (sampleHit r p) b).waves.foldl (fun t w => t.writeWave d (resolvedBy p (sampleHit r p) b) w)
      (s.updDraw d b.id (resolvedBy p (sampleHit r p)))) := by
  show execProbeResolve d s = _
  simp only [execProbeResolve, h, hfirst, resolveSample_eq h]

/-- Waves that are all held leave the state as it is. -/
theorem foldl_writeWave_held {k : Draw} {ws : List Wave} (hheld : ∀ w ∈ ws, w.written = true ∨ ∃ q ∈ w.samples, q.found = none) :
    ws.foldl (fun t w => t.writeWave d k w) s = s :=
  List.foldlRecOn (motive := fun t => t = s) ws _ rfl fun t ht w hw => by rw [ht, writeWave_held (hheld w hw)]

end

end Sys2Proof.Proofs.Execution
end

section
/-! PROOFS. The display, the Kiln and the Sextant (O48). -/

namespace Sys2Proof.Proofs.Execution

open Sys2Proof Sys2Proof.Machine Sys2Proof.Claims

/-- Settles O48, one case for each happening. A boundary is `passBoundary_parts`; a lit band
`bandLight_renders` and `litBlock_parts`; a gather `openGather_die` and `runGather_gather`; a
gathered band's record the `postBand_` lemmas; a snapshot the `binSnapshot_` lemmas. A draw's
happenings are those of its start (`drawStart_wellFormed`, `policyStep_policyStep`), of its posts
(`posted_cases`), of its waves (`writeWave_out`, `writeWave_held`) and of its positions
(`choose_best`, `drawPosition_cell`). -/
theorem renderHappenings : Obligations.RenderHappenings := by
  unfold Obligations.RenderHappenings
  intro s d
  refine ⟨?boundary, ?dmode, ?begins, ?lights, ?opens, ?gathers, ?posts, ?binned, fun r b hdraw =>
    ⟨?starts, ?reposts, ?selects, ?waves, ?probes, ?positions⟩⟩
  case boundary =>
    intro hscan hdue
    have hpasses : exec .sweepBoundary s = .next s.passBoundary := by
      refine congrArg Host.Outcome.next (if_pos ?_)
      rw [State.boundaryDue, hscan, Bool.true_and, decide_eq_true_eq]
      exact hdue
    obtain ⟨hdmode, hdmodeWait, hruns, hsweeping, hnext, hblocks⟩ := passBoundary_parts s
    refine ⟨_, hpasses, hdmode, hdmodeWait, hruns.trans (List.map_congr_left fun r _ => sweptRun_all s r), hsweeping, hnext, fun r hr => ?_⟩
    obtain ⟨r', hdie, ⟨hsweep, hregs⟩, hlit, hgathers⟩ := hblocks d r hr
    exact ⟨r', hdie, hsweep, hlit, fun hd => ⟨(hregs hd).1, hgathers hd, (hregs hd).2⟩⟩
  case dmode =>
    intro v w bad
    have hwrite : exec (.dmodeWrite v) s = .next (s.dmodeWrite v) := rfl
    have hbit : (modeBits v).getLsbD 63 = w.getLsbD 63 := rfl
    refine ⟨fun hbad => ?_, fun hgood hscan => ?_, fun hgood hscan hoff => ?_, fun hgood hscan hon => ?_⟩
    · rw [hwrite, dmodeWrite_ignored hbad]
    · rw [hwrite, dmodeWrite_taken hgood, if_pos hscan]
      rfl
    · rw [hwrite, dmodeWrite_taken hgood, hscan, hbit, hoff]
      rfl
    · rw [dmodeWrite_taken hgood, hscan, hbit, hon] at hwrite
      exact ⟨_, hwrite, rfl, List.mem_append_right _ (List.mem_singleton_self _)⟩
  case begins =>
    intro r n time addr count st hr hsnap
    refine congrArg Host.Outcome.next ?_
    simp only [State.snapGo, hr, Option.bind_some, hsnap]
  case lights =>
    rintro r b hr rfl hscan hsweep hok hwidth hband hdue this gone found begun
    obtain ⟨t, r', hnext, hdie, rfl, hdues⟩ := bandLight_renders hr hscan hsweep hok hwidth hband hdue
    obtain ⟨hfront, hretired, hposted, hfailed, hmissed, hnone⟩ := litBlock_parts r r.nextLit
      (s.kilnReaches (State.kilnCtx r) (State.copyRow r (1 - State.frontCopy r r.nextLit) r.nextLit) (64 * State.viewWidth r))
    refine ⟨t, _, hnext, hdie, rfl, hdues, hfront, fun hfound => ?_, hposted, hfailed, hmissed, hnone⟩
    rw [← one_sub_frontCopy]
    exact hretired hfound
  case opens =>
    intro r p hopens
    obtain ⟨hr, hlead, htb, hband⟩ := opens_some hopens
    refine ⟨hlead, htb, hband, _, _, congrArg Host.Outcome.next ?_, openGather_die hr p, rfl⟩
    rw [hopens]
  case gathers =>
    intro r k g hopens hdue terms free tiles
    obtain ⟨hr, hk, hpermit, htb, hfree⟩ := gatherDue_some hdue
    obtain ⟨g', hg', hsame, htake, hlength⟩ := runGather_gather (hidden := (gathered s d r g).2) (used := terms.length) hk hfree
    refine ⟨hpermit, htb, hfree, s.runGather d r k g, _, congrArg Host.Outcome.next ?_, runGather_die hr k g, ⟨g', hg', hsame, htake, ?_⟩,
      fun j x hj hx => mem_runGather_slots hj hx k, runGather_due s d r k g⟩
    · rw [hopens, hdue]
    · rw [hlength, gathered_length]
      rfl
  case posts =>
    intro r g hr hg ctx node at' s0 none'
    have hnext : exec (.kilnBandPost d) s = .next (s0.postBand d r g) := execKilnBandPost_next hr hg
    have hmissed : ∀ (t : State) (cause : Nat), none' t cause = t.noRecord d g cause := fun _ _ => rfl
    clear_value none'
    refine ⟨fun hoff => ?off, fun hscan hband => ?_⟩
    case off => exact hnext.trans (congrArg Host.Outcome.next (postBand_off (s := s0) hoff))
    have hscan0 : s0.scanning = true := hscan
    clear_value s0
    rw [hnext]
    refine ⟨fun c hcause => ?_, fun a habsent => ?_, fun ia hwritable => ⟨fun hreach => ?_, fun hreach => ⟨fun n htiles hfew => ?_, fun hfit => ⟨fun hcode => ?_, fun hcode => ?_⟩⟩⟩⟩
    · exact congrArg Host.Outcome.next ((postBand_refused hscan0 hband (.inl ⟨c, hcause⟩)).trans (hmissed _ 4).symm)
    · exact congrArg Host.Outcome.next ((postBand_refused hscan0 hband (.inr ⟨a, habsent⟩)).trans (hmissed _ 4).symm)
    · exact congrArg Host.Outcome.next ((postBand_unreached hscan0 hband hwritable hreach).trans (hmissed _ 4).symm)
    · exact congrArg Host.Outcome.next ((postBand_tiles hscan0 hband hwritable hreach htiles hfew).trans (hmissed _ 3).symm)
    · exact congrArg Host.Outcome.next (((postBand_posts hscan0 hband hwritable hreach hfit).trans (if_pos hcode)).trans (hmissed _ 1).symm)
    · exact congrArg Host.Outcome.next ((postBand_posts hscan0 hband hwritable hreach hfit).trans (if_neg (not_not_intro hcode)))
  case binned =>
    intro r n addr count bs s1 hr hbinning hused hread tris bad entries all st
    have hnext := execSnapshotBinned_next hr hbinning hused hread
    have hr1 : s1.die d = some r := (die_of_render (engineRead_render hread) d).trans hr
    have hbad : bad ↔ SnapshotMalformed tris := or_congr_left (by simp [tris])
    refine ⟨fun h => ?_, fun h hmany => ?_, fun h hfew => ?_⟩
    · rw [binSnapshot_malformed (hbad.mp h)] at hnext
      exact hnext.trans (congrArg Host.Outcome.next (updDie_congr hr1 rfl))
    · rw [binSnapshot_wellFormed (mt hbad.mpr h), if_pos hmany] at hnext
      exact hnext.trans (congrArg Host.Outcome.next (updDie_congr hr1 rfl))
    · rw [binSnapshot_wellFormed (mt hbad.mpr h), if_neg (Nat.not_lt.mpr hfew)] at hnext
      exact hnext.trans (congrArg Host.Outcome.next (updDie_congr hr1 rfl))
  case starts =>
    intro bytes s1 hphase hgoes hread b1
    refine ⟨drawStart_malformed hdraw hphase hgoes hread, fun es s2 hgood hcells => ?_⟩
    obtain ⟨hready, hpolicy, hdraws⟩ := drawStart_wellFormed hdraw hphase hgoes hread hgood hcells
    refine ⟨hready, fun ia hsome hwritable => ?_⟩
    obtain ⟨r1, hprio⟩ := hdraws .priorities
    obtain ⟨hposts, r2, hdie⟩ := policyStep_policyStep hprio rfl hwritable
    have hnext := (hpolicy hsome).trans (congrArg Host.Outcome.next hposts)
    obtain ⟨haccepted, hfull, -⟩ := posted_cases ((die_of_render (devicePost_render ..) d).trans hdie) hnext
    exact ⟨haccepted, hfull⟩
  case reposts =>
    intro hgoes
    have hnext := exec_policyRecordRepost hdraw hgoes
    obtain ⟨r1, hawake⟩ := drawOf_updDraw hdraw fun k => { k with blocked := none }
    refine ⟨fun ia hphase hwritable => ?_, fun hphase => ?_⟩
    · exact hnext.trans (congrArg Host.Outcome.next ((policyStep_priorities hawake hphase).trans (writePriorities_ok hwritable)))
    · have hposts := hnext.trans (congrArg Host.Outcome.next (policyStep_policy hawake hphase))
      exact posted_cases ((die_of_render (devicePost_render ..) d).trans (drawOf_some hawake).1) hposts
  case selects => exact exec_selectionStart hdraw
  case waves =>
    intro hgoes
    have hawake := die_updDie_same (drawOf_some hdraw).1 fun r => { r with blocks := mapIf (fun k => k.id == b.id) (fun k => { k with blocked := none }) r.blocks }
    refine ⟨fun hwaves hphase => drawOver_endDraw hawake (exec_wavePost_end hdraw hgoes hwaves hphase), fun w ws hwaves => ?_⟩
    have hnext := exec_wavePost hdraw hgoes hwaves
    refine ⟨fun ia hwritten hall hat => ?_, fun hwritten hacked => ?_, fun hwritten hacked => ?_⟩
    · rw [hnext, if_pos hwritten]
      exact congrArg Host.Outcome.next (writeWave_out (b := { b with blocked := none }) hwritten hall hat)
    · rw [hnext, hwritten, hacked]
      rfl
    · rw [hwritten, hacked] at hnext
      exact posted_cases ((die_of_render (devicePost_render ..) d).trans hawake) hnext
  case probes =>
    intro p ps hfirst hit set b1 s1
    have hhit : sampleHit r p = hit := by
      unfold sampleHit
      simp only [hit]
      cases p.snap <;> rfl
    have hnext := exec_probeResolve hdraw hfirst
    rw [hhit] at hnext
    have hwrites : exec (.probeResolve d) s = .next (b1.waves.foldl (fun t w => t.writeWave d b1 w) s1) := hnext
    refine ⟨fun hheld => ?_, fun w ia hwaves hwritten hall hat => ?_⟩
    · rw [hwrites, foldl_writeWave_held hheld]
    · rw [hwrites, hwaves]
      exact congrArg Host.Outcome.next (writeWave_out hwritten hall hat)
  case positions =>
    intro hphase hgoes hdue
    have hnext := exec_positionDraw hdraw hphase hgoes hdue
    refine ⟨fun hover hnone => ?_, fun hover hsome => ?_, fun c hc => choose_best hc, fun c ia e s1 hn hc hentry => ?_⟩
    · rw [hnext, drawPosition_over hover, closeWave_empty hnone]
    · intro s1
      rw [drawPosition_over hover, closeWave_full hsome] at hnext
      refine ⟨fun hheld => ?_, fun ia hall hat => ?_⟩
      · rw [hnext, writeWave_held (.inr hheld)]
      · rw [hnext, writeWave_out rfl hall hat]
    · intro q stamp snap p b1 s2 w
      have hposition : exec (.positionDraw d) s = .next (if b1.entries.length = b.waveSize then s2.closeWave d b1 else s2) :=
        hnext.trans (congrArg Host.Outcome.next (drawPosition_cell hn hc hentry))
      have hcloses : s2.closeWave d b1 = (waveFull s2 d b.id w).writeWave d b1 w := closeWave_full (List.append_ne_nil_of_right_ne_nil _ (List.cons_ne_nil _ _))
      refine ⟨fun hmore => ?_, fun hfull hheld => ?_, fun ia' hfull hall hat => ?_⟩
      · rw [hposition, if_neg hmore]
      · rw [hposition, if_pos hfull, hcloses, writeWave_held (.inr hheld)]
      · rw [hposition, if_pos hfull, hcloses, writeWave_out rfl hall hat]

end Sys2Proof.Proofs.Execution
end

section
/-! PROOFS. The encoder and the decoder (O50, O51). -/

namespace Sys2Proof.Proofs.Execution

open Sys2Proof Sys2Proof.Machine Sys2Proof.Claims

/-! ### The fields of words (R183 to R185, R200) -/

theorem natField_eq_extractLsb' {n : Nat} (v : BitVec n) (l w : Nat) : natField v.toNat l w = (v.extractLsb' l w).toNat := by
  simp [natField, BitVec.extractLsb'_toNat]

section
variable (f : Form) (op : Nat) (d a : BitVec 8) (low : BitVec 7)

@[simp] theorem low_word0 : (word0 f op d a low).extractLsb' 0 7 = low := by
  ext k hk
  simp only [word0, BitVec.getElem_extractLsb', BitVec.getLsbD_append]
  grind

@[simp] theorem a_word0 : (word0 f op d a low).extractLsb' 7 8 = a := by
  ext k hk
  simp only [word0, BitVec.getElem_extractLsb', BitVec.getLsbD_append]
  grind

@[simp] theorem d_word0 : (word0 f op d a low).extractLsb' 15 8 = d := by
  ext k hk
  simp only [word0, BitVec.getElem_extractLsb', BitVec.getLsbD_append]
  grind

theorem op_word0 : (word0 f op d a low).extractLsb' 23 7 = BitVec.ofNat 7 op := by
  ext k hk
  simp only [word0, BitVec.getElem_extractLsb', BitVec.getLsbD_append]
  grind

theorem wordOp_word0 (hop : op < 0x80) : wordOp (word0 f op d a low) = op := by
  rw [wordOp, natField_eq_extractLsb', op_word0, BitVec.toNat_ofNat, Nat.mod_eq_of_lt hop]

end

section
variable (x : Fields)

/-- Word 1 holds B, C, G, LA, SET and T (R184). -/
theorem fields_word1 : (word1 x).extractLsb' 24 8 = x.b ∧ (word1 x).extractLsb' 16 8 = x.c ∧ (word1 x).extractLsb' 12 4 = BitVec.ofNat 4 x.guard.code ∧
    (word1 x).extractLsb' 8 4 = x.la ∧ (word1 x).extractLsb' 5 3 = x.set ∧ (word1 x).extractLsb' 0 5 = BitVec.ofNat 5 x.ty.code := by
  refine ⟨?_, ?_, ?_, ?_, ?_, ?_⟩ <;>
  · ext k hk
    simp only [word1, BitVec.getElem_extractLsb', BitVec.getLsbD_append]
    grind

/-- Word 2 holds WAIT, RND, SCOPE, KW and IMM (R185). -/
theorem fields_word2 : (word2 x).extractLsb' 26 6 = x.wait ∧ (word2 x).extractLsb' 24 2 = BitVec.ofNat 2 x.rnd.code ∧
    (word2 x).extractLsb' 21 3 = BitVec.ofNat 3 x.scope.code ∧ (word2 x).extractLsb' 0 20 = x.low := by
  refine ⟨?_, ?_, ?_, ?_⟩ <;>
  · ext k hk
    simp only [word2, BitVec.getElem_extractLsb', BitVec.getLsbD_append]
    grind

theorem kw_word2 : (word2 x).getLsbD 20 = x.kw := by
  simp only [word2, BitVec.getLsbD_append]
  simp

end

theorem literalOf_words (v : W64) : literalOf (v.extractLsb' 0 32) (v.extractLsb' 32 32) = v := by
  ext k hk
  simp only [literalOf]
  grind

/-- A half has four fields, and a bit 0 that is 0 (R200). -/
theorem readHalf_halfWord (h : Half) : readHalf (halfWord h) = h ∧ (halfWord h).getLsbD 0 = false := by
  have hop : (halfWord h).extractLsb' 25 7 = h.op ∧ (halfWord h).extractLsb' 17 8 = h.d ∧ (halfWord h).extractLsb' 9 8 = h.a ∧ (halfWord h).extractLsb' 1 8 = h.b := by
    refine ⟨?_, ?_, ?_, ?_⟩ <;>
    · ext k hk
      simp only [halfWord, BitVec.getElem_extractLsb', BitVec.getLsbD_append]
      grind
  obtain ⟨hop, hd, ha, hb⟩ := hop
  refine ⟨?_, ?_⟩
  · rw [readHalf, hop, hd, ha, hb]
  · simp only [halfWord, BitVec.getLsbD_append]
    rfl

/-! ### The codes of types, rounding modes, scopes and guards (R90, R165, R191, R195) -/

theorem tyOf_code (t : Ty) : Ty.ofCode (BitVec.ofNat 5 t.code).toNat = some t := by cases t <;> rfl

theorem scopeOf_code (c : Scope) : Scope.ofCode (BitVec.ofNat 3 c.code).toNat = some c := by cases c <;> rfl

theorem rndOf_code (r : Rnd) : Rnd.ofCode (BitVec.ofNat 2 r.code).toNat = r := by cases r <;> rfl

theorem guardOf_code (g : Guard) : Guard.ofCode (BitVec.ofNat 4 g.code).toNat = g := by
  obtain ⟨invert, pred⟩ := g
  revert invert pred
  decide

/-! ### What an opcode's row says whatever the other fields are (R186, R196) -/

/-- Two rows of one opcode: their forms agree, and so do, for an opcode that has a form of one word or a literal, its types and whether it has a source C. -/
def SameRow (s r : OpSpec) : Prop :=
  s.forms = r.forms ∧ (.base ∈ s.forms ∨ .lit ∈ s.forms → s.types = r.types ∧ (s.c = .unused ↔ r.c = .unused))

section
variable {op : Nat} {x : Fields} {s : OpSpec} (y : Fields)

theorem sameRow_arith (hs : OpTable.arith op x = some s) : ∃ r, OpTable.arith op y = some r ∧ SameRow s r := by
  unfold OpTable.arith at hs
  split at hs <;> cases hs <;> exact ⟨_, rfl, by simp [SameRow, OpTable.wd, OpTable.ex, OpTable.e]⟩

theorem sameRow_ieee (hs : OpTable.ieee op x = some s) : ∃ r, OpTable.ieee op y = some r ∧ SameRow s r := by
  unfold OpTable.ieee at hs
  split at hs <;> cases hs <;> exact ⟨_, rfl, by simp [SameRow, OpTable.wd, OpTable.ex, OpTable.e]⟩

theorem sameRow_special (hs : OpTable.special op x = some s) : ∃ r, OpTable.special op y = some r ∧ SameRow s r := by
  unfold OpTable.special at hs
  split at hs <;> cases hs <;> exact ⟨_, rfl, by simp [SameRow, OpTable.e]⟩

theorem sameRow_memory (hs : OpTable.memory op x = some s) : ∃ r, OpTable.memory op y = some r ∧ SameRow s r := by
  unfold OpTable.memory at hs
  split at hs <;> cases hs <;> exact ⟨_, rfl, by simp [SameRow, OpTable.ex, OpTable.e]⟩

theorem sameRow_lanes (hs : OpTable.lanes op x = some s) : ∃ r, OpTable.lanes op y = some r ∧ SameRow s r := by
  unfold OpTable.lanes at hs
  split at hs <;> cases hs <;> exact ⟨_, rfl, by simp [SameRow, OpTable.ex, OpTable.e]⟩

theorem sameRow_control (hs : OpTable.control op x = some s) : ∃ r, OpTable.control op y = some r ∧ SameRow s r := by
  unfold OpTable.control at hs
  split at hs <;> cases hs <;> exact ⟨_, rfl, by simp [SameRow, OpTable.e]⟩

theorem sameRow_matrix (hs : OpTable.matrix op x = some s) : ∃ r, OpTable.matrix op y = some r ∧ SameRow s r := by
  unfold OpTable.matrix at hs
  split at hs <;> cases hs <;> exact ⟨_, rfl, by simp [SameRow, OpTable.ex, OpTable.e]⟩

theorem sameRow_engine (hs : OpTable.engine op x = some s) : ∃ r, OpTable.engine op y = some r ∧ SameRow s r := by
  unfold OpTable.engine at hs
  split at hs <;> cases hs <;> exact ⟨_, rfl, by simp [SameRow, OpTable.e]⟩

/-- Every row of SYS has the form LEN 01 alone. -/
theorem forms_sys (hsys : op = 0x7C) : ∃ s, OpTable.system op y = some s ∧ s.forms = OpTable.e := by
  unfold OpTable.system
  split
  case h_3 => split <;> exact ⟨_, rfl, rfl⟩
  all_goals simp_all

theorem sameRow_system (hs : OpTable.system op x = some s) : ∃ r, OpTable.system op y = some r ∧ SameRow s r := by
  by_cases hsys : op = 0x7C
  · obtain ⟨q, hq, hforms⟩ := forms_sys x hsys
    obtain ⟨r, hr, hforms'⟩ := forms_sys y hsys
    cases hs.symm.trans hq
    exact ⟨r, hr, by simp [SameRow, hforms, hforms', OpTable.e]⟩
  · unfold OpTable.system at hs
    split at hs
    case h_3 => cases hsys rfl
    all_goals cases hs <;> exact ⟨_, rfl, by simp [SameRow, OpTable.e]⟩

theorem sameRow_opSpec (hs : opSpec op x = some s) : ∃ r, opSpec op y = some r ∧ SameRow s r := by
  unfold opSpec at hs ⊢
  split_ifs at hs ⊢
  · exact sameRow_arith y hs
  · exact sameRow_ieee y hs
  · exact sameRow_special y hs
  · exact sameRow_memory y hs
  · exact sameRow_lanes y hs
  · exact sameRow_control y hs
  · exact sameRow_matrix y hs
  · exact sameRow_engine y hs
  · exact sameRow_system y hs

end

theorem opForms_eq {op : Nat} {x : Fields} {s : OpSpec} (hs : opSpec op x = some s) : opForms op = some s.forms := by
  obtain ⟨r, hr, hforms, -⟩ := sameRow_opSpec (Fields.ofBase op 0 0 0) hs
  rw [opForms, hr, hforms, Option.map_some]

/-! ### Legal fields (R186, R203) -/

/-- Fields that decode accepts: their opcode has a row, with a form that it lists, and R203's conditions hold. -/
theorem exists_row_of_fieldsLegal {op : Nat} {x : Fields} (hlegal : fieldsLegal op x = true) :
    ∃ s, opSpec op x = some s ∧ x.form ∈ s.forms ∧ fieldsFit s x = true := by
  unfold fieldsLegal at hlegal
  cases hs : opSpec op x with
  | none => simp [hs] at hlegal
  | some s => simpa [hs, opForms_eq hs] using hlegal

/-- The fields of a form of one word, when their opcode has a row (R186). -/
theorem ofBase_eq {op : Nat} {x : Fields} {s : OpSpec} (hs : opSpec op x = some s) (hforms : .base ∈ s.forms ∨ .lit ∈ s.forms) (d a b : BitVec 8) :
    Fields.ofBase op d a b =
      { form := .base, d := d, a := a, b := b, c := if s.c = .unused then 0 else d, xop := 0, guard := Guard.always, la := 0, set := 0, ty := s.defaultTy,
        wait := 0, rnd := .nearestEven, scope := .thread, kw := false, low := 0, lit := 0 } := by
  obtain ⟨r, hr, -, hsame⟩ := sameRow_opSpec { form := .base, d := d, a := a, b := b, c := 0, xop := 0, guard := Guard.always, la := 0, set := 0, ty := .b32,
                                               wait := 0, rnd := .nearestEven, scope := .thread, kw := false, low := 0, lit := 0 } hs
  obtain ⟨htypes, hc⟩ := hsame hforms
  simp only [Fields.ofBase, hr, OpSpec.defaultTy, htypes, hc]

/-- Legal fields of a form without words 1 and 2 are those that R186 implies, with a B of seven bits, which a literal replaces. -/
theorem implied_of_fieldsLegal {op : Nat} {x : Fields} (hlegal : fieldsLegal op x = true) (hform : x.form.extended = false) :
    x = { Fields.ofBase op x.d x.a x.b with form := x.form, lit := x.lit } ∧ x.b.toNat < 128 ∧ (x.form = .lit → x.b = 0) := by
  obtain ⟨s, hs, hmem, hfit⟩ := exists_row_of_fieldsLegal hlegal
  have hforms : .base ∈ s.forms ∨ .lit ∈ s.forms := by
    cases hx : x.form <;> simp_all [Form.extended]
  have himplied : impliedFits s x = true := by
    simp only [fieldsFit, Bool.and_eq_true] at hfit
    grind
  simp only [impliedFits, hform, Bool.false_or, Bool.and_eq_true, beq_iff_eq, decide_eq_true_eq, Bool.not_eq_true', Bool.or_eq_true, bne_iff_ne] at himplied
  obtain ⟨⟨⟨⟨⟨⟨⟨⟨⟨⟨⟨⟨hxop, hguard⟩, hla⟩, hset⟩, hwait⟩, hrnd⟩, hscope⟩, hkw⟩, hlow⟩, hty⟩, hc⟩, hb⟩, hlit⟩ := himplied
  refine ⟨?_, hb, fun h => hlit.resolve_left (absurd h)⟩
  rw [ofBase_eq hs hforms]
  cases x
  simp_all

/-- Only a form with a literal has one. -/
theorem lit_of_fieldsLegal {op : Nat} {x : Fields} (hlegal : fieldsLegal op x = true) (hform : x.form = .base ∨ x.form = .ext) : x.lit = 0 := by
  obtain ⟨s, hs, hmem, hfit⟩ := exists_row_of_fieldsLegal hlegal
  have himm : immFits s x = true := by
    simp only [fieldsFit, Bool.and_eq_true] at hfit
    grind
  rcases hform with hform | hform
  · simpa [immFits, hform] using himm
  · simp only [immFits, hform, Bool.and_eq_true, beq_iff_eq] at himm
    exact himm.1

/-- An opcode with a row is below PAIR's. -/
theorem op_lt_of_opSpec {op : Nat} {x : Fields} {s : OpSpec} (hs : opSpec op x = some s) : op < 0x7E := by
  unfold opSpec at hs
  split_ifs at hs
  case neg =>
    by_contra hop
    have hnone : OpTable.system op x = none := by
      unfold OpTable.system
      split
      case h_5 => rfl
      all_goals omega
    rw [hnone] at hs
    cases hs
  all_goals omega

/-! ### Reading words back (R183 to R187) -/

theorem wordOp_fieldWords {op : Nat} (x : Fields) (hop : op < 0x80) : wordOp ((fieldWords op x).getD 0 0) = op := by
  unfold fieldWords
  cases x.form <;> exact wordOp_word0 _ _ _ _ _ hop

theorem wordForm_fieldWords (op : Nat) (x : Fields) : wordForm ((fieldWords op x).getD 0 0) = x.form := by
  unfold fieldWords
  cases x.form <;> exact Laws.EncodedLength.wordForm_word0 _ _ _ _ _

/-- A number of seven bits survives B7 (R183). -/
theorem setWidth_setWidth_of_lt {b : BitVec 8} (hb : b.toNat < 128) : (b.setWidth 7).setWidth 8 = b := by
  apply BitVec.eq_of_toNat_eq
  simp only [BitVec.toNat_setWidth]
  omega

theorem ofBase_parts (op : Nat) (d a b : BitVec 8) : (Fields.ofBase op d a b).form = .base ∧ (Fields.ofBase op d a b).lit = 0 ∧
    (Fields.ofBase op d a b).d = d ∧ (Fields.ofBase op d a b).a = a ∧ (Fields.ofBase op d a b).b = b := by
  unfold Fields.ofBase
  dsimp only
  split <;> exact ⟨rfl, rfl, rfl, rfl, rfl⟩

/-- The decoder reads the fields of words that the encoder wrote. -/
theorem readFields_fieldWords {op : Nat} {x : Fields} (hlegal : fieldsLegal op x = true) : readFields x.form (fieldWords op x) = some x := by
  obtain ⟨s, hs, -⟩ := exists_row_of_fieldsLegal hlegal
  have hop : op < 0x80 := (op_lt_of_opSpec hs).trans (by decide)
  obtain ⟨hb, hc, hg, hla, hset, hty⟩ := fields_word1 x
  obtain ⟨hwait, hrnd, hscope, hlow⟩ := fields_word2 x
  cases hform : x.form with
  | base =>
    obtain ⟨himplied, hb7, -⟩ := implied_of_fieldsLegal hlegal (by rw [hform]; rfl)
    obtain ⟨hbase, hzero, -⟩ := ofBase_parts op x.d x.a x.b
    rw [hform, lit_of_fieldsLegal hlegal (.inl hform), ← hbase, ← hzero] at himplied
    simp only [readFields, fieldWords, hform, List.getD_cons_zero, wordOp_word0 _ _ _ _ _ hop, low_word0, a_word0, d_word0, setWidth_setWidth_of_lt hb7]
    exact congrArg some himplied.symm
  | lit =>
    obtain ⟨himplied, hb7, -⟩ := implied_of_fieldsLegal hlegal (by rw [hform]; rfl)
    rw [hform] at himplied
    simp only [readFields, fieldWords, hform, List.getD_cons_zero, List.getD_cons_succ, wordOp_word0 _ _ _ _ _ hop, low_word0, a_word0, d_word0,
      setWidth_setWidth_of_lt hb7, literalOf_words]
    exact congrArg some himplied.symm
  | ext =>
    simp only [readFields, fieldWords, hform, List.getD_cons_zero, List.getD_cons_succ, hb, hc, hg, hla, hset, hty, hwait, hrnd, hscope, hlow, kw_word2, tyOf_code,
      scopeOf_code, rndOf_code, guardOf_code, low_word0, a_word0, d_word0, reduceCtorEq, if_false]
    rw [← hform, ← lit_of_fieldsLegal hlegal (.inr hform)]
  | extLit =>
    simp only [readFields, fieldWords, hform, List.getD_cons_zero, List.getD_cons_succ, hb, hc, hg, hla, hset, hty, hwait, hrnd, hscope, hlow, kw_word2, tyOf_code,
      scopeOf_code, rndOf_code, guardOf_code, low_word0, a_word0, d_word0, literalOf_words, if_true]
    rw [← hform]

/-! ### The constructor of a row (R196, R197) -/

/-- The fields of a row name the constructor that it came from; base BRA's word is of another kind. -/
theorem ofFields_row {i : Instr} {op : Nat} {x : Fields} (hrow : i.row? = some (op, x, true)) : ofFields op x = some i ∧ (op = 0x58 → x.form ≠ .base) := by
  cases i
  all_goals simp only [Instr.row?, reduceCtorEq, Option.some.injEq, Prod.mk.injEq, beq_iff_eq, bne_iff_ne, Bool.and_eq_true, Bool.not_eq_true'] at hrow
  all_goals obtain ⟨rfl, rfl, hown⟩ := hrow
  all_goals simp [ofFields, InstrOf.arith, InstrOf.ieee, InstrOf.special, InstrOf.memory, InstrOf.lanes, InstrOf.control, InstrOf.matrix, InstrOf.engine, InstrOf.system,
    ofBase_parts, hown]

theorem wf_encode_of_row {i : Instr} {op : Nat} {x : Fields} {own : Bool} (hrow : i.row? = some (op, x, own)) :
    i.wf = (own && fieldsLegal op x) ∧ encode i = fieldWords op x := by
  refine ⟨?_, ?_⟩
  · unfold Instr.wf
    split
    · cases hrow
    · cases hrow
    · rw [hrow]
  · unfold encode
    split
    · cases hrow
    · cases hrow
    · rw [hrow]

/-- Words of legal fields decode to the constructor of their row. -/
theorem decode_fieldWords {op : Nat} {x : Fields} {i : Instr} (hlegal : fieldsLegal op x = true) (hi : ofFields op x = some i)
    (hbra : op = 0x58 → x.form ≠ .base) : decode (fieldWords op x) = .ok i := by
  obtain ⟨s, hs, hmem, -⟩ := exists_row_of_fieldsLegal hlegal
  have hop := op_lt_of_opSpec hs
  have hpair : op ≠ 0x7E := by omega
  have hword : ¬ (op = 0x58 ∧ x.form = .base) := fun h => hbra h.1 h.2
  simp only [decode, wordOp_fieldWords x (hop.trans (by decide)), wordForm_fieldWords, if_neg hpair, if_neg hword, opForms_eq hs, List.contains_iff_mem.mpr hmem,
    readFields_fieldWords hlegal, hlegal, hi, Bool.not_true, Bool.false_eq_true, if_false]

/-- PAIR's word 0, and base BRA's word, have LEN and OP where every word 0 has them. -/
theorem pairWord_eq (g0 g1 : BitVec 4) : BitVec.ofNat 2 Form.ext.code ++ BitVec.ofNat 7 0x7E ++ g0 ++ g1 ++ (0 : BitVec 15) = word0 .ext 0x7E (g0 ++ g1) 0 0 := by
  ext k hk
  simp only [word0, BitVec.getElem_append]
  grind

theorem braWord_eq (off : BitVec 23) : BitVec.ofNat 2 Form.base.code ++ BitVec.ofNat 7 0x58 ++ off =
    word0 .base 0x58 (off.extractLsb' 15 8) (off.extractLsb' 7 8) (off.extractLsb' 0 7) := by
  ext k hk
  simp only [word0, BitVec.getElem_append, BitVec.getElem_extractLsb']
  grind

theorem guards_pairWord (g0 g1 : BitVec 4) : (word0 .ext 0x7E (g0 ++ g1) 0 0).extractLsb' 19 4 = g0 ∧ (word0 .ext 0x7E (g0 ++ g1) 0 0).extractLsb' 15 4 = g1 ∧
    (word0 .ext 0x7E (g0 ++ g1) 0 0).extractLsb' 0 15 = 0 := by
  refine ⟨?_, ?_, ?_⟩ <;>
  · ext k hk
    simp only [word0, BitVec.getElem_extractLsb', BitVec.getLsbD_append]
    grind

theorem decode_encode_pair {g0 g1 : Guard} {h0 h1 : Half} (hlegal : halvesLegal h0 h1 = true) : decode (encode (.pair g0 g1 h0 h1)) = .ok (.pair g0 g1 h0 h1) := by
  obtain ⟨⟨hfit0, hfit1⟩, hpairs⟩ : (h0.fits = true ∧ h1.fits = true) ∧ pairLegal h0 h1 = true := by simpa [halvesLegal] using hlegal
  obtain ⟨hread0, hbit0⟩ := readHalf_halfWord h0
  obtain ⟨hread1, hbit1⟩ := readHalf_halfWord h1
  obtain ⟨hg0, hg1, hzero⟩ := guards_pairWord (BitVec.ofNat 4 g0.code) (BitVec.ofNat 4 g1.code)
  have hreads : decodePair (encode (.pair g0 g1 h0 h1)) = .ok (.pair g0 g1 h0 h1) := by
    simp only [decodePair, encode, List.getD_cons_zero, List.getD_cons_succ, pairWord_eq, hread0, hread1, hbit0, hbit1, hg0, hg1, hzero, hfit0, hfit1, hpairs, guardOf_code]
    rfl
  have hform : wordForm ((encode (.pair g0 g1 h0 h1)).getD 0 0) = .ext := by
    simp only [encode, List.getD_cons_zero, pairWord_eq, Laws.EncodedLength.wordForm_word0]
  have hop : wordOp ((encode (.pair g0 g1 h0 h1)).getD 0 0) = 0x7E := by
    simp only [encode, List.getD_cons_zero, pairWord_eq]
    exact wordOp_word0 _ _ _ _ _ (by decide)
  simp only [decode, hop, hform, if_true, hreads]

theorem decode_encode_braBase (off : BitVec 23) : decode (encode (.braBase off)) = .ok (.braBase off) := by
  have hform : wordForm ((encode (.braBase off)).getD 0 0) = .base := by
    simp only [encode, List.getD_cons_zero, braWord_eq, Laws.EncodedLength.wordForm_word0]
  have hop : wordOp ((encode (.braBase off)).getD 0 0) = 0x58 := by
    simp only [encode, List.getD_cons_zero, braWord_eq]
    exact wordOp_word0 _ _ _ _ _ (by decide)
  have hoff : ((encode (.braBase off)).getD 0 0).extractLsb' 0 23 = off := by
    simp only [encode, List.getD_cons_zero]
    ext k hk
    simp only [BitVec.getElem_extractLsb', BitVec.getLsbD_append]
    grind
  simp only [decode, hop, hform, hoff]
  rfl

/-- Settles O50: an instruction with a row is written in the fields of that row, which are read back as they are (`readFields_fieldWords`) and name its
constructor (`ofFields_row`); PAIR and base BRA have words of their own kind. -/
theorem encodeDecode : Obligations.EncodeDecode := by
  unfold Obligations.EncodeDecode
  intro i hwf hwords
  cases hrow : i.row? with
  | some r =>
    obtain ⟨op, x, own⟩ := r
    obtain ⟨hi, hencode⟩ := wf_encode_of_row hrow
    rw [hi, Bool.and_eq_true] at hwf
    obtain ⟨rfl, hlegal⟩ := hwf
    obtain ⟨hof, hbra⟩ := ofFields_row hrow
    rw [hencode, decode_fieldWords hlegal hof hbra]
  | none =>
    unfold Instr.hasWords at hwords
    split at hwords
    case h_1 => exact decode_encode_pair hwf
    case h_2 off => exact decode_encode_braBase off
    case h_3 => simp [hrow] at hwords

/-! ### The worked encodings, and the opcodes that are no instructions (R199, R212) -/

theorem assembles_base : Dexas.assembledWords "IADD v4, v5, v6" = some [0x00820286#32] := by decide

theorem assembles_extended : Dexas.assembledWords "?!p3 FFMA v10, −v11, v12, v13 la=2 set=sb1 wait=sb2 rnd=rz" = some [0x51850581#32, 0x0C0DB22B#32, 0x09000000#32] := by decide

theorem assembles_immediate : Dexas.assembledWords "MOV v7, −4096" = some [0x4F838040#32, 0#32, 0x000FF000#32] := by decide

theorem assembles_literal : Dexas.assembledWords "MOV v7, 0x1234_5678" = some [0x8F838000#32, 0x12345678#32, 0#32] := by decide

theorem assembles_branch : Dexas.assembledWords "back: NOP\nNOP\nNOP\nBRA back" = some [0x3E800000#32, 0x3E800000#32, 0x3E800000#32, 0x2C7FFFFD#32] := by decide

/-- The opcodes of R199 have no row. -/
theorem opForms_of_unused {op : Nat} (hop : op ∈ [0x00, 0x2F, 0x4F, 0x57, 0x6B, 0x6C, 0x6D, 0x6E, 0x6F, 0x7F]) : opForms op = none := by
  revert op
  decide

/-- Settles O51: the worked encodings by computation; an opcode of R199 is neither PAIR nor BRA and has no row (`opForms_of_unused`). -/
theorem decodeWords : Obligations.DecodeWords := by
  unfold Obligations.DecodeWords
  refine ⟨assembles_base, assembles_extended, assembles_immediate, assembles_literal, assembles_branch, rfl, rfl, rfl, rfl, rfl, rfl, ?_⟩
  intro ws hop
  have hpair : wordOp (ws.getD 0 0) ≠ 0x7E := by rintro h; rw [h] at hop; exact absurd hop (by decide)
  have hbra : ¬ (wordOp (ws.getD 0 0) = 0x58 ∧ wordForm (ws.getD 0 0) = .base) := by rintro ⟨h, -⟩; rw [h] at hop; exact absurd hop (by decide)
  simp only [decode, if_neg hpair, if_neg hbra, opForms_of_unused hop]

end Sys2Proof.Proofs.Execution
end

section
/-! PROOFS. The checks before an instruction, and the register file (O56, O59). -/

namespace Sys2Proof.Proofs.Execution

open Sys2Proof Sys2Proof.Machine Sys2Proof.Claims

/-! ### What an instruction does behind its checks (R203, R338) -/

section
variable {s t : State} {op : Nat} {x : Fields}

theorem issueThen_of_issueConst {f : Team → OpSpec → List Thread → List W32 → State} (ht : t = s.issueConst op x f) : ∃ k, t = s.issueThen op x k := ⟨_, ht⟩

theorem issueThen_of_groupwise {lat : Nat} {f : Team → List Thread → List Lane → List (TRef × LaneOut)} (ht : t = s.groupwise op x lat f) :
    ∃ k, t = s.issueThen op x k := issueThen_of_issueConst ht

theorem issueThen_of_groupLater {f : Team → List Thread → List Lane → Nat × List (TRef × LaneOut)} {stages : Team → List Nat}
    (ht : t = s.groupLater op x f stages) : ∃ k, t = s.issueThen op x k := issueThen_of_issueConst ht

theorem issueThen_of_liLater {f : Lane → LiResult} (ht : t = s.liLater op x f) : ∃ k, t = s.issueThen op x k := issueThen_of_groupLater ht

theorem issueThen_of_divideOp {f : Fmt → Lane → Rounded} (ht : t = s.divideOp op x f) : ∃ k, t = s.issueThen op x k := issueThen_of_groupLater ht

theorem issueThen_of_onceStatus {lat : Nat} {f : Team → Lane → State → Except Trap (Nat × State)} (ht : t = s.onceStatus op x lat f) :
    ∃ k, t = s.issueThen op x k := issueThen_of_issueConst ht

theorem issueThen_of_tileOp {h : Nat} {f : TileCtx → State} (ht : t = s.tileOp op x h f) : ∃ k, t = s.issueThen op x k := ⟨_, ht⟩

/-- An instruction of independent lanes answers behind its checks. -/
theorem ExecLanewise.behind {i : Instr} {f : Lane → LaneOut} (hexec : ExecLanewise i op x f) (s : State) : ∃ k, exec i s = .next (s.issueThen op x k) := by
  obtain ⟨k, hk⟩ : ∃ k, s.lanewise op x (shortTimes op x).1 (shortTimes op x).2 f = s.issueThen op x k := issueThen_of_issueConst rfl
  exact ⟨k, (hexec s).trans (congrArg Host.Outcome.next hk)⟩

theorem behind_of_next {i : Instr} (hexec : exec i s = .next t) (ht : ∃ k, t = s.issueThen op x k) : ∃ k, exec i s = .next (s.issueThen op x k) :=
  ht.imp fun _ hk => hexec.trans (congrArg Host.Outcome.next hk)

end

/-- Every instruction with a row does what it does behind the checks of that row. -/
theorem exec_issueThen {i : Instr} {op : Nat} {x : Fields} {own : Bool} (hrow : i.row? = some (op, x, own)) (s : State) :
    ∃ k, exec i s = .next (s.issueThen op x k) := by
  cases hint : integerRule i with
  | some f => exact (execLanewise_of_integerRule hrow hint).behind s
  | none =>
  cases hword : wordRule x i with
  | some f => exact (execLanewise_of_wordRule hrow hword).behind s
  | none =>
  cases hieee : ieeeRule x i with
  | some f => exact (execLanewise_of_ieeeRule hrow hieee).behind s
  | none =>
  cases i
  case idiv | irem | lcmp | lmisc | sfu | reduce | scan =>
    cases hrow
    exact behind_of_next rfl (issueThen_of_groupLater rfl)
  case ladd | lsub | lmul | ldiv | lexp | llog | lcvt =>
    cases hrow
    exact behind_of_next rfl (issueThen_of_liLater rfl)
  case fdiv | fsqrt =>
    cases hrow
    exact behind_of_next rfl (issueThen_of_divideOp rfl)
  case pack6 | unpk6 | shfl | lshf | vote | matchLanes =>
    cases hrow
    exact behind_of_next rfl (issueThen_of_groupwise rfl)
  case plotOpen | plotClose | plotGive | plotTake | bankcfg =>
    cases hrow
    exact behind_of_next rfl (issueThen_of_onceStatus rfl)
  case tld | tst | tldv | tstv =>
    cases hrow
    exact behind_of_next rfl (issueThen_of_tileOp rfl)
  case stageInit | stageAcqp | stageAcqc | stageRelp | stageRelc | sxpri | sysSwap | sysShoot | sysTret =>
    cases hrow
    exact behind_of_next rfl (issueThen_of_issueConst rfl)
  case ld | st | ldp | stp | ldv | stv | atom | atomp | ldk | fence | wait | pref | cctlWbpriv | cctlInvl1 | cctlInvk | tmovRead | tmovWrite | braExtended | jmp | call | callReg |
      retBase | retExtended | reform | cvgDecl | cvgJoin | exitBase | exitExtended | yieldBase | yieldExtended | yieldChk | talloc | tfree | tgive | ttake | mma | mmaSign |
      macc | tstat | copy | trace | sxdraw | silt | enq | cancel | barInit | barArrive | movqSend | movqRecv | sregRead | sregWrite | trapSoftware | trapBreak | sysRdsup | sysWrsup | nopBase | nopExtended =>
    cases hrow
    exact ⟨_, rfl⟩
  all_goals simp_all [Instr.row?, integerRule, wordRule, bitsRule, otherRule, ieeeRule]

theorem issueCheck_bounds {op : Nat} {x : Fields} {s : State} {tm : Team} {sp : OpSpec} {h : Thread} (hbounds : boundsOk sp x h.handler tm = false) :
    issueCheck s tm h sp op x = some { cause := Cause.regBounds, info := ((fieldWords op x).headD 0).toNat } := by
  simp [issueCheck, hbounds, decodeTrap]

theorem issueCheck_priv {op : Nat} {x : Fields} {s : State} {tm : Team} {sp : OpSpec} {h : Thread} (hbounds : boundsOk sp x h.handler tm = true) :
    issueCheck s tm h sp op x = if privOk s op x h tm then none else some { cause := Cause.priv, info := ((fieldWords op x).headD 0).toNat } := by
  cases hpriv : privOk s op x h tm <;> simp [issueCheck, hbounds, hpriv, decodeTrap]

/-- An SREG outside a handler is refused where it reads a trap register (R314). -/
theorem privOk_sreg {s : State} {x : Fields} {h : Thread} {tm : Team} :
    privOk s 0x7A x h tm = false ↔ h.handler = false ∧ x.xop.getLsbD 0 = false ∧ 0x020 ≤ x.low.toNat ∧ x.low.toNat ≤ 0x023 := by
  simp only [privOk, trapRegister, Bool.or_eq_false_iff, Bool.not_eq_false', decide_eq_true_eq, and_assoc]

/-- The opcodes that no privilege guards. -/
theorem privOk_of_unguarded {op : Nat} {s : State} {x : Fields} {h : Thread} {tm : Team} (hop : op ∉ [0x5C, 0x5D, 0x5E, 0x7A, 0x7C, 0x73]) :
    privOk s op x h tm = true := by
  simp only [List.mem_cons, List.not_mem_nil, or_false, not_or] at hop
  unfold privOk
  split <;> simp_all

/-- Settles O59: every meaning of an instruction stands behind its checks (`exec_issueThen`), of which the bounds come first (`issueCheck_bounds`,
`issueCheck_priv`). -/
theorem privilege : Obligations.Privilege := by
  unfold Obligations.Privilege
  refine ⟨?traps, ?checks⟩
  case traps =>
    intro i op x own s tm sp h rest t hrow _ hactive hteam hspec hcheck
    obtain ⟨k, hexec⟩ := exec_issueThen hrow s
    rw [hexec, State.issueThen_trap hactive hteam hspec hcheck]
  case checks =>
    intro op x s tm sp h bad
    refine ⟨issueCheck_bounds, fun hbounds => ?_⟩
    rw [issueCheck_priv hbounds]
    refine ⟨?control, ?sreg, ?tret, ?sys, ?sxpri, ?others⟩
    case control => rintro (rfl | rfl | rfl) <;> cases hhandler : h.handler <;> simp [privOk, hhandler, bad, Cause.priv]
    case sreg =>
      rintro rfl
      by_cases hrefused : privOk s 0x7A x h tm = false
      · rw [if_pos (privOk_sreg.mp hrefused), hrefused]
        rfl
      · rw [if_neg (mt privOk_sreg.mpr hrefused), if_pos (Bool.not_eq_false _ ▸ hrefused)]
    case tret =>
      rintro rfl hret
      simp only [privOk, hret, if_true]
      rfl
    case sys =>
      rintro rfl hret
      simp only [privOk, hret, if_false]
      rfl
    case sxpri =>
      rintro rfl
      rfl
    case others => exact fun hop => if_pos (privOk_of_unguarded hop)

/-! ### Registers and predicates (R189, R191) -/

section
variable {t : Thread} {n : Nat}

/-- In handler mode 0xF0 to 0xFF are hv0 to hv15 (R189). -/
theorem setReg_handler (v : W32) (hhandler : t.handler = true) (hn : 0xF0 ≤ n) : t.setReg n v = { t with hv := t.hv.set (n - 0xF0) v } := by
  simp [Thread.setReg, hhandler, hn]

theorem setReg_own (v : W32) (hown : t.handler = false ∨ n < 0xF0) : t.setReg n v = { t with regs := t.regs.set n v } := by
  rcases hown with h | h <;> simp [Thread.setReg, h]

end

/-- A write of a predicate but p0 sets its bit alone (R191). -/
theorem pred_setPred {t : Thread} {n m : Nat} (v : Bool) (hpos : 0 < n) (hn : n < 8) (hm : m < 8) : (t.setPred n v).pred m = if m = n then v else t.pred m := by
  have hmod : n % 8 = n := Nat.mod_eq_of_lt hn
  have hmodm : m % 8 = m := Nat.mod_eq_of_lt hm
  have hbit : (1#8 <<< n).getLsbD m = decide (m = n) := by
    simp only [BitVec.getLsbD_shiftLeft, BitVec.getLsbD_one]
    grind
  cases v <;> simp only [Thread.setPred, Thread.pred, hmod, hmodm, if_neg hpos.ne', Bool.false_eq_true, if_false, if_true, BitVec.getLsbD_or, BitVec.getLsbD_and,
    BitVec.getLsbD_not, hbit] <;> grind

/-- Settles O56: a register number names one place of the register file of its mode (`setReg_handler`, `setReg_own`), a predicate number one bit
(`pred_setPred`). -/
theorem registerFile : Obligations.RegisterFile := by
  unfold Obligations.RegisterFile
  refine ⟨?handler, ?own, ?bounds, ?truth, ?preds, fun _ _ => rfl, ?codes⟩
  case handler =>
    intro t n v hhandler hn hlen
    rw [setReg_handler v hhandler hn]
    refine ⟨?_, fun m hm => ?_, rfl⟩
    · simp [Thread.reg, hhandler, hn, hlen]
    · by_cases hm' : 0xF0 ≤ m
      · have hne : n - 0xF0 ≠ m - 0xF0 := by omega
        simp [Thread.reg, hhandler, hm', List.getElem?_set_ne hne]
      · simp [Thread.reg, hm']
  case own =>
    intro t n v hown hlen
    rw [setReg_own v hown]
    refine ⟨?_, fun m hm => ?_, rfl⟩
    · rcases hown with h | h <;> simp [Thread.reg, h, hlen]
    · simp [Thread.reg, List.getElem?_set_ne hm.symm]
  case bounds =>
    intro n k vregs hn hk
    simp [regInBounds, hn, hk]
  case truth => exact fun t v => ⟨rfl, rfl⟩
  case preds =>
    intro t n v hpos hlt
    exact ⟨(pred_setPred v hpos hlt hlt).trans (if_pos rfl), fun m hm hne => (pred_setPred v hpos hlt hm).trans (if_neg hne)⟩
  case codes => exact fun t => ⟨rfl, rfl⟩

end Sys2Proof.Proofs.Execution
end

section
/-! PROOFS. PAIR (O34). -/

namespace Sys2Proof.Proofs.Execution

open Sys2Proof Sys2Proof.Machine Sys2Proof.Claims

/-! ### The operations of halves (R200, R201) -/

/-- The fields of a half, from the numbers that it holds. -/
def pairFields (g : Guard) (op : Nat) (d a b : BitVec 8) : Fields :=
  { Fields.ofBase op d a b with form := .ext, guard := g }

theorem ofBase_blank (op : Nat) (d a b : BitVec 8) :
    Fields.ofBase op d a b =
      { form := .base, d := d, a := a, b := b, c := (Fields.ofBase op d a b).c, xop := 0, guard := Guard.always, la := 0, set := 0
        ty := (Fields.ofBase op d a b).ty, wait := 0, rnd := .nearestEven, scope := .thread, kw := false, low := 0, lit := 0 } := by
  unfold Fields.ofBase
  dsimp only
  split <;> rfl

theorem pairFields_xop (g : Guard) (op : Nat) (d a b : BitVec 8) : (pairFields g op d a b).xop = 0 := by rw [pairFields, ofBase_blank]

theorem pairFields_unsaturated (g : Guard) (op : Nat) (d a b : BitVec 8) : (pairFields g op d a b).xop.getLsbD 0 = false := by rw [pairFields_xop]; rfl

/-- The lane rule of an instruction of independent lanes, without saturation. -/
def ruleOf (x : Fields) (i : Instr) : Option (Lane → LaneOut) :=
  match integerRule i with
  | some f => some fun l => { vals := intWords x.ty false (f x.ty (intValue x.ty l.a) (intValue x.ty l.b) (intValue x.ty l.c)) }
  | none => (wordRule x i).or (ieeeRule x i)

/-- An operand that is none, or one register. -/
def oneSource (o : Opd) : Bool := o == .unused || o == .regs 1

/-- A rule of a half: its result depends on the operands alone, and writes one register and no predicate. -/
structure OneWord (f : Lane → LaneOut) : Prop where
  operands : ∀ t t' : Thread, ∀ a b c : W64, f ⟨t, a, b, c⟩ = f ⟨t', a, b, c⟩
  word     : ∀ l, (f l).vals.length = 1
  noPred   : ∀ l, (f l).pred = none

theorem length_typeWords {t : Ty} (ht : t.wide = false) (v : Nat) : (typeWords t v).length = 1 := by
  simp only [typeWords, ht, Bool.false_eq_true, if_false]
  split <;> rfl

/-- An instruction of independent lanes that names a rule does what the rule says in each. -/
theorem lanewise_of_ruleOf {e : Instr} {op : Nat} {x : Fields} {own : Bool} {f : Lane → LaneOut} {fop : Fields → State → State} (hrow : e.row? = some (op, x, own))
    (hrule : ruleOf x e = some f) (hexec : ∀ s, exec e s = .next (fop x s)) (hsat : x.xop.getLsbD 0 = false) (s : State) :
    ∃ lat hold, fop x s = s.lanewise op x lat hold f := by
  have hlanes : ExecLanewise e op x f := by
    unfold ruleOf at hrule
    cases hint : integerRule e with
    | some k =>
      have hexec := execLanewise_of_integerRule hrow hint
      rw [hint] at hrule
      cases hrule
      rwa [hsat] at hexec
    | none =>
      rw [hint] at hrule
      rcases Option.or_eq_some_iff.mp hrule with hword | ⟨-, hieee⟩
      · exact execLanewise_of_wordRule hrow hword
      · exact execLanewise_of_ieeeRule hrow hieee
  exact ⟨_, _, Host.Outcome.next.inj ((hexec s).symm.trans (hlanes s))⟩

/-- An opcode that pairs: its row has operands of one register, and its meaning is in every lane the rule of its base form. -/
structure PairsBy (x : Fields) (op : Nat) (fop : Fields → State → State) (sp : OpSpec) (f : Lane → LaneOut) : Prop where
  meaning : halfOp op = some fop
  row     : opSpec op x = some sp
  rowBase : opSpec op (Fields.ofBase op x.d x.a x.b) = some sp
  sources : (oneSource sp.a && oneSource sp.b && oneSource sp.c) = true
  target  : x.c = if sp.c = .unused then 0 else x.d
  rule    : ∃ i, decode [BitVec.ofNat 32 (op * 2 ^ 23)] = .ok i ∧ ruleOf x i = some f
  lanes   : ∀ s : State, ∃ lat hold, fop x s = s.lanewise op x lat hold f
  oneWord : OneWord f

theorem pairsBy_of_instr {x : Fields} {op : Nat} {e i : Instr} {own : Bool} {fop : Fields → State → State} {sp : OpSpec} {f : Lane → LaneOut}
    (_ : ofFields op x = some e) (hrow : e.row? = some (op, x, own)) (hmeaning : halfOp op = some fop) (hexec : ∀ s, exec e s = .next (fop x s))
    (hspec : opSpec op x = some sp) (hspecBase : opSpec op (Fields.ofBase op x.d x.a x.b) = some sp) (hsources : (oneSource sp.a && oneSource sp.b && oneSource sp.c) = true)
    (htarget : x.c = if sp.c = .unused then 0 else x.d)
    (hdecode : decode [BitVec.ofNat 32 (op * 2 ^ 23)] = .ok i) (hrule : ruleOf x e = some f) (hruleBase : ruleOf x i = some f) (hsat : x.xop.getLsbD 0 = false)
    (hone : OneWord f) : ∃ fop sp f, PairsBy x op fop sp f :=
  ⟨fop, sp, f, hmeaning, hspec, hspecBase, hsources, htarget, ⟨i, hdecode, hruleBase⟩, lanewise_of_ruleOf hrow hrule hexec hsat, hone⟩

theorem mem_of_pairs {op : Nat} (hpairs : pairs op = true) :
    op ∈ [0x01, 0x02, 0x03, 0x04, 0x05, 0x08, 0x09, 0x0A, 0x0B, 0x0E, 0x10, 0x11, 0x12, 0x13, 0x14, 0x15, 0x16, 0x17, 0x18, 0x19, 0x1C, 0x1D, 0x1F, 0x20, 0x21, 0x22, 0x23,
      0x24, 0x25, 0x29, 0x2B, 0x2C, 0x2D, 0x2E] ∨ op ∈ [0x1A, 0x1B, 0x2A] := by
  have hlt : op < 0x30 := by
    simp [pairs] at hpairs
    omega
  revert hpairs
  interval_cases op <;> decide

theorem length_intWords {t : Ty} (ht : t.wide = false) (sat : Bool) (v : Int) : (intWords t sat v).length = 1 := length_typeWords ht _
theorem length_ieeeOut {x : Fields} (ht : x.ty.wide = false) (r : Rounded) : (ieeeOut x r).vals.length = 1 := length_typeWords ht _
theorem length_roundedOut {t : Ty} (ht : t.wide = false) (r : Rounded) : (roundedOut t r).vals.length = 1 := length_typeWords ht _

/-- Every opcode that pairs (R201): those whose rule gives a typed value, and POPC, CLZ and FCLASS, which give a word. -/
theorem exists_pairsBy {op : Nat} (g : Guard) (d a b : BitVec 8) (hpairs : pairs op = true) : ∃ fop sp f, PairsBy (pairFields g op d a b) op fop sp f := by
  have hnarrow : (pairFields g op d a b).ty.wide = false := by
    rcases mem_of_pairs hpairs with hop | hop
    · fin_cases hop <;> rfl
    · fin_cases hop <;> rfl
  rcases mem_of_pairs hpairs with hop | hop
  · fin_cases hop <;>
    refine pairsBy_of_instr rfl rfl rfl (fun _ => rfl) rfl rfl rfl rfl rfl rfl rfl (pairFields_unsaturated ..) ⟨fun _ _ _ _ _ => rfl, fun l => ?_, fun _ => rfl⟩ <;>
    simp only [length_typeWords hnarrow, length_intWords hnarrow, length_ieeeOut hnarrow, length_roundedOut hnarrow]
  · fin_cases hop <;>
    exact pairsBy_of_instr rfl rfl rfl (fun _ => rfl) rfl rfl rfl rfl rfl rfl rfl (pairFields_unsaturated ..) ⟨fun _ _ _ _ _ => rfl, fun _ => rfl, fun _ => rfl⟩

/-- A half of an opcode that pairs. -/
theorem exists_halfRuns (g : Guard) {h : Half} (hpairs : pairs h.op.toNat = true) : ∃ fop sp f, PairsBy (halfFields g h) h.op.toNat fop sp f :=
  exists_pairsBy g h.d h.a h.b hpairs

/-- The rule of a half is that of the instruction that its opcode's first word decodes to. -/
def ruleDecoded (x : Fields) : Except DecodeCause Instr → Option (Lane → LaneOut)
  | .error _ => none
  | .ok i => ruleOf x i

/-- As an equation of functions, so that the kernel unfolds the definition's name before it looks at the decoder. -/
theorem halfRule_eq : halfRule = fun g h => ruleDecoded (halfFields g h) (decode [BitVec.ofNat 32 (h.op.toNat * 2 ^ 23)]) := by
  delta halfRule
  funext g h
  generalize decode _ = r
  cases r <;> rfl

/-- What the statement names the rule of a half is the rule of its opcode. -/
theorem PairsBy.halfRule {g : Guard} {h : Half} {fop : Fields → State → State} {sp : OpSpec} {f : Lane → LaneOut} (hby : PairsBy (halfFields g h) h.op.toNat fop sp f) :
    halfRule g h = some f := by
  obtain ⟨i, hdecode, hrule⟩ := hby.rule
  rw [halfRule_eq]
  beta_reduce
  rw [hdecode]
  exact hrule

/-! ### The active threads of a group, after a change of its threads -/

theorem insertBy_map {α : Type} {key : α → Nat} {F : α → α} (hkey : ∀ a, key (F a) = key a) (x : α) (l : List α) :
    insertBy key (F x) (l.map F) = (insertBy key x l).map F := by
  induction l with
  | nil => rfl
  | cons y ys ih =>
    simp only [List.map_cons, insertBy, hkey, ih]
    split <;> rfl

theorem sortBy_map {α : Type} {key : α → Nat} {F : α → α} (hkey : ∀ a, key (F a) = key a) (l : List α) : sortBy key (l.map F) = (sortBy key l).map F := by
  have hfold : ∀ acc : List α, (l.map F).foldl (fun acc x => insertBy key x acc) (acc.map F) = (l.foldl (fun acc x => insertBy key x acc) acc).map F := by
    induction l with
    | nil => exact fun _ => rfl
    | cons x xs ih => exact fun acc => by rw [List.map_cons, List.foldl_cons, List.foldl_cons, insertBy_map hkey, ih]
  exact hfold []

theorem leastBy_map {α : Type} {key : α → Nat} {F : α → α} (hkey : ∀ a, key (F a) = key a) (l : List α) : leastBy key (l.map F) = (leastBy key l).map F := by
  induction l with
  | nil => rfl
  | cons x xs ih =>
    simp only [List.map_cons, leastBy, ih]
    cases leastBy key xs with
    | none => rfl
    | some y =>
      simp only [Option.map_some, hkey]
      split <;> rfl

theorem filter_map_of_eq {α : Type} {p : α → Bool} {F : α → α} (hp : ∀ a, p (F a) = p a) (l : List α) : (l.map F).filter p = (l.filter p).map F := by
  rw [List.filter_map, show p ∘ F = p from funext hp]

/-- A change of a thread that keeps what the choice of the active threads reads. -/
structure KeepsIssue (F : Thread → Thread) : Prop where
  ref     : ∀ t, (F t).ref = t.ref
  team    : ∀ t, (F t).team = t.team
  group   : ∀ t, (F t).group = t.group
  status  : ∀ t, (F t).status = t.status
  lane    : ∀ t, (F t).lane = t.lane
  moving  : ∀ t, (F t).moving = t.moving
  dying   : ∀ t, (F t).dying = t.dying
  handler : ∀ t, (F t).handler = t.handler
  pc      : ∀ t, (F t).pc = t.pc

theorem activeOf_map {s : State} {F : Thread → Thread} (hF : KeepsIssue F) (g : GRef) :
    ({ s with threads := s.threads.map F } : State).activeOf g = (s.activeOf g).map F := by
  have hgroup : ∀ t, (F t).inGroup g = t.inGroup g := fun t => by simp only [Thread.inGroup, hF.ref, hF.group, hF.status]
  have hcan : ∀ t, (F t).canIssue = t.canIssue := fun t => by simp only [Thread.canIssue, hF.status, hF.moving, hF.dying]
  have hcandidates : ({ s with threads := s.threads.map F } : State).candidates g = (s.candidates g).map F := by
    have hready : (({ s with threads := s.threads.map F } : State).groupThreads g).filter (·.canIssue) = ((s.groupThreads g).filter (·.canIssue)).map F := by
      rw [State.groupThreads, State.groupThreads, filter_map_of_eq hgroup, sortBy_map hF.lane, filter_map_of_eq hcan]
    simp only [State.candidates, hready]
    rw [filter_map_of_eq hF.handler, List.isEmpty_map]
    split <;> rfl
  have hleast := leastBy_map (key := fun t : Thread => t.pc.toNat) (F := F) (fun t => by rw [hF.pc]) (s.candidates g)
  simp only [State.activeOf, hcandidates, hleast]
  cases leastBy (fun t : Thread => t.pc.toNat) (s.candidates g) with
  | none => rfl
  | some m => 
    simp only [Option.map_some, hF.pc]
    exact filter_map_of_eq (p := fun t : Thread => t.pc == m.pc) (fun t => by rw [hF.pc]) _

theorem active_map {s : State} {F : Thread → Thread} (hF : KeepsIssue F) : ({ s with threads := s.threads.map F } : State).active = s.active.map F := by
  unfold State.active
  dsimp only
  cases s.clk.issue with
  | none => rfl
  | some g => exact activeOf_map hF g

/-- The active threads stand at one PC (R37). -/
theorem pc_of_active {s : State} {t u : Thread} (ht : t ∈ s.active) (hu : u ∈ s.active) : t.pc = u.pc := by
  cases hissue : s.clk.issue with
  | none => simp [State.active, hissue] at ht
  | some g =>
    simp only [State.active, hissue, State.activeOf] at ht hu
    cases hleast : leastBy (fun t : Thread => t.pc.toNat) (s.candidates g) with
    | none => simp [hleast] at ht
    | some m =>
      simp only [hleast, List.mem_filter, beq_iff_eq] at ht hu
      exact ht.2.trans hu.2.symm

/-! ### Registers behind a half (R200) -/

theorem reg_setReg_of_ne {t : Thread} {n m : Nat} (hne : n ≠ m) (v : W32) : (t.setReg n v).reg m = t.reg m := by
  unfold Thread.setReg
  split
  case isTrue hv =>
    simp only [Bool.and_eq_true, decide_eq_true_eq] at hv
    simp only [Thread.reg, hv.1, Bool.true_and, decide_eq_true_eq]
    split
    · rw [List.getD_eq_getElem?_getD, List.getElem?_set_ne (by omega), ← List.getD_eq_getElem?_getD]
    · rfl
  case isFalse =>
    simp only [Thread.reg]
    split
    · rfl
    · rw [List.getD_eq_getElem?_getD, List.getElem?_set_ne hne, ← List.getD_eq_getElem?_getD]

/-- A register reads the same where the thread's identity, mode, windows and the register are the same. -/
theorem readReg_congr {s : State} {t t' : Thread} {n : Nat} (href : t'.ref = t.ref) (hhandler : t'.handler = t.handler) (hwindows : t'.windows = t.windows)
    (hreg : t'.reg n = t.reg n) : readReg s t' n = readReg s t n := by
  simp only [readReg, pendingValue, href, hhandler, hwindows, hreg]

/-- A result of one word and no predicate. -/
theorem applyOut_word {o : LaneOut} {v : W32} (hvals : o.vals = [v]) (hpred : o.pred = none) (t : Thread) (d : Nat) :
    t.applyOut d o = (t.setReg d v).orFlags o.flags := by
  simp only [Thread.applyOut, hvals, hpred, Thread.setRegs]

/-- The result of a half is one word. -/
theorem OneWord.exists_word {f : Lane → LaneOut} (hf : OneWord f) (l : Lane) : ∃ v, (f l).vals = [v] := List.length_eq_one_iff.mp (hf.word l)

/-- A thread whose half wrote `o`, or nothing, with its PC and the times of its results as given. -/
def writtenHalf (d : Nat) (o : Option LaneOut) (pc : W64) (busy : List Busy) (h : Thread) : Thread :=
  { o.elim h (h.applyOut d) with pc := pc, busy := busy }

theorem written_half {x : Fields} (hla : x.la = 0) (s : State) (due : Nat) (o : Option LaneOut) (h : Thread) :
    written s x due o h = writtenHalf x.d.toNat o (h.pc + BitVec.ofNat 64 x.form.length) (written s x due o h).busy h := by
  have hwindows : (written s x due o h).windows = h.windows := by
    cases o with
    | none => rfl
    | some o => rw [written_windows, if_pos (.inl hla), List.append_nil]
  rw [written_eq, hwindows]
  cases o with
  | none => rfl
  | some o => simp only [writtenHalf, Option.elim]; rw [Thread.applyOut_frame]

theorem written_setBack {x : Fields} (hla : x.la = 0) (s : State) (due : Nat) (o : Option LaneOut) (h : Thread) (pc : W64) :
    { written s x due o h with pc := pc } = writtenHalf x.d.toNat o pc (written s x due o h).busy h :=
  congrArg (fun w : Thread => { w with pc := pc }) (written_half hla s due o h)

/-- What a half that writes leaves of a thread is its registers, predicates and FSTAT, its PC and the times of its results. -/
theorem writtenHalf_frame (d : Nat) (o : Option LaneOut) (pc : W64) (busy : List Busy) (h : Thread) : writtenHalf d o pc busy h =
    { h with
      regs := (writtenHalf d o pc busy h).regs, hv := (writtenHalf d o pc busy h).hv, preds := (writtenHalf d o pc busy h).preds
      fstat := (writtenHalf d o pc busy h).fstat, pc := pc, busy := busy } := by
  cases o with
  | none => rfl
  | some o => simp only [writtenHalf, Option.elim]; rw [Thread.applyOut_frame]

/-- A result of a half: one word and no predicate, or nothing. -/
def WordOrNone (o : Option LaneOut) : Prop := ∀ r ∈ o, (∃ v, r.vals = [v]) ∧ r.pred = none

theorem wordOrNone_perLane {f : Lane → LaneOut} (hf : OneWord f) (s : State) (sp : OpSpec) (x : Fields) (ws : List W32) (h : Thread) : WordOrNone (perLane s sp x ws f h) := by
  intro r hr
  unfold perLane at hr
  split at hr
  · cases hr
    exact ⟨hf.exists_word _, hf.noPred _⟩
  · cases hr

theorem writtenHalf_preds {o : Option LaneOut} (ho : WordOrNone o) (d : Nat) (pc : W64) (busy : List Busy) (h : Thread) : (writtenHalf d o pc busy h).preds = h.preds := by
  cases o with
  | none => rfl
  | some r =>
    obtain ⟨⟨v, hv⟩, hp⟩ := ho r rfl
    simp only [writtenHalf, Option.elim, applyOut_word hv hp, Thread.orFlags]
    rw [Thread.setReg_frame]

theorem writtenHalf_reg {o : Option LaneOut} (ho : WordOrNone o) {d n : Nat} (hne : d ≠ n) (pc : W64) (busy : List Busy) (h : Thread) :
    (writtenHalf d o pc busy h).reg n = h.reg n := by
  cases o with
  | none => rfl
  | some r =>
    obtain ⟨⟨v, hv⟩, hp⟩ := ho r rfl
    exact (congrArg (Thread.reg · n) (show writtenHalf d (some r) pc busy h = { h.setReg d v with fstat := (h.setReg d v).fstat ||| r.flags, pc := pc, busy := busy } by
      simp only [writtenHalf, Option.elim, applyOut_word hv hp, Thread.orFlags])).trans (reg_setReg_of_ne hne v)

theorem readReg_writtenHalf {o : Option LaneOut} (ho : WordOrNone o) {d n : Nat} (hne : d ≠ n) (s : State) (pc : W64) (busy : List Busy) (h : Thread) :
    readReg s (writtenHalf d o pc busy h) n = readReg s h n :=
  readReg_congr (by rw [writtenHalf_frame]) (by rw [writtenHalf_frame]) (by rw [writtenHalf_frame]) (writtenHalf_reg ho hne pc busy h)

/-- A half's source reads the same where the register that it names, if it names one, reads the same. -/
theorem readOpd_congr {s : State} {t t' : Thread} {o : Opd} {v : BitVec 8} (hone : oneSource o = true) (hreg : o ≠ .unused → readReg s t' v.toNat = readReg s t v.toNat) :
    readOpd s t' o v = readOpd s t o v := by
  simp only [oneSource, Bool.or_eq_true, beq_iff_eq] at hone
  rcases hone with rfl | rfl
  · rfl
  · simp only [readOpd, hreg (by decide)]

theorem setReg_timed (t : Thread) (n : Nat) (v : W32) (pc : W64) (busy : List Busy) :
    ({ t with pc := pc, busy := busy } : Thread).setReg n v = { t.setReg n v with pc := pc, busy := busy } := by
  cases hhv : t.handler && decide (0xF0 ≤ n) <;> simp [Thread.setReg, hhv]

theorem writtenHalf_writtenHalf {o : Option LaneOut} (ho : WordOrNone o) (d d' : Nat) (o' : Option LaneOut) (pc pc' : W64) (busy busy' : List Busy) (h : Thread) :
    writtenHalf d o pc busy (writtenHalf d' o' pc' busy' h) = { o.elim (o'.elim h (h.applyOut d')) ((o'.elim h (h.applyOut d')).applyOut d) with pc := pc, busy := busy } := by
  cases o with
  | none => rfl
  | some r =>
    obtain ⟨⟨v, hv⟩, hp⟩ := ho r rfl
    simp only [writtenHalf, Option.elim, applyOut_word hv hp, setReg_timed]
    rfl

theorem afterHalf_eq (s : State) (g : Guard) (k : Half) (sp : OpSpec) (f : Lane → LaneOut) (h w : Thread) :
    afterHalf s g k sp f h w = (perLane s sp (halfFields g k) [] f h).elim w (w.applyOut k.d.toNat) := by
  unfold afterHalf
  cases perLane s sp (halfFields g k) [] f h <;> rfl

/-! ### A half issues (R200, R203) -/

section
variable {g : Guard} {h : Half} {fop : Fields → State → State} {sp : OpSpec} {f : Lane → LaneOut}

theorem halfFields_blank (g : Guard) (h : Half) : halfFields g h =
    { form := .ext, d := h.d, a := h.a, b := h.b, c := (halfFields g h).c, xop := 0, guard := g, la := 0, set := 0, ty := (halfFields g h).ty, wait := 0
      rnd := .nearestEven, scope := .thread, kw := false, low := 0, lit := 0 } := by
  unfold halfFields
  rw [ofBase_blank]

theorem halfFields_d (g : Guard) (h : Half) : (halfFields g h).d = h.d := by rw [halfFields_blank]
theorem halfFields_a (g : Guard) (h : Half) : (halfFields g h).a = h.a := by rw [halfFields_blank]
theorem halfFields_b (g : Guard) (h : Half) : (halfFields g h).b = h.b := by rw [halfFields_blank]
theorem halfFields_la (g : Guard) (h : Half) : (halfFields g h).la = 0 := by rw [halfFields_blank]
theorem halfFields_set (g : Guard) (h : Half) : (halfFields g h).set = 0 := by rw [halfFields_blank]
theorem halfFields_kw (g : Guard) (h : Half) : (halfFields g h).kw = false := by rw [halfFields_blank]
theorem halfFields_immBit (g : Guard) (h : Half) : (halfFields g h).immBit = false := by rw [halfFields_blank]; simp [Fields.immBit]

/-- No operation that pairs needs a privilege. -/
theorem privOk_of_pairs {op : Nat} (hpairs : pairs op = true) (s : State) (x : Fields) (t : Thread) (tm : Team) : privOk s op x t tm = true := by
  rcases mem_of_pairs hpairs with hop | hop
  · fin_cases hop <;> rfl
  · fin_cases hop <;> rfl

/-- What a half reads is at the registers that R201 speaks of. -/
theorem PairsBy.reads (hby : PairsBy (halfFields g h) h.op.toNat fop sp f) {n : Nat} (hn : h.reads.contains n = false) :
    (sp.a ≠ .unused → n ≠ h.a.toNat) ∧ (sp.b ≠ .unused → n ≠ h.b.toNat) ∧ (sp.c ≠ .unused → n ≠ (halfFields g h).c.toNat) := by
  have hrow := hby.rowBase
  rw [halfFields_d, halfFields_a, halfFields_b] at hrow
  have hc : sp.c ≠ .unused → (halfFields g h).c = h.d := fun hne => by rw [hby.target, if_neg hne, halfFields_d]
  rw [← Bool.not_eq_true, List.contains_iff_mem, Half.reads, hrow] at hn
  simp only [List.mem_append, not_or] at hn
  obtain ⟨⟨ha, hb⟩, hd⟩ := hn
  refine ⟨fun hne => ?_, fun hne => ?_, fun hne => ?_⟩
  · simpa [hne] using ha
  · simpa [hne] using hb
  · rw [hc hne]
    simpa [hne] using hd

/-- Behind the other half, a half gives what it gives on the registers as they stood. -/
theorem PairsBy.perLane_writtenHalf (hby : PairsBy (halfFields g h) h.op.toNat fop sp f) {o : Option LaneOut} (ho : WordOrNone o) {d : Nat}
    (hd : h.reads.contains d = false) (s : State) (pc : W64) (busy : List Busy) (t : Thread) :
    perLane s sp (halfFields g h) [] f (writtenHalf d o pc busy t) = perLane s sp (halfFields g h) [] f t := by
  have hguard : (writtenHalf d o pc busy t).guardTrue (halfFields g h).guard = t.guardTrue (halfFields g h).guard := by
    simp only [Thread.guardTrue, Thread.pred, writtenHalf_preds ho]
  have hsources := hby.sources
  simp only [Bool.and_eq_true] at hsources
  obtain ⟨⟨hoa, hob⟩, hoc⟩ := hsources
  obtain ⟨hna, hnb, hnc⟩ := hby.reads hd
  have hread : ∀ {q : Opd} {v : BitVec 8}, oneSource q = true → (q ≠ .unused → d ≠ v.toNat) → readOpd s (writtenHalf d o pc busy t) q v = readOpd s t q v :=
    fun hone hne => readOpd_congr hone fun hq => readReg_writtenHalf ho (hne hq) s pc busy t
  have ha := hread hoa (v := (halfFields g h).a) (by rwa [halfFields_a])
  have hb : readB s (writtenHalf d o pc busy t) sp (halfFields g h) [] = readB s t sp (halfFields g h) [] := by
    have hform : (halfFields g h).form ≠ .lit := by rw [halfFields_blank]; exact Form.noConfusion
    simp only [readB, if_neg hform, halfFields_kw, halfFields_immBit, Bool.and_false, Bool.false_eq_true, if_false]
    exact hread hob (by rwa [halfFields_b])
  have hc := hread hoc (v := (halfFields g h).c) hnc
  simp only [perLane, hguard, laneOf, ha, hb, hc]
  rw [hby.oneWord.operands (writtenHalf d o pc busy t) t]

/-- A half of an opcode that pairs writes its results at issue. -/
theorem PairsBy.writes (hby : PairsBy (halfFields g h) h.op.toNat fop sp f) (hpairs : pairs h.op.toNat = true) {s : State} {t : Thread} {ts : List Thread} {tm : Team}
    (hactive : s.active = t :: ts) (hteam : s.team t.team = some tm) (hbounds : boundsOk sp (halfFields g h) t.handler tm = true) :
    ∃ due, fop (halfFields g h) s = s.writeAtIssue (halfFields g h) due ((t :: ts).map (·.ref)) (perLane s sp (halfFields g h) [] f) := by
  obtain ⟨lat, hold, hlanes⟩ := hby.lanes s
  have hcheck : issueCheck s tm t sp h.op.toNat (halfFields g h) = none := by simp [issueCheck, hbounds, privOk_of_pairs hpairs]
  have hslot : ∀ (u : State) (n : Nat) (part : List Thread), u.slotFor (halfFields g h).set.toNat n part = u := fun u n part => by
    rw [halfFields_set]
    unfold State.slotFor
    cases part <;> rfl
  rw [hlanes, lanewise_next ⟨hactive, hteam, hcheck, hby.row⟩ (constOperand_of_kw_false (halfFields_kw g h)), issuedState, hslot]
  exact ⟨_, rfl⟩

end

/-! ### Both halves -/

/-- A thread behind the first half of a PAIR: an active one has what the half wrote, and stands where it stood. -/
def firstHalf (refs : List TRef) (d : Nat) (out : Thread → Option LaneOut) (busy : Thread → List Busy) (h : Thread) : Thread :=
  if refs.contains h.ref then writtenHalf d (out h) h.pc (busy h) h else h

theorem firstHalf_frame (refs : List TRef) (d : Nat) (out : Thread → Option LaneOut) (busy : Thread → List Busy) (h : Thread) :
    firstHalf refs d out busy h =
      { h with
        regs := (firstHalf refs d out busy h).regs, hv := (firstHalf refs d out busy h).hv, preds := (firstHalf refs d out busy h).preds
        fstat := (firstHalf refs d out busy h).fstat, busy := (firstHalf refs d out busy h).busy } := by
  unfold firstHalf
  split
  · rw [writtenHalf_frame]
  · rfl

theorem keepsIssue_firstHalf (refs : List TRef) (d : Nat) (out : Thread → Option LaneOut) (busy : Thread → List Busy) : KeepsIssue (firstHalf refs d out busy) := by
  constructor <;> intro t <;> rw [firstHalf_frame]

theorem map_ref_firstHalf (refs : List TRef) (d : Nat) (out : Thread → Option LaneOut) (busy : Thread → List Busy) (ts : List Thread) :
    (ts.map (firstHalf refs d out busy)).map (·.ref) = ts.map (·.ref) := by
  rw [List.map_map]
  exact List.map_congr_left fun t _ => (keepsIssue_firstHalf refs d out busy).ref t

/-- The state between the halves: half 0 has written its results, and the PC is set back. -/
theorem between_halves {x : Fields} (hla : x.la = 0) {s : State} {t : Thread} {ts : List Thread} (hactive : s.active = t :: ts)
    (honly : ∀ v ∈ s.threads, ((t :: ts).map (·.ref)).contains v.ref = true → v ∈ t :: ts) (due : Nat) (out : Thread → Option LaneOut) :
    (s.writeAtIssue x due ((t :: ts).map (·.ref)) out).updThreads ((t :: ts).map (·.ref)) (fun h => { h with pc := t.pc }) =
      { s with threads := s.threads.map (firstHalf ((t :: ts).map (·.ref)) x.d.toNat out fun h => (written s x due (out h) h).busy) } := by
  have hthreads : ((s.writeAtIssue x due ((t :: ts).map (·.ref)) out).updThreads ((t :: ts).map (·.ref)) (fun h => { h with pc := t.pc })).threads =
      s.threads.map (firstHalf ((t :: ts).map (·.ref)) x.d.toNat out fun h => (written s x due (out h) h).busy) := by
    refine List.ext_getElem? fun k => ?_
    simp only [State.updThreads, getElem?_mapIf, writeAtIssue_thread_written, Option.map_map, List.getElem?_map]
    cases hk : s.threads[k]? with
    | none => rfl
    | some h =>
      have hmem : h ∈ s.threads := List.mem_of_getElem? hk
      by_cases hin : ((t :: ts).map (·.ref)).contains h.ref = true
      · have hpc : t.pc = h.pc := pc_of_active (hactive ▸ List.mem_cons_self) (hactive ▸ honly h hmem hin)
        have hin' : ((t :: ts).map (·.ref)).contains (written s x due (out h) h).ref = true := by rwa [written_ref]
        simp only [Option.map_some, Function.comp_apply, if_pos hin, if_pos hin', firstHalf, hpc, written_setBack hla]
      · simp only [Option.map_some, Function.comp_apply, if_neg hin, firstHalf]
  exact congrArg (fun l => ({ s with threads := l } : State)) hthreads

theorem delayHalf_frame (t : Thread) (d n : Nat) : t.delayHalf d n = { t with busy := (t.delayHalf d n).busy } := rfl

/-- The bounds of a half are those of its row. -/
theorem PairsBy.halfBounds {g : Guard} {h : Half} {fop : Fields → State → State} {sp : OpSpec} {f : Lane → LaneOut} (hby : PairsBy (halfFields g h) h.op.toNat fop sp f)
    {s : State} {t : Thread} {tm : Team} (hteam : s.team t.team = some tm) : Machine.halfBounds s h t g = boundsOk sp (halfFields g h) t.handler tm := by
  have hrow := hby.rowBase
  rw [halfFields_d, halfFields_a, halfFields_b] at hrow
  simp only [Machine.halfBounds, hteam, hrow]

/-- What R201 says of the halves that the model uses: both pair, and the second reads nothing that the first writes. -/
theorem of_halvesLegal {h0 h1 : Half} (hlegal : halvesLegal h0 h1 = true) :
    pairs h0.op.toNat = true ∧ pairs h1.op.toNat = true ∧ h1.reads.contains h0.d.toNat = false := by
  simp only [halvesLegal, pairLegal, Bool.and_eq_true, Bool.not_eq_true'] at hlegal
  exact ⟨hlegal.2.1.1.1.1.1.1.1, hlegal.2.1.1.1.1.1.1.2, hlegal.2.2⟩

section
variable {g0 g1 : Guard} {h0 h1 : Half} {fop0 fop1 : Fields → State → State} {sp0 sp1 : OpSpec} {f0 f1 : Lane → LaneOut}

/-- A half out of bounds traps the group (R203). -/
theorem execPair_outOfBounds (hby0 : PairsBy (halfFields g0 h0) h0.op.toNat fop0 sp0 f0) (hby1 : PairsBy (halfFields g1 h1) h1.op.toNat fop1 sp1 f1)
    {s : State} {t : Thread} {ts : List Thread} {tm : Team} (hactive : s.active = t :: ts) (hteam : s.team t.team = some tm)
    (hbounds : boundsOk sp0 (halfFields g0 h0) t.handler tm = false ∨ boundsOk sp1 (halfFields g1 h1) t.handler tm = false) :
    execPair g0 g1 h0 h1 s = .next (s.trapGroup (decodeTrap Cause.regBounds ((encode (.pair g0 g1 h0 h1)).headD 0))) := by
  have hfails : (!(Machine.halfBounds s h0 t g0 && Machine.halfBounds s h1 t g1)) = true := by
    rw [hby0.halfBounds hteam, hby1.halfBounds hteam]
    rcases hbounds with h | h <;> simp [h]
  simp only [execPair, hactive, hfails, if_true]

/-- The state behind the first half, on its pipe, with its threads changed by `F`. -/
def behindFirst (s : State) (g : GRef) (p : Nat) (F : Thread → Thread) : State := { onPipe s g p with threads := s.threads.map F }

/-- What the first half makes of the state. -/
theorem PairsBy.first (hby : PairsBy (halfFields g0 h0) h0.op.toNat fop0 sp0 f0) (hpairs : pairs h0.op.toNat = true)
    {s : State} {t : Thread} {ts : List Thread} {tm : Team} (hactive : s.active = t :: ts) (hteam : s.team t.team = some tm)
    (hbounds : boundsOk sp0 (halfFields g0 h0) t.handler tm = true)
    (honly : ∀ v ∈ s.threads, ((t :: ts).map (·.ref)).contains v.ref = true → v ∈ t :: ts) (g : GRef) (p : Nat) :
    ∃ busy, (fop0 (halfFields g0 h0) (onPipe s g p)).updThreads ((t :: ts).map (·.ref)) (fun h => { h with pc := t.pc }) =
      behindFirst s g p (firstHalf ((t :: ts).map (·.ref)) h0.d.toNat (perLane s sp0 (halfFields g0 h0) [] f0) busy) := by
  obtain ⟨due, hwrites⟩ := hby.writes hpairs (s := onPipe s g p) hactive hteam hbounds
  have hbetween := between_halves (halfFields_la g0 h0) (s := onPipe s g p) hactive honly due (perLane s sp0 (halfFields g0 h0) [] f0)
  rw [halfFields_d] at hbetween
  rw [hwrites]
  exact ⟨_, hbetween⟩

/-- What the second half makes of the state behind the first. -/
theorem PairsBy.second (hby : PairsBy (halfFields g1 h1) h1.op.toNat fop1 sp1 f1) (hpairs : pairs h1.op.toNat = true)
    {s : State} {t : Thread} {ts : List Thread} {tm : Team} (hactive : s.active = t :: ts) (hteam : s.team t.team = some tm)
    (hbounds : boundsOk sp1 (halfFields g1 h1) t.handler tm = true) {F : Thread → Thread} (hF : KeepsIssue F) (g : GRef) (p p' : Nat) :
    ∃ due, fop1 (halfFields g1 h1) (onPipe (behindFirst s g p F) g p') =
      (onPipe (behindFirst s g p F) g p').writeAtIssue (halfFields g1 h1) due ((t :: ts).map (·.ref)) (perLane s sp1 (halfFields g1 h1) [] f1) := by
  have hactive' : (onPipe (behindFirst s g p F) g p').active = F t :: ts.map F := (active_map (s := s) hF).trans (by rw [hactive]; rfl)
  obtain ⟨due, hwrites⟩ := hby.writes hpairs hactive' (by rw [hF.team]; exact hteam) (by rw [hF.handler]; exact hbounds)
  have hrefs : (F t :: ts.map F).map (·.ref) = (t :: ts).map (·.ref) := by
    simp only [List.map_cons, List.map_map, hF.ref]
    exact congrArg _ (List.map_congr_left fun u _ => hF.ref u)
  rw [hrefs] at hwrites
  exact ⟨due, hwrites⟩

/-- What becomes of a thread when both halves have written. -/
theorem PairsBy.bothHalves (hby0 : PairsBy (halfFields g0 h0) h0.op.toNat fop0 sp0 f0) (hby1 : PairsBy (halfFields g1 h1) h1.op.toNat fop1 sp1 f1)
    (hreads : h1.reads.contains h0.d.toNat = false) (s s1 : State) (refs : List TRef) (due n : Nat) (busy : Thread → List Busy) {h : Thread} (hin : refs.contains h.ref = true) :
    ∃ b, (written s1 (halfFields g1 h1) due (perLane s sp1 (halfFields g1 h1) [] f1 (firstHalf refs h0.d.toNat (perLane s sp0 (halfFields g0 h0) [] f0) busy h))
        (firstHalf refs h0.d.toNat (perLane s sp0 (halfFields g0 h0) [] f0) busy h)).delayHalf h1.d.toNat n =
      { afterHalf s g1 h1 sp1 f1 h (afterHalf s g0 h0 sp0 f0 h h) with pc := h.pc + 12, busy := b } := by
  have hword0 := wordOrNone_perLane hby0.oneWord s sp0 (halfFields g0 h0) [] h
  have hword1 := wordOrNone_perLane hby1.oneWord s sp1 (halfFields g1 h1) [] h
  have hform : (halfFields g1 h1).form = .ext := by rw [halfFields_blank]
  have hpc : (writtenHalf h0.d.toNat (perLane s sp0 (halfFields g0 h0) [] f0 h) h.pc (busy h) h).pc = h.pc := rfl
  simp only [firstHalf, if_pos hin]
  rw [hby1.perLane_writtenHalf hword0 hreads, written_half (halfFields_la g1 h1), writtenHalf_writtenHalf hword1, hpc, hform, halfFields_d, delayHalf_frame,
    afterHalf_eq, afterHalf_eq]
  exact ⟨_, rfl⟩

/-- Within the bounds, the halves write one after the other, and nothing but threads has changed. -/
theorem execPair_next (hby0 : PairsBy (halfFields g0 h0) h0.op.toNat fop0 sp0 f0) (hby1 : PairsBy (halfFields g1 h1) h1.op.toNat fop1 sp1 f1)
    (hpairs0 : pairs h0.op.toNat = true) (hpairs1 : pairs h1.op.toNat = true)
    {s : State} {t : Thread} {ts : List Thread} {tm : Team} (hactive : s.active = t :: ts) (hteam : s.team t.team = some tm)
    (hbounds0 : boundsOk sp0 (halfFields g0 h0) t.handler tm = true) (hbounds1 : boundsOk sp1 (halfFields g1 h1) t.handler tm = true)
    (honly : ∀ v ∈ s.threads, ((t :: ts).map (·.ref)).contains v.ref = true → v ∈ t :: ts) :
    ∃ (n due : Nat) (busy : Thread → List Busy) (s1 : State),
      execPair g0 g1 h0 h1 s = .next { s with
        threads := mapIf (fun h => ((t :: ts).map (·.ref)).contains h.ref) (fun h => h.delayHalf h1.d.toNat n)
          (s1.writeAtIssue (halfFields g1 h1) due ((t :: ts).map (·.ref)) (perLane s sp1 (halfFields g1 h1) [] f1)).threads } ∧
      s1.threads = s.threads.map (firstHalf ((t :: ts).map (·.ref)) h0.d.toNat (perLane s sp0 (halfFields g0 h0) [] f0) busy) := by
  have hholds : (!(Machine.halfBounds s h0 t g0 && Machine.halfBounds s h1 t g1)) = false := by
    rw [hby0.halfBounds hteam, hby1.halfBounds hteam, hbounds0, hbounds1]
    rfl
  obtain ⟨busy, hfirst⟩ := hby0.first hpairs0 hactive hteam hbounds0 honly t.gref (halfPipe s t.ref.core 0)
  have hF := keepsIssue_firstHalf ((t :: ts).map (·.ref)) h0.d.toNat (perLane s sp0 (halfFields g0 h0) [] f0) busy
  generalize hFeq : firstHalf ((t :: ts).map (·.ref)) h0.d.toNat (perLane s sp0 (halfFields g0 h0) [] f0) busy = F at hfirst hF
  obtain ⟨due, hsecond⟩ := hby1.second hpairs1 hactive hteam hbounds1 hF t.gref (halfPipe s t.ref.core 0) (halfPipe s t.ref.core 1)
  refine ⟨((s.team t.team).map fun tm => halfDelay s tm t.ref.core).getD 0, due, busy, onPipe (behindFirst s t.gref (halfPipe s t.ref.core 0) F) t.gref (halfPipe s t.ref.core 1), ?_, ?_⟩
  · simp only [execPair, hactive, hholds, Bool.false_eq_true, if_false, hby0.meaning, hby1.meaning, hfirst, hsecond]
    rfl
  · rw [hFeq]
    rfl

end

/-- Settles O34: each half writes at issue what its lane rule gives (`PairsBy.writes`); the second finds the group as the first did (`active_map`) and reads the registers as
they stood, since it names none that the first writes (`PairsBy.perLane_writtenHalf`). -/
theorem pairs : Obligations.Pairs := by
  unfold Obligations.Pairs
  intro g0 g1 h0 h1 s t ts tm sp0 sp1 hactive hteam hlegal hrow0 hrow1
  obtain ⟨hpairs0, hpairs1, hreads⟩ := of_halvesLegal hlegal
  obtain ⟨fop0, sp0', f0, hby0⟩ := exists_halfRuns g0 hpairs0
  obtain ⟨fop1, sp1', f1, hby1⟩ := exists_halfRuns g1 hpairs1
  obtain rfl : sp0' = sp0 := Option.some.inj (hby0.row.symm.trans hrow0)
  obtain rfl : sp1' = sp1 := Option.some.inj (hby1.row.symm.trans hrow1)
  refine ⟨fun hbounds => execPair_outOfBounds hby0 hby1 hactive hteam hbounds, fun hbounds0 hbounds1 honly => ?_⟩
  obtain ⟨n, due, busy, s1, hexec, hthreads⟩ := execPair_next hby0 hby1 hpairs0 hpairs1 hactive hteam hbounds0 hbounds1 honly
  refine ⟨f0, f1, _, hby0.halfRule, hby1.halfRule, hexec, rfl, ?_, fun k h hk => ?_⟩
  · simp only [length_mapIf, State.writeAtIssue, hthreads, List.length_map]
  · simp only [getElem?_mapIf, writeAtIssue_thread_written, hthreads, List.getElem?_map, hk, Option.map_some]
    have href := (keepsIssue_firstHalf ((t :: ts).map (·.ref)) h0.d.toNat (perLane s sp0' (halfFields g0 h0) [] f0) busy).ref h
    refine ⟨_, rfl, ?_⟩
    by_cases hin : ((t :: ts).map (·.ref)).contains h.ref = true
    · obtain ⟨b, hboth⟩ := hby0.bothHalves hby1 hreads s s1 ((t :: ts).map (·.ref)) due n busy hin
      simp only [href, if_pos hin, written_ref, hboth]
    · simp only [href, if_neg hin]
      exact if_neg hin
end Sys2Proof.Proofs.Execution
end

section
/-! PROOFS. Packets, returns and acknowledgements (O36). -/

namespace Sys2Proof.Proofs.Execution

open Sys2Proof Sys2Proof.Machine Sys2Proof.Claims

section
variable {s : State} {r : Request} {home : CoreId} {win off : Nat} {p : LanePart} {ps : List LanePart} {w : PlotWindow} {k : Plot}

/-- A packet whose window is open and lets it write has no cause of refusal (R141, R143). -/
theorem packetCause_atPlot (h : AtPlot s r home win off p ps w k) : packetCause s r home win (some w) p = none := by
  unfold packetCause
  cases hwriter : w.writer with
  | none => simp only [hwriter]
  | some t =>
    rcases h.writer t hwriter with ⟨l, hload⟩ | hteam
    · simp [hwriter, hload]
    · simp [hwriter, hteam]

/-- A packet that its unit takes is performed on its plot, as its kind says (R142). -/
theorem execOperationPacket_atPlot (h : AtPlot s r home win off p ps w k) : execOperationPacket r.id s = .next (match r.kind with
    | .store => (s.writePlotBytes k (w.offset + p.off) p.data).answerAfter r (packetBack r home) (.storeAck r.id)
    | .atomic aop rnd =>
      let v := s.recordedAtomic r.ctx p.t (leNat (k.read (w.offset + p.off) p.size)) 0
      (v.2.writePlotBytes k (w.offset + p.off) (leBytes p.size (atomicNew r.ty aop rnd v.1.1 (leNat p.data) (leNat p.cmp)).bits)).answerAfter
        { r with old := [leBytes 8 v.1.1 ++ leBytes 8 v.1.2] } (packetBack r home) (.loadReturn r.id)
    | _ => s.answerAfter { r with line := List.replicate p.off 0 ++ k.read (w.offset + p.off) p.size } (packetBack r home) (.loadReturn r.id)) := by
  have hpoison : (decide (r.kind ≠ .store) && s.plotPoisoned k (w.offset + p.off) p.size) = false := by
    by_cases hstore : r.kind = .store
    · simp [hstore]
    · simp [h.poison hstore]
  simp only [execOperationPacket, h.there, h.route, h.parts, List.head?_cons, h.way, ne_eq, not_true_eq_false, if_false, h.drains, Bool.false_eq_true, h.window,
    packetCause_atPlot h, Option.bind_some, h.plot, Option.map_some]
  rw [if_neg (by simpa using hpoison)]
  rfl

theorem recordedAtomic_of_not_replaying {ctx : Nat} (h : s.replaying ctx = false) (t : TRef) (old v : Nat) : s.recordedAtomic ctx t old v = ((old, v), s) := by
  simp [State.recordedAtomic, h]

/-- Only a private store waits for an earlier one. -/
theorem earlierPrivate_of_load {l : Nat} (h : r.kind = .load l) : s.earlierPrivate r = false := by
  simp [State.earlierPrivate, h]

end

/-- Settles O36: each happening by the case of its request's kind (`execOperationPacket_atPlot`). -/
theorem packetsAndReturns : Obligations.PacketsAndReturns := by
  unfold Obligations.PacketsAndReturns
  refine fun s r => ⟨fun home win off p ps w k hplot => ⟨fun hkind => ?store, fun l hkind => ?load, fun aop rnd hkind hreplay => ?atomic⟩, ?returns, ?acks⟩
  case store => exact (execOperationPacket_atPlot hplot).trans (by rw [hkind])
  case load => exact (execOperationPacket_atPlot hplot).trans (by rw [hkind])
  case atomic => exact (execOperationPacket_atPlot hplot).trans (by simp only [hkind, recordedAtomic_of_not_replaying hreplay])
  case returns =>
    intro l hthere hstage hkind
    change execLoadReturn r.id s = _
    simp only [execLoadReturn, hthere, hstage, ne_eq, not_true_eq_false, if_false, earlierPrivate_of_load hkind, Bool.false_eq_true, hkind]
  case acks =>
    intro hthere hstage hkind hroute
    change execStoreAck r.id s = _
    simp only [execStoreAck, hthere, hstage, ne_eq, not_true_eq_false, if_false, hkind, hroute]
    rfl
end Sys2Proof.Proofs.Execution
end

section
/-! PROOFS. The walking die's answers, and fences (O37). -/

namespace Sys2Proof.Proofs.Execution

open Sys2Proof Sys2Proof.Machine Sys2Proof.Claims

/-! ### What follows from exits and joins sends no request (R52, R53, R311, R347) -/

/-- Every request of `u` is one of `s`. -/
def NoNewRequests (s u : State) : Prop := u.mem.requests ⊆ s.mem.requests

theorem NoNewRequests.trans {s u v : State} (h₁ : NoNewRequests s u) (h₂ : NoNewRequests u v) : NoNewRequests s v := List.Subset.trans h₂ h₁

theorem noNewRequests_of_eq {s u : State} (h : u.mem.requests = s.mem.requests) : NoNewRequests s u := fun _ hq => h ▸ hq

theorem noNewRequests_foldl {α : Type} {f : State → α → State} (hf : ∀ s a, NoNewRequests s (f s a)) (l : List α) (s : State) : NoNewRequests s (l.foldl f s) := by
  induction l generalizing s with
  | nil => exact List.Subset.refl _
  | cons a l ih => exact (hf s a).trans (ih _)

theorem requests_ceaseGroups (s : State) : s.ceaseGroups.mem.requests = s.mem.requests := (congrArg (fun u : State => u.mem.requests) (ceaseGroups_frame s) :)

theorem requests_tellPoster (s : State) (p : Poster) (ok : Bool) : (s.tellPoster p ok).mem.requests = s.mem.requests :=
  (congrArg (fun u : State => u.mem.requests) (tellPoster_frame s p ok) :)

theorem requests_retire (s : State) (n : Nat) (r : Record) (ok : Bool) : (s.retire n r ok).mem.requests = s.mem.requests := by
  unfold State.retire
  dsimp only
  split
  · exact requests_tellPoster s r.poster ok
  · exact requests_tellPoster s r.poster ok

theorem requests_endTeam (s : State) (tm : Team) (how : Ending) (retires : Bool) : (s.endTeam tm how retires).mem.requests = s.mem.requests := by
  have hfilings : ∀ (ps : List Part) (t : State), (ps.foldl (fun s p => s.settleFilings p.core tm.ctx) t).mem.requests = t.mem.requests :=
    foldl_keeps (π := fun t : State => t.mem.requests) fun t p => (congrArg (fun u : State => u.mem.requests) (settleFilings_frame t p.core tm.ctx) :)
  unfold State.endTeam
  dsimp only
  split
  · exact (hfilings _ _).trans (requests_ceaseGroups _)
  · split
    · exact (requests_retire _ _ _ _).trans ((hfilings _ _).trans (requests_ceaseGroups _))
    · exact (hfilings _ _).trans (requests_ceaseGroups _)

theorem requests_threadLeft (s : State) (t : TRef) (how : Ending) (h : Thread) : (threadLeft s t how h).mem.requests = s.mem.requests :=
  (congrArg (fun u : State => u.mem.requests) (onlyLeft_threadLeft s t how h) :)

theorem requests_exitNow (s : State) (t : TRef) (how : Ending) : (s.exitNow t how).mem.requests = s.mem.requests := by
  unfold State.exitNow
  split
  · rfl
  · rename_i h _
    dsimp only
    have hleft := requests_threadLeft s t how h
    unfold threadLeft endedThread at hleft
    split
    · rfl
    · split
      · exact hleft
      · split
        · exact (requests_endTeam _ _ _ _).trans hleft
        · exact hleft

theorem requests_exitThread (s : State) (t : TRef) (how : Ending) : (s.exitThread t how).mem.requests = s.mem.requests := by
  unfold State.exitThread
  split
  · rfl
  · exact requests_exitNow s t how

/-- The requests of a context that dies are withdrawn; none is added. -/
theorem noNewRequests_endContext (s : State) (n : Nat) (bs : List Byte) : NoNewRequests s (s.endContext n bs) := by
  have hteams : ∀ (l : List Team) (t : State), (l.foldl (fun s t => s.endTeam t .faulted false) t).mem.requests = t.mem.requests :=
    foldl_keeps (π := fun t : State => t.mem.requests) fun t tm => requests_endTeam t tm .faulted false
  have htold : ∀ (l : List Record) (t : State), (l.foldl (fun s r => s.tellPoster r.poster false) t).mem.requests = t.mem.requests :=
    foldl_keeps (π := fun t : State => t.mem.requests) fun t r => requests_tellPoster t r.poster false
  intro q hq
  have hq := (List.mem_filter.mp hq).1
  rwa [htold, hteams] at hq

theorem noNewRequests_trapThreads (s : State) (ts : List (TRef × W64)) (t : Trap) : NoNewRequests s (s.trapThreads ts t) := by
  have hexits : ∀ (l : List (TRef × W64)) (u : State), (l.foldl (fun s p => s.exitThread p.1 .faulted) u).mem.requests = u.mem.requests :=
    foldl_keeps (π := fun u : State => u.mem.requests) fun u p => requests_exitThread u p.1 .faulted
  have hhandlers : ∀ (f : TRef × W64 → Thread → Thread) (l : List (TRef × W64)) (u : State), (l.foldl (fun s p => s.updThread p.1 (f p)) u).mem.requests = u.mem.requests :=
    fun f => foldl_keeps (π := fun u : State => u.mem.requests) fun u p => rfl
  unfold State.trapThreads
  split
  · exact List.Subset.refl _
  · split
    · exact noNewRequests_endContext _ _ _
    · split
      · exact List.Subset.refl _
      · dsimp only
        split
        · exact noNewRequests_of_eq (hhandlers _ _ _)
        · exact noNewRequests_of_eq (hexits _ _)

theorem requests_releaseCvg (s : State) (team n : Nat) : (s.releaseCvg team n).mem.requests = s.mem.requests := by
  unfold State.releaseCvg
  split <;> rfl

theorem noNewRequests_attemptSigned (s : State) (tm : Team) (n : Nat) (c : Cvg) : NoNewRequests s (s.attemptSigned tm n c) := by
  have hdown : ∀ (l : List (TRef × Vote)) (u : State),
      (l.foldl (fun s p => s.updThread p.1 fun h => h.slotDown p.2.handler p.2.set) u).mem.requests = u.mem.requests :=
    foldl_keeps (π := fun u : State => u.mem.requests) fun u p => rfl
  unfold State.attemptSigned
  dsimp only
  split
  · exact List.Subset.refl _
  · refine NoNewRequests.trans (noNewRequests_of_eq ?_) (noNewRequests_trapThreads _ _ _)
    exact hdown _ _

theorem noNewRequests_settleFor (s : State) (fuel : Nat) : NoNewRequests s (s.settleFor fuel) := by
  induction fuel generalizing s with
  | zero => exact List.Subset.refl _
  | succ fuel ih =>
    unfold State.settleFor
    split
    · exact List.Subset.refl _
    · split
      · exact (noNewRequests_of_eq (requests_releaseCvg _ _ _)).trans (ih _)
      · exact (noNewRequests_attemptSigned _ _ _ _).trans (ih _)

theorem noNewRequests_settle (s : State) : NoNewRequests s s.settle := noNewRequests_settleFor s _

/-! ### Threads park (R332) -/

theorem slotDown_frame (t : Thread) (handler : Bool) (n : Nat) :
    t.slotDown handler n = { t with sb := (t.slotDown handler n).sb, aside := (t.slotDown handler n).aside } := by
  unfold Thread.slotDown
  split
  · rfl
  · split
    · rfl
    · split <;> rfl

theorem slotDown_ref (t : Thread) (handler : Bool) (n : Nat) : (t.slotDown handler n).ref = t.ref := by rw [slotDown_frame]

theorem thread_updThreads (s : State) (ts : List TRef) {f : Thread → Thread} (hf : ∀ k, (f k).ref = k.ref) (t : TRef) :
    (s.updThreads ts f).thread t = (s.thread t).map fun k => if ts.contains t then f k else k := by
  have href : ∀ k : Thread, ((if ts.contains k.ref then f k else k).ref == t) = (k.ref == t) := fun k => by rw [apply_ite Thread.ref, hf, ite_self]
  rw [State.thread, State.updThreads_threads, mapIf, List.find?_map, show ((fun h : Thread => h.ref == t) ∘ fun k => if ts.contains k.ref then f k else k) =
    fun k : Thread => k.ref == t from funext href, State.thread]
  refine Option.map_congr fun k hk => ?_
  rw [beq_iff_eq.mp (List.find?_some hk :)]

/-- A thread that parks at an instruction that met a fault at `at'` of its reference (R332). -/
def parkedThread (pc : W64) (set : Nat) (handler : Bool) (at' : TRef → Nat × Nat) (cause : Nat) (h : Thread) : Thread :=
  { h.slotDown handler set with status := .parked, pc := pc, retry := some (cause, (at' h.ref).2 / 2 ^ 16, pc) }

/-- What parking leaves of a state: the threads park, in one sub-group, and no request changes. -/
structure ParksThreads (s u : State) (ts : List TRef) (park : Thread → Thread) (k : Parked) : Prop where
  threads  : ∀ t, u.thread t = (s.thread t).map fun h => if ts.contains t then park h else h
  parked   : u.mem.parked = s.mem.parked ++ [k]
  requests : u.mem.requests = s.mem.requests

/-- Threads of a live context that have not retried this fault park together, in one sub-group (R332, R333). -/
theorem parkThreads_fresh {s : State} {t : TRef} {ts : List TRef} {pc : W64} {set : Nat} {handler : Bool} {at' : TRef → Nat × Nat} {cause : Nat} {fetch : Bool}
    (hlive : ∀ q ∈ t :: ts, s.ctxDead q.ctx = false ∧ ∃ h, s.thread q = some h ∧ h.retry ≠ some (cause, (at' q).2 / 2 ^ 16, pc)) :
    ParksThreads s (s.parkThreads (t :: ts) pc set handler at' cause fetch) (t :: ts) (parkedThread pc set handler at' cause) ⟨t.ctx, (at' t).1, (at' t).2, cause, fetch, t :: ts⟩ := by
  have hdown : ∀ q, (s.updThreads (t :: ts) fun h => h.slotDown handler set).thread q = (s.thread q).map fun h => if (t :: ts).contains q then h.slotDown handler set else h :=
    thread_updThreads s (t :: ts) fun k => slotDown_ref k handler set
  have hall : ((t :: ts).filter fun q => (s.thread q).isSome && !(s.ctxDead q.ctx)) = t :: ts := List.filter_eq_self.mpr fun q hq => by
    obtain ⟨hdead, h, hh, -⟩ := hlive q hq
    simp [hdead, hh]
  have hagain : ((t :: ts).filter fun q => (((s.updThreads (t :: ts) fun h => h.slotDown handler set).thread q).map fun h =>
      h.retry == some (cause, (at' q).2 / 2 ^ 16, pc)).getD false) = [] := List.filter_eq_nil_iff.mpr fun q hq => by
    obtain ⟨-, h, hh, hretry⟩ := hlive q hq
    have hret : (h.slotDown handler set).retry = h.retry := by rw [slotDown_frame]
    simpa [hdown, hh, hq, hret] using hretry
  have hsome : ((t :: ts).filter fun q => ((s.updThreads (t :: ts) fun h => h.slotDown handler set).thread q).isSome) = t :: ts := List.filter_eq_self.mpr fun q hq => by
    obtain ⟨-, h, hh, -⟩ := hlive q hq
    simp [hdown, hh]
  have hnone : ∀ u : State, ∀ tr : Trap, u.trapThreads [] tr = u := fun u tr => rfl
  have hsame : ∀ (u : State) (f : Thread → Thread), u.updThreads [] f = u := fun u f => by simp [State.updThreads, mapIf]
  have hfresh : ((t :: ts).filter fun q => !(([] : List TRef).contains q)) = t :: ts := List.filter_eq_self.mpr fun q _ => rfl
  unfold State.parkThreads
  simp only [hall, hagain, hfresh, List.map_nil, hnone, hsame, hsome]
  refine ⟨fun q => (congrArg (fun u : State => u.thread q) (ceaseGroups_frame _) :).trans ?_, (congrArg (fun u : State => u.mem.parked) (ceaseGroups_frame _) :),
    requests_ceaseGroups _⟩
  have hpark := thread_updThreads (s.updThreads (t :: ts) fun h => h.slotDown handler set) (t :: ts)
    (f := fun h => { h with status := .parked, pc := pc, retry := some (cause, (at' h.ref).2 / 2 ^ 16, pc) }) (fun k => rfl) q
  refine hpark.trans ?_
  rw [hdown, Option.map_map]
  congr 1
  funext h
  by_cases hq : (t :: ts).contains q = true
  · simp only [Function.comp_apply, if_pos hq, parkedThread, slotDown_ref]
  · simp only [Function.comp_apply, if_neg hq]

/-! ### An instruction whose one request fails (R131, R332) -/

theorem eraseDups_of_nodup {α : Type} [BEq α] [LawfulBEq α] {l : List α} (h : l.Nodup) : l.eraseDups = l := by
  induction l with
  | nil => rfl
  | cons a l ih =>
    rw [List.nodup_cons] at h
    have hfilter : l.filter (fun b => !b == a) = l := List.filter_eq_self.mpr fun b hb => by
      have hne : b ≠ a := fun hba => h.1 (hba ▸ hb)
      simpa using hne
    rw [List.eraseDups_cons, hfilter, ih h.2]

theorem perm_insertBy {α : Type} (key : α → Nat) (x : α) (l : List α) : (insertBy key x l).Perm (x :: l) := by
  induction l with
  | nil => exact List.Perm.refl _
  | cons y ys ih =>
    unfold insertBy
    split
    · exact List.Perm.refl _
    · exact (ih.cons y).trans (List.Perm.swap x y ys)

theorem perm_sortBy {α : Type} (key : α → Nat) (l : List α) : (sortBy key l).Perm l := by
  have hfold : ∀ (l acc : List α), (l.foldl (fun acc x => insertBy key x acc) acc).Perm (acc ++ l) := by
    intro l
    induction l with
    | nil => exact fun acc => by rw [List.append_nil]; exact List.Perm.refl _
    | cons x l ih => exact fun acc => ((ih _).trans ((perm_insertBy key x acc).append_right l)).trans List.perm_middle.symm
  exact hfold l []

theorem filter_key_eq_singleton {α β : Type} [BEq β] [LawfulBEq β] {f : α → β} {l : List α} {p : α} (hp : p ∈ l) (hnodup : (l.map f).Nodup) :
    l.filter (fun q => f q == f p) = [p] := by
  induction l with
  | nil => exact absurd hp List.not_mem_nil
  | cons a l ih =>
    rw [List.map_cons, List.nodup_cons] at hnodup
    obtain ⟨hfirst, hrest⟩ := hnodup
    have hother : ∀ q ∈ l, f q ≠ f a := fun q hq h => hfirst (h ▸ List.mem_map_of_mem hq)
    rcases List.mem_cons.mp hp with rfl | hmem
    · rw [List.filter_cons, if_pos (beq_self_eq_true (f p)), List.filter_eq_nil_iff.mpr fun q hq => by simpa using hother q hq]
    · rw [List.filter_cons, if_neg (by simpa using (hother p hmem).symm), ih hmem hrest]

/-- The addresses at which a thread of a failed request's part failed are that part's. -/
theorem failAddr_single {r : Request} {p : LanePart} (hroute : ∀ home win off, r.route ≠ .packet home win off) (hp : p ∈ r.parts) (hnodup : (r.parts.map (·.t)).Nodup) :
    State.failAddr [r] p.t = some (r.va + p.off, r.ia + p.off) := by
  have hparts : r.parts.filter (fun q => q.t == p.t) = [p] := filter_key_eq_singleton hp hnodup
  simp only [State.failAddr, List.flatMap_cons, List.flatMap_nil, List.append_nil, hparts, List.map_cons, List.map_nil]
  rfl

/-- A request of an instruction without its parts for these threads. -/
def withoutThreads (op : Nat) (ts : List TRef) (q : Request) : Request :=
  if q.op = op then { q with parts := q.parts.filter fun p => !(ts.contains p.t) } else q

theorem withdraw_eq (s : State) (op : Nat) (ts : List TRef) : s.withdraw op ts = { s with mem := { s.mem with
    requests := (s.mem.requests.filter fun q => q.op != op || (withoutThreads op ts q).parts != [] || q.parts.isEmpty).map (withoutThreads op ts) } } := rfl

/-- The requests of an instruction whose one request has failed, with its threads withdrawn: those of other instructions. -/
theorem withdraw_single {s : State} {op : Nat} {r : Request} (honly : (s.mem.requests.filter fun q => q.op == op) = [r]) (hparts : r.parts ≠ []) :
    s.withdraw op ((r.parts.map (·.t)).eraseDups) = { s with mem := { s.mem with requests := s.mem.requests.filter fun q => q.op != op } } := by
  have hcut : r.op = op → (withoutThreads op (r.parts.map (·.t)).eraseDups r).parts = [] := fun hop => by
    rw [withoutThreads, if_pos hop]
    refine List.filter_eq_nil_iff.mpr fun p hp => ?_
    have hmem : p.t ∈ (r.parts.map (·.t)).eraseDups := List.mem_eraseDups.mpr (List.mem_map_of_mem hp)
    simpa using hmem
  have hkeep : (s.mem.requests.filter fun q => q.op != op || (withoutThreads op (r.parts.map (·.t)).eraseDups q).parts != [] || q.parts.isEmpty) =
      s.mem.requests.filter fun q => q.op != op := List.filter_congr fun q hq => by
    by_cases hop : q.op = op
    · have hmem : q ∈ s.mem.requests.filter fun q => q.op == op := List.mem_filter.mpr ⟨hq, beq_iff_eq.mpr hop⟩
      obtain rfl : q = r := by simpa [honly] using hmem
      simp [hop, hcut hop, hparts]
    · simp only [bne_iff_ne.mpr hop, Bool.true_or]
  have hsame : (s.mem.requests.filter fun q => q.op != op).map (withoutThreads op (r.parts.map (·.t)).eraseDups) = s.mem.requests.filter fun q => q.op != op :=
    (List.map_congr_left fun q hq => if_neg (by simpa using (List.mem_filter.mp hq).2)).trans (List.map_id' _)
  rw [withdraw_eq, hkeep, hsame]

/-- The state without the requests of an instruction. -/
def withoutOp (s : State) (op : Nat) : State := { s with mem := { s.mem with requests := s.mem.requests.filter fun q => q.op != op } }

/-- An instruction whose one access fails settles: its threads leave it, and nothing of it is left to travel. -/
theorem settleOp_single {s : State} {op c pg : Nat} {r : Request} (honly : (s.mem.requests.filter fun q => q.op == op) = [r]) (hstage : r.stage = .failed c pg)
    (himage : State.imageUse r.kind = none) (hparts : r.parts ≠ []) (hnodup : (r.parts.map (·.t)).Nodup)
    (hnew : ((withoutOp s op).failThreads r [r] c (r.parts.map (·.t))).mem.requests = (withoutOp s op).mem.requests) :
    s.settleOp op = ((withoutOp s op).failThreads r [r] c (r.parts.map (·.t))).settle := by
  have hcause : r.cause? = some c := by rw [Request.cause?, hstage]
  have hgroups : State.failGroups [r] = [(r, r.parts.map (·.t))] := by
    simp [State.failGroups, eraseDups_of_nodup hnodup, hparts]
  have hleft : ((s.mem.requests.filter fun q => q.op != op).filter fun q => !(q.op == op && q.cause?.isSome)) = s.mem.requests.filter fun q => q.op != op :=
    List.filter_eq_self.mpr fun q hq => by
      have hop : q.op ≠ op := by simpa using (List.mem_filter.mp hq).2
      simp [hop]
  have hnone : (((withoutOp s op).failThreads r [r] c (r.parts.map (·.t))).settle.mem.requests.filter fun q => q.op == op && q.stage == .checked) = [] := List.filter_eq_nil_iff.mpr fun q hq => by
    have hmem := noNewRequests_settle _ hq
    rw [hnew] at hmem
    have hop : q.op ≠ op := by simpa using (List.mem_filter.mp hmem).2
    simp [hop]
  unfold withoutOp at hnone ⊢
  unfold State.settleOp
  simp only [honly, List.any_cons, hstage, List.any_nil, Bool.or_false, Bool.false_eq_true, if_false, List.filter_cons, hcause, Option.isSome_some, if_true, List.filter_nil,
    List.head?_cons, Option.bind_some, himage, List.flatMap_cons, List.flatMap_nil, List.append_nil, withdraw_single honly hparts, hleft, hgroups, List.foldl_cons, List.foldl_nil,
    beq_self_eq_true, Option.getD_some, List.isEmpty_cons, hnone]

/-! ### The walking die's answer (R126, R127, R131) -/

/-- A walk that fails, fails with PAGE or with PERM. -/
theorem cause_of_walkVerdict {s : State} {w : Walk} {cause : Nat} {bad : Bool} (h : s.walkVerdict w = .error (cause, bad)) : cause = Cause.page ∨ cause = Cause.perm := by
  unfold State.walkVerdict at h
  split at h
  · cases h
    exact .inl rfl
  · split at h
    · cases h
    · cases h
      exact .inr rfl

/-- A request whose page check has failed. -/
def failedRequest (s : State) (w : Walk) (cause : Nat) (r : Request) : Request := { r with stage := .failed cause (s.faultPage w.ia cause) }

/-- A request that waits for a walk, behind its failure. -/
def walkFailed (s : State) (w : Walk) (cause : Nat) (r : Request) : Request := if r.stage = .walking w.id then failedRequest s w cause r else r

/-- A prefetch (R283). -/
def isPrefetch (r : Request) : Bool := r.kind == .sliceFill || (match r.kind with | .fill _ => true | _ => false)

/-- The requests behind a failing walk: prefetches that waited for it are dropped, and the others that did have failed. -/
def walkedRequests (s : State) (w : Walk) (cause : Nat) : List Request :=
  (s.mem.requests.filter fun r => !(r.stage == .walking w.id && isPrefetch r)).map (walkFailed s w cause)

/-- The state in which a failing walk has been answered, with its report of a malformed entry (R127). -/
def walkReported (s : State) (w : Walk) (bad : Bool) : State :=
  let s : State := { s with mem := { s.mem with walks := s.mem.walks.filter fun k => k.id != w.id } }
  if bad = true then s.emit (.report w.ctx w.ia) else s

/-- The state behind a failing walk of an access, before its instruction settles. -/
def walkAnswered (s : State) (w : Walk) (cause : Nat) (bad : Bool) : State :=
  { walkReported s w bad with mem := { (walkReported s w bad).mem with requests := walkedRequests (walkReported s w bad) w cause } }

section
variable {s : State} {w : Walk}

theorem execPageWalkAnswer_pass {e : PageEntry} {op : Nat} (hwalk : (s.mem.walks.find? fun v => v.id == w.id) = some w) (hverdict : s.walkVerdict w = .ok e)
    (hstale : w.stale = false) (hwho : w.who = .requests) (hop : s.walkOp w.id = some op) :
    let s1 := ({ s with mem := { s.mem with walks := s.mem.walks.filter fun k => k.id != w.id } } : State).fillPage w.core e
    execPageWalkAnswer w.id s = .next (({ s1 with mem := { s1.mem with requests := s1.mem.requests.map fun r => if r.stage == .walking w.id then
      { r with stage := .checked, frame := e.frame + (r.ia - e.page), perms := e.perms } else r } } : State).settleOp op) := by
  have hverdict' : ({ s with mem := { s.mem with walks := s.mem.walks.filter fun k => k.id != w.id } } : State).walkVerdict w = .ok e := hverdict
  simp only [execPageWalkAnswer, hwalk, hverdict', hstale, hwho, hop, Bool.false_eq_true, if_false, mapIf]

theorem execPageWalkAnswer_fetch {g : GRef} {pc : W64} {ts : List TRef} {cause : Nat} (hwalk : (s.mem.walks.find? fun v => v.id == w.id) = some w)
    (hverdict : s.walkVerdict w = .error (cause, false)) (hwho : w.who = .fetch g pc ts) :
    execPageWalkAnswer w.id s = .next (({ s with mem := { s.mem with walks := s.mem.walks.filter fun k => k.id != w.id } } : State).fetchFails w pc ts cause) := by
  have hverdict' : ({ s with mem := { s.mem with walks := s.mem.walks.filter fun k => k.id != w.id } } : State).walkVerdict w = .error (cause, false) := hverdict
  simp only [execPageWalkAnswer, hwalk, hverdict', hwho, Bool.false_eq_true, if_false]

theorem execPageWalkAnswer_fails {op cause : Nat} {bad : Bool} (hwalk : (s.mem.walks.find? fun v => v.id == w.id) = some w)
    (hverdict : s.walkVerdict w = .error (cause, bad)) (hwho : w.who = .requests) (hop : s.walkOp w.id = some op) :
    execPageWalkAnswer w.id s = .next ((walkAnswered s w cause bad).settleOp op) := by
  have hverdict' : ({ s with mem := { s.mem with walks := s.mem.walks.filter fun k => k.id != w.id } } : State).walkVerdict w = .error (cause, bad) := hverdict
  have hlist : walkedRequests (walkReported s w bad) w cause =
      mapIf (fun r => r.stage == .walking w.id) (fun r => { r with stage := .failed cause ((walkReported s w bad).faultPage w.ia cause) })
        ((walkReported s w bad).mem.requests.filter fun r => !(r.stage == .walking w.id && (match r.kind with | .fill _ | .sliceFill => true | _ => false))) := by
    rw [walkedRequests, mapIf]
    congr 1
    · funext r
      simp only [walkFailed, failedRequest, beq_iff_eq]
    · refine List.filter_congr fun r _ => ?_
      rw [isPrefetch]
      cases r.kind <;> rfl
  rw [walkAnswered, hlist]
  simp only [execPageWalkAnswer, hwalk, hverdict', hwho, hop]
  rfl
end


/-! ### The threads of a failing access park (R332) -/

/-- An access to a home, whose page check is outstanding, with a thread for each of its parts that has not retried this fault at its address. -/
structure FailsOnce (s : State) (r : Request) (cause : Nat) : Prop where
  route : r.route = .home
  kind  : r.kind = .store ∨ (∃ l, r.kind = .load l) ∨ ∃ aop rnd, r.kind = .atomic aop rnd
  parts : r.parts ≠ []
  nodup : (r.parts.map (·.t)).Nodup
  live  : ∀ p ∈ r.parts, s.ctxDead p.t.ctx = false ∧ ∃ h, s.thread p.t = some h ∧ h.retry ≠ some (cause, (r.ia + p.off) / 2 ^ 16, r.pc)

/-- A failing access of one request: its threads park in one sub-group, each with the address of its part, in lane order. -/
theorem failThreads_parks {s : State} {r : Request} {cause : Nat} (hcause : cause = Cause.page ∨ cause = Cause.perm) (h : FailsOnce s r cause) :
    ∃ k : Parked, ParksThreads s (s.failThreads r [r] cause (r.parts.map (·.t))) (s.byLane (r.parts.map (·.t)))
        (parkedThread r.pc r.set r.handler (fun t => (State.failAddr [r] t).getD (r.va, r.ia)) cause) k ∧
      k.threads = s.byLane (r.parts.map (·.t)) ∧ k.cause = cause ∧ k.fetch = false ∧
      ∃ p ∈ r.parts, k.threads.head? = some p.t ∧ k.ctx = p.t.ctx ∧ k.va = r.va + p.off ∧ k.ia = r.ia + p.off := by
  have hroute : ∀ home win off, r.route ≠ .packet home win off := fun _ _ _ hp => by rw [h.route] at hp; cases hp
  have hperm : (s.byLane (r.parts.map (·.t))).Perm (r.parts.map (·.t)) := perm_sortBy _ _
  have hof : ∀ q ∈ s.byLane (r.parts.map (·.t)), ∃ p ∈ r.parts, p.t = q := fun q hq => List.mem_map.mp (hperm.mem_iff.mp hq)
  have haddr : ∀ p ∈ r.parts, (State.failAddr [r] p.t).getD (r.va, r.ia) = (r.va + p.off, r.ia + p.off) := fun p hp => by
    rw [failAddr_single hroute hp h.nodup, Option.getD_some]
  have hfails : s.failThreads r [r] cause (r.parts.map (·.t)) =
      s.parkThreads (s.byLane (r.parts.map (·.t))) r.pc r.set r.handler (fun t => (State.failAddr [r] t).getD (r.va, r.ia)) cause false := by
    simp only [State.failThreads, if_pos hcause]
  rw [hfails]
  cases hts : s.byLane (r.parts.map (·.t)) with
  | nil => exact absurd (List.map_eq_nil_iff.mp (List.nil_perm.mp (hts ▸ hperm))) h.parts
  | cons t ts =>
    rw [hts] at hof
    refine ⟨_, parkThreads_fresh fun q hq => ?_, rfl, rfl, rfl, ?_⟩
    · obtain ⟨p, hp, rfl⟩ := hof q hq
      rw [haddr p hp]
      exact h.live p hp
    · obtain ⟨p, hp, rfl⟩ := hof t List.mem_cons_self
      exact ⟨p, hp, rfl, rfl, by rw [haddr p hp], by rw [haddr p hp]⟩

/-- The requests of an instruction whose one request waits for a walk that fails. -/
theorem walkedRequests_single {s : State} {w : Walk} {cause op : Nat} {r : Request} (honly : (s.mem.requests.filter fun q => q.op == op) = [r])
    (hstage : r.stage = .walking w.id) (hkind : isPrefetch r = false) :
    ((walkedRequests s w cause).filter fun q => q.op == op) = [failedRequest s w cause r] := by
  have hop : ∀ q, (walkFailed s w cause q).op = q.op := fun q => by
    unfold walkFailed
    split <;> rfl
  rw [walkedRequests, List.filter_map, show ((fun q : Request => q.op == op) ∘ walkFailed s w cause) = fun q => q.op == op from
    funext fun q => congrArg (· == op) (hop q), List.filter_filter]
  have hswap : (s.mem.requests.filter fun q => (q.op == op) && !(q.stage == .walking w.id && isPrefetch q)) = [r] := by
    rw [← List.filter_filter, ← List.filter_comm, honly]
    simp [hkind]
  rw [hswap, List.map_cons, List.map_nil, walkFailed, if_pos hstage]

/-- What an answered walk has changed: its list, and what the outside world has seen. -/
theorem walkReported_frame (s : State) (w : Walk) (bad : Bool) :
    { walkReported s w bad with mem := { (walkReported s w bad).mem with walks := s.mem.walks }, pkg := s.pkg } = s := by
  cases bad <;> rfl

/-- What the settling of an instruction of one request leaves, whose walk has failed: its threads are parked, and the state settles (R332). -/
theorem walkFails_parks {s : State} {w : Walk} {cause op : Nat} {bad : Bool} {r : Request} (hwalk : (s.mem.walks.find? fun v => v.id == w.id) = some w)
    (hverdict : s.walkVerdict w = .error (cause, bad)) (hwho : w.who = .requests) (hop : s.walkOp w.id = some op)
    (honly : (s.mem.requests.filter fun q => q.op == op) = [r]) (hstage : r.stage = .walking w.id) (hfails : FailsOnce s r cause) :
    ∃ (u : State) (k : Parked), execPageWalkAnswer w.id s = .next u.settle ∧ (∀ q ∈ u.mem.requests, q.op ≠ op) ∧
      (∀ p ∈ r.parts, ∀ h, s.thread p.t = some h → u.thread p.t =
        some { h.slotDown r.handler r.set with status := .parked, pc := r.pc, retry := some (cause, (r.ia + p.off) / 2 ^ 16, r.pc) }) ∧
      (∀ q, q ∉ r.parts.map (·.t) → u.thread q = s.thread q) ∧
      u.mem.parked = s.mem.parked ++ [k] ∧ k.threads.Perm (r.parts.map (·.t)) ∧ k.cause = cause ∧ k.fetch = false ∧
      ∃ p ∈ r.parts, k.threads.head? = some p.t ∧ k.ctx = p.t.ctx ∧ k.va = r.va + p.off ∧ k.ia = r.ia + p.off := by
  have hframe := walkReported_frame s w bad
  have hkind : isPrefetch r = false := by
    rcases hfails.kind with hk | ⟨l, hk⟩ | ⟨aop, rnd, hk⟩ <;> simp [isPrefetch, hk]
  have himage : State.imageUse r.kind = none := by
    rcases hfails.kind with hk | ⟨l, hk⟩ | ⟨aop, rnd, hk⟩ <;> simp [State.imageUse, hk]
  have hthread : ∀ q, (withoutOp (walkAnswered s w cause bad) op).thread q = s.thread q := fun q => (congrArg (fun u : State => u.thread q) hframe :)
  have hdead : ∀ c, (withoutOp (walkAnswered s w cause bad) op).ctxDead c = s.ctxDead c := fun c => (congrArg (fun u : State => u.ctxDead c) hframe :)
  have honly' : ((walkAnswered s w cause bad).mem.requests.filter fun q => q.op == op) = [failedRequest (walkReported s w bad) w cause r] :=
    walkedRequests_single ((congrArg (fun u : State => u.mem.requests.filter fun q => q.op == op) hframe :).trans honly) hstage hkind
  have hlive : FailsOnce (withoutOp (walkAnswered s w cause bad) op) (failedRequest (walkReported s w bad) w cause r) cause := ⟨hfails.route, hfails.kind, hfails.parts, hfails.nodup, fun p hp => by
    rw [hthread, hdead]
    exact hfails.live p hp⟩
  obtain ⟨k, hparks, hthreads, hcause, hfetch, hhead⟩ := failThreads_parks (cause_of_walkVerdict hverdict) hlive
  have hperm : ((withoutOp (walkAnswered s w cause bad) op).byLane (r.parts.map (·.t))).Perm (r.parts.map (·.t)) := perm_sortBy _ _
  refine ⟨_, k, (execPageWalkAnswer_fails hwalk hverdict hwho hop).trans
    (congrArg Host.Outcome.next (settleOp_single honly' rfl himage hfails.parts hfails.nodup hparks.requests)), ?_, ?_, ?_, ?_, hthreads ▸ hperm, hcause, hfetch, hhead⟩
  · intro q hq
    rw [hparks.requests] at hq
    simpa using (List.mem_filter.mp hq).2
  · intro p hp h hh
    have hin : ((withoutOp (walkAnswered s w cause bad) op).byLane (r.parts.map (·.t))).contains p.t = true := List.contains_iff_mem.mpr (hperm.mem_iff.mpr (List.mem_map_of_mem hp))
    have href : h.ref = p.t := beq_iff_eq.mp (List.find?_some hh :)
    have hroute : ∀ home win off, (failedRequest (walkReported s w bad) w cause r).route ≠ .packet home win off :=
      fun _ _ _ hp => by rw [hlive.route] at hp; cases hp
    rw [hparks.threads, hthread, hh, Option.map_some]
    refine congrArg some ((if_pos hin).trans ?_)
    rw [parkedThread, href, failAddr_single hroute hp hlive.nodup]
    rfl
  · intro q hq
    have hout : ¬ ((withoutOp (walkAnswered s w cause bad) op).byLane (r.parts.map (·.t))).contains q = true := fun hin => hq (hperm.mem_iff.mp (List.contains_iff_mem.mp hin))
    rw [hparks.threads, hthread]
    cases s.thread q with
    | none => rfl
    | some h => exact congrArg some (if_neg hout)
  · exact hparks.parked.trans (congrArg (fun u : State => u.mem.parked ++ [k]) hframe :)

/-- Settles O37: a passing walk and a failing fetch are one branch each of the walking die's answer; the threads of a failing access park by `failThreads_parks`, and what settles
afterwards sends no request (`noNewRequests_settle`), so that nothing of the instruction travels. -/
theorem walksAndFences : Obligations.WalksAndFences := by
  unfold Obligations.WalksAndFences
  refine fun s => ⟨fun w e op hwalk hverdict hstale hwho hop => ?passes, fun w g pc ts cause hwalk hverdict hwho => ?fetches,
    fun w cause bad op hwalk hverdict hwho hop => ⟨?fails, fun r honly hstage hroute hkind hparts hnodup hlive => ?parks⟩, ?fences⟩
  case passes => exact execPageWalkAnswer_pass hwalk hverdict hstale hwho hop
  case fetches => exact execPageWalkAnswer_fetch hwalk hverdict hwho
  case fails =>
    refine (execPageWalkAnswer_fails hwalk hverdict hwho hop).trans ?_
    have hlist : walkedRequests (walkReported s w bad) w cause = ((s.mem.requests.filter fun r => !(r.stage == .walking w.id && isPrefetch r)).map fun r =>
        if r.stage = .walking w.id then { r with stage := .failed cause ((walkReported s w bad).faultPage w.ia cause) } else r) := by
      cases bad <;> rfl
    rw [walkAnswered, hlist]
    rfl
  case parks => exact walkFails_parks hwalk hverdict hwho hop honly hstage ⟨hroute, hkind, hparts, hnodup, hlive⟩
  case fences =>
    intro t h scope tm hthread hfence hteam hdone
    change execFenceComplete t s = _
    simp only [execFenceComplete, hthread, hfence, hteam, hdone, if_true]
end Sys2Proof.Proofs.Execution
end

section
/-! PROOFS. What a store leaves as it was (O60). -/

namespace Sys2Proof.Proofs.Execution

open Sys2Proof Sys2Proof.Machine Sys2Proof.Claims

/-! ### The bytes of a write at its home (R127, R155) -/

theorem keepSlice_bytes (s : State) (l : SliceLine) : (s.keepSlice l).mem.mem = s.mem.mem := by
  unfold State.keepSlice
  dsimp only
  split <;> rfl

section
variable (s : State) (pa ia : Nat) (bs : List Byte) (tag : Option (BitVec 4 × Nat))

/-- Memory with the bytes of a write at the address where it is performed now. -/
def bytesWritten : Memory := s.mem.mem.writeBytes (s.redirect pa ia) bs

/-- A write at its home writes its bytes, and marks the entry that `markedEntry` names. -/
theorem performWrite_bytes : (s.performWrite pa ia bs tag).1.mem.mem =
    (markedEntry s pa ia bs).elim (bytesWritten s pa ia bs) fun a => (bytesWritten s pa ia bs).write a ((bytesWritten s pa ia bs).read a ||| 3) := by
  have hmark : ∀ b : Byte, b ||| 1 ||| 2 = b ||| 3 := fun b => by rw [BitVec.or_assoc]; rfl
  unfold State.performWrite State.touchSlice
  dsimp only
  refine (keepSlice_bytes _ _).trans ?_
  split
  case h_1 e entry hwalk =>
    have hwalk : (s.writeMem (s.redirect pa ia) bs).walk ia = .mapped e entry := hwalk
    cases entry with
    | none =>
      simp only [markedEntry, hwalk]
      split <;> rfl
    | some a =>
      simp only [markedEntry, hwalk]
      split
      · exact congrArg ((bytesWritten s pa ia bs).write a) (hmark _)
      · rfl
  case h_2 b hwalk =>
    have hwalk : (s.writeMem (s.redirect pa ia) bs).walk ia = .page b := hwalk
    simp only [markedEntry, hwalk]
    rfl

variable {s}

/-- A byte reads as written, or as before. -/
theorem read_bytesWritten (hwf : s.mem.mem.wf = true) (a : Nat) : (bytesWritten s pa ia bs).read a =
    if s.redirect pa ia ≤ a ∧ a < s.redirect pa ia + bs.length then bs.getD (a - s.redirect pa ia) 0 else s.mem.mem.read a := by
  rw [bytesWritten]
  by_cases hin : s.redirect pa ia ≤ a ∧ a < s.redirect pa ia + bs.length
  · have hlt : a - s.redirect pa ia < bs.length := by omega
    rw [Memory.read_writeBytes hwf, if_pos hin.1, if_pos hin, List.getD_eq_getElem _ _ hlt, List.getD_eq_getElem _ _ hlt]
  · rw [if_neg hin, Memory.read_writeBytes_outside hwf bs (by omega)]

/-- The entry that a write marks gains A and D; every other byte reads as the write left it. -/
theorem read_performWrite (hwf : s.mem.mem.wf = true) (a : Nat) : (s.performWrite pa ia bs tag).1.mem.mem.read a =
    if markedEntry s pa ia bs = some a then (bytesWritten s pa ia bs).read a ||| 3 else (bytesWritten s pa ia bs).read a := by
  have hwritten : (bytesWritten s pa ia bs).wf = true := Memory.writeBytes_wf hwf _ bs
  rw [performWrite_bytes]
  cases hmarked : markedEntry s pa ia bs with
  | none => rfl
  | some b =>
    by_cases hab : a = b
    · rw [Option.elim_some, hab, Memory.read_write_same hwritten, if_pos rfl]
    · rw [Option.elim_some, Memory.read_write_other hwritten _ hab, if_neg fun h => hab (Option.some.inj h).symm]

end

/-! ### What an access leaves as it was when it issues -/

/-- Nothing but requests, results and walks in flight, cores, and the clock has changed. -/
def OnlyAccess (s t : State) : Prop :=
  { t with mem := { t.mem with requests := s.mem.requests, results := s.mem.results, walks := s.mem.walks }, clk := s.clk, cores := s.cores } = s

theorem OnlyAccess.refl (s : State) : OnlyAccess s s := rfl

theorem OnlyAccess.trans {s t u : State} (h₁ : OnlyAccess s t) (h₂ : OnlyAccess t u) : OnlyAccess s u :=
  (congrArg (fun w : State =>
    { w with mem := { w.mem with requests := s.mem.requests, results := s.mem.results, walks := s.mem.walks }, clk := s.clk, cores := s.cores }) h₂ :).trans h₁

theorem onlyAccess_of_inFlight {s t : State} (h : OnlyInFlight s t) : OnlyAccess s t :=
  (congrArg (fun w : State => { w with mem := { w.mem with walks := s.mem.walks }, cores := s.cores }) h :)

theorem onlyAccess_updCore (s : State) (c : CoreId) (f : Core → Core) : OnlyAccess s (s.updCore c f) :=
  (congrArg (fun w : State => { w with mem := { w.mem with requests := s.mem.requests, results := s.mem.results, walks := s.mem.walks }, clk := s.clk })
    (updCore_frame s c f) :)

theorem onlyAccess_foldl {α : Type} {f : State → α → State} (hf : ∀ s a, OnlyAccess s (f s a)) (l : List α) (s : State) : OnlyAccess s (l.foldl f s) :=
  List.foldlRecOn l f (OnlyAccess.refl s) fun t ht a _ => ht.trans (hf t a)

/-- As onlyAccess_foldl, for a step that changes no more where an invariant holds, and keeps it. -/
theorem onlyAccess_foldl_of {α : Type} {f : State → α → State} {I : State → Prop} (hf : ∀ s a, I s → OnlyAccess s (f s a) ∧ I (f s a)) (l : List α) {s : State}
    (hs : I s) : OnlyAccess s (l.foldl f s) ∧ I (l.foldl f s) :=
  List.foldlRecOn (motive := fun t => OnlyAccess s t ∧ I t) l f ⟨OnlyAccess.refl s, hs⟩ fun t ht a _ => ⟨ht.1.trans (hf t a ht.2).1, (hf t a ht.2).2⟩

theorem onlyAccess_addAccess (s : State) (op lat set : Nat) (handler : Bool) (counted : List TRef) (lanes : List ResultLane) :
    OnlyAccess s (s.addAccess op lat set handler counted lanes) := rfl

/-! ### Sending requests (R131) -/

theorem onlyAccess_numberAll (rs : List Request) (s : State) : OnlyAccess s (s.numberAll rs).2 := by
  induction rs generalizing s with
  | nil => exact OnlyAccess.refl s
  | cons r rs ih => exact OnlyAccess.trans (t := s.fresh.2) rfl (ih _)

theorem onlyAccess_usePageFor (s : State) (r : Request) : OnlyAccess s (s.usePageFor r) := by
  unfold State.usePageFor
  split
  · exact onlyAccess_updCore _ _ _
  · exact OnlyAccess.refl s

theorem onlyAccess_beginWalk (s : State) (r : Request) : OnlyAccess s (s.beginWalk r) := by
  unfold State.beginWalk
  dsimp only
  split <;> rfl

theorem onlyAccess_sendAll (s : State) (rs : List Request) : OnlyAccess s (s.sendAll rs) := by
  have huse : ∀ (l : List Request) (t : State), OnlyAccess t (l.foldl (fun s r => s.usePageFor r) t) := onlyAccess_foldl onlyAccess_usePageFor
  unfold State.sendAll
  dsimp only
  refine (onlyAccess_numberAll rs s).trans ((huse (s.numberAll rs).1 _).trans ?_)
  split
  · refine onlyAccess_foldl (fun t r => ?_) _ _
    split
    · exact onlyAccess_of_inFlight (onlyInFlight_travel _ _)
    · exact OnlyAccess.refl t
  · refine onlyAccess_foldl (fun t r => ?_) _ _
    split
    · rfl
    · exact onlyAccess_beginWalk _ _

/-- Where there are no requests to send, none is sent. -/
theorem onlyAccess_sendSome (s : State) (rs : List Request) : OnlyAccess s (if rs.isEmpty then s else s.sendAll rs) := by
  split
  · exact OnlyAccess.refl s
  · exact onlyAccess_sendAll s rs

/-! ### Lines of a clean core (R148) -/

section
variable {s : State} {c : CoreId}

theorem mem_of_l1Line {ctx ia : Nat} {l : L1Line} (h : s.l1Line c ctx ia = some l) : l ∈ (s.core c).l1 := List.mem_of_find?_eq_some h

theorem core_dropL1 (s : State) (c : CoreId) (ctx ia : Nat) :
    (s.dropL1 c ctx ia).core c = { s.core c with l1 := (s.core c).l1.filter fun l => !(l.ctx == ctx && l.line == lineOf ia) } :=
  core_updCore_same s c fun _ => rfl

theorem onlyAccess_dropL1 (s : State) (c : CoreId) (ctx ia : Nat) : OnlyAccess s (s.dropL1 c ctx ia) := onlyAccess_updCore ..

theorem clean_dropL1 (hclean : Clean (s.core c)) (ctx ia : Nat) : Clean ((s.dropL1 c ctx ia).core c) := by
  rw [core_dropL1]
  exact ⟨hclean.1, fun l hl => hclean.2 l (List.mem_filter.mp hl).1⟩

/-- What leaves a clean core writes nothing back. -/
theorem expelPrivate_clean (hclean : Clean (s.core c)) (ctx ia : Nat) : s.expelPrivate c ctx ia = s ∨ s.expelPrivate c ctx ia = s.dropL1 c ctx ia := by
  cases hl : s.l1Line c ctx ia with
  | none => exact .inl (by simp only [State.expelPrivate, hl])
  | some l =>
    have hdirty : l.dirty = false := (hclean.2 l (mem_of_l1Line hl)).1
    by_cases hprivate : l.isPrivate = true
    · exact .inr (by simp [State.expelPrivate, State.expelL1, State.writeBackLine, hl, hprivate, hdirty])
    · exact .inl (by simp [State.expelPrivate, hl, hprivate])

theorem expelPrivate_quiet (hclean : Clean (s.core c)) (ctx ia : Nat) : OnlyAccess s (s.expelPrivate c ctx ia) ∧ Clean ((s.expelPrivate c ctx ia).core c) := by
  rcases expelPrivate_clean hclean ctx ia with h | h
  · rw [h]
    exact ⟨OnlyAccess.refl s, hclean⟩
  · rw [h]
    exact ⟨onlyAccess_dropL1 .., clean_dropL1 hclean ctx ia⟩

theorem core_updL1_changes (s : State) (c : CoreId) (ctx ia : Nat) (f : L1Line → L1Line) : ((s.updL1 c ctx ia f).core c).changes = (s.core c).changes := by
  rw [State.updL1, core_updCore_same s c fun k => by split <;> rfl]
  split <;> rfl

/-- In a core whose banks stay in CACHE mode a private write is made in its line alone (R137, R148). -/
theorem writePrivate_quiet (hchanges : (s.core c).changes = []) (ctx ia : Nat) (bs : List Byte) :
    OnlyAccess s (writePrivate s c ctx ia bs) ∧ ((writePrivate s c ctx ia bs).core c).changes = [] := by
  unfold writePrivate
  split
  · exact ⟨OnlyAccess.refl s, hchanges⟩
  · simp only [hchanges, List.any_nil, Bool.false_eq_true, if_false]
    exact ⟨onlyAccess_updCore .., (core_updL1_changes ..).trans hchanges⟩

theorem cleanCovered_quiet (hchanges : (s.core c).changes = []) (ctx : Nat) (as : List LaneAccess) :
    OnlyAccess s (cleanCovered s c ctx as) ∧ ((cleanCovered s c ctx as).core c).changes = [] := by
  unfold cleanCovered
  refine onlyAccess_foldl_of (I := fun t => (t.core c).changes = []) (fun t ln ht => ?_) _ hchanges
  split
  · exact ⟨onlyAccess_updCore .., (core_updL1_changes ..).trans ht⟩
  · exact ⟨OnlyAccess.refl t, ht⟩

end

theorem onlyAccess_touchL1 (s : State) (c : CoreId) (ctx ia : Nat) : OnlyAccess s (touchL1 s c ctx ia) := onlyAccess_updCore ..
theorem onlyAccess_usePage (s : State) (c : CoreId) (ia : Nat) : OnlyAccess s (s.usePage c ia) := onlyAccess_updCore ..
theorem onlyAccess_countMiss (s : State) (c : CoreId) (ctx line : Nat) : OnlyAccess s (countMiss s c ctx line) := onlyAccess_updCore ..

/-! ### Accesses to a clean core (R155, R159, R160, R148) -/

section
variable {s : State} {tm : Team} {p : Thread} {x : Fields} {op : Nat}

theorem onlyAccess_storeGlobal (hclean : Clean (s.core p.ref.core)) (as : List LaneAccess) : OnlyAccess s (storeGlobal s tm p x op as) := by
  have hexpel := fun ls => onlyAccess_foldl_of (f := fun s ln => s.expelPrivate p.ref.core tm.ctx ln) (I := fun t => Clean (t.core p.ref.core))
    (fun t ln ht => expelPrivate_quiet ht tm.ctx ln) ls hclean
  unfold storeGlobal
  exact (hexpel _).1.trans (onlyAccess_sendSome _ _)

theorem globalHit_clean {c : CoreId} {ctx ia : Nat} {l : L1Line} (hclean : Clean (s.core c)) (h : globalHit s c ctx ia = some l) : l.poison = false := by
  unfold globalHit at h
  split at h
  next k hk =>
    split at h
    · cases h
      exact (hclean.2 _ (mem_of_l1Line hk)).2
    · cases h
  next => cases h

/-- The lines that a global load needs elsewhere leave a clean core, which stays clean. -/
theorem linesLeave_quiet {c : CoreId} (hclean : Clean (s.core c)) (uncached : Nat → Bool) (ls : List Nat) :
    let t := ls.foldl (fun s ln => if uncached ln then (s.expelPrivate c tm.ctx ln).dropL1 c tm.ctx ln else s.expelPrivate c tm.ctx ln) s
    OnlyAccess s t ∧ Clean (t.core c) :=
  onlyAccess_foldl_of (I := fun t => Clean (t.core c)) (fun t ln ht => by
    obtain ⟨honly, hkept⟩ := expelPrivate_quiet ht tm.ctx ln
    split
    · exact ⟨honly.trans (onlyAccess_dropL1 ..), clean_dropL1 hkept _ _⟩
    · exact ⟨honly, hkept⟩) ls hclean

theorem onlyAccess_loadGlobal (hclean : Clean (s.core p.ref.core)) (as : List (LaneAccess × Nat)) : OnlyAccess s (loadGlobal s tm p x op as) := by
  obtain ⟨hleave, hclean'⟩ := linesLeave_quiet (tm := tm) hclean (fun ln => as.any fun a => lineOf a.1.ia == ln && a.2 == 0) (linesOf (as.map (·.1)))
  unfold loadGlobal
  refine hleave.trans ?_
  dsimp only at hclean' ⊢
  generalize List.foldl _ s _ = s1 at hclean' ⊢
  have hhits : ((as.filterMap fun a => (globalHit s1 p.ref.core tm.ctx a.1.ia).map fun l => (a.1, l)).any fun q => q.2.poison) = false := by
    refine List.any_eq_false.mpr fun q hq => ?_
    obtain ⟨a, -, ha⟩ := List.mem_filterMap.mp hq
    obtain ⟨l, hl, rfl⟩ := Option.map_eq_some_iff.mp ha
    rw [globalHit_clean hclean' hl]
    exact Bool.false_ne_true
  rw [if_neg (Bool.eq_false_iff.mp hhits)]
  refine OnlyAccess.trans ?_ (onlyAccess_sendSome _ _)
  have htouch : ∀ (ls : List Nat) (t : State), OnlyAccess t (ls.foldl (fun s ln => (touchL1 s p.ref.core tm.ctx ln).usePage p.ref.core ln) t) :=
    onlyAccess_foldl fun t ln => (onlyAccess_touchL1 ..).trans (onlyAccess_usePage ..)
  have hmiss : ∀ (ls : List Nat) (t : State), OnlyAccess t (ls.foldl (fun s ln => countMiss s p.ref.core tm.ctx ln) t) := onlyAccess_foldl fun t ln => onlyAccess_countMiss ..
  split
  · exact (htouch _ _).trans (hmiss _ _)
  · exact ((htouch _ _).trans (hmiss _ _)).trans (onlyAccess_addAccess ..)

/-- The global copies of the lines of a private access leave a clean core, which stays clean. -/
theorem copiesLeave_quiet {c : CoreId} (hclean : Clean (s.core c)) (ls : List Nat) :
    let t := ls.foldl (fun s ln => match s.l1Line c tm.ctx ln with
      | some l => if l.isPrivate then s else s.dropL1 c tm.ctx ln
      | none => s) s
    OnlyAccess s t ∧ Clean (t.core c) :=
  onlyAccess_foldl_of (I := fun t => Clean (t.core c)) (fun t ln ht => by
    split
    · split
      · exact ⟨OnlyAccess.refl t, ht⟩
      · exact ⟨onlyAccess_dropL1 .., clean_dropL1 ht _ _⟩
    · exact ⟨OnlyAccess.refl t, ht⟩) ls hclean

theorem onlyAccess_accessPrivate (hclean : Clean (s.core p.ref.core)) (store : Bool) (as : List LaneAccess) : OnlyAccess s (accessPrivate s tm p x op store as) := by
  obtain ⟨hleave, hclean'⟩ := copiesLeave_quiet (tm := tm) hclean (linesOf as)
  unfold accessPrivate
  refine hleave.trans ?_
  dsimp only at hclean' ⊢
  generalize List.foldl _ s _ = s1 at hclean' ⊢
  generalize as.filter _ = now
  generalize as.filter _ = later
  have hspoilt : (now.find? fun a => !store && ((s1.l1Line p.ref.core tm.ctx a.ia).map (·.poison)).getD false) = none := by
    refine List.find?_eq_none.mpr fun a _ => ?_
    cases hl : s1.l1Line p.ref.core tm.ctx a.ia with
    | none => simp
    | some l => simp [(hclean'.2 l (mem_of_l1Line hl)).2]
  rw [hspoilt, if_neg (by simp)]
  have hstored := onlyAccess_foldl_of (f := fun s (a : LaneAccess) => writePrivate s p.ref.core tm.ctx a.ia a.data) (I := fun t => (t.core p.ref.core).changes = [])
    (fun t a ht => writePrivate_quiet ht tm.ctx a.ia a.data) now (cleanCovered_quiet hclean'.1 tm.ctx now).2
  have htouch : ∀ (ls : List Nat) (t : State), OnlyAccess t (ls.foldl (fun s ln => touchL1 s p.ref.core tm.ctx ln) t) :=
    onlyAccess_foldl fun t ln => onlyAccess_touchL1 ..
  have hpage : ∀ (ls : List Nat) (t : State), OnlyAccess t (ls.foldl (fun s ln => s.usePage p.ref.core ln) t) := onlyAccess_foldl fun t ln => onlyAccess_usePage ..
  have hmade : OnlyAccess s1 (if store then now.foldl (fun s a => writePrivate s p.ref.core tm.ctx a.ia a.data) (cleanCovered s1 p.ref.core tm.ctx now)
      else (linesOf now).foldl (fun s ln => touchL1 s p.ref.core tm.ctx ln) s1) := by
    split
    · exact (cleanCovered_quiet hclean'.1 tm.ctx now).1.trans hstored.1
    · exact htouch _ _
  refine OnlyAccess.trans ?_ (onlyAccess_sendSome _ _)
  split
  · exact hmade.trans (hpage _ _)
  · exact (hmade.trans (hpage _ _)).trans (onlyAccess_addAccess ..)
end

/-! ### The bytes of a plot (R139, R167) -/

theorem assocGet_assocSet_ne {κ α : Type} [DecidableEq κ] {d v : α} {j k : κ} (hne : j ≠ k) (l : List (κ × α)) : assocGet d j (assocSet k v l) = assocGet d j l := by
  induction l with
  | nil => simp [assocSet, assocGet, hne.symm]
  | cons q l ih =>
    obtain ⟨k', v'⟩ := q
    by_cases hk : k' = k
    · subst hk
      simp [assocSet, assocGet, hne.symm]
    · simp only [assocSet, if_neg hk, assocGet, ih]

/-- A write to a plot leaves the bytes outside its range. -/
theorem assocGet_plotWrite {p : Plot} {o : Nat} {bs : List Byte} {j : Nat} (hout : ¬ (o ≤ j ∧ j < o + bs.length)) : assocGet 0 j (p.write o bs).bytes = assocGet 0 j p.bytes := by
  refine List.foldlRecOn (motive := fun t => assocGet 0 j t = assocGet 0 j p.bytes) _ _ rfl fun t ht k hk => ?_
  have hlt : k < bs.length := List.mem_range.mp hk
  exact (assocGet_assocSet_ne (by omega) t).trans ht

/-- The plots are as before but for bytes, and of those only the touched ones, given by plot and offset, may differ. -/
def PlotsKept (s t : State) (touched : Nat → Nat → Prop) : Prop :=
  t.plots.length = s.plots.length ∧ ∀ (k : Nat) (q : Plot), s.plots[k]? = some q → ∃ q' : Plot, t.plots[k]? = some q' ∧ { q' with bytes := q.bytes } = q ∧
    ∀ o, ¬ touched q.id o → assocGet 0 o q'.bytes = assocGet 0 o q.bytes

theorem plotsKept_of_eq {s t : State} (h : t.plots = s.plots) (touched : Nat → Nat → Prop) : PlotsKept s t touched :=
  ⟨by rw [h], fun _ q hq => ⟨q, by rw [h, hq], rfl, fun _ _ => rfl⟩⟩

theorem PlotsKept.trans {s t u : State} {touched : Nat → Nat → Prop} (h₁ : PlotsKept s t touched) (h₂ : PlotsKept t u touched) : PlotsKept s u touched := by
  refine ⟨h₂.1.trans h₁.1, fun k q hq => ?_⟩
  obtain ⟨q₁, hq₁, hframe₁, hbytes₁⟩ := h₁.2 k q hq
  obtain ⟨q₂, hq₂, hframe₂, hbytes₂⟩ := h₂.2 k q₁ hq₁
  have hid : q₁.id = q.id := (congrArg Plot.id hframe₁ :)
  refine ⟨q₂, hq₂, (congrArg (fun v : Plot => { v with bytes := q.bytes }) hframe₂ :).trans hframe₁, fun o ho => ?_⟩
  exact (hbytes₂ o (hid ▸ ho)).trans (hbytes₁ o ho)

section
variable (s : State) (team : Nat) (c : CoreId)

theorem plotOf_writePlotBytes (p : Plot) (o : Nat) (bs : List Byte) : ((s.writePlotBytes p o bs).plotOf team c).map (·.id) = (s.plotOf team c).map (·.id) := by
  have hsame : ∀ k : Plot, ((if k.id == p.id then k.write o bs else k).core == c && (if k.id == p.id then k.write o bs else k).holder == .heldBy team) =
      (k.core == c && k.holder == .heldBy team) := fun k => by split <;> rfl
  have hid : ∀ k : Plot, (if k.id == p.id then k.write o bs else k).id = k.id := fun k => by split <;> rfl
  show ((mapIf _ _ s.plots).find? _).map _ = _
  rw [mapIf, List.find?_map, Option.map_map, show ((fun k : Plot => k.core == c && k.holder == .heldBy team) ∘ fun k => if k.id == p.id then k.write o bs else k) =
    fun k : Plot => k.core == c && k.holder == .heldBy team from funext hsame]
  exact Option.map_congr fun k _ => hid k

theorem plotOf_writePlot (o : Nat) (bs : List Byte) : ((writePlot s team c o bs).plotOf team c).map (·.id) = (s.plotOf team c).map (·.id) := by
  unfold writePlot
  split
  · exact plotOf_writePlotBytes s team c _ o bs
  · rfl

/-- A write to the plot that a team holds touches its range of that plot. -/
theorem plotsKept_writePlot (o : Nat) (bs : List Byte) {touched : Nat → Nat → Prop}
    (htouched : ∀ n j, (s.plotOf team c).map (·.id) = some n → o ≤ j ∧ j < o + bs.length → touched n j) : PlotsKept s (writePlot s team c o bs) touched := by
  unfold writePlot
  split
  next p hp =>
    refine ⟨by simp [State.writePlotBytes], fun k q hq => ⟨if q.id == p.id then q.write o bs else q, ?_, ?_, fun j hj => ?_⟩⟩
    · simp only [State.writePlotBytes, getElem?_mapIf, hq, Option.map_some]
    · split <;> rfl
    · split
      next hid => exact assocGet_plotWrite fun hin => hj (htouched q.id j (by rw [hp, Option.map_some, beq_iff_eq.mp hid]) hin)
      next => rfl
  next => exact plotsKept_of_eq rfl touched

/-- Writes to the plot that a team holds touch their ranges of that plot. -/
theorem plotsKept_writePlots (fs : List (TRef × Nat × List Byte)) {touched : Nat → Nat → Prop}
    (htouched : ∀ n j, (s.plotOf team c).map (·.id) = some n → (∃ f ∈ fs, f.2.1 ≤ j ∧ j < f.2.1 + f.2.2.length) → touched n j) :
    PlotsKept s (fs.foldl (fun s f => writePlot s team c f.2.1 f.2.2) s) touched := by
  induction fs generalizing s with
  | nil => exact plotsKept_of_eq rfl touched
  | cons f fs ih =>
    have hfirst := plotsKept_writePlot s team c f.2.1 f.2.2 (touched := touched) fun n j hn hj => htouched n j hn ⟨f, List.mem_cons_self, hj⟩
    refine hfirst.trans (ih (writePlot s team c f.2.1 f.2.2) fun n j hn hj => ?_)
    obtain ⟨g, hg, hj⟩ := hj
    exact htouched n j ((plotOf_writePlot s team c f.2.1 f.2.2).symm.trans hn) ⟨g, List.mem_cons_of_mem _ hg, hj⟩

end

/-! ### What an instruction leaves as it was -/

/-- Nothing but what OnlyAccess names, and the bytes and poison of plots, has changed. -/
def OnlyIssued (s t : State) : Prop :=
  { t with mem := { t.mem with requests := s.mem.requests, results := s.mem.results, walks := s.mem.walks, plotPoison := s.mem.plotPoison }
           clk := s.clk, cores := s.cores, plots := s.plots } = s

theorem OnlyIssued.trans {s t u : State} (h₁ : OnlyIssued s t) (h₂ : OnlyIssued t u) : OnlyIssued s u :=
  (congrArg (fun w : State =>
    { w with mem := { w.mem with requests := s.mem.requests, results := s.mem.results, walks := s.mem.walks, plotPoison := s.mem.plotPoison }
             clk := s.clk, cores := s.cores, plots := s.plots }) h₂ :).trans h₁

theorem OnlyAccess.issued {s t : State} (h : OnlyAccess s t) : OnlyIssued s t :=
  (congrArg (fun w : State => { w with mem := { w.mem with plotPoison := s.mem.plotPoison }, plots := s.plots }) h :)

theorem onlyIssued_writePlot (s : State) (team : Nat) (c : CoreId) (o : Nat) (bs : List Byte) : OnlyIssued s (writePlot s team c o bs) := by
  unfold writePlot
  split <;> rfl

theorem onlyIssued_coverPlot (s : State) (team : Nat) (c : CoreId) (spans : List (Nat × Nat)) : OnlyIssued s (coverPlot s team c spans) := by
  unfold coverPlot
  split <;> rfl

theorem coverPlot_plots (s : State) (team : Nat) (c : CoreId) (spans : List (Nat × Nat)) : (coverPlot s team c spans).plots = s.plots := by
  unfold coverPlot
  split <;> rfl

/-- What an access leaves when it has issued: its threads have gone on, no byte of module memory has changed, and of the plots only the touched ones. -/
def AccessFrame (s t : State) (x : Fields) (act : List Thread) (touched : Nat → Nat → Prop) : Prop :=
  WentOn s t x act ∧ (∀ a, t.mem.mem.read a = s.mem.mem.read a) ∧ t.teams = s.teams ∧ t.ctxs = s.ctxs ∧ t.tile = s.tile ∧ t.groups = s.groups ∧ PlotsKept s t touched

theorem wentOn_of_threads {s t u : State} {x : Fields} {act : List Thread} (h : WentOn s t x act) (hthreads : u.threads = t.threads) : WentOn s u x act := by
  unfold WentOn at *
  rwa [hthreads]

theorem accessFrame_of_begun {s t : State} {x : Fields} {act : List Thread} {dst n : Nat} {touched : Nat → Nat → Prop}
    (h : OnlyIssued (begun s act (partOf x act) x dst n) t) (hplots : PlotsKept (begun s act (partOf x act) x dst n) t touched) : AccessFrame s t x act touched := by
  have hbegun := begun_frame s act (partOf x act) x dst n
  refine ⟨wentOn_of_threads (wentOn_begun s act x dst n) (congrArg State.threads h :), fun a => ?_, ?_, ?_, ?_, ?_, ?_⟩
  · exact (congrArg (fun u : State => u.mem.mem.read a) h :).trans (congrArg (fun u : State => u.mem.mem.read a) hbegun :)
  · exact (congrArg State.teams h :).trans (congrArg State.teams hbegun :)
  · exact (congrArg State.ctxs h :).trans (congrArg State.ctxs hbegun :)
  · exact (congrArg State.tile h :).trans (congrArg State.tile hbegun :)
  · exact (congrArg State.groups h :).trans (congrArg State.groups hbegun :)
  · unfold PlotsKept at hplots
    rwa [begun_plots] at hplots

/-- As accessFrame_of_begun, for an access that changes no plot. -/
theorem accessFrame_of_onlyAccess {s t : State} {x : Fields} {act : List Thread} {dst n : Nat} (h : OnlyAccess (begun s act (partOf x act) x dst n) t)
    (touched : Nat → Nat → Prop) : AccessFrame s t x act touched :=
  accessFrame_of_begun h.issued (plotsKept_of_eq (congrArg State.plots h :) touched)

section
variable {s : State} {opc size n : Nat} {x : Fields} {tm : Team} {sp : OpSpec} {h p : Thread} {rest ps : List Thread} {ws : List W32} {found : List Located}

theorem loadOp_frame (hgoes : Goes s opc x tm sp h rest) (hpart : partOf x (h :: rest) = p :: ps) (hclean : Clean (s.core p.ref.core))
    (hfound : ((p :: ps).map fun t => locate s tm x false size x.d.toNat (laneOf s sp x [] t) []) = found.map .ok)
    (hpoison : ∀ f ∈ plots found, poisonedPlot s tm.id p.ref.core f.2.1 size = false) (touched : Nat → Nat → Prop) :
    AccessFrame s (loadOp s opc x size n) x (h :: rest) touched := by
  obtain ⟨hglobal, hplot, hprivate⟩ := loadOp_located (n := n) hgoes hpart hfound
  have hcore : Clean ((begun s (h :: rest) (p :: ps) x x.d.toNat n).core p.ref.core) := by rwa [begun_core]
  rw [← hpart] at hglobal hplot hprivate hcore
  rcases Nat.lt_or_ge (OpTable.xf x 0 3) 2 with hspace | hspace
  · rcases Nat.lt_or_ge (OpTable.xf x 0 3) 1 with hspace' | hspace'
    · rw [hglobal (by omega)]
      exact accessFrame_of_onlyAccess (onlyAccess_loadGlobal hcore _) touched
    · rw [hplot (by omega) hpoison]
      exact accessFrame_of_onlyAccess (onlyAccess_addAccess ..) touched
  · rw [hprivate hspace]
    exact accessFrame_of_onlyAccess (onlyAccess_accessPrivate hcore _ _) touched

theorem storeOp_frame (hgoes : Goes s opc x tm sp h rest) (hpart : partOf x (h :: rest) = p :: ps) (hclean : Clean (s.core p.ref.core))
    (hconst : constOperand s tm { sp with b := .regs n } x = .words ws)
    (hfound : ((p :: ps).map fun t => locate s tm x true size 0 (laneOf s sp x [] t)
      ((if x.kw then ws.flatMap fun w => leBytes 4 w.toNat else regBytes s t x.b.toNat n).take size)) = found.map .ok) {touched : Nat → Nat → Prop}
    (htouched : ∀ k j, (s.plotOf tm.id p.ref.core).map (·.id) = some k → (∃ f ∈ plots found, f.2.1 ≤ j ∧ j < f.2.1 + f.2.2.length) → touched k j) :
    AccessFrame s (storeOp s opc x size n) x (h :: rest) touched := by
  obtain ⟨hglobal, hplot, hprivate⟩ := storeOp_located hgoes hpart hconst hfound
  have hcore : Clean ((begun s (h :: rest) (p :: ps) x 0 0).core p.ref.core) := by rwa [begun_core]
  rw [← hpart] at hglobal hplot hprivate hcore
  rcases Nat.lt_or_ge (OpTable.xf x 0 3) 2 with hspace | hspace
  · rcases Nat.lt_or_ge (OpTable.xf x 0 3) 1 with hspace' | hspace'
    · rw [hglobal (by omega)]
      exact accessFrame_of_onlyAccess (onlyAccess_storeGlobal hcore _) touched
    · rw [hplot (by omega)]
      have hwrites : ∀ (fs : List (TRef × Nat × List Byte)) (t : State), OnlyIssued t (fs.foldl (fun s f => writePlot s tm.id p.ref.core f.2.1 f.2.2) t) :=
        fun fs t => List.foldlRecOn fs _ (OnlyAccess.refl t).issued fun u hu f _ => hu.trans (onlyIssued_writePlot ..)
      refine accessFrame_of_begun (((hwrites _ _).trans (onlyIssued_coverPlot ..)).trans (onlyAccess_addAccess ..).issued) ?_
      refine (plotsKept_writePlots _ tm.id p.ref.core (plots found) fun k j hk hj => htouched k j (by rwa [plotOf_begun] at hk) hj).trans ?_
      exact plotsKept_of_eq (coverPlot_plots ..) touched
  · rw [hprivate hspace]
    exact accessFrame_of_onlyAccess (onlyAccess_accessPrivate hcore _ _) touched

end

/-- The bytes that a store to the plot of its lanes' team names, by plot and offset. -/
def storeTouches (i : Instr) (s : State) (tm : Team) (c : CoreId) (found : List Located) (k o : Nat) : Prop :=
  isLoad i = false ∧ (s.plotOf tm.id c).map (·.id) = some k ∧ ∃ f ∈ plots found, f.2.1 ≤ o ∧ o < f.2.1 + f.2.2.length

/-- Settles O60: the bytes of a write at its home (`read_performWrite`) and its frame (`onlyMemory_performWrite`); each space of a load or store changes what OnlyAccess names
(`loadOp_frame`, `storeOp_frame`), and a store to the plot the bytes that its lanes name. -/
theorem storeFrames : Obligations.StoreFrames := by
  unfold Obligations.StoreFrames
  refine ⟨?writes, ?accesses⟩
  case writes =>
    intro s pa ia bs tag hcanonical
    have hframe := onlyMemory_performWrite s pa ia bs tag
    refine ⟨fun a ha => ?_, fun a ha => ?_, (congrArg State.threads hframe :), (congrArg State.cores hframe :), (congrArg State.plots hframe :), (congrArg State.teams hframe :),
      (congrArg State.ctxs hframe :), (congrArg State.tile hframe :)⟩
    · rw [read_performWrite pa ia bs tag hcanonical, if_neg ha, read_bytesWritten pa ia bs hcanonical]
    · rw [read_performWrite pa ia bs tag hcanonical, if_pos ha, read_bytesWritten pa ia bs hcanonical]
  case accesses =>
    intro i opc size n x s tm sp h rest p ps ws found hshape hgoes hpart hclean hload hpoison hstore
    suffices hframe : ∃ t, exec i s = .next t ∧ AccessFrame s t x (h :: rest) (storeTouches i s tm p.ref.core found) from hframe
    cases i
    case ld | ldv =>
      cases hshape
      exact ⟨_, rfl, loadOp_frame hgoes hpart hclean (hload rfl) (hpoison rfl) _⟩
    case st | stv =>
      cases hshape
      obtain ⟨hconst, hfound⟩ := hstore rfl
      exact ⟨_, rfl, storeOp_frame hgoes hpart hclean hconst hfound fun k j hk hj => ⟨rfl, hk, hj⟩⟩
    all_goals exact nomatch hshape
end Sys2Proof.Proofs.Execution
end

section
/-! PROOFS. The move engines of the memory dies and the security block (O47). -/
namespace Sys2Proof.Proofs.Execution
open Sys2Proof Sys2Proof.Machine Sys2Proof.Claims

/-! ### MIGCTL and PROMCTL (R132, R133) -/

/-- The page and the frame in a memory die's migration registers. -/
def migPageOf (d : MemDie) : Nat := natField d.migPage.toNat 16 36 * 2 ^ 16
def migFrameOf (d : MemDie) : Nat := natField d.migFrame.toNat 16 22 * 2 ^ 16

section
variable {s : State} {k : Nat} {d : MemDie}

theorem exec_migctlStart (hk : k < 4) : exec (.migctlStart (k + 2)) s = .next (s.migStart k) :=
  congrArg _ (if_pos ⟨Nat.le_add_left 2 k, by omega⟩)

theorem exec_promctlPush (hk : k < 4) (v : W64) : exec (.promctlPush (k + 2) v) s = .next (s.memDieWrite k 0x205 v) :=
  congrArg _ (if_pos ⟨Nat.le_add_left 2 k, by omega⟩)

theorem migStart_elsewhere (hd : s.memDie k = some d) (hw : walkingDie (migPageOf d) ≠ k) : s.migStart k = migEnds s k 4 := by
  unfold State.migStart
  rw [hd]
  exact if_pos hw

theorem migStart_busy (hd : s.memDie k = some d) (hw : walkingDie (migPageOf d) = k) (hm : d.move.isSome = true) : s.migStart k = migEnds s k 3 := by
  unfold State.migStart
  rw [hd]
  exact (if_neg (not_not.2 hw)).trans (if_pos hm)

/-- What START does once the walking die is found and the engine is idle, by the entry of the page. -/
theorem migStart_idle (hd : s.memDie k = some d) (hw : walkingDie (migPageOf d) = k) (hm : d.move = none) {e : Option (Nat × Nat)}
    (he : (if inModule (migPageOf d) = true then s.smallEntry (migPageOf d) else none) = e) :
    s.migStart k = match (generalizing := false) e with
      | none => migEnds s k 1
      | some (at', v) => if (!(s.channelOn (State.channelOf (migFrameOf d)))) = true then migEnds s k 2
        else ((s.setEntry at' (v ||| 2 ^ 55)).updMemDie k fun d' =>
          { d' with status := 0, busy := true, bound := 0, move := some ⟨migPageOf d, migFrameOf d, natField v 16 22 * 2 ^ 16, none, 0, [], false, false, []⟩ }).after 1 (.migrationLineCopy (k + 2)) := by
  unfold State.migStart
  subst he
  rw [hd]
  refine (if_neg (not_not.2 hw)).trans ((if_neg (show ¬d.move.isSome = true by rw [hm]; exact Bool.false_ne_true)).trans ?_)
  rfl

theorem memDie_updMemDie_same (hd : s.memDie k = some d) (f : MemDie → MemDie) : (s.updMemDie k f).memDie k = some (f d) := by
  have h : s.mem.dies[k]? = some d := hd
  simp [State.memDie, State.updMemDie, modifyAt_eq_modify, h]

theorem memDie_updMemDie_other {j : Nat} (hj : j ≠ k) (f : MemDie → MemDie) : (s.updMemDie k f).memDie j = s.memDie j := by
  simp [State.memDie, State.updMemDie, modifyAt_eq_modify, hj.symm]

end

/-! ### One line (R133) -/

section
variable {s : State} {ia old new : Nat}

theorem moveSlice_memory : (s.moveSlice ia old new).mem.mem = s.mem.mem := by
  unfold State.moveSlice State.keepSlice State.raiseEvmax
  dsimp only
  split
  · split <;> rfl
  · split
    · rfl
    · split <;> rfl

theorem copyLine_memory : (s.copyLine ia old new).mem.mem = s.mem.mem.writeBytes new (s.readMem old 128) := by
  refine Eq.trans ?_ (moveSlice_memory (s := s.writeMem new (s.readMem old 128)) (ia := ia) (old := old) (new := new))
  unfold State.copyLine
  split <;> rfl

/-- The line's bytes stand at its new place; every other byte reads as before. -/
theorem read_copyLine (hs : Safety.MemoryCanonical s) (a : Nat) : (s.copyLine ia old new).mem.mem.read a =
    if new ≤ a ∧ a < new + 128 then s.mem.mem.read (old + (a - new)) else s.mem.mem.read a := by
  have hlen : (s.readMem old 128).length = 128 := by simp [State.readMem, Memory.readBytes]
  rw [copyLine_memory]
  split
  next h =>
    have hin : a - new < 128 := by omega
    rw [Memory.read_writeBytes hs, if_pos h.1]
    simp [State.readMem, Memory.readBytes, List.getD, hin]
  next h => exact Memory.read_writeBytes_outside hs _ (by rw [hlen]; omega)

/-- A lease is read from the lines that the slices hold and from EVMAX. -/
theorem leaseOf_congr {t : State} (hslices : t.mem.slices = s.mem.slices) (hev : t.mem.evmax = s.mem.evmax) (d ia : Nat) : t.leaseOf d ia = s.leaseOf d ia := by
  simp only [State.leaseOf, State.sliceLine, State.evmaxOf, hslices, hev]

theorem leaseOf_of_held {l : SliceLine} {d : Nat} (h : s.sliceLine d ia = some l) : s.leaseOf d ia = l.lease := by
  simp only [State.leaseOf, h]

theorem leaseOf_of_absent {d : Nat} (h : s.sliceLine d ia = none) : s.leaseOf d ia = s.evmaxOf d (homeSlice ia) := by
  simp only [State.leaseOf, h]

theorem sliceLine_keepSlice (l : SliceLine) (h : l.slice = homeSlice ia) (hl : l.line = lineOf ia) : (s.keepSlice l).sliceLine l.die ia = some l := by
  unfold State.keepSlice State.sliceLine
  dsimp only
  split <;> simp [h, hl]

theorem assocGet_assocSet_same {κ α : Type} [DecidableEq κ] (dflt : α) (k : κ) (v : α) (l : List (κ × α)) : assocGet dflt k (assocSet k v l) = v := by
  induction l with
  | nil => simp [assocSet, assocGet]
  | cons x xs ih =>
    by_cases hx : x.1 = k
    · simp [assocSet, assocGet, hx]
    · simp [assocSet, assocGet, hx, ih]

/-- The line that a slice holds with another frame: the frame takes no part in finding it. -/
theorem sliceLine_reframed {l : SliceLine} {d f : Nat} (h : s.sliceLine d ia = some l) :
    State.sliceLine { s with mem := { s.mem with slices := mapIf (fun x => x == l) (fun x => { x with frame := f }) s.mem.slices } } d ia = some { l with frame := f } := by
  have hl : s.mem.slices.find? (fun x => x.die == d && x.slice == homeSlice ia && x.line == lineOf ia) = some l := h
  have hmap := List.find?_map (f := fun x : SliceLine => if (x == l) = true then { x with frame := f } else x)
    (p := fun x : SliceLine => x.die == d && x.slice == homeSlice ia && x.line == lineOf ia) (l := s.mem.slices)
  have hsame : (fun x : SliceLine => x.die == d && x.slice == homeSlice ia && x.line == lineOf ia) ∘ (fun x : SliceLine => if (x == l) = true then { x with frame := f } else x) =
      fun x : SliceLine => x.die == d && x.slice == homeSlice ia && x.line == lineOf ia := by
    funext x
    by_cases hx : (x == l) = true <;> simp only [Function.comp, hx, if_true, if_false, Bool.false_eq_true]
  rw [hsame, hl] at hmap
  exact hmap.trans (by simp)

theorem evmaxOf_raiseEvmax (d slice lease : Nat) : (s.raiseEvmax d slice lease).evmaxOf d slice = max (s.evmaxOf d slice) lease :=
  assocGet_assocSet_same 0 (d, slice) _ _

/-- The lease that a line's old home granted passes to its new home (R133, R158). -/
theorem leaseOf_le_moveSlice (h : homeDie old = homeDie new ∨ s.sliceLine (homeDie new) ia = none) :
    s.leaseOf (homeDie old) ia ≤ (s.moveSlice ia old new).leaseOf (homeDie new) ia := by
  unfold State.moveSlice
  dsimp only
  cases hheld : s.sliceLine (homeDie old) ia with
  | none =>
    dsimp only
    by_cases hd : homeDie old = homeDie new
    · rw [if_pos hd, hd]
    · rw [if_neg hd, leaseOf_of_absent (s := s.raiseEvmax _ _ _) (h.resolve_left hd), evmaxOf_raiseEvmax]
      exact Nat.le_max_right _ _
  | some l =>
    dsimp only
    by_cases hd : homeDie old = homeDie new
    · rw [if_pos hd, ← hd, leaseOf_of_held hheld, leaseOf_of_held (sliceLine_reframed hheld)]
    · have hl := List.find?_some hheld
      simp only [Bool.and_eq_true, beq_iff_eq] at hl
      obtain ⟨⟨-, hslice⟩, hline⟩ := hl
      rw [if_neg hd]
      exact (Nat.le_max_left _ _).trans (leaseOf_of_held (sliceLine_keepSlice { l with die := homeDie new, lease := _, frame := _ } hslice hline)).ge

/-- Copying a line writes its bytes and its poison, and moves it between the slices. -/
theorem copyLine_slices : (s.copyLine ia old new).mem.slices = ((s.writeMem new (s.readMem old 128)).moveSlice ia old new).mem.slices := by
  unfold State.copyLine
  dsimp only
  split <;> rfl

theorem copyLine_evmax : (s.copyLine ia old new).mem.evmax = ((s.writeMem new (s.readMem old 128)).moveSlice ia old new).mem.evmax := by
  unfold State.copyLine
  dsimp only
  split <;> rfl

theorem leaseOf_le_copyLine (h : homeDie old = homeDie new ∨ s.sliceLine (homeDie new) ia = none) :
    s.leaseOf (homeDie old) ia ≤ (s.copyLine ia old new).leaseOf (homeDie new) ia := by
  have hwritten (bs : List Byte) : s.leaseOf (homeDie old) ia ≤ ((s.writeMem new bs).moveSlice ia old new).leaseOf (homeDie new) ia :=
    leaseOf_le_moveSlice (s := s.writeMem new bs) h
  rw [leaseOf_congr copyLine_slices copyLine_evmax]
  exact hwritten _

end

/-! ### The end of a page and the abandonment of a promotion (R133, R134) -/

section
variable {s : State} {k : Nat} {d : MemDie} {m : Move}

/-- The state in which the next line of a move is copied. -/
def lineCopied (s : State) (k : Nat) (d : MemDie) (m : Move) : State :=
  (s.copyLine (m.page + 128 * d.bound) (m.oldFrame + 128 * d.bound) (m.frame + 128 * d.bound)).updMemDie k fun d => { d with bound := d.bound + 1 }

theorem exec_migrationLineCopy (hd : s.memDie k = some d) (hm : d.move = some m) (hc : m.closing = false) (hb : d.bound < 512) :
    exec (.migrationLineCopy (k + 2)) s = .next (if d.bound = 511 then (lineCopied s k d m).pageCopied k m else (lineCopied s k d m).after 1 (.migrationLineCopy (k + 2))) := by
  have hk : dieOfSocket (k + 2) = k := Nat.add_sub_cancel k 2
  change execMigrationLineCopy (k + 2) s = _
  unfold execMigrationLineCopy
  rw [hk]
  dsimp only
  simp only [hd, hm, hc, Bool.false_eq_true, if_false]
  rw [if_neg (Nat.not_le.2 hb)]
  rfl

theorem pageCopied_of_migration (hp : m.promotion = none) :
    s.pageCopied k m = closes (s.changeEntry m.page fun e => entryWith e m.frame 0 0) k m.page (2 ^ 16) :=
  if_pos (by rw [hp]; rfl)

theorem exec_promotionAbandon (hd : s.memDie k = some d) (hm : d.move = some m) (hp : m.promotion.isSome = true) (ha : m.abandon = true) (hc : m.closing = false)
    (hb : d.bound = 512) : exec (.promotionAbandon (k + 2)) s = .next (s.abandon k m) := by
  have hk : dieOfSocket (k + 2) = k := Nat.add_sub_cancel k 2
  change execPromotionAbandon (k + 2) s = _
  unfold execPromotionAbandon
  rw [hk]
  dsimp only
  simp only [hd, hm, hp, ha, hc, hb, Bool.and_self, Bool.not_false, beq_self_eq_true, if_true]

end

/-! ### The begin of a promotion (R134) -/

/-- SIZE and the bits from MIG up to the state's are 0: setting MIG adds its bit. -/
theorem entryWith_mig {v : Nat} (hsize : natField v 61 2 = 0) (hmig : natField v 55 2 = 0) : entryWith v (entryFrame v) 0 1 = v + 2 ^ 55 := by
  unfold entryWith entryFrame
  simp only [natField, Nat.shiftRight_eq_div_pow] at *
  omega

section
variable {s : State} {k : Nat}

/-- The walks of a memory die read its SYSTAB and the tables only. -/
theorem smallEntry_updMemDie {f : MemDie → MemDie} (hf : ∀ d, (f d).systab = d.systab) (k ia : Nat) : (s.updMemDie k f).smallEntry ia = s.smallEntry ia := by
  have hroot (j : Nat) : ((s.updMemDie k f).memDie j).map (·.systab.toNat) = (s.memDie j).map (·.systab.toNat) := by
    simp only [State.memDie, State.updMemDie, modifyAt_eq_modify, List.getElem?_modify]
    cases s.mem.dies[j]? with
    | none => rfl
    | some d => by_cases hj : k = j <;> simp [hj, hf]
  have hwalk : (s.updMemDie k f).walk ia = s.walk ia := by
    unfold State.walk State.tableWalk
    rw [hroot]
    rfl
  have hentry : (s.updMemDie k f).entryAddress ia = s.entryAddress ia := by
    unfold State.entryAddress
    rw [hroot]
    rfl
  unfold State.smallEntry
  rw [hwalk, hentry]
  rfl

theorem smallEntry_size {ia at' v : Nat} (h : s.smallEntry ia = some (at', v)) : natField v 61 2 = 0 := by
  unfold State.smallEntry at h
  split at h
  · dsimp only at h
    split at h
    next hsize =>
      cases h
      exact hsize.2
    next => cases h
  · cases h

theorem eraseDups_of_const {α : Type} [BEq α] [LawfulBEq α] {a : α} : ∀ {l : List α}, l ≠ [] → (∀ x ∈ l, x = a) → l.eraseDups = [a]
  | [], h, _ => absurd rfl h
  | x :: xs, _, h => by
    have hx : x = a := h x List.mem_cons_self
    have hxs : xs.filter (fun b => !(b == a)) = [] := List.filter_eq_nil_iff.2 fun b hb => by simp [h b (List.mem_cons_of_mem _ hb)]
    subst hx
    rw [List.eraseDups_cons, hxs]
    rfl

/-- The entry of a page that a small one maps. -/
def smallValue (s : State) (page : Nat) : Nat := ((s.smallEntry page).map (·.2)).getD 0

/-- The values of the entries of a region that maps all its pages by themselves. -/
theorem smallEntries_filterMap {l : List Nat} (h : ∀ p ∈ l, ∃ e, s.smallEntry p = some e) :
    ((l.map s.smallEntry).filterMap fun e => e.map (·.2)) = l.map (smallValue s) := by
  rw [List.filterMap_map, List.filterMap_eq_map_iff_forall_eq_some]
  intro p hp
  obtain ⟨e, he⟩ := h p hp
  simp [smallValue, he]

theorem regionPages_of_region (region : Nat) : State.regionPages (region * 2 ^ 21) = (List.range 32).map fun j => region * 2 ^ 21 + j * 2 ^ 16 := by
  unfold State.regionPages
  rw [Nat.mul_div_cancel _ (Nat.two_pow_pos 21)]

theorem promotable_of_promotes {region f perms : Nat} {d : MemDie} (h : Promotes s k region f perms d) : promotable s k region = some f := by
  obtain ⟨hd, hen, hidle, hin, hmine, hentries, hframe⟩ := h
  have hpages : ∀ p ∈ State.regionPages (region * 2 ^ 21), ∃ e, s.smallEntry p = some e ∧ e.2.testBit 63 = true ∧ natField e.2 55 2 = 0 ∧ natField e.2 57 4 = perms ∧
      State.channelOf (entryFrame e.2) = State.channelOf f := by
    rw [regionPages_of_region]
    intro p hp
    obtain ⟨j, hj, rfl⟩ := List.mem_map.1 hp
    exact hentries j (List.mem_range.1 hj)
  have hvalue : ∀ v ∈ (State.regionPages (region * 2 ^ 21)).map (smallValue s), v.testBit 63 = true ∧ natField v 55 2 = 0 ∧ natField v 57 4 = perms ∧
      State.channelOf (entryFrame v) = State.channelOf f := by
    intro v hv
    obtain ⟨p, hp, rfl⟩ := List.mem_map.1 hv
    obtain ⟨e, he, hbits⟩ := hpages p hp
    simpa [smallValue, he] using hbits
  have hlength : ((State.regionPages (region * 2 ^ 21)).map (smallValue s)).length = 32 := by simp [State.regionPages]
  have hchans : (((State.regionPages (region * 2 ^ 21)).map (smallValue s)).map fun v => State.channelOf (entryFrame v)).eraseDups = [State.channelOf f] := by
    refine eraseDups_of_const (List.ne_nil_of_length_pos (by rw [List.length_map, hlength]; decide)) fun c hc => ?_
    obtain ⟨v, hv, rfl⟩ := List.mem_map.1 hc
    exact (hvalue v hv).2.2.2
  have hperms : (((State.regionPages (region * 2 ^ 21)).map (smallValue s)).map fun v => natField v 57 4).eraseDups = [perms] := by
    refine eraseDups_of_const (List.ne_nil_of_length_pos (by rw [List.length_map, hlength]; decide)) fun c hc => ?_
    obtain ⟨v, hv, rfl⟩ := List.mem_map.1 hc
    exact (hvalue v hv).2.2.1
  have hplain : (((State.regionPages (region * 2 ^ 21)).map (smallValue s)).all fun v => v.testBit 63 && natField v 55 2 == 0) = true := by
    rw [List.all_eq_true]
    intro v hv
    obtain ⟨hpresent, hmig, -, -⟩ := hvalue v hv
    rw [hpresent, hmig]
    rfl
  unfold promotable
  rw [hd]
  dsimp only
  rw [smallEntries_filterMap fun p hp => (hpages p hp).imp fun _ he => he.1, hchans, hperms, hplain, hlength, hen, hidle, hin, hmine]
  exact (if_neg (by simp)).trans hframe

end

/-- The engine turns to a page that is still mapped by itself: its entry's frame is the old one, its place in the region's frame the new one. -/
theorem promotePage_mapped {s : State} {k page frame at' v : Nat} {m : Move} (hpage : m.page / 2 ^ 21 * 2 ^ 21 + m.done.length * 2 ^ 16 = page)
    (hframe : m.target + m.done.length * 2 ^ 16 = frame) (h : s.smallEntry page = some (at', v)) :
    s.promotePage k m = ((s.setEntry at' (entryWith v (entryFrame v) 0 1)).updMemDie k fun d =>
      { d with bound := 0, move := some { m with page := page, oldFrame := entryFrame v, frame := frame } }).after 1 (.migrationLineCopy (k + 2)) := by
  unfold State.promotePage
  rw [hpage, hframe]
  dsimp only
  rw [h]

/-- A promotion that has still to turn to its region's first page. -/
def promotionFrom (region frame : Nat) : Move := ⟨region * 2 ^ 21, frame, 0, some region, frame, [], false, false, []⟩

/-- The pages of a region are named from its first one. -/
theorem firstPage_of_region (region : Nat) : region * 2 ^ 21 / 2 ^ 21 * 2 ^ 21 + ([] : List (Nat × Nat)).length * 2 ^ 16 = region * 2 ^ 21 := by
  rw [List.length_nil, Nat.zero_mul, Nat.add_zero, Nat.mul_div_cancel _ (Nat.two_pow_pos 21)]

theorem firstFrame_of_target (f : Nat) : f + ([] : List (Nat × Nat)).length * 2 ^ 16 = f := by rw [List.length_nil, Nat.zero_mul, Nat.add_zero]

theorem exec_promotionStart {s : State} {k region f perms at' v : Nat} {d : MemDie} (h : Promotes s k region f perms d) (he : s.smallEntry (region * 2 ^ 21) = some (at', v)) :
    exec (.promotionStart (k + 2) region) s = .next ((((s.updMemDie k fun d => { d with busy := true }).writeMem at' (leBytes 8 (v + 2 ^ 55))).updMemDie k fun d =>
      { d with bound := 0, move := some ⟨region * 2 ^ 21, f, natField v 16 22 * 2 ^ 16, some region, f, [], false, false, []⟩ }).after 1 (.migrationLineCopy (k + 2))) := by
  have hk : dieOfSocket (k + 2) = k := Nat.add_sub_cancel k 2
  obtain ⟨e, hfirst, -, hmig, -, -⟩ := h.entries 0 (by decide)
  rw [Nat.zero_mul, Nat.add_zero, he] at hfirst
  cases hfirst
  have hentry : (s.updMemDie k fun d => { d with busy := true }).smallEntry (region * 2 ^ 21) = some (at', v) :=
    (smallEntry_updMemDie (f := fun d => { d with busy := true }) (fun _ => rfl) k (region * 2 ^ 21)).trans he
  change execPromotionStart (k + 2) region s = _
  unfold execPromotionStart
  rw [hk]
  dsimp only
  rw [promotable_of_promotes h]
  refine congrArg Host.Outcome.next ((promotePage_mapped (m := promotionFrom region f) (firstPage_of_region region) (firstFrame_of_target f) hentry).trans ?_)
  rw [entryWith_mig (smallEntry_size he) hmig]
  rfl

/-! ### The security block (R441 to R443) -/

section
variable {s : State}

/-- Reporting a malformed entry emits at most a message: everything but what the device emits stays. -/
theorem reportMalformed_frame (s : State) (ctx ia n : Nat) : ∃ out, s.reportMalformed ctx ia n = { s with pkg := { s.pkg with out := out } } := by
  unfold State.reportMalformed
  dsimp only
  split
  · exact ⟨_, rfl⟩
  · exact ⟨s.pkg.out, rfl⟩

theorem secRefuses_of_report {i : Instr} {ctx ia n : Nat} (h : exec i s = .next ((s.reportMalformed ctx ia n).setSec 3)) : SecRefuses s i := by
  obtain ⟨out, hout⟩ := reportMalformed_frame s ctx ia n
  rw [hout] at h
  exact ⟨_, h, rfl, rfl, rfl, rfl, rfl, rfl, rfl⟩

theorem secBuffer_inside {n : Nat} (h : secAt s + n ≤ 2 ^ 51) : s.secBuffer n = some (secAt s) := if_pos h
theorem secBuffer_outside {n : Nat} (h : 2 ^ 51 < secAt s + n) : s.secBuffer n = none := if_neg (Nat.not_le.2 h)

end

section
variable {s : State} (hidle : s.pkg.secStat ≠ 1)
include hidle

theorem secExtend_outside {n : Nat} (h : 2 ^ 51 < secAt s + 32) : s.secExtend n = secState s 3 := by
  unfold State.secExtend
  rw [if_neg hidle, secBuffer_outside h]
  rfl

theorem secExtend_register {n : Nat} (h : n < 2 ∨ 8 ≤ n) : s.secExtend n = secState s 3 := by
  unfold State.secExtend
  rw [if_neg hidle]
  cases s.secBuffer 32 with
  | none => rfl
  | some _ => exact if_pos h

theorem secExtend_reads {n : Nat} (hin : secAt s + 32 ≤ 2 ^ 51) (hlo : 2 ≤ n) (hhi : n < 8) : s.secExtend n = match s.homeBytes .read (State.unitSpans (secAt s) 32) with
    | .error _ => (s.reportMalformed 0 (secAt s) 32).setSec 3
    | .ok (bs, s1) => { s1 with pkg := { s1.pkg with mr := modifyAt (fun m => Sha256.digest (m ++ bs)) n s1.pkg.mr, secStat := 2 } } := by
  unfold State.secExtend
  rw [if_neg hidle, secBuffer_inside hin]
  dsimp only
  rw [if_neg (by omega)]
  rfl

theorem secAttest_outside (h : 2 ^ 51 < secAt s + 704) : s.secAttest = secState s 3 := by
  unfold State.secAttest
  rw [if_neg hidle, secBuffer_outside h]
  rfl

theorem secAttest_reads (hin : secAt s + 704 ≤ 2 ^ 51) : s.secAttest = match s.homeBytes .read (State.unitSpans (secAt s) 32) with
    | .error _ => (s.reportMalformed 0 (secAt s) 32).setSec 3
    | .ok (bs, s1) => ({ s1 with pkg := { s1.pkg with secNonce := bs, secStat := 1 } } : State).after 1 .attestReportDone := by
  unfold State.secAttest
  rw [if_neg hidle, secBuffer_inside hin]
  rfl

end

/-- The signed part of a report (R443): the nonce, the measurements, the time and zeros. -/
def reportBody (s : State) : List Byte := s.pkg.secNonce ++ s.pkg.mr.flatten ++ leBytes 8 (s.chrono (State.dieUnit 0)) ++ List.replicate 24 0
/-- A report (R443): its body and the signature over it. -/
def attestReport (s : State) : List Byte := reportBody s ++ (List.range 384).map fun k => Config.identitySignature (reportBody s) k

section
variable {s : State} (hbusy : s.pkg.secStat = 1)
include hbusy

theorem exec_attestReportDone_outside (h : 2 ^ 51 < secAt s + 704) : exec .attestReportDone s = .next (secState s 3) := by
  change execAttestReportDone s = _
  unfold execAttestReportDone
  rw [if_neg (not_not.2 hbusy), secBuffer_outside h]
  rfl

theorem exec_attestReportDone_inside (hin : secAt s + 704 ≤ 2 ^ 51) : exec .attestReportDone s = .next (match s.homeWritable .write (State.unitSpans (secAt s) 704) with
    | some _ => (s.reportMalformed 0 (secAt s) 704).setSec 3
    | none => secState (s.homeWrite (secAt s) (attestReport s)).1 2) := by
  change execAttestReportDone s = _
  unfold execAttestReportDone
  rw [if_neg (not_not.2 hbusy), secBuffer_inside hin]
  rfl

end

/-- PROMCTL takes a frame of this die's enabled channels while it holds fewer than 15, and EN. -/
theorem promctlPush_takes {s : State} {k : Nat} {d : MemDie} (hd : s.memDie k = some d) (v : W64) :
    (s.memDieWrite k 0x205 v).memDie k = some { d with
      promEn := v.getLsbD 0
      frames := if natField v.toNat 21 17 * 2 ^ 21 ≠ 0 ∧ d.frames.length < 15 ∧ natField v.toNat 21 17 * 2 ^ 21 / 2 ^ 36 = k ∧ s.channelOn (State.channelOf (natField v.toNat 21 17 * 2 ^ 21)) = true
        then d.frames ++ [natField v.toNat 21 17 * 2 ^ 21] else d.frames } := by
  refine (memDie_updMemDie_same (memDie_updMemDie_same hd _) _).trans (congrArg some ?_)
  by_cases h : natField v.toNat 21 17 * 2 ^ 21 ≠ 0 ∧ d.frames.length < 15 ∧ natField v.toNat 21 17 * 2 ^ 21 / 2 ^ 36 = k ∧ s.channelOn (State.channelOf (natField v.toNat 21 17 * 2 ^ 21)) = true
  · obtain ⟨hframe, hroom, hdie, hon⟩ := id h
    rw [if_pos h, if_neg (by simp only [hon, not_or, Nat.not_le, not_not, Bool.not_true, Bool.false_eq_true, not_false_eq_true, and_true]; exact ⟨hframe, hroom, hdie⟩)]
  · rw [if_neg h, if_pos]
    by_contra hn
    simp only [not_or, Nat.not_le, not_not, Bool.not_eq_true', Bool.not_eq_false] at hn
    exact h hn

/-- Settles O47: every happening by the rule of its own operation. -/
theorem movesAndSecurity : Obligations.MovesAndSecurity := by
  unfold Obligations.MovesAndSecurity
  refine ⟨fun s k d hk hd => ⟨?elsewhere, ?busy, ?unmapped, ?begins, ?push, ?line, ?abandons⟩, fun s k region f perms d at' v _ hpromotes he => exec_promotionStart hpromotes he,
    fun s => ⟨?underWay, ?idle, ?report⟩⟩
  case elsewhere => exact fun hw => (exec_migctlStart hk).trans (congrArg _ (migStart_elsewhere hd hw))
  case busy => exact fun hw hm => (exec_migctlStart hk).trans (congrArg _ (migStart_busy hd hw hm))
  case unmapped =>
    intro hw hm hnone
    refine (exec_migctlStart hk).trans (congrArg _ (migStart_idle hd hw hm (e := none) ?_))
    rcases hnone with hout | hunmapped
    · exact if_neg (fun h => Bool.false_ne_true (hout.symm.trans h))
    · exact (ite_eq_right_iff).2 fun _ => hunmapped
  case begins =>
    intro at' v hw hm hin hentry
    have hstart := (exec_migctlStart hk).trans (congrArg Host.Outcome.next (migStart_idle hd hw hm ((if_pos hin).trans hentry)))
    refine ⟨fun hoff => hstart.trans (congrArg _ (if_pos ?_)), fun hon => hstart.trans (congrArg _ (if_neg ?_))⟩
    · exact congrArg not hoff
    · exact fun h => Bool.false_ne_true ((congrArg not hon).symm.trans h)
  case push =>
    intro v f
    exact ⟨_, exec_promctlPush hk v, fun j hj => (memDie_updMemDie_other hj _).trans (memDie_updMemDie_other hj _), rfl, promctlPush_takes hd v⟩
  case line =>
    intro m hm hc hb
    have hexec := exec_migrationLineCopy hd hm hc hb
    refine ⟨fun hs a => read_copyLine hs a, fun h => leaseOf_le_copyLine h, fun hlt => hexec.trans (congrArg _ (if_neg (Nat.ne_of_lt hlt))), fun hlast hp => ?_⟩
    exact hexec.trans (congrArg _ ((if_pos hlast).trans (pageCopied_of_migration hp)))
  case abandons => exact fun m hm hp ha hc hb => exec_promotionAbandon hd hm hp ha hc hb
  case underWay => exact fun hbusy => ⟨fun n => congrArg _ (if_pos hbusy), congrArg _ (if_pos hbusy)⟩
  case idle =>
    intro hidle
    refine ⟨fun n h => ?_, fun h => congrArg _ (secAttest_outside hidle h), fun n c hin hlo hhi hread => ?_, fun c hin hread => ?_, fun n bs s1 hin hlo hhi hread => ?_, fun bs s1 hin hread => ?_⟩
    · exact congrArg _ (h.elim (secExtend_outside hidle) (secExtend_register hidle))
    · exact secRefuses_of_report (congrArg _ ((secExtend_reads hidle hin hlo hhi).trans (by rw [hread])))
    · exact secRefuses_of_report (congrArg _ ((secAttest_reads hidle hin).trans (by rw [hread])))
    · exact congrArg _ ((secExtend_reads hidle hin hlo hhi).trans (by rw [hread]))
    · exact congrArg _ ((secAttest_reads hidle hin).trans (by rw [hread]))
  case report =>
    intro hbusy
    refine ⟨exec_attestReportDone_outside hbusy, fun c hin hrefused => ?_, fun hin hwritable => ?_⟩
    · exact secRefuses_of_report ((exec_attestReportDone_inside hbusy hin).trans (by rw [hrefused]))
    · exact (exec_attestReportDone_inside hbusy hin).trans (by rw [hwritable]; rfl)
end Sys2Proof.Proofs.Execution
end
